-- ==== Sys2Proof/Word.lean ====
section
/-! DEFINITION. The word types of the part: bytes, 32-bit Sorrel and vector lanes, 64-bit registers (R14). -/
namespace Sys2Proof

/-- One byte of memory, of tile SRAM or of a packet. -/
abbrev Byte := BitVec 8

/-- A 32-bit lane, an instruction word of a Sorrel unit, an FP32 pattern. -/
abbrev Word := BitVec 32

/-- A register, a descriptor word, a packet header word (R14: registers are 64-bit). -/
abbrev W64 := BitVec 64

/-- A sparse table: key and value pairs, keys strictly rising, no pair equal to what an unlisted key
reads as (the canonical form; `Tbl.wf` says it). -/
abbrev Tbl (V : Type) := List (Nat × V)

end Sys2Proof
end

