-- ==== Sys2Proof/Syntax.lean ====
section
/-! DEFINITION. The commands the part takes: one constructor of `Instr` per row of the table of operations and
events (opcode_table.json), with the operands that the row's requirement gives the operation. An event row (a
decode completing, a refresh falling due) is a command too: it is the moment at which the event happens, and its
operands name the object it happens to and carry what comes from outside the part (a sensor reading, a media error,
an arriving packet). -/
namespace Sys2Proof

/-- Who writes a register: the host over CXL.io, or the Uzoid core of a die (R53, R287, R487). -/
inductive Writer where
  | host
  | uzoid (die : Nat)
  deriving DecidableEq, Repr

/-- A register page: die, block code, instance (R45). -/
structure Page where
  die : Nat
  blk : Nat
  inst : Nat
  deriving DecidableEq, Repr

/-- A media error that has appeared in a stored sector: the part address of the sector divided by 64, and the
flipped bits of its 528 stored bits (0 to 511 data, 512 to 527 CRC; R104, R106). Outside input. -/
structure Flip where
  sector : Nat
  bits : List Nat
  deriving DecidableEq, Repr

/-- A request to a DRAM controller (R72): 1 to 32 sectors within one row. `data` is empty for a read; for a write it
holds one entry per byte, `none` where the byte is not enabled; `poison` holds one incoming mark per sector. -/
structure Req where
  src : Nat
  pa : Nat
  nsec : Nat
  write : Bool
  data : List (Option Byte)
  poison : List Bool
  tag : Nat
  bypass : Nat
  deriving DecidableEq, Repr

/-- A Vylith packet: the header fields of R417 and the payload. `vc` is the virtual channel it travels on and
`reserved` says that a reserved header field is set. -/
structure Pkt where
  typ : Nat
  dest : Nat
  src : Nat
  srcId : Nat
  hops : Nat
  cls : Nat
  pa : Nat
  tag : Nat
  len : Nat
  afmt : Nat
  piece : Nat
  value : Nat
  counter : Nat
  fenceNo : Nat
  status : Nat
  mgmtOp : Nat
  completes : Nat
  poison : List Bool
  payload : List Byte
  vc : Nat
  reserved : Bool
  deriving DecidableEq, Repr

/-- What a packet of the package fabric carries (R394): source die, payload, and a poison mark per 64 B of it. -/
structure FabLoad where
  src : Nat
  payload : List Byte
  poison : List Bool
  deriving DecidableEq, Repr

/-- A packet of the package fabric (R394): what it carries, and the die that it goes to. -/
structure FabPkt extends FabLoad where
  dest : Nat
  deriving DecidableEq, Repr

/-- A flit that a port receives: the control field that the peer sent (R409), and the bits of its codeword of 2,320 that arrive
flipped (R408), numbered body, control field, CRC, parity. -/
structure FlitRx where
  control : BitVec 40
  flips : List Nat
  deriving DecidableEq, Repr

/-- Operand fields of a Sorrel instruction word (R194), without its opcode. -/
structure SrlF where
  cls : BitVec 2
  cnd : BitVec 2
  d : BitVec 4
  a : BitVec 4
  b : BitVec 4
  c : BitVec 4
  m : BitVec 6
  deriving DecidableEq, Repr

/-- Register form of a vector instruction (R256), without its opcode. -/
structure VReg where
  vd : BitVec 5
  va : BitVec 5
  vb : BitVec 5
  vc : BitVec 5
  ty : BitVec 3
  s : Bool
  imm : Word
  deriving DecidableEq, Repr

/-- Memory form of a vector instruction (R256), without its opcode. -/
structure VMem where
  vd : BitVec 5
  ar : BitVec 2
  inc : Bool
  step : BitVec 12
  stride : BitVec 12
  off : BitVec 24
  deriving DecidableEq, Repr

/-- The engines of a tile that run long-word slots (R329). -/
inductive Eng where
  | mx | ve | dma | srl
  deriving DecidableEq, Repr

/-- What waits on a semaphore: an engine's stream or a DMA channel (R345, R319). -/
inductive Waiter where
  | engine (e : Eng)
  | channel (c : Nat)
  deriving DecidableEq, Repr

/-- A command access to a unit of a channel out of the memory mode (R164): its source, its place, the byte offset
within the 512 B space, the written bytes (`none` = not enabled) and the poison mark of each 32 B chunk. -/
structure CmdAt where
  src : Nat
  stack : Nat
  ch : Nat
  bank : Nat
  deriving DecidableEq, Repr

/-- What a training window found on one wire (R151, R152): the edges of the observed pass window in the read and in
the write direction, `none` where no point passed. Outside input. -/
structure WireWin where
  wire : Nat
  rd : Option (Nat × Nat)
  wr : Option (Nat × Nat)
  deriving DecidableEq, Repr

/-- What the compare unit counted on one wire of a helper run (R138): the mismatches of each point, in the order of the run. A
wire or a point that is not listed had none. Outside input. -/
structure WireRun where
  wire : Nat
  points : List Nat
  deriving DecidableEq, Repr

/-- What a helper run has done (R138): the points completed where it was aborted (R155), and what the wires counted. Outside input. -/
structure HelperRun where
  done : Nat
  wires : List WireRun
  deriving DecidableEq, Repr

/-- The distances from the main point at which the two shadows of a wire disagreed in a margin measurement (R147). Outside input. -/
structure ShadowReach where
  below : Nat
  above : Nat
  deriving DecidableEq, Repr

/-- A stack that has left self-refresh, and the pass windows that the TSV training of its gated core dies finds (R97, R144), by
channel × 16 + core die. Outside input. -/
structure SrExit where
  stack : Nat
  tsv : List (Nat × Option (Nat × Nat))
  deriving DecidableEq, Repr

/-- The pass windows of one direction of a wire in boot training (R141 steps 3 to 7): of the coarse read or write delay, of the
reference, of the fine delay, the width for each duty code from −8 on, and of the fine delay at the duty code kept. Outside
input. -/
structure DirTrain where
  coarse : Option (Nat × Nat)
  ref : Option (Nat × Nat)
  fine : Option (Nat × Nat)
  duty : List Nat
  again : Option (Nat × Nat)
  deriving DecidableEq, Repr

/-- What boot training saw on one data wire of a stack: wire is channel × 64 + wire. Outside input. -/
structure WireTrain where
  wire : Nat
  rd : DirTrain
  wr : DirTrain
  deriving DecidableEq, Repr

/-- What boot training of a stack saw (R141): the pass windows of the command wires (channel), of the data wires and of the TSV
bundles (channel × 16 + core die), and the wires on which the end-to-end check differed. A wire or bundle that is not listed
has wide windows centred on the reset codes. Outside input. -/
structure TrainOut where
  cmd : List (Nat × Option (Nat × Nat))
  wires : List WireTrain
  tsv : List (Nat × Option (Nat × Nat))
  check : List Nat
  deriving DecidableEq, Repr

/-- A firmware image's header as verification sees it (R496, R497): `failed` is the first failed check of R497,
counted from 1, or none. -/
structure FwImage where
  version : Word
  svn : Nat
  failed : Option Nat
  library : List (Nat × Nat × Nat)
  libVersion : Word
  libStore : List Byte
  imem : List Byte
  core : List Byte
  routines : List Byte
  deriving DecidableEq, Repr

/-- What the part finds at boot outside its own state (R493, R495, R504, R510). -/
structure BootIn where
  slotOk : Bool
  otherOk : Bool
  storeOk : Bool
  keyOk : Bool
  copyFail : Option Nat
  deriving DecidableEq, Repr

/-- Transfer FW actions (R499, CXL 3.1): initiate, continue, end. -/
inductive FwAct where
  | initiate | continue_ | end_ | full | abort_
  deriving DecidableEq, Repr

/-- SPDM requests that R505 supports, and any other. -/
inductive Spdm where
  | getVersion | getCapabilities | negotiateAlgorithms | getDigests | getCertificate (slot : Nat)
  | challenge | getMeasurements (index : Nat) | other
  deriving DecidableEq, Repr

/-- PLDM requests on the sideband (R522). -/
inductive Sideband where
  | monitoring | fru | other
  deriving DecidableEq, Repr

/-- Why main power is removed (R519). -/
inductive Removal where
  | undervoltage | pwrdis
  deriving DecidableEq, Repr

/-- The commands of the part: one constructor per row of the table, in the table's order. -/
inductive Instr where
  -- registers, interrupts
  | registerWrite (w : Writer) (off : Nat) (size : Nat) (v : Option W64)
  | w1cClear (w : Writer) (off : Nat) (v : W64)
  | ctrlReset (w : Writer) (p : Page)
  | ctrlFreeze (w : Writer) (p : Page) (on : Bool)
  | ctrlEnable (w : Writer) (p : Page) (on : Bool)
  | islandUngateDone (tile : Nat)
  | bwWrite (w : Writer) (off : Nat) (v : W64)
  | bwCommit
  | msixMessage (vec : Nat)
  -- DRAM controller
  | dramRequest (r : Req)
  | dramCommandIssue (stack ch : Nat) (ready : List (Nat × Nat)) (media : List Flip)
  | rowIdleClose (stack ch bank : Nat)
  | rowDecodeDone (stack ch bank : Nat)
  | parityRebuildDone (stack : Nat)
  | parityWriteback (stack ch line : Nat)
  | parityIdleTimeout (stack ch : Nat)
  | pcflush (w : Writer) (stack : Nat) (v : W64)
  | flushDone (stack : Nat)
  | refreshDue (stack ch : Nat)
  | refreshBurst (stack ch : Nat)
  | burstDone (stack ch : Nat)
  | tempSample (stack : Nat) (readings : List Nat)
  | rateCool (stack : Nat)
  | warnRearm (stack : Nat)
  | srEnter (w : Writer) (stack : Nat) (v : W64)
  | srHeld (stack : Nat)
  | srExit (w : Writer) (stack : Nat) (v : W64)
  | srReady (x : SrExit)
  | eccStrength (w : Writer) (stack : Nat) (v : W64)
  | reformatDone (stack : Nat)
  | fallowRow (w : Writer) (stack entry : Nat) (v : W64)
  | fallowBank (w : Writer) (stack n : Nat) (v : W64)
  | fallowCopyRow (stack : Nat)
  | fallowDone (stack : Nat)
  | tedderVisit (stack : Nat) (media : List Flip)
  | scrubLate (stack : Nat)
  | scrubPeriodWrite (w : Writer) (stack : Nat) (v : W64)
  -- training and Skylark
  | calTest (w : Writer) (stack : Nat) (v : W64)
  | calStart (w : Writer) (stack : Nat) (v : W64)
  | calAbort (w : Writer) (stack : Nat) (v : W64)
  | trainDone (stack : Nat) (run : HelperRun)
  | skylarkStep (stack ch wire : Nat) (wr : Bool) (below above : List Nat)
  | marginMeasure (stack ch wire : Nat) (reach : ShadowReach)
  | laneCeClear (stack : Nat)
  | windowWaitExpiry (stack ch : Nat)
  | windowDone (stack ch : Nat) (found : List WireWin)
  -- Sorrel modes and commanding
  | chmodeWrite (w : Writer) (stack ch : Nat) (v : W64)
  | modeProc (stack ch : Nat)
  | modeMem (stack ch : Nat)
  | programWrite (at_ : CmdAt) (off : Nat) (data : List (Option Byte))
  | swathCommandWrite (at_ : CmdAt) (off : Nat) (data : List (Option Byte))
  | swathLaunch (at_ : CmdAt) (word7 : W64)
  | sRegisterWrite (at_ : CmdAt) (off : Nat) (data : List (Option Byte))
  | operandWrite (at_ : CmdAt) (off : Nat) (data : List (Option Byte)) (poison : List Bool)
  | operandRead (at_ : CmdAt) (slot : Nat)
  | resultSlotRead (at_ : CmdAt) (slot : Nat)
  | unitStatusRead (at_ : CmdAt)
  | broadcastWrite (at_ : CmdAt) (mirror off : Nat) (data : List (Option Byte)) (poison : List Bool)
  | broadcastRead (at_ : CmdAt) (mirror slot : Nat)
  | swathStart (unit : Nat)
  | swathRowCommit (unit : Nat)
  | swathLimit (unit : Nat)
  | sorrelCorrectionDone (unit : Nat)
  | breather (stack ch : Nat)
  | breatherEnd (stack ch : Nat)
  | wrAccArrival (port : Nat) (p : Pkt)
  -- Sorrel instructions
  | srlNop (unit : Nat) (f : SrlF)
  | ld (unit : Nat) (f : SrlF) (media : List Flip)
  | st (unit : Nat) (f : SrlF)
  | sst (unit : Nat) (f : SrlF)
  | mov (unit : Nat) (f : SrlF)
  | sbc (unit : Nat) (f : SrlF)
  | sins (unit : Nat) (f : SrlF)
  | rdfl (unit : Nat) (f : SrlF)
  | add (unit : Nat) (f : SrlF)
  | sub (unit : Nat) (f : SrlF)
  | mul (unit : Nat) (f : SrlF)
  | fma (unit : Nat) (f : SrlF)
  | min (unit : Nat) (f : SrlF)
  | max (unit : Nat) (f : SrlF)
  | cmp (unit : Nat) (f : SrlF)
  | sel (unit : Nat) (f : SrlF)
  | rsq (unit : Nat) (f : SrlF)
  | cvt (unit : Nat) (f : SrlF)
  | red (unit : Nat) (f : SrlF)
  | post (unit : Nat) (f : SrlF)
  | seed (unit : Nat) (f : SrlF)
  | wsend (unit : Nat) (f : SrlF)
  | wrecv (unit : Nat) (f : SrlF)
  | wradd (unit : Nat) (f : SrlF)
  | wrTimeout (unit : Nat)
  | adamw (unit : Nat) (f : SrlF)
  | sgdm (unit : Nat) (f : SrlF)
  | accum (unit : Nat) (f : SrlF)
  | shadow (unit : Nat) (f : SrlF)
  | acci (unit : Nat)
  -- MX engine
  | mxNop (tile n : Nat)
  | mxWait (tile : Nat) (sem : BitVec 5) (k : BitVec 16)
  | mxSig (tile : Nat) (sem : BitVec 5) (v : BitVec 16)
  | mxLoop (tile : Nat) (count : Word)
  | mxEndloop (tile : Nat)
  | mxCfgLoad (tile : Nat) (slot : BitVec 3) (line : BitVec 16)
  | mxRun (tile : Nat) (slot : BitVec 3)
  | mxPassEnd (tile : Nat)
  | runDone (tile : Nat)
  | sramUe (tile word bits : Nat)
  -- vector engine
  | vnop (tile : Nat) (f : VReg)
  | vsetvl (tile : Nat) (f : VReg)
  | vsetctl (tile : Nat) (f : VReg)
  | vseta (tile : Nat) (f : VReg)
  | vadda (tile : Nat) (f : VReg)
  | vrdfl (tile : Nat) (f : VReg)
  | vclrfl (tile : Nat) (f : VReg)
  | vld (tile : Nat) (f : VMem)
  | vlds (tile : Nat) (f : VMem)
  | tld (tile : Nat) (f : VMem)
  | vst (tile : Nat) (f : VMem)
  | vsts (tile : Nat) (f : VMem)
  | tst (tile : Nat) (f : VMem)
  | vadd (tile : Nat) (f : VReg)
  | vsub (tile : Nat) (f : VReg)
  | vmul (tile : Nat) (f : VReg)
  | vfma (tile : Nat) (f : VReg)
  | vmin (tile : Nat) (f : VReg)
  | vmax (tile : Nat) (f : VReg)
  | vcmp (tile : Nat) (f : VReg)
  | vsel (tile : Nat) (f : VReg)
  | vand (tile : Nat) (f : VReg)
  | vor (tile : Nat) (f : VReg)
  | vxor (tile : Nat) (f : VReg)
  | vidx (tile : Nat) (f : VReg)
  | vmov (tile : Nat) (f : VReg)
  | vcvt (tile : Nat) (f : VReg)
  | vmxp (tile : Nat) (f : VReg)
  | vrcp (tile : Nat) (f : VReg)
  | vrsq (tile : Nat) (f : VReg)
  | vexp2 (tile : Nat) (f : VReg)
  | vlog2 (tile : Nat) (f : VReg)
  | vperm (tile : Nat) (f : VReg)
  | vred (tile : Nat) (f : VReg)
  | trow (tile : Nat) (f : VReg)
  | tcol (tile : Nat) (f : VReg)
  | vwait (tile : Nat) (f : VReg)
  | vsig (tile : Nat) (f : VReg)
  | veLoop (tile : Nat) (f : VReg)
  | veEndloop (tile : Nat) (f : VReg)
  | cwSoftmax (tile argLine : Nat)
  | cwLnorm (tile argLine : Nat)
  | cwRmsnorm (tile argLine : Nat)
  | engineRoutineDone (tile : Nat)
  | semaphoreWaitRelease (tile : Nat) (who : Waiter) (held : Nat)
  -- DMA channels
  | dmaStart (w : Writer) (tile ch : Nat) (v : W64)
  | programHeld (tile ch : Nat)
  | dmaEnd (tile ch : Nat)
  | dmaLoop (tile ch : Nat) (count : Word)
  | dmaEndloop (tile ch : Nat)
  | dmaWait (tile ch : Nat) (sem : BitVec 5) (k : BitVec 16)
  | signal (tile ch : Nat) (word : W64)
  | move (tile ch : Nat) (words : List W64)
  | dmaRequestDone (tile ch : Nat) (write : Bool)
  -- descriptors, allocations, owner tables
  | descCreate (w : Writer) (slot handle : Nat)
  | descDestroy (w : Writer) (slot handle : Nat)
  | alloc (w : Writer) (slot : Nat)
  | free (w : Writer) (slot : Nat)
  | publish (w : Writer) (table : Nat)
  | publishDone (table : Nat) (unreachable : Bool)
  | unpublish (w : Writer) (table : Nat)
  | svcModeWrite (w : Writer) (v : W64)
  -- sequencers
  | seqStart (w : Writer) (die : Nat) (v : W64)
  | seqStop (w : Writer) (die : Nat) (v : W64)
  | longWordFetch (die corrected : Nat) (uncorrectable : Bool)
  | longWordDelivery (die : Nat)
  | cnop (die : Nat)
  | align (die : Nat) (prime : BitVec 7)
  | alignRelease (tile : Nat)
  | tokw (die : Nat) (counter k : BitVec 12)
  | tokwRelease (die : Nat)
  | toks (die : Nat) (counter v : BitVec 12)
  | toksAdd (die : Nat)
  | call (die : Nat) (routine : BitVec 8)
  | ret (die : Nat)
  | ecall (die : Nat) (routine : BitVec 8) (argLine : BitVec 16)
  | mark (die : Nat) (marker : BitVec 16)
  | switch (die : Nat) (entry : BitVec 18)
  | seqEnd (die : Nat)
  | seqDrained (die : Nat)
  -- DMA slot
  | dstart (tile : Nat) (ch : BitVec 2)
  | drun (tile : Nat) (ch : BitVec 2) (slot : BitVec 3)
  | dmaCfgLoad (tile : Nat) (slot : BitVec 3) (line : BitVec 16)
  | dmaSlotNop (tile n : Nat)
  | dmaSlotWait (tile : Nat) (sem : BitVec 5) (k : BitVec 16)
  | dmaSlotSig (tile : Nat) (sem : BitVec 5) (v : BitVec 16)
  | dmaSlotLoop (tile : Nat) (count : BitVec 24)
  | dmaSlotEndloop (tile : Nat)
  -- SRL slot
  | srlCfgLoad (tile : Nat) (slot : BitVec 3) (line : BitVec 16)
  | srun (tile : Nat) (slot : BitVec 3)
  | swr (tile : Nat) (stack ch : BitVec 5) (pa : BitVec 9) (n : BitVec 5) (line : BitVec 16)
  | srd (tile : Nat) (stack ch : BitVec 5) (pa : BitVec 9) (n : BitVec 5) (line : BitVec 16)
  | swait (tile : Nat) (stack ch : BitVec 5) (slot : BitVec 3) (mask : BitVec 16)
  | srlSlotNop (tile n : Nat)
  | srlSlotWait (tile : Nat) (sem : BitVec 5) (k : BitVec 16)
  | srlSlotSig (tile : Nat) (sem : BitVec 5) (v : BitVec 16)
  | srlSlotLoop (tile : Nat) (count : Word)
  | srlSlotEndloop (tile : Nat)
  | asfPush (w : Writer) (tile : Nat) (v : W64)
  | asfWait (tile : Nat) (e : Eng)
  | semRegisterWrite (w : Writer) (tile j : Nat) (v : W64)
  | imemLoad (w : Writer) (die : Nat) (v : W64)
  | loadDone (die : Nat)
  | bankActiveWrite (w : Writer) (die : Nat) (v : W64)
  -- arbitration and fabric
  | arbitrationPhase (die inst : Nat) (requests : List Nat)
  | transferEnd (die inst : Nat)
  | arbPrioWrite (w : Writer) (die inst half : Nat) (v : W64)
  | cutoff (die inst : Nat)
  | offenceExpiry (die inst req : Nat)
  | isolClear (w : Writer) (die inst : Nat) (v : W64)
  | fabricPacket (die edge : Nat) (crcOk : Bool) (dest : Nat) (load : FabLoad)
  -- Vylith
  | flitReceive (port : Nat) (f : FlitRx)
  | nak (port ack : Nat)
  | replayTimeout (port : Nat)
  | eqReport (port : Nat) (codes : W64)
  | packetSend (port : Nat) (p : Pkt)
  | wr (port : Nat) (p : Pkt)
  | wrAcc (port : Nat) (p : Pkt)
  | rdReq (port : Nat) (p : Pkt)
  | rdRsp (port : Nat) (p : Pkt)
  | sig (port : Nat) (p : Pkt)
  | fence (port : Nat) (p : Pkt)
  | fenceRelease (port : Nat)
  | descReq (port : Nat) (p : Pkt)
  | descRsp (port : Nat) (p : Pkt)
  | release (port : Nat) (p : Pkt)
  | ping (port : Nat) (p : Pkt)
  | pong (port : Nat) (p : Pkt)
  | faultNote (port : Nat) (p : Pkt)
  | ident (port : Nat) (p : Pkt)
  | resetNote (port : Nat) (p : Pkt)
  | completionTimeout (port srcId tag : Nat)
  | vylRetrain (w : Writer) (port : Nat) (v : W64)
  | retrainDone (port : Nat) (half : Nat)
  | retrainTimeout (port : Nat)
  | laneLockLoss (port lane : Nat)
  | portRetry (port : Nat)
  | syncCounterWrite (w : Writer) (counter : Nat) (v : W64)
  | watchArm (w : Writer) (watch : Nat) (v : W64)
  | routeWrite (w : Writer) (d : Option Nat) (v : W64)
  -- CXL.mem and mailbox
  | memrd (dpa : Nat)
  | memwr (dpa : Nat) (data : List Byte) (poison : Bool)
  | memwrptl (dpa : Nat) (data : List (Option Byte)) (poison : Bool)
  | getEventRecords (max : Nat)
  | clearEventRecords (all : Bool) (handles : List Nat)
  | getEventInterruptPolicy
  | setEventInterruptPolicy (policy : W64)
  | getFwInfo
  | transferFw (act : FwAct) (slot : Nat) (img : FwImage)
  | activateFw (slot : Nat) (online : Bool)
  | getTimestamp
  | setTimestamp (t : W64)
  | getSupportedLogs
  | getLog (offset len : Nat)
  | identifyMemoryDevice
  | getHealthInfo
  | getPoisonList (dpa len : Nat)
  | injectPoison (dpa : Nat)
  | clearPoison (dpa : Nat) (data : List Byte)
  | getScanMediaCapabilities (dpa len : Nat)
  | scanMedia (dpa len : Nat)
  | scanMediaDone
  | getScanMediaResults
  | getReserved
  | getStackLog (stack index count : Nat)
  | getFaultRecord
  | functionLevelReset
  | hotReset
  | perstAssert
  | perstDeassert (b : BootIn)
  | stackTrained (stack : Nat) (res : TrainOut)
  | memoryActive
  | arbRaise
  | secArbWrite (w : Writer) (v : W64)
  | ownerCommit (w : Writer) (v : W64) (sigOk : Bool)
  | spdmRequest (r : Spdm)
  | cdatRequest
  -- ledger and planner
  | ledgerTick
  | railReport (die rail mA mV : Nat)
  | calibration (die : Nat)
  | ledgClassWrite (w : Writer) (v : W64)
  | ledgCeiling (w : Writer) (v : W64)
  | planSubmit (w : Writer)
  | planCancel (w : Writer)
  | planEnd
  | planOverrun
  -- faults and restart
  | faultEntry (die cause : Nat)
  | secondaryFault (die cause : Nat)
  | faultRecord
  | jobReset (w : Writer) (v : W64)
  | resetDone
  | checkpointFence (w : Writer) (v : W64)
  | fenceDone
  | fenceReleaseWrite (w : Writer) (v : W64)
  | wdogKick (w : Writer) (die : Nat) (v : W64)
  | wdogExpired (die : Nat)
  | fltAssert (w : Writer) (die : Nat) (v : W64)
  | recclr (w : Writer) (die : Nat) (v : W64)
  -- module
  | mainInputRemoval (why : Removal)
  | mainInputApplied (b : BootIn)
  | auxInputChange (on : Bool)
  | junctionProtection (die reading : Nat)
  | sidebandSensorReport (mainMv mainMa auxMv coolant : Nat) (junctions : List Nat)
  | sidebandRequest (r : Sideband)
  | windowPeriodElapsed (stack ch : Nat)
  | srlAccessCompletion (tile : Nat)
  | cxlLinkUp (width rate : Nat) (flit256 : Bool)
  | coreRestartDone (die : Nat) (copyOk : Bool)
  deriving DecidableEq, Repr

end Sys2Proof
end

