-- ==== Sys2Proof/Decode.lean ====
section
/-! DEFINITION. The command that a table word spells. -/
namespace Sys2Proof

/-- Every row of the table has an empty field list: its commands are not words, so no word spells one. -/
def decodeTableWord (_nbits _w : Nat) : Option Instr := none

end Sys2Proof
end

