-- ==== Sys2Proof/Config.lean ====
section
/-! DEFINITION. What the manual leaves open: the free values of the model. Each is opaque: nothing can be proved
about its value. -/
namespace Sys2Proof.Config

/-- A free 64-bit value, one for each time a value is drawn (`State.drawn` counts the draws): a register read before
its producer has finished (R273, R344), and the result of an operation for which the manual states no value. -/
opaque freeWord : Nat → W64

/-- The result of an operation that the manual bounds but does not fix (R197, R205, R261, R277), by the operation's
code and its operand; the model takes it only where it lies within the manual's bound. -/
opaque approx : Nat → Word → Word

/-- The Command Effects word of a mailbox opcode (R448), which the manual does not state. -/
opaque commandEffect : Nat → Nat

/-- Energy in fJ of a die in a microsecond that no event of the model counts (R458, R459): its static power, which depends on the
junction temperature in a way that the manual does not give, and its Uzoid instructions; by microsecond and die. -/
opaque dieEnergy : Nat → Nat → Nat

/-- The owner's signature over 64-bit words verifies under the key with a SHA-384 hash (R507): the hash's words, the signed words and
the signature's words. -/
opaque ownerSigned : List W64 → List W64 → List W64 → Bool

/-- SHA-384 of what a digest or measurement covers (R505): by measurement index (0: the certificate chain), of the words that the
model holds of it. -/
opaque sha384 : Nat → List W64 → List W64

/-- The sector of the system region, by 64 B from its start, at which the part keeps a table of its own (0: descriptors, by handle and
half; 1 + n: entries of owner table n, by entry / 8), which the manual places nowhere (R40). -/
opaque sysSector : Nat → Nat → Nat

end Sys2Proof.Config
end

