-- ==== Sys2Proof/Machine/Bits.lean ====
section
/-! DEFINITION. Bit fields (R12), register fields (R52, R56) and little-endian byte order (R14). -/
namespace Sys2Proof.Machine

/-- Bits [lo+wid-1:lo] of a number (R12). -/
def bits (v lo wid : Nat) : Nat := v / 2 ^ lo % 2 ^ wid

/-- Bit n of a number. -/
def bit (v n : Nat) : Bool := v / 2 ^ n % 2 = 1

/-- Bits [lo+wid-1:lo] of a register (R12). -/
def fld (v : W64) (lo wid : Nat) : Nat := bits v.toNat lo wid

/-- A register with bits [lo+wid-1:lo] replaced; a value wider than the field is cut to it. -/
def withFld (v : W64) (lo wid x : Nat) : W64 :=
  let m : W64 := (BitVec.allOnes 64 >>> (64 - wid)) <<< lo
  (v &&& ~~~ m) ||| ((BitVec.ofNat 64 (x % 2 ^ wid)) <<< lo)

/-- Bit n of a register. -/
def bitOf (v : W64) (n : Nat) : Bool := v.getLsbD n

/-- A register with bit n set. -/
def setBit (v : W64) (n : Nat) : W64 := v ||| BitVec.ofNat 64 (2 ^ n)

/-- A register with bit n cleared. -/
def clrBit (v : W64) (n : Nat) : W64 := v &&& ~~~ BitVec.ofNat 64 (2 ^ n)

/-- 1 for true. -/
def b2n (b : Bool) : Nat := if b then 1 else 0

/-- Two's complement reading of a field of `wid` bits. -/
def sgn (wid v : Nat) : Int := if v < 2 ^ (wid - 1) then (v : Int) else (v : Int) - (2 ^ wid : Nat)

/-- The field of `wid` bits that holds an integer in two's complement (wrapping). -/
def unsgn (wid : Nat) (i : Int) : Nat := (i % (2 ^ wid : Nat)).toNat

/-- Access types (R52). -/
inductive Acc where
  | ro | rw | w1c | wo | rws | bw
  deriving DecidableEq, Repr

/-- After fault column: kept, cleared to the reset value, or by the scope of the block (R46, R56). -/
inductive Keep where
  | kept | clear | scope
  deriving DecidableEq, Repr

/-- A register field of a field table: block code (0xff: the common header), offset of its register in the page,
number and stride of the registers of an indexed name, low bit, width, access type, reset value, after fault. -/
structure RegF where
  blk : Nat
  off : Nat
  cnt : Nat
  str : Nat
  lo : Nat
  wid : Nat
  acc : Acc
  rst : Nat
  keep : Keep
  deriving DecidableEq, Repr

/-- The number that bytes hold, the first the least significant (R14). -/
def leNat : List Byte → Nat
  | [] => 0
  | b :: r => b.toNat + 256 * leNat r

/-- The `n` bytes of a number, the least significant first (R14). -/
def leBytes : Nat → Nat → List Byte
  | 0, _ => []
  | n + 1, v => BitVec.ofNat 8 v :: leBytes n (v / 256)

/-- The bytes in groups of `n`. -/
def groups (n : Nat) : Nat → List Byte → List (List Byte)
  | 0, _ => []
  | k + 1, l => l.take n :: groups n k (l.drop n)

/-- The 64-bit words of a byte list (R14). -/
def leWords (l : List Byte) : List W64 :=
  (groups 8 ((l.length + 7) / 8) l).map (fun g => BitVec.ofNat 64 (leNat g))

/-- The 32-bit words of a byte list (R14). -/
def leWords32 (l : List Byte) : List Word :=
  (groups 4 ((l.length + 3) / 4) l).map (fun g => BitVec.ofNat 32 (leNat g))

/-- The bytes of 64-bit words (R14). -/
def wordBytes (l : List W64) : List Byte := l.flatMap (fun w => leBytes 8 w.toNat)

/-- The places of the ones among the `n` low bits of a number, rising. -/
def onesOf (n v : Nat) : List Nat := (List.range n).filter (bit v)

/-- The bits of a list of conditions, the first the lowest. -/
def bitMap (l : List Bool) : Nat := ((l.zip (List.range l.length)).map (fun p => if p.1 then 2 ^ p.2 else 0)).sum

end Sys2Proof.Machine
end

