-- ==== Sys2Proof/Machine/State.lean ====
section
/-! DEFINITION. The state of the part as plain data, the reasons a command can stop, and the state after reset.
Registers live in one sparse register file (`State.regs`, keyed by BAR0 offset); everything that no register shows
(queues, memories, unit and tile contents, tables, protocol state) stands in the structures below. A field that
the manual does not name is marked MODEL. -/
namespace Sys2Proof.Machine

/-- The members of the family (R1). -/
inductive Member where
  | zh8c | zh8a | zh4 | zh2
  deriving DecidableEq, Repr

/-- The machine stops with a fault. -/
inductive Fault where
  /-- An object that the part does not have (R7). No meaning raises it: a write of its registers is dropped and recorded (R47), and
  an event at it changes nothing (log 11). -/
  | absentObject
  deriving DecidableEq, Repr

/-- The command has no meaning in the model. -/
inductive Refusal where
  /-- Raised by an arm of the dispatcher for a command that is not modelled yet. Safe. -/
  | notModelled (mnemonic : String)
  deriving DecidableEq, Repr

/-! ## DRAM side -/

/-- A bank column as its controller sees it: request queue (R73), open row (R69), page predictor (R76), and the
request that a row decode is serving (R109). -/
structure Bank where
  queue : List Req := []
  openRow : Option Nat := none
  ctr : Nat := 2
  hist : List Bool := [true, true, true, true]
  lastRow : Option Nat := none
  corr : Option Req := none
  deriving DecidableEq, Repr

/-- A dirty line of a channel's parity cache: the data row whose slot it holds (R117). -/
structure Line where
  bank : Nat
  row : Nat
  deriving DecidableEq, Repr

/-- An access of the owner to a unit's command space (R164): bank, byte offset in the 2 KiB row, written bytes or the
length read, a poison mark per 32 B chunk of the run, what its completion carries back (the CXL address, the SRAM line
of a read), and the broadcast it is a part of (0: none; bank 16 + mirror stands for a broadcast read, R165). -/
structure Access where
  src : Nat
  bank : Nat
  off : Nat
  len : Nat
  write : Bool
  data : List (Option Byte)
  poison : List Bool
  tag : Nat
  grp : Nat
  deriving DecidableEq, Repr

/-- A channel: bank columns, scheduler rotation (R74), requests held at the intake under back-pressure (R73), parking
queue (R174) and how many of it the running breather has still to release (R175), owner accesses held at the intake
while ENTERING (R174: the first 64, the others under back-pressure; `grp` holds the row) and at the units (R170), owner in force
(R157; CHMODE.OWNER may be overwritten by the write that requests the exit), previous owners (R163), an exit that followed a fault (R159), whether PERIOD_MS runs since the
last window grant (R153), dirty parity lines oldest first (R118), whether the running burst has issued its refreshes (R86), and the
running breather with its start (R175): it runs on when an exit is requested; and what arrives from an isolated requester, requests
and command accesses, which waits for the end of its isolation (R392; `grp` holds the row). -/
structure Channel where
  banks : Tbl Bank := []
  rot : Nat := 15
  blocked : List Req := []
  parked : List Req := []
  toRelease : Nat := 0
  intake : List Access := []
  held : List Access := []
  owner : Nat := 0
  prevOwners : List Nat := []
  faultExit : Bool := false
  windowHold : Bool := false
  lines : List Line := []
  refreshed : Bool := false
  dueNow : Bool := false
  carry : Bool := false
  breath : Bool := false
  breatherUs : Nat := 0
  stalled : List (Req ⊕ Access) := []
  deriving DecidableEq, Repr

/-- One record of an error log or a trace (R129, R361): four words. -/
abbrev Rec4 := List W64

/-- One data wire of a channel (R136, R147, R148): codes, last margin, counters, the disagreement counts of the shadows below and
above the main point in each direction, those that are still in the base die (R145), and when each direction was compared
last (R146). -/
structure Wire where
  readDly : Nat := 64
  writeDly : Nat := 64
  readRef : Nat := 32
  writeRef : Nat := 32
  duty : Nat := 0
  margin : Nat := 0
  laneCe : Nat := 0
  steps : Nat := 0
  rdBelow : Nat := 0
  rdAbove : Nat := 0
  wrBelow : Nat := 0
  wrAbove : Nat := 0
  baseBelow : Nat := 0
  baseAbove : Nat := 0
  rdUs : Nat := 0
  wrUs : Nat := 0
  measured : Bool := false
  deriving DecidableEq, Repr

/-- A stack: whether every sample since the switch has read 80 °C or less (R91) and WARN − 5 °C or less (R92), the
warning armed, error log ring (R129), parity rebuild queue and every parity row that waits for its rebuild (R112), Tedder pass:
whether passes run, its start, the position and the moment from which its visits are spread, the positions skipped and
whether the last position is behind it (R127, R128), wires, TSV and command delays (R136), helper results (R138),
boot training: passed, failed, or done but for its last check (R141, R144), self-refresh (since when HELD, or leaving it) and
boot state, the Fallow entries whose copy runs or waits, oldest first, the next row of a bank-column copy (R133), the entries
whose rows are redirected (R131), the strength before a reformat whose flush still runs (R108), whether the flush of a
self-refresh entry has begun (R95), and an ABORT that waits for the current point (R155). -/
structure Stack where
  coolRun : Bool := false
  warnRun : Bool := false
  warnArmed : Bool := true
  log : Tbl Rec4 := []
  rebuild : List (Nat × Nat × Nat) := []
  lost : List (Nat × Nat × Nat) := []
  passOn : Bool := false
  passFrom : Nat := 0
  dueAt : Nat := 0
  dueUs : Nat := 0
  skipped : List Nat := []
  passEnd : Bool := false
  wires : Tbl Wire := []
  tsv : Tbl Nat := []
  cmdDly : Tbl Nat := []
  cmp : Tbl Nat := []
  sweep : Tbl (Nat × Nat × Bool) := []
  trained : Bool := false
  trainFailed : Bool := false
  coded : Bool := false
  bootHeld : Bool := false
  heldUs : Nat := 0
  copies : List Nat := []
  copyRow : Nat := 0
  redirected : List Nat := []
  oldStrength : Option Nat := none
  flushed : Bool := false
  aborting : Bool := false
  deriving DecidableEq, Repr

/-! ## Sorrel units -/

/-- A 32 B chunk with its poison mark (R123). -/
structure Chunk where
  data : BitVec 256 := 0
  poison : Bool := false
  deriving DecidableEq, Repr

/-- A result slot (R167). -/
structure Slot where
  data : Chunk := {}
  state : Nat := 0
  preempts : Nat := 0
  code : Nat := 0
  tag : Nat := 0
  deriving DecidableEq, Repr

/-- The payload that an accumulate swath adds into its row (R184, R210): destination byte of the row, payload format,
payload bytes, a poison mark per element, and the number of its packet. -/
structure AccJob where
  dst : Nat
  afmt : Nat
  bytes : List Byte
  poison : List Bool
  packet : Nat
  deriving DecidableEq, Repr

/-- A swath command (R166), or an accumulate swath (R184). -/
structure Swath where
  rowFirst : Nat
  rowCount : Nat
  rowStep : Nat
  colFirst : Nat
  colCount : Nat
  progStart : Nat
  progLen : Nat
  slot : Nat
  cool : Bool
  tag : Nat
  acc : Option AccJob
  deriving DecidableEq, Repr

/-- A running or paused swath: row index, chunk and word position in the body, the control word it started with
(R193), the column gap chosen at its start (R180), the preemption cause that will pause or
has paused it (R176), whether the breather that a pause waits for is over (R175), whether it declares the cool assumption still (R177), whether poison has bitten or the part has
faulted so that it stops at its row boundary (R183, R212), chunks a macro has read (R204), chunks stored in this visit
(what the row-parity accumulator holds the parity of, R187), those stored clean (R203), and whether poison has bitten (R212). -/
structure Running where
  sw : Swath
  rowIdx : Nat
  chunk : Nat
  pos : Nat
  s3 : W64
  gap : Nat
  cause : Nat
  paused : Bool
  ready : Bool
  preempts : Nat
  cool : Bool
  stop : Bool
  grp : Tbl Chunk
  stored : List Nat
  cleanStored : List Nat
  bitten : Bool := false
  deriving DecidableEq, Repr

/-- A Sorrel unit (R187); `wipe`: a CTRL.RESET of its page waits for the row boundary (R57). -/
structure Unit where
  v : Tbl Chunk := []
  s : Tbl W64 := []
  prog : Tbl Word := []
  slots : Tbl Slot := []
  post : Chunk := {}
  stage : Tbl Chunk := []
  fifoUp : List Chunk := []
  fifoDn : List Chunk := []
  flags : Nat := 0
  rng : W64 := 0
  cmd0 : W64 := 0
  cmd1 : W64 := 0
  run : Option Running := none
  queue : List Swath := []
  heldStart : Bool := false
  corr : Option Nat := none
  wipe : Bool := false
  deriving DecidableEq, Repr

/-! ## Tiles -/

/-- An entry of an engine's stream (R329): a slot word, an align entry, an engine-routine call. -/
inductive Entry where
  | slot (w : W64)
  | align (prime : Nat)
  | call (routine argLine : Nat)
  deriving DecidableEq, Repr

/-- An engine's stream (R332): queue, buffer, position in the buffer, open loops (start and rounds left, innermost
first), and what holds it. `wait` is a semaphore wait (sem, K); `atAlign` an align entry; `routine` a running engine
routine (argument line, status, rows completed); `swait` an SWAIT (stack, channel, slot, mask), and `swaitFrom` the number of the
last access sent before its first poll; `skip` a LOOP of count 0 whose ENDLOOP is not in the buffer yet; `sigs` the SIGs not yet
applied (sem, value, what they wait for); `clk` counts tc of issue, and `us` is the part time of the last issue; `given` and `gone`
count entries delivered and entries that have left the buffer; `stopped` by poison or a structure fault. -/
structure Stream where
  queue : List Entry := []
  buf : List Entry := []
  pc : Nat := 0
  loops : List (Nat × Nat) := []
  wait : Option (Nat × Nat) := none
  atAlign : Bool := false
  routine : Option (Nat × Nat × Nat) := none
  swait : Option (Nat × Nat × Nat × Nat) := none
  swaitFrom : Nat := 0
  skip : Bool := false
  sigs : List (Nat × Nat × List Nat) := []
  clk : Nat := 0
  us : Nat := 0
  given : Nat := 0
  gone : Nat := 0
  stopped : Bool := false
  deriving DecidableEq, Repr

/-- The vector engine's registers (R252): lanes keyed register × 64 + lane, poisoned 64 B units keyed register × 4 +
unit, VL, VCTL, address registers, flags; `ready` is the tc at which a lane holds its result, `fpend` the changes of flags
that complete later (2 × tc for a clear, 2 × tc + 1 for a set, with the bits), `rdfl` the VRDFLs that have not sampled yet
(tc and register), `lines` the SRAM lines that a store has not surely landed in (line, first and last tc of landing, the
old bytes and their mark; R272, R273). -/
structure VE where
  v : Tbl Word := []
  poison : List Nat := []
  vl : Nat := 64
  vctl : Word := 4
  a : Tbl Nat := []
  flags : Nat := 0
  ready : Tbl Nat := []
  fpend : List (Nat × Nat) := []
  rdfl : List (Nat × Nat) := []
  lines : List (Nat × Nat × Nat × List Byte × Bool) := []
  deriving DecidableEq, Repr

/-- A result that is not complete yet (R344): the engine that writes it, the SRAM line or (65536 + slot) the LCB slot, the tc of
the engine's stream at which it is complete, the part time of its issue, and whether a later SIG of the engine has been applied. -/
structure Soon where
  eng : Nat
  thing : Nat
  tc : Nat
  us : Nat
  told : Bool := false
  deriving DecidableEq, Repr

/-- An MX.RUN in progress (R366, R370): the latched slot, its number, passes ended, passes in all, the copies of the
descriptors it names in the order A, AS, B, BS, DST, DSTS, SVEC, BVEC, LOAD (R291), and the pass in the array: whether it
has started and the stream values popped for it (term and value, R376); the number of the run, whether a drain of it is in flight, the
SRAM lines that it writes, and the accumulator buffers that it has written (R344). -/
structure MxRun where
  slot : Nat
  words : List W64
  iter : Nat
  total : Nat
  descs : List (List W64)
  started : Bool
  popped : List (Nat × Int)
  no : Nat := 0
  draining : Bool := false
  lines : List Nat := []
  bufs : List Nat := []
  deriving DecidableEq, Repr

/-- An SRUN in progress (R375): its slot, the latched words, iterations done and in all, the access number of the launch
sent last. -/
structure SrlRun where
  slot : Nat
  words : List W64
  iter : Nat
  total : Nat
  last : Option Nat
  deriving DecidableEq, Repr

/-- An open loop of a DMA program (R318): word after the LOOP, rounds in all, round number. -/
structure DLoop where
  start : Nat
  count : Nat
  iter : Nat
  deriving DecidableEq, Repr

/-- A place that a MOVE reads or writes: `kind` 0 SRAM of tile `who`, 1 DRAM of this part, 2 DRAM of part `who`. -/
structure Loc where
  kind : Nat
  who : Nat
  addr : Nat
  deriving DecidableEq, Repr

/-- A piece of a MOVE (R311): `n` bits from bit `off` of a read, or FILL (pattern and width) where nothing is read (R282),
written from a bit address of a place on; `last`: no later piece goes on where it ends (R314). -/
structure Piece where
  off : Nat
  n : Nat
  fill : Option (Nat × Nat)
  dst : Loc
  last : Bool
  deriving DecidableEq, Repr

/-- A read request of a channel (R321) and what becomes of its data. `role`: 0 elements, 1 index elements (R312), 2 a byte that is
named in part (R314), 3 words of the program (R308). -/
structure DmaRead where
  tag : Nat
  role : Nat
  loc : Loc
  len : Nat
  pieces : List Piece
  deriving DecidableEq, Repr

/-- A write request of a MOVE (R321): `none` where the byte is not enabled (an accumulation has the source's bytes), a
poison mark per 64 B of the destination (per 64 B of payload for an accumulation). -/
structure DmaWrite where
  tag : Nat
  loc : Loc
  data : List (Option Byte)
  poison : List Bool
  deriving DecidableEq, Repr

/-- How the running MOVE writes: accumulating (R301) from element type `src` into `dst`, whether poison bites
(R269, R302), and the allocations whose descriptors it holds a copy of (R291). -/
structure MoveCtl where
  acc : Bool := false
  src : Nat := 0
  dst : Nat := 0
  bite : Bool := false
  holds : List Nat := []
  deriving DecidableEq, Repr

/-- Destination bytes on their way to whole access units (R314), from a place on, as value, named bits and poison mark; and
the bytes read for those that are named in part. -/
structure Assembly where
  start : Loc := ⟨0, 0, 0⟩
  bytes : List (Nat × Nat × Bool) := []
  old : List (Loc × Byte) := []
  deriving DecidableEq, Repr

/-- A MOVE that has started and whose last request is not issued: its words, the copies of SRC, DST and IDX (R291), the index
elements with their poison (R312), and whether its elements are placed. -/
structure MoveRun where
  words : List W64
  descs : List (List W64)
  idx : List (Int × Bool)
  begun : Bool
  deriving DecidableEq, Repr

/-- A DMA channel (R307, R308): the program it holds, where it lies and what is fetched of it with its poison, open loops
innermost first, the semaphore it waits for, the signal it still owes, the MOVE in progress, reads and writes not yet issued,
outstanding, and returned but not yet taken (R321), and the number of its next fence (R426). -/
structure DmaCh where
  prog : List W64 := []
  fetched : List (W64 × Bool) := []
  loops : List DLoop := []
  wait : Option (Nat × Nat) := none
  sig : Option W64 := none
  src : Nat := 0
  sram : Bool := false
  nextTag : Nat := 0
  ctl : MoveCtl := {}
  move : Option MoveRun := none
  asm : Assembly := {}
  rtodo : List DmaRead := []
  reads : List DmaRead := []
  rback : List (Nat × List Byte × List Bool) := []
  wtodo : List DmaWrite := []
  writes : List Nat := []
  wback : List Nat := []
  fenceNo : Nat := 0
  deriving DecidableEq, Repr

/-- A tile (R219): SRAM bytes and poisoned 64 B units (R224), accumulators keyed buffer × 8192 + 64 m + n with
their poison marks (R226, R238), vector engine, streams, the MX run that has passes to make and those before it whose last line is
not written, oldest first, with the number of runs, DMA channels, address stream (R376) with the Uzoid stores
held at a full FIFO (R377), SRUN, SRL accesses outstanding by number, those among them that are not the last launch of their
SRUN, and those returned but not yet taken, with the number and SRAM line (or what the access was for), data and poison of a
read (R337), and the lines that each SRD outstanding writes (number, first line, lines); the zeroing after an ungating (R227), the
island gated, LCB slots latched by RUNs (R380), DMA channels that the slot stream's instructions wait for, the stream entry that
started a variable work (engine, work, entry; R347), results of fixed latency that are not complete (R344), and the routine store
with its poison (R350). -/
structure Tile where
  sram : List Host.Cell := []
  spoison : List Nat := []
  acc : Tbl Word := []
  accPoison : List Nat := []
  ve : VE := {}
  mx : Stream := {}
  ves : Stream := {}
  dmas : Stream := {}
  srl : Stream := {}
  run : Option MxRun := none
  ended : List MxRun := []
  runNo : Nat := 0
  dma : Tbl DmaCh := []
  asf : List W64 := []
  asfHeld : List W64 := []
  srun : Option SrlRun := none
  srlOut : List Nat := []
  srlSeq : Nat := 0
  srlMid : List Nat := []
  srlBack : List (Nat × List Byte × List Bool) := []
  zeroing : Bool := false
  gated : Bool := true
  lcbLatched : List Nat := []
  drun : List (Nat × Nat) := []
  ords : List (Nat × Nat × Nat) := []
  srdLines : List (Nat × Nat × Nat) := []
  soon : List Soon := []
  store : List Byte := []
  storePz : Bool := false
  deriving DecidableEq, Repr

/-! ## Uzoid cores -/

/-- The Uzoid core of a die (R25): its 128 KiB instruction and 256 KiB data SRAM, the registers of RV64IMAC (x1 to x31, pc, the
reservation of its load-reserved), and the copy of its firmware that boot verified (R493, R500). -/
structure Uzoid where
  iram : List Host.Cell := []
  dram : List Host.Cell := []
  x : Tbl W64 := []
  pc : W64 := 0
  resv : Option W64 := none
  copy : List Byte := []
  deriving DecidableEq, Repr

/-! ## Sequencers -/

/-- A long word as fetched (R328): CTL word, and the engine slots it carries. In a FIFO the CTL word stands for the entry it
places (ALIGN, ECALL). -/
structure LongWord where
  ctl : Option Word
  mx : Option W64
  ve : Option W64
  dma : Option Word
  srl : Option W64
  deriving DecidableEq, Repr

/-- A die sequencer: the long word whose CTL operation is still to be performed, the FIFO, the call stack (return
address in 16-bit units, in library), the TOKW it holds for, the TOKS adds in flight (counter, value, and for each tile and
engine the entries delivered before it), a SWITCH waiting for a load (its entry), whether FREEZE or a fence holds the fetch, a cut
that the fetch has reached, a MARK of the cut marker seen, whether the next fetch address lies beyond the 18 bits of STAT.PC, the source, bank, offset and length of an IMEM load in progress,
and the trace ring (R361). -/
structure Seq where
  cur : Option LongWord := none
  fifo : List LongWord := []
  calls : List (Nat × Bool) := []
  tokw : Option (Nat × Nat) := none
  toks : List (Nat × Nat × List Nat) := []
  switchTo : Option Nat := none
  fenceHold : Bool := false
  cutting : Bool := false
  sawMark : Bool := false
  beyond : Bool := false
  load : Option (Nat × Nat × Nat × Nat) := none
  trace : Tbl Rec4 := []
  deriving DecidableEq, Repr

/-! ## Tables -/

/-- An allocation entry (R286). -/
structure AllocE where
  valid : Bool := false
  kind : Nat := 0
  tile : Nat := 0
  refs : Nat := 0
  base : Nat := 0
  size : Nat := 0
  gen : Nat := 0
  deriving DecidableEq, Repr

/-- An owner table (R292, R294, R306): its registers, its entries, what peers answered (entry, words 0, 1 and 6 to
11 of the peer's descriptor), the entries still to be answered, the code and entry that a running publication will end with, and
whether its entries are still being fetched. -/
structure OTab where
  state : Nat := 0
  cfg : W64 := 0
  block : Tbl W64 := []
  grid : Tbl W64 := []
  src : W64 := 0
  entries : List W64 := []
  remote : List (Nat × List W64) := []
  waiting : List Nat := []
  code : Nat := 0
  failed : Nat := 0
  crc : Nat := 0
  pairs : Nat := 0
  endCode : Nat := 0
  endAt : Nat := 0
  fetching : Bool := false
  deriving DecidableEq, Repr

/-- A fetch of a control path (R41, R42): who fetches (0 the planner, 1 + n the PUBLISH of table n, 64 + d the load of die d's
instruction memory), bytes from a part address on, its number, sectors still to come, and the pieces that have come. -/
structure Fetch where
  user : Nat
  pa : Nat
  n : Nat
  no : Nat
  left : Nat
  got : List (Nat × List Byte × List Bool)
  deriving DecidableEq, Repr

/-! ## Arbiters, fabric, links -/

/-- An arbiter (R384, R386, R392): pass counts, the order in which waiters reached the limit, the requester last granted,
the winner of the phase that overlaps the running transfer, the moments of each requester's offences. -/
structure Arb where
  pass : Tbl Nat := []
  limit : List Nat := []
  last : Nat := 0
  next : Option Nat := none
  offences : Tbl (List Nat) := []
  deriving DecidableEq, Repr

/-- A Vylith port (R410, R413, R426, R433, R434): next sequence number expected and to send, whether the receiver
discards until a resend, flits kept for replay oldest first, flits of credit used per VC and class (key 2 × VC +
class), the run of failures (R411), the packets in the loopback (R423; keys 16 + die only), the FENCE that holds the
REQ channel, the packets it waits for once both headers are in, the ACC headers seen, the packets held in the ingress (R415), whether
REQ, RSP and ACC are discarded until the peer's RESET_NOTE, and the width asked for by a retraining. -/
structure Port where
  rxSeq : Nat := 0
  txSeq : Nat := 0
  discarding : Bool := false
  replay : List Nat := []
  used : Tbl Nat := []
  failRun : Nat := 0
  replaying : Bool := false
  loop : List Pkt := []
  fence : Option (Nat × Nat × Nat) := none
  fenceWait : Option (List Nat) := none
  fenceAcc : List (Nat × Nat × Nat) := []
  held : List Pkt := []
  discard : Bool := false
  half : Nat := 0
  deriving DecidableEq, Repr

/-- One direction of a fabric edge, by the die that receives (R396): failures in a run, and the packet that failed, which waits in the
sender's retry buffer. -/
structure FabEdge where
  fails : Nat := 0
  held : Option FabPkt := none
  deriving DecidableEq, Repr

/-- A request sent to a peer and not answered (R431): source identifier, tag, port, type, when it was sent, and the
tags and lengths of the requests merged into it (R418). -/
structure OutReq where
  srcId : Nat
  tag : Nat
  port : Nat
  typ : Nat
  since : Nat
  parts : List (Nat × Nat)
  deriving DecidableEq, Repr

/-- A packet whose requests or swaths are not all performed (R420, R426): sender, source identifier, tag, port, type,
address and length, requests left, read data returned so far, and the status a refusal leaves. -/
structure InPkt where
  id : Nat
  part : Nat
  srcId : Nat
  tag : Nat
  port : Nat
  typ : Nat
  pa : Nat
  len : Nat
  left : Nat
  got : List (Nat × List Byte × List Bool)
  status : Nat
  deriving DecidableEq, Repr

/-! ## CXL, planner, faults, security -/

/-- A CXL event record (R449): handle, kind, the address or stack it names, a flag, and the part time. -/
structure EvRec where
  handle : Nat
  kind : Nat
  arg : Nat
  corrected : Bool
  us : Nat
  deriving DecidableEq, Repr

/-- CXL core and mailbox (R439 to R455): event records and the next handle, event interrupt policy (the mode of each of the
four logs in bits [1:0] of its byte), time set and when, sectors poisoned by Inject Poison, the range that a Scan
Media reads and the UE records of the last one, a completion signalled, whether the mailbox accepts commands, firmware slots (keys
0 and 1) and the slot a Transfer FW writes. -/
structure Cxl where
  events : List EvRec := []
  nextHandle : Nat := 1
  policy : W64 := 0x01010101
  stampBase : W64 := 0
  stampUs : Nat := 0
  injected : List Nat := []
  scan : Option (Nat × Nat) := none
  scanFound : List Rec4 := []
  mboxDone : Bool := false
  configReady : Bool := false
  slots : Tbl (Option FwImage) := []
  transfer : Option Nat := none
  unsent : List (Bool × Nat × List Byte × Bool) := []
  deriving DecidableEq, Repr

/-- An armed or running plan (R466, R469), and whether what ends it has happened (R471). -/
structure Plan where
  id : Nat
  cool : Bool
  endByMark : Bool
  endMarker : Nat
  deadline : Nat
  worst : Nat
  pred : Nat
  best : Nat
  stackMask : Nat
  ended : Bool := false
  deriving DecidableEq, Repr

/-- A fault cause on its way to die 0 (R479, R480). -/
structure Cause where
  cause : Nat
  die : Nat
  blk : Nat
  inst : Nat
  code : Nat
  tag : Nat
  deriving DecidableEq, Repr

/-- A bounded-write commit waiting for the flash (R509): register offset, setting, stack, entry, new value, writer,
arrival, and the owner-key hash staged with it. -/
structure BwPend where
  off : Nat
  id : Nat
  stack : Nat
  entry : Nat
  value : W64
  writer : Nat
  us : Nat
  hash : List W64
  deriving DecidableEq, Repr

/-- The module flash (R491, R502, R508, R511): committed bounded-write registers, counts used per setting, log records,
owner key, slot to boot, serial number, identity records, certificate chain. -/
structure Flash where
  store : Tbl W64 := []
  used : Tbl Nat := []
  log : List (List W64) := []
  owner : List W64 := []
  activated : Nat := 0
  serial : W64 := 0
  ident : Tbl Rec4 := []
  chain : List W64 := []
  deriving DecidableEq, Repr

/-- The module's inputs (R519, R521): main input in range, auxiliary input in range, PWRDIS, PERST# asserted, when the wait of
R498 began, and the dies whose junction made the module remove main power, as its controller's event log holds them (R526). -/
structure Module where
  mainOn : Bool := true
  auxOn : Bool := true
  pwrdis : Bool := false
  perst : Bool := true
  sinceBoot : Nat := 0
  protectedBy : List Nat := []
  readings : List (Option Nat) := []
  deriving DecidableEq, Repr

/-- The ledger's parts no register shows (R458 to R463): energy in fJ per page, energy since the last tick, the sub-µJ rest of
the balance, energy since the last whole ms, rail measurements and estimates in fJ and drifting intervals by die × 8 + rail, announced
cap changes that wait (stack, tightened or released), and the stacks whose cap change is applied. -/
structure Ledger where
  tap : Tbl Nat := []
  tickFj : Nat := 0
  restFj : Nat := 0
  msFj : Nat := 0
  railMeas : Tbl Nat := []
  railEst : Tbl Nat := []
  drift : Tbl Nat := []
  announceCap : List (Nat × Bool) := []
  tight : List Nat := []
  deriving DecidableEq, Repr

/-- What the part sends out: completions and read data, interrupt messages, packets, mailbox and sideband answers,
control outputs. MODEL: the trace of outputs, oldest first. -/
inductive Out where
  | regRead (off : Nat) (v : W64)
  | readData (src tag : Nat) (data : List Byte) (poison : List Bool)
  | writeDone (src tag : Nat)
  | cmdData (src : Nat) (data : List Byte) (poison : List Bool)
  | msix (vec : Nat)
  | packet (port : Nat) (p : Pkt)
  | credit (port vc cls flits : Nat)
  | flitNak (port ack : Nat)
  | flitResend (port from_ : Nat)
  | fabricResend (die edge : Nat)
  | cxlRead (dpa : Nat) (data : List Byte) (poison : Bool)
  | cxlWrite (dpa : Nat)
  | mbox (rc : Nat) (words : List Nat)
  | spdm (kind : Nat) (signed : Bool) (words : List W64)
  | cdat (entries : List (Nat × Nat))
  | sensors (values : List (Option Nat))
  | pldmEvent (kind : Nat)
  | fru (member : Nat) (serial : W64) (version : Nat)
  | pwrOk (on : Bool)
  | fabric (die : Nat) (p : FabPkt)
  | helper (stack channels : Nat) (words : List W64)
  deriving DecidableEq, Repr

/-- The state of the part. -/
structure State where
  /-- MODEL: the commands that are waiting, first in, first out. -/
  pending : List Instr
  /-- Which member of the family (R1, R8). -/
  member : Member
  /-- The register file, keyed by BAR0 offset; an unlisted register reads its reset value (R56 and the tables). -/
  regs : Tbl W64
  /-- Pages whose CTRL.ENABLE software has cleared (R528), by page base. -/
  disabled : List Nat
  /-- Whether firmware has set CTRL.ENABLE on the pages (R56). -/
  enabled : Bool
  /-- Vectors whose message has been sent, or pends behind a mask, for the condition that holds now (R66); the vectors masked, those
  whose message pends, address and data words of the MSI-X table by its 32-bit word, and the function mask (R65). -/
  vecSent : List Nat
  vecMask : List Nat
  vecPend : List Nat
  vecTable : Tbl Nat
  funcMask : Bool
  /-- DRAM contents by part address, poisoned sectors by address / 64, media errors per sector, symbol errors per
  parity slot by row address / 2048. -/
  mem : List Host.Cell
  poison : List Nat
  flips : Tbl (List Nat)
  slotErrs : Tbl (List Nat)
  /-- Channels by stack × 32 + channel, stacks, units by unit number (R11). -/
  chans : Tbl Channel
  stackTab : Tbl Stack
  units : Tbl Unit
  /-- Tiles by global number, sequencers by die, instruction memories by die × 2^20 + bank × 2^19 + byte, library
  store, and the engine routines that LIB writes into the tiles (R350). -/
  tiles : Tbl Tile
  seqs : Tbl Seq
  imem : List Host.Cell
  lib : List Host.Cell
  routines : List Byte
  /-- Descriptors by handle (16 words, none listed for an invalid handle that was never created), allocations,
  owner tables. -/
  descs : Tbl (List W64)
  allocs : Tbl AllocE
  otabs : Tbl OTab
  /-- Commands that wait on the DESC page (slot, OP, handle) and on the ALLOC page (slot), in the order they came (R290, R305). -/
  descQ : List (Nat × Nat × Nat)
  allocQ : List Nat
  /-- Fetches of the control paths, and the number of the next one. -/
  fetches : List Fetch
  nextFetch : Nat
  /-- Arbiters by die × 256 + instance, fabric edges by die × 4 + edge, ports, sync counters (R427). -/
  arbs : Tbl Arb
  edges : Tbl FabEdge
  ports : Tbl Port
  sync : Tbl Word
  outReqs : List OutReq
  inPkts : List InPkt
  nextIn : Nat
  /-- Packets formed and not yet copied into a transmit buffer (R390, R418), with the die that looks them up, or 32 + port
  for a link-local packet. -/
  egress : List (Nat × Pkt)
  cxl : Cxl
  armed : Option Plan
  running : Option Plan
  ledger : Ledger
  /-- Fault causes raised and not yet at die 0, entries to FAULTED since power-up (R485), the record of the entry before it is
  valid, history of records, CLEAR_DESC of the job reset that runs, whether the fence's flush has begun (R488), when each watchdog was kicked last. -/
  causes : List Cause
  entries : Nat
  entry : Option (List W64)
  history : Tbl (List W64)
  clearDesc : Bool
  fenceFlushed : Bool
  kicks : Tbl Nat
  /-- Uzoid cores by die; those that restart (die), or stay stopped until PERST# (die + 8; R486, R500). -/
  uzoids : Tbl Uzoid
  restarting : List Nat
  bwq : List BwPend
  flash : Flash
  board : Module
  /-- Part time in µs since power-up (R129, R485). -/
  us : Nat
  /-- MODEL: how many free values have been drawn (`Config.freeWord`). -/
  drawn : Nat
  /-- MODEL: outputs, oldest first. -/
  out : List Out
  deriving DecidableEq, Repr

/-- The part right after reset: a ZH8-1280C with both inputs in range and PERST# asserted, before its boot. Every
register reads its Reset column, no memory is listed, every queue is empty, and the flash is as it leaves final
test. -/
def State.reset : State where
  pending := []
  member := .zh8c
  regs := []
  disabled := []
  enabled := false
  vecSent := []
  vecMask := List.range 64
  vecPend := []
  vecTable := []
  funcMask := false
  mem := []
  poison := []
  flips := []
  slotErrs := []
  chans := []
  stackTab := []
  units := []
  tiles := []
  seqs := []
  imem := []
  lib := []
  routines := []
  descs := []
  allocs := []
  otabs := []
  descQ := []
  allocQ := []
  fetches := []
  nextFetch := 0
  arbs := []
  edges := []
  ports := []
  sync := []
  outReqs := []
  inPkts := []
  nextIn := 0
  egress := []
  cxl := {}
  armed := none
  running := none
  ledger := {}
  causes := []
  entries := 0
  entry := none
  history := []
  clearDesc := false
  fenceFlushed := false
  kicks := []
  uzoids := []
  restarting := []
  bwq := []
  flash := {}
  board := {}
  us := 0
  drawn := 0
  out := []

end Sys2Proof.Machine
end

