-- ==== Sys2Proof/Machine/Geom.lean ====
section
/-! DEFINITION. The family's counts and placements (R1, R6, R11, R20 to R24), part-address fields (R36) and BAR0
offsets (R45). -/
namespace Sys2Proof.Machine

/-- Number of C-dies (R1, R6). -/
def Member.dies : Member → Nat
  | .zh8c => 8 | .zh8a => 8 | .zh4 => 4 | .zh2 => 2

/-- Number of stacks. -/
def Member.stackCount : Member → Nat
  | .zh8c => 20 | .zh8a => 20 | .zh4 => 10 | .zh2 => 6

/-- Number of Vylith ports. -/
def Member.ports : Member → Nat
  | .zh8c => 12 | .zh8a => 12 | .zh4 => 8 | .zh2 => 4

/-- Number of tiles. -/
def Member.tiles (m : Member) : Nat := m.dies * 64

/-- Number of Sorrel units (R11). -/
def Member.units (m : Member) : Nat := m.stackCount * 512

/-- Columns of the die array: die d sits in row d / columns (R6, R20). -/
def Member.cols : Member → Nat
  | .zh8c => 4 | .zh8a => 4 | .zh4 => 2 | .zh2 => 2

/-- Stacks owned by a die, in local-index order (R6, R22). -/
def Member.dieStacks : Member → Nat → List Nat
  | .zh4, d => [[0, 1], [2, 3, 4], [6, 7], [8, 9, 5]].getD d []
  | .zh2, d => [[0, 1, 4], [2, 3, 5]].getD d []
  | _, d => [[0, 1, 18], [2, 3], [4, 5], [6, 7, 8], [10, 11, 19], [12, 13], [14, 15], [16, 17, 9]].getD d []

/-- Ports of a die, in order (R6, R23). -/
def Member.diePorts : Member → Nat → List Nat
  | .zh4, d => [[0, 1], [2, 3], [4, 5], [6, 7]].getD d []
  | .zh2, d => [[0, 1], [2, 3]].getD d []
  | _, d => [[0, 1], [2], [3], [4, 5], [6, 7], [8], [9], [10, 11]].getD d []

/-- The die that owns a stack. -/
def Member.stackDie (m : Member) (st : Nat) : Nat :=
  ((List.range m.dies).find? (fun d => (m.dieStacks d).contains st)).getD 0

/-- The local index of a stack on its die. -/
def Member.localStack (m : Member) (st : Nat) : Nat := (m.dieStacks (m.stackDie st)).idxOf st

/-- The die that carries a port. -/
def Member.portDie (m : Member) (p : Nat) : Nat :=
  ((List.range m.dies).find? (fun d => (m.diePorts d).contains p)).getD 0

/-- The die across an edge of a die (0 N, 1 E, 2 S, 3 W; R46, R20), if there is one. -/
def Member.edgePeer (m : Member) (d e : Nat) : Option Nat :=
  let c := m.cols
  match e with
  | 0 => if c ≤ d then some (d - c) else none
  | 1 => if d % c + 1 < c then some (d + 1) else none
  | 2 => if d + c < m.dies then some (d + c) else none
  | 3 => if 0 < d % c then some (d - 1) else none
  | _ => none

/-- The edge by which a packet at a die leaves for another (R395): along the row to the destination's column, then along it. -/
def Member.routeEdge (m : Member) (d dest : Nat) : Option Nat :=
  let c := m.cols
  if d = dest then none
  else if d % c ≠ dest % c then some (if d % c < dest % c then 1 else 3)
  else some (if d / c < dest / c then 2 else 0)

/-- The dies of a route with the input of the fabric port by which the packet leaves each (R383): 0 from the die itself, 1 + edge. -/
def Member.routeHops (m : Member) (dest : Nat) : Nat → Nat → Nat → List (Nat × Nat)
  | 0, _, _ => []
  | n + 1, d, input =>
    match m.routeEdge d dest with
    | none => [(d, input)]
    | some e => (d, input) :: m.routeHops dest n ((m.edgePeer d e).getD dest) (1 + (e + 2) % 4)

/-- The input of the intakes of a die at which requests of another die arrive (R383, R395): 4 + edge. -/
def Member.arrivalInput (m : Member) (src dest : Nat) : Nat :=
  4 + (((m.routeHops dest 16 src 0).getLast?).elim 0 (fun h => h.2 - 1))

/-- A requester of an arbiter is present (R383): the CXL port on die 0, ingress on dies with ports, arrivals over edges that the die
has; a fabric port's own edge never requests. -/
def arbPresent (m : Member) (d i r : Nat) : Bool :=
  let edge (e : Nat) : Bool := (m.edgePeer d e).isSome
  if i < 96 then (match r with | 0 => true | 1 => true | 2 => d = 0 | 3 => !(m.diePorts d).isEmpty | _ => r < 8 && edge (r - 4))
  else if i < 100 then r = 0 || (r < 5 && r - 1 ≠ i - 96 && edge (r - 1))
  else true

/-- The ports of each direction +X, −X, +Y, −Y, +Z, −Z (R24, R405). -/
def Member.dirs : Member → List (List Nat)
  | .zh4 => [[0, 4], [2, 6], [1], [3], [5], [7]]
  | .zh2 => [[0], [2], [1], [3]]
  | _ => [[0, 6], [4, 10], [1, 7], [5, 11], [2, 8], [3, 9]]

/-- The dimension of a port: 0 X, 1 Y, 2 Z. -/
def Member.portDim (m : Member) (p : Nat) : Nat := (m.dirs.findIdx (·.contains p)) / 2

/-! Part addresses (R36). -/

/-- The stack field. -/
def paStack (a : Nat) : Nat := bits a 36 5
/-- The row field. -/
def paRow (a : Nat) : Nat := bits a 20 16
/-- The channel field. -/
def paCh (a : Nat) : Nat := bits a 15 5
/-- The bank field. -/
def paBank (a : Nat) : Nat := bits a 11 4
/-- The byte within the row. -/
def paByte (a : Nat) : Nat := bits a 0 11

/-- The part address of the first byte of a row. -/
def paOf (st row ch bank : Nat) : Nat := 2 ^ 36 * st + 2 ^ 20 * row + 2 ^ 15 * ch + 2 ^ 11 * bank

/-- A backed address: 41 bits, of a stack the member has (R36, R37). -/
def backed (m : Member) (a : Nat) : Bool := decide (a < 2 ^ 41) && decide (a / 2 ^ 36 < m.stackCount)

/-- The system region (R40). -/
def inSystem (a : Nat) : Bool := decide (a < 0x8000_0000)

/-- The span of the HDM range in bytes (R43). -/
def Member.hdmSpan : Member → Nat
  | .zh4 => 636 * 2 ^ 30
  | .zh2 => 380 * 2 ^ 30
  | _ => 1276 * 2 ^ 30

/-! BAR0 offsets (R45): the base of a page. -/

/-- The base of the page of a die, a block and an instance. -/
def pg (die blk inst : Nat) : Nat := 2 ^ 20 * blk + 2 ^ 12 * inst + 2 ^ 25 * die

/-- The base of a page. -/
def pgBase (p : Page) : Nat := pg p.die p.blk p.inst

/-- The page a BAR0 offset falls in. -/
def pageOf (off : Nat) : Page := { die := bits off 25 3, blk := bits off 20 5, inst := bits off 12 8 }

/-- PART page. -/
def pgPart : Nat := pg 0 0x00 0
/-- SEQ page of a die. -/
def pgSeq (d : Nat) : Nat := pg d 0x02 0
/-- TILE page of a tile. -/
def pgTile (t : Nat) : Nat := pg (t / 64) 0x03 (t % 64)
/-- LCB page that holds a slot of a tile (R46). -/
def pgLcb (t slot : Nat) : Nat := pg (t / 64) 0x04 (t % 64 * 2 + slot / 4)
/-- DMA page of a tile. -/
def pgDma (t : Nat) : Nat := pg (t / 64) 0x05 (t % 64)
/-- Instance of a channel: local stack × 32 + channel (R46). -/
def chInst (m : Member) (st ch : Nat) : Nat := m.localStack st * 32 + ch
/-- DCTL page of a channel. -/
def pgDctl (m : Member) (st ch : Nat) : Nat := pg (m.stackDie st) 0x06 (chInst m st ch)
/-- STK page of a stack. -/
def pgStk (m : Member) (st : Nat) : Nat := pg (m.stackDie st) 0x07 (m.localStack st)
/-- SRL page of a channel. -/
def pgSrl (m : Member) (st ch : Nat) : Nat := pg (m.stackDie st) 0x08 (chInst m st ch)
/-- ECC page of a stack. -/
def pgEcc (m : Member) (st : Nat) : Nat := pg (m.stackDie st) 0x09 (m.localStack st)
/-- CAL page of a stack. -/
def pgCal (m : Member) (st : Nat) : Nat := pg (m.stackDie st) 0x0A (m.localStack st)
/-- ARB page of an arbiter. -/
def pgArb (d i : Nat) : Nat := pg d 0x0B i
/-- FAB page of an edge. -/
def pgFab (d e : Nat) : Nat := pg d 0x0C e
/-- VYL page of a port. -/
def pgVyl (m : Member) (p : Nat) : Nat := pg (m.portDie p) 0x0D p
/-- CXL page. -/
def pgCxl : Nat := pg 0 0x0E 0
/-- LEDG page. -/
def pgLedg : Nat := pg 0 0x0F 0
/-- PLAN page. -/
def pgPlan : Nat := pg 0 0x10 0
/-- DESC control page. -/
def pgDesc : Nat := pg 0 0x11 128
/-- ALLOC control page. -/
def pgAlloc : Nat := pg 0 0x12 0
/-- SYNC control page. -/
def pgSync : Nat := pg 0 0x13 0
/-- SEC page. -/
def pgSec : Nat := pg 0 0x14 0
/-- PWR page of a die. -/
def pgPwr (d : Nat) : Nat := pg d 0x15 0
/-- IMEM page of a die. -/
def pgImem (d : Nat) : Nat := pg d 0x16 0
/-- LIB page. -/
def pgLib : Nat := pg 0 0x17 0
/-- FLT page of a die. -/
def pgFlt (d : Nat) : Nat := pg d 0x18 0
/-- TRC page of a die. -/
def pgTrc (d : Nat) : Nat := pg d 0x19 0
/-- OWN page. -/
def pgOwn : Nat := pg 0 0x1A 0

/-- The instances of a block on a die, without its summary page (R46, R47). -/
def blkInsts (m : Member) (d blk : Nat) : List Nat :=
  let lead (l : List Nat) : List Nat := if d = 0 then l else []
  let st := (m.dieStacks d).length
  if m.dies ≤ d then [] else
  match blk with
  | 0x00 => lead [0]
  | 0x01 => [0]
  | 0x02 => [0]
  | 0x03 => List.range 64
  | 0x04 => List.range 128
  | 0x05 => List.range 64
  | 0x06 => List.range (st * 32)
  | 0x07 => List.range st
  | 0x08 => List.range (st * 32)
  | 0x09 => List.range st
  | 0x0A => List.range st
  | 0x0B => List.range (st * 32)
      ++ ((List.range 4).filter (fun e => (m.edgePeer d e).isSome)).map (96 + ·)
      ++ (List.range (m.diePorts d).length).map (100 + ·)
      ++ (if d = 0 then [102] else [])
      ++ (List.range (st * 32)).map (128 + ·)
  | 0x0C => (List.range 4).filter (fun e => (m.edgePeer d e).isSome)
  | 0x0D => m.diePorts d
  | 0x0E => lead [0]
  | 0x0F => lead [0]
  | 0x10 => lead [0]
  | 0x11 => lead (List.range 129)
  | 0x12 => lead (List.range 9)
  | 0x13 => lead (List.range 9)
  | 0x14 => lead [0]
  | 0x15 => [0]
  | 0x16 => [0]
  | 0x17 => lead [0]
  | 0x18 => [0]
  | 0x19 => [0]
  | 0x1A => lead [0]
  | _ => []

/-- Whether an instance is assigned (R46, R47), the summary page apart. -/
def assigned (m : Member) (p : Page) : Bool := (blkInsts m p.die p.blk).contains p.inst

/-- Whether a page is a summary page (R47): instance 255 of every block except PART on each die where it exists. -/
def isSummary (m : Member) (p : Page) : Bool :=
  p.inst = 255 && p.blk ≠ 0 && !(blkInsts m p.die p.blk).isEmpty

/-- Window pages (R48): no common header. -/
def isWindow (p : Page) : Bool :=
  (p.blk = 0x11 && p.inst < 128) || (p.blk = 0x12 && 1 ≤ p.inst && p.inst ≤ 8) || (p.blk = 0x13 && 1 ≤ p.inst && p.inst ≤ 8)

/-- The page that records the errors of a page (R48). -/
def errPage (p : Page) : Nat :=
  if isWindow p then (if p.blk = 0x11 then pgDesc else if p.blk = 0x12 then pgAlloc else pgSync) else pgBase p

/-- Blocks of job scope (R46). -/
def jobScope (blk : Nat) : Bool := [0x02, 0x03, 0x04, 0x05, 0x08, 0x10, 0x11, 0x13, 0x1A].contains blk

/-- The island of a block (R46, R56): 1 tile, 2 sequencer, 3 Uzoid, 4 fabric, 5 DRAM controller, 6 Sorrel,
7 Vylith port, 8 CXL core. -/
def islandOf (blk : Nat) : Nat :=
  match blk with
  | 0x00 => 3 | 0x01 => 3 | 0x02 => 2 | 0x03 => 1 | 0x04 => 1 | 0x05 => 1
  | 0x06 => 5 | 0x07 => 5 | 0x08 => 6 | 0x09 => 5 | 0x0A => 5 | 0x0B => 4
  | 0x0C => 4 | 0x0D => 7 | 0x0E => 8 | 0x0F => 3 | 0x10 => 3 | 0x11 => 2
  | 0x12 => 2 | 0x13 => 4 | 0x14 => 3 | 0x15 => 3 | 0x16 => 2 | 0x17 => 2
  | 0x18 => 3 | 0x19 => 2 | 0x1A => 3 | _ => 0

/-- Nominal clock of an island in MHz (R56). -/
def islandMhz (i : Nat) : Nat := [0, 1400, 1400, 1000, 2000, 1400, 700, 0, 1000].getD i 0

/-- Blocks whose CTRL.FREEZE acts (R58, R249, R322, R356; SRL under R185). DESIGN CHOICE (log 12): a block for which
the manual does not state FREEZE_IMPL has 0. -/
def freezeImpl (blk : Nat) : Bool := [0x02, 0x03, 0x05, 0x08].contains blk

/-- Kind of an arbiter instance (R383, R400): 0 intake, 1 fabric port, 2 Vylith egress, 3 CXL release, 4 Windrow. -/
def arbKind (i : Nat) : Nat := if i < 96 then 0 else if i < 100 then 1 else if i < 102 then 2 else if i < 128 then 3 else 4

/-- Number of requester indexes of an arbiter (R383). -/
def arbReqs (m : Member) (i : Nat) : Nat := [8, 5, 4, m.stackCount, 2].getD (arbKind i) 0

/-- Default ARB_PRIO of a requester (R383); requesters beyond the kind's read 0. -/
def arbPrioReset (m : Member) (i r : Nat) : Nat :=
  if arbReqs m i ≤ r then 0 else if arbKind i = 2 then [4, 5, 4, 6].getD r 0 else 4

/-- Power of an envelope class in W (R6, R461). -/
def classW (m : Member) (c : Nat) : Nat :=
  match m with
  | .zh4 => [1000, 1400, 1700, 2000].getD c 0
  | .zh2 => [600, 840, 1020, 1200].getD c 0
  | _ => [2000, 2800, 3400, 4000].getD c 0

/-- Depth of the account in µJ: 25 ms at the class power (R461). -/
def classDepth (m : Member) (c : Nat) : Nat := 25000 * classW m c

/-- The class default of SRL_ACT_MAX (R178, R461). -/
def classAct (c : Nat) : Nat := [16, 28, 40, 50].getD c 0

/-- The envelope ceiling as the part leaves final test (R5, R508): class 0 on the ZH8-1280A, else class 3. -/
def ceilingDefault : Member → Nat
  | .zh8a => 0
  | _ => 3

/-- Default energy coefficients in fJ (R459). -/
def coefDefault (n : Nat) : Nat :=
  [2930000, 1500000, 5900000, 3000, 20000, 50000, 200000, 8000000, 8000000, 250000, 60000000, 3100000, 3100000, 40000,
   40000000, 15000000].getD n 0

/-! Whether the member has an object. -/
/-- A die. -/
def hasDie (s : State) (d : Nat) : Bool := d < s.member.dies
/-- A stack. -/
def hasStack (s : State) (st : Nat) : Bool := st < s.member.stackCount
/-- A channel of a stack. -/
def hasCh (s : State) (st ch : Nat) : Bool := st < s.member.stackCount && ch < 32
/-- A bank column. -/
def hasBank (s : State) (st ch b : Nat) : Bool := st < s.member.stackCount && ch < 32 && b < 16
/-- A Sorrel unit. -/
def hasUnit (s : State) (u : Nat) : Bool := u < s.member.units
/-- A tile. -/
def hasTile (s : State) (t : Nat) : Bool := t < s.member.tiles
/-- A port. -/
def hasPort (s : State) (p : Nat) : Bool := p < s.member.ports

/-- The stack, channel and bank of a unit (R11). -/
def unitStack (u : Nat) : Nat := u / 512
/-- The channel of a unit. -/
def unitCh (u : Nat) : Nat := u / 16 % 32
/-- The bank of a unit. -/
def unitBank (u : Nat) : Nat := u % 16
/-- The unit under a bank column. -/
def unitOf (st ch b : Nat) : Nat := st * 512 + ch * 16 + b

end Sys2Proof.Machine
end

