-- ==== Sys2Proof/Machine/RegMap.lean ====
section
/-! DEFINITION. Every register field of the field tables of the manual (R56, R63, R99, R102, R134, R155, R185,
R250, R304, R305, R306, R323, R356, R358, R360, R362, R380, R400, R402, R436, R438, R454, R476, R477, R478, R489,
R512): block, page offset, instances and stride within the page, place of the field, access type, reset value and
whether a job reset keeps it. A reset value that the table gives per member, per page or from flash stands as 0
here and is set by `Reg.dynReset`. -/
namespace Sys2Proof.Machine.F

/-! HDR (block 0xff) -/
def HDR_ID_BLOCK : RegF := ⟨0xff, 0x0, 1, 8, 0, 8, .ro, 0, .kept⟩
def HDR_ID_VERSION : RegF := ⟨0xff, 0x0, 1, 8, 8, 8, .ro, 0, .kept⟩
def HDR_ID_DIE : RegF := ⟨0xff, 0x0, 1, 8, 16, 3, .ro, 0, .kept⟩
def HDR_ID_INSTANCE : RegF := ⟨0xff, 0x0, 1, 8, 24, 8, .ro, 0, .kept⟩
def HDR_CAPS_HDR_VER : RegF := ⟨0xff, 0x8, 1, 8, 0, 8, .ro, 1, .kept⟩
def HDR_CAPS_FREEZE_IMPL : RegF := ⟨0xff, 0x8, 1, 8, 8, 1, .ro, 0, .kept⟩
def HDR_CAPS_SUMMARY : RegF := ⟨0xff, 0x8, 1, 8, 9, 1, .ro, 0, .kept⟩
def HDR_CAPS : RegF := ⟨0xff, 0x8, 1, 8, 16, 48, .ro, 0, .kept⟩
def HDR_CTRL_ENABLE : RegF := ⟨0xff, 0x10, 1, 8, 0, 1, .rw, 0, .kept⟩
def HDR_CTRL_RESET : RegF := ⟨0xff, 0x10, 1, 8, 1, 1, .wo, 0, .clear⟩
def HDR_CTRL_FREEZE : RegF := ⟨0xff, 0x10, 1, 8, 2, 1, .rw, 0, .clear⟩
def HDR_STATUS_STATE : RegF := ⟨0xff, 0x18, 1, 8, 0, 4, .ro, 0, .clear⟩
def HDR_STATUS : RegF := ⟨0xff, 0x18, 1, 8, 4, 60, .ro, 0, .clear⟩
def HDR_ERR_STATUS : RegF := ⟨0xff, 0x20, 1, 8, 0, 64, .w1c, 0, .scope⟩
def HDR_ERR_MASK : RegF := ⟨0xff, 0x28, 1, 8, 0, 64, .rw, 0, .kept⟩
def HDR_ERR_FIRST_CODE : RegF := ⟨0xff, 0x30, 1, 8, 0, 16, .ro, 0, .scope⟩
def HDR_ERR_FIRST_VALID : RegF := ⟨0xff, 0x30, 1, 8, 16, 1, .ro, 0, .scope⟩
def HDR_ERR_FIRST_TAG : RegF := ⟨0xff, 0x30, 1, 8, 32, 32, .ro, 0, .scope⟩
def HDR_ERR_COUNT_ERRORS : RegF := ⟨0xff, 0x38, 1, 8, 0, 32, .rws, 0, .kept⟩
def HDR_ERR_COUNT_REFUSALS : RegF := ⟨0xff, 0x38, 1, 8, 32, 32, .rws, 0, .kept⟩
def HDR_EVT_STATUS : RegF := ⟨0xff, 0x40, 1, 8, 0, 64, .w1c, 0, .scope⟩
def HDR_EVT_MASK : RegF := ⟨0xff, 0x48, 1, 8, 0, 64, .rw, 0, .kept⟩
def HDR_ISLAND_ID : RegF := ⟨0xff, 0x50, 1, 8, 0, 8, .ro, 0, .kept⟩
def HDR_ISLAND_NOMINAL_MHZ : RegF := ⟨0xff, 0x50, 1, 8, 8, 16, .ro, 0, .kept⟩
def HDR_ISLAND_EPOCH : RegF := ⟨0xff, 0x50, 1, 8, 32, 32, .ro, 0, .kept⟩
def HDR_LEDGER_TAP_UJ : RegF := ⟨0xff, 0x58, 1, 8, 0, 48, .ro, 0, .kept⟩
def tabHDR0 : List RegF := [HDR_ID_BLOCK, HDR_ID_VERSION, HDR_ID_DIE, HDR_ID_INSTANCE, HDR_CAPS_HDR_VER, HDR_CAPS_FREEZE_IMPL, HDR_CAPS_SUMMARY, HDR_CAPS, HDR_CTRL_ENABLE, HDR_CTRL_RESET, HDR_CTRL_FREEZE, HDR_STATUS_STATE, HDR_STATUS, HDR_ERR_STATUS, HDR_ERR_MASK, HDR_ERR_FIRST_CODE, HDR_ERR_FIRST_VALID, HDR_ERR_FIRST_TAG, HDR_ERR_COUNT_ERRORS, HDR_ERR_COUNT_REFUSALS, HDR_EVT_STATUS, HDR_EVT_MASK, HDR_ISLAND_ID, HDR_ISLAND_NOMINAL_MHZ]
def tabHDR1 : List RegF := [HDR_ISLAND_EPOCH, HDR_LEDGER_TAP_UJ]
/-- The fields of the HDR page. -/
def tabHDR : List RegF := tabHDR0 ++ tabHDR1

/-! PART (block 0x0) -/
def PART_CONFIG_CDIES : RegF := ⟨0x0, 0x80, 1, 8, 0, 4, .ro, 0, .kept⟩
def PART_CONFIG_STACKS : RegF := ⟨0x0, 0x80, 1, 8, 4, 5, .ro, 0, .kept⟩
def PART_CONFIG_PORTS : RegF := ⟨0x0, 0x80, 1, 8, 9, 4, .ro, 0, .kept⟩
def PART_ERR_PEND : RegF := ⟨0x0, 0x88, 1, 8, 0, 27, .ro, 0, .clear⟩
def PART_EVT_PEND : RegF := ⟨0x0, 0x90, 1, 8, 0, 27, .ro, 0, .clear⟩
def PART_BLK_PEND_ERR : RegF := ⟨0x0, 0x100, 27, 8, 0, 8, .ro, 0, .clear⟩
def PART_BLK_PEND_EVT : RegF := ⟨0x0, 0x100, 27, 8, 8, 8, .ro, 0, .clear⟩
def tabPART0 : List RegF := [PART_CONFIG_CDIES, PART_CONFIG_STACKS, PART_CONFIG_PORTS, PART_ERR_PEND, PART_EVT_PEND, PART_BLK_PEND_ERR, PART_BLK_PEND_EVT]
/-- The fields of the PART page. -/
def tabPART : List RegF := tabPART0

/-! DCTL (block 0x6) -/
def DCTL_CHMODE_REQ_MODE : RegF := ⟨0x6, 0x80, 1, 8, 0, 2, .rw, 0, .clear⟩
def DCTL_CHMODE_OWNER : RegF := ⟨0x6, 0x80, 1, 8, 16, 16, .rw, 0, .clear⟩
def DCTL_CHMODE_STATE : RegF := ⟨0x6, 0x80, 1, 8, 32, 4, .ro, 0, .clear⟩
def DCTL_CHSTAT_PARKED : RegF := ⟨0x6, 0x88, 1, 8, 0, 7, .ro, 0, .clear⟩
def DCTL_CHSTAT_QUEUED : RegF := ⟨0x6, 0x88, 1, 8, 8, 9, .ro, 0, .clear⟩
def DCTL_CHSTAT_OPEN : RegF := ⟨0x6, 0x88, 1, 8, 32, 16, .ro, 0, .clear⟩
def DCTL_QOCC_LO : RegF := ⟨0x6, 0x90, 1, 8, 0, 64, .ro, 0, .clear⟩
def DCTL_QOCC_HI : RegF := ⟨0x6, 0x98, 1, 8, 0, 64, .ro, 0, .clear⟩
def DCTL_REFCFG_MEM_DEFER : RegF := ⟨0x6, 0xa0, 1, 8, 0, 4, .rw, 4, .kept⟩
def DCTL_REFSTAT_OWED : RegF := ⟨0x6, 0xa8, 1, 8, 0, 4, .ro, 0, .kept⟩
def DCTL_REFSTAT_HOT : RegF := ⟨0x6, 0xa8, 1, 8, 4, 1, .ro, 0, .kept⟩
def DCTL_REFSTAT_BURSTING : RegF := ⟨0x6, 0xa8, 1, 8, 5, 1, .ro, 0, .kept⟩
def DCTL_REFSTAT_WINDOW : RegF := ⟨0x6, 0xa8, 1, 8, 6, 1, .ro, 0, .kept⟩
def DCTL_REFCOUNT_REFRESHES : RegF := ⟨0x6, 0xb0, 1, 8, 0, 32, .rws, 0, .kept⟩
def DCTL_REFCOUNT_BURSTS : RegF := ⟨0x6, 0xb0, 1, 8, 32, 32, .rws, 0, .kept⟩
def DCTL_PAGECFG_POLICY : RegF := ⟨0x6, 0xb8, 1, 8, 0, 2, .rw, 0, .kept⟩
def DCTL_PAGECFG_IDLE_TC : RegF := ⟨0x6, 0xb8, 1, 8, 8, 8, .rw, 64, .kept⟩
def DCTL_PAGECFG_AGE_CAP : RegF := ⟨0x6, 0xb8, 1, 8, 16, 8, .rw, 16, .kept⟩
def DCTL_PAGESTAT_ROW_HITS : RegF := ⟨0x6, 0xc0, 1, 8, 0, 32, .rws, 0, .kept⟩
def DCTL_PAGESTAT_ROW_MISSES : RegF := ⟨0x6, 0xc0, 1, 8, 32, 32, .rws, 0, .kept⟩
def DCTL_TRAINWIN_PENDING : RegF := ⟨0x6, 0xc8, 1, 8, 0, 1, .ro, 0, .kept⟩
def DCTL_TRAINWIN_GRANTED : RegF := ⟨0x6, 0xc8, 1, 8, 32, 32, .ro, 0, .kept⟩
def tabDCTL0 : List RegF := [DCTL_CHMODE_REQ_MODE, DCTL_CHMODE_OWNER, DCTL_CHMODE_STATE, DCTL_CHSTAT_PARKED, DCTL_CHSTAT_QUEUED, DCTL_CHSTAT_OPEN, DCTL_QOCC_LO, DCTL_QOCC_HI, DCTL_REFCFG_MEM_DEFER, DCTL_REFSTAT_OWED, DCTL_REFSTAT_HOT, DCTL_REFSTAT_BURSTING, DCTL_REFSTAT_WINDOW, DCTL_REFCOUNT_REFRESHES, DCTL_REFCOUNT_BURSTS, DCTL_PAGECFG_POLICY, DCTL_PAGECFG_IDLE_TC, DCTL_PAGECFG_AGE_CAP, DCTL_PAGESTAT_ROW_HITS, DCTL_PAGESTAT_ROW_MISSES, DCTL_TRAINWIN_PENDING, DCTL_TRAINWIN_GRANTED]
/-- The fields of the DCTL page. -/
def tabDCTL : List RegF := tabDCTL0

/-! STK (block 0x7) -/
def STK_STKINFO_STACK : RegF := ⟨0x7, 0x80, 1, 8, 0, 5, .ro, 0, .kept⟩
def STK_STKINFO_STRENGTH : RegF := ⟨0x7, 0x80, 1, 8, 8, 2, .ro, 0, .kept⟩
def STK_STKINFO_HOLE_ROW : RegF := ⟨0x7, 0x80, 1, 8, 16, 16, .ro, 0, .kept⟩
def STK_TEMP_CUR : RegF := ⟨0x7, 0x88, 1, 8, 0, 12, .ro, 0, .kept⟩
def STK_TEMP_PEAK : RegF := ⟨0x7, 0x88, 1, 8, 16, 12, .ro, 0, .kept⟩
def STK_TEMP_HOTTEST : RegF := ⟨0x7, 0x88, 1, 8, 28, 5, .ro, 0, .kept⟩
def STK_TEMP_HOT : RegF := ⟨0x7, 0x88, 1, 8, 33, 1, .ro, 0, .kept⟩
def STK_TEMPCFG_WARN : RegF := ⟨0x7, 0x90, 1, 8, 0, 12, .rw, 736, .kept⟩
def STK_TEMPCFG_TRIP : RegF := ⟨0x7, 0x90, 1, 8, 16, 12, .ro, 776, .kept⟩
def STK_SRCTL_KEEP : RegF := ⟨0x7, 0x98, 1, 8, 0, 16, .rw, 65535, .kept⟩
def STK_SRCTL_ENTER : RegF := ⟨0x7, 0x98, 1, 8, 16, 1, .wo, 0, .clear⟩
def STK_SRCTL_EXIT : RegF := ⟨0x7, 0x98, 1, 8, 17, 1, .wo, 0, .clear⟩
def STK_SRCTL_KEEP_EFF : RegF := ⟨0x7, 0x98, 1, 8, 32, 16, .ro, 0, .kept⟩
def STK_SRCTL_SR_STATE : RegF := ⟨0x7, 0x98, 1, 8, 48, 4, .ro, 0, .kept⟩
def STK_SRSTAT_ENTRIES : RegF := ⟨0x7, 0xa0, 1, 8, 0, 32, .rws, 0, .kept⟩
def STK_SRSTAT_LAST_HELD_MS : RegF := ⟨0x7, 0xa0, 1, 8, 32, 32, .rws, 0, .kept⟩
def tabSTK0 : List RegF := [STK_STKINFO_STACK, STK_STKINFO_STRENGTH, STK_STKINFO_HOLE_ROW, STK_TEMP_CUR, STK_TEMP_PEAK, STK_TEMP_HOTTEST, STK_TEMP_HOT, STK_TEMPCFG_WARN, STK_TEMPCFG_TRIP, STK_SRCTL_KEEP, STK_SRCTL_ENTER, STK_SRCTL_EXIT, STK_SRCTL_KEEP_EFF, STK_SRCTL_SR_STATE, STK_SRSTAT_ENTRIES, STK_SRSTAT_LAST_HELD_MS]
/-- The fields of the STK page. -/
def tabSTK : List RegF := tabSTK0

/-! ECC (block 0x9) -/
def ECC_STRENGTH_STRENGTH : RegF := ⟨0x9, 0x80, 1, 8, 0, 2, .bw, 0, .kept⟩
def ECC_STRENGTH_CHANGES_LEFT : RegF := ⟨0x9, 0x80, 1, 8, 8, 4, .ro, 0, .kept⟩
def ECC_STRENGTH_REFORMAT : RegF := ⟨0x9, 0x80, 1, 8, 12, 1, .ro, 0, .kept⟩
def ECC_CFG_SCRUB_PERIOD_H : RegF := ⟨0x9, 0x88, 1, 8, 0, 8, .rw, 24, .kept⟩
def ECC_CFG_PLAN_ALLOW : RegF := ⟨0x9, 0x88, 1, 8, 8, 4, .rw, 1, .kept⟩
def ECC_CFG_HIGH_CE : RegF := ⟨0x9, 0x88, 1, 8, 16, 8, .rw, 8, .kept⟩
def ECC_COUNT_CORRECTED : RegF := ⟨0x9, 0x90, 1, 8, 0, 32, .rws, 0, .kept⟩
def ECC_COUNT_UNCORRECTABLE : RegF := ⟨0x9, 0x90, 1, 8, 32, 32, .rws, 0, .kept⟩
def ECC_COUNT2_POISON_STORED : RegF := ⟨0x9, 0x98, 1, 8, 0, 32, .rws, 0, .kept⟩
def ECC_COUNT2_HOLE : RegF := ⟨0x9, 0x98, 1, 8, 32, 32, .rws, 0, .kept⟩
def ECC_SCRUBPOS_POSITION : RegF := ⟨0x9, 0xa0, 1, 8, 0, 25, .ro, 0, .kept⟩
def ECC_SCRUBPOS_PASSES : RegF := ⟨0x9, 0xa0, 1, 8, 32, 32, .rws, 0, .kept⟩
def ECC_SCRUBSTAT_LAST_PASS_MIN : RegF := ⟨0x9, 0xa8, 1, 8, 0, 32, .rws, 0, .kept⟩
def ECC_SCRUBSTAT_BEHIND : RegF := ⟨0x9, 0xa8, 1, 8, 32, 1, .ro, 0, .kept⟩
def ECC_PCSTAT_DIRTY_MAX : RegF := ⟨0x9, 0xb0, 1, 8, 0, 11, .ro, 0, .kept⟩
def ECC_PCSTAT_FLUSHING : RegF := ⟨0x9, 0xb0, 1, 8, 11, 1, .ro, 0, .kept⟩
def ECC_PCFLUSH_FLUSH : RegF := ⟨0x9, 0xb8, 1, 8, 0, 1, .wo, 0, .clear⟩
def ECC_LOGSTAT_NEXT_SEQ : RegF := ⟨0x9, 0xc0, 1, 8, 0, 32, .ro, 0, .kept⟩
def ECC_LOGSTAT_OVERWRITTEN : RegF := ⟨0x9, 0xc0, 1, 8, 32, 32, .rws, 0, .kept⟩
def ECC_LOGIDX_INDEX : RegF := ⟨0x9, 0xc8, 1, 8, 0, 10, .rw, 0, .kept⟩
def ECC_LOGDATA : RegF := ⟨0x9, 0xd0, 4, 8, 0, 64, .ro, 0, .kept⟩
def ECC_REBUILD_PENDING : RegF := ⟨0x9, 0xf0, 1, 8, 0, 6, .ro, 0, .kept⟩
def ECC_REBUILD_DONE : RegF := ⟨0x9, 0xf0, 1, 8, 32, 32, .rws, 0, .kept⟩
def ECC_FALLOWSTAT_BUSY : RegF := ⟨0x9, 0xf8, 1, 8, 0, 1, .ro, 0, .kept⟩
def ECC_FALLOWSTAT_ENTRY : RegF := ⟨0x9, 0xf8, 1, 8, 1, 9, .ro, 0, .kept⟩
def ECC_FALLOWSTAT_ROW_LEFT : RegF := ⟨0x9, 0xf8, 1, 8, 16, 9, .ro, 0, .kept⟩
def ECC_FALLOWSTAT_BANK_LEFT : RegF := ⟨0x9, 0xf8, 1, 8, 25, 2, .ro, 0, .kept⟩
def ECC_FALLOWSTAT_COPY_LEFT : RegF := ⟨0x9, 0xf8, 1, 8, 32, 17, .ro, 0, .kept⟩
def ECC_FALLOW_BANK_CHANNEL : RegF := ⟨0x9, 0x100, 2, 8, 0, 5, .bw, 0, .kept⟩
def ECC_FALLOW_BANK_BANK : RegF := ⟨0x9, 0x100, 2, 8, 5, 4, .bw, 0, .kept⟩
def ECC_FALLOW_BANK_VALID : RegF := ⟨0x9, 0x100, 2, 8, 63, 1, .bw, 0, .kept⟩
def ECC_FALLOW_ROW_CHANNEL : RegF := ⟨0x9, 0x800, 256, 8, 0, 5, .bw, 0, .kept⟩
def ECC_FALLOW_ROW_BANK : RegF := ⟨0x9, 0x800, 256, 8, 5, 4, .bw, 0, .kept⟩
def ECC_FALLOW_ROW_ROW : RegF := ⟨0x9, 0x800, 256, 8, 9, 16, .bw, 0, .kept⟩
def ECC_FALLOW_ROW_SPARE : RegF := ⟨0x9, 0x800, 256, 8, 25, 6, .bw, 0, .kept⟩
def ECC_FALLOW_ROW_VALID : RegF := ⟨0x9, 0x800, 256, 8, 63, 1, .bw, 0, .kept⟩
def tabECC0 : List RegF := [ECC_STRENGTH_STRENGTH, ECC_STRENGTH_CHANGES_LEFT, ECC_STRENGTH_REFORMAT, ECC_CFG_SCRUB_PERIOD_H, ECC_CFG_PLAN_ALLOW, ECC_CFG_HIGH_CE, ECC_COUNT_CORRECTED, ECC_COUNT_UNCORRECTABLE, ECC_COUNT2_POISON_STORED, ECC_COUNT2_HOLE, ECC_SCRUBPOS_POSITION, ECC_SCRUBPOS_PASSES, ECC_SCRUBSTAT_LAST_PASS_MIN, ECC_SCRUBSTAT_BEHIND, ECC_PCSTAT_DIRTY_MAX, ECC_PCSTAT_FLUSHING, ECC_PCFLUSH_FLUSH, ECC_LOGSTAT_NEXT_SEQ, ECC_LOGSTAT_OVERWRITTEN, ECC_LOGIDX_INDEX, ECC_LOGDATA, ECC_REBUILD_PENDING, ECC_REBUILD_DONE, ECC_FALLOWSTAT_BUSY]
def tabECC1 : List RegF := [ECC_FALLOWSTAT_ENTRY, ECC_FALLOWSTAT_ROW_LEFT, ECC_FALLOWSTAT_BANK_LEFT, ECC_FALLOWSTAT_COPY_LEFT, ECC_FALLOW_BANK_CHANNEL, ECC_FALLOW_BANK_BANK, ECC_FALLOW_BANK_VALID, ECC_FALLOW_ROW_CHANNEL, ECC_FALLOW_ROW_BANK, ECC_FALLOW_ROW_ROW, ECC_FALLOW_ROW_SPARE, ECC_FALLOW_ROW_VALID]
/-- The fields of the ECC page. -/
def tabECC : List RegF := tabECC0 ++ tabECC1

/-! CAL (block 0xa) -/
def CAL_TRCTL_TEST : RegF := ⟨0xa, 0x80, 1, 8, 0, 1, .rw, 0, .kept⟩
def CAL_TRCTL_CHANNEL : RegF := ⟨0xa, 0x80, 1, 8, 1, 5, .rw, 0, .kept⟩
def CAL_TRCTL_ALL : RegF := ⟨0xa, 0x80, 1, 8, 6, 1, .rw, 0, .kept⟩
def CAL_TRCTL_DIR : RegF := ⟨0xa, 0x80, 1, 8, 7, 2, .rw, 0, .kept⟩
def CAL_TRCTL_MODE : RegF := ⟨0xa, 0x80, 1, 8, 9, 2, .rw, 0, .kept⟩
def CAL_TRCTL_CORE_DIE : RegF := ⟨0xa, 0x80, 1, 8, 11, 4, .rw, 0, .kept⟩
def CAL_TRCTL_START : RegF := ⟨0xa, 0x80, 1, 8, 16, 1, .wo, 0, .clear⟩
def CAL_TRCTL_ABORT : RegF := ⟨0xa, 0x80, 1, 8, 17, 1, .wo, 0, .clear⟩
def CAL_TRSTAT_BUSY : RegF := ⟨0xa, 0x88, 1, 8, 0, 1, .ro, 0, .kept⟩
def CAL_TRSTAT_RESULT : RegF := ⟨0xa, 0x88, 1, 8, 1, 2, .ro, 0, .kept⟩
def CAL_TRSTAT_FAIL_CHANNEL : RegF := ⟨0xa, 0x88, 1, 8, 16, 5, .ro, 0, .kept⟩
def CAL_TRSTAT_FAIL_WIRE : RegF := ⟨0xa, 0x88, 1, 8, 21, 6, .ro, 0, .kept⟩
def CAL_PATSEL_PATTERN : RegF := ⟨0xa, 0x90, 1, 8, 0, 4, .rw, 0, .kept⟩
def CAL_PATSEL_SEED : RegF := ⟨0xa, 0x90, 1, 8, 4, 15, .rw, 1, .kept⟩
def CAL_SWEEPCFG_FIRST : RegF := ⟨0xa, 0x98, 1, 8, 0, 7, .rw, 0, .kept⟩
def CAL_SWEEPCFG_LAST : RegF := ⟨0xa, 0x98, 1, 8, 8, 7, .rw, 127, .kept⟩
def CAL_SWEEPCFG_STEP : RegF := ⟨0xa, 0x98, 1, 8, 16, 3, .rw, 1, .kept⟩
def CAL_SWEEPCFG_DWELL : RegF := ⟨0xa, 0x98, 1, 8, 20, 5, .rw, 12, .kept⟩
def CAL_SWEEPCFG_TARGET : RegF := ⟨0xa, 0x98, 1, 8, 25, 2, .rw, 0, .kept⟩
def CAL_WIREIDX_CHANNEL : RegF := ⟨0xa, 0xa0, 1, 8, 0, 5, .rw, 0, .kept⟩
def CAL_WIREIDX_WIRE : RegF := ⟨0xa, 0xa0, 1, 8, 5, 6, .rw, 0, .kept⟩
def CAL_WIREIDX_KIND : RegF := ⟨0xa, 0xa0, 1, 8, 11, 1, .rw, 0, .kept⟩
def CAL_WIREDATA_READ_DLY : RegF := ⟨0xa, 0xa8, 1, 8, 0, 7, .rw, 64, .kept⟩
def CAL_WIREDATA_WRITE_DLY : RegF := ⟨0xa, 0xa8, 1, 8, 7, 7, .rw, 64, .kept⟩
def CAL_WIREDATA_READ_REF : RegF := ⟨0xa, 0xa8, 1, 8, 14, 6, .rw, 32, .kept⟩
def CAL_WIREDATA_WRITE_REF : RegF := ⟨0xa, 0xa8, 1, 8, 20, 6, .rw, 32, .kept⟩
def CAL_WIREDATA_DUTY : RegF := ⟨0xa, 0xa8, 1, 8, 26, 4, .rw, 0, .kept⟩
def CAL_WIREDATA_MARGIN : RegF := ⟨0xa, 0xa8, 1, 8, 30, 6, .ro, 0, .kept⟩
def CAL_WIREDATA_LANE_CE : RegF := ⟨0xa, 0xa8, 1, 8, 36, 12, .ro, 0, .kept⟩
def CAL_WIREDATA_STEP_COUNT : RegF := ⟨0xa, 0xa8, 1, 8, 48, 16, .ro, 0, .kept⟩
def CAL_SKYCFG_ENABLE : RegF := ⟨0xa, 0xb0, 1, 8, 0, 1, .rw, 1, .kept⟩
def CAL_SKYCFG_OFFSET : RegF := ⟨0xa, 0xb0, 1, 8, 1, 5, .rw, 8, .kept⟩
def CAL_SKYCFG_MARGIN_MIN : RegF := ⟨0xa, 0xb0, 1, 8, 6, 6, .rw, 6, .kept⟩
def CAL_SKYCFG_LANE_CE_MAX : RegF := ⟨0xa, 0xb0, 1, 8, 12, 8, .rw, 4, .kept⟩
def CAL_SKYCFG_STEP_US : RegF := ⟨0xa, 0xb0, 1, 8, 20, 8, .rw, 10, .kept⟩
def CAL_SKYCFG_WIN_MIN : RegF := ⟨0xa, 0xb0, 1, 8, 28, 7, .rw, 24, .kept⟩
def CAL_SKYSTAT_STEPS : RegF := ⟨0xa, 0xb8, 1, 8, 0, 32, .rws, 0, .kept⟩
def CAL_SKYSTAT_WINDOWS : RegF := ⟨0xa, 0xb8, 1, 8, 32, 32, .rws, 0, .kept⟩
def CAL_MARGIN_CHANNEL : RegF := ⟨0xa, 0xc0, 1, 8, 0, 5, .ro, 0, .kept⟩
def CAL_MARGIN_WIRE : RegF := ⟨0xa, 0xc0, 1, 8, 5, 6, .ro, 0, .kept⟩
def CAL_MARGIN_CODES : RegF := ⟨0xa, 0xc0, 1, 8, 11, 6, .ro, 32, .kept⟩
def CAL_WINCFG_PERIOD_MS : RegF := ⟨0xa, 0xc8, 1, 8, 0, 16, .rw, 1000, .kept⟩
def CAL_WINCFG_WAIT_US : RegF := ⟨0xa, 0xc8, 1, 8, 16, 16, .rw, 50, .kept⟩
def CAL_PATTERN_W : RegF := ⟨0xa, 0x400, 128, 8, 0, 64, .rw, 0, .kept⟩
def CAL_CMPCNT : RegF := ⟨0xa, 0x800, 64, 8, 0, 32, .ro, 0, .kept⟩
def CAL_SWEEPLOG_LEFT : RegF := ⟨0xa, 0xa00, 64, 8, 0, 7, .ro, 0, .kept⟩
def CAL_SWEEPLOG_RIGHT : RegF := ⟨0xa, 0xa00, 64, 8, 8, 7, .ro, 0, .kept⟩
def CAL_SWEEPLOG_FOUND : RegF := ⟨0xa, 0xa00, 64, 8, 15, 1, .ro, 0, .kept⟩
def tabCAL0 : List RegF := [CAL_TRCTL_TEST, CAL_TRCTL_CHANNEL, CAL_TRCTL_ALL, CAL_TRCTL_DIR, CAL_TRCTL_MODE, CAL_TRCTL_CORE_DIE, CAL_TRCTL_START, CAL_TRCTL_ABORT, CAL_TRSTAT_BUSY, CAL_TRSTAT_RESULT, CAL_TRSTAT_FAIL_CHANNEL, CAL_TRSTAT_FAIL_WIRE, CAL_PATSEL_PATTERN, CAL_PATSEL_SEED, CAL_SWEEPCFG_FIRST, CAL_SWEEPCFG_LAST, CAL_SWEEPCFG_STEP, CAL_SWEEPCFG_DWELL, CAL_SWEEPCFG_TARGET, CAL_WIREIDX_CHANNEL, CAL_WIREIDX_WIRE, CAL_WIREIDX_KIND, CAL_WIREDATA_READ_DLY, CAL_WIREDATA_WRITE_DLY]
def tabCAL1 : List RegF := [CAL_WIREDATA_READ_REF, CAL_WIREDATA_WRITE_REF, CAL_WIREDATA_DUTY, CAL_WIREDATA_MARGIN, CAL_WIREDATA_LANE_CE, CAL_WIREDATA_STEP_COUNT, CAL_SKYCFG_ENABLE, CAL_SKYCFG_OFFSET, CAL_SKYCFG_MARGIN_MIN, CAL_SKYCFG_LANE_CE_MAX, CAL_SKYCFG_STEP_US, CAL_SKYCFG_WIN_MIN, CAL_SKYSTAT_STEPS, CAL_SKYSTAT_WINDOWS, CAL_MARGIN_CHANNEL, CAL_MARGIN_WIRE, CAL_MARGIN_CODES, CAL_WINCFG_PERIOD_MS, CAL_WINCFG_WAIT_US, CAL_PATTERN_W, CAL_CMPCNT, CAL_SWEEPLOG_LEFT, CAL_SWEEPLOG_RIGHT, CAL_SWEEPLOG_FOUND]
/-- The fields of the CAL page. -/
def tabCAL : List RegF := tabCAL0 ++ tabCAL1

/-! SRL (block 0x8) -/
def SRL_UNITS_BUSY : RegF := ⟨0x8, 0x80, 1, 8, 0, 16, .ro, 0, .clear⟩
def SRL_UNITS_QUEUED : RegF := ⟨0x8, 0x80, 1, 8, 16, 16, .ro, 0, .clear⟩
def SRL_UNITS_HELD : RegF := ⟨0x8, 0x80, 1, 8, 32, 16, .ro, 0, .clear⟩
def SRL_SWATHS_POSTED : RegF := ⟨0x8, 0x88, 1, 8, 0, 32, .rws, 0, .kept⟩
def SRL_SWATHS_CANCELLED : RegF := ⟨0x8, 0x88, 1, 8, 32, 32, .rws, 0, .kept⟩
def SRL_PREEMPT_COUNT : RegF := ⟨0x8, 0x90, 1, 8, 0, 32, .rws, 0, .kept⟩
def SRL_PREEMPT_LAST_CAUSE : RegF := ⟨0x8, 0x90, 1, 8, 32, 2, .ro, 0, .kept⟩
def SRL_PREEMPT_LAST_BANK : RegF := ⟨0x8, 0x90, 1, 8, 36, 4, .ro, 0, .kept⟩
def SRL_PREEMPT_LAST_ROW : RegF := ⟨0x8, 0x90, 1, 8, 40, 16, .ro, 0, .kept⟩
def SRL_BREATHER_COUNT : RegF := ⟨0x8, 0x98, 1, 8, 0, 32, .rws, 0, .kept⟩
def SRL_BREATHER_LAST_NS : RegF := ⟨0x8, 0x98, 1, 8, 32, 16, .ro, 0, .kept⟩
def SRL_BREATHER_LONGEST_NS : RegF := ⟨0x8, 0x98, 1, 8, 48, 16, .rws, 0, .kept⟩
def SRL_ACT_MAX_SET : RegF := ⟨0x8, 0xa0, 1, 8, 0, 7, .rw, 0, .kept⟩
def SRL_ACT_MAX_EFFECTIVE : RegF := ⟨0x8, 0xa0, 1, 8, 8, 7, .ro, 0, .kept⟩
def SRL_ACT_MAX_CLASS_DEFAULT : RegF := ⟨0x8, 0xa0, 1, 8, 16, 7, .ro, 0, .kept⟩
def SRL_ACT_MAX_LEDGER_CAP : RegF := ⟨0x8, 0xa0, 1, 8, 24, 7, .ro, 64, .kept⟩
def SRL_COL_GAP_SET : RegF := ⟨0x8, 0xa8, 1, 8, 0, 4, .rw, 1, .kept⟩
def SRL_COL_GAP_EFFECTIVE : RegF := ⟨0x8, 0xa8, 1, 8, 8, 4, .ro, 1, .kept⟩
def SRL_COL_GAP_LEDGER_FLOOR : RegF := ⟨0x8, 0xa8, 1, 8, 12, 4, .ro, 1, .kept⟩
def SRL_SWATH_MAX_NS : RegF := ⟨0x8, 0xb0, 1, 8, 0, 14, .rw, 8000, .kept⟩
def SRL_LASTDROP_SOURCE : RegF := ⟨0x8, 0xb8, 1, 8, 0, 16, .ro, 0, .clear⟩
def SRL_LASTDROP_ROW : RegF := ⟨0x8, 0xb8, 1, 8, 16, 16, .ro, 0, .clear⟩
def tabSRL0 : List RegF := [SRL_UNITS_BUSY, SRL_UNITS_QUEUED, SRL_UNITS_HELD, SRL_SWATHS_POSTED, SRL_SWATHS_CANCELLED, SRL_PREEMPT_COUNT, SRL_PREEMPT_LAST_CAUSE, SRL_PREEMPT_LAST_BANK, SRL_PREEMPT_LAST_ROW, SRL_BREATHER_COUNT, SRL_BREATHER_LAST_NS, SRL_BREATHER_LONGEST_NS, SRL_ACT_MAX_SET, SRL_ACT_MAX_EFFECTIVE, SRL_ACT_MAX_CLASS_DEFAULT, SRL_ACT_MAX_LEDGER_CAP, SRL_COL_GAP_SET, SRL_COL_GAP_EFFECTIVE, SRL_COL_GAP_LEDGER_FLOOR, SRL_SWATH_MAX_NS, SRL_LASTDROP_SOURCE, SRL_LASTDROP_ROW]
/-- The fields of the SRL page. -/
def tabSRL : List RegF := tabSRL0

/-! TILE (block 0x3) -/
def TILE_TSTAT_MX_BUSY : RegF := ⟨0x3, 0x80, 1, 8, 0, 1, .ro, 0, .clear⟩
def TILE_TSTAT_DRAIN_BUSY : RegF := ⟨0x3, 0x80, 1, 8, 1, 1, .ro, 0, .clear⟩
def TILE_TSTAT_VE_BUSY : RegF := ⟨0x3, 0x80, 1, 8, 2, 1, .ro, 0, .clear⟩
def TILE_TSTAT_DMA_BUSY : RegF := ⟨0x3, 0x80, 1, 8, 3, 1, .ro, 0, .clear⟩
def TILE_TSTAT_SRL_BUSY : RegF := ⟨0x3, 0x80, 1, 8, 4, 1, .ro, 0, .clear⟩
def TILE_TSTAT_ACC_ACTIVE : RegF := ⟨0x3, 0x80, 1, 8, 8, 1, .ro, 0, .clear⟩
def TILE_TSTAT_ACC_HELD : RegF := ⟨0x3, 0x80, 1, 8, 9, 1, .ro, 0, .clear⟩
def TILE_MXFLAGS_INVALID : RegF := ⟨0x3, 0x88, 1, 8, 0, 1, .w1c, 0, .clear⟩
def TILE_MXFLAGS_OVERFLOW : RegF := ⟨0x3, 0x88, 1, 8, 1, 1, .w1c, 0, .clear⟩
def TILE_MXFLAGS_NARROW_SAT : RegF := ⟨0x3, 0x88, 1, 8, 2, 1, .w1c, 0, .clear⟩
def TILE_MXFLAGS_POISON_SEEN : RegF := ⟨0x3, 0x88, 1, 8, 3, 1, .w1c, 0, .clear⟩
def TILE_MXRESULT_CODE : RegF := ⟨0x3, 0x90, 1, 8, 0, 16, .ro, 0, .clear⟩
def TILE_MXRESULT_SLOT : RegF := ⟨0x3, 0x90, 1, 8, 16, 3, .ro, 0, .clear⟩
def TILE_MXRESULT_REFUSED : RegF := ⟨0x3, 0x90, 1, 8, 32, 32, .ro, 0, .clear⟩
def TILE_PASSES_PASSES : RegF := ⟨0x3, 0x98, 1, 8, 0, 32, .rws, 0, .kept⟩
def TILE_PASSES_DRAINS : RegF := ⟨0x3, 0x98, 1, 8, 32, 32, .rws, 0, .kept⟩
def TILE_SRAMECC_CORRECTED : RegF := ⟨0x3, 0xa0, 1, 8, 0, 32, .rws, 0, .kept⟩
def TILE_SRAMECC_UNCORRECTABLE : RegF := ⟨0x3, 0xa0, 1, 8, 32, 32, .rws, 0, .kept⟩
def TILE_SRAMLAST_LINE : RegF := ⟨0x3, 0xa8, 1, 8, 0, 16, .ro, 0, .kept⟩
def TILE_RDCONF_VE : RegF := ⟨0x3, 0xb0, 1, 8, 0, 16, .rws, 0, .kept⟩
def TILE_RDCONF_DMA : RegF := ⟨0x3, 0xb0, 1, 8, 16, 16, .rws, 0, .kept⟩
def TILE_RDCONF_SRL : RegF := ⟨0x3, 0xb0, 1, 8, 32, 16, .rws, 0, .kept⟩
def TILE_RDCONF_FABRIC : RegF := ⟨0x3, 0xb0, 1, 8, 48, 16, .rws, 0, .kept⟩
def TILE_WRCONF_VE : RegF := ⟨0x3, 0xb8, 1, 8, 0, 16, .rws, 0, .kept⟩
def TILE_WRCONF_DMA : RegF := ⟨0x3, 0xb8, 1, 8, 16, 16, .rws, 0, .kept⟩
def TILE_WRCONF_SRL : RegF := ⟨0x3, 0xb8, 1, 8, 32, 16, .rws, 0, .kept⟩
def TILE_WRCONF_FABRIC : RegF := ⟨0x3, 0xb8, 1, 8, 48, 16, .rws, 0, .kept⟩
def TILE_SEED : RegF := ⟨0x3, 0xc0, 1, 8, 0, 64, .rw, 0, .clear⟩
def TILE_OOB_READS : RegF := ⟨0x3, 0xc8, 1, 8, 0, 32, .rws, 0, .kept⟩
def TILE_OOB_WRITES : RegF := ⟨0x3, 0xc8, 1, 8, 32, 32, .rws, 0, .kept⟩
def TILE_SEM : RegF := ⟨0x3, 0x100, 8, 8, 0, 64, .rw, 0, .clear⟩
def tabTILE0 : List RegF := [TILE_TSTAT_MX_BUSY, TILE_TSTAT_DRAIN_BUSY, TILE_TSTAT_VE_BUSY, TILE_TSTAT_DMA_BUSY, TILE_TSTAT_SRL_BUSY, TILE_TSTAT_ACC_ACTIVE, TILE_TSTAT_ACC_HELD, TILE_MXFLAGS_INVALID, TILE_MXFLAGS_OVERFLOW, TILE_MXFLAGS_NARROW_SAT, TILE_MXFLAGS_POISON_SEEN, TILE_MXRESULT_CODE, TILE_MXRESULT_SLOT, TILE_MXRESULT_REFUSED, TILE_PASSES_PASSES, TILE_PASSES_DRAINS, TILE_SRAMECC_CORRECTED, TILE_SRAMECC_UNCORRECTABLE, TILE_SRAMLAST_LINE, TILE_RDCONF_VE, TILE_RDCONF_DMA, TILE_RDCONF_SRL, TILE_RDCONF_FABRIC, TILE_WRCONF_VE]
def tabTILE1 : List RegF := [TILE_WRCONF_DMA, TILE_WRCONF_SRL, TILE_WRCONF_FABRIC, TILE_SEED, TILE_OOB_READS, TILE_OOB_WRITES, TILE_SEM]
/-- The fields of the TILE page. -/
def tabTILE : List RegF := tabTILE0 ++ tabTILE1

/-! DESC (block 0x11) -/
def DESC_DSTAT_VALID : RegF := ⟨0x11, 0x80, 1, 8, 0, 13, .ro, 0, .kept⟩
def DESC_DSTAT_LOCAL : RegF := ⟨0x11, 0x80, 1, 8, 13, 1, .ro, 1, .clear⟩
def DESC_DCOUNT_CREATED : RegF := ⟨0x11, 0x88, 1, 8, 0, 32, .rws, 0, .kept⟩
def DESC_DCOUNT_DESTROYED : RegF := ⟨0x11, 0x88, 1, 8, 32, 32, .rws, 0, .kept⟩
def DESC_CMD_OP : RegF := ⟨0x11, 0x100, 9, 16, 0, 2, .wo, 0, .clear⟩
def DESC_CMD_HANDLE : RegF := ⟨0x11, 0x100, 9, 16, 16, 12, .wo, 0, .clear⟩
def DESC_RESULT_CODE : RegF := ⟨0x11, 0x108, 9, 16, 0, 16, .ro, 0, .clear⟩
def DESC_RESULT_DONE : RegF := ⟨0x11, 0x108, 9, 16, 16, 1, .ro, 0, .clear⟩
def DESC_RESULT_BUSY : RegF := ⟨0x11, 0x108, 9, 16, 17, 1, .ro, 0, .clear⟩
def DESC_RESULT_HANDLE : RegF := ⟨0x11, 0x108, 9, 16, 32, 12, .ro, 0, .clear⟩
def DESC_STAGE_W : RegF := ⟨0x11, 0x800, 144, 8, 0, 64, .rw, 0, .clear⟩
def tabDESC0 : List RegF := [DESC_DSTAT_VALID, DESC_DSTAT_LOCAL, DESC_DCOUNT_CREATED, DESC_DCOUNT_DESTROYED, DESC_CMD_OP, DESC_CMD_HANDLE, DESC_RESULT_CODE, DESC_RESULT_DONE, DESC_RESULT_BUSY, DESC_RESULT_HANDLE, DESC_STAGE_W]
/-- The fields of the DESC page. -/
def tabDESC : List RegF := tabDESC0

/-! ALLOC (block 0x12) -/
def ALLOC_ASTAT_LIVE : RegF := ⟨0x12, 0x80, 1, 8, 0, 11, .ro, 0, .kept⟩
def ALLOC_REQ0_OP : RegF := ⟨0x12, 0x100, 9, 32, 0, 2, .rw, 0, .kept⟩
def ALLOC_REQ0_KIND : RegF := ⟨0x12, 0x100, 9, 32, 2, 1, .rw, 0, .kept⟩
def ALLOC_REQ0_ID : RegF := ⟨0x12, 0x100, 9, 32, 8, 10, .rw, 0, .kept⟩
def ALLOC_REQ0_TILE : RegF := ⟨0x12, 0x100, 9, 32, 20, 9, .rw, 0, .kept⟩
def ALLOC_REQ1_BASE : RegF := ⟨0x12, 0x108, 9, 32, 0, 41, .rw, 0, .kept⟩
def ALLOC_REQ2_SIZE : RegF := ⟨0x12, 0x110, 9, 32, 0, 41, .rw, 0, .kept⟩
def ALLOC_REQ3_GO : RegF := ⟨0x12, 0x118, 9, 32, 0, 1, .wo, 0, .clear⟩
def ALLOC_ARESULT_CODE : RegF := ⟨0x12, 0x300, 9, 8, 0, 16, .ro, 0, .kept⟩
def ALLOC_ARESULT_DONE : RegF := ⟨0x12, 0x300, 9, 8, 16, 1, .ro, 0, .kept⟩
def ALLOC_ARESULT_BUSY : RegF := ⟨0x12, 0x300, 9, 8, 17, 1, .ro, 0, .clear⟩
def ALLOC_ARESULT_ID : RegF := ⟨0x12, 0x300, 9, 8, 18, 10, .ro, 0, .kept⟩
def tabALLOC0 : List RegF := [ALLOC_ASTAT_LIVE, ALLOC_REQ0_OP, ALLOC_REQ0_KIND, ALLOC_REQ0_ID, ALLOC_REQ0_TILE, ALLOC_REQ1_BASE, ALLOC_REQ2_SIZE, ALLOC_REQ3_GO, ALLOC_ARESULT_CODE, ALLOC_ARESULT_DONE, ALLOC_ARESULT_BUSY, ALLOC_ARESULT_ID]
/-- The fields of the ALLOC page. -/
def tabALLOC : List RegF := tabALLOC0

/-! OWN (block 0x1a) -/
def OWN_SVC_MODE : RegF := ⟨0x1a, 0x80, 1, 8, 0, 1, .rw, 0, .clear⟩
def OWN_SEL_TABLE : RegF := ⟨0x1a, 0x88, 1, 8, 0, 5, .rw, 0, .clear⟩
def OWN_MAP_PUBLISHED : RegF := ⟨0x1a, 0x90, 1, 8, 0, 32, .ro, 0, .clear⟩
def OWN_STAT_REMOTE_REFUSED : RegF := ⟨0x1a, 0x98, 1, 8, 0, 32, .rws, 0, .kept⟩
def OWN_STAT_PUBLISHED : RegF := ⟨0x1a, 0x98, 1, 8, 32, 32, .rws, 0, .kept⟩
def OWN_T_CFG_RANK : RegF := ⟨0x1a, 0x100, 1, 8, 0, 3, .rw, 0, .clear⟩
def OWN_T_CFG_ETYPE : RegF := ⟨0x1a, 0x100, 1, 8, 4, 4, .rw, 0, .clear⟩
def OWN_T_CFG_COUNT : RegF := ⟨0x1a, 0x100, 1, 8, 32, 17, .ro, 0, .clear⟩
def OWN_T_BLOCK : RegF := ⟨0x1a, 0x108, 3, 8, 0, 64, .rw, 0, .clear⟩
def OWN_T_GRID : RegF := ⟨0x1a, 0x120, 2, 8, 0, 60, .rw, 0, .clear⟩
def OWN_T_SRC : RegF := ⟨0x1a, 0x130, 1, 8, 0, 41, .rw, 0, .clear⟩
def OWN_T_CMD_OP : RegF := ⟨0x1a, 0x138, 1, 8, 0, 2, .wo, 0, .clear⟩
def OWN_T_RESULT_CODE : RegF := ⟨0x1a, 0x140, 1, 8, 0, 16, .ro, 0, .clear⟩
def OWN_T_RESULT_STATE : RegF := ⟨0x1a, 0x140, 1, 8, 16, 3, .ro, 0, .clear⟩
def OWN_T_RESULT_ENTRY : RegF := ⟨0x1a, 0x140, 1, 8, 32, 17, .ro, 0, .clear⟩
def OWN_T_CRC_CRC : RegF := ⟨0x1a, 0x148, 1, 8, 0, 32, .ro, 0, .clear⟩
def OWN_T_CRC_REMOTE_PAIRS : RegF := ⟨0x1a, 0x148, 1, 8, 32, 17, .ro, 0, .clear⟩
def OWN_T_REFS_REMOTE_DESC : RegF := ⟨0x1a, 0x150, 1, 8, 0, 13, .ro, 0, .clear⟩
def tabOWN0 : List RegF := [OWN_SVC_MODE, OWN_SEL_TABLE, OWN_MAP_PUBLISHED, OWN_STAT_REMOTE_REFUSED, OWN_STAT_PUBLISHED, OWN_T_CFG_RANK, OWN_T_CFG_ETYPE, OWN_T_CFG_COUNT, OWN_T_BLOCK, OWN_T_GRID, OWN_T_SRC, OWN_T_CMD_OP, OWN_T_RESULT_CODE, OWN_T_RESULT_STATE, OWN_T_RESULT_ENTRY, OWN_T_CRC_CRC, OWN_T_CRC_REMOTE_PAIRS, OWN_T_REFS_REMOTE_DESC]
/-- The fields of the OWN page. -/
def tabOWN : List RegF := tabOWN0

/-! DMA (block 0x5) -/
def DMA_DSTAT_BUSY : RegF := ⟨0x5, 0x80, 1, 8, 0, 4, .ro, 0, .clear⟩
def DMA_CH_PROG_ADDR : RegF := ⟨0x5, 0x100, 4, 64, 0, 41, .rw, 0, .clear⟩
def DMA_CH_PROG_SRAM : RegF := ⟨0x5, 0x100, 4, 64, 63, 1, .rw, 0, .clear⟩
def DMA_CH_START_GO : RegF := ⟨0x5, 0x108, 4, 64, 0, 1, .wo, 0, .clear⟩
def DMA_CH_STAT_STATE : RegF := ⟨0x5, 0x110, 4, 64, 0, 3, .ro, 0, .clear⟩
def DMA_CH_STAT_PC : RegF := ⟨0x5, 0x110, 4, 64, 4, 8, .ro, 0, .clear⟩
def DMA_CH_STAT_DEPTH : RegF := ⟨0x5, 0x110, 4, 64, 12, 3, .ro, 0, .clear⟩
def DMA_CH_STAT_READS : RegF := ⟨0x5, 0x110, 4, 64, 32, 5, .ro, 0, .clear⟩
def DMA_CH_STAT_WRITES : RegF := ⟨0x5, 0x110, 4, 64, 37, 5, .ro, 0, .clear⟩
def DMA_CH_RESULT_CODE : RegF := ⟨0x5, 0x118, 4, 64, 0, 16, .ro, 0, .clear⟩
def DMA_CH_RESULT_PC : RegF := ⟨0x5, 0x118, 4, 64, 16, 8, .ro, 0, .clear⟩
def DMA_CH_COUNT_PROGRAMS : RegF := ⟨0x5, 0x120, 4, 64, 0, 32, .rws, 0, .kept⟩
def DMA_CH_COUNT_NOOPS : RegF := ⟨0x5, 0x120, 4, 64, 32, 32, .rws, 0, .kept⟩
def DMA_CH_BYTES : RegF := ⟨0x5, 0x128, 4, 64, 0, 64, .rws, 0, .kept⟩
def tabDMA0 : List RegF := [DMA_DSTAT_BUSY, DMA_CH_PROG_ADDR, DMA_CH_PROG_SRAM, DMA_CH_START_GO, DMA_CH_STAT_STATE, DMA_CH_STAT_PC, DMA_CH_STAT_DEPTH, DMA_CH_STAT_READS, DMA_CH_STAT_WRITES, DMA_CH_RESULT_CODE, DMA_CH_RESULT_PC, DMA_CH_COUNT_PROGRAMS, DMA_CH_COUNT_NOOPS, DMA_CH_BYTES]
/-- The fields of the DMA page. -/
def tabDMA : List RegF := tabDMA0

/-! SEQ (block 0x2) -/
def SEQ_RUN_START : RegF := ⟨0x2, 0x80, 1, 8, 0, 1, .wo, 0, .clear⟩
def SEQ_RUN_STOP : RegF := ⟨0x2, 0x80, 1, 8, 1, 1, .wo, 0, .clear⟩
def SEQ_CFG_MODE : RegF := ⟨0x2, 0x88, 1, 8, 0, 1, .rw, 0, .clear⟩
def SEQ_ENTRY_ADDR : RegF := ⟨0x2, 0x90, 1, 8, 0, 18, .rw, 0, .kept⟩
def SEQ_STAT_PHASE : RegF := ⟨0x2, 0x98, 1, 8, 0, 3, .ro, 0, .clear⟩
def SEQ_STAT_DEPTH : RegF := ⟨0x2, 0x98, 1, 8, 3, 3, .ro, 0, .clear⟩
def SEQ_STAT_IN_LIB : RegF := ⟨0x2, 0x98, 1, 8, 6, 1, .ro, 0, .clear⟩
def SEQ_STAT_BANK : RegF := ⟨0x2, 0x98, 1, 8, 7, 1, .ro, 0, .kept⟩
def SEQ_STAT_PC : RegF := ⟨0x2, 0x98, 1, 8, 32, 18, .ro, 0, .clear⟩
def SEQ_WORDS_COUNT : RegF := ⟨0x2, 0xa0, 1, 8, 0, 32, .ro, 0, .clear⟩
def SEQ_CUT_N : RegF := ⟨0x2, 0xa8, 1, 8, 0, 32, .rw, 0, .kept⟩
def SEQ_CUT_MARKER : RegF := ⟨0x2, 0xa8, 1, 8, 32, 16, .rw, 0, .kept⟩
def SEQ_CUT_MODE : RegF := ⟨0x2, 0xa8, 1, 8, 48, 2, .rw, 0, .kept⟩
def SEQ_CUT_HIT : RegF := ⟨0x2, 0xa8, 1, 8, 50, 1, .ro, 0, .clear⟩
def SEQ_QUIET_TC : RegF := ⟨0x2, 0xb0, 1, 8, 0, 32, .rw, 1024, .kept⟩
def SEQ_UNDERRUN_MX : RegF := ⟨0x2, 0xb8, 1, 8, 0, 16, .rws, 0, .kept⟩
def SEQ_UNDERRUN_VE : RegF := ⟨0x2, 0xb8, 1, 8, 16, 16, .rws, 0, .kept⟩
def SEQ_UNDERRUN_DMA : RegF := ⟨0x2, 0xb8, 1, 8, 32, 16, .rws, 0, .kept⟩
def SEQ_UNDERRUN_SRL : RegF := ⟨0x2, 0xb8, 1, 8, 48, 16, .rws, 0, .kept⟩
def SEQ_HOLD_FIFO_TC : RegF := ⟨0x2, 0xc0, 1, 8, 0, 32, .rws, 0, .kept⟩
def SEQ_HOLD_TOKW_TC : RegF := ⟨0x2, 0xc0, 1, 8, 32, 32, .rws, 0, .kept⟩
def tabSEQ0 : List RegF := [SEQ_RUN_START, SEQ_RUN_STOP, SEQ_CFG_MODE, SEQ_ENTRY_ADDR, SEQ_STAT_PHASE, SEQ_STAT_DEPTH, SEQ_STAT_IN_LIB, SEQ_STAT_BANK, SEQ_STAT_PC, SEQ_WORDS_COUNT, SEQ_CUT_N, SEQ_CUT_MARKER, SEQ_CUT_MODE, SEQ_CUT_HIT, SEQ_QUIET_TC, SEQ_UNDERRUN_MX, SEQ_UNDERRUN_VE, SEQ_UNDERRUN_DMA, SEQ_UNDERRUN_SRL, SEQ_HOLD_FIFO_TC, SEQ_HOLD_TOKW_TC]
/-- The fields of the SEQ page. -/
def tabSEQ : List RegF := tabSEQ0

/-! IMEM (block 0x16) -/
def IMEM_BANK_ACTIVE : RegF := ⟨0x16, 0x80, 1, 8, 0, 1, .rw, 0, .kept⟩
def IMEM_BANK_FETCHING : RegF := ⟨0x16, 0x80, 1, 8, 1, 1, .ro, 0, .clear⟩
def IMEM_LOADSRC_PA : RegF := ⟨0x16, 0x88, 1, 8, 0, 41, .rw, 0, .kept⟩
def IMEM_LOADDST_OFFSET : RegF := ⟨0x16, 0x90, 1, 8, 0, 20, .rw, 0, .kept⟩
def IMEM_LOADDST_LEN : RegF := ⟨0x16, 0x90, 1, 8, 20, 20, .rw, 0, .kept⟩
def IMEM_LOADDST_BANK : RegF := ⟨0x16, 0x90, 1, 8, 40, 1, .rw, 0, .kept⟩
def IMEM_LOADGO_GO : RegF := ⟨0x16, 0x98, 1, 8, 0, 1, .wo, 0, .clear⟩
def IMEM_LOADSTAT_CODE : RegF := ⟨0x16, 0xa0, 1, 8, 0, 16, .ro, 0, .kept⟩
def IMEM_LOADSTAT_DONE : RegF := ⟨0x16, 0xa0, 1, 8, 16, 1, .ro, 0, .kept⟩
def IMEM_LOADSTAT_BUSY : RegF := ⟨0x16, 0xa0, 1, 8, 17, 1, .ro, 0, .clear⟩
def IMEM_LOADSTAT_CRC : RegF := ⟨0x16, 0xa0, 1, 8, 32, 32, .ro, 0, .kept⟩
def IMEM_ECC_CORRECTED : RegF := ⟨0x16, 0xa8, 1, 8, 0, 32, .rws, 0, .kept⟩
def IMEM_ECC_UNCORRECTABLE : RegF := ⟨0x16, 0xa8, 1, 8, 32, 32, .rws, 0, .kept⟩
def tabIMEM0 : List RegF := [IMEM_BANK_ACTIVE, IMEM_BANK_FETCHING, IMEM_LOADSRC_PA, IMEM_LOADDST_OFFSET, IMEM_LOADDST_LEN, IMEM_LOADDST_BANK, IMEM_LOADGO_GO, IMEM_LOADSTAT_CODE, IMEM_LOADSTAT_DONE, IMEM_LOADSTAT_BUSY, IMEM_LOADSTAT_CRC, IMEM_ECC_CORRECTED, IMEM_ECC_UNCORRECTABLE]
/-- The fields of the IMEM page. -/
def tabIMEM : List RegF := tabIMEM0

/-! LIB (block 0x17) -/
def LIB_INFO_VERSION : RegF := ⟨0x17, 0x80, 1, 8, 0, 32, .ro, 0, .kept⟩
def LIB_INFO_SEQ_ROUTINES : RegF := ⟨0x17, 0x80, 1, 8, 32, 9, .ro, 0, .kept⟩
def LIB_INFO_ENG_ROUTINES : RegF := ⟨0x17, 0x80, 1, 8, 41, 7, .ro, 3, .kept⟩
def LIB_CALLS_CALL : RegF := ⟨0x17, 0x88, 1, 8, 0, 32, .rws, 0, .kept⟩
def LIB_CALLS_ECALL : RegF := ⟨0x17, 0x88, 1, 8, 32, 32, .rws, 0, .kept⟩
def LIB_ENTRY_OFFSET : RegF := ⟨0x17, 0x100, 256, 8, 0, 17, .ro, 0, .kept⟩
def LIB_ENTRY_LENGTH : RegF := ⟨0x17, 0x100, 256, 8, 17, 17, .ro, 0, .kept⟩
def LIB_ENTRY_VALID : RegF := ⟨0x17, 0x100, 256, 8, 63, 1, .ro, 0, .kept⟩
def tabLIB0 : List RegF := [LIB_INFO_VERSION, LIB_INFO_SEQ_ROUTINES, LIB_INFO_ENG_ROUTINES, LIB_CALLS_CALL, LIB_CALLS_ECALL, LIB_ENTRY_OFFSET, LIB_ENTRY_LENGTH, LIB_ENTRY_VALID]
/-- The fields of the LIB page. -/
def tabLIB : List RegF := tabLIB0

/-! TRC (block 0x19) -/
def TRC_CTL_ENABLE : RegF := ⟨0x19, 0x80, 1, 8, 0, 1, .rw, 1, .kept⟩
def TRC_CTL_KINDS : RegF := ⟨0x19, 0x80, 1, 8, 1, 13, .rw, 8191, .kept⟩
def TRC_STAT_NEXT_SEQ : RegF := ⟨0x19, 0x88, 1, 8, 0, 32, .ro, 0, .kept⟩
def TRC_STAT_OVERWRITTEN : RegF := ⟨0x19, 0x88, 1, 8, 32, 32, .rws, 0, .kept⟩
def TRC_IDX_INDEX : RegF := ⟨0x19, 0x90, 1, 8, 0, 10, .rw, 0, .kept⟩
def TRC_DATA : RegF := ⟨0x19, 0x98, 4, 8, 0, 64, .ro, 0, .kept⟩
def tabTRC0 : List RegF := [TRC_CTL_ENABLE, TRC_CTL_KINDS, TRC_STAT_NEXT_SEQ, TRC_STAT_OVERWRITTEN, TRC_IDX_INDEX, TRC_DATA]
/-- The fields of the TRC page. -/
def tabTRC : List RegF := tabTRC0

/-! LCB (block 0x4) -/
def LCB_SLOTSTAT_CLASS_A : RegF := ⟨0x4, 0x80, 1, 8, 0, 4, .ro, 0, .clear⟩
def LCB_SLOTSTAT_LATCHED_A : RegF := ⟨0x4, 0x80, 1, 8, 4, 1, .ro, 0, .clear⟩
def LCB_SLOTSTAT_CLASS_B : RegF := ⟨0x4, 0x80, 1, 8, 8, 4, .ro, 0, .clear⟩
def LCB_SLOTSTAT_LATCHED_B : RegF := ⟨0x4, 0x80, 1, 8, 12, 1, .ro, 0, .clear⟩
def LCB_SLOTSTAT_CLASS_C : RegF := ⟨0x4, 0x80, 1, 8, 16, 4, .ro, 0, .clear⟩
def LCB_SLOTSTAT_LATCHED_C : RegF := ⟨0x4, 0x80, 1, 8, 20, 1, .ro, 0, .clear⟩
def LCB_SLOTSTAT_CLASS_D : RegF := ⟨0x4, 0x80, 1, 8, 24, 4, .ro, 0, .clear⟩
def LCB_SLOTSTAT_LATCHED_D : RegF := ⟨0x4, 0x80, 1, 8, 28, 1, .ro, 0, .clear⟩
def LCB_ITER_MX_PASSES : RegF := ⟨0x4, 0x88, 1, 8, 0, 32, .ro, 0, .clear⟩
def LCB_ITER_SRL_LAUNCHES : RegF := ⟨0x4, 0x88, 1, 8, 32, 32, .ro, 0, .clear⟩
def LCB_ASF_PUSH : RegF := ⟨0x4, 0xc0, 1, 8, 0, 64, .wo, 0, .clear⟩
def LCB_ASF_STAT_LEVEL : RegF := ⟨0x4, 0xc8, 1, 8, 0, 9, .ro, 0, .clear⟩
def LCB_ASF_STAT_POPPED : RegF := ⟨0x4, 0xc8, 1, 8, 32, 32, .rws, 0, .kept⟩
def LCB_SLOT_A_W : RegF := ⟨0x4, 0x400, 64, 8, 0, 64, .rw, 0, .clear⟩
def LCB_SLOT_B_W : RegF := ⟨0x4, 0x600, 64, 8, 0, 64, .rw, 0, .clear⟩
def LCB_SLOT_C_W : RegF := ⟨0x4, 0x800, 64, 8, 0, 64, .rw, 0, .clear⟩
def LCB_SLOT_D_W : RegF := ⟨0x4, 0xa00, 64, 8, 0, 64, .rw, 0, .clear⟩
def tabLCB0 : List RegF := [LCB_SLOTSTAT_CLASS_A, LCB_SLOTSTAT_LATCHED_A, LCB_SLOTSTAT_CLASS_B, LCB_SLOTSTAT_LATCHED_B, LCB_SLOTSTAT_CLASS_C, LCB_SLOTSTAT_LATCHED_C, LCB_SLOTSTAT_CLASS_D, LCB_SLOTSTAT_LATCHED_D, LCB_ITER_MX_PASSES, LCB_ITER_SRL_LAUNCHES, LCB_ASF_PUSH, LCB_ASF_STAT_LEVEL, LCB_ASF_STAT_POPPED, LCB_SLOT_A_W, LCB_SLOT_B_W, LCB_SLOT_C_W, LCB_SLOT_D_W]
/-- The fields of the LCB page. -/
def tabLCB : List RegF := tabLCB0

/-! ARB (block 0xb) -/
def ARB_CFG_KIND : RegF := ⟨0xb, 0x80, 1, 8, 0, 3, .ro, 0, .kept⟩
def ARB_CFG_REQS : RegF := ⟨0xb, 0x80, 1, 8, 8, 5, .ro, 0, .kept⟩
def ARB_CFG_CRITICAL : RegF := ⟨0xb, 0x80, 1, 8, 16, 1, .rw, 0, .kept⟩
def ARB_CFG_HOLD_MAX : RegF := ⟨0xb, 0x80, 1, 8, 24, 12, .rw, 256, .kept⟩
def ARB_CFG_PASS_MAX : RegF := ⟨0xb, 0x80, 1, 8, 40, 8, .rw, 32, .kept⟩
def ARB_HOLD_HOLDER : RegF := ⟨0xb, 0x88, 1, 8, 0, 5, .ro, 0, .clear⟩
def ARB_HOLD_VALID : RegF := ⟨0xb, 0x88, 1, 8, 5, 1, .ro, 0, .clear⟩
def ARB_HOLD_WAITING : RegF := ⟨0xb, 0x88, 1, 8, 32, 20, .ro, 0, .clear⟩
def ARB_ISOL : RegF := ⟨0xb, 0x90, 1, 8, 0, 20, .w1c, 0, .clear⟩
def ARB_COUNT_GRANTS : RegF := ⟨0xb, 0x98, 1, 8, 0, 32, .rws, 0, .kept⟩
def ARB_COUNT_PREEMPTS : RegF := ⟨0xb, 0x98, 1, 8, 32, 32, .rws, 0, .kept⟩
def ARB_HOLDSTAT_CUTOFFS : RegF := ⟨0xb, 0xa0, 1, 8, 0, 32, .rws, 0, .kept⟩
def ARB_HOLDSTAT_ISOLATIONS : RegF := ⟨0xb, 0xa0, 1, 8, 32, 32, .rws, 0, .kept⟩
def ARB_WAITMAX_WAIT_FC : RegF := ⟨0xb, 0xa8, 1, 8, 0, 32, .rws, 0, .kept⟩
def ARB_WAITMAX_REQ : RegF := ⟨0xb, 0xa8, 1, 8, 32, 5, .ro, 0, .kept⟩
def ARB_OFFENCES : RegF := ⟨0xb, 0xb0, 1, 8, 0, 40, .ro, 0, .clear⟩
def ARB_PRIO0 : RegF := ⟨0xb, 0x100, 1, 8, 0, 64, .rw, 0, .kept⟩
def ARB_PRIO1 : RegF := ⟨0xb, 0x108, 1, 8, 0, 19, .rw, 0, .kept⟩
def ARB_HINT0 : RegF := ⟨0xb, 0x110, 1, 8, 0, 64, .ro, 0, .clear⟩
def ARB_HINT1 : RegF := ⟨0xb, 0x118, 1, 8, 0, 16, .ro, 0, .clear⟩
def tabARB0 : List RegF := [ARB_CFG_KIND, ARB_CFG_REQS, ARB_CFG_CRITICAL, ARB_CFG_HOLD_MAX, ARB_CFG_PASS_MAX, ARB_HOLD_HOLDER, ARB_HOLD_VALID, ARB_HOLD_WAITING, ARB_ISOL, ARB_COUNT_GRANTS, ARB_COUNT_PREEMPTS, ARB_HOLDSTAT_CUTOFFS, ARB_HOLDSTAT_ISOLATIONS, ARB_WAITMAX_WAIT_FC, ARB_WAITMAX_REQ, ARB_OFFENCES, ARB_PRIO0, ARB_PRIO1, ARB_HINT0, ARB_HINT1]
/-- The fields of the ARB page. -/
def tabARB : List RegF := tabARB0

/-! FAB (block 0xc) -/
def FAB_EDGE_PRESENT : RegF := ⟨0xc, 0x80, 1, 8, 0, 1, .ro, 1, .kept⟩
def FAB_EDGE_PEER : RegF := ⟨0xc, 0x80, 1, 8, 1, 3, .ro, 0, .kept⟩
def FAB_EDGE_STATE : RegF := ⟨0xc, 0x80, 1, 8, 4, 2, .ro, 0, .kept⟩
def FAB_BYTES_OUT : RegF := ⟨0xc, 0x88, 1, 8, 0, 64, .rws, 0, .kept⟩
def FAB_BYTES_IN : RegF := ⟨0xc, 0x90, 1, 8, 0, 64, .rws, 0, .kept⟩
def FAB_STALL_FC : RegF := ⟨0xc, 0x98, 1, 8, 0, 64, .rws, 0, .kept⟩
def FAB_RETRY_RETRIES : RegF := ⟨0xc, 0xa0, 1, 8, 0, 32, .rws, 0, .kept⟩
def FAB_RETRY_RUN_MAX : RegF := ⟨0xc, 0xa0, 1, 8, 32, 4, .ro, 0, .kept⟩
def tabFAB0 : List RegF := [FAB_EDGE_PRESENT, FAB_EDGE_PEER, FAB_EDGE_STATE, FAB_BYTES_OUT, FAB_BYTES_IN, FAB_STALL_FC, FAB_RETRY_RETRIES, FAB_RETRY_RUN_MAX]
/-- The fields of the FAB page. -/
def tabFAB : List RegF := tabFAB0

/-! VYL (block 0xd) -/
def VYL_PSTAT_STATE : RegF := ⟨0xd, 0x80, 1, 8, 0, 3, .ro, 0, .kept⟩
def VYL_PSTAT_LANES_LOCKED : RegF := ⟨0xd, 0x80, 1, 8, 8, 8, .ro, 0, .kept⟩
def VYL_PSTAT_PEER_PART : RegF := ⟨0xd, 0x80, 1, 8, 16, 6, .ro, 0, .kept⟩
def VYL_PSTAT_PEER_PORT : RegF := ⟨0xd, 0x80, 1, 8, 24, 4, .ro, 0, .kept⟩
def VYL_PSTAT_PEER_VALID : RegF := ⟨0xd, 0x80, 1, 8, 28, 1, .ro, 0, .kept⟩
def VYL_CFG_POISON_FORWARD : RegF := ⟨0xd, 0x88, 1, 8, 0, 1, .rw, 1, .kept⟩
def VYL_CFG_DATELINE : RegF := ⟨0xd, 0x88, 1, 8, 1, 1, .rw, 0, .kept⟩
def VYL_CFG_NAK_FAULT : RegF := ⟨0xd, 0x88, 1, 8, 2, 1, .rw, 1, .kept⟩
def VYL_CFG_HALF : RegF := ⟨0xd, 0x88, 1, 8, 3, 2, .rw, 0, .kept⟩
def VYL_CFG_REPLAY_MAX : RegF := ⟨0xd, 0x88, 1, 8, 8, 4, .rw, 8, .kept⟩
def VYL_CFG_REPLAY_TMO_NS : RegF := ⟨0xd, 0x88, 1, 8, 16, 16, .rw, 2000, .kept⟩
def VYL_CFG_EQ_MIN : RegF := ⟨0xd, 0x88, 1, 8, 32, 8, .rw, 16, .kept⟩
def VYL_RETRAIN_GO : RegF := ⟨0xd, 0x90, 1, 8, 0, 1, .wo, 0, .clear⟩
def VYL_TXFLITS : RegF := ⟨0xd, 0x98, 1, 8, 0, 64, .rws, 0, .kept⟩
def VYL_RXFLITS : RegF := ⟨0xd, 0xa0, 1, 8, 0, 64, .rws, 0, .kept⟩
def VYL_FEC_CORRECTED : RegF := ⟨0xd, 0xa8, 1, 8, 0, 32, .rws, 0, .kept⟩
def VYL_FEC_UNCORRECTABLE : RegF := ⟨0xd, 0xa8, 1, 8, 32, 32, .rws, 0, .kept⟩
def VYL_REPLAY_REPLAYS : RegF := ⟨0xd, 0xb0, 1, 8, 0, 32, .rws, 0, .kept⟩
def VYL_REPLAY_RUN_MAX : RegF := ⟨0xd, 0xb0, 1, 8, 32, 4, .ro, 0, .kept⟩
def VYL_LANESYM : RegF := ⟨0xd, 0xb8, 1, 8, 0, 64, .ro, 0, .kept⟩
def VYL_EQ : RegF := ⟨0xd, 0xc0, 1, 8, 0, 64, .ro, 0, .kept⟩
def VYL_STALL_CREDIT_US : RegF := ⟨0xd, 0xc8, 1, 8, 0, 32, .rws, 0, .kept⟩
def VYL_STALL_REPLAY_FULL_US : RegF := ⟨0xd, 0xc8, 1, 8, 32, 32, .rws, 0, .kept⟩
def VYL_REFUSED_COUNT : RegF := ⟨0xd, 0xd0, 1, 8, 0, 32, .rws, 0, .kept⟩
def VYL_REFUSED_LAST_STATUS : RegF := ⟨0xd, 0xd0, 1, 8, 32, 4, .ro, 0, .kept⟩
def tabVYL0 : List RegF := [VYL_PSTAT_STATE, VYL_PSTAT_LANES_LOCKED, VYL_PSTAT_PEER_PART, VYL_PSTAT_PEER_PORT, VYL_PSTAT_PEER_VALID, VYL_CFG_POISON_FORWARD, VYL_CFG_DATELINE, VYL_CFG_NAK_FAULT, VYL_CFG_HALF, VYL_CFG_REPLAY_MAX, VYL_CFG_REPLAY_TMO_NS, VYL_CFG_EQ_MIN, VYL_RETRAIN_GO, VYL_TXFLITS, VYL_RXFLITS, VYL_FEC_CORRECTED, VYL_FEC_UNCORRECTABLE, VYL_REPLAY_REPLAYS, VYL_REPLAY_RUN_MAX, VYL_LANESYM, VYL_EQ, VYL_STALL_CREDIT_US, VYL_STALL_REPLAY_FULL_US, VYL_REFUSED_COUNT]
def tabVYL1 : List RegF := [VYL_REFUSED_LAST_STATUS]
/-- The fields of the VYL page. -/
def tabVYL : List RegF := tabVYL0 ++ tabVYL1

/-! SYNC (block 0x13) -/
def SYNC_PARTID_PART : RegF := ⟨0x13, 0x80, 1, 8, 0, 6, .rw, 0, .kept⟩
def SYNC_TIMEOUT_CMP_US : RegF := ⟨0x13, 0x88, 1, 8, 0, 16, .rw, 1000, .kept⟩
def SYNC_SIGCOUNT_SIG_IN : RegF := ⟨0x13, 0x90, 1, 8, 0, 32, .rws, 0, .kept⟩
def SYNC_SIGCOUNT_FENCE_IN : RegF := ⟨0x13, 0x90, 1, 8, 32, 32, .rws, 0, .kept⟩
def SYNC_WATCH_COUNTER : RegF := ⟨0x13, 0x100, 8, 8, 0, 12, .rw, 0, .clear⟩
def SYNC_WATCH_ARMED : RegF := ⟨0x13, 0x100, 8, 8, 12, 1, .rw, 0, .clear⟩
def SYNC_WATCH_TARGET : RegF := ⟨0x13, 0x100, 8, 8, 32, 32, .rw, 0, .clear⟩
def SYNC_ROUTE_PORT_A : RegF := ⟨0x13, 0x400, 64, 8, 0, 4, .rw, 0, .kept⟩
def SYNC_ROUTE_PORT_B : RegF := ⟨0x13, 0x400, 64, 8, 4, 4, .rw, 0, .kept⟩
def SYNC_ROUTE_SELF : RegF := ⟨0x13, 0x400, 64, 8, 8, 1, .rw, 0, .kept⟩
def SYNC_ROUTE_VALID : RegF := ⟨0x13, 0x400, 64, 8, 9, 1, .rw, 0, .kept⟩
def tabSYNC0 : List RegF := [SYNC_PARTID_PART, SYNC_TIMEOUT_CMP_US, SYNC_SIGCOUNT_SIG_IN, SYNC_SIGCOUNT_FENCE_IN, SYNC_WATCH_COUNTER, SYNC_WATCH_ARMED, SYNC_WATCH_TARGET, SYNC_ROUTE_PORT_A, SYNC_ROUTE_PORT_B, SYNC_ROUTE_SELF, SYNC_ROUTE_VALID]
/-- The fields of the SYNC page. -/
def tabSYNC : List RegF := tabSYNC0

/-! CXL (block 0xe) -/
def CXL_LINK_STATE : RegF := ⟨0xe, 0x80, 1, 8, 0, 2, .ro, 0, .kept⟩
def CXL_LINK_WIDTH : RegF := ⟨0xe, 0x80, 1, 8, 2, 5, .ro, 0, .kept⟩
def CXL_LINK_RATE : RegF := ⟨0xe, 0x80, 1, 8, 7, 2, .ro, 0, .kept⟩
def CXL_LINK_FLIT256 : RegF := ⟨0xe, 0x80, 1, 8, 9, 1, .ro, 0, .kept⟩
def CXL_MEM_INFO_VALID : RegF := ⟨0xe, 0x88, 1, 8, 0, 1, .ro, 0, .kept⟩
def CXL_MEM_ACTIVE : RegF := ⟨0xe, 0x88, 1, 8, 1, 1, .ro, 0, .kept⟩
def CXL_SPAN_GIB : RegF := ⟨0xe, 0x90, 1, 8, 0, 16, .ro, 0, .kept⟩
def CXL_RDCOUNT : RegF := ⟨0xe, 0x98, 1, 8, 0, 64, .rws, 0, .kept⟩
def CXL_WRCOUNT : RegF := ⟨0xe, 0xa0, 1, 8, 0, 64, .rws, 0, .kept⟩
def CXL_POISON_OUT : RegF := ⟨0xe, 0xa8, 1, 8, 0, 32, .rws, 0, .kept⟩
def CXL_POISON_IN : RegF := ⟨0xe, 0xa8, 1, 8, 32, 32, .rws, 0, .kept⟩
def CXL_PARK_COUNT : RegF := ⟨0xe, 0xb0, 1, 8, 0, 32, .rws, 0, .kept⟩
def CXL_PARK_MAX_NS : RegF := ⟨0xe, 0xb0, 1, 8, 32, 32, .rws, 0, .kept⟩
def CXL_NOTACTIVE_COUNT : RegF := ⟨0xe, 0xb8, 1, 8, 0, 32, .rws, 0, .kept⟩
def CXL_MBOX_LAST_OPCODE : RegF := ⟨0xe, 0xc0, 1, 8, 0, 16, .ro, 0, .kept⟩
def CXL_MBOX_LAST_RC : RegF := ⟨0xe, 0xc0, 1, 8, 16, 16, .ro, 0, .kept⟩
def CXL_MBOX_COMMANDS : RegF := ⟨0xe, 0xc0, 1, 8, 32, 32, .rws, 0, .kept⟩
def tabCXL0 : List RegF := [CXL_LINK_STATE, CXL_LINK_WIDTH, CXL_LINK_RATE, CXL_LINK_FLIT256, CXL_MEM_INFO_VALID, CXL_MEM_ACTIVE, CXL_SPAN_GIB, CXL_RDCOUNT, CXL_WRCOUNT, CXL_POISON_OUT, CXL_POISON_IN, CXL_PARK_COUNT, CXL_PARK_MAX_NS, CXL_NOTACTIVE_COUNT, CXL_MBOX_LAST_OPCODE, CXL_MBOX_LAST_RC, CXL_MBOX_COMMANDS]
/-- The fields of the CXL page. -/
def tabCXL : List RegF := tabCXL0

/-! LEDG (block 0xf) -/
def LEDG_CLASS_CLASS : RegF := ⟨0xf, 0x80, 1, 8, 0, 2, .rw, 0, .kept⟩
def LEDG_CLASS_PENDING : RegF := ⟨0xf, 0x80, 1, 8, 2, 2, .ro, 0, .kept⟩
def LEDG_CLASS_PEND_VALID : RegF := ⟨0xf, 0x80, 1, 8, 4, 1, .ro, 0, .kept⟩
def LEDG_CEILING_CEILING : RegF := ⟨0xf, 0x88, 1, 8, 0, 2, .bw, 0, .kept⟩
def LEDG_CEILING_CHANGES_LEFT : RegF := ⟨0xf, 0x88, 1, 8, 8, 5, .ro, 0, .kept⟩
def LEDG_BALANCE : RegF := ⟨0xf, 0x90, 1, 8, 0, 64, .ro, 0, .kept⟩
def LEDG_DEPTH_UJ : RegF := ⟨0xf, 0x98, 1, 8, 0, 48, .ro, 0, .kept⟩
def LEDG_DEPTH_RATE_W : RegF := ⟨0xf, 0x98, 1, 8, 48, 16, .ro, 0, .kept⟩
def LEDG_THRESH_RECOVER_PCT : RegF := ⟨0xf, 0xa0, 1, 8, 0, 8, .rw, 5, .kept⟩
def LEDG_TIGHT_TDIV_MAX : RegF := ⟨0xf, 0xa8, 1, 8, 0, 3, .ro, 0, .kept⟩
def LEDG_TIGHT_HARD : RegF := ⟨0xf, 0xa8, 1, 8, 3, 1, .ro, 0, .kept⟩
def LEDG_TIGHT_ANNOUNCED : RegF := ⟨0xf, 0xa8, 1, 8, 4, 1, .ro, 0, .kept⟩
def LEDG_TIGHTPEND_STACKS : RegF := ⟨0xf, 0xb0, 1, 8, 0, 20, .ro, 0, .kept⟩
def LEDG_COUNT_HARD_EVENTS : RegF := ⟨0xf, 0xb8, 1, 8, 0, 32, .rws, 0, .kept⟩
def LEDG_COUNT_THROTTLE_US : RegF := ⟨0xf, 0xb8, 1, 8, 32, 32, .rws, 0, .kept⟩
def LEDG_BASE_W : RegF := ⟨0xf, 0xc0, 1, 8, 0, 16, .ro, 0, .kept⟩
def LEDG_BASE_PKG_W : RegF := ⟨0xf, 0xc0, 1, 8, 16, 16, .ro, 0, .kept⟩
def tabLEDG0 : List RegF := [LEDG_CLASS_CLASS, LEDG_CLASS_PENDING, LEDG_CLASS_PEND_VALID, LEDG_CEILING_CEILING, LEDG_CEILING_CHANGES_LEFT, LEDG_BALANCE, LEDG_DEPTH_UJ, LEDG_DEPTH_RATE_W, LEDG_THRESH_RECOVER_PCT, LEDG_TIGHT_TDIV_MAX, LEDG_TIGHT_HARD, LEDG_TIGHT_ANNOUNCED, LEDG_TIGHTPEND_STACKS, LEDG_COUNT_HARD_EVENTS, LEDG_COUNT_THROTTLE_US, LEDG_BASE_W, LEDG_BASE_PKG_W]
/-- The fields of the LEDG page. -/
def tabLEDG : List RegF := tabLEDG0

/-! PLAN (block 0x10) -/
def PLAN_SRC : RegF := ⟨0x10, 0x80, 1, 8, 0, 41, .rw, 0, .clear⟩
def PLAN_CMD_OP : RegF := ⟨0x10, 0x88, 1, 8, 0, 2, .wo, 0, .clear⟩
def PLAN_RESULT_CODE : RegF := ⟨0x10, 0x90, 1, 8, 0, 16, .ro, 0, .clear⟩
def PLAN_RESULT_DONE : RegF := ⟨0x10, 0x90, 1, 8, 16, 1, .ro, 0, .clear⟩
def PLAN_RESULT_BUSY : RegF := ⟨0x10, 0x90, 1, 8, 17, 1, .ro, 0, .clear⟩
def PLAN_RESULT_ITEM : RegF := ⟨0x10, 0x90, 1, 8, 20, 12, .ro, 0, .clear⟩
def PLAN_RESULT_PLAN_ID : RegF := ⟨0x10, 0x90, 1, 8, 32, 16, .ro, 0, .clear⟩
def PLAN_SLOTS_ARMED : RegF := ⟨0x10, 0x98, 1, 8, 0, 1, .ro, 0, .clear⟩
def PLAN_SLOTS_RUN_STATE : RegF := ⟨0x10, 0x98, 1, 8, 4, 3, .ro, 0, .clear⟩
def PLAN_SLOTS_RUN_ID : RegF := ⟨0x10, 0x98, 1, 8, 16, 16, .ro, 0, .clear⟩
def PLAN_SLOTS_ARMED_ID : RegF := ⟨0x10, 0x98, 1, 8, 32, 16, .ro, 0, .clear⟩
def PLAN_WORST_NS : RegF := ⟨0x10, 0xa0, 1, 8, 0, 40, .ro, 0, .clear⟩
def PLAN_PRED_UJ : RegF := ⟨0x10, 0xa8, 1, 8, 0, 48, .ro, 0, .clear⟩
def PLAN_SHORT : RegF := ⟨0x10, 0xb0, 1, 8, 0, 48, .ro, 0, .clear⟩
def PLAN_CLOCK_NS : RegF := ⟨0x10, 0xb8, 1, 8, 0, 40, .ro, 0, .clear⟩
def PLAN_CFG_MARGIN_PCT : RegF := ⟨0x10, 0xc0, 1, 8, 0, 8, .rw, 3, .kept⟩
def PLAN_CFG_MAX_DEADLINE_MS : RegF := ⟨0x10, 0xc0, 1, 8, 8, 16, .rw, 1000, .kept⟩
def PLAN_COUNT_ACCEPTED : RegF := ⟨0x10, 0xc8, 1, 8, 0, 32, .rws, 0, .kept⟩
def PLAN_COUNT_REFUSED : RegF := ⟨0x10, 0xc8, 1, 8, 32, 32, .rws, 0, .kept⟩
def PLAN_LAST_STATUS : RegF := ⟨0x10, 0xd0, 1, 8, 0, 2, .ro, 0, .kept⟩
def PLAN_LAST_SLACK_NS : RegF := ⟨0x10, 0xd0, 1, 8, 16, 40, .ro, 0, .kept⟩
def tabPLAN0 : List RegF := [PLAN_SRC, PLAN_CMD_OP, PLAN_RESULT_CODE, PLAN_RESULT_DONE, PLAN_RESULT_BUSY, PLAN_RESULT_ITEM, PLAN_RESULT_PLAN_ID, PLAN_SLOTS_ARMED, PLAN_SLOTS_RUN_STATE, PLAN_SLOTS_RUN_ID, PLAN_SLOTS_ARMED_ID, PLAN_WORST_NS, PLAN_PRED_UJ, PLAN_SHORT, PLAN_CLOCK_NS, PLAN_CFG_MARGIN_PCT, PLAN_CFG_MAX_DEADLINE_MS, PLAN_COUNT_ACCEPTED, PLAN_COUNT_REFUSED, PLAN_LAST_STATUS, PLAN_LAST_SLACK_NS]
/-- The fields of the PLAN page. -/
def tabPLAN : List RegF := tabPLAN0

/-! PWR (block 0x15) -/
def PWR_TDIV_IN_FORCE : RegF := ⟨0x15, 0x80, 1, 8, 0, 3, .ro, 0, .kept⟩
def PWR_TDIV_PENDING : RegF := ⟨0x15, 0x80, 1, 8, 3, 3, .ro, 0, .kept⟩
def PWR_CALSTAT_CALS : RegF := ⟨0x15, 0x88, 1, 8, 0, 32, .rws, 0, .kept⟩
def PWR_CALSTAT_DRIFTS : RegF := ⟨0x15, 0x88, 1, 8, 32, 16, .rws, 0, .kept⟩
def PWR_COEF_FJ : RegF := ⟨0x15, 0x100, 32, 8, 0, 32, .rw, 0, .kept⟩
def PWR_RAIL_MEASURED_W : RegF := ⟨0x15, 0x200, 5, 8, 0, 16, .ro, 0, .kept⟩
def PWR_RAIL_ESTIMATED_W : RegF := ⟨0x15, 0x200, 5, 8, 16, 16, .ro, 0, .kept⟩
def PWR_RAIL_SCALE : RegF := ⟨0x15, 0x200, 5, 8, 32, 16, .ro, 4096, .kept⟩
def tabPWR0 : List RegF := [PWR_TDIV_IN_FORCE, PWR_TDIV_PENDING, PWR_CALSTAT_CALS, PWR_CALSTAT_DRIFTS, PWR_COEF_FJ, PWR_RAIL_MEASURED_W, PWR_RAIL_ESTIMATED_W, PWR_RAIL_SCALE]
/-- The fields of the PWR page. -/
def tabPWR : List RegF := tabPWR0

/-! FLT (block 0x18) -/
def FLT_FSTAT_FAULTED : RegF := ⟨0x18, 0x80, 1, 8, 0, 1, .ro, 0, .clear⟩
def FLT_FSTAT_RESETTING : RegF := ⟨0x18, 0x80, 1, 8, 1, 1, .ro, 0, .clear⟩
def FLT_FSTAT_FENCE_STATE : RegF := ⟨0x18, 0x80, 1, 8, 2, 2, .ro, 0, .clear⟩
def FLT_FSTAT_SECONDARY : RegF := ⟨0x18, 0x80, 1, 8, 16, 16, .ro, 0, .clear⟩
def FLT_FSTAT_ENTRIES : RegF := ⟨0x18, 0x80, 1, 8, 32, 32, .rws, 0, .kept⟩
def FLT_JOBRESET_GO : RegF := ⟨0x18, 0x88, 1, 8, 0, 1, .wo, 0, .clear⟩
def FLT_JOBRESET_CLEAR_DESC : RegF := ⟨0x18, 0x88, 1, 8, 1, 1, .wo, 0, .clear⟩
def FLT_FENCE_GO : RegF := ⟨0x18, 0x90, 1, 8, 0, 1, .wo, 0, .clear⟩
def FLT_FENCE_HOLD : RegF := ⟨0x18, 0x90, 1, 8, 1, 1, .wo, 0, .clear⟩
def FLT_FENCE_RELEASE : RegF := ⟨0x18, 0x90, 1, 8, 2, 1, .wo, 0, .clear⟩
def FLT_FENCE_RESULT : RegF := ⟨0x18, 0x90, 1, 8, 4, 2, .ro, 0, .clear⟩
def FLT_WDOG_TIMEOUT_MS : RegF := ⟨0x18, 0x98, 1, 8, 0, 16, .rw, 100, .kept⟩
def FLT_WDOG_KICK : RegF := ⟨0x18, 0x98, 1, 8, 16, 1, .wo, 0, .clear⟩
def FLT_WDOG_EXPIRIES : RegF := ⟨0x18, 0x98, 1, 8, 32, 32, .rws, 0, .kept⟩
def FLT_ASSERT_CODE : RegF := ⟨0x18, 0xa0, 1, 8, 0, 16, .wo, 0, .clear⟩
def FLT_REC : RegF := ⟨0x18, 0x100, 8, 8, 0, 64, .ro, 0, .kept⟩
def FLT_RECCLR_CLEAR : RegF := ⟨0x18, 0x140, 1, 8, 0, 1, .wo, 0, .clear⟩
def FLT_HISTIDX_INDEX : RegF := ⟨0x18, 0x148, 1, 8, 0, 8, .rw, 0, .kept⟩
def FLT_HISTDATA : RegF := ⟨0x18, 0x150, 8, 8, 0, 64, .ro, 0, .kept⟩
def tabFLT0 : List RegF := [FLT_FSTAT_FAULTED, FLT_FSTAT_RESETTING, FLT_FSTAT_FENCE_STATE, FLT_FSTAT_SECONDARY, FLT_FSTAT_ENTRIES, FLT_JOBRESET_GO, FLT_JOBRESET_CLEAR_DESC, FLT_FENCE_GO, FLT_FENCE_HOLD, FLT_FENCE_RELEASE, FLT_FENCE_RESULT, FLT_WDOG_TIMEOUT_MS, FLT_WDOG_KICK, FLT_WDOG_EXPIRIES, FLT_ASSERT_CODE, FLT_REC, FLT_RECCLR_CLEAR, FLT_HISTIDX_INDEX, FLT_HISTDATA]
/-- The fields of the FLT page. -/
def tabFLT : List RegF := tabFLT0

/-! SEC (block 0x14) -/
def SEC_BOOT_STATE : RegF := ⟨0x14, 0x80, 1, 8, 0, 3, .ro, 0, .kept⟩
def SEC_BOOT_SLOT : RegF := ⟨0x14, 0x80, 1, 8, 3, 1, .ro, 0, .kept⟩
def SEC_BOOT_FALLBACK : RegF := ⟨0x14, 0x80, 1, 8, 4, 1, .ro, 0, .kept⟩
def SEC_BOOT_ACTIVATED : RegF := ⟨0x14, 0x80, 1, 8, 5, 1, .ro, 0, .kept⟩
def SEC_BOOT_FAIL_CODE : RegF := ⟨0x14, 0x80, 1, 8, 16, 16, .ro, 0, .kept⟩
def SEC_FW_VERSION : RegF := ⟨0x14, 0x88, 1, 8, 0, 32, .ro, 0, .kept⟩
def SEC_FW_SVN : RegF := ⟨0x14, 0x88, 1, 8, 32, 7, .ro, 0, .kept⟩
def SEC_ARB_VERSION : RegF := ⟨0x14, 0x90, 1, 8, 0, 7, .bw, 0, .kept⟩
def SEC_ARB_CHANGES_LEFT : RegF := ⟨0x14, 0x90, 1, 8, 8, 7, .ro, 0, .kept⟩
def SEC_KEY_STATE : RegF := ⟨0x14, 0x98, 1, 8, 0, 2, .ro, 0, .kept⟩
def SEC_OWNER_CTL_COMMIT : RegF := ⟨0x14, 0xa0, 1, 8, 0, 1, .bw, 0, .clear⟩
def SEC_OWNER_CTL_CHANGES_LEFT : RegF := ⟨0x14, 0xa0, 1, 8, 8, 4, .ro, 0, .kept⟩
def SEC_OWNER_CTL_SET : RegF := ⟨0x14, 0xa0, 1, 8, 12, 1, .ro, 0, .kept⟩
def SEC_OWNER_STAGE : RegF := ⟨0x14, 0xc0, 6, 8, 0, 64, .rw, 0, .kept⟩
def SEC_OWNER_HASH : RegF := ⟨0x14, 0x100, 6, 8, 0, 64, .ro, 0, .kept⟩
def SEC_OWNER_AUTH : RegF := ⟨0x14, 0x140, 12, 8, 0, 64, .rw, 0, .kept⟩
def SEC_BWLOG_STAT_RECORDS : RegF := ⟨0x14, 0x200, 1, 8, 0, 32, .ro, 0, .kept⟩
def SEC_BWLOG_IDX_INDEX : RegF := ⟨0x14, 0x208, 1, 8, 0, 13, .rw, 0, .kept⟩
def SEC_BWLOG_DATA : RegF := ⟨0x14, 0x210, 24, 8, 0, 64, .ro, 0, .kept⟩
def SEC_ID_IDX_INDEX : RegF := ⟨0x14, 0x300, 1, 8, 0, 9, .rw, 0, .kept⟩
def SEC_ID_DATA : RegF := ⟨0x14, 0x308, 4, 8, 0, 64, .ro, 0, .kept⟩
def SEC_SERIAL : RegF := ⟨0x14, 0x328, 1, 8, 0, 64, .ro, 0, .kept⟩
def tabSEC0 : List RegF := [SEC_BOOT_STATE, SEC_BOOT_SLOT, SEC_BOOT_FALLBACK, SEC_BOOT_ACTIVATED, SEC_BOOT_FAIL_CODE, SEC_FW_VERSION, SEC_FW_SVN, SEC_ARB_VERSION, SEC_ARB_CHANGES_LEFT, SEC_KEY_STATE, SEC_OWNER_CTL_COMMIT, SEC_OWNER_CTL_CHANGES_LEFT, SEC_OWNER_CTL_SET, SEC_OWNER_STAGE, SEC_OWNER_HASH, SEC_OWNER_AUTH, SEC_BWLOG_STAT_RECORDS, SEC_BWLOG_IDX_INDEX, SEC_BWLOG_DATA, SEC_ID_IDX_INDEX, SEC_ID_DATA, SEC_SERIAL]
/-- The fields of the SEC page. -/
def tabSEC : List RegF := tabSEC0

/-- The block-specific fields of a block (empty for the CC block, whose page holds the header alone). -/
def ofBlk (blk : Nat) : List RegF :=
  match blk with
  | 0x0 => tabPART
  | 0x6 => tabDCTL
  | 0x7 => tabSTK
  | 0x9 => tabECC
  | 0xa => tabCAL
  | 0x8 => tabSRL
  | 0x3 => tabTILE
  | 0x11 => tabDESC
  | 0x12 => tabALLOC
  | 0x1a => tabOWN
  | 0x5 => tabDMA
  | 0x2 => tabSEQ
  | 0x16 => tabIMEM
  | 0x17 => tabLIB
  | 0x19 => tabTRC
  | 0x4 => tabLCB
  | 0xb => tabARB
  | 0xc => tabFAB
  | 0xd => tabVYL
  | 0x13 => tabSYNC
  | 0xe => tabCXL
  | 0xf => tabLEDG
  | 0x10 => tabPLAN
  | 0x15 => tabPWR
  | 0x18 => tabFLT
  | 0x14 => tabSEC
  | _ => []

end Sys2Proof.Machine.F
end

