-- ==== Sys2Proof/Machine/Tbl.lean ====
section
/-! DEFINITION. Sparse tables in canonical form: keys strictly rising and no pair equal to what an unlisted key reads
as. Every memory of the model is such a table, so equal contents are equal data. -/
namespace Sys2Proof.Machine

/-- The value at a key; `d` is what an unlisted key reads as. -/
def tget {V : Type} (d : V) : List (Nat × V) → Nat → V
  | [], _ => d
  | (a, b) :: r, k => if a = k then b else tget d r k

/-- A pair put in its place among keys that do not include it. -/
def tins {V : Type} (k : Nat) (v : V) : List (Nat × V) → List (Nat × V)
  | [] => [(k, v)]
  | (a, b) :: r => if k < a then (k, v) :: (a, b) :: r else (a, b) :: tins k v r

/-- A table without a key. -/
def terase {V : Type} (k : Nat) (t : List (Nat × V)) : List (Nat × V) :=
  t.filter (fun p => p.1 != k)

/-- The table with a key set; the default value removes the pair. -/
def tset {V : Type} [DecidableEq V] (d : V) (t : List (Nat × V)) (k : Nat) (v : V) : List (Nat × V) :=
  if v = d then terase k t else tins k v (terase k t)

/-- The table with a key's value changed by a function. -/
def tupd {V : Type} [DecidableEq V] (d : V) (t : List (Nat × V)) (k : Nat) (f : V → V) : List (Nat × V) :=
  tset d t k (f (tget d t k))

/-- Consecutive keys set to a list of values. -/
def tsetAll {V : Type} [DecidableEq V] (d : V) (t : List (Nat × V)) (k : Nat) : List V → List (Nat × V)
  | [] => t
  | v :: r => tsetAll d (tset d t k v) (k + 1) r

/-- The values of `n` consecutive keys. -/
def tgetAll {V : Type} (d : V) (t : List (Nat × V)) (k n : Nat) : List V :=
  (List.range n).map (fun i => tget d t (k + i))

/-- The keys `k` to `k + n - 1` back at the default. -/
def tclr {V : Type} (t : List (Nat × V)) (k n : Nat) : List (Nat × V) :=
  t.filter (fun p => p.1 < k || k + n ≤ p.1)

/-- Keys strictly rising. -/
def rising {V : Type} : List (Nat × V) → Bool
  | [] => true
  | (a, _) :: r => (match r with | [] => true | (b, _) :: _ => decide (a < b)) && rising r

/-- The canonical form. -/
def twf {V : Type} [DecidableEq V] (d : V) (t : List (Nat × V)) : Bool :=
  rising t && t.all (fun p => decide (p.2 ≠ d))

/-- What a byte of memory that nothing has written reads as: boot writes 0 to every byte that self-refresh has not
kept (R493 step 6), and zero fill clears the tile SRAM (R227). -/
def Memory.blank : Byte := 0

/-- The canonical form of a memory. -/
abbrev Memory.wf (m : List Host.Cell) : Bool := twf Memory.blank m

/-- The byte at an address. -/
def mget (m : List Host.Cell) (a : Nat) : Byte := tget Memory.blank m a

/-- The memory with a byte written. -/
def mset (m : List Host.Cell) (a : Nat) (b : Byte) : List Host.Cell := tset Memory.blank m a b

/-- The `n` bytes from an address on. -/
def mread (m : List Host.Cell) (a n : Nat) : List Byte := tgetAll Memory.blank m a n

/-- The memory with a run of bytes written. -/
def mwrite (m : List Host.Cell) (a : Nat) (l : List Byte) : List Host.Cell := tsetAll Memory.blank m a l

/-- The memory with the enabled bytes of a run written (`none` leaves its byte). -/
def mwriteOpt (m : List Host.Cell) (a : Nat) : List (Option Byte) → List Host.Cell
  | [] => m
  | none :: r => mwriteOpt m (a + 1) r
  | some b :: r => mwriteOpt (mset m a b) (a + 1) r

/-- A list of numbers as a set: `k` in or out, strictly rising. -/
def setIns (k : Nat) : List Nat → List Nat
  | [] => [k]
  | a :: r => if k < a then k :: a :: r else if k = a then a :: r else a :: setIns k r

/-- The set with a member in or out. -/
def setPut (l : List Nat) (k : Nat) (on : Bool) : List Nat :=
  if on then setIns k l else l.filter (· != k)

end Sys2Proof.Machine
end

