-- ==== Sys2Proof/Machine/Reg.lean ====
section
/-! DEFINITION. The register file (R45, R52, R56): reading and writing a register and a field, saturating counters,
errors and events (R60 to R62), and the interrupt conditions (R64 to R66). -/
namespace Sys2Proof.Machine

/-- The reset values that the tables give per member, per page or per block. DESIGN CHOICE (log 12): the minor number of ID.VERSION and
the block-specific bits CAPS[63:16], which no chapter gives, are 0. -/
def dynReset (m : Member) (p : Page) (off : Nat) : Nat :=
  match off with
  | 0x00 => p.blk + 0x10 * 256 + 2 ^ 16 * p.die + 2 ^ 24 * p.inst
  | 0x08 => b2n (freezeImpl p.blk) * 256 + b2n (isSummary m p) * 512
  | 0x50 => islandOf p.blk + islandMhz (islandOf p.blk) * 256
  | _ =>
    match p.blk with
    | 0x00 => if off = 0x80 then m.dies + m.stackCount * 16 + m.ports * 512 else 0
    | 0x03 => if off = 0xC0 then 2 ^ 48 * (p.die * 64 + p.inst + 0x8000) + 1 else 0
    | 0x11 => if 0x800 ≤ off && (off - 0x800) % 128 = 0 && (off - 0x800) / 128 < 9 then 0x0008_0000 else 0
    | 0x0B => if off = 0x80 then arbKind p.inst + arbReqs m p.inst * 256 + (if arbKind p.inst = 4 then 0 else 2 ^ 16)
        else if off = 0x100 then ((List.range 16).map (fun r => arbPrioReset m p.inst r * 2 ^ (4 * r))).sum
        else if off = 0x108 then ((List.range 4).map (fun r => arbPrioReset m p.inst (16 + r) * 2 ^ (4 * r))).sum else 0
    | 0x0C => if off = 0x80 then 2 * ((m.edgePeer p.die p.inst).getD 0) else 0
    | 0x0E => if off = 0x90 then m.hdmSpan / 2 ^ 30 else 0
    | 0x0F => if off = 0x80 then ceilingDefault m else if off = 0x90 then classDepth m (ceilingDefault m) else 0
    | 0x15 => if 0x100 ≤ off && off < 0x200 then coefDefault ((off - 0x100) / 8) else 0
    | _ => 0

/-- Whether a field table's register field lies in the register at a page offset. -/
def RegF.covers (f : RegF) (off : Nat) : Bool :=
  f.off ≤ off && (off - f.off) % f.str = 0 && (off - f.off) / f.str < f.cnt

/-- The fields of the register at an offset of a page: the header's and the block's (none on a window page). -/
def fieldsAt (p : Page) (off : Nat) : List RegF :=
  if isWindow p then [] else if off < 0x80 then F.tabHDR.filter (·.covers off) else (F.ofBlk p.blk).filter (·.covers off)

/-- The reset value of the register at a BAR0 offset. -/
def resetReg (m : Member) (k : Nat) : W64 :=
  let p := pageOf k
  let off := k % 4096
  if isWindow p then 0 else
  BitVec.ofNat 64 (((fieldsAt p off).map (fun f => f.rst * 2 ^ f.lo)).sum + dynReset m p off)

/-- The register at a BAR0 offset. -/
def State.reg (s : State) (k : Nat) : W64 := tget (resetReg s.member k) s.regs k

/-- The state with a register set. -/
def State.setReg (s : State) (k : Nat) (v : W64) : State :=
  { s with regs := tset (resetReg s.member k) s.regs k v }

/-- A register written through its RW and RWS fields; every other bit stays (R51, R52). -/
def storeRW (s : State) (k : Nat) (v : W64) : State :=
  s.setReg k (((fieldsAt (pageOf k) (k % 4096)).filter (fun f => f.acc = .rw || f.acc = .rws)).foldl
    (fun x f => withFld x f.lo f.wid (fld v f.lo f.wid)) (s.reg k))

/-- The BAR0 offset of a field's register, the i-th of an indexed name. -/
def RegF.at (f : RegF) (page i : Nat) : Nat := page + f.off + i * f.str

/-- A register field. -/
def getF (s : State) (page : Nat) (f : RegF) (i : Nat := 0) : Nat := fld (s.reg (f.at page i)) f.lo f.wid

/-- The state with a register field set. -/
def setF (s : State) (page : Nat) (f : RegF) (x : Nat) (i : Nat := 0) : State :=
  s.setReg (f.at page i) (withFld (s.reg (f.at page i)) f.lo f.wid x)

/-- The state with a register field set by a Bool. -/
def setB (s : State) (page : Nat) (f : RegF) (x : Bool) (i : Nat := 0) : State := setF s page f (b2n x) i

/-- A counter field raised; it saturates. -/
def bumpF (s : State) (page : Nat) (f : RegF) (n : Nat := 1) (i : Nat := 0) : State :=
  setF s page f (min (getF s page f i + n) (2 ^ f.wid - 1)) i

/-- A counter field raised; it wraps. -/
def wrapF (s : State) (page : Nat) (f : RegF) (n : Nat := 1) (i : Nat := 0) : State := setF s page f (getF s page f i + n) i

/-- Field set to the greater of itself and a value. -/
def maxF (s : State) (page : Nat) (f : RegF) (x : Nat) (i : Nat := 0) : State := setF s page f (max x (getF s page f i)) i

/-- An error recorded on a page (R62): its ERR_STATUS bit, the count, and ERR_FIRST while that is empty. -/
def recordErr (s : State) (page code tag : Nat) : State :=
  let s := s.setReg (page + 0x20) (setBit (s.reg (page + 0x20)) (code % 256 % 64))
  let s := bumpF s page F.HDR_ERR_COUNT_ERRORS
  if getF s page F.HDR_ERR_FIRST_VALID = 0 then
    s.setReg (page + 0x30) (BitVec.ofNat 64 (code % 2 ^ 16 + 2 ^ 16 + tag % 2 ^ 32 * 2 ^ 32))
  else s

/-- A refusal issued by a block (R62): only the refusal count rises. -/
def refusal (s : State) (page : Nat) : State := bumpF s page F.HDR_ERR_COUNT_REFUSALS

/-- An event bit of a page set. -/
def event (s : State) (page n : Nat) : State := s.setReg (page + 0x40) (setBit (s.reg (page + 0x40)) n)

/-- Whether a page's event bit is set. -/
def hasEvent (s : State) (page n : Nat) : Bool := bitOf (s.reg (page + 0x40)) n

/-- Whether a page holds an unmasked error (`off` 0x20) or event (`off` 0x40) (R64). -/
def pagePend (s : State) (page off : Nat) : Bool := (s.reg (page + off) &&& ~~~ s.reg (page + off + 8)) != 0

/-- Whether a page with an unmasked bit satisfies a condition; only listed registers can hold one. -/
def anyPend (s : State) (off : Nat) (q : Page → Bool) : Bool :=
  s.regs.any (fun r => r.1 % 4096 = off && q (pageOf r.1) && pagePend s (r.1 / 4096 * 4096) off)

/-- PART.ERR_PEND (`off` 0x20) or EVT_PEND (0x40) bit b (R63). -/
def blkPend (s : State) (off b : Nat) : Bool := anyPend s off (fun p => p.blk = b && p.inst ≠ 255)

/-- The condition of an MSI-X vector (R65). Vectors 1 (mailbox completion) and 2 (event log) are conditions of the
CXL mailbox. -/
def vecCond (s : State) (v : Nat) : Bool :=
  if v = 0 then getF s (pgFlt 0) F.FLT_FSTAT_FAULTED = 1
  else if v = 1 then s.cxl.mboxDone
  else if v = 2 then !s.cxl.events.isEmpty && (List.range 4).any (fun i => fld s.cxl.policy (8 * i) 2 = 1)
  else if 4 ≤ v && v < 31 then blkPend s 0x40 (v - 4)
  else if 32 ≤ v && v < 59 then blkPend s 0x20 (v - 32)
  else false

/-- The conditions that have become false let their vectors be sent again, and clear their pending bits (R65, R66). -/
def settleVec (s : State) : State :=
  { s with vecSent := s.vecSent.filter (vecCond s), vecPend := s.vecPend.filter (vecCond s) }

/-- After a W1C write to a page, its block's vectors are sent again where they still hold (R66). -/
def resendVec (s : State) (blk : Nat) : State :=
  { s with
    vecSent := s.vecSent.filter (fun v => vecCond s v && v ≠ 4 + blk && v ≠ 32 + blk)
    vecPend := s.vecPend.filter (vecCond s) }

/-- A W1C write of a register (R52); ERR_FIRST becomes empty when ERR_STATUS becomes zero (R62). -/
def w1c (s : State) (k : Nat) (v : W64) : State :=
  let s := s.setReg k (s.reg k &&& ~~~ v)
  if k % 4096 = 0x20 && s.reg k = 0 then s.setReg (k + 0x10) 0 else s

/-- CTRL.ENABLE of a page: set by firmware at boot, cleared under R528. -/
def pageEnabled (s : State) (page : Nat) : Bool := s.enabled && !s.disabled.contains page

end Sys2Proof.Machine
end

