-- ==== Sys2Proof/Machine/Ops.lean ====
section
/-! DEFINITION. The named operations over the state: guards, the objects of the part, memory with poison and media
errors (R104 to R106, R123), free values, energy (R458, R459), fault causes (R479, R480), outputs. -/
namespace Sys2Proof.Machine

/-- The outcome of a command. -/
abbrev Res := Host.Outcome State Fault Refusal

/-- An event at an object that the member must have. DESIGN CHOICE (log 11): an event at an absent object, which cannot happen,
changes nothing. -/
def onObj (present : Bool) (s t : State) : Res := .next (if present then t else s)

/-- A write of a register at a BAR0 offset: of an absent object it is dropped and recorded in the PART page (R7, R47). -/
def onPage (present : Bool) (off : Nat) (s t : State) : Res := .next (if present then t else recordErr s pgPart 0x0001 off)

/-! ## Objects -/

/-- A channel. -/
def State.chan (s : State) (st ch : Nat) : Channel := tget {} s.chans (st * 32 + ch)
/-- The state with a channel changed. -/
def State.updChan (s : State) (st ch : Nat) (f : Channel → Channel) : State :=
  { s with chans := tupd {} s.chans (st * 32 + ch) f }
/-- A bank column. -/
def Channel.bank (c : Channel) (b : Nat) : Bank := tget {} c.banks b
/-- A channel with a bank column changed. -/
def Channel.updBank (c : Channel) (b : Nat) (f : Bank → Bank) : Channel := { c with banks := tupd {} c.banks b f }
/-- The state with a bank column changed. -/
def State.updBank (s : State) (st ch b : Nat) (f : Bank → Bank) : State := s.updChan st ch (·.updBank b f)
/-- A stack. -/
def State.stack (s : State) (st : Nat) : Stack := tget {} s.stackTab st
/-- The state with a stack changed. -/
def State.updStack (s : State) (st : Nat) (f : Stack → Stack) : State := { s with stackTab := tupd {} s.stackTab st f }
/-- A Sorrel unit. -/
def State.unit (s : State) (u : Nat) : Unit := tget {} s.units u
/-- The state with a unit changed. -/
def State.updUnit (s : State) (u : Nat) (f : Unit → Unit) : State := { s with units := tupd {} s.units u f }
/-- A tile. -/
def State.tile (s : State) (t : Nat) : Tile := tget {} s.tiles t
/-- The state with a tile changed. -/
def State.updTile (s : State) (t : Nat) (f : Tile → Tile) : State := { s with tiles := tupd {} s.tiles t f }
/-- A die sequencer. -/
def State.seq (s : State) (d : Nat) : Seq := tget {} s.seqs d
/-- The state with a sequencer changed. -/
def State.updSeq (s : State) (d : Nat) (f : Seq → Seq) : State := { s with seqs := tupd {} s.seqs d f }
/-- An arbiter. -/
def State.arb (s : State) (d i : Nat) : Arb := tget {} s.arbs (d * 256 + i)
/-- The state with an arbiter changed. -/
def State.updArb (s : State) (d i : Nat) (f : Arb → Arb) : State := { s with arbs := tupd {} s.arbs (d * 256 + i) f }
/-- A port. -/
def State.port (s : State) (p : Nat) : Port := tget {} s.ports p
/-- The state with a port changed. -/
def State.updPort (s : State) (p : Nat) (f : Port → Port) : State := { s with ports := tupd {} s.ports p f }
/-- A descriptor's 16 words; zeros where none was created. -/
def State.desc (s : State) (h : Nat) : List W64 := tget [] s.descs h
/-- Word k of a descriptor. -/
def descW (d : List W64) (k : Nat) : Nat := (d.getD k 0).toNat
/-- An allocation entry. -/
def State.alloc (s : State) (i : Nat) : AllocE := tget {} s.allocs i
/-- The state with an allocation changed. -/
def State.updAlloc (s : State) (i : Nat) (f : AllocE → AllocE) : State := { s with allocs := tupd {} s.allocs i f }
/-- An owner table. -/
def State.otab (s : State) (i : Nat) : OTab := tget {} s.otabs i
/-- The state with an owner table changed. -/
def State.updOtab (s : State) (i : Nat) (f : OTab → OTab) : State := { s with otabs := tupd {} s.otabs i f }
/-- A DMA channel. -/
def Tile.ch (t : Tile) (c : Nat) : DmaCh := tget {} t.dma c
/-- A tile with a DMA channel changed. -/
def Tile.updCh (t : Tile) (c : Nat) (f : DmaCh → DmaCh) : Tile := { t with dma := tupd {} t.dma c f }

/-- An output sent. -/
def State.emit (s : State) (o : Out) : State := { s with out := s.out ++ [o] }

/-- A PLDM event on the sideband, which needs the auxiliary input (R519, R522): without it the event reaches nobody. -/
def State.pldm (s : State) (kind : Nat) : State := if s.board.auxOn then s.emit (.pldmEvent kind) else s

/-- A state changed by a function for each member of a list. -/
def forEach {α : Type} (s : State) (l : List α) (f : State → α → State) : State := l.foldl f s

/-- A value the manual leaves open: the next free word. -/
def State.draw (s : State) : W64 × State := (Config.freeWord s.drawn, { s with drawn := s.drawn + 1 })

/-! ## Fault state and causes -/

/-- The part is FAULTED (R480). -/
def faulted (s : State) : Bool := getF s (pgFlt 0) F.FLT_FSTAT_FAULTED = 1

/-- A job reset runs (R483). -/
def resetting (s : State) : Bool := getF s (pgFlt 0) F.FLT_FSTAT_RESETTING = 1

/-- The part is stopped as R481 stops it: FAULTED, or in a job reset (R483). -/
def halted (s : State) : Bool := faulted s || resetting s

/-- A fault cause arises (R479) and is on its way to die 0 (R480). -/
def raiseCause (s : State) (c : Cause) : State := { s with causes := s.causes ++ [c] }

/-- Poison bites (R125): cause 1 with the consuming block and the code of R479. -/
def bite (s : State) (die blk inst code tag : Nat) : State := raiseCause s ⟨1, die, blk, inst, code, tag⟩

/-- Firmware asserts on a code that a block recorded (R479, R481): cause 7. -/
def fwAssert (s : State) (die blk inst code tag : Nat) : State := raiseCause s ⟨7, die, blk, inst, code, tag⟩

/-- A requester is isolated (R392). -/
def isolated (s : State) (d i r : Nat) : Bool := bit (getF s (pgArb d i) F.ARB_ISOL) r

/-- The input of its channel's intake at which a request of a source arrives (R80, R383). The loopbacks share an identifier, and so
count with the ingress of the die. -/
def intakeInput (s : State) (st src : Nat) : Nat :=
  let m := s.member
  let here := m.stackDie st
  let k := src / 4096
  let port := src % 4096 / 4
  let from_ := if k ≤ 1 then src % 4096 / (if k = 0 then 256 else 64) else if k = 3 then src % 4096
    else if k = 4 && port < 12 then m.portDie port else if k = 2 then 0 else here
  if from_ ≠ here then m.arrivalInput from_ here
  else match k with | 0 => 0 | 1 => 0 | 3 => 1 | 2 => 2 | _ => 3

/-- A source's requests to a channel are held back: its requester at the intake is isolated (R392). -/
def intakeIsolated (s : State) (st ch src : Nat) : Bool :=
  getF s (pgArb (s.member.stackDie st) (s.member.localStack st * 32 + ch)) F.ARB_ISOL ≠ 0
    && isolated s (s.member.stackDie st) (s.member.localStack st * 32 + ch) (intakeInput s st src)

/-- The lead core restarts, or stays stopped until PERST# (R26, R486, R500). -/
def leadDown (s : State) : Bool := s.restarting.contains 0 || s.restarting.contains 8

/-- A Uzoid core starts on the copy of its firmware (R493 step 5, R500). DESIGN CHOICE (log 53): with its registers and its data SRAM
zero, and the program counter at the start of its instruction SRAM. -/
def startCore (k : Uzoid) : Uzoid := { iram := mwrite [] 0 (k.copy.take (2 ^ 17)), copy := k.copy }

/-! ## Energy (R458, R459) -/

/-- The rail entry of an event on a page (R459, R478): 0 core, 1 I/O, 2 + local stack. -/
def railOf (page n : Nat) : Nat :=
  if [6, 11, 12].contains n then 1
  else if [7, 8, 9, 10, 15].contains n then
    2 + (let p := pageOf page; if p.blk = 0x06 || p.blk = 0x08 then p.inst / 32 else p.inst)
  else 0

/-- The scaled coefficient of an event counted on a page (R459, R460). -/
def coef (s : State) (page n : Nat) : Nat :=
  let pw := pgPwr (page / 2 ^ 25)
  getF s pw F.PWR_COEF_FJ n * getF s pw F.PWR_RAIL_SCALE (railOf page n) / 4096

/-- Energy in fJ on a rail (0 core, 1 I/O, 2 + local stack) of a block's die: it goes to the block's tap, to the rail's estimate
and to the account of the running microsecond (R458, R460, R461). -/
def addEnergy (s : State) (page rail e : Nat) : State :=
  let l := s.ledger
  { s with ledger := { l with
      tap := tset 0 l.tap page (tget 0 l.tap page + e)
      railEst := tupd 0 l.railEst (page / 2 ^ 25 * 8 + rail) (· + e)
      tickFj := l.tickFj + e } }

/-- `k` events of kind `n` counted by the block of a page. -/
def charge (s : State) (page n k : Nat) : State := addEnergy s page (railOf page n) (coef s page n * k)

/-! ## Strength and holes (R38, R106) -/

/-- The value a bounded-write register is committed to (R508); the ceiling's is the member's until one is committed. -/
def bwVal (s : State) (off : Nat) : W64 :=
  tget (if off = pgLedg + 0x88 then BitVec.ofNat 64 (ceilingDefault s.member) else 0) s.flash.store off

/-- The committed strength of a stack (R108, R134). -/
def committedStrength (s : State) (st : Nat) : Nat := fld (bwVal s (pgEcc s.member st + 0x80)) 0 2

/-- The strength under which the rows of a stack stand: 0 S1, 1 S2, 2 S4 (R106, R134); the old one until a strength change has flushed
the parity caches and rewritten the rows (R108, R121). -/
def strength (s : State) (st : Nat) : Nat := (s.stack st).oldStrength.getD (committedStrength s st)

/-- First parity row of a strength (R38). -/
def holeRow (k : Nat) : Nat := if k = 0 then 63488 else if k = 1 then 61440 else 57344

/-- Sectors of a parity slot (R106). -/
def slotSectors (k : Nat) : Nat := if k = 0 then 1 else if k = 1 then 2 else 4

/-- Parity symbols corrected: t (R106). -/
def corrects (k : Nat) : Nat := if k = 0 then 21 else if k = 1 then 42 else 85

/-- The parity row and slot of a data row (R106). -/
def slotOf (k row : Nat) : Nat × Nat :=
  let n := 65536 - holeRow k
  (holeRow k + row % n, row / n)

/-- The parity row that holds a data row's slot. -/
def parityRow (k row : Nat) : Nat := (slotOf k row).1

/-- Whether an address lies in the hole of its stack (R38). -/
def inHole (s : State) (a : Nat) : Bool := holeRow (strength s (paStack a)) ≤ paRow a

/-! ## Memory contents -/

/-- The bytes at a part address. -/
def rdMem (s : State) (a n : Nat) : List Byte := mread s.mem a n

/-- A byte written. -/
def State.wrByte (s : State) (a : Nat) (b : Byte) : State := { s with mem := mset s.mem a b }

/-- Bytes written. -/
def State.wrMem (s : State) (a : Nat) (l : List Byte) : State := { s with mem := mwrite s.mem a l }

/-- The enabled bytes of a run written. -/
def State.wrMemOpt (s : State) (a : Nat) (l : List (Option Byte)) : State := { s with mem := mwriteOpt s.mem a l }

/-- Bytes `a` to `a + n - 1` back at zero. -/
def State.clrMem (s : State) (a n : Nat) : State := { s with mem := tclr s.mem a n }

/-- The bytes whose addresses satisfy a condition back at zero. -/
def State.dropMem (s : State) (q : Nat → Bool) : State := { s with mem := s.mem.filter (fun p => !q p.1) }

/-- Whether the 64 B sector of an address is stored poisoned (R105). -/
def secPoison (s : State) (a : Nat) : Bool := s.poison.contains (a / 64)

/-- The state with the poison mark of an address's sector set or cleared. -/
def State.setPoison (s : State) (a : Nat) (on : Bool) : State :=
  { s with
    poison := setPut s.poison (a / 64) on
    cxl := if on then s.cxl else { s.cxl with injected := s.cxl.injected.filter (· ≠ a / 64) } }

/-- The sectors that a run of bytes touches. -/
def sectorsOf (a n : Nat) : List Nat := if n = 0 then [] else (List.range ((a + n - 1) / 64 - a / 64 + 1)).map (a / 64 + ·)

/-- Any poison among the sectors that a run of bytes touches. -/
def anyPoison (s : State) (a n : Nat) : Bool := (sectorsOf a n).any (fun k => s.poison.contains k)

/-- One step of the CRC-16 of R104: polynomial 0x8BB7, not reflected. -/
def crc16Bit (c : Nat) (b : Bool) : Nat :=
  let top := bit c 15
  let c' := c * 2 % 65536
  if top != b then Nat.xor c' 0x8BB7 else c'

/-- The CRC-16 of bytes, most significant bit of each byte first. -/
def crc16 (init : Nat) (l : List Byte) : Nat :=
  l.foldl (fun c b => (List.range 8).foldl (fun c i => crc16Bit c (b.getLsbD (7 - i))) c) init

/-- The CRC of a sector at a part address (R104). -/
def sectorCrc (a : Nat) (data : List Byte) : Nat := crc16 0xFFFF (data ++ leBytes 4 (a / 64 % 2 ^ 30))

/-- The change that flipped data bits make in the computed CRC: the CRC is affine, so it is the CRC of the
difference from initial value 0. -/
def crcDelta (l : List Nat) : Nat :=
  let diff := (List.range 64).map (fun i => l.foldl (fun (b : Byte) k => if k / 8 = i then b ^^^ BitVec.ofNat 8 (2 ^ (k % 8)) else b) 0)
  crc16 0 (diff ++ [0, 0, 0, 0])

/-- How far the stored CRC of a sector lies from the CRC computed over its stored data, given the media errors in
the sector; 0 is the stored form as written. -/
def syndrome (l : List Nat) : Nat :=
  Nat.xor (crcDelta (l.filter (· < 512))) ((l.filter (512 ≤ ·)).foldl (fun c k => Nat.xor c (2 ^ (k - 512))) 0)

/-- The class of a sector (R105): 0 good, 1 poisoned, 2 failing. -/
def secClass (s : State) (k : Nat) : Nat :=
  let l := tget [] s.flips k
  let x := Nat.xor (syndrome l) (if s.poison.contains k then 0x9C3E else 0)
  if x = 0 then 0 else if x = 0x9C3E then 1 else 2

/-- The stored data bits of a sector with its media errors, as read. -/
def secRaw (s : State) (k : Nat) : List Byte :=
  let l := tget [] s.flips k
  let d := rdMem s (k * 64) 64
  if l.isEmpty then d else
  (d.zip (List.range 64)).map (fun (b, i) => l.foldl (fun (b : Byte) n => if n / 8 = i then b ^^^ BitVec.ofNat 8 (2 ^ (n % 8)) else b) b)

/-- A media error that has appeared (R105): its bits toggle. -/
def State.addFlip (s : State) (f : Flip) : State :=
  { s with flips := tset [] s.flips f.sector (f.bits.foldl (fun l k => setPut l k (!l.contains k)) (tget [] s.flips f.sector)) }

/-- Media errors that have appeared. -/
def State.addFlips (s : State) (l : List Flip) : State := l.foldl (·.addFlip) s

/-! ## Part time -/

/-- Microseconds since a moment. -/
def elapsed (s : State) (since : Nat) : Nat := s.us - since

end Sys2Proof.Machine
end

