-- ==== Sys2Proof/Machine/Promise.lean ====
section
/-! DEFINITION. What other blocks do to the log of a page and to a plan: writes dropped under the access rules (R50 to R52),
the start of an armed plan (R471), a promise voided (R472) or its cool assumption lost (R474). -/
namespace Sys2Proof.Machine

/-- A write dropped and logged with the low byte of its code, tagged with its BAR0 offset (R49 to R52, R56). -/
def dropLog (s : State) (k lo : Nat) : State :=
  let p := pageOf k
  recordErr s (errPage p) (p.blk * 256 + lo) k

/-- A write of something that voids the running plan's promise (R472). -/
def voidPlan (s : State) : State :=
  if s.running.isSome then event (setF s pgPlan F.PLAN_SLOTS_RUN_STATE 3) pgPlan 5 else s

/-- A stack that the running plan uses leaves the cool rate (R474); a voided plan stays VOIDED. -/
def coolLost (s : State) (st : Nat) : State :=
  match s.running with
  | some p =>
    if p.cool && bit p.stackMask st && getF s pgPlan F.PLAN_SLOTS_RUN_STATE = 1 then
      event (setF s pgPlan F.PLAN_SLOTS_RUN_STATE 2) pgPlan 4
    else s
  | none => s

/-- An armed plan begins to run with a START on die 0 (R471). -/
def planStart (s : State) : State :=
  match s.running, s.armed with
  | none, some p =>
    let g := pgPlan
    let s := { s with running := some p, armed := none }
    let s := setF (setF s g F.PLAN_SLOTS_ARMED 0) g F.PLAN_SLOTS_ARMED_ID 0
    let s := setF (setF s g F.PLAN_SLOTS_RUN_STATE 1) g F.PLAN_SLOTS_RUN_ID p.id
    event (setF s g F.PLAN_CLOCK_NS 0) g 2
  | _, _ => s

/-- What ends the running plan has happened (R471): ENDED, or the MARK it names. -/
def planMark (s : State) (q : Plan → Bool) : State :=
  { s with running := s.running.map (fun p => if q p then { p with ended := true } else p) }

end Sys2Proof.Machine
end

