-- ==== Sys2Proof/Machine/Gf.lean ====
section
/-! DEFINITION. Fields GF(2^w) and the bounded-distance decoder of the row code (R106, R107, R109) and of the Vylith flit code
(R408). A code is linear, so the outcome of a decode is a function of the error alone: errors are given as the flipped bits of the
data symbols and of the parity symbols. DESIGN CHOICE (log 9): data symbols stand at the high powers of the codeword polynomial,
first symbol first, parity symbols below them. -/
namespace Sys2Proof.Machine

/-- A field GF(2^w): the bits of a symbol and the field polynomial. -/
structure Galois where
  w : Nat
  poly : Nat
  deriving DecidableEq, Repr

/-- GF(2^12), by x^12 + x^6 + x^4 + x + 1 (R106). -/
def rowField : Galois := ⟨12, 0x1053⟩

/-- GF(2^10), by x^10 + x^3 + 1 (R408). -/
def flitField : Galois := ⟨10, 0x409⟩

/-- The order of the primitive element. -/
def Galois.order (f : Galois) : Nat := 2 ^ f.w - 1

/-- The product of two elements. -/
def gfMul (f : Galois) (a b : Nat) : Nat :=
  (List.range f.w).foldl (fun x i =>
    let y := if 2 ^ (f.w - 1) ≤ x then Nat.xor (2 * x) f.poly else 2 * x
    if bit b (f.w - 1 - i) then Nat.xor y a else y) 0

/-- A power of an element, the exponent below 2^w. -/
def gfPow (f : Galois) (a n : Nat) : Nat :=
  (List.range f.w).foldl (fun x i => let y := gfMul f x x; if bit n (f.w - 1 - i) then gfMul f y a else y) 1

/-- A power of the primitive element. -/
def gfAlpha (f : Galois) (n : Nat) : Nat := gfPow f 2 (n % f.order)

/-- The inverse of an element that is not 0. -/
def gfInv (f : Galois) (a : Nat) : Nat := gfPow f a (f.order - 1)

/-- The value of a polynomial, lowest coefficient first. -/
def polyEval (f : Galois) (c : List Nat) (x : Nat) : Nat := c.foldr (fun a acc => Nat.xor a (gfMul f acc x)) 0

/-- c + k x^m b. -/
def polyAxpy (f : Galois) (c b : List Nat) (k m : Nat) : List Nat :=
  (List.range (max c.length (b.length + m))).map (fun i =>
    Nat.xor (c.getD i 0) (if m ≤ i then gfMul f k (b.getD (i - m) 0) else 0))

/-- Symbols with errors: number and value, from flipped bits of `w` a symbol. -/
def symbolErrs (w : Nat) (l : List Nat) : List (Nat × Nat) :=
  ((l.map (· / w)).eraseDups).map (fun k => (k, ((l.filter (· / w = k)).map (fun b => 2 ^ (b % w))).foldl Nat.xor 0))

/-- The syndromes S1 to S2t of errors at powers of the codeword polynomial. -/
def syndromes (f : Galois) (t : Nat) (errs : List (Nat × Nat)) : List Nat :=
  (List.range (2 * t)).map (fun j => errs.foldl (fun a e => Nat.xor a (gfMul f e.2 (gfAlpha f ((j + 1) * e.1)))) 0)

/-- The state of the Berlekamp–Massey recursion: locator, its length, the locator before its last change with its discrepancy, and
the steps since. -/
structure Massey where
  c : List Nat
  len : Nat
  b : List Nat
  d : Nat
  m : Nat
  deriving DecidableEq, Repr

/-- One step of the recursion, at syndrome number r + 1. -/
def masseyStep (f : Galois) (syn : List Nat) (x : Massey) (r : Nat) : Massey :=
  let d := (List.range (x.len + 1)).foldl (fun a i => if i ≤ r then Nat.xor a (gfMul f (x.c.getD i 0) (syn.getD (r - i) 0)) else a) 0
  if d = 0 then { x with m := x.m + 1 }
  else
    let c := polyAxpy f x.c x.b (gfMul f d (gfInv f x.d)) x.m
    if 2 * x.len ≤ r then { c := c, len := r + 1 - x.len, b := x.c, d := d, m := 1 } else { x with c := c, m := x.m + 1 }

/-- The value of the error at a power, by Forney's formula: syndromes, locator. -/
def forney (f : Galois) (t : Nat) (syn c : List Nat) (p : Nat) : Nat :=
  let x := gfAlpha f (f.order - p % f.order)
  let om := (List.range (2 * t)).map (fun i =>
    (List.range (i + 1)).foldl (fun a k => Nat.xor a (gfMul f (syn.getD k 0) (c.getD (i - k) 0))) 0)
  let dc := (List.range (c.length - 1)).map (fun i => if i % 2 = 0 then c.getD (i + 1) 0 else 0)
  gfMul f (polyEval f om x) (gfInv f (polyEval f dc x))

/-- The errors, by power, that a bounded-distance decoder of a code of `n` symbols finds: none where no codeword lies within t
symbols (R109 step 2). -/
def rsFind (f : Galois) (t n : Nat) (errs : List (Nat × Nat)) : Option (List (Nat × Nat)) :=
  let syn := syndromes f t errs
  let x := (List.range (2 * t)).foldl (masseyStep f syn) ⟨[1], 0, [1], 1, 1⟩
  let at_ := (List.range n).filter (fun p => polyEval f x.c (gfAlpha f (f.order - p % f.order)) = 0)
  let found := at_.map (fun p => (p, forney f t syn x.c p))
  if x.len ≤ t && at_.length = x.len && syndromes f t found = syn then some found else none

/-- The bits of a symbol's value, the symbol numbered `k`. -/
def symbolBits (w k v : Nat) : List Nat := ((List.range w).filter (bit v)).map (w * k + ·)

/-- The decode of a codeword of `nd` data symbols and 2t parity symbols (R106, R109, R408): the bits of the data and of the parity symbols
that the decoder flips; none where it reports failure. -/
def rsDecode (f : Galois) (t nd : Nat) (data par : List Nat) : Option (List Nat × List Nat) :=
  let n := nd + 2 * t
  let errs := (symbolErrs f.w data).map (fun e => (n - 1 - e.1, e.2)) ++ (symbolErrs f.w par).map (fun e => (2 * t - 1 - e.1, e.2))
  if errs.length ≤ t then some (data, par)
  else (rsFind f t n errs).map (fun l =>
    ((l.filter (fun e => 2 * t ≤ e.1)).flatMap (fun e => symbolBits f.w (n - 1 - e.1) e.2),
     (l.filter (fun e => e.1 < 2 * t)).flatMap (fun e => symbolBits f.w (2 * t - 1 - e.1) e.2)))

end Sys2Proof.Machine
end

