-- ==== Sys2Proof/Machine/Ecc.lean ====
section
/-! DEFINITION. The row code: error log, row decode, parity rows and the parity cache (R104 to R130), and the per-wire
correction counters and window requests that a decode causes (R148, R149). -/
namespace Sys2Proof.Machine

/-- A bank column's row: stack, channel, bank, row. -/
structure RowId where
  st : Nat
  ch : Nat
  bank : Nat
  row : Nat
  deriving DecidableEq, Repr

/-- Part address of a row. -/
def RowId.pa (r : RowId) : Nat := paOf r.st r.row r.ch r.bank

/-- The row of a part address. -/
def rowAt (a : Nat) : RowId := ⟨paStack a, paCh a, paBank a, paRow a⟩

/-- Number of a row's first sector. -/
def RowId.sec (r : RowId) : Nat := r.pa / 64

/-- Tag of the ECC errors 0x0916 to 0x0918 (R135). -/
def eccTag (r : RowId) (sector : Nat) : Nat := r.ch + r.bank * 32 + r.row * 512 + 2 ^ 25 * sector

/-- Adds a CXL event record (R449): kind 0 general media (address), 1 temperature (stack), 2 device health. Vector 2 signals
each new record (R448). -/
def cxlEvent (s : State) (kind arg : Nat) (corrected : Bool) : State :=
  let c := s.cxl
  { s with
    vecSent := s.vecSent.filter (· ≠ 2)
    cxl := { c with events := c.events ++ [⟨c.nextHandle, kind, arg, corrected, s.us⟩], nextHandle := c.nextHandle % 65535 + 1 } }

/-- Whether Skylark runs on a stack (R145, R148). -/
def skylarkRuns (s : State) (st : Nat) : Bool :=
  getF s (pgCal s.member st) F.CAL_SKYCFG_ENABLE = 1 && getF s (pgStk s.member st) F.STK_SRCTL_SR_STATE = 0
    && getF s (pgCal s.member st) F.CAL_TRCTL_TEST = 0

/-- A training window requested for a channel (R149); a request that is pending takes further causes in. -/
def requestWindow (s : State) (st ch : Nat) : State :=
  let d := pgDctl s.member st ch
  if getF s d F.DCTL_TRAINWIN_PENDING = 1 then s else
  let s := setB s d F.DCTL_TRAINWIN_PENDING true
  let s := event s (pgCal s.member st) 1
  bumpF s (pgCal s.member st) F.CAL_SKYSTAT_WINDOWS

/-- A stack's wire. -/
def wireOf (s : State) (st ch w : Nat) : Wire := tget {} (s.stack st).wires (ch * 64 + w)

/-- The state with a wire changed. -/
def updWire (s : State) (st ch w : Nat) (f : Wire → Wire) : State :=
  s.updStack st (fun k => { k with wires := tupd {} k.wires (ch * 64 + w) f })

/-- One corrected decode counted on a wire (R148, R149). -/
def laneCe (s : State) (st ch w : Nat) : State :=
  let s := updWire s st ch w (fun x => { x with laneCe := min (x.laneCe + 1) 4095 })
  let mx := getF s (pgCal s.member st) F.CAL_SKYCFG_LANE_CE_MAX
  if mx ≠ 0 && (wireOf s st ch w).laneCe = mx then
    let s := event s (pgCal s.member st) 4
    if skylarkRuns s st then requestWindow s st ch else s
  else s

/-- A record appended to a stack's error log (R129, R130). -/
def logRec (s : State) (r : RowId) (kind mode src mask lanes corr : Nat) : State :=
  let e := pgEcc s.member r.st
  let n := getF s e F.ECC_LOGSTAT_NEXT_SEQ
  let w0 := n + 2 ^ 32 * kind + strength s r.st * 2 ^ 40 + 2 ^ 42 * mode + src % 2 ^ 16 * 2 ^ 48
  let w1 := r.ch + r.bank * 2 ^ 5 + r.row * 2 ^ 9 + mask % 2 ^ 32 * 2 ^ 32
  let w3 := corr + s.us % 2 ^ 48 * 2 ^ 16
  let full := decide (tget [] (s.stack r.st).log (n % 1024) ≠ [])
  let s := s.updStack r.st (fun k => { k with log := tset [] k.log (n % 1024) ([w0, w1, lanes, w3].map (BitVec.ofNat 64)) })
  let s := wrapF s e F.ECC_LOGSTAT_NEXT_SEQ
  if full then event (bumpF s e F.ECC_LOGSTAT_OVERWRITTEN) e 8 else s

/-- A corrected decode logged: counters, events, lane map (R130, R148). -/
def logCe (s : State) (r : RowId) (kind mode src mask : Nat) (wires : List Nat) (corr : Nat) : State :=
  let e := pgEcc s.member r.st
  let s := logRec s r kind mode src mask ((wires.map (2 ^ ·)).sum) corr
  let s := bumpF s e F.ECC_COUNT_CORRECTED
  let s := event s e 0
  let hi := getF s e F.ECC_CFG_HIGH_CE
  let s := if hi ≠ 0 && hi ≤ corr then cxlEvent (event s e 2) 0 (r.pa - 2 ^ 31) true else s
  forEach s wires (fun s w => laneCe s r.st r.ch w)

/-- A failed decode logged: kind 3 UE, 4 MISCORRECT, 6 PARITY_UE (R130, R135, R449). DESIGN CHOICE (log 9): of several sectors the TAG
names the lowest-numbered. -/
def logUe (s : State) (r : RowId) (kind mode src mask : Nat) : State :=
  let e := pgEcc s.member r.st
  let first := ((onesOf 32 mask).head?).getD 0
  let s := logRec s r kind mode src mask 0 0xFF
  let s := bumpF s e F.ECC_COUNT_UNCORRECTABLE
  let s := event s e 1
  let s := recordErr s e (if kind = 6 then 0x0918 else 0x0917) (eccTag r first)
  cxlEvent s 0 (r.pa + first * 64 - 2 ^ 31) false

/-- A hole access logged: kind 7 read, 8 write (R39, R126, R130). -/
def logHole (s : State) (r : RowId) (kind src mask : Nat) : State :=
  let e := pgEcc s.member r.st
  let s := logRec s r kind 0 src mask 0 0
  let s := bumpF s e F.ECC_COUNT2_HOLE
  if kind = 8 then recordErr s e 0x0916 (eccTag r (((onesOf 32 mask).head?).getD 0)) else s

/-- The media errors of a row: sector within the row and flipped bits. -/
def rowFlips (s : State) (r : RowId) : List (Nat × List Nat) :=
  ((s.flips.filter (fun p => p.1 / 32 = r.pa / 2048)).map (fun p => (p.1 % 32, p.2)))

/-- The mask of the row's failing sectors (R105). -/
def failMask (s : State) (r : RowId) : Nat :=
  (((rowFlips s r).filter (fun p => secClass s (r.sec + p.1) = 2)).map (fun p => 2 ^ p.1)).sum

/-- The flipped bits of a row among the bits that the row code covers (R106): 528 stored bits a sector, 12 bits a symbol. DESIGN
CHOICE (log 9): bit k of a sector's CRC is its stored bit 512 + k. -/
def rowBits (l : List (Nat × List Nat)) : List Nat := l.flatMap (fun p => p.2.map (p.1 * 528 + ·))

/-- The flipped bits of a slot among its 2t parity symbols: data bits only, the leftover bits ignored (R106). -/
def slotBits (t base : Nat) (l : List (Nat × List Nat)) : List Nat :=
  (l.flatMap (fun p => (p.2.filter (· < 512)).map ((p.1 - base) * 512 + ·))).filter (· < 24 * t)

/-- Two sets of flipped bits together: a bit flipped twice is right again. -/
def flipBits (l m : List Nat) : List Nat := m.foldl (fun l k => setPut l k (!l.contains k)) l

/-- The symbols that hold flipped bits. -/
def symbolsOf (l : List Nat) : Nat := ((l.map (· / 12)).eraseDups).length

/-- The flips of a sector dropped: its stored bits are written anew. -/
def State.clrFlips (s : State) (k : Nat) : State := { s with flips := terase k s.flips }

/-- A failing or changed sector rewritten with its data as read; a failing one with the poison CRC (R109 step 5). -/
def bakeSector (s : State) (k : Nat) : State :=
  let c := secClass s k
  let d := secRaw s k
  ((s.wrMem (k * 64) d).clrFlips k).setPoison (k * 64) (c ≠ 0)

/-- Whether the channel's parity cache holds the dirty slot of a row (R117). -/
def cached (s : State) (r : RowId) : Bool := (s.chan r.st r.ch).lines.contains ⟨r.bank, r.row⟩

/-- The sectors of a parity row that hold a data row's slot: the parity row and the first sector in it. -/
def slotPlace (s : State) (r : RowId) : RowId × Nat :=
  let k := strength s r.st
  let (p, j) := slotOf k r.row
  ({ r with row := p }, j * slotSectors k)

/-- The data rows that a parity row covers (R106, R107). -/
def coveredRows (s : State) (p : RowId) : List RowId :=
  let k := strength s p.st
  let n := 65536 - holeRow k
  (List.range (holeRow k / n)).map (fun j => { p with row := j * n + (p.row - holeRow k) })

/-- A parity row whose decode has failed waits for its rebuild, in the queue where that has room (R112). -/
def queueRebuild (s : State) (p : RowId) : State :=
  let e := (p.ch, p.bank, p.row)
  s.updStack p.st (fun x => { x with
    lost := if x.lost.contains e then x.lost else x.lost ++ [e]
    rebuild := if 32 ≤ x.rebuild.length || x.rebuild.contains e then x.rebuild else x.rebuild ++ [e] })

/-- A sector's flipped bits after a decoder's changes. -/
def State.addBits (s : State) (k : Nat) (l : List Nat) : State := { s with flips := tset [] s.flips k (flipBits (tget [] s.flips k) l) }

/-- The changes of a decoder to a row made in it: bits as the row code numbers them. -/
def State.addRowBits (s : State) (r : RowId) (l : List Nat) : State :=
  forEach s ((l.map (· / 528)).eraseDups) (fun s k => s.addBits (r.sec + k) ((l.filter (· / 528 = k)).map (· % 528)))

/-- The sectors of a row that a decoder changed all pass the sector check (R109 step 3). -/
def changesPass (s : State) (r : RowId) (l : List Nat) : Bool := ((l.map (· / 528)).eraseDups).all (fun k => secClass s (r.sec + k) ≠ 2)

/-- The data row whose slot lies in a sector of a parity row. -/
def slotRow (s : State) (p : RowId) (sector : Nat) : RowId :=
  let k := strength s p.st
  { p with row := sector / slotSectors k * (65536 - holeRow k) + (p.row - holeRow k) }

/-- What stands in the sectors of a parity row is taken as it is: bits still wrong in a slot are wrong parity of its data row. -/
def keepParity (s : State) (p : RowId) (l : List (Nat × List Nat)) : State :=
  let k := strength s p.st
  forEach s l (fun s q =>
    let r := slotRow s p q.1
    let f := q.1 / slotSectors k * slotSectors k
    let wrong := if q.1 < 32 - slotSectors k then slotBits (corrects k) f [q] else []
    { s.clrFlips (p.sec + q.1) with slotErrs := tset [] s.slotErrs (r.pa / 2048) (flipBits (tget [] s.slotErrs (r.pa / 2048)) wrong) })

/-- A parity row decoded (R107, R112): its errors outside slots that the cache holds. Answers whether it succeeded. -/
def decodeParity (s : State) (p : RowId) (src : Nat) : Bool × State :=
  let k := strength s p.st
  let t := corrects k
  let spare := 32 - slotSectors k
  let live := (rowFlips s p).filter (fun q => spare ≤ q.1 || !cached s (slotRow s p q.1))
  let mask := ((live.filter (fun q => secClass s (p.sec + q.1) = 2)).map (fun q => 2 ^ q.1)).sum
  let failed : Bool × State := (false, queueRebuild (logUe s p 6 0 src mask) p)
  match rsDecode rowField t (44 * spare) (rowBits (live.filter (·.1 < spare))) (slotBits t spare (live.filter (spare ≤ ·.1))) with
  | none => failed
  | some (data, par) =>
    let s' := s.addRowBits p data
    if !changesPass s' p data then failed
    else
      let left := (rowFlips s' p).filter (fun q => spare ≤ q.1 || !cached s (slotRow s p q.1))
      let wires := (data.filter (· % 528 < 512)).map (· % 528 % 64) ++ par.map (· % 64)
      (true, logCe (keepParity s' p left) p 5 0 src mask wires.eraseDups (symbolsOf data + symbolsOf par))

/-- Whether a row's parity row waits for a rebuild, so that the row has no correction (R112). -/
def uncovered (s : State) (r : RowId) : Bool :=
  let p := (slotPlace s r).1
  (s.stack r.st).lost.contains (p.ch, p.bank, p.row)

/-- A write-back of a line (R118, R120): in memory mode with every dirty line of the same parity row. DESIGN CHOICE (log 9): a line
that has been written back leaves the cache. -/
def writeback (s : State) (st ch : Nat) (l : Line) : State :=
  let k := strength s st
  let mem := getF s (pgDctl s.member st ch) F.DCTL_CHMODE_STATE = 0
  let p : RowId := ⟨st, ch, l.bank, parityRow k l.row⟩
  let taken := if mem then (s.chan st ch).lines.filter (fun x => x.bank = l.bank && parityRow k x.row = p.row) else [l]
  let ss := slotSectors k
  let clear (s : State) (f : Nat) : State := forEach s (List.range ss) (fun s i => s.clrFlips (p.sec + f + i))
  -- the spare slot is read, and the parity row decoded first where the slot fails its CRC
  let bad := (rowFlips s p).any (fun q => 32 - ss ≤ q.1 && secClass s (p.sec + q.1) = 2)
  let s := if bad && !(s.stack st).lost.contains (ch, l.bank, p.row) then (decodeParity s p 0xF000).2 else s
  let s := s.updBank st ch l.bank (fun b => { b with openRow := none })
  let s := s.updChan st ch (fun c => { c with lines := c.lines.filter (fun x => !taken.contains x) })
  let s := forEach s taken (fun s x => clear s ((slotOf k x.row).2 * ss))
  let s := clear s (32 - ss)
  charge (charge s (pgDctl s.member st ch) 7 1) (pgDctl s.member st ch) 6 (2 * (taken.length + 1) * ss)

/-- A parity row opened for another reason: in memory mode its dirty lines are written back in that opening (R118). -/
def openParity (s : State) (p : RowId) : State :=
  if getF s (pgDctl s.member p.st p.ch) F.DCTL_CHMODE_STATE = 0 then
    match (s.chan p.st p.ch).lines.find? (fun l => l.bank = p.bank && parityRow (strength s p.st) l.row = p.row) with
    | some l => writeback s p.st p.ch l
    | none => s
  else s

/-- The slot made ready for a decode or a load: decoded with its parity row if a sector of it fails (R109 step 1).
Answers whether the slot can be used. -/
def readySlot (s : State) (r : RowId) (src : Nat) : Bool × State :=
  if uncovered s r then (false, s)
  else if cached s r then (true, s)
  else
    let (p, f) := slotPlace s r
    let s := openParity s p
    let bad := (rowFlips s p).any (fun q => f ≤ q.1 && q.1 < f + slotSectors (strength s r.st) && secClass s (p.sec + q.1) = 2)
    if bad then decodeParity s p src else (true, s)

/-- The flips of a slot in its parity row, among its codeword's parity symbols; none where the cache holds the slot. -/
def slotFlips (s : State) (r : RowId) : List Nat :=
  let (p, f) := slotPlace s r
  let k := strength s r.st
  if cached s r then [] else slotBits (corrects k) f ((rowFlips s p).filter (fun q => f ≤ q.1 && q.1 < f + slotSectors k))

/-- The wrong bits of a slot among its codeword's parity symbols: carried over into it, or flipped in place. -/
def slotErrors (s : State) (r : RowId) : List Nat := flipBits (tget [] s.slotErrs (r.pa / 2048)) (slotFlips s r)

/-- The slot recomputed from its row and written: no errors are left in it. -/
def freshSlot (s : State) (r : RowId) : State :=
  let (p, f) := slotPlace s r
  let s := { s with slotErrs := tset [] s.slotErrs (r.pa / 2048) [] }
  if cached s r then s else forEach s (List.range (slotSectors (strength s r.st))) (fun s i => s.clrFlips (p.sec + f + i))

/-- The row decode of R109 to R112 on a row with failing sectors: corrected and written back, or poisoned, and one
record logged. `kind` is the record of a correction (1 CE_READ, 2 CE_SCRUB). Answers whether it succeeded. -/
def decodeRow (s : State) (r : RowId) (kind mode src : Nat) : Bool × State :=
  let mask := failMask s r
  let errs := rowFlips s r
  let (have_, s) := readySlot s r src
  let t := corrects (strength s r.st)
  let poisonAll (s : State) (kind : Nat) : State :=
    let s := forEach s errs (fun s q => bakeSector s (r.sec + q.1))
    let s := if have_ then freshSlot s r else s
    logUe s r kind mode src mask
  if !have_ then (false, poisonAll s 3)
  else
    match rsDecode rowField t 1408 (rowBits errs) (slotErrors s r) with
    | none => (false, poisonAll s 3)
    | some (data, par) =>
      let s' := s.addRowBits r data
      if !changesPass s' r data then (false, poisonAll s 4)
      else
        -- a slot read over the channel's wires carries its corrected bits on them
        let wires := (data.filter (· % 528 < 512)).map (· % 528 % 64) ++ (if cached s r then [] else (slotWire s r par))
        let s' := forEach s' (rowFlips s' r) (fun s q => bakeSector s (r.sec + q.1))
        (true, logCe (freshSlot s' r) r kind mode src mask wires.eraseDups (symbolsOf data + symbolsOf par))
where
  /-- The wires of those corrected bits of a slot that were wrong in its parity row. -/
  slotWire (s : State) (r : RowId) (par : List Nat) : List Nat := (par.filter (slotFlips s r).contains).map (· % 64)

/-! ## The parity cache (R117 to R121) -/

/-- Lines of a channel's parity cache at a strength (R117). -/
def cacheLines (k : Nat) : Nat := if k = 0 then 1024 else if k = 1 then 512 else 256

/-- A channel's parity cache has no free line (R117). -/
def cacheFull (s : State) (st ch : Nat) : Bool := cacheLines (strength s st) ≤ (s.chan st ch).lines.length

/-- A slot made dirty in the cache (R115 step 4, R119): the oldest line goes first when there is no place, and the
line is loaded if it is absent. `whole` replaces the line, so nothing is loaded. -/
def dirtyLine (s : State) (r : RowId) (whole : Bool) (src : Nat) : State :=
  if cached s r then (if whole then { s with slotErrs := tset [] s.slotErrs (r.pa / 2048) [] } else s)
  else
    let s := if cacheFull s r.st r.ch then
        (match (s.chan r.st r.ch).lines with | [] => s | l :: _ => writeback s r.st r.ch l) else s
    let s := if whole then { s with slotErrs := tset [] s.slotErrs (r.pa / 2048) [] }
      else
        let s := (readySlot s r src).2
        { s with slotErrs := tset [] s.slotErrs (r.pa / 2048) (slotErrors s r) }
    s.updChan r.st r.ch (fun c => { c with lines := c.lines ++ [⟨r.bank, r.row⟩] })

/-- Every dirty line of a stack written back (R121). -/
def flushStack (s : State) (st : Nat) : State :=
  forEach s (List.range 32) (fun s ch =>
    forEach s (s.chan st ch).lines (fun s l => if (s.chan st ch).lines.contains l then writeback s st ch l else s))

/-- The most dirty lines of any channel of a stack (R134 PCSTAT.DIRTY_MAX). -/
def dirtyMax (s : State) (st : Nat) : Nat := ((List.range 32).map (fun ch => (s.chan st ch).lines.length)).foldl max 0

/-- A flush of a stack's caches starts (R121). -/
def startFlush (s : State) (st : Nat) : State := setB s (pgEcc s.member st) F.ECC_PCSTAT_FLUSHING true

/-- A flush that a fence or self-refresh starts: done at once where no line is dirty (R121). -/
def flushDirty (s : State) (st : Nat) : State := if dirtyMax s st = 0 then s else startFlush s st

/-- A flush of a stack's caches runs (R121). -/
def flushing (s : State) (st : Nat) : Bool := getF s (pgEcc s.member st) F.ECC_PCSTAT_FLUSHING = 1

end Sys2Proof.Machine
end

