-- ==== Sys2Proof/Machine/Egress.lean ====
section
/-! DEFINITION. What the part sends to its peers and what it returns to its own sources: packets formed for an egress
(R417, R420), answers to arrived packets, data and completions returned to DMA channels, the CXL port and the Vylith
ingress (R82, R321, R447). -/
namespace Sys2Proof.Machine

/-- The part number (R406). -/
def partNo (s : State) : Nat := getF s pgSync F.SYNC_PARTID_PART

/-- The virtual channel of a packet type (R416): 0 REQ, 1 RSP, 2 ACC, 3 MGMT. A FENCE has a header on REQ and one on
ACC. -/
def vcOf (typ : Nat) : Nat := match typ with | 2 => 2 | 4 => 1 | 7 => 3 | _ => 0

/-- Flits of a packet (R416): the header and its payload. -/
def flitsOf (p : Pkt) : Nat := 1 + if p.typ = 7 then 0 else (p.payload.length + 255) / 256

/-- A packet of a type with every other field 0. -/
def blankPkt (typ dest src srcId : Nat) : Pkt where
  typ := typ
  dest := dest
  src := src
  srcId := srcId
  hops := 0
  cls := 0
  pa := 0
  tag := 0
  len := 0
  afmt := 0
  piece := 0
  value := 0
  counter := 0
  fenceNo := 0
  status := 0
  mgmtOp := 0
  completes := 0
  poison := []
  payload := []
  vc := vcOf typ
  reserved := false

/-- A packet given to the egress of a die; in FAULTED and in a job reset it accepts MGMT alone (R433, R483). -/
def toEgress (s : State) (die : Nat) (p : Pkt) : State :=
  if halted s && p.vc ≠ 3 then s else { s with egress := s.egress ++ [(die, p)] }

/-- The die of a port; keys from 16 on stand for the loopbacks of the dies. -/
def dieOfPort (s : State) (port : Nat) : Nat := if 16 ≤ port then port - 16 else s.member.portDie port

/-- The source identifier of an ingress virtual channel (R80). -/
def ingressSrc (port vc : Nat) : Nat := 0x4000 + min port 15 * 4 + vc

/-- The answer to an arrived packet: a completion (LEN 0), or the data of a read (R417, R420). -/
def answer (s : State) (q : InPkt) (status : Nat) (data : List Byte) (poison : List Bool) : State :=
  toEgress s (dieOfPort s q.port)
    { blankPkt 4 q.part (partNo s) q.srcId with
      pa := q.pa
      tag := q.tag
      len := data.length
      status := status
      completes := if data.isEmpty then q.typ else 0
      poison := poison
      payload := data }

/-- A packet recorded as being performed; answers its number. -/
def openIn (s : State) (port left : Nat) (p : Pkt) : Nat × State :=
  (s.nextIn, { s with
    inPkts := s.inPkts ++ [⟨s.nextIn, p.src, p.srcId, p.tag, port, p.typ, p.pa, p.len, left, [], 0⟩], nextIn := s.nextIn + 1 })

/-- Bytes of read pieces in address order. -/
def gathered (q : InPkt) : List Byte × List Bool :=
  let l := q.got.mergeSort (fun a b => a.1 ≤ b.1)
  let base := q.pa / 64 * 64
  let all := l.flatMap (fun x => x.2.1)
  let marks := l.flatMap (fun x => x.2.2)
  let d := (all.drop (q.pa - base)).take q.len
  (d, (List.range ((q.len + 63) / 64)).map (fun i =>
    (List.range 64).any (fun j => i * 64 + j < q.len && marks.getD ((q.pa - base + i * 64 + j) / 64) false)))

/-- One request or swath of an arrived packet performed; the last one sends the answer (R420). -/
def inDone (s : State) (id : Nat) (got : Option (Nat × List Byte × List Bool)) (status : Nat) : State :=
  match s.inPkts.find? (·.id = id) with
  | none => s
  | some q =>
    let q := { q with left := q.left - 1, got := q.got ++ got.toList, status := max q.status status }
    if q.left = 0 then
      let s := { s with inPkts := s.inPkts.filter (·.id ≠ id) }
      if q.typ = 3 then let (d, m) := gathered q; answer s q q.status d m else answer s q q.status [] []
    else { s with inPkts := s.inPkts.map (fun x => if x.id = id then q else x) }

/-- The completion release has isolated the stack of a CXL.mem request, by its DPA (R383, R392, R440): the completion waits. -/
def releaseIsolated (s : State) (dpa : Nat) : Bool := isolated s 0 102 (paStack (dpa + 2 ^ 31))

/-- A CXL.mem read completes, marked poisoned or not (R447, R454); the completion of a request that a reset of the CXL core
found in flight is discarded (R453): such a request carries 2^64 in its tag. -/
def cxlReadDone (s : State) (tag : Nat) (data : List Byte) (bad : Bool) : State :=
  if 2 ^ 64 ≤ tag then s
  else if releaseIsolated s tag then { s with cxl := { s.cxl with unsent := s.cxl.unsent ++ [(false, tag, data, bad)] } }
  else
    let s := bumpF (s.emit (.cxlRead tag data bad)) pgCxl F.CXL_RDCOUNT
    if bad then event (bumpF s pgCxl F.CXL_POISON_OUT) pgCxl 3 else s

/-- A CXL.mem write completes (R453, R454). -/
def cxlWriteDone (s : State) (tag : Nat) : State :=
  if 2 ^ 64 ≤ tag then s
  else if releaseIsolated s tag then { s with cxl := { s.cxl with unsent := s.cxl.unsent ++ [(true, tag, [], false)] } }
  else bumpF (s.emit (.cxlWrite tag)) pgCxl F.CXL_WRCOUNT

/-- Read data taken by a source: poison in what a Uzoid core loads bites (R125). -/
def uzoidLoad (s : State) (src : Nat) (pz : List Bool) : State :=
  if src / 4096 = 3 && hasDie s (src % 4096) && pz.any id then bite s (src % 4096) 0x01 0 0x1810 0 else s

/-- A piece of a control path's fetch comes back (R42). -/
def fetchCame (s : State) (no pa : Nat) (data : List Byte) (pz : List Bool) : State :=
  { s with fetches := s.fetches.map (fun f => if f.no = no then { f with left := f.left - pz.length, got := f.got ++ [(pa, data, pz)] } else f) }

/-- Read data returned to its source; the tags of the control paths' fetches lie above every other. -/
def returnRead (s : State) (r : Req) (data : List Byte) (pz : List Bool) : State :=
  let i := r.src % 4096
  match r.src / 4096 with
  | 0 =>
    if ((s.tile (i / 4)).ch (i % 4)).reads.any (·.tag = r.tag) then
      s.updTile (i / 4) (fun t => t.updCh (i % 4) (fun c => { c with rback := c.rback ++ [(r.tag, data, pz)] }))
    else s.emit (.readData r.src r.tag data pz)
  | 2 => cxlReadDone s r.tag data (pz.any id)
  | 4 =>
    if s.inPkts.any (·.id = r.tag) then inDone s r.tag (some (r.pa, data, pz)) 0 else s.emit (.readData r.src r.tag data pz)
  | _ =>
    if 2 ^ 64 ≤ r.tag then fetchCame s (r.tag - 2 ^ 64) r.pa data pz
    else uzoidLoad (s.emit (.readData r.src r.tag data pz)) r.src pz

/-- A write's completion returned to its source. -/
def returnWrite (s : State) (r : Req) : State :=
  let i := r.src % 4096
  match r.src / 4096 with
  | 0 =>
    if ((s.tile (i / 4)).ch (i % 4)).writes.contains r.tag then
      s.updTile (i / 4) (fun t => t.updCh (i % 4) (fun c => { c with wback := c.wback ++ [r.tag] }))
    else s.emit (.writeDone r.src r.tag)
  | 2 => cxlWriteDone s r.tag
  | 4 => if s.inPkts.any (·.id = r.tag) then inDone s r.tag none 0 else s.emit (.writeDone r.src r.tag)
  | _ => s.emit (.writeDone r.src r.tag)

end Sys2Proof.Machine
end

