-- ==== Sys2Proof/Machine/Dram.lean ====
section
/-! DEFINITION. The DRAM controller: intake and bank queues (R72 to R75), page policy (R76, R77), memory accesses under
the row code (R105, R109, R115, R116), refresh bursts (R85 to R88). -/
namespace Sys2Proof.Machine

/-- CHMODE.STATE of a channel: 0 MEMORY, 1 ENTERING, 2 PROCESSOR, 3 BREATHER, 4 EXITING (R99). -/
def chState (s : State) (st ch : Nat) : Nat := getF s (pgDctl s.member st ch) F.DCTL_CHMODE_STATE

/-- The owner in force of a channel out of memory mode (R157). -/
def chOwner (s : State) (st ch : Nat) : Nat := (s.chan st ch).owner

/-- SR_STATE of a stack: 0 ACTIVE, 1 ENTERING, 2 HELD, 3 EXITING, 4 CLEARING (R102). -/
def srState (s : State) (st : Nat) : Nat := getF s (pgStk s.member st) F.STK_SRCTL_SR_STATE

/-- The stack is in TEST (R140). -/
def inTest (s : State) (st : Nat) : Bool := getF s (pgCal s.member st) F.CAL_TRCTL_TEST = 1

/-- A reformat of the stack runs (R108). -/
def reformatting (s : State) (st : Nat) : Bool := getF s (pgEcc s.member st) F.ECC_STRENGTH_REFORMAT = 1

/-- The intakes of a stack take requests (R95, R108, R140). -/
def stackOpen (s : State) (st : Nat) : Bool := srState s st = 0 && !inTest s st && !reformatting s st

/-- Every channel of a stack is in memory mode (R160). -/
def allMemory (s : State) (st : Nat) : Bool := (List.range 32).all (fun ch => chState s st ch = 0)

/-- A refresh burst holds the channel (R85, R99 REFSTAT.BURSTING). -/
def bursting (s : State) (st ch : Nat) : Bool := getF s (pgDctl s.member st ch) F.DCTL_REFSTAT_BURSTING = 1

/-- Owed refreshes (R85). -/
def owed (s : State) (st ch : Nat) : Nat := getF s (pgDctl s.member st ch) F.DCTL_REFSTAT_OWED

/-- A parameter of 8 bits for which 0 means 256 (R99). -/
def zero256 (n : Nat) : Nat := if n = 0 then 256 else n

/-! ## Requests -/

/-- The pieces of a request at row boundaries, in ascending address order (R72). -/
def splitReq : Nat → Req → List Req
  | 0, _ => []
  | fuel + 1, r =>
    let room := 32 - r.pa / 64 % 32
    if r.nsec ≤ room then [r]
    else { r with nsec := room, data := r.data.take (room * 64), poison := r.poison.take room } ::
      splitReq fuel { r with pa := r.pa + room * 64, nsec := r.nsec - room, data := r.data.drop (room * 64), poison := r.poison.drop room }

/-- Whether a request touches a byte address. -/
def reqTouches (r : Req) (a : Nat) : Bool :=
  r.pa ≤ a && a < r.pa + r.nsec * 64 && (!r.write || (r.data.getD (a - r.pa) none).isSome)

/-- Whether the bytes of two requests overlap (R81). -/
def reqOverlaps (x y : Req) : Bool := (List.range (x.nsec * 64)).any (fun i => reqTouches x (x.pa + i) && reqTouches y (x.pa + i))

/-- Requests waiting in the bank queues of a channel (R99 CHSTAT.QUEUED). -/
def queued (s : State) (st ch : Nat) : Nat := ((List.range 16).map (fun b => ((s.chan st ch).bank b).queue.length)).sum

/-- A request put into its bank queue, which has 16 entries (R73). -/
def enqueue (s : State) (r : Req) : State :=
  s.updBank (paStack r.pa) (paCh r.pa) (paBank r.pa) (fun b => { b with queue := b.queue ++ [r] })

/-- Room in the bank queue that a request needs (R73). -/
def hasRoom (s : State) (r : Req) : Bool := ((s.chan (paStack r.pa) (paCh r.pa)).bank (paBank r.pa)).queue.length < 16

/-- A request parked (R174); the CXL core counts its own (R454). -/
def park (s : State) (r : Req) : State :=
  let s := s.updChan (paStack r.pa) (paCh r.pa) (fun c => { c with parked := c.parked ++ [r] })
  if r.src = 0x2000 then bumpF s pgCxl F.CXL_PARK_COUNT else s

/-- A memory request taken by the intake where there is room for it, else held under back-pressure (R73, R174).
Answers whether it was taken. -/
def tryTake (s : State) (r : Req) : Option State :=
  let st := paStack r.pa
  let ch := paCh r.pa
  if intakeIsolated s st ch r.src then none
  else if chState s st ch = 0 then
    (if stackOpen s st && hasRoom s r && !(s.chan st ch).parked.any (fun x => paBank x.pa = paBank r.pa) then
      some (enqueue s r) else none)
  else if (s.chan st ch).parked.length < 64 then some (park s r) else none

/-- A request waits for a bank at its channel's intake; one of an isolated requester holds up no other (R392). -/
def awaitsBank (s : State) (r x : Req) : Bool := paBank x.pa = paBank r.pa && !intakeIsolated s (paStack x.pa) (paCh x.pa) x.src

/-- The requests held at the intake taken in order as room appears; a request to a bank that an earlier one still
waits for stays behind it (R385). -/
def admitLoop : List Req → List Nat → State → State × List Req
  | [], _, s => (s, [])
  | r :: l, banks, s =>
    if banks.contains (paBank r.pa) then let (s, k) := admitLoop l banks s; (s, r :: k)
    else match tryTake s r with
      | some s => admitLoop l banks s
      | none =>
        let (s, k) := admitLoop l (if intakeIsolated s (paStack r.pa) (paCh r.pa) r.src then banks else paBank r.pa :: banks) s
        (s, r :: k)

/-- The channel's held requests taken as room allows. -/
def takeIn (s : State) (st ch : Nat) : State :=
  let (s, k) := admitLoop (s.chan st ch).blocked [] s
  s.updChan st ch (fun c => { c with blocked := k })

/-- The held requests of every channel of a stack taken as room allows. -/
def admitStack (s : State) (st : Nat) : State := forEach s (List.range 32) (fun s ch => takeIn s st ch)

/-- A memory-mode or parked request arriving at its intake (R72, R73, R174). -/
def memRequest (s : State) (r : Req) : State :=
  forEach s (splitReq 64 r) (fun s r =>
    let st := paStack r.pa
    let ch := paCh r.pa
    if (s.chan st ch).blocked.any (awaitsBank s r) then
      s.updChan st ch (fun c => { c with blocked := c.blocked ++ [r] })
    else match tryTake s r with
      | some s => s
      | none => s.updChan st ch (fun c => { c with blocked := c.blocked ++ [r] }))

/-! ## Performing an access -/

/-- The sectors of a request, by number. -/
def reqSecs (r : Req) : List Nat := (List.range r.nsec).map (r.pa / 64 + ·)

/-- The request writes every byte of its row (R115). -/
def reqWhole (r : Req) : Bool := r.write && r.nsec = 32 && r.data.all Option.isSome && r.data.length = 2048

/-- One sector written through the parity-delta engine (R115, R116). -/
def writeSector (s : State) (k : Nat) (data : List (Option Byte)) (poison : Bool) : State :=
  let full := data.length = 64 && data.all Option.isSome
  let bad := poison || (secClass s k = 1 && !full)
  let s := (if full then s.clrFlips k else bakeSector s k).wrMemOpt (k * 64) data
  let s := s.setPoison (k * 64) bad
  let st := paStack (k * 64)
  if poison then bumpF s (pgEcc s.member st) F.ECC_COUNT2_POISON_STORED else s

/-- A request's data as stored now, a sector at a time, poisoned sectors marked (R105). -/
def readNow (s : State) (r : Req) : List Byte × List Bool :=
  ((reqSecs r).flatMap (secRaw s), (reqSecs r).map (fun k => secClass s k = 1))

/-- A row access performed: the old sectors are sound, or the decode has dealt with them (R115, R116). -/
def performRow (s : State) (r : Req) : State :=
  if r.write then
    let s := (List.range r.nsec).foldl (fun s i =>
      writeSector s (r.pa / 64 + i) ((r.data.drop (i * 64)).take 64) (r.poison.getD i false)) s
    returnWrite (dirtyLine s (rowAt r.pa) (reqWhole r) r.src) r
  else
    let (d, p) := readNow s r
    returnRead s r d p

/-- A request that reaches a hole (R39, R126). -/
def performHole (s : State) (r : Req) : State :=
  let mask := ((List.range r.nsec).map (fun i => 2 ^ (r.pa / 64 % 32 + i))).sum
  if r.write then returnWrite (logHole s (rowAt r.pa) 8 r.src mask) r
  else returnRead (logHole s (rowAt r.pa) 7 r.src mask) r (List.replicate (r.nsec * 64) 0) (List.replicate r.nsec true)

/-- Whether an access needs the row decoded first: a read of a failing sector, or a partial write over one (R109,
R115 step 1). -/
def needsDecode (s : State) (r : Req) : Bool := !(reqWhole r) && (reqSecs r).any (fun k => secClass s k = 2)

/-- The page predictor after an access (R76). -/
def predict (b : Bank) (row : Nat) : Bank × Bool :=
  let hit := decide (b.lastRow = some row)
  ({ b with ctr := if hit then min (b.ctr + 1) 3 else b.ctr - 1, hist := (hit :: b.hist).take 4, lastRow := some row }, hit)

/-- Whether the row stays open after an access (R76). -/
def keepOpen (policy cap : Nat) (b : Bank) (row : Nat) : Bool :=
  match policy with
  | 1 => false
  | 2 => true
  | _ =>
    match b.queue with
    | [] => 2 ≤ b.ctr || (b.ctr = 1 && 3 ≤ (b.hist.filter id).length)
    | q => match q.find? (fun r => cap ≤ r.bypass) with
      | some r => paRow r.pa = row
      | none => q.any (fun r => paRow r.pa = row)

/-- The controller's decision whether to close the row, after an access to it (R76), and the outcome counters. -/
def afterAccess (s : State) (st ch b row : Nat) : State :=
  let d := pgDctl s.member st ch
  let (bk, hit) := predict ((s.chan st ch).bank b) row
  let keep := keepOpen (getF s d F.DCTL_PAGECFG_POLICY) (zero256 (getF s d F.DCTL_PAGECFG_AGE_CAP)) bk row
  let s := s.updBank st ch b (fun _ => { bk with openRow := if keep then some row else none })
  bumpF s d (if hit then F.DCTL_PAGESTAT_ROW_HITS else F.DCTL_PAGESTAT_ROW_MISSES)

/-- Whether the channel's training window may be granted now: its period has run (R153) and its stack is in service. -/
def windowReady (s : State) (st ch : Nat) : Bool :=
  getF s (pgDctl s.member st ch) F.DCTL_TRAINWIN_PENDING = 1 && stackOpen s st
    && !(s.chan st ch).windowHold

/-- A burst begins (R85, R99 REFSTAT.BURSTING); it carries the channel's training window where that is allowed by then (R150). `due`:
a refresh falls due at that moment, so that the burst issues it beside the owed ones (R86). -/
def startBurst (s : State) (st ch : Nat) (due : Bool := false) : State :=
  let carry := windowReady s st ch && (chState s st ch = 0 || (s.chan st ch).breath)
  (setB s (pgDctl s.member st ch) F.DCTL_REFSTAT_BURSTING true).updChan st ch (fun c => { c with
    refreshed := false, dueNow := due, carry := carry })

/-- The rules of R85 looked at again when queues empty or a burst ends: OWED at MEM_DEFER forces a burst, and an empty
queue with owed refreshes begins one (not while ENTERING). -/
def burstRules (s : State) (st ch : Nat) : State :=
  let d := pgDctl s.member st ch
  let m := chState s st ch
  let br := (s.chan st ch).breath
  let idle := queued s st ch = 0 && (s.chan st ch).toRelease = 0
  if bursting s st ch || !(m = 0 || m = 1 || br) then s
  else if owed s st ch = 0 then (if br && idle && windowReady s st ch then startBurst s st ch else s)
  else if getF s d F.DCTL_REFCFG_MEM_DEFER ≤ owed s st ch && !(br && idle) then event (startBurst s st ch) d 2
  else if m ≠ 1 && idle then startBurst s st ch
  else s

/-- Parked requests of a running breather, or of an exit, passed to the bank queues in arrival order as room allows
(R161, R175). -/
def releaseParked : Nat → State → Nat → Nat → State
  | 0, s, _, _ => s
  | fuel + 1, s, st, ch =>
    let c := s.chan st ch
    match c.parked with
    | [] => s.updChan st ch (fun c => { c with toRelease := 0 })
    | r :: l =>
      if c.toRelease = 0 || !hasRoom s r then s
      else releaseParked fuel ((enqueue s r).updChan st ch (fun c => { c with parked := l, toRelease := c.toRelease - 1 })) st ch

/-- Requests of a channel that are not performed: queued, or being released from parking. -/
def busyQueue (s : State) (st ch : Nat) : Bool := queued s st ch ≠ 0 || (s.chan st ch).toRelease ≠ 0

/-- A stack reads ACTIVE for the first time since power-up: the Tedder's first pass begins (R127). -/
def firstActive (s : State) (st : Nat) : State :=
  s.updStack st (fun x => if x.passOn then x else { x with passOn := true, passFrom := s.us, dueAt := 0, dueUs := s.us })

/-- Every queued request of a stack is performed and no burst runs (R95 step 3). -/
def stackIdle (s : State) (st : Nat) : Bool := (List.range 32).all (fun ch => !busyQueue s st ch && !bursting s st ch)

/-- A stack that enters self-refresh flushes its parity caches once its requests are performed (R95 step 4, R121). -/
def srFlush (s : State) (st : Nat) : State :=
  if srState s st = 1 && !(s.stack st).flushed && stackIdle s st then
    flushDirty (s.updStack st (fun x => { x with flushed := true })) st
  else s

/-- What follows when a bank queue gives up an entry (R73, R85, R95, R175). -/
def afterRelease (s : State) (st ch : Nat) : State := srFlush (burstRules (takeIn (releaseParked 64 s st ch) st ch) st ch) st

/-- A request performed and its queue entry released; the older requests of the bank that it passed count a bypass
(R73, R75). -/
def finishReq (s : State) (st ch b i : Nat) (r : Req) (perform : State → State) : State :=
  let s := s.updBank st ch b (fun k => { k with
    queue := ((k.queue.take i).map (fun x => { x with bypass := x.bypass + 1 })) ++ k.queue.drop (i + 1) })
  let s := charge s (pgDctl s.member st ch) 6 r.nsec
  let s := afterAccess s st ch b (paRow r.pa)
  afterRelease (perform s) st ch

/-- The candidate of a bank: the oldest ready request that no older overlapping request of its source precedes (R74,
R81), or the request that the bypass limit has locked (R75). -/
def candidate (b : Bank) (cap : Nat) (readyIdx : List Nat) : Option Nat :=
  match b.queue.findIdx? (fun r => cap ≤ r.bypass) with
  | some i => if readyIdx.contains i then some i else none
  | none => (List.range b.queue.length).find? (fun i =>
      readyIdx.contains i && (match b.queue[i]? with
        | some r => (b.queue.take i).all (fun o => !(o.src = r.src && reqOverlaps o r))
        | none => false))

/-- A request performed by its data command, or handed to the row decoder (R109: the bank column is held). -/
def dataCommand (s : State) (st ch b i : Nat) (r : Req) : State :=
  if inHole s r.pa then finishReq s st ch b i r (fun s => performHole s r)
  else if needsDecode s r then s.updBank st ch b (fun k => { k with corr := some r })
  else finishReq s st ch b i r (fun s => performRow s r)

/-- One command of the channel scheduler (R74): `ready` lists the bank and queue place of the requests whose next
command meets the timing rules; `media` are the media errors that have appeared. A data command performs its request
whole. Nothing is issued while a burst runs, and the rotating pick skips a bank column that a decode holds. -/
def issueCommand (s : State) (st ch : Nat) (ready : List (Nat × Nat)) (media : List Flip) : State :=
  let s := s.addFlips media
  let c := s.chan st ch
  let cap := zero256 (getF s (pgDctl s.member st ch) F.DCTL_PAGECFG_AGE_CAP)
  if bursting s st ch then s
  else
    let pick := ((List.range 16).map (fun i => (c.rot + 1 + i) % 16)).findSome? (fun b =>
      let k := c.bank b
      if k.corr.isSome then none
      else (candidate k cap ((ready.filter (fun p => p.1 = b)).map (·.2))).map (fun i => (b, i)))
    match pick with
    | none => s
    | some (b, i) =>
      let s := s.updChan st ch (fun c => { c with rot := b })
      match (c.bank b).queue[i]? with
      | none => s
      | some r =>
        match (c.bank b).openRow with
        | none => charge (s.updBank st ch b (fun k => { k with openRow := some (paRow r.pa) })) (pgDctl s.member st ch) 7 1
        | some row =>
          if row = paRow r.pa then dataCommand s st ch b i r
          else s.updBank st ch b (fun k => { k with openRow := none })

/-- The row decode of a bank column ends (R109 steps 2 to 5) and the request it was held for is served. A row that holds no failing
sector any more needs none. -/
def decodeDone (s : State) (st ch b : Nat) : State :=
  match ((s.chan st ch).bank b).corr with
  | none => s
  | some r =>
    let s := s.updBank st ch b (fun k => { k with corr := none })
    let s := if failMask s (rowAt r.pa) = 0 then s else (decodeRow s (rowAt r.pa) 1 0 r.src).2
    match ((s.chan st ch).bank b).queue.findIdx? (· = r) with
    | none => performRow s r
    | some i => finishReq s st ch b i r (fun s => performRow s r)

/-! ## Rows and refresh -/

/-- Every open row of a channel closed (R77). -/
def prechargeAll (s : State) (st ch : Nat) : State :=
  forEach s (List.range 16) (fun s b => s.updBank st ch b (fun k => { k with openRow := none }))

/-- A training window granted after the burst's last refresh (R88, R150). -/
def grantWindow (s : State) (st ch : Nat) : State :=
  let d := pgDctl s.member st ch
  let s := setB (setB s d F.DCTL_TRAINWIN_PENDING false) d F.DCTL_REFSTAT_WINDOW true
  let s := bumpF s d F.DCTL_TRAINWIN_GRANTED
  s.updChan st ch (fun c => { c with windowHold := true })

/-- The base die's disagreement counts of a channel's wires reach the C-die with a refresh (R145). -/
def baseCounts (s : State) (st ch : Nat) : State :=
  let land (w : Wire) : Wire :=
    { w with wrBelow := w.wrBelow + w.baseBelow, wrAbove := w.wrAbove + w.baseAbove, baseBelow := 0, baseAbove := 0 }
  s.updStack st (fun k => { k with wires := k.wires.map (fun p => if p.1 / 64 = ch then (p.1, land p.2) else p) })

/-- A burst's refreshes (R86): rows closed, every owed refresh issued, counters, and a window that may be carried. -/
def refreshAll (s : State) (st ch : Nat) : State :=
  let d := pgDctl s.member st ch
  let n := owed s st ch + b2n (s.chan st ch).dueNow
  let carry := (s.chan st ch).carry
  let s := baseCounts (prechargeAll s st ch) st ch
  let s := setF s d F.DCTL_REFSTAT_OWED 0
  let s := bumpF s d F.DCTL_REFCOUNT_REFRESHES n
  let s := if 2 ≤ n then bumpF s d F.DCTL_REFCOUNT_BURSTS else s
  let s := charge s d 10 n
  let s := s.updChan st ch (fun c => { c with refreshed := true, dueNow := false, carry := false })
  if carry && windowReady s st ch then grantWindow s st ch else s

/-- A burst ends and the channel accepts activates again (R89); not while its window runs. -/
def endBurst (s : State) (st ch : Nat) : State :=
  let d := pgDctl s.member st ch
  if bursting s st ch && (s.chan st ch).refreshed && getF s d F.DCTL_REFSTAT_WINDOW = 0 then
    srFlush (burstRules (setB s d F.DCTL_REFSTAT_BURSTING false) st ch) st
  else s

end Sys2Proof.Machine
end

