-- ==== Sys2Proof/Machine/Window.lean ====
section
/-! DEFINITION. Sorrel channels seen by their owner: command windows (R164 to R170), launches and result slots, the
breather condition (R172, R173), and the arrival of requests and command accesses at a channel (R163, R174). -/
namespace Sys2Proof.Machine

/-- The page that holds the registers which the 32 SRL pages of a stack share (R181). -/
def stackSrl (s : State) (st : Nat) : Nat := pgSrl s.member st 0

/-- SRL_SWATH_MAX of a stack in ns (R172). -/
def swathMax (s : State) (st : Nat) : Nat := getF s (stackSrl s st) F.SRL_SWATH_MAX_NS

/-- SRL_COL_GAP in force (R179). -/
def colGap (s : State) (st : Nat) : Nat :=
  max (max 1 (getF s (stackSrl s st) F.SRL_COL_GAP_SET)) (getF s (stackSrl s st) F.SRL_COL_GAP_LEDGER_FLOOR)

/-- SRL_ACT_MAX in force (R178). -/
def actMax (s : State) (st : Nat) : Nat :=
  let set := getF s (stackSrl s st) F.SRL_ACT_MAX_SET
  let d := classAct (getF s pgLedg F.LEDG_CLASS_CLASS)
  min (min d (if set = 0 then d else set)) (getF s (stackSrl s st) F.SRL_ACT_MAX_LEDGER_CAP)

/-- Whether a channel's stack refreshes at the hot rate (R91). -/
def stackHot (s : State) (st : Nat) : Bool := getF s (pgStk s.member st) F.STK_TEMP_HOT = 1

/-- N of R172: refreshes that can fall due within a swath. -/
def swathN (s : State) (st : Nat) (cool : Bool) : Nat :=
  let t := if cool && !stackHot s st then 3900 else 1950
  (swathMax s st + t - 1) / t

/-- The units of a channel. -/
def chUnits (st ch : Nat) : List Nat := (List.range 16).map (unitOf st ch)

/-- A swath of the unit runs (R173). -/
def unitRuns (u : Unit) : Bool := match u.run with | some r => !r.paused | none => false

/-- A swath of the unit is paused. -/
def unitPaused (u : Unit) : Bool := match u.run with | some r => r.paused | none => false

/-- The unit has a row open (R99, R120, R171): its swath runs and is not between two rows. -/
def unitRowOpen (u : Unit) : Bool :=
  match u.run with
  | some r => !r.paused && !(r.chunk = r.sw.colFirst && r.pos = 0)
  | none => false

/-- A preemption has paused a swath of the channel and its breather has not run (R173). -/
def pauseWaits (s : State) (st ch : Nat) : Bool :=
  (chUnits st ch).any (fun i => match (s.unit i).run with | some r => r.paused && !r.ready | none => false)

/-- The SRL page's FREEZE bit (R185). -/
def srlFrozen (s : State) (st ch : Nat) : Bool := getF s (pgSrl s.member st ch) F.HDR_CTRL_FREEZE = 1

/-- The parts of the breather condition that do not ask which swath is next (R173). -/
def breatherNow (s : State) (st ch : Nat) : Bool :=
  !(s.chan st ch).parked.isEmpty || decide (4 ≤ owed s st ch) || windowReady s st ch || pauseWaits s st ch

/-- The breather condition of a channel for a swath due to start, `cool` its COOL (R172, R173). -/
def breatherCond (s : State) (st ch : Nat) (cool : Bool) : Bool :=
  breatherNow s st ch || decide (7 < owed s st ch + swathN s st cool)

/-- The COOL of the swath a unit would start or resume, if it has one to start (R176: 0 after a TEMP preemption). -/
def nextCool (u : Unit) : Option Bool :=
  match u.run with
  | some r => if r.paused then some r.cool else none
  | none => u.queue.head?.map (·.cool)

/-- The breather condition of a channel as it stands, with the swaths due to start (R173). -/
def breatherDue (s : State) (st ch : Nat) : Bool :=
  breatherNow s st ch
    || (chUnits st ch).any (fun i => match nextCool (s.unit i) with | some c => breatherCond s st ch c | none => false)

/-! ## Program words and row cost (R190 to R196) -/

/-- Opcode of a program word. -/
def wOp (w : Nat) : Nat := bits w 26 6
/-- Field of a program word. -/
def wF (w : BitVec 32) : SrlF where
  cls := w.extractLsb' 24 2
  cnd := w.extractLsb' 22 2
  d := w.extractLsb' 18 4
  a := w.extractLsb' 14 4
  b := w.extractLsb' 10 4
  c := w.extractLsb' 6 4
  m := w.extractLsb' 0 6

/-- The class of a row (R190): 0 A, 1 B, 2 S. -/
def rowClass (s3 : W64) (row : Nat) : Nat :=
  if bitOf s3 45 && row = fld s3 29 16 then 2
  else
    let per := fld s3 3 5
    if per = 0 then 0
    else if ((row + 65536 - fld s3 13 16) % 65536) % per < fld s3 8 5 then 0 else 1

/-- Whether a word's class selector includes a class (R190). -/
def inClass (sel cls : Nat) : Bool :=
  match sel with
  | 0 => true
  | 1 => cls = 0
  | 2 => cls = 1 || cls = 2
  | _ => cls = 2

/-- Arithmetic element types of ADD, SUB, MUL, MIN, MAX, CMP, SEL and RED (R188). -/
def arithType (t : Nat) : Bool := t = 0 || t = 1 || t = 2 || t = 5

/-- Whether an instruction word is legal in form (R196). -/
def legalForm (op : Nat) (f : SrlF) : Bool :=
  let t := f.m.toNat % 8
  let m43 := f.m.toNat / 8 % 4
  match op with
  | 0x00 => true | 0x01 => true | 0x02 => true
  | 0x03 => f.m.toNat % 4 ≠ 3
  | 0x04 => true | 0x05 => true | 0x06 => true | 0x07 => true
  | 0x08 => arithType t | 0x09 => arithType t | 0x0A => arithType t
  | 0x0B => t < 3
  | 0x0C => arithType t | 0x0D => arithType t
  | 0x0E => arithType t && f.m.toNat / 8 ≠ 7
  | 0x0F => arithType t
  | 0x10 => true
  | 0x11 => t ≠ 7 && f.b.toNat % 8 ≠ 7 && m43 ≠ 3
  | 0x12 => arithType t && m43 ≠ 3
  | 0x13 => true | 0x14 => true
  | 0x18 => true | 0x19 => true
  | 0x1A => t < 3
  | 0x20 => f.d.toNat ≤ 12 | 0x21 => f.d.toNat ≤ 12
  | 0x22 => t < 5
  | 0x23 => f.a.toNat ≤ 12
  | 0x24 => true
  | _ => false

/-- Store-kind opcodes (R201). -/
def storeKind (op : Nat) : Bool := op = 0x02 || op = 0x03 || op = 0x20 || op = 0x21 || op = 0x22 || op = 0x24

/-- Issue cycles of a word at column gap g (R195, R196). -/
def issueCycles (op : Nat) (f : SrlF) (whole s4 : Bool) (g : Nat) : Nat :=
  if !legalForm op f then 1
  else match op with
    | 0x01 => 2 * g
    | 0x02 => if s4 then 4 * g else if whole then 2 * g else 3 * g
    | 0x03 => if s4 then 4 * g else if whole then 2 * g else 3 * g
    | 0x10 => 2
    | 0x12 => 2
    | 0x20 => 3 * g
    | 0x21 => 3 * g
    | 0x22 => 3 * g
    | 0x24 => 3 * g
    | _ => 1

/-- The words of a class body, with their places in the buffer (R190). -/
def bodyWords (u : Unit) (sw : Swath) (cls : Nat) : List (Nat × Word) :=
  ((List.range sw.progLen).map (fun i => (sw.progStart + i, tget 0 u.prog (sw.progStart + i)))).filter
    (fun p => inClass (wF p.2).cls.toNat cls)

/-- The place of the word that makes a visit whole (R201), if one does. -/
def wholeWord (u : Unit) (sw : Swath) (cls : Nat) : Option Nat :=
  if sw.colFirst = 0 && sw.colCount = 64 then
    ((bodyWords u sw cls).find? (fun p =>
      let op := wOp p.2.toNat
      let f := wF p.2
      op = 0x03 || (op = 0x02 && f.m.toNat = 0 && f.cnd.toNat = 0))).map (·.1)
  else none

/-- Row cost of a class at a column gap (R192). -/
def rowCost (s : State) (st : Nat) (u : Unit) (sw : Swath) (cls g : Nat) : Nat :=
  let whole := (wholeWord u sw cls).isSome
  sw.colCount * ((bodyWords u sw cls).map (fun p => issueCycles (wOp p.2.toNat) (wF p.2) whole (strength s st = 2) g)).sum

/-- Whether every class's row cost is within 448 sc (R192). -/
def costFits (s : State) (st : Nat) (u : Unit) (sw : Swath) (g : Nat) : Bool :=
  (List.range 3).all (fun c => rowCost s st u sw c g ≤ 448)

/-! ## Result slots and launches (R166, R167, R169) -/

/-- A result slot. -/
def Unit.slot (u : Unit) (k : Nat) : Slot := tget {} u.slots k

/-- A unit with a result slot changed. -/
def Unit.setSlot (u : Unit) (k : Nat) (x : Slot) : Unit := { u with slots := tset {} u.slots k x }

/-- The swath command that words 0 and 1 hold (R166). -/
def swathOf (w0 w1 : W64) : Swath where
  rowFirst := fld w0 0 16
  rowCount := fld w0 16 16
  rowStep := if fld w0 32 16 = 0 then 1 else fld w0 32 16
  colFirst := fld w1 0 6
  colCount := fld w1 6 7
  progStart := fld w1 14 6
  progLen := fld w1 20 7
  slot := fld w1 27 3
  cool := bitOf w1 30
  tag := fld w1 32 32
  acc := none

/-- The row a swath visits as its k-th. -/
def swathRow (sw : Swath) (k : Nat) : Nat := (sw.rowFirst + k * sw.rowStep) % 65536

/-- A command posts CANCELLED (4) or FAULTED (5), with its first row not committed (R161, R167, R183). -/
def postStopped (s : State) (i : Nat) (sw : Swath) (preempts rowIdx code : Nat) : State :=
  let g := pgSrl s.member (unitStack i) (unitCh i)
  let s := s.updUnit i (fun u => u.setSlot sw.slot
    { data := ⟨BitVec.ofNat 256 (swathRow sw rowIdx), false⟩, state := code, preempts := min preempts 255, code := 0, tag := sw.tag })
  let s := bumpF s g F.SRL_SWATHS_CANCELLED
  if code = 4 then event s g 6 else s

/-- The refusal code of a launch, 0 if it passes (R169). -/
def launchCode (s : State) (st : Nat) (u : Unit) (sw : Swath) : Nat :=
  if sw.rowCount = 0 || holeRow (strength s st) ≤ sw.rowFirst + (sw.rowCount - 1) * sw.rowStep then 0x0840
  else if sw.colCount = 0 || 64 < sw.colFirst + sw.colCount then 0x0841
  else if sw.progLen = 0 || 64 < sw.progStart + sw.progLen then 0x0842
  else if !costFits s st u sw 1 then 0x0843
  else 0

/-- A launch performed (R161, R166, R169). -/
def launch (s : State) (i : Nat) : State :=
  let st := unitStack i
  let ch := unitCh i
  let u := s.unit i
  let sw := swathOf u.cmd0 u.cmd1
  if chState s st ch = 4 then postStopped s i sw 0 0 4
  else
    let c := launchCode s st u sw
    if c ≠ 0 then
      let s := s.updUnit i (fun u => u.setSlot sw.slot { state := 3, code := c, tag := sw.tag })
      event (refusal s (pgSrl s.member st ch)) (pgSrl s.member st ch) 1
    else s.updUnit i (fun u => { u.setSlot sw.slot { state := 1, tag := sw.tag } with queue := u.queue ++ [sw] })

/-! ## The 2 KiB command space of a unit: 64 B slots 0 to 31 (R164) -/

/-- The bytes of a chunk. -/
def chunkBytes (c : Chunk) : List Byte := leBytes 32 c.data.toNat

/-- A chunk of bytes. -/
def chunkOf (l : List Byte) (p : Bool) : Chunk := ⟨BitVec.ofNat 256 (leNat l), p⟩

/-- Unit status word (R168). -/
def unitStatus (u : Unit) : Nat :=
  let q := b2n (match u.run with
    | some _ => u.queue.any (·.acc.isNone)
    | none => decide (1 < (u.queue.filter (·.acc.isNone)).length)) * 4
  match u.run with
  | none => q
  | some r => (if u.corr.isSome then 3 else if r.paused then 2 else 1) + q + swathRow r.sw r.rowIdx * 2 ^ 16 + 2 ^ 32 * r.sw.tag

/-- Status word of a result slot (R167). -/
def slotStatus (x : Slot) : Nat :=
  x.state + b2n x.data.poison * 8 + x.preempts * 2 ^ 8 + 2 ^ 16 * x.code + 2 ^ 32 * x.tag

/-- A 64 B slot read: bytes and the marks of its two chunks (R164, R167, R168). -/
def readSlot (u : Unit) (k : Nat) : List Byte × List Bool :=
  if k < 4 then ((tgetAll 0 u.prog (16 * k) 16).flatMap (fun w => leBytes 4 w.toNat), [false, false])
  else if k = 4 then (leBytes 8 u.cmd0.toNat ++ leBytes 8 u.cmd1.toNat ++ List.replicate 48 0, [false, false])
  else if k = 5 then (leBytes 64 (unitStatus u), [false, false])
  else if k = 6 then ((tgetAll 0 u.s 0 4).flatMap (fun w => leBytes 8 w.toNat) ++ List.replicate 32 0, [false, false])
  else if 8 ≤ k && k < 16 then
    let v := tgetAll {} u.v (2 * (k - 8)) 2
    (v.flatMap chunkBytes, v.map (·.poison))
  else if 16 ≤ k && k < 24 then
    let x := u.slot (k - 16)
    (chunkBytes x.data ++ leBytes 32 (slotStatus x), [x.data.poison, false])
  else (List.replicate 64 0, [false, false])

/-- Old bytes with the enabled new ones. -/
def mergeBytes (old : List Byte) (new : List (Option Byte)) : List Byte := (old.zip new).map (fun (o, n) => n.getD o)

/-- An operand register written (R164). -/
def writeOperand (c : Chunk) (new : List (Option Byte)) (p : Bool) : Chunk :=
  if new.all Option.isNone then c
  else chunkOf (mergeBytes (chunkBytes c) new) (if new.all Option.isSome then p else c.poison || p)

/-- A 64 B slot written (R164, R166). -/
def writeSlot (s : State) (i k : Nat) (new : List (Option Byte)) (pz : List Bool) : State :=
  let g := pgSrl s.member (unitStack i) (unitCh i)
  let u := s.unit i
  let m := mergeBytes (readSlot u k).1 new
  if k < 4 then s.updUnit i (fun u => { u with prog := tsetAll 0 u.prog (16 * k) (leWords32 m) })
  else if k = 4 then
    let w := leWords m
    let s := s.updUnit i (fun u => { u with cmd0 := w.getD 0 0, cmd1 := w.getD 1 0 })
    match new.getD 56 none with
    | some b => if b.getLsbD 0 then launch s i else s
    | none => s
  else if k = 6 then s.updUnit i (fun u => { u with s := tsetAll 0 u.s 0 ((leWords m).take 4) })
  else if 8 ≤ k && k < 16 then
    let a := 2 * (k - 8)
    let put (v : Tbl Chunk) (r : Nat) (d : List (Option Byte)) (p : Bool) : Tbl Chunk := tupd {} v r (writeOperand · d p)
    s.updUnit i (fun u => { u with v := put (put u.v a (new.take 32) (pz.getD 0 false)) (a + 1) (new.drop 32) (pz.getD 1 false) })
  else recordErr s g 0x0812 0

/-- The summary that a broadcast read returns (R165). -/
def slotSummary (s : State) (st ch k : Nat) : List Byte :=
  let m (q : Nat → Bool) : Nat := ((List.range 16).map (fun b => if q ((s.unit (unitOf st ch b)).slot k).state then 2 ^ b else 0)).sum
  leBytes 64 (m (· = 2) + m (· = 1) * 2 ^ 16 + m (fun x => 3 ≤ x && x ≤ 5) * 2 ^ 32)

/-- The bank field of an access names a mirror of the broadcast space (R165): PA[14:13] not reserved, PA[12:11] 0. -/
def mirrorOk (bank : Nat) : Bool := bank / 4 ≠ 3 && bank % 4 = 0

/-- A 64 B slot of the row as a read of it returns it: the unit's, or the summary of the broadcast space (R164, R165). -/
def slotRead (s : State) (st ch bank k : Nat) : List Byte × List Bool :=
  if k < 24 then readSlot (s.unit (unitOf st ch bank)) k
  else (if mirrorOk bank then slotSummary s st ch (k % 8) else List.replicate 64 0, [false, false])

/-! ## Performing and answering command accesses -/

/-- A command access answered: data of a read, or the completion of a write. -/
def replyCmd (s : State) (a : Access) (data : List Byte) (pz : List Bool) : State :=
  match a.src / 4096 with
  | 1 => s.updTile (a.src % 4096) (fun t => { t with srlBack := t.srlBack ++ [(a.tag, data, pz)] })
  | 2 => if a.write then cxlWriteDone s a.tag else cxlReadDone s a.tag data (pz.any id)
  | _ => if a.write then s.emit (.writeDone a.src a.tag) else uzoidLoad (s.emit (.cmdData a.src data pz)) a.src pz

/-- The 64 B slots an access touches. -/
def accessSlots (a : Access) : List Nat :=
  if a.len = 0 then [] else (List.range ((a.off + a.len - 1) / 64 - a.off / 64 + 1)).map (a.off / 64 + ·)

/-- The bytes of a run that fall in a 64 B slot, `none` elsewhere. -/
def slotPart (a : Access) (k : Nat) : List (Option Byte) :=
  (List.range 64).map (fun j => if a.off ≤ k * 64 + j then a.data.getD (k * 64 + j - a.off) none else none)

/-- An access to a unit, or a broadcast read, performed (R164, R165). Answers the data and chunk marks of a read. -/
def performAccess (s : State) (st ch : Nat) (a : Access) : State × List Byte × List Bool :=
  if 16 ≤ a.bank then
    let d := (accessSlots a).flatMap (fun k => slotSummary s st ch (k % 8))
    (s, (d.drop (a.off % 64)).take a.len, List.replicate (2 * (accessSlots a).length) false)
  else
    let i := unitOf st ch a.bank
    if a.write then
      (forEach s (accessSlots a) (fun s k =>
        writeSlot s i k (slotPart a k) [a.poison.getD (2 * k - a.off / 32) false, a.poison.getD (2 * k + 1 - a.off / 32) false]), [], [])
    else
      let r := (accessSlots a).map (slotRead s st ch a.bank)
      let d := r.flatMap (·.1)
      (s, (d.drop (a.off % 64)).take a.len, r.flatMap (·.2))

/-- Whether the controller holds an access at its unit (R170). -/
def holdsAccess (s : State) (st ch : Nat) (a : Access) : Bool :=
  if !a.write || 16 ≤ a.bank then false
  else
    let u := s.unit (unitOf st ch a.bank)
    (accessSlots a).any (fun k =>
      if k = 4 then
        match a.data.getD (4 * 64 + 56 - a.off) none with
        | some b =>
          a.off ≤ 4 * 64 + 56 && b.getLsbD 0 &&
            (let w := leWords (mergeBytes (readSlot u 4).1 (slotPart a 4))
             let full := match u.run with
               | some _ => u.queue.any (·.acc.isNone)
               | none => decide (2 ≤ (u.queue.filter (·.acc.isNone)).length)
             (full && chState s st ch ≠ 4) || (u.slot (fld (w.getD 1 0) 27 3)).state = 1)
        | none => false
      else (k < 4 || k = 6 || (8 ≤ k && k < 16)) && u.run.isSome)

/-- The held accesses performed in order as far as R170 lets them; an access waits behind an earlier held one to its
unit. The last access of a broadcast write answers for all. -/
def serveLoop (st ch : Nat) : List Access → List Access → State → State × List Access
  | [], kept, s => (s, kept)
  | a :: l, kept, s =>
    let wide (x : Access) : Bool := 16 ≤ x.bank || 1536 < x.off + x.len
    let stuck := kept.any (fun x => x.bank = a.bank || wide x || wide a)
    if stuck || holdsAccess s st ch a then serveLoop st ch l (kept ++ [a]) s
    else
      let (s, d, p) := performAccess s st ch a
      let more := a.grp ≠ 0 && (kept ++ l).any (·.grp = a.grp)
      serveLoop st ch l kept (if more then s else replyCmd s a d p)

/-- The accesses held at a channel's units looked at again. -/
def serveHeld (s : State) (st ch : Nat) : State :=
  let (s, k) := serveLoop st ch (s.chan st ch).held [] s
  s.updChan st ch (fun c => { c with held := k })

/-- The log of an access that is dropped (R163, R164, R165, R186). -/
def dropNote (s : State) (st ch : Nat) (a : Access) (row code : Nat) : State :=
  let g := pgSrl s.member st ch
  let s := recordErr s g code (a.bank % 16 + 2 ^ 16 * a.src)
  let s := event s g (if code = 0x0810 then 3 else if code = 0x0811 then 4 else 5)
  setF (setF s g F.SRL_LASTDROP_SOURCE a.src) g F.SRL_LASTDROP_ROW row

/-- An access dropped and logged: a read returns zeros, unpoisoned. -/
def dropAccess (s : State) (st ch : Nat) (a : Access) (row code : Nat) : State :=
  let s := dropNote s st ch a row code
  if code = 0x0814 then s else replyCmd s a (List.replicate (if a.write then 0 else a.len) 0) []

/-- An access of the owner within row 0, the command window open (R164, R165). -/
def ownerAccess (s : State) (st ch : Nat) (a : Access) : State :=
  let add (s : State) (l : List Access) : State := serveHeld (s.updChan st ch (fun c => { c with held := c.held ++ l })) st ch
  let mirror := a.bank / 4
  if a.off + a.len ≤ 1536 then add s [a]
  else if a.write then
    -- the part below the broadcast space, if any, and the part in it
    let n := 1536 - a.off
    let n' := s.nextIn + 1
    let head : List Access := if n = 0 then [] else [{ a with len := n, data := a.data.take n }]
    let part : Access := { a with
      off := Nat.max a.off 1536, len := a.len - n, data := a.data.drop n, poison := a.poison.drop (if n = 0 then 0 else 48 - a.off / 32) }
    let rest (s : State) : State := if head.isEmpty then replyCmd s a [] [] else add s head
    if !mirrorOk a.bank then rest (dropNote s st ch a 0 0x0810)
    else if mirror = 2 then rest (forEach s (accessSlots part) (fun s _ => recordErr s (pgSrl s.member st ch) 0x0812 0))
    else
      add { s with nextIn := n' }
        ((head ++ (List.range 16).map (fun b => { part with bank := b, off := part.off % 512 + mirror * 512 })).map
          (fun (x : Access) => { x with grp := n' }))
  else if 1536 ≤ a.off then
    (if mirrorOk a.bank then add s [{ a with bank := 16 + mirror, off := a.off % 512 }] else dropAccess s st ch a 0 0x0810)
  else add (if mirrorOk a.bank then s else dropNote s st ch a 0 0x0810) [a]

/-! ## Arrivals (R72, R163, R164, R174) -/

/-- The command access that a request makes; its sector marks cover both chunks (R123). -/
def accessOf (r : Req) : Access where
  src := r.src
  bank := paBank r.pa
  off := paByte r.pa
  len := r.nsec * 64
  write := r.write
  data := r.data
  poison := r.poison.flatMap (fun p => [p, p])
  tag := r.tag
  grp := 0

/-- A command access that arrives at a channel, to a row (R163, R164, R174). Answers none where it is no command: it is
a memory access or is parked. What comes from an isolated requester waits (R392). The CXL port cannot reach row 0 of stack 0: nothing of such an access arrives (R41, R158). -/
def arriveAccess (s : State) (st ch row : Nat) (a : Access) : Option State :=
  let m := chState s st ch
  if intakeIsolated s st ch a.src then some (s.updChan st ch (fun c => { c with stalled := c.stalled ++ [.inr { a with grp := row }] }))
  else if st = 0 && row = 0 && a.src = 0x2000 then some s
  else if m ≠ 0 && a.src = chOwner s st ch then
    if m = 1 then some (s.updChan st ch (fun c => { c with intake := c.intake ++ [{ a with grp := row }] }))
    else if row ≠ 0 then some (dropAccess s st ch a row 0x0810)
    else some (ownerAccess s st ch a)
  else if a.src / 4096 = 1 then some (dropAccess s st ch a row 0x0811)
  else if m ≠ 0 && a.src = 0x2000 && row = 0 && (s.chan st ch).prevOwners.contains 0x2000 then
    some (dropAccess s st ch a row 0x0811)
  else none

/-- A request that reaches its channel intake (R72): split at row boundaries, then a command, a memory access, or
parked. -/
def arrive (s : State) (r : Req) : State :=
  forEach s (splitReq 64 r) (fun s r =>
    let st := paStack r.pa
    let ch := paCh r.pa
    if intakeIsolated s st ch r.src then s.updChan st ch (fun c => { c with stalled := c.stalled ++ [.inl r] })
    else match arriveAccess s st ch (paRow r.pa) (accessOf r) with
    | some s => s
    | none => memRequest s r)

end Sys2Proof.Machine
end

