-- ==== Sys2Proof/Machine/Mode.lean ====
section
/-! DEFINITION. The mode machine of a Sorrel channel (R157 to R163, R172 to R176, R183, R184): CHMODE writes, entry,
exit, breathers, swath starts and limits, and accumulate swaths. -/
namespace Sys2Proof.Machine

/-- CHMODE.STATE set. -/
def setChState (s : State) (st ch m : Nat) : State := setF s (pgDctl s.member st ch) F.DCTL_CHMODE_STATE m

/-- An owner identifier that a CHMODE write may name (R80, R99). -/
def validOwner (s : State) (o : Nat) : Bool :=
  match o / 4096 with
  | 1 => o % 4096 < s.member.tiles
  | 2 => o % 4096 = 0
  | 5 => o % 4096 = 0
  | _ => false

/-- The queued swaths of a unit cancelled, accumulate swaths apart (R161). -/
def cancelQueued (s : State) (i : Nat) : State :=
  let q := (s.unit i).queue.filter (·.acc.isNone)
  let s := s.updUnit i (fun u => { u with
    queue := u.queue.filter (·.acc.isSome), heldStart := u.heldStart && u.queue.any (·.acc.isSome) })
  forEach s q (fun s sw => postStopped s i sw 0 0 4)

/-- A paused swath of a unit cancelled (R161). -/
def cancelPaused (s : State) (i : Nat) : State :=
  match (s.unit i).run with
  | some r =>
    if r.paused then
      postStopped (s.updUnit i (fun u => { u with run := none, heldStart := false })) i r.sw r.preempts r.rowIdx 4
    else s
  | none => s

/-- The exit of a channel begins (R161): paused and queued swaths are cancelled, running ones go on. -/
def beginExit (s : State) (st ch : Nat) : State :=
  let s := setChState s st ch 4
  let s := forEach s (chUnits st ch) (fun s i => cancelQueued (cancelPaused s i) i)
  serveHeld s st ch

/-- An ENTERING channel turns to EXITING: the accesses held at its intake are dropped (R174). -/
def dropIntake (s : State) (st ch : Nat) : State :=
  let l := (s.chan st ch).intake
  let s := s.updChan st ch (fun c => { c with intake := [] })
  let s := forEach s (l.take 64) (fun s a => dropAccess s st ch { a with grp := 0 } a.grp 0x0810)
  forEach s (l.drop 64) (fun s a =>
    if a.grp = 0 then ownerAccess s st ch a else dropAccess s st ch { a with grp := 0 } a.grp 0x0810)

/-- A CHMODE write (R99, R100, R159, R162, R528). DESIGN CHOICE (log 52): a request with an invalid owner to a channel whose Sorrel
island is gated is dropped for its owner. -/
def chmode (s : State) (st ch : Nat) (v : W64) : State :=
  let d := pgDctl s.member st ch
  let m := chState s st ch
  let req := fld v 0 2
  let o := fld v 16 16
  let store (s : State) : State := setF (setF s d F.DCTL_CHMODE_REQ_MODE req) d F.DCTL_CHMODE_OWNER o
  if m = 1 || m = 4 then recordErr s d 0x0605 (d + 0x80)
  else if 2 ≤ req then recordErr s d 0x0610 0
  else if req = 1 && !validOwner s o then recordErr s d 0x0611 0
  else if req = 1 && s.disabled.contains (pgSrl s.member st ch) then recordErr s d 0x0605 (d + 0x80)
  else if req = 0 then
    let s := store s
    if m = 0 then s else beginExit s st ch
  else if m = 0 then
    setChState ((store s).updChan st ch (fun c => { c with owner := o, prevOwners := [], faultExit := false })) st ch 1
  else if o = chOwner s st ch then store s
  else
    event ((store s).updChan st ch (fun c => { c with owner := o, prevOwners := (c.owner :: c.prevOwners).filter (· ≠ o) }))
      (pgSrl s.member st ch) 2

/-- An ENTERING channel reaches PROCESSOR (R159, R160, R174, R187). -/
def reachProc (s : State) (st ch : Nat) : State :=
  if chState s st ch = 1 && queued s st ch = 0 && !bursting s st ch && stackOpen s st
      && getF s (pgDctl s.member st ch) F.DCTL_REFSTAT_WINDOW = 0 then
    let s := prechargeAll s st ch
    let s := event (setChState s st ch 2) (pgDctl s.member st ch) 0
    let s := forEach s (chUnits st ch) (fun s i => s.updUnit i (fun u => { u with fifoUp := [], fifoDn := [] }))
    let l := (s.chan st ch).intake
    let s := s.updChan st ch (fun c => { c with intake := [] })
    forEach s l (fun s a =>
      if a.grp = 0 then ownerAccess s st ch a else dropAccess s st ch { a with grp := 0 } a.grp 0x0810)
  else s

/-- A unit at rest (R168). -/
def atRest (u : Unit) : Bool := u.run.isNone && u.queue.isEmpty

/-- An EXITING channel with every unit at rest passes its parked requests to the bank queues, as those have room, and reaches MEMORY
once none is left (R159, R161, R163). -/
def reachMem (s : State) (st ch : Nat) : State :=
  let d := pgDctl s.member st ch
  if chState s st ch = 4 && !(s.chan st ch).breath && (chUnits st ch).all (fun i => atRest (s.unit i)) then
    let s := releaseParked 64 (s.updChan st ch (fun c => { c with toRelease := c.parked.length })) st ch
    if !(s.chan st ch).parked.isEmpty then s
    else
      let s := event (setChState s st ch 0) d 1
      let s := if (s.chan st ch).faultExit then setF (setF s d F.DCTL_CHMODE_REQ_MODE 0) d F.DCTL_CHMODE_OWNER 0 else s
      afterRelease (s.updChan st ch (fun c => { c with prevOwners := [], faultExit := false, owner := 0 })) st ch
  else s

/-- A breather begins (R159, R175). -/
def startBreather (s : State) (st ch : Nat) : State :=
  let g := pgSrl s.member st ch
  if chState s st ch = 2 && breatherDue s st ch && !(chUnits st ch).any (fun i => unitRuns (s.unit i)) then
    let s := bumpF (setChState s st ch 3) g F.SRL_BREATHER_COUNT
    let s := s.updChan st ch (fun c => { c with breath := true, breatherUs := s.us, toRelease := c.parked.length })
    burstRules (releaseParked 64 s st ch) st ch
  else s

/-- A breather completes (R175): its requests are performed, nothing is owed, and no burst or window runs. -/
def endBreather (s : State) (st ch : Nat) : State :=
  let g := pgSrl s.member st ch
  let c := s.chan st ch
  if c.breath && c.toRelease = 0 && queued s st ch = 0 && owed s st ch = 0 && !bursting s st ch then
    let ns := min 65535 ((s.us - c.breatherUs) * 1000)
    let s := maxF (setF s g F.SRL_BREATHER_LAST_NS ns) g F.SRL_BREATHER_LONGEST_NS ns
    let s := (prechargeAll s st ch).updChan st ch (fun c => { c with breath := false })
    let s := if chState s st ch = 3 then setChState s st ch 2 else s
    forEach s (chUnits st ch) (fun s i => s.updUnit i (fun u => { u with run := u.run.map (fun r => { r with ready := true }) }))
  else s

/-- The largest column gap no greater than the one in force that keeps every row cost of a swath within 448 sc (R180). -/
def fitGap (s : State) (st : Nat) (u : Unit) (sw : Swath) : Nat → Nat
  | 0 => 1
  | n + 1 => if costFits s st u sw (n + 1) then n + 1 else fitGap s st u sw n

/-- The destination byte of the row that an element's offset names (R210), none where it is not accumulated. -/
def accByte (map : Bool) (o : Nat) : Option Nat :=
  if !map then some o
  else if o < 512 then some (512 * (o / 128) + 384 + o % 128) else none

/-- Bytes of an element of a WR_ACC payload format, and its element type (R188, R417). -/
def afmtBytes (f : Nat) : Nat := match f with | 0 => 4 | 1 => 2 | _ => 1
/-- The element type of a payload format. -/
def afmtTy (f : Nat) : Nat := match f with | 0 => 0 | 1 => 1 | 2 => 3 | _ => 4

/-- The elements of an accumulate swath: destination byte, payload pattern, poison. -/
def accElems (map : Bool) (j : AccJob) : List (Option Nat × Nat × Bool) :=
  let n := afmtBytes j.afmt
  (List.range (j.bytes.length / n)).map (fun k =>
    (accByte map (j.dst + 4 * k), leNat ((j.bytes.drop (k * n)).take n), j.poison.getD k false))

/-- The destination chunks of an accumulate swath, in payload order (R210). -/
def accChunks (map : Bool) (j : AccJob) : List Nat := ((accElems map j).filterMap (fun e => e.1.map (· / 32))).eraseDups

/-- A swath of a unit starts or resumes, if the channel and the breather condition let it (R172, R173, R180, R189);
otherwise its start is held. Accumulate swaths start in EXITING too (R161, R184). -/
def tryStart (s : State) (i : Nat) : State :=
  let st := unitStack i
  let ch := unitCh i
  let u := s.unit i
  let m := chState s st ch
  match nextCool u with
  | none => s
  | some cool =>
    let acc := u.run.isNone && (match u.queue.head? with | some sw => sw.acc.isSome | none => false)
    if m = 4 && !acc then s
    else if !srlFrozen s st ch && ((m = 4 && !(s.chan st ch).breath) || (m = 2 && !breatherCond s st ch cool)) then
      let s := charge s (pgSrl s.member st ch) 8 1
      match u.run, u.queue with
      | some r, _ =>
        s.updUnit i (fun u => { u with heldStart := false, run := some { r with
          paused := false, ready := false, cause := 0, cool := r.cool, s3 := tget 0 u.s 3, chunk := r.sw.colFirst, pos := 0,
          gap := fitGap s st u r.sw (colGap s st), grp := [], stored := [], cleanStored := [] } })
      | none, sw :: q =>
        let r : Running := {
          sw := sw, rowIdx := 0, chunk := sw.colFirst, pos := 0, s3 := tget 0 u.s 3, gap := fitGap s st u sw (colGap s st),
          cause := 0, paused := false, ready := false, preempts := 0, cool := sw.cool, stop := false,
          grp := [], stored := [], cleanStored := [] }
        let s := s.updUnit i (fun u => { u with
          run := some r, queue := q, heldStart := false, flags := if sw.acc.isSome then u.flags else 0 })
        serveHeld s st ch
      | none, [] => s
    else if m = 2 || m = 3 || m = 4 then s.updUnit i (fun u => { u with heldStart := true })
    else s

/-- A preemption cause signalled to a running swath; it pauses at its row boundary (R176). -/
def signalCause (s : State) (i cause : Nat) : State :=
  s.updUnit i (fun u => { u with run := u.run.map (fun r => if !r.paused && r.cause = 0 then { r with cause := cause } else r) })

/-- Entry to FAULTED on a channel (R159, R174, R183, R184). -/
def faultChannel (s : State) (st ch : Nat) : State :=
  let m := chState s st ch
  if m = 0 then s
  else
    let s := s.updChan st ch (fun c => { c with faultExit := true })
    let s := forEach s (chUnits st ch) (fun s i =>
      let dead := ((s.unit i).queue.filterMap (·.acc)).map (·.packet)
      let s := { s with inPkts := s.inPkts.filter (fun q => !dead.contains q.id) }
      let s := s.updUnit i (fun u => { u with
        queue := u.queue.filter (·.acc.isNone), run := u.run.map (fun r => { r with stop := true }) })
      cancelQueued (cancelPaused s i) i)
    if m = 4 then s
    else
      let s := setChState s st ch 4
      if m = 1 then dropIntake s st ch else serveHeld s st ch

/-- One row piece of a WR_ACC arriving at its channel (R184): an accumulate swath of the addressed unit, or a refusal. -/
def accArrive (s : State) (st ch bank row : Nat) (j : AccJob) (src : Nat) : State :=
  let m := chState s st ch
  if (m = 2 || m = 3) && chOwner s st ch = 0x5000 then
    s.updUnit (unitOf st ch bank) (fun u => { u with queue := u.queue ++ [{
      rowFirst := row, rowCount := 1, rowStep := 1, colFirst := 0, colCount := 0, progStart := 0, progLen := 0, slot := 0,
      cool := false, tag := 0, acc := some j }] })
  else
    let a : Access := { src := src, bank := bank, off := 0, len := 0, write := true, data := [], poison := [], tag := 0, grp := 0 }
    inDone (dropAccess s st ch a row 0x0814) j.packet none 1

end Sys2Proof.Machine
end

