-- ==== Sys2Proof/Machine/Flags.lean ====
section
/-! DEFINITION. Element formats (R188, R228, R253), rounding (R197 to R199) and the flags that it computes (R213, R267): a value
is decoded to a sign, an integer and a power of two, and an exact result is rounded once. -/
namespace Sys2Proof.Machine

/-- A floating-point value: NaN, an infinity, or (−1)^neg × m × 2^e. -/
inductive FV where
  | nan
  | inf (neg : Bool)
  | fin (neg : Bool) (m : Nat) (e : Int)
  deriving DecidableEq, Repr

/-- A floating-point format: exponent and mantissa bits, bias, and its special values: 0 IEEE infinities and NaNs,
1 a NaN alone (E4M3), 2 none. -/
structure Fmt where
  eb : Nat
  mb : Nat
  bias : Nat
  kind : Nat
  deriving DecidableEq, Repr

def fmtF32 : Fmt := ⟨8, 23, 127, 0⟩
def fmtBF16 : Fmt := ⟨8, 7, 127, 0⟩
def fmtF16 : Fmt := ⟨5, 10, 15, 0⟩
def fmtE4M3 : Fmt := ⟨4, 3, 7, 1⟩
def fmtE5M2 : Fmt := ⟨5, 2, 15, 0⟩
def fmtE2M3 : Fmt := ⟨2, 3, 1, 2⟩
def fmtE3M2 : Fmt := ⟨3, 2, 3, 2⟩
def fmtE2M1 : Fmt := ⟨2, 1, 1, 2⟩

/-- Flag bits of a numeric result (R213, R267): 1 INVALID, 2 OVERFLOW. -/
abbrev NFlags := Nat

/-- INVALID. -/
def fInv : NFlags := 1
/-- OVERFLOW. -/
def fOvf : NFlags := 2

/-- Width of a format in bits. -/
def Fmt.width (f : Fmt) : Nat := 1 + f.eb + f.mb

/-- The value of a bit pattern. -/
def decodeF (f : Fmt) (v : Nat) : FV :=
  let s := bit v (f.eb + f.mb)
  let e := bits v f.mb f.eb
  let m := bits v 0 f.mb
  if f.kind = 0 && e = 2 ^ f.eb - 1 then (if m = 0 then .inf s else .nan)
  else if f.kind = 1 && e = 2 ^ f.eb - 1 && m = 2 ^ f.mb - 1 then .nan
  else if e = 0 then .fin s m (1 - (f.bias : Int) - f.mb)
  else .fin s (m + 2 ^ f.mb) ((e : Int) - f.bias - f.mb)

/-- The pattern of the largest finite magnitude. -/
def Fmt.maxPat (f : Fmt) : Nat :=
  match f.kind with
  | 0 => (2 ^ f.eb - 1) * 2 ^ f.mb - 1
  | 1 => 2 ^ (f.eb + f.mb) - 2
  | _ => 2 ^ (f.eb + f.mb) - 1

/-- The pattern of +∞ (formats of kind 0). -/
def Fmt.infPat (f : Fmt) : Nat := (2 ^ f.eb - 1) * 2 ^ f.mb

/-- The canonical quiet NaN (R197). -/
def Fmt.nanPat (f : Fmt) : Nat := if f.kind = 0 then f.infPat + 2 ^ (f.mb - 1) else 2 ^ (f.eb + f.mb) - 1

/-- Rounding: nearest-even, or stochastic with a draw of 16 bits (R199). -/
inductive Rnd where
  | ne
  | st (r : Nat)
  deriving DecidableEq, Repr

/-- An integer divided by 2^k and rounded. -/
def roundShift (rnd : Rnd) (m k : Nat) : Nat :=
  let n := m / 2 ^ k
  let rem := m % 2 ^ k
  match rnd with
  | .ne => if 2 ^ k < 2 * rem || (2 ^ k = 2 * rem && n % 2 = 1) then n + 1 else n
  | .st r => if r < rem * 65536 / 2 ^ k then n + 1 else n

/-- The magnitude pattern of m × 2^e rounded to a format, as if the exponent had no upper limit. -/
def roundPat (f : Fmt) (rnd : Rnd) (m : Nat) (e : Int) : Nat :=
  if m = 0 then 0 else
  let low : Int := 1 - (f.bias : Int) - f.mb
  let q : Int := max ((m.log2 : Int) + e - f.mb) low
  let n := if q ≤ e then m * 2 ^ (e - q).toNat else roundShift rnd m (q - e).toNat
  n + (q - low).toNat * 2 ^ f.mb

/-- The sign bit of a format. -/
def Fmt.signBit (f : Fmt) (neg : Bool) : Nat := if neg then 2 ^ (f.eb + f.mb) else 0

/-- A value rounded to a format (R197, R198): NaNs canonical, an overflow to infinity (NaN for E4M3) or, with `sat`, to
the largest finite value. -/
def encodeF (f : Fmt) (rnd : Rnd) (sat : Bool) (v : FV) : Nat × NFlags :=
  match v with
  | .nan => (f.nanPat, 0)
  | .inf neg =>
    if f.kind = 0 then (f.signBit neg + f.infPat, 0)
    else if sat || f.kind = 2 then (f.signBit neg + f.maxPat, fOvf) else (f.nanPat, fOvf)
  | .fin neg m e =>
    let p := roundPat f rnd m e
    if p ≤ f.maxPat then (f.signBit neg + p, 0)
    else if sat || f.kind = 2 then (f.signBit neg + f.maxPat, fOvf)
    else if f.kind = 0 then (f.signBit neg + f.infPat, fOvf)
    else (f.nanPat, fOvf)

/-- Rounded to nearest-even without saturation. -/
def roundNE (f : Fmt) (v : FV) : Nat × NFlags := encodeF f .ne false v

end Sys2Proof.Machine
end

