-- ==== Sys2Proof/Machine/Num.lean ====
section
/-! DEFINITION. Exact arithmetic on element formats (R197 to R199, R260 to R263): computed exactly and rounded once. The bounded
operations take a free value within the manual's bound. -/
namespace Sys2Proof.Machine

/-- Sign of a value. -/
def FV.isNeg : FV → Bool
  | .nan => false
  | .inf s => s
  | .fin s _ _ => s

/-- Negation. -/
def FV.negate : FV → FV
  | .nan => .nan
  | .inf s => .inf (!s)
  | .fin s m e => .fin (!s) m e

/-- The signed integer of a finite value on the scale 2^q. -/
def onScale (neg : Bool) (m : Nat) (e q : Int) : Int :=
  let n : Int := (m * 2 ^ (e - q).toNat : Nat)
  if neg then -n else n

/-- The exact sum; ∞ − ∞ is invalid (R197). -/
def fvAdd (x y : FV) : FV × NFlags :=
  match x, y with
  | .nan, _ => (.nan, 0)
  | _, .nan => (.nan, 0)
  | .inf a, .inf b => if a = b then (.inf a, 0) else (.nan, fInv)
  | .inf a, .fin _ _ _ => (.inf a, 0)
  | .fin _ _ _, .inf b => (.inf b, 0)
  | .fin a m e, .fin b n k =>
    let q := min e k
    let t := onScale a m e q + onScale b n k q
    if t = 0 then (.fin (a && b) 0 q, 0)
    else (.fin (decide (t < 0)) t.natAbs q, 0)

/-- The exact product; 0 × ∞ is invalid (R197). -/
def fvMul (x y : FV) : FV × NFlags :=
  match x, y with
  | .nan, _ => (.nan, 0)
  | _, .nan => (.nan, 0)
  | .inf a, .inf b => (.inf (a != b), 0)
  | .inf a, .fin b n _ => if n = 0 then (.nan, fInv) else (.inf (a != b), 0)
  | .fin a m _, .inf b => if m = 0 then (.nan, fInv) else (.inf (a != b), 0)
  | .fin a m e, .fin b n k => (.fin (a != b) (m * n) (e + k), 0)

/-- The exact x × y + z, nothing rounded. -/
def fvFma (x y z : FV) : FV × NFlags :=
  let (p, f) := fvMul x y
  let (r, g) := fvAdd p z
  (r, f ||| g)

/-- x < y on values that are no NaN; −0 below +0 when `zeros` holds (R197 MIN and MAX). -/
def fvLt (zeros : Bool) (x y : FV) : Bool :=
  match x, y with
  | .nan, _ => false
  | _, .nan => false
  | .inf a, .inf b => a && !b
  | .inf a, .fin _ _ _ => a
  | .fin _ _ _, .inf b => !b
  | .fin a m e, .fin b n k =>
    let q := min e k
    let s := onScale a m e q
    let t := onScale b n k q
    s < t || (zeros && m = 0 && n = 0 && a && !b)

/-- Equality of values; NaN equals nothing and zeros are equal. -/
def fvEq (x y : FV) : Bool :=
  match x, y with
  | .nan, _ => false
  | _, .nan => false
  | _, _ => !fvLt false x y && !fvLt false y x

/-! ## Element types (R188, R253) -/

/-- Format of a float type code; codes 5 and 6 are integers. -/
def fmtOf (ty : Nat) : Fmt := [fmtF32, fmtBF16, fmtF16, fmtE4M3, fmtE5M2].getD ty fmtF32

/-- Bytes of an element type. -/
def tyBytes (ty : Nat) : Nat := [4, 2, 2, 1, 1, 4, 1].getD ty 4

/-- An integer type code. -/
def isInt (ty : Nat) : Bool := ty = 5 || ty = 6

/-- Operations of two or three operands. -/
inductive AOp where
  | add | sub | mul | fma | min | max
  deriving DecidableEq, Repr

/-- An arithmetic operation on one element (R188, R197, R260): INT32 wraps; float types are computed exactly from their
operands and rounded once to the type, nearest-even. -/
def laneOp (op : AOp) (ty a b c : Nat) : Nat × NFlags :=
  if ty = 5 then
    let x := sgn 32 a
    let y := sgn 32 b
    (unsgn 32 (match op with
      | .add => x + y | .sub => x - y | .mul => x * y | .fma => x * y + sgn 32 c
      | .min => if x ≤ y then x else y | .max => if x ≤ y then y else x), 0)
  else
    let f := fmtOf ty
    let x := decodeF f a
    let y := decodeF f b
    let fin (r : FV × NFlags) : Nat × NFlags := let (p, g) := roundNE f r.1; (p, r.2 ||| g)
    match op with
    | .add => fin (fvAdd x y)
    | .sub => fin (fvAdd x y.negate)
    | .mul => fin (fvMul x y)
    | .fma => fin (fvFma x y (decodeF f c))
    | .min => if x = .nan || y = .nan then (f.nanPat, 0) else if fvLt true y x then (b, 0) else (a, 0)
    | .max => if x = .nan || y = .nan then (f.nanPat, 0) else if fvLt true x y then (b, 0) else (a, 0)

/-- A comparison (R195 CMP): 0 EQ, 1 NE, 2 LT, 3 LE, 4 GT, 5 GE, 6 UNORD. -/
def laneCmp (cond ty a b : Nat) : Bool :=
  if ty = 5 then
    let x := sgn 32 a
    let y := sgn 32 b
    match cond with
    | 0 => x = y | 1 => x ≠ y | 2 => x < y | 3 => x ≤ y | 4 => y < x | 5 => y ≤ x | _ => false
  else
    let x := decodeF (fmtOf ty) a
    let y := decodeF (fmtOf ty) b
    let un := x = .nan || y = .nan
    match cond with
    | 0 => fvEq x y | 1 => !fvEq x y | 2 => fvLt false x y | 3 => fvLt false x y || fvEq x y
    | 4 => fvLt false y x | 5 => fvLt false y x || fvEq x y | _ => un

/-- An integer as an exact value. -/
def fvInt (i : Int) : FV := .fin (decide (i < 0)) i.natAbs 0

/-- A value rounded to an integer of `w` bits, saturating; a NaN gives 0 and INVALID (R198, R263). -/
def toInt (w : Nat) (rnd : Rnd) (v : FV) : Nat × NFlags :=
  let hi : Int := 2 ^ (w - 1) - 1
  let lo : Int := -(2 ^ (w - 1))
  match v with
  | .nan => (0, fInv)
  | .inf neg => (unsgn w (if neg then lo else hi), fOvf)
  | .fin neg m e =>
    let n : Nat := if 0 ≤ e then m * 2 ^ e.toNat else roundShift rnd m (-e).toNat
    let i : Int := if neg then -(n : Int) else n
    if hi < i then (unsgn w hi, fOvf) else if i < lo then (unsgn w lo, fOvf) else (unsgn w i, 0)

/-- The exact value of an element of a type code. -/
def elemVal (ty v : Nat) : FV :=
  if ty = 5 then fvInt (sgn 32 v) else if ty = 6 then fvInt (sgn 8 v) else decodeF (fmtOf ty) v

/-- A value converted to an element type (R198, R263). -/
def toElem (ty : Nat) (rnd : Rnd) (sat : Bool) (v : FV) : Nat × NFlags :=
  if ty = 5 then toInt 32 rnd v else if ty = 6 then toInt 8 rnd v else encodeF (fmtOf ty) rnd sat v

/-! ## Stochastic rounding generator (R199) -/

/-- One step of the Galois LFSR: the output bit and the next state. -/
def lfsrStep (s : W64) : Bool × W64 :=
  let o := s.getLsbD 0
  let s := s >>> 1
  (o, if o then s ^^^ 0xD800_0000_0000_0000 else s)

/-- A number of successive outputs, the first the least significant. -/
def lfsrBits : Nat → W64 → Nat × W64
  | 0, s => (0, s)
  | n + 1, s =>
    let (o, s) := lfsrStep s
    let (r, s) := lfsrBits n s
    (b2n o + 2 * r, s)

/-- A draw of 16 bits. -/
def draw16 (s : W64) : Nat × W64 := lfsrBits 16 s

/-! ## FP32 shorthands: patterns in, pattern out -/

/-- The value of an FP32 pattern. -/
def f32 (v : Nat) : FV := decodeF fmtF32 v

/-- An exact result rounded to FP32. -/
def toF32 (r : FV × NFlags) : Nat × NFlags := let (p, g) := roundNE fmtF32 r.1; (p, r.2 ||| g)

/-- Pairs of neighbours joined. -/
def pairUp (g : Nat → Nat → Nat × NFlags) : List Nat → List Nat × NFlags
  | a :: b :: l =>
    let (x, f) := g a b
    let (r, h) := pairUp g l
    (x :: r, f ||| h)
  | l => (l, 0)

/-- The fixed pairwise tree over adjacent elements (R197 RED, R265); `n` bounds its depth. -/
def tree (g : Nat → Nat → Nat × NFlags) : Nat → List Nat → List Nat × NFlags
  | 0, l => (l, 0)
  | n + 1, l =>
    if l.length ≤ 1 then (l, 0) else
    let (l, f) := pairUp g l
    let (r, h) := tree g n l
    (r, f ||| h)

/-! ## Bounded operations -/

/-- The integer square root, by a bit at a time from 2^n down. -/
def isqrtLoop (x : Nat) : Nat → Nat → Nat
  | 0, r => r
  | n + 1, r => let t := r + 2 ^ n; isqrtLoop x n (if t * t ≤ x then t else r)

/-- The integer square root. -/
def isqrt (x : Nat) : Nat := isqrtLoop x (x.log2 / 2 + 1) 0

/-- A value taken for an operation that the manual only bounds: the free one where it is within the bound, else the
computed one. -/
def within (op x : Nat) (ok : Nat → Bool) (computed : Nat) : Nat :=
  let c := (Config.approx op (BitVec.ofNat 32 x)).toNat
  if ok c then c else computed

/-- Whether an FP32 pattern is a finite value ≥ 0 that lies within p/q × (1 ± 2^−k), widened by one part in 2^60 for the
rounding of the reference itself. `num × 2^e` is the reference. -/
def nearRef (k : Nat) (neg : Bool) (num : Nat) (e : Int) (c : Nat) : Bool :=
  match f32 c with
  | .fin s m x =>
    let q := min x e
    let v := m * 2 ^ (x - q).toNat
    let r := num * 2 ^ (e - q).toNat
    let d := if v ≤ r then r - v else v - r
    s = neg && d * 2 ^ 60 ≤ r * (2 ^ (60 - k) + 1)
  | _ => false

/-- 1/x on a scale of 2^−(90 + bits of x): numerator and exponent. -/
def recipRef (m : Nat) (e : Int) : Nat × Int := (2 ^ (m.log2 + 90) / m, -(m.log2 : Int) - 90 - e)

/-- √x: numerator and exponent, about 90 bits. -/
def sqrtRef (m : Nat) (e : Int) : Nat × Int :=
  let sh : Nat := 180 + (if (e % 2 = 0) then 0 else 1)
  (isqrt (m * 2 ^ sh), (e - sh) / 2)

/-- Approximate 1/x (R261 VRCP). -/
def approxRcp (x : Nat) : Nat × NFlags :=
  match f32 x with
  | .nan => (fmtF32.nanPat, 0)
  | .inf s => (fmtF32.signBit s, 0)
  | .fin s 0 _ => (fmtF32.signBit s + fmtF32.infPat, 0)
  | .fin s m e =>
    let (n, k) := recipRef m e
    let (p, f) := roundNE fmtF32 (.fin s n k)
    if f ≠ 0 then (p, f) else (within 0 x (nearRef 21 s n k) p, 0)

/-- Approximate 1/√x (R197 RSQ, R261 VRSQ). -/
def approxRsq (x : Nat) : Nat × NFlags :=
  match f32 x with
  | .nan => (fmtF32.nanPat, 0)
  | .inf s => if s then (fmtF32.nanPat, fInv) else (0, 0)
  | .fin s 0 _ => (fmtF32.signBit s + fmtF32.infPat, 0)
  | .fin true _ _ => (fmtF32.nanPat, fInv)
  | .fin false m e =>
    let (r, k) := sqrtRef m e
    let (n, q) := recipRef r k
    (within 1 x (nearRef 21 false n q) (roundNE fmtF32 (.fin false n q)).1, 0)

/-- 2^f for f = fr / 2^w in [0, 1), by the square roots of 2, on a scale of 2^−96. -/
def exp2Loop : Nat → Nat → Nat → Nat → Nat → Nat
  | 0, _, _, _, acc => acc
  | n + 1, w, fr, root, acc =>
    let root := isqrt (root * 2 ^ 96)
    exp2Loop n w (fr * 2 % 2 ^ w) root (if 2 ^ w ≤ fr * 2 then acc * root / 2 ^ 96 else acc)

/-- Approximate 2^x (R261 VEXP2). -/
def approxExp2 (x : Nat) : Nat × NFlags :=
  match f32 x with
  | .nan => (fmtF32.nanPat, 0)
  | .inf s => if s then (0, 0) else (fmtF32.infPat, 0)
  | .fin s m e =>
    if fvLt false (fvInt 128) (f32 x) then (fmtF32.infPat, fOvf)
    else if fvLt false (f32 x) (fvInt (-149)) then (0, 0)
    else
      let t : Int := onScale s (if -80 ≤ e then m * 2 ^ (e + 80).toNat else m / 2 ^ (-80 - e).toNat) 0 0
      let i : Int := t / (2 ^ 80 : Nat)
      let fr := (t % (2 ^ 80 : Nat)).toNat
      let n := exp2Loop 80 80 fr (2 ^ 97) (2 ^ 96)
      let (p, f) := roundNE fmtF32 (.fin false n (i - 96))
      if f ≠ 0 then (p, f) else (within 2 x (nearRef 22 false n (i - 96)) p, 0)

/-- The fraction bits of log2 y for y in [1, 2) on a scale of 2^−96, by repeated squaring. -/
def log2Loop : Nat → Nat → Nat → Nat
  | 0, _, acc => acc
  | n + 1, y, acc =>
    let z := y * y / 2 ^ 96
    if 2 ^ 97 ≤ z then log2Loop n (z / 2) (2 * acc + 1) else log2Loop n z (2 * acc)

/-- Approximate log2 x (R261 VLOG2): absolute error at most 2^−22 for inputs in [0.5, 2], relative elsewhere. -/
def approxLog2 (x : Nat) : Nat × NFlags :=
  match f32 x with
  | .nan => (fmtF32.nanPat, 0)
  | .inf s => if s then (fmtF32.nanPat, fInv) else (fmtF32.infPat, 0)
  | .fin _ 0 _ => (fmtF32.signBit true + fmtF32.infPat, 0)
  | .fin true _ _ => (fmtF32.nanPat, fInv)
  | .fin false m e =>
    let y : Nat := if m.log2 ≤ 96 then m * 2 ^ (96 - m.log2) else m / 2 ^ (m.log2 - 96)
    let r : Int := ((m.log2 : Int) + e) * (2 ^ 80 : Nat) + (log2Loop 80 y 0 : Nat)
    let v : FV := .fin (decide (r < 0)) r.natAbs (-80)
    let p := (roundNE fmtF32 v).1
    let inMid := !fvLt false (f32 x) (.fin false 1 (-1)) && !fvLt false (fvInt 2) (f32 x)
    let ok (c : Nat) : Bool :=
      if inMid then
        match f32 c with
        | .fin s k q =>
          let z : Int := onScale s (if -80 ≤ q then k * 2 ^ (q + 80).toNat else k / 2 ^ (-80 - q).toNat) 0 0
          decide ((z - r).natAbs ≤ 2 ^ 58 + 2)
        | _ => false
      else nearRef 22 (decide (r < 0)) r.natAbs (-80) c
    (within 3 x ok p, 0)

/-- 1 / (√v + e) for v and e FP32 patterns (R205): relative error at most 2^−21, special values by IEEE 754. -/
def approxRootRcp (v e : Nat) : Nat × NFlags :=
  match f32 v, f32 e with
  | .nan, _ => (fmtF32.nanPat, 0)
  | _, .nan => (fmtF32.nanPat, 0)
  | .inf true, _ => (fmtF32.nanPat, fInv)
  | .inf false, .inf true => (fmtF32.nanPat, fInv)
  | .inf false, _ => (0, 0)
  | .fin true (_ + 1) _, _ => (fmtF32.nanPat, fInv)
  | .fin _ _ _, .inf s => (fmtF32.signBit s, 0)
  | .fin sv m k, .fin se n q =>
    let root : FV := if m = 0 then .fin sv 0 0 else let (r, x) := sqrtRef m k; .fin false r x
    match (fvAdd root (.fin se n q)).1 with
    | .fin s 0 _ => (fmtF32.signBit s + fmtF32.infPat, 0)
    | .fin s d x =>
      let (num, y) := recipRef d x
      let (p, f) := roundNE fmtF32 (.fin s num y)
      if f ≠ 0 then (p, f) else (within 4 (v + e) (nearRef 21 s num y) p, 0)
    | _ => (fmtF32.nanPat, 0)

/-! ## MX blocks (R207, R245, R264) -/

/-- floor(log2) of the largest magnitude among finite FP32 patterns, none when all are zero. -/
def maxLog2 (l : List Nat) : Option Int :=
  l.foldl (fun (a : Option Int) x => match f32 x with
    | .fin _ m e => if m = 0 then a else let q := (m.log2 : Int) + e; some (match a with | none => q | some b => max q b)
    | _ => a) none

/-- The scale exponent of an MX block (R207, R264): floor(log2 amax) − emax, kept within −127 to 127. -/
def mxScale (emax : Int) (l : List Nat) : Option Int := (maxLog2 l).map (fun q => max (-127) (min 127 (q - emax)))

/-- Whether a block holds a NaN or an infinity. -/
def mxBad (l : List Nat) : Bool := l.any (fun x => match f32 x with | .fin _ _ _ => false | _ => true)

/-- A value times 2^−X. -/
def scaleDown (x : Nat) (e : Int) : FV := match f32 x with | .fin s m q => .fin s m (q - e) | v => v

end Sys2Proof.Machine
end

