-- ==== Sys2Proof/Machine/Sorrel.lean ====
section
/-! DEFINITION. The Sorrel unit's execution (R187 to R218): the word at its place, chunk conditions, row accesses with
poison and correction stops, the Windrow, the fused macros, accumulate steps and row commits. -/
namespace Sys2Proof.Machine

/-- The flag bits of R213. -/
def flIllegal : Nat := 4
/-- WR_TIMEOUT. -/
def flTimeout : Nat := 8
/-- POISON_SEEN. -/
def flPoison : Nat := 16

/-- What an instruction runs in: the unit's number and contents, and its running swath. -/
structure SCtx where
  i : Nat
  u : Unit
  r : Running
  deriving DecidableEq, Repr

/-- The row the unit runs. -/
def SCtx.row (k : SCtx) : Nat := swathRow k.r.sw k.r.rowIdx
/-- Its place. -/
def SCtx.rid (k : SCtx) : RowId := ⟨unitStack k.i, unitCh k.i, unitBank k.i, k.row⟩
/-- Its class (R190). -/
def SCtx.cls (k : SCtx) : Nat := rowClass k.r.s3 k.row
/-- G of R191. -/
def SCtx.grp (k : SCtx) : Nat := 2 ^ min (fld k.r.s3 0 3) 6
/-- GLOG as taken (R193). -/
def SCtx.glog (k : SCtx) : Nat := min (fld k.r.s3 0 3) 6

/-- Whether a word's chunk condition is true on a chunk (R191). -/
def chunkCond (k : SCtx) (cnd c : Nat) : Bool :=
  match cnd with
  | 0 => true
  | 1 => c % k.grp = k.grp - 1
  | 2 => c = k.r.sw.colFirst
  | _ => c = k.r.sw.colFirst + k.r.sw.colCount - 1

/-- The unit's running program swath. -/
def srlCtx (s : State) (i : Nat) : Option SCtx :=
  let u := s.unit i
  match u.run with
  | some r => if r.paused || u.corr.isSome || r.sw.acc.isSome then none else some ⟨i, u, r⟩
  | none => none

/-- The next word of the body on this chunk: its place in the program buffer and the word. -/
def nextWord (k : SCtx) : Option (Nat × Word) :=
  if k.r.sw.colFirst + k.r.sw.colCount ≤ k.r.chunk then none
  else (bodyWords k.u k.r.sw k.cls).find? (fun p => k.r.sw.progStart + k.r.pos ≤ p.1)

/-- The unit past the word at a place: the next word of the body, or the next chunk (R189). -/
def advance (s : State) (k : SCtx) (at_ : Nat) : State :=
  let rest := (bodyWords k.u k.r.sw k.cls).any (fun p => at_ < p.1)
  s.updUnit k.i (fun u => { u with run := u.run.map (fun r =>
    if rest then { r with pos := at_ + 1 - r.sw.progStart } else { r with pos := 0, chunk := r.chunk + 1 }) })

/-- Chunks that no word of the body runs on are passed over: an empty body runs nothing. -/
def bodyEmpty (k : SCtx) : Bool := (bodyWords k.u k.r.sw k.cls).isEmpty

/-- Flags raised. -/
def raiseFl (s : State) (i f : Nat) : State := s.updUnit i (fun u => { u with flags := u.flags ||| f })

/-- A register written. -/
def setV (s : State) (i d : Nat) (c : Chunk) : State := s.updUnit i (fun u => { u with v := tset {} u.v d c })

/-- A register read. -/
def SCtx.v (k : SCtx) (a : Nat) : Chunk := tget {} k.u.v a

/-- A change of the running swath. -/
def updRun (s : State) (i : Nat) (f : Running → Running) : State := s.updUnit i (fun u => { u with run := u.run.map f })

/-- Poison consumed (R212): it bites, and the unit goes on as if NO_BITE were 1; or it is only seen. -/
def eatPoison (s : State) (k : SCtx) (p always : Bool) : State :=
  if !p then s
  else if (!bitOf k.r.s3 47 || always) && !k.r.bitten then
    let st := unitStack k.i
    updRun (bite s (s.member.stackDie st) 0x08 (chInst s.member st (unitCh k.i)) 0x1810 k.i) k.i
      (fun r => { r with stop := true, bitten := true })
  else raiseFl s k.i flPoison

/-- Lanes of a chunk: elements of `n` bytes, in ascending order (R188). -/
def lanes (n : Nat) (c : Chunk) : List Nat := (List.range (32 / n)).map (fun k => bits c.data.toNat (8 * n * k) (8 * n))

/-- The chunk that elements of `n` bytes make. -/
def fromLanes (n : Nat) (l : List Nat) (p : Bool) : Chunk :=
  ⟨BitVec.ofNat 256 ((l.zip (List.range l.length)).map (fun (x, k) => x * 2 ^ (8 * n * k))).sum, p⟩

/-! ## Row accesses (R113, R200 to R203) -/

/-- The sector of a chunk of the row. -/
def SCtx.sec (k : SCtx) (c : Nat) : Nat := k.rid.sec + c / 2

/-- The data of a chunk as the row holds it. -/
def rowChunk (s : State) (k : SCtx) (c : Nat) : Chunk :=
  chunkOf (((secRaw s (k.sec c)).drop (c % 2 * 32)).take 32) (secClass s (k.sec c) = 1)

/-- Whether loads of chunks meet a failing sector, and the stop that follows (R113). -/
def stopFor (s : State) (k : SCtx) (cs : List Nat) : Option State :=
  match cs.find? (fun c => secClass s (k.sec c) = 2) with
  | some c => some (s.updUnit k.i (fun u => { u with corr := some (k.sec c) }))
  | none => none

/-- A chunk stored (R202, R203): a failing sector is corrected first in a partial visit (R115), and a whole visit
writes every chunk. -/
def storeChunk (s : State) (k : SCtx) (whole : Bool) (c : Nat) (d : Chunk) : State :=
  let x := k.sec c
  let s := if !whole && secClass s x = 2 then (decodeRow s k.rid 1 1 (chOwner s k.rid.st k.rid.ch)).2 else s
  -- a whole visit writes the sector's CRC anew with its chunks
  let other (b : Nat) : Bool := b < 512 && b / 256 ≠ c % 2
  let s := if whole then { s with flips := tset [] s.flips x ((tget [] s.flips x).filter other) } else bakeSector s x
  let r := (match (s.unit k.i).run with | some r => r | none => k.r)
  let partner := c + 1 - 2 * (c % 2)
  let was := s.poison.contains x
  let clean := !d.poison && (!was || r.cleanStored.contains partner)
  let s := (s.wrMem (x * 64 + c % 2 * 32) (chunkBytes d)).setPoison (x * 64) (!clean)
  -- a sector counts once, whichever of its chunks are poisoned
  let counted := [c, partner].any (fun j => r.stored.contains j && !r.cleanStored.contains j)
  let s := if d.poison && !counted then bumpF s (pgEcc s.member k.rid.st) F.ECC_COUNT2_POISON_STORED else s
  updRun s k.i (fun r => { r with stored := setPut r.stored c true, cleanStored := setPut r.cleanStored c (!d.poison) })

/-- Whether the word at a place may store in this visit: in a whole visit only the word that makes it so (R201).
Answers whether the visit is whole. -/
def storeRole (k : SCtx) (at_ : Nat) : Option Bool :=
  match wholeWord k.u k.r.sw k.cls with
  | none => some false
  | some w => if w = at_ then some true else none

/-! ## Running a word -/

/-- What an instruction does once its chunk condition holds: the state after it, or that it waits or stops. -/
abbrev SAct := State → SCtx → Nat → SrlF → Option State

/-- One instruction of the unit's body (R189 to R196): the command performs the word at the unit's place, if it is that
word. A word whose chunk condition is false does nothing; an illegal one sets ILLEGAL. `skip` is what a false condition
still does. -/
def srlRun (s : State) (i op : Nat) (f : SrlF) (act : SAct) (skip : SAct) : State :=
  match srlCtx s i with
  | none => s
  | some k =>
    match nextWord k with
    | none => s
    | some (at_, w) =>
      if wOp w.toNat ≠ op || wF w ≠ f then s
      else
        let c := k.r.chunk
        if !legalForm op f then
          (if chunkCond k f.cnd.toNat c then advance (raiseFl s i flIllegal) k at_ else advance s k at_)
        else
          match (if chunkCond k f.cnd.toNat c then act s k at_ f else skip s k at_ f) with
          | none => s
          | some t => if (t.unit i).corr.isSome then t else advance t k at_

/-- Nothing done. -/
def noAct : SAct := fun s _ _ _ => some s

/-- The NOP command also performs the words that no opcode is assigned to (R196). -/
def nopRun (s : State) (i : Nat) (f : SrlF) : State :=
  match srlCtx s i with
  | none => s
  | some k =>
    match nextWord k with
    | none => s
    | some (at_, w) =>
      let op := wOp w.toNat
      if wF w ≠ f || (legalForm op f && op ≠ 0) || (!legalForm op f && storeOrKnown op) then s
      else if op = 0 || !chunkCond k f.cnd.toNat k.r.chunk then advance s k at_
      else advance (raiseFl s i flIllegal) k at_
where
  /-- Opcodes that R195 assigns. -/
  storeOrKnown (op : Nat) : Bool := op ≤ 0x14 || (0x18 ≤ op && op ≤ 0x1A) || (0x20 ≤ op && op ≤ 0x24)

/-! ## Register instructions -/

/-- A lane operation over registers (R195, R197): its sources, its result lanes and flags. -/
def laneAct (srcs : SrlF → List Nat) (res : Nat → SrlF → List (List Nat) → List Nat × NFlags) (ty : SrlF → Nat) : SAct :=
  fun s k _ f =>
    let v := (srcs f).map k.v
    let p := v.any (·.poison)
    let n := tyBytes (ty f)
    let (l, fl) := res (ty f) f (v.map (lanes n))
    some (setV (raiseFl (eatPoison s k p false) k.i fl) k.i f.d.toNat (fromLanes n l p))

/-- Type in M[2:0]. -/
def mTy (f : SrlF) : Nat := f.m.toNat % 8

/-- Results of lanes, with the flags of all. -/
def gather (l : List (Nat × NFlags)) : List Nat × NFlags := (l.map (·.1), l.foldl (fun a x => a ||| x.2) 0)

/-- Lane lists joined by an operation of three operands; missing operands are 0. -/
def zip3 (g : Nat → Nat → Nat → Nat × NFlags) (l : List (List Nat)) : List Nat × NFlags :=
  let a := l.getD 0 []
  gather ((List.range a.length).map (fun i => g (a.getD i 0) ((l.getD 1 []).getD i 0) ((l.getD 2 []).getD i 0)))

/-- An arithmetic instruction of two sources. -/
def arith2 (op : AOp) : SAct :=
  laneAct (fun f => [f.a.toNat, f.b.toNat]) (fun ty _ l => zip3 (fun a b c => laneOp op ty a b c) l) mTy

/-- RED over lanes (R197): a fixed pairwise tree over adjacent lanes, sums of 2-byte types taken through FP32 and rounded
once. -/
def redLanes (mode ty : Nat) (l : List Nat) : List Nat × NFlags :=
  let n := l.length
  let (x, f) :=
    if mode = 0 && (ty = 1 || ty = 2) then
      let (t, f) := tree (fun a b => laneOp .add 0 a b 0) 8 (l.map (fun v => (roundNE fmtF32 (decodeF (fmtOf ty) v)).1))
      let (r, g) := roundNE (fmtOf ty) (f32 (t.getD 0 0))
      (r, f ||| g)
    else
      let op : AOp := match mode with | 0 => .add | 1 => .min | _ => .max
      let (t, f) := tree (fun a b => laneOp op ty a b 0) 8 l
      (t.getD 0 0, f)
  (x :: List.replicate (n - 1) 0, f)

/-- CVT (R198, R199). -/
def cvtAct : SAct := fun s k _ f =>
  let sty := f.b.toNat % 8
  let dty := f.m.toNat % 8
  let rnd := f.m.toNat / 8 % 4
  let sw := tyBytes sty
  let dw := tyBytes dty
  let n := 32 / max sw dw
  let part := f.c.toNat % 4 % (max sw dw / min sw dw)
  let va := k.v f.a.toNat
  let old := k.v f.d.toNat
  let src := if sw < dw then ((lanes sw va).drop (part * n)).take n else lanes sw va
  let st := (rnd = 2 || (rnd = 0 && bitOf k.r.s3 50)) && !isInt dty
  let s := eatPoison s k va.poison false
  let (res, fl, g) := src.foldl (fun (acc : List Nat × NFlags × W64) x =>
    let (d, g) := if st then draw16 acc.2.2 else (0, acc.2.2)
    let (y, e) := toElem dty (if st then .st d else .ne) (bitOf k.r.s3 46) (elemVal sty x)
    (acc.1 ++ [y], acc.2.1 ||| e, g)) ([], 0, genOf k.u k.i)
  let s := if st then s.updUnit k.i (fun u => { u with rng := g }) else s
  let out := if dw < sw then
      let l := lanes dw old
      fromLanes dw (l.take (part * n) ++ res ++ l.drop (part * n + n)) (va.poison || old.poison)
    else fromLanes dw res va.poison
  some (setV (raiseFl s k.i fl) k.i f.d.toNat out)
where
  /-- The generator's state; the reset value is unit × 2^48 + 1 (R187). -/
  genOf (u : Unit) (i : Nat) : W64 := if u.rng = 0 then BitVec.ofNat 64 (2 ^ 48 * i + 1) else u.rng

/-- LD (R195, R200, R203, R113). -/
def ldAct : SAct := fun s k _ f =>
  let t : Int := (k.r.chunk : Int) + sgn 6 f.m.toNat
  if t < 0 || 63 < t then some (setV s k.i f.d.toNat {})
  else
    match stopFor s k [t.toNat] with
    | some s => some s
    | none =>
      let s := charge s (pgSrl s.member k.rid.st k.rid.ch) 9 1
      some (setV s k.i f.d.toNat (rowChunk s k t.toNat))

/-- ST (R195, R200, R201). -/
def stAct : SAct := fun s k at_ f =>
  match storeRole k at_ with
  | none => some (raiseFl s k.i flIllegal)
  | some whole =>
    let t : Int := (k.r.chunk : Int) + sgn 6 f.m.toNat
    if t < 0 || 63 < t then some s
    else some (charge (storeChunk s k whole t.toNat (k.v f.a.toNat)) (pgSrl s.member k.rid.st k.rid.ch) 9 1)

/-- SST (R208). -/
def sstAct : SAct := fun s k at_ f =>
  match storeRole k at_ with
  | none => some (raiseFl s k.i flIllegal)
  | some whole =>
    let m := f.m.toNat % 4
    if m = 2 && k.cls = 0 then some (raiseFl s k.i flIllegal)
    else
      let scale := m = 1 || (m = 2 && k.cls = 2)
      let d : Chunk := tget {} k.u.stage (k.r.chunk + if scale then 64 else 0)
      some (charge (storeChunk s k whole k.r.chunk d) (pgSrl s.member k.rid.st k.rid.ch) 9 1)

/-! ## Windrow (R215 to R217) -/

/-- The span code of a unit (R193). -/
def wspan (u : Unit) : Nat := let w := fld (tget 0 u.s 3) 48 2; if w = 3 then 0 else w

/-- Whether the hop from position p up to the next is joined (R215). -/
def hopJoined (s : State) (st p : Nat) : Bool :=
  let q := (p + 1) % 512
  let k := p / 16
  let on (ch : Nat) : Bool := chState s st ch = 2 || chState s st ch = 3
  let covers (u : Unit) : Bool := match wspan u with | 1 => (k + 1) % 4 ≠ 0 | 2 => true | _ => false
  if p % 16 ≠ 15 then true
  else on k && on (q / 16) && covers (s.unit (st * 512 + p)) && covers (s.unit (st * 512 + q))

/-- The page of the arbiter of the hop across a channel boundary (R218). -/
def pgHop (s : State) (st p : Nat) : Nat := pgArb (s.member.stackDie st) (128 + s.member.localStack st * 32 + (p / 16 + 1) % 32)

/-- A direction, 0 UP or 1 DOWN, may not pass the hop across a channel boundary now (R218, R392): the hop's arbiter has isolated it,
or the other direction holds the grant. -/
def hopTaken (s : State) (st p dir : Nat) : Bool :=
  let g := pgHop s st p
  p % 16 = 15 && (bitOf (s.reg (g + 0x90)) dir || (getF s g F.ARB_HOLD_VALID = 1 && getF s g F.ARB_HOLD_HOLDER ≠ dir))

/-- WSEND (R216): UP (0) into the neighbour's FIFO from below, DOWN (1) into the one from above. -/
def wsendAct : SAct := fun s k _ f =>
  let st := unitStack k.i
  let p := k.i % 512
  let up := f.c.toNat % 2 = 0
  let q := if up then (p + 1) % 512 else (p + 511) % 512
  if !hopJoined s st (if up then p else q) then some s
  else
    let n := s.unit (st * 512 + q)
    if 4 ≤ (if up then n.fifoUp else n.fifoDn).length || hopTaken s st (if up then p else q) (if up then 0 else 1) then none
    else some (s.updUnit (st * 512 + q) (fun x =>
      if up then { x with fifoUp := x.fifoUp ++ [k.v f.a.toNat] } else { x with fifoDn := x.fifoDn ++ [k.v f.a.toNat] }))

/-- The next chunk of a receive (R216): none while the unit waits; an unjoined hop gives +0. -/
def receive (s : State) (k : SCtx) (up : Bool) : Option (Chunk × State) :=
  let st := unitStack k.i
  let p := k.i % 512
  if !hopJoined s st (if up then (p + 511) % 512 else p) then some ({}, s)
  else
    match (if up then k.u.fifoUp else k.u.fifoDn) with
    | [] => none
    | c :: l => some (c, s.updUnit k.i (fun x => if up then { x with fifoUp := l } else { x with fifoDn := l }))

/-- WRECV. -/
def wrecvAct : SAct := fun s k _ f =>
  (receive s k (f.c.toNat % 2 = 0)).map (fun (c, s) => setV s k.i f.d.toNat c)

/-- A received chunk added to a register. -/
def wraddWith (s : State) (k : SCtx) (f : SrlF) (c : Chunk) : State :=
  let va := k.v f.a.toNat
  let n := tyBytes (mTy f)
  let p := va.poison || c.poison
  let (l, fl) := zip3 (fun a b x => laneOp .add (mTy f) a b x) [lanes n va, lanes n c]
  setV (raiseFl (eatPoison s k p false) k.i fl) k.i f.d.toNat (fromLanes n l p)

/-- WRADD. -/
def wraddAct : SAct := fun s k _ f => (receive s k (f.c.toNat % 2 = 0)).map (fun (c, s) => wraddWith s k f c)

/-- A Windrow wait cut off at the row's limit (R217). -/
def windrowTimeout (s : State) (i : Nat) : State :=
  match srlCtx s i with
  | none => s
  | some k =>
    match nextWord k with
    | none => s
    | some (at_, w) =>
      let op := wOp w.toNat
      let f := wF w
      if !legalForm op f || !chunkCond k f.cnd.toNat k.r.chunk then s
      else
        let cut (t : State) : State := advance (raiseFl t i flTimeout) k at_
        match op with
        | 0x18 => if (wsendAct s k at_ f).isNone then cut s else s
        | 0x19 => if (wrecvAct s k at_ f).isNone then cut (setV s i f.d.toNat ⟨0, true⟩) else s
        | 0x1A => if (wraddAct s k at_ f).isNone then cut (wraddWith s k f ⟨0, true⟩) else s
        | _ => s

/-! ## Macros (R204 to R209) -/

/-- All 16 chunks of the chunk's group lie in the column range (R204). -/
def macroRange (k : SCtx) : Bool :=
  k.r.sw.colFirst ≤ k.r.chunk / 16 * 16 && k.r.chunk / 16 * 16 + 16 ≤ k.r.sw.colFirst + k.r.sw.colCount

/-- Whether a macro acts on its group: GLOG 4, condition 0, and all 16 chunks in the column range (R204). -/
def macroActs (k : SCtx) (f : SrlF) : Bool := k.glog = 4 && f.cnd.toNat = 0 && macroRange k

/-- An optimizer macro on a chunk (R204): it reads the chunk, and on the group's last one computes and writes back.
`step` gives new w, m, v and flags from w, m, v, g. -/
def macroAct (withV : Bool) (step : SCtx → SrlF → Nat → Nat → Nat → Nat → (Nat × Nat × Nat) × NFlags) : SAct := fun s k at_ f =>
  let bad : Option State := some (raiseFl s k.i flIllegal)
  if k.glog ≠ 4 || !macroRange k then bad
  else match storeRole k at_ with
  | none => bad
  | some whole =>
    let c := k.r.chunk
    match stopFor s k [c] with
    | some s => some s
    | none =>
      let s := charge s (pgSrl s.member k.rid.st k.rid.ch) 9 1
      let grp := tset {} (if c % 16 = 0 then [] else k.r.grp) (c % 16) (rowChunk s k c)
      let s := updRun s k.i (fun r => { r with grp := grp })
      if c % 16 ≠ 15 then some s
      else if !macroActs k f then some (raiseFl s k.i flIllegal)
      else
        let ch (j : Nat) : Chunk := tget {} grp j
        let used := (List.range 16).filter (fun j => withV || j / 4 ≠ 2)
        let p := used.any (fun j => (ch j).poison)
        let s := eatPoison s k p false
        let res := (List.range 4).map (fun q =>
          let w := lanes 4 (ch q); let m := lanes 4 (ch (4 + q)); let v := lanes 4 (ch (8 + q)); let g := lanes 4 (ch (12 + q))
          (List.range 8).map (fun j => step k f (w.getD j 0) (m.getD j 0) (v.getD j 0) (g.getD j 0)))
        let fl := (res.flatMap id).foldl (fun a x => a ||| x.2) 0
        let base := c - 15
        let out (sel : (Nat × Nat × Nat) → Nat) (q : Nat) : Chunk := fromLanes 4 ((res.getD q []).map (fun x => sel x.1)) p
        let s := raiseFl s k.i fl
        let s := forEach s (List.range 4) (fun s q =>
          let s := storeChunk s k whole (base + q) (out (·.1) q)
          let s := storeChunk s k whole (base + 4 + q) (out (·.2.1) q)
          let s := if withV then storeChunk s k whole (base + 8 + q) (out (·.2.2) q) else s
          let s := if f.m.getLsbD 0 then storeChunk s k whole (base + 12 + q) ⟨0, p⟩ else s
          setV s k.i (f.d.toNat + q) (out (·.1) q))
        some (charge s (pgSrl s.member k.rid.st k.rid.ch) 9 ((if withV then 12 else 8) + if f.m.getLsbD 0 then 4 else 0))

/-- A macro whose condition is false on the group's last chunk touches nothing and sets ILLEGAL (R204). -/
def macroSkip : SAct := fun s k _ _ => some (if k.r.chunk % 16 = 15 then raiseFl s k.i flIllegal else s)

/-- A half of an S register. -/
def SCtx.half (k : SCtx) (j : Nat) (hi : Bool) : Nat := fld (tget 0 k.u.s j) (if hi then 32 else 0) 32

/-- FP32 one. -/
def oneF32 : Nat := 0x3F800000

/-- FP32 shorthands with flags gathered: add, subtract, multiply, fused. -/
def fAdd (a b : Nat) : Nat × NFlags := laneOp .add 0 a b 0
/-- a − b. -/
def fSub (a b : Nat) : Nat × NFlags := laneOp .sub 0 a b 0
/-- a × b. -/
def fMul (a b : Nat) : Nat × NFlags := laneOp .mul 0 a b 0
/-- a × b + c rounded once. -/
def fFma (a b c : Nat) : Nat × NFlags := laneOp .fma 0 a b c

/-- One parameter's AdamW step (R205). -/
def adamwStep (k : SCtx) (_ : SrlF) (w m v g : Nat) : (Nat × Nat × Nat) × NFlags :=
  let a := k.half 0 false; let e := k.half 0 true; let b1 := k.half 1 false; let b2 := k.half 1 true; let wd := k.half 2 false
  let (c1, f1) := fSub oneF32 b1
  let (x1, f2) := fMul c1 g
  let (m', f3) := fFma b1 m x1
  let (c2, f4) := fSub oneF32 b2
  let (x2, f5) := fMul c2 g
  let (x3, f6) := fMul x2 g
  let (v', f7) := fFma b2 v x3
  let (d, f8) := approxRootRcp v' e
  let (y1, f9) := fMul wd w
  let (y2, f10) := fSub w y1
  let (y3, f11) := fMul a m'
  let (y4, f12) := fMul y3 d
  let (w', f13) := fSub y2 y4
  ((w', m', v'), f1 ||| f2 ||| f3 ||| f4 ||| f5 ||| f6 ||| f7 ||| f8 ||| f9 ||| f10 ||| f11 ||| f12 ||| f13)

/-- One parameter's SGD step (R206). -/
def sgdmStep (k : SCtx) (f : SrlF) (w m v g : Nat) : (Nat × Nat × Nat) × NFlags :=
  let lr := k.half 0 false; let mu := k.half 1 false; let damp := k.half 1 true; let wd := k.half 2 false
  let (c1, f1) := fSub oneF32 damp
  let (x1, f2) := fMul c1 g
  let (m', f3) := fFma mu m x1
  let (x2, f4) := fMul mu m'
  let (x3, f5) := fAdd g x2
  let sv := if f.m.getLsbD 1 then x3 else m'
  let (y1, f6) := fMul wd w
  let (y2, f7) := fSub w y1
  let (y3, f8) := fMul lr sv
  let (w', f9) := fSub y2 y3
  ((w', m', v), f1 ||| f2 ||| f3 ||| (if f.m.getLsbD 1 then f4 ||| f5 else 0) ||| f6 ||| f7 ||| f8 ||| f9)

/-- An element of a narrower or equal format widened exactly to FP32. -/
def widenF32 (ty x : Nat) : Nat := (roundNE fmtF32 (decodeF (fmtOf ty) x)).1

/-- ACCUM (R209). -/
def accumAct : SAct := fun s k at_ f =>
  match storeRole k at_ with
  | none => some (raiseFl s k.i flIllegal)
  | some whole =>
    let t : Int := (k.r.chunk : Int) + sgn 4 f.b.toNat
    if t < 0 || 63 < t then some s
    else
      let c := t.toNat
      match stopFor s k [c] with
      | some s => some s
      | none =>
        let ty := mTy f
        let n := tyBytes ty
        let va := k.v f.a.toNat
        let part := f.c.toNat % 4 % (4 / n)
        let src := ((lanes n va).drop (part * 8)).take 8
        let old := rowChunk s k c
        let p := va.poison || old.poison
        let (l, fl) := zip3 (fun a b _ => fAdd a (widenF32 ty b)) [lanes 4 old, src]
        let s := raiseFl (eatPoison s k p false) k.i fl
        some (charge (storeChunk s k whole c (fromLanes 4 l p)) (pgSrl s.member k.rid.st k.rid.ch) 9 2)

/-- SHADOW (R207). -/
def shadowAct : SAct := fun s k _ f =>
  let regs := (List.range 4).map (fun j => k.v (f.a.toNat + j))
  let xs := regs.flatMap (lanes 4)
  let p := regs.any (·.poison)
  let fmt := if f.m.getLsbD 0 then fmtE5M2 else fmtE4M3
  let st := !f.m.getLsbD 1
  let bad := mxBad xs
  let sc := mxScale (if f.m.getLsbD 0 then 15 else 8) xs
  let s := eatPoison s k p false
  let gen : W64 := if k.u.rng = 0 then BitVec.ofNat 64 (2 ^ 48 * k.i + 1) else k.u.rng
  let (els, g) := xs.foldl (fun (acc : List Nat × W64) x =>
    let (d, g) := if st then draw16 acc.2 else (0, acc.2)
    let y := match sc with
      | none => 0
      | some e => if bad then 0 else (encodeF fmt (if st then .st d else .ne) true (scaleDown x e)).1
    (acc.1 ++ [y], g)) ([], gen)
  let scale : Nat := if bad then 0xFF else match sc with | none => 0 | some e => (e + 127).toNat
  let s := if st then s.updUnit k.i (fun u => { u with rng := g }) else s
  let s := if bad then raiseFl s k.i fInv else s
  let G := k.grp
  let per := 64 / G
  let rp := fld k.r.s3 3 5
  let rel := (k.row + 65536 - fld k.r.s3 13 16) % 65536
  let ph := if rp = 0 then rel else rel % rp
  let blk := if rp = 0 then 0 else rel / rp
  let pos := ph * per + k.r.chunk / G
  let ec := pos % 64
  let sb := (blk * fld k.r.s3 8 5 * per + pos) % 2048
  some (s.updUnit k.i (fun u =>
    let t := tset {} u.stage ec (fromLanes 1 els p)
    let old : Chunk := tget {} t (64 + sb / 32)
    let l := lanes 1 old
    { u with stage := tset {} t (64 + sb / 32) (fromLanes 1 (l.take (sb % 32) ++ [scale] ++ l.drop (sb % 32 + 1)) (old.poison || p)) }))

/-! ## Accumulate steps, correction, row commit -/

/-- The next destination chunk of an accumulate swath (R210); none when all are done or no accumulate swath runs. -/
def acciNext (u : Unit) : Option (Running × AccJob × Nat) :=
  match u.run with
  | some r =>
    match r.sw.acc with
    | some j => if r.paused || u.corr.isSome then none else ((accChunks (bitOf r.s3 51) j)[r.pos]?).map (fun c => (r, j, c))
    | none => none
  | none => none

/-- One ACCI (R210): the payload elements that fall in the next destination chunk are added. -/
def acciStep (s : State) (i : Nat) : State :=
  match acciNext (s.unit i) with
  | none => s
  | some (r, j, c) =>
    let k : SCtx := ⟨i, s.unit i, r⟩
    match stopFor s k [c] with
    | some s => s
    | none =>
      let all := accElems (bitOf r.s3 51) j
      let els := all.filter (fun e => match e.1 with | some b => b / 32 = c | none => false)
      let s := if r.pos = 0 && all.any (·.1.isNone) then raiseFl s i flIllegal else s
      let old := rowChunk s k c
      let p := old.poison || els.any (·.2.2)
      let (l, fl) := els.foldl (fun (acc : List Nat × NFlags) e =>
        let q := e.1.getD 0 % 32 / 4
        let (x, f) := fAdd (acc.1.getD q 0) (widenF32 (afmtTy j.afmt) e.2.1)
        (acc.1.set q x, acc.2 ||| f)) (lanes 4 old, 0)
      let s := raiseFl (eatPoison s k p true) i fl
      let s := charge (storeChunk s k false c (fromLanes 4 l p)) (pgSrl s.member k.rid.st k.rid.ch) 9 2
      updRun s i (fun r => { r with pos := r.pos + 1 })

/-- A correction stop ends (R113): the open row is decoded, and the load runs again. -/
def correctionDone (s : State) (i : Nat) : State :=
  let u := s.unit i
  match u.corr, u.run with
  | some _, some r =>
    let k : SCtx := ⟨i, u, r⟩
    (decodeRow s k.rid 1 1 (chOwner s k.rid.st k.rid.ch)).2.updUnit i (fun u => { u with corr := none })
  | _, _ => s

/-- Whether every step of the row has run. -/
def rowDone (k : SCtx) : Bool :=
  match k.r.sw.acc with
  | some j => (accChunks (bitOf k.r.s3 51) j).length ≤ k.r.pos
  | none => k.r.sw.colFirst + k.r.sw.colCount ≤ k.r.chunk || bodyEmpty k

/-- A swath's end (R210, R214): an accumulate swath answers its packet, any other posts READY. -/
def endSwath (s : State) (k : SCtx) : State :=
  let st := k.rid.st
  let g := pgSrl s.member st k.rid.ch
  let s := s.updUnit k.i (fun u => { u with run := none })
  let s := match k.r.sw.acc with
    | some j =>
      let s := if k.r.pos = 0 && (accElems (bitOf k.r.s3 51) j).any (·.1.isNone) then raiseFl s k.i flIllegal else s
      inDone s j.packet none 0
    | none =>
      let s := s.updUnit k.i (fun u => u.setSlot k.r.sw.slot
        { data := u.post, state := 2, preempts := min k.r.preempts 255, code := 0, tag := k.r.sw.tag })
      bumpF s g F.SRL_SWATHS_POSTED
  serveHeld s st k.rid.ch

/-- A swath pauses at its row boundary (R176, R185): counted and recorded for a preemption, not for FREEZE. -/
def pauseSwath (s : State) (k : SCtx) (cause : Nat) : State :=
  let g := pgSrl s.member k.rid.st k.rid.ch
  let next := swathRow k.r.sw k.r.rowIdx
  let s := if cause = 0 then s else
    let s := event (bumpF s g F.SRL_PREEMPT_COUNT) g 0
    setF (setF (setF s g F.SRL_PREEMPT_LAST_CAUSE cause) g F.SRL_PREEMPT_LAST_BANK (unitBank k.i)) g F.SRL_PREEMPT_LAST_ROW next
  let pre := k.r.preempts + b2n (cause ≠ 0)
  if chState s k.rid.st k.rid.ch = 4 then
    serveHeld (postStopped (s.updUnit k.i (fun u => { u with run := none })) k.i k.r.sw pre k.r.rowIdx 4) k.rid.st k.rid.ch
  else s.updUnit k.i (fun u => { u with run := some { k.r with
    paused := true, ready := decide (cause = 0), cause := 0, preempts := pre, cool := k.r.cool && cause ≠ 1 } })

/-- A row committed (R171, R189, R202): its parity goes to the cache, and the swath ends, stops, pauses or goes
on; a CTRL.RESET that waited for the row boundary discards it (R57). -/
def commitRow (s : State) (i : Nat) : State :=
  match (s.unit i).run with
  | none => s
  | some r =>
    let k : SCtx := ⟨i, s.unit i, r⟩
    if r.paused || (s.unit i).corr.isSome || !rowDone k then s
    -- no free line of the parity cache: the commit waits for a write-back (R120)
    else if !r.stored.isEmpty && cacheFull s k.rid.st k.rid.ch && !cached s k.rid then s
    else
      let s := if r.stored.isEmpty then s
        else dirtyLine s k.rid (r.sw.acc.isNone && (wholeWord k.u r.sw k.cls).isSome) (chOwner s k.rid.st k.rid.ch)
      if (s.unit i).wipe then serveHeld (s.updUnit i (fun _ => {})) k.rid.st k.rid.ch
      else
      let r' := { r with rowIdx := r.rowIdx + 1, chunk := r.sw.colFirst, pos := 0, grp := [], stored := [], cleanStored := [] }
      let k' : SCtx := ⟨i, s.unit i, r'⟩
      if r.stop && r.sw.acc.isNone then
        let s := postStopped (s.updUnit i (fun u => { u with run := none })) i r.sw r.preempts r'.rowIdx 5
        serveHeld s k.rid.st k.rid.ch
      else if r.sw.rowCount ≤ r'.rowIdx then endSwath s k
      else if r.cause ≠ 0 || srlFrozen s k.rid.st k.rid.ch then pauseSwath s k' r.cause
      else charge (updRun s i (fun _ => r')) (pgSrl s.member k.rid.st k.rid.ch) 8 1

end Sys2Proof.Machine
end

