-- ==== Sys2Proof/Machine/SorrelCmds.lean ====
section
/-! DEFINITION. The commands of Sorrel channels: CHMODE, mode changes, command windows, swaths, and the instructions of
the units (R157 to R218). -/
namespace Sys2Proof.Machine

/-- The request that a command access would be as a memory access: whole sectors with byte enables (R72). -/
def reqOf (at_ : CmdAt) (a : Access) : Req :=
  let n := (a.off + a.len - 1) / 64 - a.off / 64 + 1
  let d := List.replicate (a.off % 64) none ++ a.data
  { src := at_.src, pa := paOf at_.stack 0 at_.ch a.bank + a.off / 64 * 64, nsec := n, write := a.write,
    data := if a.write then d ++ List.replicate (n * 64 - d.length) none else [],
    poison := (List.range n).map (fun i => a.poison.getD (2 * i) false || a.poison.getD (2 * i + 1) false),
    tag := a.tag, bypass := 0 }

/-- A command access of a source to row 0 of a channel; from a source that does not own the channel it is a memory
access or is parked (R163, R164, R174). -/
def cmdAccess (s : State) (at_ : CmdAt) (a : Access) : State :=
  if a.len = 0 then s else
  match arriveAccess s at_.stack at_.ch 0 a with
  | some s => s
  | none => memRequest s (reqOf at_ a)

/-- A command access that an isolation held back arrives (R392). -/
def rowAccess (s : State) (st ch : Nat) (a : Access) (row : Nat) : State :=
  match arriveAccess s st ch row a with
  | some s => s
  | none => if a.src / 4096 = 1 || a.len = 0 then s else memRequest s (reqOf ⟨a.src, st, ch, a.bank⟩ a)

/-- A write of bytes at an offset of the 2 KiB row. -/
def cmdWrite (s : State) (at_ : CmdAt) (bank off : Nat) (data : List (Option Byte)) (poison : List Bool) : State :=
  cmdAccess s at_ { src := at_.src, bank := bank, off := off, len := data.length, write := true, data := data, poison := poison,
                    tag := 0, grp := 0 }

/-- A read of a 64 B slot. -/
def cmdRead (s : State) (at_ : CmdAt) (bank slot : Nat) : State :=
  cmdAccess s at_ { src := at_.src, bank := bank, off := slot * 64, len := 64, write := false, data := [], poison := [],
                    tag := 0, grp := 0 }

/-- Whether the place of a command access exists. -/
def hasAt (s : State) (at_ : CmdAt) : Bool := hasBank s at_.stack at_.ch at_.bank

/-- CHMODE_WRITE (R159). -/
def execChmodeWrite (_w : Writer) (stack ch : Nat) (v : W64) (s : State) : Res := onPage (hasCh s stack ch) (pgDctl .zh8c stack ch + 0x80) s (chmode s stack ch v)

/-- MODE_PROC (R159). -/
def execModeProc (stack ch : Nat) (s : State) : Res := onObj (hasCh s stack ch) s (reachProc s stack ch)

/-- MODE_MEM (R161). -/
def execModeMem (stack ch : Nat) (s : State) : Res := onObj (hasCh s stack ch) s (reachMem s stack ch)

/-- PROGRAM_WRITE (R164): `off` counts from program word 0. -/
def execProgramWrite (at_ : CmdAt) (off : Nat) (data : List (Option Byte)) (s : State) : Res :=
  onObj (hasAt s at_ && off + data.length ≤ 256) s (cmdWrite s at_ at_.bank off data [])

/-- SWATH_COMMAND_WRITE (R166): `off` counts from word 0 of the swath command; words 0 and 1. -/
def execSwathCommandWrite (at_ : CmdAt) (off : Nat) (data : List (Option Byte)) (s : State) : Res :=
  onObj (hasAt s at_ && off + data.length ≤ 56) s (cmdWrite s at_ at_.bank (4 * 64 + off) data [])

/-- SWATH_LAUNCH (R169): a write of word 7. -/
def execSwathLaunch (at_ : CmdAt) (word7 : W64) (s : State) : Res :=
  onObj (hasAt s at_) s (cmdWrite s at_ at_.bank (4 * 64 + 56) ((leBytes 8 word7.toNat).map some) [])

/-- S_REGISTER_WRITE (R164): `off` counts from S0. -/
def execSRegisterWrite (at_ : CmdAt) (off : Nat) (data : List (Option Byte)) (s : State) : Res :=
  onObj (hasAt s at_ && off + data.length ≤ 64) s (cmdWrite s at_ at_.bank (6 * 64 + off) data [])

/-- OPERAND_WRITE (R164): `off` counts from V0; a mark per 32 B chunk. -/
def execOperandWrite (at_ : CmdAt) (off : Nat) (data : List (Option Byte)) (poison : List Bool) (s : State) : Res :=
  onObj (hasAt s at_ && off + data.length ≤ 512) s (cmdWrite s at_ at_.bank (512 + off) data poison)

/-- OPERAND_READ (R164). -/
def execOperandRead (at_ : CmdAt) (slot : Nat) (s : State) : Res :=
  onObj (hasAt s at_ && slot < 8) s (cmdRead s at_ at_.bank (8 + slot))

/-- RESULT_SLOT_READ (R167). -/
def execResultSlotRead (at_ : CmdAt) (slot : Nat) (s : State) : Res :=
  onObj (hasAt s at_ && slot < 8) s (cmdRead s at_ at_.bank (16 + slot))

/-- UNIT_STATUS_READ (R168). -/
def execUnitStatusRead (at_ : CmdAt) (s : State) : Res := onObj (hasAt s at_) s (cmdRead s at_ at_.bank 5)

/-- BROADCAST_WRITE (R165): PA[14:13] selects the mirror, PA[12:11] are 0. -/
def execBroadcastWrite (at_ : CmdAt) (mirror off : Nat) (data : List (Option Byte)) (poison : List Bool) (s : State) : Res :=
  onObj (hasAt s at_ && mirror < 4 && off + data.length ≤ 512) s (cmdWrite s at_ (mirror * 4) (1536 + off) data poison)

/-- BROADCAST_READ (R165). -/
def execBroadcastRead (at_ : CmdAt) (mirror slot : Nat) (s : State) : Res :=
  onObj (hasAt s at_ && mirror < 4 && slot < 8) s (cmdRead s at_ (mirror * 4) (24 + slot))

/-- SWATH_START (R172). -/
def execSwathStart (unit : Nat) (s : State) : Res := onObj (hasUnit s unit) s (tryStart s unit)

/-- SWATH_ROW_COMMIT (R171). -/
def execSwathRowCommit (unit : Nat) (s : State) : Res := onObj (hasUnit s unit) s (commitRow s unit)

/-- SWATH_LIMIT (R172): cause LIMIT. -/
def execSwathLimit (unit : Nat) (s : State) : Res := onObj (hasUnit s unit) s (signalCause s unit 2)

/-- SORREL_CORRECTION_DONE (R113). -/
def execSorrelCorrectionDone (unit : Nat) (s : State) : Res := onObj (hasUnit s unit) s (correctionDone s unit)

/-- BREATHER (R175). -/
def execBreather (stack ch : Nat) (s : State) : Res := onObj (hasCh s stack ch) s (startBreather s stack ch)

/-- BREATHER_END (R175). -/
def execBreatherEnd (stack ch : Nat) (s : State) : Res := onObj (hasCh s stack ch) s (endBreather s stack ch)

/-! ## Instructions (R195) -/

/-- NOP; words of unassigned opcodes set ILLEGAL (R196). -/
def execSrlNop (unit : Nat) (f : SrlF) (s : State) : Res := onObj (hasUnit s unit) s (nopRun s unit f)

/-- LD; `media` are the media errors that have appeared in the row. -/
def execLd (unit : Nat) (f : SrlF) (media : List Flip) (s : State) : Res :=
  onObj (hasUnit s unit) s (srlRun (s.addFlips media) unit 0x01 f ldAct noAct)

/-- ST. -/
def execSt (unit : Nat) (f : SrlF) (s : State) : Res := onObj (hasUnit s unit) s (srlRun s unit 0x02 f stAct noAct)

/-- SST. -/
def execSst (unit : Nat) (f : SrlF) (s : State) : Res := onObj (hasUnit s unit) s (srlRun s unit 0x03 f sstAct noAct)

/-- MOV: a copy carries poison (R212). -/
def execMov (unit : Nat) (f : SrlF) (s : State) : Res :=
  onObj (hasUnit s unit) s (srlRun s unit 0x04 f (fun s k _ f => some (setV s k.i f.d.toNat (k.v f.a.toNat))) noAct)

/-- SBC. -/
def execSbc (unit : Nat) (f : SrlF) (s : State) : Res :=
  onObj (hasUnit s unit) s (srlRun s unit 0x05 f (fun s k _ f =>
    some (setV s k.i f.d.toNat (fromLanes 4 (List.replicate 8 (k.half (f.a.toNat % 4) (f.m.getLsbD 0))) false))) noAct)

/-- SINS: other bytes, and the mark, unchanged. -/
def execSins (unit : Nat) (f : SrlF) (s : State) : Res :=
  onObj (hasUnit s unit) s (srlRun s unit 0x06 f (fun s k _ f =>
    let old := k.v f.d.toNat
    some (setV s k.i f.d.toNat
      (fromLanes 8 ((lanes 8 old).set (f.m.toNat % 4) (tget 0 k.u.s (f.a.toNat % 4)).toNat) old.poison))) noAct)

/-- RDFL. -/
def execRdfl (unit : Nat) (f : SrlF) (s : State) : Res :=
  onObj (hasUnit s unit) s (srlRun s unit 0x07 f (fun s k _ f =>
    some (setV s k.i f.d.toNat (fromLanes 4 (k.u.flags :: List.replicate 7 0) false))) noAct)

/-- ADD. -/
def execAdd (unit : Nat) (f : SrlF) (s : State) : Res := onObj (hasUnit s unit) s (srlRun s unit 0x08 f (arith2 .add) noAct)

/-- SUB. -/
def execSub (unit : Nat) (f : SrlF) (s : State) : Res := onObj (hasUnit s unit) s (srlRun s unit 0x09 f (arith2 .sub) noAct)

/-- MUL. -/
def execMul (unit : Nat) (f : SrlF) (s : State) : Res := onObj (hasUnit s unit) s (srlRun s unit 0x0A f (arith2 .mul) noAct)

/-- FMA: rounded once. -/
def execFma (unit : Nat) (f : SrlF) (s : State) : Res :=
  onObj (hasUnit s unit) s (srlRun s unit 0x0B f
    (laneAct (fun f => [f.a.toNat, f.b.toNat, f.c.toNat]) (fun ty _ l => zip3 (fun a b c => laneOp .fma ty a b c) l) mTy) noAct)

/-- MIN. -/
def execMin (unit : Nat) (f : SrlF) (s : State) : Res := onObj (hasUnit s unit) s (srlRun s unit 0x0C f (arith2 .min) noAct)

/-- MAX. -/
def execMax (unit : Nat) (f : SrlF) (s : State) : Res := onObj (hasUnit s unit) s (srlRun s unit 0x0D f (arith2 .max) noAct)

/-- CMP: all ones where the condition holds. -/
def execCmp (unit : Nat) (f : SrlF) (s : State) : Res :=
  onObj (hasUnit s unit) s (srlRun s unit 0x0E f
    (laneAct (fun f => [f.a.toNat, f.b.toNat]) (fun ty f l =>
      zip3 (fun a b _ => (if laneCmp (f.m.toNat / 8) ty a b then 2 ^ (8 * tyBytes ty) - 1 else 0, 0)) l) mTy) noAct)

/-- SEL: the lane of Vc decides. -/
def execSel (unit : Nat) (f : SrlF) (s : State) : Res :=
  onObj (hasUnit s unit) s (srlRun s unit 0x0F f
    (laneAct (fun f => [f.a.toNat, f.b.toNat, f.c.toNat]) (fun _ _ l => zip3 (fun a b c => (if c ≠ 0 then a else b, 0)) l) mTy) noAct)

/-- RSQ on FP32 lanes. -/
def execRsq (unit : Nat) (f : SrlF) (s : State) : Res :=
  onObj (hasUnit s unit) s (srlRun s unit 0x10 f
    (laneAct (fun f => [f.a.toNat]) (fun _ _ l => zip3 (fun a _ _ => approxRsq a) l) (fun _ => 0)) noAct)

/-- CVT (R198). -/
def execCvt (unit : Nat) (f : SrlF) (s : State) : Res := onObj (hasUnit s unit) s (srlRun s unit 0x11 f cvtAct noAct)

/-- RED: lane 0 takes the result, the others 0. -/
def execRed (unit : Nat) (f : SrlF) (s : State) : Res :=
  onObj (hasUnit s unit) s (srlRun s unit 0x12 f
    (laneAct (fun f => [f.a.toNat]) (fun ty f l => redLanes (f.m.toNat / 8 % 4) ty (l.getD 0 [])) mTy) noAct)

/-- POST. -/
def execPost (unit : Nat) (f : SrlF) (s : State) : Res :=
  onObj (hasUnit s unit) s (srlRun s unit 0x13 f (fun s k _ f =>
    some (s.updUnit k.i (fun u => { u with post := k.v f.a.toNat }))) noAct)

/-- SEED: a zero result is taken as 1. -/
def execSeed (unit : Nat) (f : SrlF) (s : State) : Res :=
  onObj (hasUnit s unit) s (srlRun s unit 0x14 f (fun s k _ f =>
    let g := tget 0 k.u.s (f.a.toNat % 4) ^^^ BitVec.ofNat 64 (2 ^ 48 * k.i)
    some (s.updUnit k.i (fun u => { u with rng := if g = 0 then 1 else g }))) noAct)

/-- WSEND (R216). -/
def execWsend (unit : Nat) (f : SrlF) (s : State) : Res := onObj (hasUnit s unit) s (srlRun s unit 0x18 f wsendAct noAct)

/-- WRECV (R216). -/
def execWrecv (unit : Nat) (f : SrlF) (s : State) : Res := onObj (hasUnit s unit) s (srlRun s unit 0x19 f wrecvAct noAct)

/-- WRADD (R216). -/
def execWradd (unit : Nat) (f : SrlF) (s : State) : Res := onObj (hasUnit s unit) s (srlRun s unit 0x1A f wraddAct noAct)

/-- WR_TIMEOUT (R217). -/
def execWrTimeout (unit : Nat) (s : State) : Res := onObj (hasUnit s unit) s (windrowTimeout s unit)

/-- ADAMW (R205). -/
def execAdamw (unit : Nat) (f : SrlF) (s : State) : Res :=
  onObj (hasUnit s unit) s (srlRun s unit 0x20 f (macroAct true adamwStep) macroSkip)

/-- SGDM (R206). -/
def execSgdm (unit : Nat) (f : SrlF) (s : State) : Res :=
  onObj (hasUnit s unit) s (srlRun s unit 0x21 f (macroAct false sgdmStep) macroSkip)

/-- ACCUM (R209). -/
def execAccum (unit : Nat) (f : SrlF) (s : State) : Res := onObj (hasUnit s unit) s (srlRun s unit 0x22 f accumAct noAct)

/-- SHADOW (R207). -/
def execShadow (unit : Nat) (f : SrlF) (s : State) : Res := onObj (hasUnit s unit) s (srlRun s unit 0x23 f shadowAct noAct)

/-- ACCI (R210): the next step of an accumulate swath; a word of a launched program that names it is illegal. -/
def execAcci (unit : Nat) (s : State) : Res :=
  onObj (hasUnit s unit) s
    (match srlCtx s unit with
     | some k =>
       match nextWord k with
       | some (at_, w) =>
         if wOp w.toNat = 0x24 then
           (if chunkCond k (wF w).cnd.toNat k.r.chunk then advance (raiseFl s unit flIllegal) k at_ else advance s k at_)
         else s
       | none => s
     | none => acciStep s unit)

/-- The sectors of the row that a WR_ACC's piece touches, a bit each (R129): its elements are FP32 at the destination (R210). -/
def accSectors (p : Pkt) : Nat :=
  (((List.range (p.payload.length / afmtBytes p.afmt)).map (fun k => 2 ^ ((paByte p.pa + 4 * k) / 64))).eraseDups).sum

/-- WR_ACC_ARRIVAL (R184): a piece within one row reaches its channel; one for a hole, the system region or
an unbacked address is not performed (R39, R420). -/
def execWrAccArrival (port : Nat) (p : Pkt) (s : State) : Res :=
  onObj (hasPort s port || port = 15) s
    (if halted s then s
     else
      let (id, s) := openIn s port 1 p
      let n := afmtBytes p.afmt
      let src := ingressSrc port 2
      if inSystem p.pa || !backed s.member p.pa then inDone s id none 3
      else if inHole s p.pa then inDone (logHole s (rowAt p.pa) 8 src (accSectors p)) id none 3
      else accArrive s (paStack p.pa) (paCh p.pa) (paBank p.pa) (paRow p.pa)
        { dst := paByte p.pa, afmt := p.afmt, bytes := p.payload, packet := id,
          poison := (List.range (p.payload.length / n)).map (fun k => p.poison.getD (k * n / 64) false) }
        src)

end Sys2Proof.Machine
end

