-- ==== Sys2Proof/Machine/Arbs.lean ====
section
/-! DEFINITION. Arbiters and the package fabric (R383 to R403). -/
namespace Sys2Proof.Machine

/-- An arbiter of a die (R46, R383). -/
def hasArb (s : State) (d i : Nat) : Bool := hasDie s d && i ≠ 255 && (blkInsts s.member d 0x0B).contains i

/-- ARB_PRIO of a requester (R388). -/
def arbPrio (s : State) (d i r : Nat) : Nat :=
  if r < 16 then fld (s.reg (pgArb d i + 0x100)) (4 * r) 3 else fld (s.reg (pgArb d i + 0x108)) (4 * (r - 16)) 3

/-- ARB_CFG.PASS_MAX: 0 means 256 (R400). -/
def passMax (s : State) (d i : Nat) : Nat :=
  let x := getF s (pgArb d i) F.ARB_CFG_PASS_MAX
  if x = 0 then 256 else x

/-- The holder, if a grant is held. -/
def holder (s : State) (d i : Nat) : Option Nat :=
  if getF s (pgArb d i) F.ARB_HOLD_VALID = 1 then some (getF s (pgArb d i) F.ARB_HOLD_HOLDER) else none

/-- The first of a list found in rotation, starting after a requester (R386). -/
def afterRot (n last : Nat) (l : List Nat) : Option Nat :=
  ((List.range n).map (fun k => (last + 1 + k) % n)).find? (l.contains ·)

/-- The winner of a phase among waiters (R386): those at the pass limit in the order they reached it, then the highest
priority in rotation. -/
def choose (prio : Nat → Nat) (n last : Nat) (limit waiters : List Nat) : Option Nat :=
  match limit.find? (waiters.contains ·) with
  | some r => some r
  | none =>
    let top := (waiters.map prio).foldl max 0
    afterRot n last (waiters.filter (fun r => prio r = top))

/-- Pass counts after a grant (R386): the winner's cleared, every other waiter's raised; those that reach the limit queue
behind the earlier ones, the lowest index first. -/
def passed (m w : Nat) (waiters : List Nat) (a : Arb) : Arb :=
  let others := waiters.filter (· ≠ w)
  let pass := others.foldl (fun p r => tupd 0 p r (· + 1)) (tset 0 a.pass w 0)
  let limit := a.limit.filter (· ≠ w)
  let fresh := others.filter (fun r => m ≤ tget 0 pass r && !limit.contains r)
  { a with pass := pass, limit := limit ++ fresh, last := w }

/-- The waiters at the pass limit as a phase finds them: those that stay in the order they reached it, then those that a
lowered PASS_MAX has put there. -/
def atLimit (m : Nat) (waiters : List Nat) (a : Arb) : Arb :=
  let at_ (r : Nat) : Bool := waiters.contains r && m ≤ tget 0 a.pass r
  let old := a.limit.filter at_
  { a with limit := old ++ waiters.filter (fun r => at_ r && !old.contains r) }

/-- The order of the grants that R386 would make if nothing changed (R387). -/
def grantOrder (prio : Nat → Nat) (n m : Nat) : Nat → Arb → List Nat → List Nat
  | 0, _, _ => []
  | fuel + 1, a, waiters =>
    match choose prio n a.last a.limit waiters with
    | none => []
    | some w => w :: grantOrder prio n m fuel (passed m w waiters a) (waiters.filter (· ≠ w))

/-- HINT of a requester set. -/
def setHint (s : State) (d i r h : Nat) : State :=
  let k := pgArb d i + (if r < 16 then 0x110 else 0x118)
  s.setReg k (withFld (s.reg k) (4 * (r % 16)) 4 h)

/-- OFFENCES of a requester set from its offences in the window (R400). -/
def showOffences (s : State) (d i r : Nat) : State :=
  let k := pgArb d i + 0xB0
  s.setReg k (withFld (s.reg k) (2 * r) 2 (min 3 (tget [] (s.arb d i).offences r).length))

/-- An arbitration phase over the requests it samples (R384, R386, R387); a requester of an absent source makes none (R383). The
winner takes the grant at once where none is held; else it waits for the end of the running transfer. -/
def phaseOf (s : State) (d i : Nat) (requests : List Nat) : State :=
  let requests := requests.filter (arbPresent s.member d i)
  let g := pgArb d i
  let n := arbReqs s.member i
  let prio (r : Nat) : Nat := arbPrio s d i r
  let m := passMax s d i
  let asking := (List.range n).filter requests.contains
  let waiters := asking.filter (fun r => !isolated s d i r)
  let gone := (onesOf 20 (getF s g F.ARB_HOLD_WAITING)).filter (fun r => !asking.contains r)
  -- a waiter that withdraws clears its own pass count
  let s := s.updArb d i (fun a => atLimit m waiters { a with pass := gone.foldl (fun p r => tset 0 p r 0) a.pass })
  let a := s.arb d i
  let order := grantOrder prio n m n a waiters
  let s := forEach s (order.zip (List.range n)) (fun s (r, k) =>
    setHint s d i r (min 15 (min k (m - tget 0 a.pass r))))
  let s := forEach s (asking.filter (isolated s d i)) (fun s r => setHint s d i r 15)
  let s := match holder s d i with | some h => setHint s d i h 0 | none => s
  match choose prio n a.last a.limit waiters with
  | none => setF s g F.ARB_HOLD_WAITING ((asking.map (2 ^ ·)).sum)
  | some w =>
    let s := s.updArb d i (passed m w waiters)
    let s := bumpF s g F.ARB_COUNT_GRANTS
    match holder s d i with
    | some _ =>
      setF (s.updArb d i (fun a => { a with next := some w })) g F.ARB_HOLD_WAITING ((asking.map (2 ^ ·)).sum)
    | none =>
      let s := setF s g F.ARB_HOLD_WAITING (((asking.filter (· ≠ w)).map (2 ^ ·)).sum)
      setB (setF s g F.ARB_HOLD_HOLDER w) g F.ARB_HOLD_VALID true

/-- The running transfer ends (R384): the grant passes to the winner of the overlapping phase, or lapses. -/
def transferEnd (s : State) (d i : Nat) : State :=
  let g := pgArb d i
  if (holder s d i).isNone then s
  else match (s.arb d i).next with
    | some w =>
      let s := s.updArb d i (fun a => { a with next := none })
      let l := (onesOf 20 (getF s g F.ARB_HOLD_WAITING)).filter (· ≠ w)
      setF (setF s g F.ARB_HOLD_WAITING ((l.map (2 ^ ·)).sum)) g F.ARB_HOLD_HOLDER w
    | none => setF (setB s g F.ARB_HOLD_VALID false) g F.ARB_HOLD_HOLDER 0

/-- The holder's transfer is abandoned (R389): it stays at the head of its input and requests again; a phase grants. -/
def abandon (s : State) (d i h : Nat) : State :=
  let g := pgArb d i
  let s := setF (setB s g F.ARB_HOLD_VALID false) g F.ARB_HOLD_HOLDER 0
  let s := s.updArb d i (fun a => { a with next := none })
  phaseOf s d i (h :: onesOf 20 (getF s g F.ARB_HOLD_WAITING))

/-- A waiter outranks the holder after a priority write (R389). -/
def outranked (s : State) (d i h : Nat) : Bool :=
  (onesOf 20 (getF s (pgArb d i) F.ARB_HOLD_WAITING)).any (fun r => !isolated s d i r && arbPrio s d i h < arbPrio s d i r)

/-- A write of PRIO0 (`half` 0) or PRIO1 (R388, R389); RO at a Windrow merge point. -/
def prioWrite (s : State) (d i half : Nat) (v : W64) : State :=
  let g := pgArb d i
  let k := g + 0x100 + half * 8
  if arbKind i = 4 then dropLog s k 0x03
  else
    let keep : W64 := if half = 0 then 0x7777777777777777 else 0x7777
    let s := voidPlan (s.setReg k (v &&& keep))
    match holder s d i with
    | some h => if outranked s d i h then abandon (event (bumpF s g F.ARB_COUNT_PREEMPTS) g 0) d i h else s
    | none => s

/-- A holder is cut off at HOLD_MAX (R391); the third offence isolates it (R392). -/
def cutoff (s : State) (d i : Nat) : State :=
  let g := pgArb d i
  match holder s d i with
  | none => s
  | some h =>
    let s := bumpF (event (recordErr s g 0x0B10 h) g 1) g F.ARB_HOLDSTAT_CUTOFFS
    let s := s.updArb d i (fun a => { a with offences := tupd [] a.offences h (· ++ [s.us]) })
    let s := showOffences s d i h
    let s :=
      if 3 ≤ (tget [] (s.arb d i).offences h).length && !isolated s d i h then
        let crit := getF s g F.ARB_CFG_CRITICAL
        let s := setF s g F.ARB_ISOL (Nat.lor (getF s g F.ARB_ISOL) (2 ^ h))
        let s := bumpF (event (recordErr s g 0x0B11 (h + crit * 256)) g 2) g F.ARB_HOLDSTAT_ISOLATIONS
        if crit = 1 then raiseCause s ⟨3, d, 0x0B, i, 0x0B11, h + crit * 256⟩ else s
      else s
    abandon s d i h

/-- An offence leaves the window (R392). -/
def offenceExpiry (s : State) (d i r : Nat) : State :=
  showOffences (s.updArb d i (fun a => { a with offences := tupd [] a.offences r (·.drop 1) })) d i r

/-- What waited at an isolated requester of a channel's intake goes on: requests and command accesses in the order they came. -/
def unstall (s : State) (st ch : Nat) : State :=
  let l := (s.chan st ch).stalled
  let s := forEach (s.updChan st ch (fun c => { c with stalled := [] })) l (fun s x => match x with
    | .inl r => arrive s r
    | .inr a => rowAccess s st ch { a with grp := 0 } a.grp)
  takeIn s st ch

/-- The transfers that an arbiter's isolated requesters held back go on (R392). -/
def isolEnds (s : State) (d i : Nat) : State :=
  match arbKind i with
  | 0 =>
    match (s.member.dieStacks d)[i / 32]? with
    | some st => unstall s st (i % 32)
    | none => s
  | 3 =>
    let l := s.cxl.unsent
    forEach { s with cxl := { s.cxl with unsent := [] } } l (fun s x =>
      if x.1 then cxlWriteDone s x.2.1 else cxlReadDone s x.2.1 x.2.2.1 x.2.2.2)
  | _ => s

/-- A W1C write of ARB_ISOL (R392). -/
def isolClear (s : State) (d i : Nat) (v : W64) : State :=
  let g := pgArb d i
  let s := forEach (w1c s (g + 0x90) v) ((onesOf 20 v.toNat).filter (isolated s d i)) (fun s r =>
    showOffences (s.updArb d i (fun a => { a with offences := tset [] a.offences r [] })) d i r)
  isolEnds s d i

/-- ARBITRATION_PHASE (R386): one phase at a time overlaps a running transfer. -/
def execArbitrationPhase (die inst : Nat) (requests : List Nat) (s : State) : Res :=
  onObj (hasArb s die inst) s (if (s.arb die inst).next.isSome then s else phaseOf s die inst requests)

/-- TRANSFER_END (R384). -/
def execTransferEnd (die inst : Nat) (s : State) : Res := onObj (hasArb s die inst) s (transferEnd s die inst)

/-- ARB_PRIO_WRITE (R389). -/
def execArbPrioWrite (_w : Writer) (die inst half : Nat) (v : W64) (s : State) : Res :=
  onPage (hasArb s die inst && half < 2) (pgArb die inst + 0x100 + 8 * half) s (prioWrite s die inst half v)

/-- CUTOFF (R391). -/
def execCutoff (die inst : Nat) (s : State) : Res := onObj (hasArb s die inst) s (cutoff s die inst)

/-- OFFENCE_EXPIRY (R392). -/
def execOffenceExpiry (die inst req : Nat) (s : State) : Res :=
  onObj (hasArb s die inst && req < arbReqs s.member inst) s (offenceExpiry s die inst req)

/-- ISOL_CLEAR (R392). -/
def execIsolClear (_w : Writer) (die inst : Nat) (v : W64) (s : State) : Res :=
  onPage (hasArb s die inst) (pgArb die inst + 0x90) s (resendVec (isolClear s die inst v) 0x0B)

/-! ## Fabric edges (R394 to R396) -/

/-- The edge of the die at the far end that joins back: N and S, E and W are opposite. -/
def farEdge (e : Nat) : Nat := [2, 3, 0, 1].getD e 0

/-- A packet that may come over an edge from a die (R394 to R396, R392): its payload and marks as R394 has them, the edge on its
route, nothing older waiting to be resent, its requester at the port not isolated. -/
def fabComes (s : State) (from_ out : Nat) (held : Option FabPkt) (p : FabPkt) : Bool :=
  let m := s.member
  let n := p.payload.length
  64 ≤ n && n ≤ 4096 && p.poison.length = (n + 63) / 64 && hasDie s p.src && hasDie s p.dest
    && m.routeEdge from_ p.dest = some out && (held.isNone || held = some p)
    && ((m.routeHops p.dest 16 p.src 0).find? (fun h => h.1 = from_)).any (fun h => !isolated s from_ (96 + out) h.2)

/-- A packet arrives at a die over an edge (R396): accepted, or discarded and asked for again. -/
def fabricPacket (s : State) (d e : Nat) (ok : Bool) (p : FabPkt) : State :=
  match s.member.edgePeer d e with
  | none => s
  | some q =>
    let rx := pgFab d e
    let tx := pgFab q (farEdge e)
    let x := tget {} s.edges (d * 4 + e)
    if getF s rx F.FAB_EDGE_STATE ≠ 2 || !fabComes s q (farEdge e) x.held p then s
    else
      let bytes := p.payload.length
      let s := charge s tx 5 ((bytes + 63) / 64)
      if ok then
        let s := bumpF (bumpF s rx F.FAB_BYTES_IN bytes) tx F.FAB_BYTES_OUT bytes
        { s with edges := tset {} s.edges (d * 4 + e) {} }.emit (.fabric d p)
      else
        let n := x.fails + 1
        let s := maxF { s with edges := tset {} s.edges (d * 4 + e) ⟨n, some p⟩ } tx F.FAB_RETRY_RUN_MAX (min n 8)
        if n < 8 then (event (bumpF s tx F.FAB_RETRY_RETRIES) tx 0).emit (.fabricResend d e)
        else if n = 8 then fwAssert (event (recordErr s tx 0x0C10 p.dest) tx 1) q 0x0C (farEdge e) 0x0C10 p.dest
        else s

/-- FABRIC_PACKET (R396). -/
def execFabricPacket (die edge : Nat) (crcOk : Bool) (dest : Nat) (load : FabLoad) (s : State) : Res :=
  onObj (hasDie s die && (s.member.edgePeer die edge).isSome) s (fabricPacket s die edge crcOk { load with dest := dest })

end Sys2Proof.Machine
end

