-- ==== Sys2Proof/Machine/Bounded.lean ====
section
/-! DEFINITION. Bounded-write settings (R53, R508 to R511): limits, counts used and the acceptance of a write. -/
namespace Sys2Proof.Machine

/-- The most changes of a setting (R508): 1 ceiling, 2 owner key, 3 strength, 4 and 5 Fallow entries, 6 ARB. -/
def bwLimit (id : Nat) : Nat := match id with | 1 => 16 | 2 => 8 | 3 => 8 | 6 => 64 | _ => 1

/-- Where the count of a setting of a stack and an entry stands in the flash. -/
def bwSlot (id stack entry : Nat) : Nat := 2 ^ 16 * id + 2 ^ 10 * stack + entry

/-- Changes of a setting made so far; the ZH8-1280A leaves final test with its ceiling changes used (R5, R508). -/
def bwUsed (s : State) (id stack entry : Nat) : Nat :=
  tget (if id = 1 && s.member = .zh8a then 16 else 0) s.flash.used (bwSlot id stack entry)

/-- Changes left. -/
def bwLeft (s : State) (id stack entry : Nat) : Nat := bwLimit id - bwUsed s id stack entry

/-- A bounded-write entry waits for the flash. -/
def bwPending (s : State) (off : Nat) : Bool := s.bwq.any (·.off = off)

/-- Number of a writer (R287, R511): 0 the host, 1 + d the Uzoid core of die d. -/
def writerNo : Writer → Nat
  | .host => 0
  | .uzoid d => 1 + d

/-- A bounded-write write that differs from the committed value (R53, R504): dropped where the part key has failed, where
an earlier write of the register waits, where no count is left, or with the setting's own code; else it waits for its
commit. -/
def bwAccept (s : State) (w : Writer) (off id stack entry : Nat) (value : W64) (hash : List W64) (own : Nat) : State :=
  let page := off / 4096 * 4096
  let blk := (pageOf off).blk * 256
  if getF s pgSec F.SEC_KEY_STATE = 2 then recordErr s pgSec 0x1411 0
  else if bwPending s off then recordErr s page (blk + 5) off
  else if bwLeft s id stack entry = 0 then recordErr s page (blk + 4) off
  else if own ≠ 0 then recordErr s page own 0
  else { s with bwq := s.bwq ++ [⟨off, id, stack, entry, value, writerNo w, s.us, hash⟩] }

/-- Valid Fallow entries of a stack, committed or waiting: entry number (256 and 257 bank columns) and register (R132). -/
def fallowEntries (s : State) (st : Nat) : List (Nat × W64) :=
  let e := pgEcc s.member st
  let num (k : Nat) : Nat := if k < e + 0x800 then 256 + (k - (e + 0x100)) / 8 else (k - (e + 0x800)) / 8
  ((s.flash.store.filter (fun p => (e + 0x100 ≤ p.1 && p.1 < e + 0x110) || (e + 0x800 ≤ p.1 && p.1 < e + 0x1000))).map
      (fun p => (num p.1, p.2)))
    ++ ((s.bwq.filter (fun p => (p.id = 4 || p.id = 5) && p.stack = st)).map (fun p => (num p.off, p.value)))

/-- Channel and bank that a Fallow entry names. -/
def fallowBankOf (v : W64) : Nat := fld v 0 9

/-- The stack is not ready for a Fallow write (R132, R160, 0x0915). -/
def fallowBusy (s : State) (st : Nat) : Bool := !allMemory s st || srState s st ≠ 0 || !(s.stack st).copies.isEmpty

/-- A write of FALLOW_ROWi (R131, R132, R134). -/
def fallowRowWrite (s : State) (w : Writer) (st i : Nat) (v : W64) : State :=
  let e := pgEcc s.member st
  let off := e + 0x800 + 8 * i
  if bitOf (bwVal s off) 63 then recordErr s e 0x0904 off
  else if v = 0 then s
  else
    let clash := (fallowEntries s st).any (fun p => p.1 < 256 && p.1 ≠ i && fallowBankOf p.2 = fallowBankOf v
      && (fld p.2 9 16 = fld v 9 16 || fld p.2 25 6 = fld v 25 6))
    let own := if !bitOf v 63 || fld v 25 6 = 63 then 0x0913
      else if clash then 0x0914
      else if fallowBusy s st then 0x0915 else 0
    bwAccept s w off 4 st i (v &&& 0x800000007FFFFFFF#64) [] own

/-- A write of FALLOW_BANKn (R131, R132, R134). -/
def fallowBankWrite (s : State) (w : Writer) (st n : Nat) (v : W64) : State :=
  let e := pgEcc s.member st
  let off := e + 0x100 + 8 * n
  if bitOf (bwVal s off) 63 then recordErr s e 0x0904 off
  else if v = 0 then s
  else
    let own := if !bitOf v 63 then 0x0913
      else if (fallowEntries s st).any (fun p => 256 ≤ p.1 && p.1 ≠ 256 + n && fallowBankOf p.2 = fallowBankOf v) then 0x0914
      else if fallowBusy s st then 0x0915 else 0
    bwAccept s w off 5 st n (v &&& 0x80000000000001FF#64) [] own

/-- An allocation includes a byte of a stack's hole at a strength (R108). -/
def allocInHole (s : State) (st k : Nat) : Bool :=
  let lo := paOf st (holeRow k) 0 0
  let hi := 2 ^ 36 * (st + 1)
  s.allocs.any (fun p => p.2.valid && p.2.kind = 0 && p.2.base < hi && lo < p.2.base + p.2.size)

/-- A write of ECC_STRENGTH (R108, R134). -/
def strengthWrite (s : State) (w : Writer) (st : Nat) (v : W64) : State :=
  let e := pgEcc s.member st
  let k := fld v 0 2
  if k = 3 then recordErr s e 0x0910 0
  else if k = committedStrength s st then s
  else
    let own := if !allMemory s st || srState s st ≠ 0 || !(s.stack st).copies.isEmpty || reformatting s st then 0x0911
      else if allocInHole s st k then 0x0912 else 0
    bwAccept s w (e + 0x80) 3 st 0 (BitVec.ofNat 64 k) [] own

/-- The rows that a strength change keeps are read and decoded under the old strength (R108). -/
def decodeKept (s : State) : State :=
  let bad := ((s.flips.filter (fun p => p.1 < 2 ^ 31 / 64)).map (fun p => p.1 / 32)).eraseDups
  forEach s bad (fun s k =>
    let r := rowAt (k * 2048)
    let s := if failMask s r ≠ 0 then (decodeRow s r 1 0 0xF000).2 else s
    forEach s (rowFlips s r) (fun s q => bakeSector s (r.sec + q.1)))

/-- The rows rewritten at the new strength once the caches are flushed: stack 0 keeps its system region, and every other row is
written with zeros (R108). -/
def rewriteRows (s : State) (st : Nat) : State :=
  let keep := if st = 0 then 2 ^ 31 else 0
  let base := 2 ^ 36 * st
  let s := if st ≠ 0 then s else decodeKept s
  let s := s.clrMem (base + keep) (2 ^ 36 - keep)
  let s := { s with
    poison := s.poison.filter (fun k => k < (base + keep) / 64 || (base + 2 ^ 36) / 64 ≤ k)
    flips := tclr s.flips ((base + keep) / 64) ((2 ^ 36 - keep) / 64)
    slotErrs := tclr s.slotErrs (base / 2048) (2 ^ 36 / 2048) }
  let s := s.updStack st (fun k => { k with rebuild := [], lost := [], oldStrength := none })
  charge s (pgStk s.member st) 7 (65536 * 512 + if st = 0 then 2048 * 512 else 0)

/-- A strength change whose flush has ended goes on with its rows (R108, R121). -/
def reencode (s : State) (st : Nat) : State := if (s.stack st).oldStrength.isSome then rewriteRows s st else s

/-- A committed strength change (R108): a flush of the caches under the old strength, with the requests held off, then the rows. -/
def startReformat (s : State) (st old : Nat) : State :=
  let s := (setF s (pgEcc s.member st) F.ECC_STRENGTH_REFORMAT 1).updStack st (fun k => { k with oldStrength := some old })
  if dirtyMax s st = 0 then reencode s st else startFlush s st

/-- The spare rows of a bank column that row entries use, with the row that each serves, in ascending order (R131, R133). -/
def spareUse (s : State) (st col : Nat) : List (Nat × Nat) :=
  let l := ((s.stack st).redirected.filter (· < 256)).map (fun n => bwVal s (pgEcc s.member st + 0x800 + 8 * n))
  ((l.filter (fun v => fallowBankOf v = col)).map (fun v => (fld v 25 6, fld v 9 16))).mergeSort (fun a b => a.1 ≤ b.1)

/-- The logical row whose data stand in row `k` of a bank-column copy (R133): the 65,536 rows of the column, then the spare rows in
use; none for a row that a spare row serves. -/
def copySource (s : State) (st col k : Nat) : Option Nat :=
  let l := spareUse s st col
  if k < 65536 then (if l.any (·.2 = k) then none else some k) else (l[k - 65536]?).map (·.2)

/-- The core die that holds a row's data: a row served by a spare row lies in core die 15 (R68, R94, R131). -/
def rowDie (s : State) (st ch bank row : Nat) : Nat :=
  if (spareUse s st (ch + 32 * bank)).any (·.2 = row) then 15 else row / 4096

/-- The next Fallow copy of a stack begins, if one waits (R133). -/
def startCopy (s : State) (st : Nat) : State :=
  let e := pgEcc s.member st
  match (s.stack st).copies with
  | [] => s
  | n :: _ =>
    let s := setF (setF s e F.ECC_FALLOWSTAT_BUSY 1) e F.ECC_FALLOWSTAT_ENTRY n
    let s := setF s e F.ECC_FALLOWSTAT_COPY_LEFT (if n < 256 then 1 else
      65536 + (spareUse s st (fallowBankOf (bwVal s (e + 0x100 + 8 * (n - 256))))).length)
    s.updStack st (fun k => { k with copyRow := 0 })

/-- A committed Fallow entry is copied after those ahead of it (R133). -/
def fallowCommitted (s : State) (st n : Nat) : State :=
  let first := (s.stack st).copies.isEmpty
  let s := s.updStack st (fun k => { k with copies := k.copies ++ [n] })
  if first then startCopy s st else s

end Sys2Proof.Machine
end

