-- ==== Sys2Proof/Machine/Training.lean ====
section
/-! DEFINITION. Boot training of a stack (R139 to R144): what Uzoid firmware makes of the pass windows that its sweeps find. -/
namespace Sys2Proof.Machine

/-- The core dies of a stack that are powered (R139). -/
def poweredDies (s : State) (st : Nat) : List Nat :=
  let keep := getF s (pgStk s.member st) F.STK_SRCTL_KEEP_EFF
  (List.range 16).filter (fun d => srState s st ≠ 2 || bit keep d)

/-- A pass window within the codes of its sweep. -/
def clip (lo hi : Nat) (w : Option (Nat × Nat)) : Option (Nat × Nat) :=
  match w with
  | none => none
  | some (a, b) => if Nat.min b hi < Nat.max a lo then none else some (Nat.max a lo, Nat.min b hi)

/-- The midpoint of a window: firmware's centre (R141; log 51). -/
def midpoint (w : Nat × Nat) : Nat := (w.1 + w.2) / 2

/-- The place of the greatest of a list's values, the first of several. -/
def widest (l : List Nat) : Nat := l.findIdx (· = l.foldl Nat.max 0)

/-- What steps 3 to 7 of R141 choose in one direction of a wire: delay, reference, duty, and the width of the last window; none
where a sweep finds no window. -/
def trainDir (d : DirTrain) : Option (Nat × Nat × Nat × Nat) :=
  match clip 0 127 d.coarse, clip 0 63 d.ref with
  | some (a, b), some r =>
    let fine := clip (a - 16) (Nat.min (b + 16) 127)
    match fine d.fine, fine d.again with
    | some _, some w => some (midpoint w, midpoint r, if d.duty = [] then 0 else (widest (d.duty.take 16) + 8) % 16, w.2 + 1 - w.1)
    | _, _ => none
  | _, _ => none

/-- A data wire in boot training: its codes, none where it is rejected (R141). DESIGN CHOICE (log 51): the one duty code of a wire
is the write direction's, swept last. -/
def trainWire (winMin : Nat) (t : WireTrain) : Option Wire :=
  match trainDir t.rd, trainDir t.wr with
  | some (rd, rref, _, rw), some (wr, wref, duty, ww) =>
    if rw < winMin || ww < winMin then none
    else some { readDly := rd, writeDly := wr, readRef := rref, writeRef := wref, duty := duty }
  | _, _ => none

/-- A TSV bundle in training: its code, none where its window is narrower than 6 codes (R141). -/
def trainTsv (w : Option (Nat × Nat)) : Option Nat :=
  match clip 0 31 w with
  | some (a, b) => if b + 1 - a < 6 then none else some (midpoint (a, b))
  | none => none

/-- The TSV bundles of some core dies trained (R139, R141 step 8): the stack's codes, and the rejected bundles. -/
def tsvTraining (s : State) (st : Nat) (dies : List Nat) (found : List (Nat × Option (Nat × Nat))) : List Nat × State :=
  let l := found.filter (fun p => p.1 < 512 && dies.contains (p.1 % 16))
  let put (t : Tbl Nat) (p : Nat × Option (Nat × Nat)) : Tbl Nat :=
    match trainTsv p.2 with
    | some k => tset 16 t p.1 k
    | none => t
  ((l.filter (fun p => (trainTsv p.2).isNone)).map (·.1), s.updStack st (fun x => { x with tsv := l.foldl put x.tsv }))

/-- The command and data wires trained (R141 steps 1 to 7): the stack's codes, and the rejected wires. -/
def wireTraining (s : State) (st : Nat) (r : TrainOut) : List Nat × State :=
  let winMin := getF s (pgCal s.member st) F.CAL_SKYCFG_WIN_MIN
  let l := r.wires.filter (·.wire < 2048)
  let wires := l.foldl (fun t w => tset ({} : Wire) t w.wire ((trainWire winMin w).getD {})) []
  let cmd := (r.cmd.filter (·.1 < 32)).foldl (fun t p => tset 64 t p.1 (((clip 0 127 p.2).map midpoint).getD 64)) []
  ((l.filter (fun t => (trainWire winMin t).isNone)).map (·.wire), s.updStack st (fun x => { x with wires := wires, cmdDly := cmd }))

/-- What training rejects first, by step: a data wire, a TSV bundle, a wire of the end-to-end check; the channel and the wire or
core die (R142, R155). -/
def firstRejected (wires tsv check : List Nat) : Option (Nat × Nat) :=
  match wires.min?, tsv.min?, check.min? with
  | some w, _, _ => some (w / 64, w % 64)
  | none, some k, _ => some (k / 16, k % 16)
  | none, none, some w => some (w / 64, w % 64)
  | none, none, none => none

/-- A stack fails training (R142). -/
def trainingFailed (s : State) (st ch w : Nat) : State :=
  let c := pgCal s.member st
  let s := setF (setF (setF s c F.CAL_TRSTAT_RESULT 2) c F.CAL_TRSTAT_FAIL_CHANNEL ch) c F.CAL_TRSTAT_FAIL_WIRE w
  (recordErr s c 0x0A12 (ch + w * 32)).updStack st (fun x => { x with trainFailed := true })

end Sys2Proof.Machine
end

