-- ==== Sys2Proof/Machine/DramCmds.lean ====
section
/-! DEFINITION. The commands of the DRAM controller and of the STK page: requests, scheduler commands, refresh, the cool
rate, self-refresh (R68 to R103). -/
namespace Sys2Proof.Machine

/-- One more owed refresh; OWED reaching 8 is an event (R85, R101). -/
def oweRefresh (s : State) (st ch : Nat) : State :=
  let d := pgDctl s.member st ch
  let n := owed s st ch
  let s := setF s d F.DCTL_REFSTAT_OWED (Nat.min (n + 1) 8)
  if n = 7 then event s d 3 else s

/-- A refresh falls due (R85 to R87): issued at once, owed, or forcing a burst; none falls due while HELD (R96). -/
def refreshFallsDue (s : State) (st ch : Nat) : State :=
  let d := pgDctl s.member st ch
  let m := chState s st ch
  if srState s st = 2 then s
  else if bursting s st ch then
    (if owed s st ch = 8 && !(s.chan st ch).refreshed then s.updChan st ch (fun c => { c with dueNow := true }) else oweRefresh s st ch)
  else if m = 0 || m = 1 || (s.chan st ch).breath then
    (if !busyQueue s st ch then startBurst s st ch true
     else if getF s d F.DCTL_REFCFG_MEM_DEFER = 0 then event (startBurst s st ch true) d 2
     else burstRules (oweRefresh s st ch) st ch)
  else
    let n := owed s st ch
    let s := oweRefresh s st ch
    if n = 7 then forEach s (chUnits st ch) (fun s i => signalCause s i 3) else s

/-- The stack takes the hot or the cool rate (R91, R101, R103). -/
def setRate (s : State) (st : Nat) (hot : Bool) : State :=
  let k := pgStk s.member st
  let s := event (setB s k F.STK_TEMP_HOT hot) k (if hot then 1 else 2)
  forEach s (List.range 32) (fun s ch =>
    let d := pgDctl s.member st ch
    event (setB s d F.DCTL_REFSTAT_HOT hot) d (if hot then 4 else 5))

/-- The keep mask with the core dies that hold parity rows forced on (R94). -/
def keepEff (k keep : Nat) : Nat :=
  if k = 2 then (if keep % 2 ^ 14 ≠ 0 then keep ||| 0xC000 else keep)
  else if keep % 2 ^ 15 ≠ 0 then keep ||| 0x8000 else keep

/-- A write of STK_SRCTL (R95, R97, R102). -/
def srctlWrite (s : State) (st : Nat) (v : W64) : State :=
  let k := pgStk s.member st
  let enter := bitOf v 16
  let exit_ := bitOf v 17
  let sr := srState s st
  if enter && exit_ then recordErr s k 0x0711 0
  else if enter then
    (if sr ≠ 0 then recordErr s k 0x0705 (k + 0x98)
     else if !allMemory s st then recordErr s k 0x0710 0
     else
       let s := setF s k F.STK_SRCTL_KEEP (fld v 0 16)
       let s := setF s k F.STK_SRCTL_KEEP_EFF (keepEff (strength s st) (fld v 0 16))
       srFlush (setF s k F.STK_SRCTL_SR_STATE 1) st)
  else if exit_ then
    (if sr ≠ 2 then recordErr s k 0x0705 (k + 0x98)
     else
       let s := setF s k F.STK_SRCTL_SR_STATE 3
       let s := setF s k F.STK_SRSTAT_LAST_HELD_MS (Nat.min ((s.us - (s.stack st).heldUs) / 1000) (2 ^ 32 - 1))
       s.updStack st (fun x => { x with heldUs := s.us }))
  else if sr ≠ 0 then recordErr s k 0x0705 (k + 0x98)
  else setF s k F.STK_SRCTL_KEEP (fld v 0 16)

/-- Entry to self-refresh completes (R95 steps 4 to 6). -/
def reachHeld (s : State) (st : Nat) : State :=
  let k := pgStk s.member st
  let s := srFlush s st
  if srState s st = 1 && stackIdle s st && !flushing s st then
    let s := s.updStack st (fun x => { x with flushed := false })
    let s := forEach s (List.range 32) (fun s ch =>
      if owed s st ch = 0 then prechargeAll s st ch else setB (refreshAll s st ch) (pgDctl s.member st ch) F.DCTL_REFSTAT_BURSTING false)
    let s := event (setF s k F.STK_SRCTL_SR_STATE 2) k 3
    let s := bumpF s k F.STK_SRSTAT_ENTRIES
    s.updStack st (fun x => { x with heldUs := s.us })
  else s

/-- The core dies that are not kept, cleared with valid CRCs and parity (R97 step 2). -/
def clearDies (s : State) (st mask : Nat) : State :=
  let gone (a : Nat) : Bool := a / 2 ^ 36 = st && !bit mask (rowDie s st (paCh a) (paBank a) (paRow a))
  let sk := strength s st
  let ss := slotSectors sk
  -- a sector is written anew in a dropped die, or as the slot of a data row of one
  let fresh (k : Nat) : Bool := k / 2 ^ 30 = st &&
    (let row := paRow (k * 64)
     gone (k * 64) || (holeRow sk ≤ row && (let j := k % 32 / ss
       j + 1 < 32 / ss && gone (paOf st (j * (65536 - holeRow sk) + (row - holeRow sk)) (paCh (k * 64)) (paBank (k * 64))))))
  let s := s.dropMem gone
  let s := { s with
    poison := s.poison.filter (fun k => !gone (k * 64))
    flips := s.flips.filter (fun p => !fresh p.1)
    slotErrs := s.slotErrs.filter (fun p => !gone (p.1 * 2048)) }
  let kept (e : Nat × Nat × Nat) : Bool := !gone (paOf st e.2.2 e.1 e.2.1)
  let s := s.updStack st (fun x => { x with rebuild := x.rebuild.filter kept, lost := x.lost.filter kept })
  charge s (pgStk s.member st) 7 (((List.range 16).filter (fun k => !bit mask k)).length * 4096 * 512)

/-- The TSV training of the core dies that were gated (R144): `found` are their pass windows. DESIGN CHOICE (log 51): a bundle that
is rejected fails the stack as in boot training (R142). -/
def trainGated (s : State) (st : Nat) (found : List (Nat × Option (Nat × Nat))) : State :=
  let keep := getF s (pgStk s.member st) F.STK_SRCTL_KEEP_EFF
  let (bad, s) := tsvTraining s st ((List.range 16).filter (fun d => !bit keep d)) found
  match bad.min? with
  | some k => trainingFailed s st (k / 16) (k % 16)
  | none => s

/-- Exit from self-refresh completes (R97 steps 2 and 3, R144); the Tedder's passes begin where the stack is ACTIVE for the first
time (R127). -/
def reachActive (s : State) (st : Nat) (found : List (Nat × Option (Nat × Nat))) : State :=
  let k := pgStk s.member st
  if srState s st = 3 || srState s st = 4 then
    let s := clearDies (trainGated s st found) st (getF s k F.STK_SRCTL_KEEP_EFF)
    firstActive (admitStack (event (setF s k F.STK_SRCTL_SR_STATE 0) k 4) st) st
  else s

/-! ## The commands -/

/-- DRAM_REQUEST (R72). -/
def execDramRequest (r : Req) (s : State) : Res :=
  onObj (decide (0 < r.nsec && r.nsec ≤ 32) && backed s.member r.pa && backed s.member (r.pa + r.nsec * 64 - 1)) s (arrive s r)

/-- DRAM_COMMAND_ISSUE (R74); a stack under self-refresh or reformat issues none. -/
def execDramCommandIssue (stack ch : Nat) (ready : List (Nat × Nat)) (media : List Flip) (s : State) : Res :=
  onObj (hasCh s stack ch) s
    (if srState s stack ≤ 1 && !reformatting s stack then issueCommand s stack ch ready media else s.addFlips media)

/-- ROW_IDLE_CLOSE (R77). -/
def execRowIdleClose (stack ch bank : Nat) (s : State) : Res :=
  onObj (hasBank s stack ch bank) s
    (if ((s.chan stack ch).bank bank).corr.isSome then s else s.updBank stack ch bank (fun k => { k with openRow := none }))

/-- ROW_DECODE_DONE (R109). -/
def execRowDecodeDone (stack ch bank : Nat) (s : State) : Res := onObj (hasBank s stack ch bank) s (decodeDone s stack ch bank)

/-- REFRESH_DUE (R85). -/
def execRefreshDue (stack ch : Nat) (s : State) : Res := onObj (hasCh s stack ch) s (refreshFallsDue s stack ch)

/-- REFRESH_BURST (R86). -/
def execRefreshBurst (stack ch : Nat) (s : State) : Res :=
  onObj (hasCh s stack ch) s (if bursting s stack ch && !(s.chan stack ch).refreshed then refreshAll s stack ch else s)

/-- BURST_DONE (R89). -/
def execBurstDone (stack ch : Nat) (s : State) : Res := onObj (hasCh s stack ch) s (endBurst s stack ch)

/-- RATE_COOL (R91). -/
def execRateCool (stack : Nat) (s : State) : Res :=
  onObj (hasStack s stack) s (if stackHot s stack && (s.stack stack).coolRun then setRate s stack false else s)

/-- SR_ENTER (R95). -/
def execSrEnter (_w : Writer) (stack : Nat) (v : W64) (s : State) : Res := onPage (hasStack s stack) (pgStk .zh8c stack + 0x98) s (srctlWrite s stack v)

/-- SR_HELD (R95). -/
def execSrHeld (stack : Nat) (s : State) : Res := onObj (hasStack s stack) s (reachHeld s stack)

/-- SR_EXIT (R97). -/
def execSrExit (_w : Writer) (stack : Nat) (v : W64) (s : State) : Res := onPage (hasStack s stack) (pgStk .zh8c stack + 0x98) s (srctlWrite s stack v)

/-- SR_READY (R97). -/
def execSrReady (x : SrExit) (s : State) : Res := onObj (hasStack s x.stack) s (reachActive s x.stack x.tsv)

end Sys2Proof.Machine
end

