-- ==== Sys2Proof/Machine/CalCmds.lean ====
section
/-! DEFINITION. Interface training and Skylark: the helpers, delay steps, margins and training windows (R136 to R156). -/
namespace Sys2Proof.Machine

/-- The largest code of a sweep target (R136, R155): 0 delay, 1 reference, 2 duty, 3 TSV delay. -/
def sweepRange (target : Nat) : Nat := match target with | 1 => 63 | 2 => 15 | 3 => 31 | _ => 127

/-- The sweep set up is valid (R155). -/
def sweepOk (s : State) (st : Nat) : Bool :=
  let c := pgCal s.member st
  let first := getF s c F.CAL_SWEEPCFG_FIRST
  let last := getF s c F.CAL_SWEEPCFG_LAST
  let dwell := getF s c F.CAL_SWEEPCFG_DWELL
  first ≤ last && last ≤ sweepRange (getF s c F.CAL_SWEEPCFG_TARGET) && getF s c F.CAL_SWEEPCFG_STEP ≠ 0
    && 6 ≤ dwell && dwell ≤ 24

/-- A step of PRBS-15 (R138). PRESUMED (log 51): the polynomial x^15 + x^14 + 1, whose bit is the register's highest. -/
def prbsNext (x : Nat) : Nat := (2 * x + (x / 2 ^ 14 + x / 2 ^ 13) % 2) % 2 ^ 15

/-- The bits of PRBS-15 from a seed on. -/
def prbsBits : Nat → Nat → List Bool
  | 0, _ => []
  | n + 1, x => (x / 2 ^ 14 % 2 = 1) :: prbsBits n (prbsNext x)

/-- The seed of a wire (R138, R155). -/
def prbsSeed (s : State) (st w : Nat) : Nat :=
  let seed := getF s (pgCal s.member st) F.CAL_PATSEL_SEED
  ((if seed = 0 then 1 else seed) ^^^ (w * 0x0111)) % 2 ^ 15

/-- The first 8 UI that the pattern generator sends: bit w of a word on wire w (R138, R155). -/
def generator (s : State) (st : Nat) : List W64 :=
  let c := pgCal s.member st
  if getF s c F.CAL_TRCTL_MODE = 0 then
    (List.range 8).map (fun k => s.reg (c + 0x400 + getF s c F.CAL_PATSEL_PATTERN * 64 + k * 8))
  else
    let wires := (List.range 64).map (fun w => prbsBits 8 (prbsSeed s st w))
    (List.range 8).map (fun k => BitVec.ofNat 64 (bitMap (wires.map (fun l => l.getD k false))))

/-- A helper run starts (R138): the mismatch counters of the channels it uses are cleared, and the generator drives them. DESIGN
CHOICE (log 51): RESULT reads 0 while it runs. -/
def startHelper (s : State) (st : Nat) : State :=
  let c := pgCal s.member st
  let all := getF s c F.CAL_TRCTL_ALL = 1
  let s := setF (setB s c F.CAL_TRSTAT_BUSY true) c F.CAL_TRSTAT_RESULT 0
  let s := s.updStack st (fun x => { x with
    aborting := false
    cmp := if all then [] else tclr x.cmp (getF s c F.CAL_TRCTL_CHANNEL * 64) 64 })
  s.emit (.helper st (if all then 2 ^ 32 - 1 else 2 ^ getF s c F.CAL_TRCTL_CHANNEL) (generator s st))

/-- A write of CAL_TRCTL (R140, R155). A write that MODE 3, a busy helper or a refused TEST drops has no effect. DESIGN CHOICE (log
52): a START dropped outside TEST, or for its sweep or a core die that is not powered, leaves the write's other fields stored. -/
def trctlWrite (s : State) (st : Nat) (v : W64) : State :=
  let c := pgCal s.member st
  let busy := getF s c F.CAL_TRSTAT_BUSY = 1
  let test := bitOf v 0
  let was := inTest s st
  let sr := srState s st
  if fld v 9 2 = 3 then recordErr s c 0x0A14 0
  else if busy && (bitOf v 16 || !test) then recordErr s c 0x0A10 0
  else if test && !was && !(allMemory s st && (sr = 0 || sr = 2)) then recordErr s c 0x0A11 0
  else
    let s := storeRW s (c + 0x80) v
    let s := if bitOf v 17 && busy then s.updStack st (fun x => { x with aborting := true }) else s
    let s := if was && !test then admitStack s st else s
    if !bitOf v 16 then s
    else if !test then recordErr s c 0x0A11 0
    else if !sweepOk s st then recordErr s c 0x0A14 0
    else if fld v 7 2 = 2 && !(poweredDies s st).contains (fld v 11 4) then recordErr s c 0x0A14 0
    else startHelper s st

/-- The codes of a sweep's points (R138). -/
def sweepCodes (s : State) (st : Nat) : List Nat :=
  let c := pgCal s.member st
  let first := getF s c F.CAL_SWEEPCFG_FIRST
  let step := Nat.max 1 (getF s c F.CAL_SWEEPCFG_STEP)
  (List.range ((getF s c F.CAL_SWEEPCFG_LAST - first) / step + 1)).map (fun i => first + i * step)

/-- The widest run of passing points: the places of its first and last point. DESIGN CHOICE (log 51): the first of several. -/
def widestRun (pass : List Bool) : Option (Nat × Nat) :=
  (pass.foldl (fun (t : Nat × Nat × Option (Nat × Nat)) p =>
    let (i, len, best) := t
    let len := if p then len + 1 else 0
    let wider := match best with | some (a, b) => decide (b + 1 - a < len) | none => decide (0 < len)
    (i + 1, len, if wider then some (i + 1 - len, i) else best)) (0, 0, none)).2.2

/-- A helper run ends (R138, R155): counters, sweep logs and the result; `done` counts the points that an aborted run completed.
`wire` counts from the selected channel, or from channel 0 (channel × 64 + wire) when all channels ran. A point passes when its
mismatch count is 0. DESIGN CHOICE (log 51): a wire of a sweep without a passing point fails the run, and the first failing
wire is the one of the lowest channel and number. -/
def endHelper (s : State) (st done : Nat) (runs : List WireRun) : State :=
  let c := pgCal s.member st
  if getF s c F.CAL_TRSTAT_BUSY = 0 then s
  else
    let all := getF s c F.CAL_TRCTL_ALL = 1
    let sweep := getF s c F.CAL_TRCTL_MODE = 2
    let base := if all then 0 else getF s c F.CAL_TRCTL_CHANNEL * 64
    let codes := if sweep then sweepCodes s st else [0]
    let codes := if (s.stack st).aborting then codes.take done else codes
    let wires := List.range (if all then 2048 else 64)
    let counts (w : Nat) : List Nat :=
      let l := ((runs.find? (·.wire = w)).map (·.points)).getD []
      (List.range codes.length).map (fun i => l.getD i 0)
    let logOf (w : Nat) : Nat × Nat × Bool := match widestRun ((counts w).map (· == 0)) with
      | some (a, b) => (codes.getD a 0, codes.getD b 0, true)
      | none => (0, 0, false)
    let s := s.updStack st (fun x => { x with
      cmp := tsetAll 0 x.cmp base (wires.map (fun w => Nat.min (counts w).sum (2 ^ 32 - 1)))
      sweep := if sweep then tsetAll (0, 0, false) x.sweep base (wires.map logOf) else x.sweep })
    let bad := wires.find? (fun w => if sweep then !(logOf w).2.2 else (counts w).sum ≠ 0)
    let res := if (s.stack st).aborting then 3 else if bad.isSome then 2 else 1
    let s := setF (setB s c F.CAL_TRSTAT_BUSY false) c F.CAL_TRSTAT_RESULT res
    let s := match bad with
      | some w =>
        let w := base + w
        let tsv := getF s c F.CAL_TRCTL_DIR = 2
        setF (setF s c F.CAL_TRSTAT_FAIL_CHANNEL (w / 64)) c F.CAL_TRSTAT_FAIL_WIRE
          (if tsv then getF s c F.CAL_TRCTL_CORE_DIE else w % 64)
      | none => s
    event (s.updStack st (fun x => { x with aborting := false })) c 0

/-- A code moved one step, within 0 to 127 (R146). -/
def stepCode (n : Nat) (up : Bool) : Nat := if up then Nat.min (n + 1) 127 else n - 1

/-- The disagreements that one direction of a wire has counted since they were last looked at (R145): `below` and `above` give
them for a shadow at each distance from the main point, and OFFSET says where the shadows stand. Reads count in the C-die, writes
in the base die. -/
def skyCount (s : State) (st ch w : Nat) (wr : Bool) (below above : List Nat) : State :=
  let off := getF s (pgCal s.member st) F.CAL_SKYCFG_OFFSET
  updWire s st ch w (fun x =>
    if wr then { x with baseBelow := x.baseBelow + below.getD off 0, baseAbove := x.baseAbove + above.getD off 0 }
    else { x with rdBelow := x.rdBelow + below.getD off 0, rdAbove := x.rdAbove + above.getD off 0 })

/-- Skylark's comparison for one direction of a wire, STEP_US after the last (R146): the code moves away from the side that
disagrees more than twice as often, and the counts are cleared. -/
def skyCompare (s : State) (st ch w : Nat) (wr : Bool) : State :=
  let c := pgCal s.member st
  let x := wireOf s st ch w
  let (below, above, last) := if wr then (x.wrBelow, x.wrAbove, x.wrUs) else (x.rdBelow, x.rdAbove, x.rdUs)
  let up := decide (2 * above < below && 16 ≤ below)
  let down := decide (2 * below < above && 16 ≤ above)
  let old := if wr then x.writeDly else x.readDly
  if elapsed s last < Nat.max 1 (getF s c F.CAL_SKYCFG_STEP_US) then s
  else
    let s := updWire s st ch w (fun x =>
      if wr then { x with wrBelow := 0, wrAbove := 0, wrUs := s.us } else { x with rdBelow := 0, rdAbove := 0, rdUs := s.us })
    if !(up || down) || stepCode old up = old then s
    else
      let s := updWire s st ch w (fun x =>
        let x := { x with steps := Nat.min (x.steps + 1) 65535 }
        if wr then { x with writeDly := stepCode old up } else { x with readDly := stepCode old up })
      bumpF s c F.CAL_SKYSTAT_STEPS

/-- Skylark's work on one direction of a wire (R145, R146). -/
def skyStep (s : State) (st ch w : Nat) (wr : Bool) (below above : List Nat) : State :=
  if skylarkRuns s st then skyCompare (skyCount s st ch w wr below above) st ch w wr else s

/-- The lowest margin measured in a stack: wire key and codes (R147). -/
def lowestMargin (s : State) (st : Nat) : Option (Nat × Nat) :=
  (((s.stack st).wires.filter (·.2.measured)).map (fun p => (p.1, p.2.margin))).foldl
    (fun best p => match best with | some b => if p.2 < b.2 then some p else some b | none => some p) none

/-- A margin measurement (R147, R149): the smaller of the distances at which the two shadows disagreed, or reached 32 codes. -/
def measure (s : State) (st ch w below above : Nat) : State :=
  let c := pgCal s.member st
  if !skylarkRuns s st then s
  else
    let m := Nat.min (Nat.min below above) 32
    let s := updWire s st ch w (fun x => { x with margin := m, measured := true })
    let s := match lowestMargin s st with
      | some (k, codes) =>
        setF (setF (setF s c F.CAL_MARGIN_CHANNEL (k / 64)) c F.CAL_MARGIN_WIRE (k % 64)) c F.CAL_MARGIN_CODES codes
      | none => s
    if m < getF s c F.CAL_SKYCFG_MARGIN_MIN then requestWindow (event s c 3) st ch else s

/-- The code that a window applies in one direction (R151, R152): the centre of the observed pass window, none where the
window is too narrow or absent. DESIGN CHOICE (log 51): the centre of an even number of codes is the lower one. -/
def windowCode (old minWidth : Nat) (found : Option (Nat × Nat)) : Option Nat :=
  let lo := old - 8
  let hi := Nat.min (old + 8) 127
  match found with
  | none => none
  | some (a, b) =>
    let a := Nat.max a lo
    let b := Nat.min b hi
    if b < a then none
    else if b - a + 1 < minWidth && a ≠ lo && b ≠ hi then none
    else some ((a + b) / 2)

/-- A training window ends (R151, R152). -/
def endWindow (s : State) (st ch : Nat) (found : List WireWin) : State :=
  let c := pgCal s.member st
  let d := pgDctl s.member st ch
  if getF s d F.DCTL_REFSTAT_WINDOW = 0 then s
  else
    let width := 2 * getF s c F.CAL_SKYCFG_MARGIN_MIN
    let found := found.filter (·.wire < 64)
    let rd (f : WireWin) : Option Nat := windowCode (wireOf s st ch f.wire).readDly width f.rd
    let wr (f : WireWin) : Option Nat := windowCode (wireOf s st ch f.wire).writeDly width f.wr
    let codes := found.map (fun f => (f.wire, rd f, wr f))
    let bad := codes.filter (fun f => f.2.1.isNone || f.2.2.isNone)
    let s := forEach s codes (fun s f => updWire s st ch f.1 (fun x =>
      { x with readDly := f.2.1.getD x.readDly, writeDly := f.2.2.getD x.writeDly }))
    let s := forEach s bad (fun s f => recordErr s c 0x0A13 (ch + f.1 * 32))
    let s := match bad.head? with
      | some f => fwAssert (event s c 5) (s.member.stackDie st) 0x0A (s.member.localStack st) 0x0A13 (ch + f.1 * 32)
      | none => s
    let s := event (event s c 2) d 6
    setB s d F.DCTL_REFSTAT_WINDOW false

/-! ## The commands -/

/-- CAL_TEST (R140): a write of CAL_TRCTL. -/
def execCalTest (_w : Writer) (stack : Nat) (v : W64) (s : State) : Res := onPage (hasStack s stack) (pgCal .zh8c stack + 0x80) s (trctlWrite s stack v)

/-- CAL_START (R138): a write of CAL_TRCTL. -/
def execCalStart (_w : Writer) (stack : Nat) (v : W64) (s : State) : Res := onPage (hasStack s stack) (pgCal .zh8c stack + 0x80) s (trctlWrite s stack v)

/-- CAL_ABORT (R155): a write of CAL_TRCTL. -/
def execCalAbort (_w : Writer) (stack : Nat) (v : W64) (s : State) : Res := onPage (hasStack s stack) (pgCal .zh8c stack + 0x80) s (trctlWrite s stack v)

/-- TRAIN_DONE (R138). -/
def execTrainDone (stack : Nat) (run : HelperRun) (s : State) : Res :=
  onObj (hasStack s stack) s (endHelper s stack run.done run.wires)

/-- SKYLARK_STEP (R146). -/
def execSkylarkStep (stack ch wire : Nat) (wr : Bool) (below above : List Nat) (s : State) : Res :=
  onObj (hasCh s stack ch && wire < 64) s (skyStep s stack ch wire wr below above)

/-- MARGIN_MEASURE (R147). -/
def execMarginMeasure (stack ch wire : Nat) (reach : ShadowReach) (s : State) : Res :=
  onObj (hasCh s stack ch && wire < 64) s (measure s stack ch wire reach.below reach.above)

/-- LANE_CE_CLEAR (R148). -/
def execLaneCeClear (stack : Nat) (s : State) : Res :=
  onObj (hasStack s stack) s (s.updStack stack (fun x => { x with
    wires := x.wires.foldl (fun l p => tupd {} l p.1 (fun y => { y with laneCe := 0 })) x.wires }))

/-- WINDOW_WAIT_EXPIRY (R150): in memory mode the controller starts a burst to carry the window. -/
def execWindowWaitExpiry (stack ch : Nat) (s : State) : Res :=
  onObj (hasCh s stack ch) s
    (if chState s stack ch = 0 && windowReady s stack ch && !bursting s stack ch then startBurst s stack ch else s)

/-- WINDOW_DONE (R151). -/
def execWindowDone (stack ch : Nat) (found : List WireWin) (s : State) : Res :=
  onObj (hasCh s stack ch) s (endWindow s stack ch found)

/-- WINDOW_PERIOD_ELAPSED (R153): PERIOD_MS has run since the channel's last grant. -/
def execWindowPeriodElapsed (stack ch : Nat) (s : State) : Res :=
  onObj (hasCh s stack ch) s (burstRules (s.updChan stack ch (fun c => { c with windowHold := false })) stack ch)

end Sys2Proof.Machine
end

