-- ==== Sys2Proof/Machine/EccCmds.lean ====
section
/-! DEFINITION. The commands of the row code: parity cache, rebuilds, strength, Fallow map, Tedder (R104 to R135). -/
namespace Sys2Proof.Machine

/-- Whether the controller may write a line back now: its bank column is free, or in processor mode its unit is between
rows, a row that waits for its commit included (R118, R120). -/
def mayWriteback (s : State) (st ch bank : Nat) : Bool :=
  if chState s st ch = 0 then ((s.chan st ch).bank bank).corr.isNone && !bursting s st ch
  else match (s.unit (unitOf st ch bank)).run with
    | some r => !unitRowOpen (s.unit (unitOf st ch bank)) || rowDone ⟨unitOf st ch bank, s.unit (unitOf st ch bank), r⟩
    | none => true

/-- Every dirty line of a channel that may be written back is (R118). -/
def idleWriteback (s : State) (st ch : Nat) : State :=
  if queued s st ch ≠ 0 then s
  else forEach s (s.chan st ch).lines (fun s l =>
    if (s.chan st ch).lines.contains l && mayWriteback s st ch l.bank then writeback s st ch l else s)

/-- A flush completes (R121), and what waited for it goes on: the rewriting of a strength change. -/
def endFlush (s : State) (st : Nat) : State :=
  let e := pgEcc s.member st
  if flushing s st then reencode (setB (flushStack s st) e F.ECC_PCSTAT_FLUSHING false) st else s

/-- The oldest queued rebuild completes (R112): covered rows' failing sectors are kept as poisoned, and every slot of the
parity row is computed anew. DESIGN CHOICE (log 9): a covered row with failing sectors logs a record of kind UE. -/
def rebuildOne (s : State) (st : Nat) : State :=
  let e := pgEcc s.member st
  match (s.stack st).rebuild with
  | [] => s
  | (ch, b, row) :: l =>
    if chState s st ch ≠ 0 || !stackOpen s st || bursting s st ch || ((s.chan st ch).bank b).corr.isSome then s
    else
      let p : RowId := ⟨st, ch, b, row⟩
      let k := strength s st
      let s := forEach s (coveredRows s p) (fun s r =>
        let mask := failMask s r
        let s := forEach s (rowFlips s r) (fun s q => bakeSector s (r.sec + q.1))
        let s := { s with slotErrs := tset [] s.slotErrs (r.pa / 2048) [] }
        if mask = 0 then s else logUe s r 3 0 0xF000 mask)
      let s := s.updChan st ch (fun c => { c with lines := c.lines.filter (fun x => !(x.bank = b && parityRow k x.row = row)) })
      let s := { s with flips := tclr s.flips p.sec 32 }
      let s := s.updStack st (fun x => { x with rebuild := l, lost := x.lost.filter (· ≠ (ch, b, row)) })
      let s := charge s (pgDctl s.member st ch) 7 (holeRow k / (65536 - holeRow k) + 1)
      let s := charge s (pgDctl s.member st ch) 6 (32 * (holeRow k / (65536 - holeRow k) + 1))
      bumpF (event s e 3) e F.ECC_REBUILD_DONE

/-- A reformat ends and the stack serves requests again (R108). -/
def endReformat (s : State) (st : Nat) : State :=
  let e := pgEcc s.member st
  if reformatting s st && (s.stack st).oldStrength.isNone then admitStack (event (setF s e F.ECC_STRENGTH_REFORMAT 0) e 7) st else s

/-- `n` whole rows of a channel read: an activate and 32 sectors each (R459). -/
def chargeRows (s : State) (st ch n : Nat) : State :=
  charge (charge s (pgDctl s.member st ch) 7 n) (pgDctl s.member st ch) 6 (32 * n)

/-- A row read with correction (R127, R133): a failing data row is decoded, a failing parity row is corrected or queued for a
rebuild; one that found the queue full is queued now (R112). -/
def correctRow (s : State) (r : RowId) (kind : Nat) : State :=
  let parity := decide (holeRow (strength s r.st) ≤ r.row)
  if parity && (s.stack r.st).lost.contains (r.ch, r.bank, r.row) then queueRebuild s r
  else if failMask s r = 0 then s
  else if parity then (decodeParity s r 0xF000).2
  else (decodeRow s r kind 0 0xF000).2

/-- A row read by a Fallow copy, or visited by the Tedder (R127, R133); a parity row so opened takes its dirty lines (R118). -/
def visitRow (s : State) (r : RowId) (kind : Nat) : State :=
  let s := chargeRows s r.st r.ch 1
  correctRow (if holeRow (strength s r.st) ≤ r.row then openParity s r else s) r kind

/-- One row of the running Fallow copy (R133). -/
def copyOne (s : State) (st : Nat) : State :=
  let e := pgEcc s.member st
  match (s.stack st).copies with
  | [] => s
  | n :: _ =>
    let left := getF s e F.ECC_FALLOWSTAT_COPY_LEFT
    if left = 0 then s
    else
      let v := bwVal s (if n < 256 then e + 0x800 + 8 * n else e + 0x100 + 8 * (n - 256))
      let ch := fld v 0 5
      let bank := fld v 5 4
      if ((s.chan st ch).bank bank).corr.isSome || bursting s st ch then s
      else
        -- the logical row whose data stand in the row that is copied; none in a row that a spare row has replaced
        let row := if n < 256 then some (fld v 9 16) else copySource s st (fallowBankOf v) (s.stack st).copyRow
        let s := match row with
          | some row => visitRow s ⟨st, ch, bank, row⟩ 1
          | none => chargeRows s st ch 1
        let s := charge s (pgDctl s.member st ch) 6 32
        let s := setF s e F.ECC_FALLOWSTAT_COPY_LEFT (left - 1)
        s.updStack st (fun x => { x with copyRow := x.copyRow + 1 })

/-- The running Fallow copy is complete; the next one begins (R133). -/
def endCopy (s : State) (st : Nat) : State :=
  let e := pgEcc s.member st
  match (s.stack st).copies with
  | [] => s
  | n :: l =>
    if getF s e F.ECC_FALLOWSTAT_COPY_LEFT ≠ 0 then s
    else
      let s := event (setF (setF s e F.ECC_FALLOWSTAT_BUSY 0) e F.ECC_FALLOWSTAT_ENTRY 0) e 6
      startCopy (s.updStack st (fun x => { x with copies := l, redirected := x.redirected ++ [n] })) st

/-- The row at a Tedder position (R127). -/
def tedderRow (st p : Nat) : RowId := ⟨st, p / 16 % 32, p % 16, p / 512⟩

/-- A pass completes (R127, R128). -/
def passDone (s : State) (st : Nat) : State :=
  let e := pgEcc s.member st
  let x := s.stack st
  let s := setF s e F.ECC_SCRUBPOS_POSITION 0
  let s := bumpF s e F.ECC_SCRUBPOS_PASSES
  let s := setF s e F.ECC_SCRUBSTAT_LAST_PASS_MIN (Nat.min ((s.us - x.passFrom) / 60000000) (2 ^ 32 - 1))
  let s := event (setF s e F.ECC_SCRUBSTAT_BEHIND 0) e 4
  let period := getF s e F.ECC_CFG_SCRUB_PERIOD_H * 3600000000
  let next := Nat.max s.us (x.passFrom + period)
  s.updStack st (fun x => { x with passEnd := false, passFrom := next, dueAt := 0, dueUs := next })

/-- When the visit of a position of the running pass falls due (R127): evenly spread from the position and the moment at which the
pass began, or its period was last written. -/
def visitDue (s : State) (st p : Nat) : Nat :=
  (s.stack st).dueUs + (p - (s.stack st).dueAt) * (getF s (pgEcc s.member st) F.ECC_CFG_SCRUB_PERIOD_H * 3600000000) / 2 ^ 25

/-- A write of ECC_CFG (R127, R134, R472): a new period spreads the visits still to come from now on. -/
def scrubWrite (s : State) (st : Nat) (v : W64) : State :=
  let e := pgEcc s.member st
  let old := getF s e F.ECC_CFG_SCRUB_PERIOD_H
  let s := voidPlan (storeRW s (e + 0x88) v)
  if fld v 0 8 = old then s
  else s.updStack st (fun x => { x with dueAt := getF s e F.ECC_SCRUBPOS_POSITION, dueUs := Nat.max s.us x.passFrom })

/-- The Tedder finds slots for a row: its bank column is free of other work (R128). -/
def tedderSlots (s : State) (r : RowId) : Bool :=
  !bursting s r.st r.ch && ((s.chan r.st r.ch).bank r.bank).corr.isNone && ((s.chan r.st r.ch).bank r.bank).queue.isEmpty

/-- A visit of the Tedder that has fallen due (R127, R128): a position it skipped whose channel is free again, else the
next position; a visit that finds no slots waits. -/
def tedder (s : State) (st : Nat) : State :=
  let e := pgEcc s.member st
  let x := s.stack st
  let memory (p : Nat) : Bool := chState s st (tedderRow st p).ch = 0
  let free (p : Nat) : Bool := memory p && tedderSlots s (tedderRow st p)
  let finish (s : State) : State := if (s.stack st).passEnd && (s.stack st).skipped.isEmpty then passDone s st else s
  if getF s e F.ECC_CFG_SCRUB_PERIOD_H = 0 || !stackOpen s st || !x.passOn then s
  else match x.skipped.find? free with
    | some p =>
      finish (visitRow (s.updStack st (fun x => { x with skipped := setPut x.skipped p false })) (tedderRow st p) 2)
    | none =>
      if x.passEnd then s
      else
        let p := getF s e F.ECC_SCRUBPOS_POSITION
        let last := decide (p = 2 ^ 25 - 1)
        if s.us < visitDue s st p || (memory p && !free p) then s
        else
        let s := setF s e F.ECC_SCRUBPOS_POSITION (if last then p else p + 1)
        let s := s.updStack st (fun x => { x with passEnd := last, skipped := setPut x.skipped p (!memory p) })
        finish (if memory p then visitRow s (tedderRow st p) 2 else s)

/-- A pass overruns its period (R128). -/
def passLate (s : State) (st : Nat) : State :=
  let e := pgEcc s.member st
  let period := getF s e F.ECC_CFG_SCRUB_PERIOD_H * 3600000000
  if period ≠ 0 && (s.stack st).passOn && (s.stack st).passFrom + period ≤ s.us && getF s e F.ECC_SCRUBSTAT_BEHIND = 0 then
    event (setF s e F.ECC_SCRUBSTAT_BEHIND 1) e 5
  else s

/-! ## The commands -/

/-- PARITY_REBUILD_DONE (R112). -/
def execParityRebuildDone (stack : Nat) (s : State) : Res := onObj (hasStack s stack) s (rebuildOne s stack)

/-- PARITY_WRITEBACK (R118): the line at a place among the dirty lines, oldest first. -/
def execParityWriteback (stack ch line : Nat) (s : State) : Res :=
  onObj (hasCh s stack ch) s (match (s.chan stack ch).lines[line]? with
    | some l => if mayWriteback s stack ch l.bank then writeback s stack ch l else s
    | none => s)

/-- PARITY_IDLE_TIMEOUT (R118). -/
def execParityIdleTimeout (stack ch : Nat) (s : State) : Res := onObj (hasCh s stack ch) s (idleWriteback s stack ch)

/-- PCFLUSH (R121). -/
def execPcflush (_w : Writer) (stack : Nat) (v : W64) (s : State) : Res :=
  onPage (hasStack s stack) (pgEcc .zh8c stack + 0xB8) s (if bitOf v 0 then startFlush s stack else s)

/-- FLUSH_DONE (R121). -/
def execFlushDone (stack : Nat) (s : State) : Res := onObj (hasStack s stack) s (endFlush s stack)

/-- ECC_STRENGTH (R108). -/
def execEccStrength (w : Writer) (stack : Nat) (v : W64) (s : State) : Res := onPage (hasStack s stack) (pgEcc .zh8c stack + 0x80) s (strengthWrite s w stack v)

/-- REFORMAT_DONE (R108). -/
def execReformatDone (stack : Nat) (s : State) : Res := onObj (hasStack s stack) s (endReformat s stack)

/-- FALLOW_ROW (R131). -/
def execFallowRow (w : Writer) (stack i : Nat) (v : W64) (s : State) : Res :=
  onPage (hasStack s stack && i < 256) (pgEcc .zh8c stack + 0x800 + 8 * i) s (fallowRowWrite s w stack i v)

/-- FALLOW_BANK (R131). -/
def execFallowBank (w : Writer) (stack n : Nat) (v : W64) (s : State) : Res :=
  onPage (hasStack s stack && n < 2) (pgEcc .zh8c stack + 0x100 + 8 * n) s (fallowBankWrite s w stack n v)

/-- FALLOW_COPY_ROW (R133). -/
def execFallowCopyRow (stack : Nat) (s : State) : Res := onObj (hasStack s stack) s (copyOne s stack)

/-- FALLOW_DONE (R133). -/
def execFallowDone (stack : Nat) (s : State) : Res := onObj (hasStack s stack) s (endCopy s stack)

/-- TEDDER_VISIT (R127); `media` are the media errors that have appeared. -/
def execTedderVisit (stack : Nat) (media : List Flip) (s : State) : Res :=
  onObj (hasStack s stack) s (tedder (s.addFlips media) stack)

/-- SCRUB_LATE (R128). -/
def execScrubLate (stack : Nat) (s : State) : Res := onObj (hasStack s stack) s (passLate s stack)

/-- SCRUB_PERIOD_WRITE (R127, R134, R472): a write of ECC_CFG. -/
def execScrubPeriodWrite (_w : Writer) (stack : Nat) (v : W64) (s : State) : Res :=
  onPage (hasStack s stack) (pgEcc .zh8c stack + 0x88) s (scrubWrite s stack v)

end Sys2Proof.Machine
end

