-- ==== Sys2Proof/Machine/Cxl.lean ====
section
/-! DEFINITION. The CXL host interface (R439 to R455): CXL.mem requests, the mailbox, resets of the CXL core and its link. -/
namespace Sys2Proof.Machine

/-- The part address of a DPA (R440). -/
def dpaToPa (dpa : Nat) : Nat := dpa + 2 ^ 31

/-- Memory_Active (R452). -/
def memActive (s : State) : Bool := getF s pgCxl F.CXL_MEM_ACTIVE = 1

/-- A stack in service: boot training is over and its intakes are open (R444). -/
def stackActive (s : State) (st : Nat) : Bool := stackOpen s st && (s.stack st).trained

/-- A CXL.mem request for a 64 B line (R442, R444): `data` is empty for a read. -/
def cxlMem (s : State) (dpa : Nat) (write : Bool) (data : List (Option Byte)) (poison : Bool) : State :=
  let line := dpa / 64 * 64
  let a := dpaToPa line
  let now (s : State) : State := if write then cxlWriteDone s dpa else cxlReadDone s dpa (List.replicate 64 0) true
  if s.member.hdmSpan ≤ dpa then now (recordErr s pgCxl 0x0E14 (bits dpa 12 32))
  else if !memActive s then now (bumpF (recordErr s pgCxl 0x0E10 (bits dpa 6 32)) pgCxl F.CXL_NOTACTIVE_COUNT)
  else if !stackActive s (paStack a) then now (bumpF (recordErr s pgCxl 0x0E11 (paStack a)) pgCxl F.CXL_NOTACTIVE_COUNT)
  else
    let s := if write && poison then event (bumpF s pgCxl F.CXL_POISON_IN) pgCxl 4 else s
    arrive s { src := 0x2000, pa := a, nsec := 1, write := write, data := data, poison := [poison], tag := dpa, bypass := 0 }

/-- The 64 bytes of a line, missing ones not enabled. -/
def lineOf (l : List (Option Byte)) : List (Option Byte) := (List.range 64).map (fun i => l.getD i none)

/-- MEMRD (R442). -/
def execMemrd (dpa : Nat) (s : State) : Res := .next (cxlMem s dpa false [] false)

/-- MEMWR (R442): every byte of the line is written. -/
def execMemwr (dpa : Nat) (data : List Byte) (poison : Bool) (s : State) : Res :=
  .next (cxlMem s dpa true ((List.range 64).map (fun i => some (data.getD i 0))) poison)

/-- MEMWRPTL (R442): only the enabled bytes are written. -/
def execMemwrptl (dpa : Nat) (data : List (Option Byte)) (poison : Bool) (s : State) : Res :=
  .next (cxlMem s dpa true (lineOf data) poison)

/-! ## The mailbox (R448 to R450) -/

/-- Return codes: 0 Success, 1 Background Command Started, 2 Invalid Input, 3 Unsupported, 4 Internal Error, 6 Busy, 9 FW
Transfer Out of Order, 0xB Invalid Slot, 0xE Invalid Handle. -/
abbrev Answer := Nat × List Nat × State

/-- A mailbox command completes (R448, R454): vector 1 signals it. -/
def mboxDone (s : State) (op rc : Nat) (words : List Nat) : State :=
  let s := setF (setF s pgCxl F.CXL_MBOX_LAST_OPCODE op) pgCxl F.CXL_MBOX_LAST_RC rc
  let s := if rc = 1 then s else bumpF s pgCxl F.CXL_MBOX_COMMANDS
  let s := if rc = 4 then recordErr s pgCxl 0x0E13 op else s
  { s.emit (.mbox rc words) with vecSent := s.vecSent.filter (· ≠ 1), cxl := { s.cxl with mboxDone := true } }

/-- The part is in RECOVERY (R495). -/
def inRecovery (s : State) : Bool := getF s pgSec F.SEC_BOOT_STATE = 5

/-- A mailbox command served by the lead Uzoid core (R448, R486, R495). -/
def mbox (s : State) (op : Nat) (f : State → Answer) : State :=
  if !s.cxl.configReady then s
  else if leadDown s || (inRecovery s && op / 256 ≠ 2) then mboxDone s op 6 []
  else
    let (rc, words, s) := f s
    mboxDone s op rc words

/-- A range of DPAs lies in the span (R448). -/
def inSpan (s : State) (dpa len : Nat) : Bool := decide (dpa < s.member.hdmSpan) && decide (dpa + len ≤ s.member.hdmSpan)

/-- Get Event Records (R449): at most 31 records of 128 B in a 4 KiB payload. -/
def getEvents (s : State) (max : Nat) : Answer :=
  let l := s.cxl.events.take (Nat.min max 31)
  (0, b2n (decide (l.length < s.cxl.events.length)) ::
    l.flatMap (fun (r : EvRec) => [r.handle, r.kind, r.arg, b2n r.corrected, r.us]), s)

/-- Clear Event Records (R449). -/
def clearEvents (s : State) (all : Bool) (handles : List Nat) : Answer :=
  if all then (0, [], { s with cxl := { s.cxl with events := [] } })
  else if handles.all (fun h => s.cxl.events.any (·.handle = h)) then
    (0, [], { s with cxl := { s.cxl with events := s.cxl.events.filter (fun r => !handles.contains r.handle) } })
  else (0xE, [], s)

/-- The device timestamp in ns (R448); 0 until it has been set. -/
def timestamp (s : State) : Nat :=
  if s.cxl.stampBase = 0 then 0 else (s.cxl.stampBase.toNat + (s.us - s.cxl.stampUs) * 1000) % 2 ^ 64

/-- The opcodes of R448. -/
def opcodes : List Nat :=
  [0x0100, 0x0101, 0x0102, 0x0103, 0x0200, 0x0201, 0x0202, 0x0300, 0x0301, 0x0400, 0x0401, 0x4000, 0x4200, 0x4300, 0x4301,
   0x4302, 0x4303, 0x4304, 0x4305, 0xC000, 0xC001, 0xC002]

/-- The Command Effects Log (R448): an opcode and its effects, two bytes each. -/
def effectsLog : List Nat :=
  opcodes.flatMap (fun o => [o % 256, o / 256, Config.commandEffect o % 256, Config.commandEffect o / 256 % 256])

/-- The sectors that a log record names. -/
def recSectors (st : Nat) (r : Rec4) : List Nat :=
  let w := r.getD 1 0
  let row : RowId := ⟨st, fld w 0 5, fld w 5 4, fld w 9 16⟩
  (onesOf 32 (fld w 32 32)).map (row.sec + ·)

/-- Kind of a log record (R130). -/
def recKind (r : Rec4) : Nat := fld (r.getD 0 0) 32 8

/-- The sectors of the poison list (R450): those of UE and MISCORRECT records, and injected ones, that are still poisoned; by
number, and whether injected. -/
def poisonList (s : State) (dpa len : Nat) : List (Nat × Bool) :=
  let logged := (List.range s.member.stackCount).flatMap (fun st =>
    ((s.stack st).log.filter (fun p => recKind p.2 = 3 || recKind p.2 = 4)).flatMap (fun p => recSectors st p.2))
  let all := (s.cxl.injected ++ logged).eraseDups
  let l := all.filter (fun k => secClass s k = 1 && dpaToPa dpa ≤ k * 64 && k * 64 < dpaToPa (dpa + len))
  (l.mergeSort (fun a b => a ≤ b)).map (fun k => (k, s.cxl.injected.contains k))

/-- Get Poison List (R450): at most 254 records of 16 B in the payload. -/
def getPoison (s : State) (dpa len : Nat) : Answer :=
  if !inSpan s dpa len then (2, [], s)
  else
    let l := poisonList s dpa len
    (0, b2n (decide (254 < l.length)) :: (l.take 254).flatMap (fun (p : Nat × Bool) => [p.1 * 64 - 2 ^ 31, 64, if p.2 then 3 else 2]), s)

/-- A line written by the mailbox core, its sector corrected first where it fails (R115, R450). -/
def mailWrite (s : State) (a : Nat) (data : Option (List Byte)) : State :=
  let k := a / 64
  let s := if data.isNone && secClass s k = 2 then (decodeRow s (rowAt a) 1 0 0x2000).2 else s
  let s := writeSector s k (((data.getD (secRaw s k))).map some) data.isNone
  dirtyLine s (rowAt a) false 0x2000

/-- Inject Poison (none) or Clear Poison (the line's data) (R450). -/
def poisonCmd (s : State) (dpa : Nat) (data : Option (List Byte)) : Answer :=
  let a := dpaToPa dpa
  if !inSpan s dpa 64 || dpa % 64 ≠ 0 || inHole s a || (data.any (·.length ≠ 64)) then (2, [], s)
  else if !stackActive s (paStack a) then (6, [], s)
  else
    let s := mailWrite s a data
    (0, [], if data.isNone then { s with cxl := { s.cxl with injected := setIns (a / 64) s.cxl.injected } } else s)

/-- Get Scan Media Capabilities: the estimated time is not stated (R448). -/
def scanCaps (s : State) (dpa len : Nat) : Answer :=
  if !inSpan s dpa len then (2, [], s) else let (w, s) := s.draw; (0, [w.toNat], s)

/-- Scan Media begins in the background (R450). -/
def startScan (s : State) (dpa len : Nat) : Answer :=
  if !inSpan s dpa len || len = 0 then (2, [], s)
  else if s.cxl.scan.isSome then (6, [], s)
  else (1, [], { s with cxl := { s.cxl with scan := some (dpa, len) } })

/-- Rows of a channel among the first `n` row numbers: 16 consecutive rows of every 512 (R36). -/
def rowsBelow (ch n : Nat) : Nat := n / 512 * 16 + Nat.min 16 (n % 512 - 16 * ch)

/-- A stack's part of a Scan Media, read in the Tedder's manner (R127, R450): the rows of channels in memory mode; answers the
UE records logged. -/
def scanStack (s : State) (st k0 k1 : Nat) : State × List Rec4 :=
  let e := pgEcc s.member st
  let lo := Nat.max k0 (2 ^ 25 * st)
  let hi := Nat.min k1 (2 ^ 25 * (st + 1))
  if hi ≤ lo || !stackActive s st then (s, [])
  else
    let first := getF s e F.ECC_LOGSTAT_NEXT_SEQ
    let free (ch : Nat) : Bool := chState s st ch = 0
    let s := forEach s ((List.range 32).filter free) (fun s ch => chargeRows s st ch (rowsBelow ch hi - rowsBelow ch lo))
    let rows := (((s.flips.map (fun (p : Nat × List Nat) => p.1 / 32)).filter (fun k => lo ≤ k && k < hi)).eraseDups).filter
      (fun k => free (paCh (k * 2048)))
    let s := forEach s rows (fun s k => correctRow s (rowAt (k * 2048)) 2)
    let n := (getF s e F.ECC_LOGSTAT_NEXT_SEQ - first) % 2 ^ 32
    let recs := (List.range (Nat.min n 1024)).map (fun i => tget [] (s.stack st).log ((first + n - Nat.min n 1024 + i) % 1024))
    (s, recs.filter (fun r => recKind r = 3))

/-- A Scan Media's rows, stack by stack. -/
def scanAll (s : State) (k0 k1 : Nat) : State × List Rec4 :=
  (List.range s.member.stackCount).foldl
    (fun (x : State × List Rec4) st => let (s, r) := scanStack x.1 st k0 k1; (s, x.2 ++ r)) (s, [])

/-- The background Scan Media completes (R450). -/
def endScan (s : State) : State :=
  match s.cxl.scan with
  | none => s
  | some (dpa, len) =>
    let k0 := dpaToPa dpa / 2048
    let k1 := (dpaToPa (dpa + len) + 2047) / 2048
    let (s, l) := scanAll s k0 k1
    let s := bumpF s pgCxl F.CXL_MBOX_COMMANDS
    { s with
      vecSent := s.vecSent.filter (· ≠ 1)
      cxl := { s.cxl with scan := none, scanFound := l, mboxDone := true } }

/-- The holes that lie in the span, as DPA base and length (R44, R441). -/
def reserved (s : State) : List (Nat × Nat) :=
  (List.range s.member.stackCount).filterMap (fun st =>
    let lo := paOf st (holeRow (strength s st)) 0 0 - 2 ^ 31
    let hi := Nat.min (2 ^ 36 * (st + 1) - 2 ^ 31) s.member.hdmSpan
    if lo < hi then some (lo, hi - lo) else none)

/-- GET_STACK_LOG (R448): up to 128 records of a stack's ring from a place on. -/
def stackLog (s : State) (st index count : Nat) : Answer :=
  if s.member.stackCount ≤ st || 1024 ≤ index || count = 0 || 128 < count then (2, [], s)
  else (0, (List.range count).flatMap (fun i =>
    let r := tget [] (s.stack st).log ((index + i) % 1024)
    (List.range 4).map (fun j => (r.getD j 0).toNat)), s)

/-! ## Firmware slots (R497 to R499) -/

/-- An owner key is set (R506). -/
def ownerSet (s : State) : Bool := s.flash.owner.any (· ≠ 0)

/-- SEC_ARB.VERSION (R498). -/
def arbVersion (s : State) : Nat := fld (bwVal s (pgSec + 0x90)) 0 7

/-- The first check of R497 that an image fails, counted from 1: those that the model's own state decides are 4 (SVN) and 6
(the countersignature, needed only with an owner key). -/
def imageFails (s : State) (img : FwImage) : Option Nat :=
  let svn := img.svn < arbVersion s || 64 < img.svn
  match img.failed with
  | some n =>
    if n < 4 then some n else if svn then some 4 else if n = 4 || (n = 6 && !ownerSet s) then none else some n
  | none => if svn then some 4 else none

/-- The running slot, if firmware runs. -/
def runningSlot (s : State) : Option Nat := if inRecovery s then none else some (getF s pgSec F.SEC_BOOT_SLOT)

/-- A slot's image; none where it is invalid. -/
def slotImage (s : State) (k : Nat) : Option FwImage := tget none s.cxl.slots k

/-- A slot's image set. -/
def setSlotImage (s : State) (k : Nat) (i : Option FwImage) : State := { s with cxl := { s.cxl with slots := tset none s.cxl.slots k i } }

/-- Get FW Info (R499): slots, running slot, activated slot, versions, online activation not supported. -/
def fwInfo (s : State) : Answer :=
  (0, [2, (runningSlot s).elim 0 (· + 1), s.flash.activated + 1,
    ((slotImage s 0).elim 0 (fun i => i.version.toNat)), ((slotImage s 1).elim 0 (fun i => i.version.toNat)), 0], s)

/-- The end of a Transfer FW: the slot is verified (R497, R499). -/
def endTransfer (s : State) (k : Nat) (img : FwImage) : Answer :=
  let s := { s with cxl := { s.cxl with transfer := none } }
  match imageFails s img with
  | some n => (2, [], recordErr (setSlotImage s k none) pgSec 0x1410 (k + n * 16))
  | none => (0, [], event (setSlotImage s k (some img)) pgSec 6)

/-- Transfer FW to slot 1 or 2 (R499). -/
def transferFw (s : State) (act : FwAct) (slot : Nat) (img : FwImage) : Answer :=
  let k := slot - 1
  let start (s : State) : State := setSlotImage { s with cxl := { s.cxl with transfer := some k } } k none
  if slot = 0 || 2 < slot || runningSlot s = some k || s.flash.activated = k then (0xB, [], s)
  else match act with
    | .initiate => if s.cxl.transfer.isSome then (8, [], s) else (0, [], start s)
    | .full => if s.cxl.transfer.isSome then (8, [], s) else endTransfer (start s) k img
    | .continue_ => if s.cxl.transfer = some k then (0, [], s) else (9, [], s)
    | .end_ => if s.cxl.transfer = some k then endTransfer s k img else (9, [], s)
    | .abort_ => if s.cxl.transfer = some k then (0, [], { s with cxl := { s.cxl with transfer := none } }) else (9, [], s)

/-- Activate FW (R499). -/
def activateFw (s : State) (slot : Nat) (online : Bool) : Answer :=
  if online then (3, [], s)
  else if slot = 0 || 2 < slot || (slotImage s (slot - 1)).isNone then (2, [], s)
  else (0, [], { s with flash := { s.flash with activated := slot - 1 } })

/-! ## The mailbox commands -/

/-- GET_EVENT_RECORDS (R449). -/
def execGetEventRecords (max : Nat) (s : State) : Res := .next (mbox s 0x0100 (getEvents · max))
/-- CLEAR_EVENT_RECORDS (R449). -/
def execClearEventRecords (all : Bool) (handles : List Nat) (s : State) : Res := .next (mbox s 0x0101 (clearEvents · all handles))
/-- GET_EVENT_INTERRUPT_POLICY (R448). -/
def execGetEventInterruptPolicy (s : State) : Res := .next (mbox s 0x0102 (fun s => (0, [s.cxl.policy.toNat], s)))
/-- SET_EVENT_INTERRUPT_POLICY (R448). -/
def execSetEventInterruptPolicy (policy : W64) (s : State) : Res :=
  .next (mbox s 0x0103 (fun s => (0, [], { s with cxl := { s.cxl with policy := policy } })))
/-- GET_FW_INFO (R499). -/
def execGetFwInfo (s : State) : Res := .next (mbox s 0x0200 fwInfo)
/-- TRANSFER_FW (R499). -/
def execTransferFw (act : FwAct) (slot : Nat) (img : FwImage) (s : State) : Res := .next (mbox s 0x0201 (transferFw · act slot img))
/-- ACTIVATE_FW (R499). -/
def execActivateFw (slot : Nat) (online : Bool) (s : State) : Res := .next (mbox s 0x0202 (activateFw · slot online))
/-- GET_TIMESTAMP (R448). -/
def execGetTimestamp (s : State) : Res := .next (mbox s 0x0300 (fun s => (0, [timestamp s], s)))
/-- SET_TIMESTAMP (R448). -/
def execSetTimestamp (t : W64) (s : State) : Res :=
  .next (mbox s 0x0301 (fun s => (0, [], { s with cxl := { s.cxl with stampBase := t, stampUs := s.us } })))
/-- GET_SUPPORTED_LOGS (R448): the Command Effects Log and its size. -/
def execGetSupportedLogs (s : State) : Res := .next (mbox s 0x0400 (fun s => (0, [1, effectsLog.length], s)))
/-- GET_LOG (R448). -/
def execGetLog (offset len : Nat) (s : State) : Res :=
  .next (mbox s 0x0401 (fun s =>
    if effectsLog.length < offset + len then (2, [], s) else (0, (effectsLog.drop offset).take len, s)))
/-- IDENTIFY_MEMORY_DEVICE (R440): total, volatile-only and persistent-only capacity in 256 MiB units. -/
def execIdentifyMemoryDevice (s : State) : Res :=
  .next (mbox s 0x4000 (fun s => (0, [s.member.hdmSpan / 2 ^ 28, s.member.hdmSpan / 2 ^ 28, 0], s)))
/-- GET_HEALTH_INFO (R448): the highest STK_TEMP reading, and life used 0. -/
def execGetHealthInfo (s : State) : Res :=
  .next (mbox s 0x4200 (fun s =>
    (0, [((List.range s.member.stackCount).map (fun st => getF s (pgStk s.member st) F.STK_TEMP_CUR)).foldl max 0, 0], s)))
/-- GET_POISON_LIST (R450). -/
def execGetPoisonList (dpa len : Nat) (s : State) : Res := .next (mbox s 0x4300 (getPoison · dpa len))
/-- INJECT_POISON (R450). -/
def execInjectPoison (dpa : Nat) (s : State) : Res := .next (mbox s 0x4301 (poisonCmd · dpa none))
/-- CLEAR_POISON (R450). -/
def execClearPoison (dpa : Nat) (data : List Byte) (s : State) : Res := .next (mbox s 0x4302 (poisonCmd · dpa (some data)))
/-- GET_SCAN_MEDIA_CAPABILITIES (R448). -/
def execGetScanMediaCapabilities (dpa len : Nat) (s : State) : Res := .next (mbox s 0x4303 (scanCaps · dpa len))
/-- SCAN_MEDIA (R450). -/
def execScanMedia (dpa len : Nat) (s : State) : Res := .next (mbox s 0x4304 (startScan · dpa len))
/-- SCAN_MEDIA_DONE (R450). -/
def execScanMediaDone (s : State) : Res := .next (endScan s)
/-- GET_SCAN_MEDIA_RESULTS (R450): at most 127 records of 32 B in the payload. -/
def execGetScanMediaResults (s : State) : Res :=
  .next (mbox s 0x4305 (fun s =>
    (0, b2n (decide (127 < s.cxl.scanFound.length)) :: (s.cxl.scanFound.take 127).flatMap (fun (r : Rec4) => r.map BitVec.toNat), s)))
/-- GET_RESERVED (R441). -/
def execGetReserved (s : State) : Res := .next (mbox s 0xC000 (fun s => (0, (reserved s).flatMap (fun p => [p.1, p.2]), s)))
/-- GET_STACK_LOG (R448). -/
def execGetStackLog (stack index count : Nat) (s : State) : Res := .next (mbox s 0xC001 (stackLog · stack index count))
/-- GET_FAULT_RECORD (R448): REC0 to REC7 of die 0. -/
def execGetFaultRecord (s : State) : Res :=
  .next (mbox s 0xC002 (fun s => (0, (List.range 8).map (fun w => getF s (pgFlt 0) F.FLT_REC w), s)))

/-! ## Resets of the CXL core and the link (R453) -/

/-- A CXL.mem request in flight marked so that its completion is discarded. -/
def markReq (r : Req) : Req := if r.src = 0x2000 && r.tag < 2 ^ 64 then { r with tag := r.tag + 2 ^ 64 } else r

/-- A command access in flight marked so. -/
def markAcc (a : Access) : Access := if a.src = 0x2000 && a.tag < 2 ^ 64 then { a with tag := a.tag + 2 ^ 64 } else a

/-- The CXL.mem requests in flight in a channel, and the channel with them marked. -/
def markChan (c : Channel) : Nat × Channel :=
  let live (r : Req) : Bool := r.src = 0x2000 && r.tag < 2 ^ 64
  let acc (a : Access) : Bool := a.src = 0x2000 && a.tag < 2 ^ 64
  let all := c.parked ++ c.blocked ++ c.banks.flatMap (fun (p : Nat × Bank) => p.2.queue)
  let held := c.held.filter acc
  let groups := ((held.filter (·.grp ≠ 0)).map (·.grp)).eraseDups.length
  let late (x : Req ⊕ Access) : Bool := match x with | .inl r => live r | .inr a => acc a
  let n := (all.filter live).length + (c.stalled.filter late).length + (c.intake.filter acc).length + (held.filter (·.grp = 0)).length + groups
  (n, { c with
    parked := c.parked.map markReq
    blocked := c.blocked.map markReq
    stalled := c.stalled.map (fun x => match x with | .inl r => .inl (markReq r) | .inr a => .inr (markAcc a))
    intake := c.intake.map markAcc
    held := c.held.map markAcc
    banks := c.banks.map (fun (p : Nat × Bank) => (p.1, { p.2 with queue := p.2.queue.map markReq, corr := p.2.corr.map markReq })) })

/-- Configuration, mailbox and event state cleared; completions of the requests in flight are discarded, which is recorded
(R453). -/
def resetCxl (s : State) : State :=
  let l := s.chans.map (fun (p : Nat × Channel) => (p.1, markChan p.2))
  let n := (l.map (fun p => p.2.1)).sum + s.cxl.unsent.length
  let s := { s with
    chans := l.map (fun p => (p.1, p.2.2))
    vecMask := List.range 64
    vecPend := []
    vecTable := []
    funcMask := false
    cxl := { s.cxl with events := [], nextHandle := 1, policy := 0x01010101, scan := none, scanFound := [], mboxDone := false, unsent := [] } }
  settleVec (if n = 0 then s else recordErr s pgCxl 0x0E12 n)

/-- FUNCTION_LEVEL_RESET (R453). -/
def execFunctionLevelReset (s : State) : Res := .next (event (resetCxl s) pgCxl 5)

/-- HOT_RESET, or the link going down (R453): the link is down until it has trained again. -/
def execHotReset (s : State) : Res :=
  let up := getF s pgCxl F.CXL_LINK_STATE = 2
  let s := resetCxl s
  let s := [F.CXL_LINK_STATE, F.CXL_LINK_WIDTH, F.CXL_LINK_RATE, F.CXL_LINK_FLIT256].foldl (fun s f => setF s pgCxl f 0) s
  .next (if up then event s pgCxl 1 else s)

/-- CXL_LINK_UP (R439, R455): x16, x8 or x4; 64 GT/s alone uses 256 B flits. -/
def execCxlLinkUp (width rate : Nat) (flit256 : Bool) (s : State) : Res :=
  if [4, 8, 16].contains width && rate < 4 && (flit256 == (rate == 3)) && s.cxl.configReady then
    let s := setF (setF s pgCxl F.CXL_LINK_STATE 2) pgCxl F.CXL_LINK_WIDTH width
    .next (event (setB (setF s pgCxl F.CXL_LINK_RATE rate) pgCxl F.CXL_LINK_FLIT256 flit256) pgCxl 0)
  else .next s

end Sys2Proof.Machine
end

