-- ==== Sys2Proof/Machine/Fetch.lean ====
section
/-! DEFINITION. Fetches of the part's control paths (R41, R42): planner input, staged owner-table entries and instruction images,
which are requests of a Uzoid core's source identifier (R80); and the fetches of descriptors and owner-table entries from the
system region (R40, R291, R294). -/
namespace Sys2Proof.Machine

/-! ## Fetches of memory -/

/-- A sector that memory backs, outside the holes. -/
def soundSec (s : State) (k : Nat) : Bool := backed s.member (k * 64) && !inHole s (k * 64)

/-- Bytes fetched from memory now: failing rows are decoded as for a read, a hole reads as poisoned zeros (R39), an unbacked
address as zeros. Answers the bytes and whether any touched sector is poisoned. -/
def fetchMem (s : State) (src a n : Nat) : List Byte × Bool × State :=
  let secs := sectorsOf a n
  let bad := (secs.filter (fun k => soundSec s k && secClass s k = 2)).map (· / 32)
  let s := forEach s bad.eraseDups (fun s row => (decodeRow s (rowAt (row * 2048)) 1 0 src).2)
  let holes := (secs.filter (fun k => backed s.member (k * 64) && inHole s (k * 64)))
  let s := forEach s ((holes.map (· / 32)).eraseDups) (fun s row =>
    logHole s (rowAt (row * 2048)) 7 src ((holes.filter (fun k => k / 32 = row)).map (fun k => 2 ^ (k % 32))).sum)
  let all := secs.flatMap (fun k => if soundSec s k then secRaw s k else List.replicate 64 0)
  ((all.drop (a % 64)).take n, secs.any (fun k => backed s.member (k * 64) && (inHole s (k * 64) || secClass s k = 1)), s)

/-- A sector can be read now: its channel is in memory mode and takes requests, no decode holds its bank column, and no write of the
source that touches it waits there (R42, R81, R174). -/
def fetchClear (s : State) (src k : Nat) : Bool :=
  let a := k * 64
  let c := s.chan (paStack a) (paCh a)
  let b := c.bank (paBank a)
  chState s (paStack a) (paCh a) = 0 && stackOpen s (paStack a) && b.corr.isNone
    && !(b.queue ++ c.parked ++ c.blocked).any (fun r => r.src = src && r.write && r.pa / 64 ≤ k && k < r.pa / 64 + r.nsec)

/-- The tag of the requests of a fetch: no command gives such a one. -/
def fetchTag (no : Nat) : Nat := 2 ^ 64 + no

/-- A fetch of a user: its bytes and whether any is poisoned, once they are there. Where its channels can serve it at once they do;
else its requests go to them, are queued or parked like any other (R42, R174), and the user asks again. -/
def ctlFetch (s : State) (user src a n : Nat) : Option (List Byte × Bool) × State :=
  let answer (f : Fetch) : List Byte × Bool :=
    let l := f.got.mergeSort (fun x y => x.1 ≤ y.1)
    (((l.flatMap (fun x => x.2.1)).drop (a % 64)).take n, l.any (fun x => x.2.2.any id))
  match s.fetches.find? (fun f => f.user = user && f.pa = a && f.n = n) with
  | some f => (if f.left = 0 then some (answer f) else none, s)
  | none =>
    let no := s.nextFetch
    let secs := sectorsOf a n
    let s := { s with nextFetch := no + 1 }
    if secs.all (fun k => !soundSec s k || fetchClear s src k) then
      let (b, z, s) := fetchMem s src (a / 64 * 64) (64 * secs.length)
      let f : Fetch := ⟨user, a, n, no, 0, [(a / 64 * 64, b, [z])]⟩
      (some (answer f), { s with fetches := s.fetches ++ [f] })
    else
      let there := secs.filter (fun k => backed s.member (k * 64))
      let zero := (secs.filter (fun k => !backed s.member (k * 64))).map (fun k => (k * 64, List.replicate 64 (0 : Byte), [false]))
      let s := { s with fetches := s.fetches ++ [⟨user, a, n, no, there.length, zero⟩] }
      (none, forEach s there (fun s k =>
        memRequest s { src := src, pa := k * 64, nsec := 1, write := false, data := [], poison := [], tag := fetchTag no, bypass := 0 }))

/-- What a user has fetched is given up: its command has ended. -/
def dropFetch (s : State) (user : Nat) : State := { s with fetches := s.fetches.filter (·.user ≠ user) }

/-! ## Descriptors and owner tables (R40) -/

/-- The sector of the system region that holds half `i` of a descriptor: a place that the manual does not give. -/
def descSec (h i : Nat) : Nat := Config.sysSector 0 (h * 2 + i) % 2 ^ 25

/-- The sector of the system region that holds an entry of a published table. -/
def ownSec (t entry : Nat) : Nat := Config.sysSector (1 + t) (entry / 8) % 2 ^ 25

/-- Sectors fetched by the lead core's paths: rows that fail are decoded; whether one is poisoned. -/
def sysFetch (s : State) (l : List Nat) : Bool × State :=
  let s := forEach s (l.filter (fun k => secClass s k = 2)) (fun s k => (decodeRow s (rowAt (k * 64)) 1 0 0x3000).2)
  (l.any (fun k => secClass s k = 1), s)

/-- A sector of the system region written by the part: it holds no poison and no media error. -/
def sysStore (s : State) (l : List Nat) : State := forEach s l (fun s k => (s.setPoison (k * 64) false).clrFlips k)

/-- The descriptor fetches of an instruction (R291, R304): whether poison bit. -/
def descFetch (s : State) (handles : List Nat) : Bool × State :=
  let (bad, s) := sysFetch s (handles.flatMap (fun h => [descSec h 0, descSec h 1]))
  if bad then (true, bite (recordErr s pgDesc 0x1110 0) 0 0x11 128 0x1110 0) else (false, s)

/-- The owner-table fetches of an instruction, by table and entry (R294, R306): whether poison bit. -/
def ownFetch (s : State) (l : List (Nat × Nat)) : Bool × State :=
  let (bad, s) := sysFetch s (l.map (fun e => ownSec e.1 e.2))
  if bad then (true, bite (recordErr s pgOwn 0x1A10 0) 0 0x1A 0 0x1A10 0) else (false, s)

end Sys2Proof.Machine
end

