-- ==== Sys2Proof/Machine/Operands.lean ====
section
/-! DEFINITION. Tensor descriptors: fields, element classes and addresses (R278 to R283), and the reference counts of
allocations (R285, R291). -/
namespace Sys2Proof.Machine

/-- KIND: 0 DRAM, 1 TILE, 2 REMOTE. -/
def dKind (d : List W64) : Nat := bits (descW d 0) 0 2
/-- VALID. -/
def dValid (d : List W64) : Bool := bit (descW d 0) 2
/-- PINNED. -/
def dPinned (d : List W64) : Bool := bit (descW d 0) 3
/-- ETYPE (R280). -/
def dType (d : List W64) : Nat := bits (descW d 0) 8 4
/-- RANK. -/
def dRank (d : List W64) : Nat := bits (descW d 0) 12 3
/-- LOCAL_ONLY (R297). -/
def dLocalOnly (d : List W64) : Bool := bit (descW d 0) 16
/-- ACCUM_DEST (R301). -/
def dAccum (d : List W64) : Bool := bit (descW d 0) 17
/-- READ_ONLY. -/
def dReadOnly (d : List W64) : Bool := bit (descW d 0) 18
/-- POISON_BITE. -/
def dBite (d : List W64) : Bool := bit (descW d 0) 19
/-- NARROW. -/
def dNarrow (d : List W64) : Bool := bit (descW d 0) 20
/-- ALLOC_ID. -/
def dAlloc (d : List W64) : Nat := bits (descW d 0) 32 10
/-- TABLE. -/
def dTable (d : List W64) : Nat := bits (descW d 0) 48 5
/-- BASE: the part address, or the SRAM address of a TILE descriptor. -/
def dBase (d : List W64) : Nat := if dKind d = 1 then bits (descW d 1) 0 24 else bits (descW d 1) 0 41
/-- The tile of a TILE descriptor. -/
def dTile (d : List W64) : Nat := bits (descW d 1) 32 9
/-- Width of an element type in bits (R280). -/
def elemWidth (ty : Nat) : Nat := if ty = 4 || ty = 5 then 6 else if ty = 6 then 4 else if ty = 7 || ty = 8 then 16
  else if ty = 10 || ty = 11 then 32 else 8
/-- Packed element types. -/
def isPacked (ty : Nat) : Bool := 4 ≤ ty && ty ≤ 6
/-- Width of the descriptor's elements. -/
def dWidth (d : List W64) : Nat := elemWidth (dType d)
/-- FILL, cut to the element width. -/
def dFill (d : List W64) : Nat := bits (descW d 2) 0 (dWidth d)
/-- Extent of a dimension. -/
def dDim (d : List W64) (k : Nat) : Nat := bits (descW d (3 + k / 2)) (k % 2 * 32) 32
/-- Signed byte stride of a dimension. -/
def dStride (d : List W64) (k : Nat) : Int := sgn 40 (bits (descW d (6 + k)) 0 40)
/-- Halo below a dimension. -/
def dHaloLo (d : List W64) (k : Nat) : Nat := bits (descW d (6 + k)) 40 8
/-- Halo above a dimension. -/
def dHaloHi (d : List W64) (k : Nat) : Nat := bits (descW d (6 + k)) 48 8

/-- The class of an index tuple (R282): 0 inside, 1 halo, 2 outside. -/
def elemClass (d : List W64) (ix : List Int) : Nat :=
  let all (p : Nat → Int → Bool) : Bool := (List.range (dRank d)).all (fun k => p k (ix.getD k 0))
  if all (fun k i => 0 ≤ i && i < dDim d k) then 0
  else if all (fun k i => -(dHaloLo d k : Int) ≤ i && i < (dDim d k : Int) + dHaloHi d k) then 1
  else 2

/-- The bit address of an element (R281, R230), from a base. -/
def elemBitFrom (d : List W64) (base : Nat) (ix : List Int) : Int :=
  let outer : Int := (((List.range (dRank d)).drop 1).map (fun k => ix.getD k 0 * dStride d k)).foldl (· + ·) 0
  let inner : Int := if dNarrow d then 8 * (ix.getD 0 0 * dStride d 0) else ix.getD 0 0 * dWidth d
  8 * ((base : Int) + outer) + inner

/-- The bit address of an element. -/
def elemBit (d : List W64) (ix : List Int) : Int := elemBitFrom d (dBase d) ix

/-- A copy of a descriptor held by an instruction in flight, or given up (R285, R291). -/
def holdDesc (s : State) (d : List W64) (take : Bool) : State :=
  if dKind d = 2 || d.isEmpty then s
  else s.updAlloc (dAlloc d) (fun a => { a with refs := if take then a.refs + 1 else a.refs - 1 })

/-- The number that `w` bits from a bit address on hold, in bytes read by a function of their address. -/
def bitsAt (rd : Nat → Byte) (pos w : Nat) : Nat :=
  leNat ((List.range ((pos % 8 + w + 7) / 8)).map (fun i => rd (pos / 8 + i))) / 2 ^ (pos % 8) % 2 ^ w

/-- The bytes that a value of `w` bits at a bit address touches: address, value and mask. -/
def bitBytes (pos w v : Nat) : List (Nat × Nat × Nat) :=
  (List.range ((pos % 8 + w + 7) / 8)).map (fun i =>
    (pos / 8 + i, v * 2 ^ (pos % 8) / 256 ^ i % 256, (2 ^ w - 1) * 2 ^ (pos % 8) / 256 ^ i % 256))

end Sys2Proof.Machine
end

