-- ==== Sys2Proof/Machine/Desc.lean ====
section
/-! DEFINITION. Descriptors, allocations and owner tables: creating and destroying (R284 to R291), publication (R292 to
R298). -/
namespace Sys2Proof.Machine

/-! ## CRC-32 -/

/-- One byte of the IEEE 802.3 CRC-32. -/
def crc32Byte (c : Nat) (b : Byte) : Nat :=
  (List.range 8).foldl (fun c _ => if c % 2 = 1 then Nat.xor (c / 2) 0xEDB88320 else c / 2) (Nat.xor c b.toNat)

/-- The IEEE 802.3 CRC-32 of bytes. -/
def crc32 (l : List Byte) : Nat := Nat.xor (l.foldl crc32Byte 0xFFFFFFFF) 0xFFFFFFFF

/-! ## Source slots (R287) -/

/-- The slot of a writer. -/
def slotOfWriter : Writer → Nat
  | .host => 0
  | .uzoid d => 1 + d

/-- Whether the host or the lead Uzoid core writes: the writers of the OWN page (R306). -/
def leadWriter : Writer → Bool
  | .host => true
  | .uzoid d => d = 0

/-! ## CREATE and DESTROY -/

/-- The access width of R283 in bytes. -/
def accessWidth (d : List W64) : Nat := if dNarrow d then dWidth d / 8 else if dKind d = 1 then 32 else 64

/-- Reserved fields are 0, and so are the fields that a kind does not have (R279); VALID, PINNED, EXPORTS, LOCAL_PIN and
GEN are ignored in staging. -/
def descReservedOk (d : List W64) : Bool :=
  let w (k : Nat) : Nat := descW d k
  bits (w 0) 4 4 = 0 && !bit (w 0) 15 && bits (w 0) 21 11 = 0 && bits (w 0) 42 6 = 0 && bits (w 0) 53 11 = 0
    && (if dKind d = 2 then dAlloc d = 0 && w 1 = 0 else dTable d = 0)
    && bits (w 1) 41 23 = 0 && (dKind d ≠ 1 || bits (w 1) 24 8 = 0) && bits (w 2) 32 32 = 0
    && (List.range 6).all (fun k => bits (w (6 + k)) 56 8 = 0)
    && w 12 = 0 && bits (w 13) 17 15 = 0 && bits (w 13) 48 16 = 0 && w 14 = 0 && w 15 = 0

/-- A descriptor with DIM, STRIDE and HALO of dimensions at or above RANK zero (R279). -/
def descTrim (d : List W64) : List W64 :=
  (List.range 16).map (fun k =>
    let w := d.getD k 0
    if 3 ≤ k && k ≤ 5 then
      let lo := if 2 * (k - 3) < dRank d then fld w 0 32 else 0
      let hi := if 2 * (k - 3) + 1 < dRank d then fld w 32 32 else 0
      BitVec.ofNat 64 (lo + 2 ^ 32 * hi)
    else if 6 ≤ k && k ≤ 11 then (if k - 6 < dRank d then w else 0)
    else w)

/-- The byte range of the inside and halo elements and of the access units that contain them (R288 check 7): first byte and
the byte after the last. -/
def descSpan (d : List W64) : Int × Int :=
  let ext (k : Nat) : Int × Int :=
    let a : Int := dStride d k * (-(dHaloLo d k : Int))
    let b : Int := dStride d k * ((dDim d k : Int) + dHaloHi d k - 1)
    (min a b, max a b)
  let outer := ((List.range (dRank d)).drop 1).map ext
  let lo : Int := (outer.map (·.1)).foldl (· + ·) (dBase d)
  let hi : Int := (outer.map (·.2)).foldl (· + ·) (dBase d)
  let w : Int := dWidth d
  let in0 : Int × Int :=
    if dNarrow d then let e := ext 0; (e.1, e.2 + w / 8)
    else (-(dHaloLo d 0 : Int) * w / 8, (((dDim d 0 : Int) + dHaloHi d 0) * w + 7) / 8)
  let u : Int := accessWidth d
  ((lo + in0.1) / u * u, (hi + in0.2 + u - 1) / u * u)

/-- A table's rank. -/
def OTab.rank (t : OTab) : Nat := fld t.cfg 0 3
/-- A table's element type. -/
def OTab.etype (t : OTab) : Nat := fld t.cfg 4 4
/-- BLOCK_d. -/
def OTab.blk (t : OTab) (d : Nat) : Nat := fld (tget 0 t.block (d / 2)) (d % 2 * 32) 32
/-- GRID_d. -/
def OTab.grd (t : OTab) (d : Nat) : Nat := fld (tget 0 t.grid (d / 3)) (d % 3 * 20) 20
/-- The product of GRID; of a table without a rank it reads 0 (R306). -/
def OTab.count (t : OTab) : Nat := if t.rank = 0 then 0 else ((List.range t.rank).map t.grd).foldl (· * ·) 1

/-- OWN_SVC.MODE is GLOBAL (R297). -/
def svcGlobal (s : State) : Bool := getF s pgOwn F.OWN_SVC_MODE = 1

/-- The checks of CREATE (R288): 0, or the code of the first that fails. DEDUCED: ACCUM_DEST with ETYPE 10 is legal for a
REMOTE descriptor, whose blocks are DRAM descriptors (R292, R293). -/
def createCheck (s : State) (h : Nat) (d : List W64) : Nat :=
  let ds := List.range (dRank d)
  let k := dKind d
  let a := s.alloc (dAlloc d)
  let u : Int := accessWidth d
  let sp := descSpan d
  let t := s.otab (dTable d)
  if dValid (s.desc h) then 0x1140
  else if k = 3 || 12 < dType d || dRank d = 0 || dRank d = 7 || !descReservedOk d then 0x1142
  else if ds.any (fun i => dDim d i = 0) then 0x1143
  else if (dNarrow d && (isPacked (dType d) || k = 2)) || (dAccum d && dReadOnly d)
      || (dAccum d && !(dType d = 10 || (dType d = 11 && k = 1))) then 0x1144
  else if k ≠ 2 && (!a.valid || a.kind ≠ k || (k = 1 && a.tile ≠ dTile d)) then 0x1145
  else if k ≠ 2 && ((dBase d : Int) % u ≠ 0 || (ds.drop 1).any (fun i => dStride d i % u ≠ 0)
      || (if dNarrow d then dStride d 0 % u ≠ 0 else dStride d 0 ≠ 0)
      || (isPacked (dType d) && (dHaloLo d 0 * dWidth d % 8 ≠ 0 || dHaloHi d 0 * dWidth d % 8 ≠ 0))) then 0x1146
  else if k ≠ 2 && !(decide ((a.base : Int) ≤ sp.1) && decide (sp.2 ≤ (a.base + a.size : Nat))) then 0x1147
  else if k = 2 && !(t.state = 2 && t.rank = dRank d && t.etype = dType d
      && ds.all (fun i => dHaloLo d i = 0 && dHaloHi d i = 0 && dDim d i ≤ t.grd i * t.blk i) && svcGlobal s) then 0x114C
  else 0

/-- A descriptor stored. -/
def setDesc (s : State) (h : Nat) (d : List W64) : State := { s with descs := tset [] s.descs h d }

/-- GEN. -/
def dGen (d : List W64) : Nat := bits (descW d 13) 32 16

/-- A descriptor's words with a word changed. -/
def descSet (d : List W64) (k : Nat) (f : W64 → W64) : List W64 :=
  (List.range 16).map (fun i => if i = k then f (d.getD i 0) else d.getD i 0)

/-- PINNED follows LOCAL_PIN and EXPORTS (R296). -/
def descPinned (d : List W64) : List W64 :=
  descSet d 0 (fun w => withFld w 3 1 (b2n (bits (descW d 13) 0 17 ≠ 0)))

/-- LOCAL_PIN of a handle. -/
def setLocalPin (s : State) (h : Nat) (on : Bool) : State :=
  if dValid (s.desc h) then setDesc s h (descPinned (descSet (s.desc h) 13 (fun w => withFld w 16 1 (b2n on)))) else s

/-- EXPORTS of a handle changed. -/
def updExports (s : State) (h : Nat) (f : Nat → Nat) : State :=
  if dValid (s.desc h) then
    setDesc s h (descPinned (descSet (s.desc h) 13 (fun w => withFld w 0 16 (f (fld w 0 16))))) else s

/-- REFS of a descriptor's allocation changed (R285). -/
def refsOf (s : State) (d : List W64) (f : Nat → Nat) : State :=
  if dKind d = 2 then s else s.updAlloc (dAlloc d) (fun a => { a with refs := f a.refs })

/-- The outcome of a descriptor command (R304 RESULT_s). -/
def descResult (s : State) (slot handle code : Nat) : State :=
  let s := setF (setF (setF s pgDesc F.DESC_RESULT_CODE code slot) pgDesc F.DESC_RESULT_DONE 1 slot) pgDesc F.DESC_RESULT_HANDLE handle slot
  let s := setF s pgDesc F.DESC_RESULT_BUSY 0 slot
  if code = 0 then s else refusal s pgDesc

/-- The staged words of a slot. -/
def stageWords (s : State) (slot : Nat) : List W64 := (List.range 16).map (fun w => s.reg (pgDesc + 0x800 + slot * 0x80 + w * 8))

/-- CREATE (R288). The descriptor is written to the system region (R40): what stood there is gone. -/
def descCreate (s : State) (slot h : Nat) : State :=
  let d := stageWords s slot
  let code := createCheck s h d
  if code ≠ 0 then descResult s slot h code
  else
    let gen := (dGen (s.desc h) + 1) % 2 ^ 16
    let d := descSet (descTrim d) 13 (fun _ => BitVec.ofNat 64 (2 ^ 32 * gen))
    let d := descSet d 0 (fun x => withFld x 2 2 1)
    let s := sysStore (refsOf (setDesc s h d) d (· + 1)) [descSec h 0, descSec h 1]
    descResult (event (bumpF s pgDesc F.DESC_DCOUNT_CREATED) pgDesc 0) slot h 0

/-- A handle invalid: its window reads zeros, and GEN stays for the next CREATE. -/
def clearDescEntry (s : State) (h : Nat) : State :=
  let d := s.desc h
  setDesc (refsOf s d (· - 1)) h (descSet (List.replicate 16 0) 13 (fun _ => BitVec.ofNat 64 (dGen d * 2 ^ 32)))

/-- DESTROY (R289). -/
def descDestroy (s : State) (slot h : Nat) : State :=
  if !dValid (s.desc h) then descResult s slot h 0x1141
  else if dPinned (s.desc h) then descResult s slot h 0x114E
  else descResult (event (bumpF (clearDescEntry s h) pgDesc F.DESC_DCOUNT_DESTROYED) pgDesc 1) slot h 0

/-- A descriptor command of an OP performed (R304). -/
def descDo (s : State) (slot op h : Nat) : State :=
  match op with
  | 0 => descCreate s slot h
  | 1 => descDestroy s slot h
  | _ => descResult s slot h 0x114F

/-- A CMD_s write is dropped: a foreign slot (R287), or a command of the slot runs or waits (R290). -/
def descBusy (s : State) (w : Writer) (slot : Nat) : Bool := slotOfWriter w ≠ slot || getF s pgDesc F.DESC_RESULT_BUSY slot = 1

/-- A command put behind those that wait: BUSY reads 1 until it is performed (R290, R304). -/
def descQueue (s : State) (slot op h : Nat) : State :=
  let s := setF (setF s pgDesc F.DESC_RESULT_BUSY 1 slot) pgDesc F.DESC_RESULT_DONE 0 slot
  { s with descQ := s.descQ ++ [(slot, op, h)] }

/-- A write of CMD_s (R287 to R290, R304): the command waits its turn. -/
def descCmd (s : State) (w : Writer) (slot : Nat) (v : W64) : State :=
  if descBusy s w slot then recordErr s pgDesc 0x1105 (pgDesc + 0x100 + slot * 16) else descQueue s slot (fld v 0 2) (fld v 16 12)

/-- The command that has waited longest is performed (R290). -/
def descTick (s : State) : State :=
  match s.descQ with
  | [] => s
  | (slot, op, h) :: l => descDo { s with descQ := l } slot op h

/-- A command that reaches the page and, no other waiting, is performed at once (R290). -/
def descNow (s : State) (w : Writer) (slot op h : Nat) : State :=
  if descBusy s w slot then recordErr s pgDesc 0x1105 (pgDesc + 0x100 + slot * 16)
  else if s.descQ.isEmpty then descDo s slot op h
  else descQueue s slot op h

/-! ## ALLOC and FREE (R284 to R286, R305) -/

/-- Whether a range breaks R284. DEDUCED: a size of 0 is no range. -/
def rangeBad (s : State) (kind tile base size : Nat) : Bool :=
  if kind = 0 then
    size = 0 || base % 4096 ≠ 0 || size % 4096 ≠ 0 || !backed s.member base || base < 0x8000_0000
      || paStack base * 2 ^ 36 + holeRow (strength s (paStack base)) * 2 ^ 20 < base + size
  else size = 0 || base % 32 ≠ 0 || size % 32 ≠ 0 || !hasTile s tile || 0x180000 < base + size

/-- Whether a range shares a byte with an allocation of its kind (and tile). -/
def overlaps (s : State) (kind tile base size : Nat) : Bool :=
  s.allocs.any (fun p => p.2.valid && p.2.kind = kind && (kind = 0 || p.2.tile = tile)
    && base < p.2.base + p.2.size && p.2.base < base + size)

/-- An allocation request of a slot performed (R305). -/
def allocDo (s : State) (slot : Nat) : State :=
  let g (f : RegF) : Nat := getF s pgAlloc f slot
  let op := g F.ALLOC_REQ0_OP
  let id := g F.ALLOC_REQ0_ID
  let kind := g F.ALLOC_REQ0_KIND
  let tile := g F.ALLOC_REQ0_TILE
  let base := g F.ALLOC_REQ1_BASE
  let size := g F.ALLOC_REQ2_SIZE
  let a := s.alloc id
  let code :=
    if op = 0 then (if a.valid then 0x1240 else if rangeBad s kind tile base size then 0x1242
      else if overlaps s kind tile base size then 0x1243 else 0)
    else if op = 1 then (if !a.valid then 0x1241 else if a.refs ≠ 0 then 0x1244 else 0)
    else 0x1245
  let s := if code ≠ 0 then refusal s pgAlloc
    else if op = 0 then s.updAlloc id (fun a =>
      { valid := true, kind := kind, tile := if kind = 1 then tile else 0, refs := 0, base := base, size := size
        gen := (a.gen + 1) % 2 ^ 16 })
    else s.updAlloc id (fun a => { gen := a.gen })
  let s := setF (setF (setF s pgAlloc F.ALLOC_ARESULT_CODE code slot) pgAlloc F.ALLOC_ARESULT_DONE 1 slot) pgAlloc F.ALLOC_ARESULT_ID id slot
  event (setB s pgAlloc F.ALLOC_ARESULT_BUSY (s.allocQ.contains slot) slot) pgAlloc 0

/-- A request put behind those that wait: BUSY reads 1 until it is performed (R305). -/
def allocQueue (s : State) (slot : Nat) : State :=
  let s := setF (setF s pgAlloc F.ALLOC_ARESULT_BUSY 1 slot) pgAlloc F.ALLOC_ARESULT_DONE 0 slot
  { s with allocQ := s.allocQ ++ [slot] }

/-- A write of REQ3_s (R287, R305): with GO the request waits its turn. -/
def allocGo (s : State) (w : Writer) (slot : Nat) (go : Bool) : State :=
  if slotOfWriter w ≠ slot then recordErr s pgAlloc 0x1205 (pgAlloc + 0x118 + slot * 32)
  else if go then allocQueue s slot
  else s

/-- The request that has waited longest is performed. -/
def allocTick (s : State) : State :=
  match s.allocQ with
  | [] => s
  | slot :: l => allocDo { s with allocQ := l } slot

/-- A request that reaches the page and, no other waiting, is performed at once (R305). -/
def allocNow (s : State) (w : Writer) (slot : Nat) : State :=
  if slotOfWriter w ≠ slot || !s.allocQ.isEmpty then allocGo s w slot true else allocDo s slot

/-! ## Owner tables (R292 to R298) -/

/-- PART of an entry. -/
def ePart (e : W64) : Nat := fld e 0 6
/-- HANDLE of an entry. -/
def eHandle (e : W64) : Nat := fld e 8 12
/-- PRESENT of an entry. -/
def ePresent (e : W64) : Bool := bitOf e 63

/-- A table with its entry numbers. -/
def OTab.numbered (t : OTab) : List (Nat × W64) := (List.range t.entries.length).zip t.entries

/-- Local entries: PRESENT and this part's. -/
def localEntries (s : State) (t : OTab) : List (Nat × W64) := t.numbered.filter (fun e => ePresent e.2 && ePart e.2 = partNo s)
/-- Remote entries. -/
def remoteEntries (s : State) (t : OTab) : List (Nat × W64) := t.numbered.filter (fun e => ePresent e.2 && ePart e.2 ≠ partNo s)

/-- The header check (R294). -/
def headerOk (s : State) (t : OTab) : Bool :=
  let ds := List.range t.rank
  1 ≤ t.rank && t.rank ≤ 6 && t.etype ≤ 12 && ds.all (fun d => 1 ≤ t.blk d && 1 ≤ t.grd d) && t.count ≤ 65536
    && t.src.toNat % 64 = 0
    && s.allocs.any (fun p => p.2.valid && p.2.kind = 0 && p.2.base ≤ t.src.toNat && t.src.toNat + 8 * t.count ≤ p.2.base + p.2.size)

/-- A descriptor fits an entry: valid, DRAM, RANK, ETYPE and DIMs as the table's (R294). -/
def fitsEntry (t : OTab) (d : List W64) : Bool :=
  dValid d && dKind d = 0 && dRank d = t.rank && dType d = t.etype && (List.range t.rank).all (fun k => dDim d k = t.blk k)

/-- The descriptor of a PRESENT entry, as known here. -/
def entryDesc (s : State) (t : OTab) (i : Nat) (e : W64) : List W64 :=
  if ePart e = partNo s then s.desc (eHandle e) else ((t.remote.find? (·.1 = i)).map (·.2)).getD []

/-- Strides, halos and NARROW equal (R294 MISMATCH). -/
def sameShape (a b : List W64) : Bool :=
  (List.range 6).all (fun k => descW a (6 + k) = descW b (6 + k)) && dNarrow a = dNarrow b

/-- Index tuples of dimensions 1 and above, from `lo d` up to below `hi d`. -/
def outerTuples (rank : Nat) (lo hi : Nat → Int) : List (List Int) :=
  ((List.range rank).drop 1).foldl (fun (acc : List (List Int)) d =>
    acc.flatMap (fun t => (List.range (hi d - lo d).toNat).map (fun (i : Nat) => t ++ [lo d + Int.ofNat i]))) [[0]]

/-- The byte runs of elements `a` to `b − 1` of dimension 0 at outer indices `t`. -/
def rowRuns (d : List W64) (t : List Int) (a b : Int) : List (Int × Int) :=
  let at_ (i : Int) : Int := elemBit d (i :: t.drop 1)
  let w : Int := dWidth d
  if b ≤ a then []
  else if dNarrow d then (List.range (b - a).toNat).map (fun (i : Nat) => (at_ (a + Int.ofNat i) / 8, (at_ (a + Int.ofNat i) + w + 7) / 8))
  else [(at_ a / 8, (at_ (b - 1) + w + 7) / 8)]

/-- The byte runs of a descriptor's inside elements. -/
def insideRuns (d : List W64) : List (Int × Int) :=
  (outerTuples (dRank d) (fun _ => 0) (fun k => dDim d k)).flatMap (fun t => rowRuns d t 0 (dDim d 0))

/-- The byte runs of a descriptor's halo elements. -/
def haloRuns (d : List W64) : List (Int × Int) :=
  let lo (k : Nat) : Int := -(dHaloLo d k : Int)
  let hi (k : Nat) : Int := (dDim d k : Int) + dHaloHi d k
  (outerTuples (dRank d) lo hi).flatMap (fun t =>
    let inner := (List.range (dRank d)).all (fun k => let i : Int := t.getD k 0; k = 0 || (0 ≤ i && i < Int.ofNat (dDim d k)))
    if inner then rowRuns d t (lo 0) 0 ++ rowRuns d t (dDim d 0) (hi 0) else rowRuns d t (lo 0) (hi 0))

/-- Two lists of byte runs meet. -/
def runsMeet (a b : List (Int × Int)) : Bool := a.any (fun x => b.any (fun y => x.1 < y.2 && y.1 < x.2))

/-- Local entries of the published tables and of table `n`, by table and entry. -/
def localOfTables (s : State) (n : Nat) : List (Nat × Nat × W64) :=
  (List.range 32).flatMap (fun k => if (s.otab k).state = 2 || k = n then
    (localEntries s (s.otab k)).map (fun e => (k, e.1, e.2)) else [])

/-- The halo elements of one block's descriptor lie on the inside elements of the other's, either way round. -/
def halosClash (a b : List W64) : Bool := runsMeet (haloRuns a) (insideRuns b) || runsMeet (haloRuns b) (insideRuns a)

/-- The first local entry of table `n` that clashes with a local entry before it, or with one of another published table (R294
HALO_OVERLAP). DEDUCED: entries are looked at in order, so that of two entries of a table the later is named, as in the worked
example of that chapter; two entries that name one handle are the same block's descriptor. -/
def haloClash (s : State) (n : Nat) : Option Nat :=
  let all := localOfTables s n
  ((localEntries s (s.otab n)).find? (fun e =>
    all.any (fun o => (o.1 ≠ n || o.2.1 < e.1) && eHandle o.2.2 ≠ eHandle e.2
      && halosClash (s.desc (eHandle e.2)) (s.desc (eHandle o.2.2))))).map (·.1)

/-- A management packet about a descriptor. DESIGN CHOICE: word 8 holds the handle in [11:0] and the table in [20:16]; the
answer carries the descriptor's 16 words and echoes TAG, the entry number. -/
def descPkt (s : State) (op part table entry handle : Nat) : Pkt :=
  { blankPkt 7 part (partNo s) 0x3000 with
    mgmtOp := op
    tag := entry % 2 ^ 16
    payload := leBytes 8 (handle % 4096 + 2 ^ 16 * table) }

/-- A release sent for each entry of a list (R296). -/
def sendReleases (s : State) (n : Nat) (l : List (Nat × W64)) : State :=
  forEach s l (fun s e => toEgress s 0 (descPkt s 3 (ePart e.2) n e.1 (eHandle e.2)))

/-- The sectors of the system region that hold a table's entries (R40). -/
def tableSecs (n count : Nat) : List Nat := (List.range ((count + 7) / 8)).map (fun i => ownSec n (8 * i))

/-- The entries of a table are there: the local ones are checked, and the parts that hold the others are asked (R294). -/
def askPeers (s : State) (n : Nat) : State :=
  let t := s.otab n
  match (localEntries s t).find? (fun e => !fitsEntry t (s.desc (eHandle e.2))) with
  | some e => s.updOtab n (fun t => { t with endCode := 0x1A44, endAt := e.1 })
  | none =>
    let r := remoteEntries s t
    let s := s.updOtab n (fun t => { t with waiting := r.map (·.1) })
    forEach s r (fun s e => toEgress s 0 (descPkt s 1 (ePart e.2) n e.1 (eHandle e.2)))

/-- A publication whose staged entries are being fetched goes on once they are there (R294): they are copied into the system region,
local entries are checked, and each remote entry's peer is asked. Poison in them bites. -/
def publishOn (s : State) (n : Nat) : State :=
  let t := s.otab n
  if !(t.state = 1 && t.fetching) then s
  else match ctlFetch s (1 + n) 0x3000 t.src.toNat (8 * t.count) with
    | (none, s) => s
    | (some (bytes, bad), s) =>
      let s := if bad then bite (recordErr s pgOwn 0x1A10 0) 0 0x1A 0 0x1A10 0 else sysStore s (tableSecs n t.count)
      askPeers ((dropFetch s (1 + n)).updOtab n (fun t => { t with entries := leWords bytes, fetching := false })) n

/-- PUBLISH starts (R294). -/
def publish (s : State) (n : Nat) : State :=
  let t := s.otab n
  if t.state ≠ 0 then refusal (s.updOtab n (fun t => { t with code := 0x1A40, failed := 0 })) pgOwn
  else
    let fresh (t : OTab) : OTab := { t with state := 1, entries := [], remote := [], waiting := [], code := 0, failed := 0, crc := 0, pairs := 0, endCode := 0, endAt := 0, fetching := true }
    if !headerOk s t then s.updOtab n (fun t => { fresh t with endCode := 0x1A41, fetching := false })
    else publishOn (s.updOtab n fresh) n

/-- A publication fails: the table returns to EMPTY (R294); what peers had resolved is released (DESIGN CHOICE). -/
def publishFail (s : State) (n code entry : Nat) : State :=
  let t := s.otab n
  let got := (remoteEntries s t).filter (fun e => t.remote.any (fun x => x.1 = e.1 && dValid x.2))
  let s := sendReleases s n got
  let s := s.updOtab n (fun t => { t with state := 0, entries := [], remote := [], waiting := [], code := code, failed := entry })
  event (refusal s pgOwn) pgOwn 1

/-- The header registers as T_CRC takes them (R294). -/
def headerWords (t : OTab) : List W64 :=
  [withFld t.cfg 32 17 t.count, tget 0 t.block 0, tget 0 t.block 1, tget 0 t.block 2, tget 0 t.grid 0, tget 0 t.grid 1]

/-- A publication ends (R294): its checks in the order of the table. -/
def publishEnd (s : State) (n : Nat) (unreachable : Bool) : State :=
  let s := publishOn s n
  let t := s.otab n
  if t.state ≠ 1 || t.fetching then s
  else if t.endCode ≠ 0 then publishFail s n t.endCode t.endAt
  else match t.waiting with
    | i :: _ => if unreachable then publishFail s n 0x1A47 i else s
    | [] =>
      let present := t.numbered.filter (fun e => ePresent e.2)
      let first := match present with | e :: _ => entryDesc s t e.1 e.2 | [] => []
      match (localEntries s t).find? (fun e => !fitsEntry t (s.desc (eHandle e.2))),
        (remoteEntries s t).find? (fun e => let d := entryDesc s t e.1 e.2; !fitsEntry t d || dLocalOnly d),
        present.find? (fun e => !sameShape (entryDesc s t e.1 e.2) first), haloClash s n with
      | some e, _, _, _ => publishFail s n 0x1A44 e.1
      | none, some e, _, _ => publishFail s n 0x1A44 e.1
      | none, none, some e, _ => publishFail s n 0x1A45 e.1
      | none, none, none, some i => publishFail s n 0x1A46 i
      | none, none, none, none =>
        let s := forEach s (localEntries s t) (fun s e => setLocalPin s (eHandle e.2) true)
        let pairs := ((remoteEntries s t).map (fun e => (ePart e.2, eHandle e.2))).eraseDups.length
        let s := s.updOtab n (fun t => { t with state := 2, code := 0, failed := 0, crc := crc32 (wordBytes (headerWords t ++ t.entries)), pairs := pairs })
        event (bumpF s pgOwn F.OWN_STAT_PUBLISHED) pgOwn 0

/-- Valid REMOTE descriptors that name a table. -/
def remoteNamers (s : State) (n : Nat) : Nat := s.descs.countP (fun p => dValid p.2 && dKind p.2 = 2 && dTable p.2 = n)

/-- UNPUBLISH (R296): pins are cleared and releases sent, and the table reads UNPUBLISHING. DESIGN CHOICE (log 34): of a table that is
EMPTY it does nothing, of one that is PUBLISHING or UNPUBLISHING it is a write to a table that is not EMPTY. -/
def unpublish (s : State) (n : Nat) : State :=
  let t := s.otab n
  if t.state = 0 then s
  else if t.state ≠ 2 then recordErr s pgOwn 0x1A05 (pgOwn + 0x138)
  else if remoteNamers s n ≠ 0 then refusal (s.updOtab n (fun t => { t with code := 0x1A43, failed := 0 })) pgOwn
  else
    let loc := localEntries s t
    let s := sendReleases s n (remoteEntries s t)
    let s := s.updOtab n (fun t => { t with state := 3, entries := [], remote := [], code := 0, failed := 0, crc := 0, pairs := 0 })
    let still := localOfTables s 32
    forEach s loc (fun s e => if still.any (fun o => eHandle o.2.2 = eHandle e.2) then s else setLocalPin s (eHandle e.2) false)

/-- What the OWN block has under way goes on (R294, R296): a table that is UNPUBLISHING reads EMPTY, a publication takes the entries
that its fetch has brought. -/
def ownTick (s : State) : State :=
  forEach s (List.range 32) (fun s n => match (s.otab n).state with
    | 1 => publishOn s n
    | 3 => event (s.updOtab n (fun t => { t with state := 0 })) pgOwn 2
    | _ => s)

/-- A write of OWN_SVC.MODE (R298). -/
def svcModeWrite (s : State) (v : W64) : State :=
  if bitOf v 0 && (List.range 32).any (fun n => (s.otab n).state = 1) then recordErr s pgOwn 0x1A05 (pgOwn + 0x80)
  else setB s pgOwn F.OWN_SVC_MODE (bitOf v 0)

/-- A table's registers written while it is selected (R296). -/
def otabWrite (s : State) (off : Nat) (f : OTab → OTab) : State :=
  let n := getF s pgOwn F.OWN_SEL_TABLE
  if (s.otab n).state ≠ 0 then recordErr s pgOwn 0x1A05 (pgOwn + off) else s.updOtab n f

/-! ## Commands -/

/-- DESC_CREATE (R288). -/
def execDescCreate (w : Writer) (slot handle : Nat) (s : State) : Res :=
  onObj (slot < 9 && handle < 4096) s (descNow s w slot 0 handle)

/-- DESC_DESTROY (R289). -/
def execDescDestroy (w : Writer) (slot handle : Nat) (s : State) : Res :=
  onObj (slot < 9 && handle < 4096) s (descNow s w slot 1 handle)

/-- ALLOC (R284): GO with OP ALLOC in the slot's request. -/
def execAlloc (w : Writer) (slot : Nat) (s : State) : Res :=
  onObj (slot < 9) s (if getF s pgAlloc F.ALLOC_REQ0_OP slot = 0 then allocNow s w slot else s)

/-- FREE (R285): GO with OP FREE in the slot's request. -/
def execFree (w : Writer) (slot : Nat) (s : State) : Res :=
  onObj (slot < 9) s (if getF s pgAlloc F.ALLOC_REQ0_OP slot = 1 then allocNow s w slot else s)

/-- PUBLISH (R294), of the selected table. -/
def execPublish (w : Writer) (table : Nat) (s : State) : Res :=
  onObj (table < 32) s (if leadWriter w && getF s pgOwn F.OWN_SEL_TABLE = table then publish s table else s)

/-- PUBLISH_DONE (R294): the checks end; `unreachable` says that 1 ms has passed with a peer silent. -/
def execPublishDone (table : Nat) (unreachable : Bool) (s : State) : Res := onObj (table < 32) s (publishEnd s table unreachable)

/-- UNPUBLISH (R296), of the selected table. -/
def execUnpublish (w : Writer) (table : Nat) (s : State) : Res :=
  onObj (table < 32) s (if leadWriter w && getF s pgOwn F.OWN_SEL_TABLE = table then unpublish s table else s)

/-- SVC_MODE_WRITE (R297, R298). -/
def execSvcModeWrite (w : Writer) (v : W64) (s : State) : Res := .next (if leadWriter w then svcModeWrite s v else s)

end Sys2Proof.Machine
end

