-- ==== Sys2Proof/Machine/Sync.lean ====
section
/-! DEFINITION. Sync counters and their watches (R427, R428). -/
namespace Sys2Proof.Machine

/-- A sync counter. -/
def syncVal (s : State) (c : Nat) : Nat := (tget 0 s.sync c).toNat

/-- Armed watches whose counter has reached its target fire (R428). -/
def watchCheck (s : State) : State :=
  forEach s (List.range 8) (fun s w =>
    if getF s pgSync F.SYNC_WATCH_ARMED w = 1 && getF s pgSync F.SYNC_WATCH_TARGET w ≤ syncVal s (getF s pgSync F.SYNC_WATCH_COUNTER w) then
      setB (event s pgSync w) pgSync F.SYNC_WATCH_ARMED false w
    else s)

/-- A value added to a counter, modulo 2^32 (R427). -/
def syncAdd (s : State) (c v : Nat) : State :=
  watchCheck { s with sync := tset 0 s.sync c (BitVec.ofNat 32 (syncVal s c + v)) }

/-- A counter set by a write (R427). -/
def syncSet (s : State) (c v : Nat) : State := watchCheck { s with sync := tset 0 s.sync c (BitVec.ofNat 32 v) }

end Sys2Proof.Machine
end

