-- ==== Sys2Proof/Machine/Tile.lean ====
section
/-! DEFINITION. Tiles: SRAM and its poison (R220 to R226), semaphores (R345), the trace (R361), engine streams with their
loops and waits (R329 to R340), layer configuration slots (R363 to R366). -/
namespace Sys2Proof.Machine

/-- Bytes of tile SRAM (R220). -/
def sramBytes : Nat := 0x180000

/-! ## SRAM -/

/-- A byte of a tile's SRAM. -/
def Tile.byte (t : Tile) (a : Nat) : Byte := mget t.sram a

/-- Whether the 64 B unit of an SRAM address is poisoned (R224). -/
def Tile.pz (t : Tile) (a : Nat) : Bool := t.spoison.contains (a / 64)

/-- A run of bytes of a tile's SRAM. -/
def Tile.run_ (t : Tile) (a n : Nat) : List Byte := mread t.sram a n

/-- Any poison among the units that a run touches. -/
def Tile.pzRun (t : Tile) (a n : Nat) : Bool := (sectorsOf a n).any (fun k => t.spoison.contains k)

/-- Bytes of one write gathered by address: value, mask of written bits, poison. -/
def gatherBytes (l : List (Nat × Nat × Nat × Bool)) : List (Nat × Nat × Nat × Bool) :=
  l.foldl (fun t x => tupd (0, 0, false) t x.1 (fun (v, m, p) =>
    (Nat.lor (v - Nat.land v x.2.2.1) (Nat.land x.2.1 x.2.2.1), Nat.lor m x.2.2.1, p || x.2.2.2))) []

/-- A write to a tile's SRAM: bytes as address, value, mask of written bits, poison (R224). A unit written whole with
clean data loses its mark; a poisoned byte sets it. -/
def Tile.put (t : Tile) (l : List (Nat × Nat × Nat × Bool)) : Tile :=
  let g := gatherBytes (l.filter (fun x => x.1 < sramBytes))
  let sram := g.foldl (fun m x => mset m x.1
    ((mget m x.1 &&& ~~~ BitVec.ofNat 8 x.2.2.1) ||| BitVec.ofNat 8 (Nat.land x.2.1 x.2.2.1))) t.sram
  let units := (g.map (·.1 / 64)).eraseDups
  let sp := units.foldl (fun p u =>
    let own := g.filter (fun x => x.1 / 64 = u)
    if own.any (·.2.2.2) then setPut p u true
    else if own.length = 64 && own.all (fun x => x.2.2.1 = 255) then setPut p u false
    else p) t.spoison
  { t with sram := sram, spoison := sp }

/-- A run of whole bytes for `Tile.put`, `none` not enabled, a poison mark for each byte. -/
def runBytes (a : Nat) (d : List (Option Byte)) (pz : Nat → Bool) : List (Nat × Nat × Nat × Bool) :=
  (d.zip (List.range d.length)).filterMap (fun (b, i) => b.map (fun b => (a + i, b.toNat, 255, pz i)))

/-- The island of a tile is gated or its zeroing has not ended (R227). -/
def tileOff (s : State) (t : Nat) : Bool := (s.tile t).gated || (s.tile t).zeroing

/-! ## Semaphores (R250, R345) -/

/-- A semaphore's value. -/
def semVal (s : State) (t j : Nat) : Nat := fld (s.reg (pgTile t + 0x100 + j / 4 * 8)) (j % 4 * 16) 16

/-- A value added to a semaphore modulo 2^16. -/
def semAdd (s : State) (t j v : Nat) : State :=
  let k := pgTile t + 0x100 + j / 4 * 8
  s.setReg k (withFld (s.reg k) (j % 4 * 16) 16 (semVal s t j + v))

/-! ## Trace and sequencer errors (R357, R361) -/

/-- A trace record, if recording of its kind is on; its time stamp in tc is a free value. -/
def trace (s : State) (die kind tile eng : Nat) (w3 : Nat) : State :=
  let p := pgTrc die
  if getF s p F.TRC_CTL_ENABLE = 0 || !bit (getF s p F.TRC_CTL_KINDS) (kind - 1) then s
  else
    let (stamp, s) := s.draw
    let n := getF s p F.TRC_STAT_NEXT_SEQ
    let full := !(tget [] (s.seq die).trace (n % 1024)).isEmpty
    let q := pgSeq die
    let w0 := n + 2 ^ 32 * kind + 2 ^ 40 * tile + 2 ^ 48 * eng
    let w2 := getF s q F.SEQ_WORDS_COUNT + getF s q F.SEQ_STAT_PC * 2 ^ 32
    let rec4 : Rec4 := [BitVec.ofNat 64 w0, stamp, BitVec.ofNat 64 w2, BitVec.ofNat 64 w3]
    let s := s.updSeq die (fun x => { x with trace := tset [] x.trace (n % 1024) rec4 })
    let s := wrapF s p F.TRC_STAT_NEXT_SEQ
    if full then event (bumpF s p F.TRC_STAT_OVERWRITTEN) p 0 else s

/-- A SEQ error, with its trace record. -/
def seqErr (s : State) (die code tag tile eng : Nat) : State := trace (recordErr s (pgSeq die) code tag) die 13 tile eng code

/-- Tag of 0x0211 and 0x0212 (R357). -/
def engTag (s : State) (t eng : Nat) : Nat := t % 64 + eng * 2 ^ 8 + getF s (pgSeq (t / 64)) F.SEQ_WORDS_COUNT % 2 ^ 22 * 2 ^ 10

/-! ## Streams -/

/-- Number of an engine (R357). -/
def engNo : Eng → Nat
  | .mx => 0 | .ve => 1 | .dma => 2 | .srl => 3

/-- The stream of an engine. -/
def Tile.stream (t : Tile) : Eng → Stream
  | .mx => t.mx | .ve => t.ves | .dma => t.dmas | .srl => t.srl

/-- A tile with an engine's stream changed. -/
def Tile.updStream (t : Tile) (e : Eng) (f : Stream → Stream) : Tile :=
  match e with
  | .mx => { t with mx := f t.mx }
  | .ve => { t with ves := f t.ves }
  | .dma => { t with dmas := f t.dmas }
  | .srl => { t with srl := f t.srl }

/-- The state with an engine's stream changed. -/
def updStream (s : State) (t : Nat) (e : Eng) (f : Stream → Stream) : State := s.updTile t (·.updStream e f)

/-- Operation of a slot word: its top byte (R256, R334). -/
def slotOp (e : Eng) (w : W64) : Nat := match e with | .dma => fld w 24 8 | _ => fld w 56 8

/-- Count of a LOOP slot word (R257, R334). -/
def loopCount (e : Eng) (w : W64) : Nat := match e with | .dma => fld w 0 24 | _ => fld w 0 32

/-- Entries that have left the buffer go, and the queue refills it (R332). -/
def Stream.settle (x : Stream) : Stream :=
  let keep := (x.loops.map (·.1)).foldl Nat.min x.pc
  let x := { x with
    buf := x.buf.drop keep, pc := x.pc - keep, gone := x.gone + keep
    loops := x.loops.map (fun (l : Nat × Nat) => (l.1 - keep, l.2)) }
  let room := 256 - x.buf.length
  { x with buf := x.buf ++ x.queue.take room, queue := x.queue.drop room }

/-- The place after the ENDLOOP that matches a LOOP at a place, if the buffer holds it (R333). -/
def matchEnd (e : Eng) : List Entry → Nat → Nat → Option Nat
  | [], _, _ => none
  | .slot w :: l, at_, depth =>
    if slotOp e w = 0x3A then matchEnd e l (at_ + 1) (depth + 1)
    else if slotOp e w = 0x3B then (if depth ≤ 1 then some (at_ + 1) else matchEnd e l (at_ + 1) (depth - 1))
    else matchEnd e l (at_ + 1) depth
  | _ :: l, at_, depth => matchEnd e l (at_ + 1) depth

/-- A stream whose LOOP of count 0 waits for its ENDLOOP goes on once the buffer holds it. -/
def Stream.trySkip (e : Eng) (x : Stream) : Stream :=
  if !x.skip then x
  else match matchEnd e (x.buf.drop x.pc) x.pc 0 with
    | some k => { x with pc := k, skip := false }.settle
    | none => x

/-- Entries added to an engine's queue. -/
def Stream.push (e : Eng) (l : List Entry) (x : Stream) : Stream :=
  ({ x with queue := x.queue ++ l, given := x.given + l.length }.settle).trySkip e

/-- A structure fault of an engine's stream (R333): the engine stops and the Uzoid core asserts. -/
def structFault (s : State) (t : Nat) (e : Eng) : State :=
  let d := t / 64
  let tag := engTag s t (engNo e)
  let s := updStream s t e (fun x => { x with stopped := true })
  fwAssert (seqErr s d 0x0212 tag (t % 64) (engNo e)) d 0x02 0 0x0212 tag

/-- An entry reached: an align entry inside an open loop is a structure fault, and so is a body that the buffer cannot hold
(R333, R339). -/
def reachEntry (s : State) (t : Nat) (e : Eng) : State :=
  let x := (s.tile t).stream e
  if x.stopped then s
  else if x.skip then (if 256 ≤ x.buf.length then structFault s t e else s)
  else match x.buf[x.pc]? with
  | some (.align _) =>
    if x.atAlign then s
    else if x.loops.isEmpty then updStream s t e (fun x => { x with atAlign := true }) else structFault s t e
  | some _ => s
  | none => if !x.loops.isEmpty && 256 ≤ x.buf.length then structFault s t e else s

/-- The stream past its entry, which issued for `n` tc. -/
def nextEntry (s : State) (t : Nat) (e : Eng) (n : Nat) : State :=
  reachEntry (updStream s t e (fun x => { x with pc := x.pc + 1, clk := x.clk + n, us := s.us }.settle)) t e

/-- SIGs that wait for nothing any more are applied (R338). -/
def applySigs (s : State) (t : Nat) (e : Eng) : State :=
  let l := ((s.tile t).stream e).sigs
  let s := updStream s t e (fun x => { x with sigs := l.filter (fun g => !g.2.2.isEmpty) })
  forEach s (l.filter (·.2.2.isEmpty)) (fun s g => semAdd s t g.1 g.2.1)

/-- What the SIGs of a stream wait for has completed: number `k`. -/
def sigDone (s : State) (t : Nat) (e : Eng) (k : Nat) : State :=
  applySigs (updStream s t e (fun x => { x with sigs := x.sigs.map (fun g => (g.1, g.2.1, g.2.2.filter (· ≠ k))) })) t e

/-- The MX runs of a tile whose last line is not written, oldest first. -/
def Tile.runs (t : Tile) : List MxRun := t.ended ++ t.run.toList

/-- A pass or a drain is in flight (R250 MX_BUSY). -/
def Tile.mxBusy (t : Tile) : Bool := t.runs.any (fun r => r.started || r.draining)

/-- A drain is in flight (R250 DRAIN_BUSY). -/
def Tile.drainBusy (t : Tile) : Bool := t.runs.any (·.draining)

/-- What an engine's later SIG must wait for: the MX runs by number, the DMA channels that slots have started, the SRL accesses
outstanding by number (R338). -/
def pendingWork (t : Tile) (e : Eng) : List Nat :=
  match e with
  | .mx => t.runs.map (·.no)
  | .ve => []
  | .dma => t.drun.map (·.1)
  | .srl => t.srlOut.filter (fun n => !t.srlMid.contains n)

/-- A variable work begins at the entry that an engine issues now (R347). -/
def beginWork (s : State) (t : Nat) (e : Eng) (k : Nat) : State :=
  s.updTile t (fun x =>
    let y := x.stream e
    { x with ords := x.ords.filter (fun o => !(o.1 = engNo e && o.2.1 = k)) ++ [(engNo e, k, y.gone + y.pc)] })

/-- The tile's engines may issue (R249, R481, R528). -/
def tileRuns (s : State) (t : Nat) : Bool :=
  !tileOff s t && !halted s && getF s (pgTile t) F.HDR_CTRL_FREEZE = 0 && !s.disabled.contains (pgTile t)

/-- A RUN of the engine is still being issued (R239, R375). -/
def runHolds (k : Tile) (e : Eng) : Bool :=
  match e, k.run with
  | .mx, some r => decide (r.iter < r.total)
  | .mx, none => false
  | .srl, _ => k.srun.isSome
  | _, _ => false

/-- The slot word that an engine issues next, if it may issue (R339, R340, R349). -/
def nextSlot (s : State) (t : Nat) (e : Eng) : Option W64 :=
  let k := s.tile t
  let x := k.stream e
  if !tileRuns s t || x.stopped || x.wait.isSome || x.routine.isSome || x.swait.isSome || x.skip || x.atAlign then none
  else if runHolds k e then none
  else match x.buf[x.pc]? with
    | some (.slot w) => some w
    | _ => none

/-- An engine issues a slot word with an operation and fields: the command of that operation, if it is the next one. -/
def issue (s : State) (t : Nat) (e : Eng) (op : Nat) (fits : W64 → Bool) (f : State → W64 → State) : State :=
  match nextSlot s t e with
  | some w => if slotOp e w = op && fits w then f s w else s
  | none => s

/-- An illegal MX, DMA or SRL instruction (R338): logged, and a NOP of 1 tc. -/
def illegalSlot (s : State) (t : Nat) (e : Eng) : State :=
  nextEntry (seqErr s (t / 64) 0x0211 (engTag s t (engNo e)) (t % 64) (engNo e)) t e 1

/-- NOP for n tc, 0 taken as 1 (R334). -/
def slotNop (s : State) (t : Nat) (e : Eng) (n : Nat) : State := nextEntry s t e (if n = 0 then 1 else n)

/-- WAIT (R345). -/
def slotWait (s : State) (t : Nat) (e : Eng) (sem k : Nat) : State :=
  updStream s t e (fun x => { x with wait := some (sem, k) })

/-- SIG (R338). One that waits for no variable work takes effect at its issue, and tells the other engines that the results before
it are complete (log 3). -/
def slotSig (s : State) (t : Nat) (e : Eng) (sem v : Nat) : State :=
  let w := pendingWork (s.tile t) e
  let s := if w.isEmpty then
      s.updTile t (fun k => { k with soon := k.soon.map (fun x => if x.eng = engNo e then { x with told := true } else x) })
    else s
  nextEntry (applySigs (updStream s t e (fun x => { x with sigs := x.sigs ++ [(sem, v, w)] })) t e) t e 1

/-- LOOP (R333). -/
def slotLoop (s : State) (t : Nat) (e : Eng) (count : Nat) : State :=
  let x := (s.tile t).stream e
  if 4 ≤ x.loops.length then structFault s t e
  else if count = 0 then reachEntry (updStream s t e (fun x => ({ x with skip := true, clk := x.clk + 1 }).trySkip e)) t e
  else nextEntry (updStream s t e (fun x => { x with loops := (x.pc, count) :: x.loops })) t e 1

/-- ENDLOOP (R333): another round, or the loop closes. -/
def slotEndloop (s : State) (t : Nat) (e : Eng) : State :=
  match ((s.tile t).stream e).loops with
  | [] => structFault s t e
  | (start, left) :: l =>
    if left ≤ 1 then nextEntry (updStream s t e (fun x => { x with loops := l })) t e 0
    else reachEntry (updStream s t e (fun x => { x with pc := start + 1, loops := (start, left - 1) :: l })) t e

/-! ## Layer configuration slots (R363 to R366) -/

/-- BAR0 offset of a word of an LCB slot (R380). -/
def lcbAt (t slot w : Nat) : Nat := pgLcb t slot + 0x400 + slot % 4 * 0x200 + w * 8

/-- The 64 words of an LCB slot. -/
def lcbWords (s : State) (t slot : Nat) : List W64 := (List.range 64).map (fun w => s.reg (lcbAt t slot w))

/-- The 64 words of an LCB slot set. -/
def setLcb (s : State) (t slot : Nat) (l : List W64) : State :=
  forEach s (l.zip (List.range 64)) (fun s (v, w) => s.setReg (lcbAt t slot w) v)

/-! ## Early reads (R344) -/

/-- The stream of an engine by its number (R357). -/
def Tile.streamNo (t : Tile) (n : Nat) : Stream := [t.mx, t.ves, t.dmas, t.srl].getD n t.mx

/-- A result may still be incomplete where another engine (or the same, by its own count of tc) reads it: its stream has not issued
past the moment of completion, no SIG behind it has been applied, and less than 1 µs has surely passed (log 3). -/
def Soon.live (x : Soon) (s : State) (t e : Nat) : Bool :=
  decide (s.us ≤ x.us + 1) && decide (((s.tile t).streamNo x.eng).clk < x.tc) && (x.eng = e || !x.told)

/-- Results that complete later noted. -/
def addSoon (s : State) (t : Nat) (l : List Soon) : State :=
  s.updTile t (fun k => { k with soon := k.soon.filter (fun x => s.us ≤ x.us + 1) ++ l })

/-- An LCB slot as a result. -/
def slotThing (slot : Nat) : Nat := 65536 + slot

/-- SRAM lines that an engine would read before the instruction that writes them is complete (R344): lines of MX runs, of SRDs, and
stores of the vector engine; the vector engine counts its own stores by R272. -/
def earlyLines (s : State) (t e : Nat) : List Nat :=
  let k := s.tile t
  ((if e = 0 then k.ended else k.runs).flatMap (·.lines)
    ++ k.srdLines.flatMap (fun x => (List.range x.2.2).map (x.2.1 + ·))
    ++ (k.soon.filter (fun x => x.thing < 65536 && x.eng ≠ e && x.live s t e)).map (·.thing)).eraseDups

/-- A line of a tile's SRAM as undefined data. -/
def blurLine (acc : Tile × State) (line : Nat) : Tile × State :=
  let (a, s) := acc.2.draw
  let (b, s) := s.draw
  let (c, s) := s.draw
  let (d, s) := s.draw
  ({ acc.1 with sram := mwrite acc.1.sram (line * 32) ([a, b, c, d].flatMap (fun w => leBytes 8 w.toNat)) }, s)

/-- A tile as an engine reads it: lines read too early hold undefined data (R344). -/
def blur (s : State) (t e : Nat) : Tile × State := (earlyLines s t e).foldl blurLine (s.tile t, s)

/-- CFG.LOAD (R338, R364). -/
def cfgLoad (s : State) (t : Nat) (e : Eng) (slot line : Nat) : State :=
  if 49151 < line + 15 then illegalSlot s t e
  else
    let (k, s) := blur s t (engNo e)
    let p := pgLcb t slot
    let s := charge s (pgTile t) 4 16
    let s := if k.pzRun (line * 32) 512 then
        recordErr (event (setLcb s t slot (List.replicate 64 0)) p 1) p 0x0412 slot
      else setLcb s t slot (leWords (k.run_ (line * 32) 512))
    let s := addSoon s t [{ eng := engNo e, thing := slotThing slot, tc := ((s.tile t).stream e).clk + 20, us := s.us }]
    nextEntry s t e 16

/-- A slot as a RUN latches it (R366): the words of a load that may be incomplete are free values (R344). -/
def latch (s : State) (t : Nat) (e : Eng) (slot : Nat) : List W64 × State :=
  if (s.tile t).soon.any (fun x => x.thing = slotThing slot && x.live s t (engNo e)) then
    (List.range 64).foldl (fun (acc : List W64 × State) _ => let (v, s) := acc.2.draw; (acc.1 ++ [v], s)) ([], s)
  else (lcbWords s t slot, s)

/-- Word k of a latched slot. -/
def lw (l : List W64) (k : Nat) : W64 := l.getD k 0

/-- HDR.CLASS. -/
def lClass (l : List W64) : Nat := fld (lw l 0) 0 4
/-- HDR.NLEV. -/
def lNlev (l : List W64) : Nat := fld (lw l 0) 4 3
/-- HDR.KSPLIT. -/
def lKsplit (l : List W64) : Bool := bitOf (lw l 0) 7
/-- HDR.STREAM. -/
def lStream (l : List W64) (t : Nat) : Bool := bitOf (lw l 0) (8 + t)
/-- COUNT of a level. -/
def lCount (l : List W64) (k : Nat) : Nat := fld (lw l (1 + k / 2)) (k % 2 * 32) 32
/-- START of a term. -/
def lStart (l : List W64) (t : Nat) : Int := sgn 40 (fld (lw l (4 + 7 * t)) 0 40)
/-- TCOEF × x of a term on a tile (R367). -/
def lTile (l : List W64) (t tile : Nat) : Int :=
  let x : Nat := match fld (lw l (4 + 7 * t)) 62 2 with | 0 => tile | 1 => tile % 64 | 2 => tile / 64 | _ => tile % 64 / 32
  let c : Int := sgn 22 (fld (lw l (4 + 7 * t)) 40 22)
  c * Int.ofNat x
/-- STRIDE of a term and a level. -/
def lStride (l : List W64) (t k : Nat) : Int := sgn 40 (fld (lw l (5 + 7 * t + k)) 0 40)

/-- Iterations of the nest (R366, R367). -/
def lTotal (l : List W64) : Nat := ((List.range (lNlev l)).map (lCount l)).foldl (· * ·) 1

/-- The index of a level in an iteration, level 0 fastest. -/
def lIndex (l : List W64) (iter k : Nat) : Nat :=
  iter / ((List.range k).map (lCount l)).foldl (· * ·) 1 % Nat.max 1 (lCount l k)

/-- The terms that stream, rising. -/
def lStreams (l : List W64) : List Nat := (List.range 6).filter (lStream l)

/-- The value of a term in an iteration (R367). -/
def lValue (l : List W64) (tile iter t : Nat) (popped : List (Nat × Int)) : Int :=
  let base := lStart l t + lTile l t tile
  if lStream l t then base + ((popped.find? (·.1 = t)).map (·.2)).getD 0
  else ((List.range (lNlev l)).map (fun k => (lIndex l iter k : Int) * lStride l t k)).foldl (· + ·) base

/-- A selector's value (R369). -/
def selValue (vals : Nat → Int) (sel : Nat) : Int :=
  let v := if sel % 8 = 0 then 0 else vals (sel % 8 - 1)
  if bit sel 3 then v / 32 else v

/-- The entries of an iteration popped from the address stream, if all are there (R376, R378); held stores take the room
(R377). -/
def popAsf (s : State) (t : Nat) (l : List W64) : Option (List (Nat × Int) × State) :=
  let ts := lStreams l
  let q := (s.tile t).asf
  if q.length < ts.length then none
  else
    let s := s.updTile t (fun k =>
      let left := k.asf.drop ts.length
      let room := 256 - left.length
      { k with asf := left ++ k.asfHeld.take room, asfHeld := k.asfHeld.drop room })
    let s := bumpF s (pgLcb t 0) F.LCB_ASF_STAT_POPPED ts.length
    some ((ts.zip q).map (fun (a, v) => (a, sgn 40 (fld v 0 40))), s)

/-- A slot latched by a RUN, or released. -/
def markLatched (s : State) (t slot : Nat) (on : Bool) : State :=
  s.updTile t (fun k => { k with lcbLatched := if on then k.lcbLatched ++ [slot] else k.lcbLatched.erase slot })

/-- An element out of bounds counted (R282, TILE_OOB). -/
def countOob (s : State) (t : Nat) (wr : Bool) (n : Nat) : State :=
  bumpF s (pgTile t) (if wr then F.TILE_OOB_WRITES else F.TILE_OOB_READS) n

/-- Poison bites in an engine of a tile at an SRAM line (R125, R479): the cause is raised and the engine stops. -/
def tileBite (s : State) (t : Nat) (e : Eng) (line : Nat) : State :=
  bite (updStream s t e (fun x => { x with stopped := true })) (t / 64) 0x03 (t % 64) 0x1810 line

/-- Flags of MXFLAGS set (R251 MXFLAG): 1 INVALID, 2 OVERFLOW, 4 NARROW_SAT, 8 POISON_SEEN. -/
def mxFlags (s : State) (t f : Nat) : State :=
  let k := pgTile t + 0x88
  let old := s.reg k
  let s := s.setReg k (old ||| BitVec.ofNat 64 f)
  if s.reg k = old then s else event s (pgTile t) 4

/-- An engine held by a WAIT goes on after `held` tc (R345). -/
def releaseWait (s : State) (t : Nat) (e : Eng) (held : Nat) : State :=
  match ((s.tile t).stream e).wait with
  | some (sem, k) =>
    if k ≤ semVal s t sem && tileRuns s t then nextEntry (updStream s t e (fun x => { x with wait := none })) t e (1 + held) else s
  | none => s

end Sys2Proof.Machine
end

