-- ==== Sys2Proof/Machine/Dma.lean ====
section
/-! DEFINITION. DMA channels: programs, MOVEs and their requests, loops, waits and signals (R307 to R322). -/
namespace Sys2Proof.Machine

/-! ## SRAM as a channel reads it -/

/-- A byte of SRAM or of the accumulator window as a DMA read sees it (R226), 0 beyond. -/
def dmaByte (k : Tile) (busy : Bool) (a : Nat) : Byte :=
  if a < sramBytes then k.byte a
  else if a < 0x190000 && !busy then
    let o := a - sramBytes
    BitVec.ofNat 8 ((tget 0 k.acc (o / 4)).toNat / 256 ^ (o % 4))
  else 0

/-- Whether the 64 B unit of an address carries a mark for a DMA read. -/
def dmaPz (k : Tile) (busy : Bool) (a : Nat) : Bool :=
  if a < sramBytes then k.pz a
  else if a < 0x190000 && !busy then
    let o := (a - sramBytes) / 64 * 16
    (List.range 16).any (fun i => k.accPoison.contains (o + i))
  else false

/-- A run of a tile's SRAM or accumulator window read by a DMA channel: bytes, and marks per 64 B unit touched; lines read too early
are undefined (R344). -/
def dmaRun (s : State) (t a n : Nat) : List Byte × List Bool × State :=
  let (k, s) := blur s t 2
  let busy := k.mxBusy
  let s := if n ≠ 0 && sramBytes < a + n && a < 0x190000 && busy then recordErr s (pgTile t) 0x0312 0 else s
  ((List.range n).map (fun i => dmaByte k busy (a + i)), (sectorsOf a n).map (fun u => dmaPz k busy (u * 64)), s)

/-- Source identifier of a channel (R80). -/
def dmaSrc (t c : Nat) : Nat := t * 4 + c

/-! ## Channel state -/

/-- CHc_STAT.STATE. -/
def chSt (s : State) (t c : Nat) : Nat := getF s (pgDma t) F.DMA_CH_STAT_STATE c
/-- CHc_STAT.PC. -/
def chPc (s : State) (t c : Nat) : Nat := getF s (pgDma t) F.DMA_CH_STAT_PC c
/-- The channel of a tile. -/
def dch (s : State) (t c : Nat) : DmaCh := (s.tile t).ch c
/-- A channel changed. -/
def updDch (s : State) (t c : Nat) (f : DmaCh → DmaCh) : State := s.updTile t (·.updCh c f)

/-- The channel may issue requests and run (R249, R322, R481, R528). -/
def dmaRuns (s : State) (t : Nat) : Bool :=
  tileRuns s t && getF s (pgDma t) F.HDR_CTRL_FREEZE = 0 && !s.disabled.contains (pgDma t)

/-- The descriptor copies of completed MOVEs are given up (R291). -/
def releaseHolds (s : State) (t c : Nat) : State :=
  let hs := (dch s t c).ctl.holds
  let s := forEach s hs (fun s a => s.updAlloc a (fun e => { e with refs := e.refs - 1 }))
  updDch s t c (fun x => { x with ctl := { x.ctl with holds := [] } })

/-- The channel back in IDLE: what the slot stream's instruction waits for has completed (R336, R338). -/
def chanIdle (s : State) (t c : Nat) : State :=
  let s := releaseHolds s t c
  let s := setF (setF s (pgDma t) F.DMA_CH_STAT_STATE 0 c) (pgDma t) F.DMA_CH_STAT_PC 0 c
  let s := updDch s t c (fun x => { x with prog := [], fetched := [], loops := [], wait := none, sig := none, ctl := {}, move := none, asm := {} })
  let run := (s.tile t).drun.filter (·.1 = c)
  let s := s.updTile t (fun k => { k with drun := k.drun.filter (·.1 ≠ c) })
  let s := forEach s run (fun s r => if r.2 < 8 then markLatched s t r.2 false else s)
  if run.isEmpty then s else sigDone s t .dma c

/-- A program or an instruction refused (R308, R317). -/
def chRefuse (s : State) (t c code pc : Nat) : State :=
  let p := pgDma t
  let s := setF (setF s p F.DMA_CH_RESULT_CODE code c) p F.DMA_CH_RESULT_PC pc c
  let s := updDch (refusal (event s p (4 + c)) p) t c (fun x => { x with fetched := [], move := none, asm := {} })
  if (dch s t c).writes.isEmpty then chanIdle s t c else setF s p F.DMA_CH_STAT_STATE 5 c

/-- Words of the instruction at a word. -/
def insLen (w : W64) : Nat := if fld w 0 8 = 0x10 then 13 else 1

/-- The structure check of R308 over fetched words: the number of words up to the first END, or a code and a word index. -/
def structCheck (l : List W64) : Nat → Nat → Nat → Except (Nat × Nat) Nat
  | 0, pc, _ => .error (0x0549, pc)
  | n + 1, pc, depth =>
    match l[pc]? with
    | none => .error (0x0549, pc)
    | some w =>
      match fld w 0 8 with
      | 0x01 => if depth = 0 then .ok (pc + 1) else .error (0x0547, pc)
      | 0x02 => if 4 ≤ depth then .error (0x0547, pc) else structCheck l n (pc + 1) (depth + 1)
      | 0x03 => if depth = 0 then .error (0x0547, pc) else structCheck l n (pc + 1) (depth - 1)
      | 0x10 => if 256 < pc + 13 then .error (0x0549, pc) else structCheck l n (pc + 13) depth
      | _ => structCheck l n (pc + 1) depth

/-- The channel is between instructions: running, every request of its MOVEs issued, nothing waited for. -/
def chReady (s : State) (t c : Nat) : Bool :=
  let x := dch s t c
  chSt s t c = 2 && dmaRuns s t && x.move.isNone && x.rtodo.isEmpty && x.reads.isEmpty && x.wtodo.isEmpty && x.wait.isNone
    && x.sig.isNone

/-- The current word. -/
def chWord (s : State) (t c : Nat) : W64 := (dch s t c).prog.getD (chPc s t c) 0

/-- The next instruction. -/
def chNext (s : State) (t c n : Nat) : State := setF s (pgDma t) F.DMA_CH_STAT_PC (chPc s t c + n) c

/-- The channel performs an instruction of an opcode, if it is the next one; a set reserved bit refuses it (R309). -/
def chDo (s : State) (t c op : Nat) (reserved : W64) (fits : W64 → Bool) (f : State → W64 → State) : State :=
  let w := chWord s t c
  if !chReady s t c || fld w 0 8 ≠ op || !fits w then s
  else if w &&& reserved ≠ 0 then chRefuse s t c 0x0540 (chPc s t c)
  else f s w

/-! ## Places (R281, R282, R293) -/

/-- Where an element lies: outside, a refused remote reference, or a bit address in a place. -/
inductive Place where
  | out
  | refused
  | at_ (l : Loc)
  deriving DecidableEq, Repr

/-- The place of an element of a descriptor. -/
def placeOf (s : State) (d : List W64) (ix : List Int) : Place :=
  match dKind d with
  | 2 =>
    if elemClass d ix ≠ 0 then .out
    else
      let t := s.otab (dTable d)
      let g (k : Nat) : Nat := (ix.getD k 0).toNat / Nat.max 1 (t.blk k)
      let l : List Int := (List.range (dRank d)).map (fun (k : Nat) => Int.ofNat ((ix.getD k 0).toNat % Nat.max 1 (t.blk k)))
      let b := (List.range (dRank d)).foldr (fun k acc => g k + t.grd k * acc) 0
      let e := t.entries.getD b 0
      if !ePresent e then .out
      else if ePart e = partNo s then .at_ ⟨1, 0, (elemBit (entryDesc s t b e) l).toNat⟩
      else if dLocalOnly d || !svcGlobal s then .refused
      else .at_ ⟨2, ePart e, (elemBit (entryDesc s t b e) l).toNat⟩
  | k => if elemClass d ix = 2 then .out else .at_ ⟨if k = 1 then 0 else 1, if k = 1 then dTile d else 0, (elemBit d ix).toNat⟩

/-! ## A MOVE (R310 to R315) -/

/-- FORM. -/
def mForm (w : List W64) : Nat := fld (lw w 0) 8 2
/-- Handle k: SRC, DST, IDX. -/
def mHandle (w : List W64) (k : Nat) : Nat := fld (lw w 0) (12 + 12 * k) 12
/-- PERM[d]. -/
def mPerm (w : List W64) (d : Nat) : Nat := fld (lw w 1) (3 * d) 3
/-- ADV_S0, ADV_D0, ADV_S1, ADV_D1. -/
def mAdv (w : List W64) (k : Nat) : Nat := fld (lw w 1) (18 + 3 * k) 3
/-- SSTEP0, DSTEP0, SSTEP1, DSTEP1. -/
def mStep (w : List W64) (k : Nat) : Int := sgn 32 (fld (lw w (11 + k / 2)) (k % 2 * 32) 32)
/-- E[d]. -/
def mE (w : List W64) (d : Nat) : Nat := fld (lw w (8 + d / 2)) (d % 2 * 32) 32

/-- Iteration number of loop level k. -/
def iterOf (x : DmaCh) (k : Nat) : Nat := ((x.loops[k]?).map (·.iter)).getD 0

/-- A start index after the advances (R311): `side` 0 source, 1 destination. -/
def mStart (w : List W64) (x : DmaCh) (side d : Nat) : Int :=
  let v : Int := sgn 32 (fld (lw w (2 + 3 * side + d / 2)) (d % 2 * 32) 32)
  let adv (k : Nat) : Int := if mAdv w (2 * k + side) = d then Int.ofNat (iterOf x k) * mStep w (2 * k + side) else 0
  v + adv 0 + adv 1

/-- Box index tuples of dimensions 1 and above, dimension 1 fastest. -/
def boxOuter (w : List W64) (R : Nat) : List (List Nat) :=
  ((List.range R).drop 1).foldl (fun (acc : List (List Nat)) d => (List.range (mE w d)).flatMap (fun i => acc.map (· ++ [i]))) [[]]

/-- The index tuple of the k-th inside element, dimension 0 fastest. -/
def nthInside (d : List W64) (k : Nat) : List Int :=
  ((List.range (dRank d)).foldl (fun (a : List Int × Nat) i => (a.1 ++ [Int.ofNat (a.2 % Nat.max 1 (dDim d i))], a.2 / Nat.max 1 (dDim d i))) ([], k)).1

/-- One element of a MOVE: where it comes from and where it goes. -/
structure MElem where
  src : Place
  dst : Place
  first : Bool
  deriving DecidableEq, Repr

/-- Source and destination index tuples of a box index (R311); none where a poisoned index skips the slice. -/
def mIndices (w : List W64) (x : DmaCh) (R : Nat) (idx : List (Option Int)) (e : List Nat) : Option (List Int × List Int) :=
  let si (d : Nat) : Int := mStart w x 0 d + Int.ofNat (e.getD d 0)
  let inv (j : Nat) : Nat := ((List.range R).find? (fun d => mPerm w d = j)).getD j
  let di (j : Nat) : Int := mStart w x 1 j + Int.ofNat (e.getD (inv j) 0)
  let ss := (List.range R).map si
  let dd := (List.range R).map di
  if mForm w = 0 then some (ss, dd)
  else (idx.getD (e.getD (R - 1) 0) none).map (fun v =>
    if mForm w = 1 then (ss.set (R - 1) (v + mStart w x 0 (R - 1)), dd) else (ss, dd.set (R - 1) (v + mStart w x 1 (R - 1))))

/-- The elements of a MOVE in box order, and the number skipped. `first` marks a row's first element. -/
def mElems (s : State) (w : List W64) (x : DmaCh) (ds dd : List W64) (idx : List (Option Int)) : List MElem × Nat :=
  let R := dRank ds
  let all := (boxOuter w R).flatMap (fun o => (List.range (mE w 0)).map (fun i =>
    (mIndices w x R idx (i :: o)).map (fun (a, b) => (⟨placeOf s ds a, placeOf s dd b, i = 0⟩ : MElem))))
  (all.filterMap id, all.countP Option.isNone)

/-- The byte range that the elements of a side name in one memory of this part: `kind` and `who`. -/
def spanOf (kind who w : Nat) (l : List Place) : Option (Nat × Nat) :=
  l.foldl (fun (a : Option (Nat × Nat)) p => match p with
    | .at_ q => if q.kind = kind && q.who = who then
        some (match a with
          | none => (q.addr / 8, (q.addr + w - 1) / 8)
          | some (lo, hi) => (Nat.min lo (q.addr / 8), Nat.max hi ((q.addr + w - 1) / 8)))
      else a
    | _ => a) none

/-- The sides share a byte range in one memory (R315). -/
def sidesMeet (ds dd : List W64) (l : List MElem) : Bool :=
  let mems := ((l.filterMap (fun e => match e.src with | .at_ q => if q.kind ≤ 1 then some (q.kind, q.who) else none | _ => none)).eraseDups)
  mems.any (fun m =>
    match spanOf m.1 m.2 (dWidth ds) (l.map MElem.src), spanOf m.1 m.2 (dWidth dd) (l.map MElem.dst) with
    | some a, some b => decide (a.1 ≤ b.2) && decide (b.1 ≤ a.2)
    | _, _ => false)

/-- An identical MOVE (R315). -/
def identicalMove (w : List W64) (x : DmaCh) (ds dd : List W64) : Bool :=
  let R := dRank ds
  mForm w = 0 && dKind ds = dKind dd && (dKind ds ≠ 1 || dTile ds = dTile dd) && (dKind ds ≠ 2 || dTable ds = dTable dd)
    && dBase ds = dBase dd && dType ds = dType dd && !dAccum dd
    && (List.range R).all (fun d => dStride ds d = dStride dd d && mPerm w d = d && mStart w x 0 d = mStart w x 1 d)

/-- Types that a MOVE may join (R312 check 3, R313). -/
def typesOk (ds dd : List W64) : Bool :=
  if dAccum dd then (dType dd = 10 && [10, 7, 0, 1].contains (dType ds)) || (dType dd = 11 && dType ds = 11)
  else dType ds = dType dd

/-- The checks of a MOVE before its elements are placed (R310, R312): 0, or the code of the first that fails. DEDUCED: the
0x0540 checks of the words come first, the advances' right after the handles'. -/
def moveCheck (s : State) (w : List W64) (x : DmaCh) : Nat :=
  let form := mForm w
  let ds := s.desc (mHandle w 0)
  let dd := s.desc (mHandle w 1)
  let di := s.desc (mHandle w 2)
  let named := [ds, dd] ++ (if form = 0 then [] else [di])
  let R := dRank ds
  let wd := dWidth ds
  let offByte (i : Int) : Bool := (i * wd) % 8 ≠ 0
  if form = 3 || fld (lw w 0) 48 16 ≠ 0 || fld (lw w 1) 30 34 ≠ 0 || (form = 0 && mHandle w 2 ≠ 0) then 0x0540
  else if named.any (fun d => !dValid d || (dKind d = 2 && !svcGlobal s)) then 0x0541
  else if (List.range 4).any (fun k => R ≤ mAdv w k && mStep w k ≠ 0) then 0x0540
  else if dReadOnly dd then 0x0542
  else if dRank ds ≠ dRank dd || !typesOk ds dd then 0x0543
  else if (List.range R).any (fun j => !(List.range R).any (fun d => mPerm w d = j))
      || (mPerm w 0 ≠ 0 && !dNarrow ds && !dNarrow dd) || (form ≠ 0 && mPerm w (R - 1) ≠ R - 1) then 0x0544
  else if form ≠ 0 && (dType di ≠ 11 || ((List.range (dRank di)).map (dDim di)).foldl (· * ·) 1 < mE w (R - 1)) then 0x0546
  else if isPacked (dType ds) && (offByte (mStart w x 0 0) || offByte (mStart w x 1 0) || offByte (mE w 0)) then 0x0548
  else 0

/-! ## Requests of a MOVE (R314, R321) -/

/-- A run of elements that is contiguous on both sides: the source (none: FILL), the destination, elements; and whether it goes on
where the run before it ends, on each side. -/
structure Seg where
  src : Option Loc
  dst : Loc
  n : Nat
  joinS : Bool
  joinD : Bool
  deriving DecidableEq, Repr

/-- A place goes on where `n` elements of `w` bits at another end. -/
def Loc.follows (a : Loc) (n w : Nat) (b : Loc) : Bool := a.kind = b.kind && a.who = b.who && a.addr + n * w = b.addr

/-- The elements that are written joined into runs; a NARROW side is broken at every element (R314). -/
def segsOf (ws wd : Nat) (narrowS narrowD : Bool) (l : List MElem) : List Seg :=
  let step (acc : List Seg) (e : MElem) : List Seg :=
    match e.dst with
    | .at_ q =>
      let src : Option Loc := match e.src with | .at_ p => some p | _ => none
      match acc with
      | g :: r =>
        let js := !narrowS && !e.first && (match g.src, src with
          | none, none => true
          | some a, some b => a.follows g.n ws b
          | _, _ => false)
        let jd := !narrowD && !e.first && g.dst.follows g.n wd q
        if js && jd then { g with n := g.n + 1 } :: r else ⟨src, q, 1, js, jd⟩ :: g :: r
      | [] => [⟨src, q, 1, false, false⟩]
    | _ => acc
  (l.foldl step []).reverse

/-- Bits of a run split where its bytes cross a 2 KiB boundary: offset and length of each part. -/
def cutAt2K : Nat → Nat → Nat → List (Nat × Nat)
  | 0, _, _ => []
  | fuel + 1, a, n =>
    if n = 0 then []
    else
      let room := 16384 - a % 16384
      if n ≤ room then [(0, n)] else (0, room) :: (cutAt2K fuel (a + room) (n - room)).map (fun x => (x.1 + room, x.2))

/-- Tags are 16 bits. -/
def nextTags (x : DmaCh) (n : Nat) : List Nat := (List.range n).map (fun i => (x.nextTag + i) % 2 ^ 16)

/-- Bytes of an access unit of a memory (R283). -/
def unitOf_ (kind : Nat) : Nat := if kind = 0 then 32 else 64

/-- A list cut into groups: a new one begins at each element for which `new` holds. -/
def grouped {α : Type} (new : α → Bool) (l : List α) : List (List α) :=
  l.foldr (fun x acc => match acc with
    | [] => [[x]]
    | g :: r => match g with
      | y :: _ => if new y then [x] :: g :: r else (x :: g) :: r
      | [] => [x] :: r) []

/-- A run that begins or ends inside a byte on the destination side (R314), from the runs joined there. -/
def partByte (wd : Nat) (l : List Seg) : Bool :=
  match l with
  | [] => false
  | g :: _ => g.dst.addr % 8 ≠ 0 || (g.dst.addr + (l.map (·.n)).sum * wd) % 8 ≠ 0

/-- The runs of a MOVE with what each needs: whether it ends its destination run, and whether that run has bytes named in part. -/
def segPlan (wd : Nat) (l : List Seg) : List (Seg × Bool × Bool) :=
  (grouped (fun g => !g.joinD) l).flatMap (fun g =>
    (List.range g.length).zip g |>.map (fun (i, x) => (x, i + 1 = g.length, partByte wd g)))

/-- The reads of the bytes that a destination run names in part: its first and its last byte. -/
def oldReads (wd : Nat) (l : List Seg) : List DmaRead :=
  match l with
  | [] => []
  | g :: _ =>
    let a := g.dst.addr
    let b := a + (l.map (·.n)).sum * wd
    let bytes := (if a % 8 ≠ 0 then [a / 8] else []) ++ (if b % 8 ≠ 0 && !(a % 8 ≠ 0 && b / 8 = a / 8) then [b / 8] else [])
    bytes.map (fun k =>
      let u := unitOf_ g.dst.kind
      ⟨0, 2, ⟨g.dst.kind, g.dst.who, k / u * u⟩, u, [⟨k % u * 8, 8, none, ⟨g.dst.kind, g.dst.who, k * 8⟩, true⟩]⟩)

/-- The reads of runs that follow one another on the source side: whole access units, none across a 2 KiB boundary (R314, R321). -/
def readsOfGroup (role ws wd fill : Nat) (acc : Bool) (l : List (Seg × Bool × Bool)) : List DmaRead :=
  match l with
  | [] => []
  | (g, _) :: _ =>
    let total := (l.map (·.1.n)).sum
    match g.src with
    | none => [⟨0, role, ⟨0, 0, 0⟩, 0, l.map (fun (x, last, _) => ⟨0, x.n * ws, some (fill, ws), x.dst, last⟩)⟩]
    | some p =>
      let u := unitOf_ p.kind
      -- offset of each run in the group
      let offs := (l.foldl (fun (a : List (Nat × Seg × Bool) × Nat) x => (a.1 ++ [(a.2, x.1, x.2.1)], a.2 + x.1.n * ws)) ([], 0)).1
      (cutAt2K (total * ws / 16384 + 2) p.addr (total * ws)).map (fun c =>
        let a := p.addr + c.1
        let lo := a / 8 / u * u
        let hi := ((a + c.2 + 7) / 8 + u - 1) / u * u
        ⟨0, role, ⟨p.kind, p.who, lo⟩, hi - lo, offs.filterMap (fun (o, x, last) =>
          let from_ := Nat.max o c.1
          let to_ := Nat.min (o + x.n * ws) (c.1 + c.2)
          if to_ ≤ from_ then none
          else some ⟨p.addr + from_ - lo * 8, to_ - from_, none,
            ⟨x.dst.kind, x.dst.who, x.dst.addr + (if acc then (from_ - o) / ws * wd else from_ - o)⟩,
            last && to_ = o + x.n * ws⟩)⟩)

/-- The reads of a MOVE's runs, in box order; before a destination run that names bytes in part, the reads of those bytes. -/
def moveReads (role ws wd fill : Nat) (acc : Bool) (l : List Seg) : List DmaRead :=
  let plan := segPlan wd l
  (grouped (fun (x : Seg × Bool × Bool) => !x.1.joinS || x.2.2) plan).flatMap (fun g =>
    match g with
    | (x, _, part) :: _ =>
      (if part && !x.joinD then oldReads wd ((x :: ((l.dropWhile (· ≠ x)).drop 1).takeWhile (·.joinD))) else [])
        ++ readsOfGroup role ws wd fill acc g
    | [] => [])

/-- The bits a piece takes from its read's data. -/
def pieceBits (p : Piece) (data : List Byte) : Nat :=
  match p.fill with
  | some (f, w) => (List.range ((p.n + w - 1) / w)).foldl (fun a i => a + f % 2 ^ w * 2 ^ (i * w)) 0 % 2 ^ p.n
  | none => leNat data / 2 ^ p.off % 2 ^ p.n

/-- Whether a bit of a piece comes from a poisoned 64 B of its read. -/
def piecePz (r : DmaRead) (p : Piece) (marks : List Bool) (b : Nat) : Bool :=
  p.fill.isNone && marks.getD ((r.loc.addr + (p.off + b) / 8) / 64 - r.loc.addr / 64) false

/-- A piece's destination bytes: value, named bits, poison mark (R124). -/
def pieceBytes (r : DmaRead) (p : Piece) (data : List Byte) (marks : List Bool) : List (Nat × Nat × Bool) :=
  let v := pieceBits p data
  let d := p.dst.addr
  (List.range ((d + p.n + 7) / 8 - d / 8)).map (fun i =>
    let from_ := Nat.max d ((d / 8 + i) * 8)
    let to_ := Nat.min (d + p.n) ((d / 8 + i) * 8 + 8)
    (v / 2 ^ (from_ - d) % 2 ^ (to_ - from_) * 2 ^ (from_ % 8), (2 ^ (to_ - from_) - 1) * 2 ^ (from_ % 8),
      piecePz r p marks (from_ - d) || piecePz r p marks (to_ - 1 - d)))

/-- Bytes appended to those being assembled; a byte that both name a part of is one byte. -/
def joinBytes (a b : List (Nat × Nat × Bool)) (shared : Bool) : List (Nat × Nat × Bool) :=
  match shared, a.getLast?, b with
  | true, some x, y :: r => a.dropLast ++ (x.1 + y.1, x.2.1 + y.2.1, x.2.2 || y.2.2) :: r
  | _, _, _ => a ++ b

/-- The write requests of assembled bytes: the other bits of a byte named in part are those read for it. -/
def writesOf (at_ : Loc) (l : List (Nat × Nat × Bool)) (old : List (Loc × Byte)) : List DmaWrite :=
  (cutAt2K (l.length / 2048 + 2) (at_.addr * 8) (l.length * 8)).map (fun c =>
    let lo := at_.addr + c.1 / 8
    let part := (l.drop (c.1 / 8)).take (c.2 / 8)
    let bytes := ((List.range part.length).zip part).map (fun (i, (v, m, _)) =>
      let o : Nat := ((old.find? (·.1 = ⟨at_.kind, at_.who, lo + i⟩)).map (·.2.toNat)).getD 0
      some (BitVec.ofNat 8 (o - Nat.land o m + v)))
    ⟨0, ⟨at_.kind, at_.who, lo⟩, bytes, (sectorsOf lo part.length).map (fun u =>
      (List.range part.length).any (fun i => (lo + i) / 64 = u && (part.getD i (0, 0, false)).2.2))⟩)

/-- A piece of a copy joined to what is assembled: the whole access units are written, and at the run's end the rest (R314). -/
def assemble (x : Assembly) (r : DmaRead) (p : Piece) (data : List Byte) (marks : List Bool) : List DmaWrite × Assembly :=
  let at_ : Loc := if x.bytes.isEmpty then ⟨p.dst.kind, p.dst.who, p.dst.addr / 8⟩ else x.start
  let l := joinBytes x.bytes (pieceBytes r p data marks) (decide (p.dst.addr % 8 ≠ 0))
  if p.last then (writesOf at_ l x.old, {})
  else
    let u := unitOf_ at_.kind
    let n := (p.dst.addr + p.n) / 8 / u * u - at_.addr
    (writesOf at_ (l.take n) x.old, { x with start := { at_ with addr := at_.addr + n }, bytes := l.drop n })

/-- The write requests of a read that is a copy's. -/
def copyWrites (x : Assembly) (r : DmaRead) (data : List Byte) (marks : List Bool) : List DmaWrite × Assembly :=
  r.pieces.foldl (fun a p => let (w, x) := assemble a.2 r p data marks; (a.1 ++ w, x)) ([], x)

/-- The accumulating writes of a read (R301): the source elements' bytes, cut where the destination crosses a row. -/
def accWrites (ctl : MoveCtl) (r : DmaRead) (data : List Byte) (marks : List Bool) : List DmaWrite :=
  let ws := elemWidth ctl.src
  r.pieces.flatMap (fun p =>
    let v := pieceBits p data
    let n := p.n / ws
    (cutAt2K (n * 32 / 16384 + 2) p.dst.addr (n * 32)).map (fun c =>
      let b0 := c.1 / 32 * ws / 8
      let len := c.2 / 32 * ws / 8
      ⟨0, ⟨p.dst.kind, p.dst.who, (p.dst.addr + c.1) / 8⟩, ((leBytes (n * ws / 8) v).drop b0 |>.take len).map some,
        (List.range ((len + 63) / 64)).map (fun u =>
          (List.range 64).any (fun i => u * 64 + i < len && piecePz r p marks ((b0 + u * 64 + i) * 8)))⟩))

/-- The index elements of a read: number, value, poison (R312). -/
def idxOf (r : DmaRead) (data : List Byte) (marks : List Bool) : List (Nat × Int × Bool) :=
  r.pieces.flatMap (fun p =>
    let v := pieceBits p data
    (List.range (p.n / 32)).map (fun i => (p.dst.addr / 32 + i, sgn 32 (v / 2 ^ (32 * i) % 2 ^ 32), piecePz r p marks (32 * i))))

/-! ## Issuing (R321) -/

/-- A read request issued. A read of SRAM, and FILL, has its data at once; so has one of a row that nothing backs, which reads
zeros (R7). -/
def issueRead (t c : Nat) (s : State) (r : DmaRead) : State :=
  let s := updDch s t c (fun x => { x with reads := x.reads ++ [r] })
  let back (s : State) (d : List Byte) (m : List Bool) : State := updDch s t c (fun x => { x with rback := x.rback ++ [(r.tag, d, m)] })
  match r.loc.kind with
  | 0 =>
    let (d, m, s) : List Byte × List Bool × State := if r.len = 0 then ([], [], s) else dmaRun s r.loc.who r.loc.addr r.len
    back (charge s (pgTile r.loc.who) 4 (r.len / 32)) d m
  | 1 =>
    if backed s.member r.loc.addr then
      arrive s { src := dmaSrc t c, pa := r.loc.addr, nsec := r.len / 64, write := false, data := [], poison := [], tag := r.tag, bypass := 0 }
    else back s (List.replicate r.len 0) (List.replicate (r.len / 64) false)
  | _ => toEgress s (t / 64) { blankPkt 3 r.loc.who (partNo s) (dmaSrc t c) with pa := r.loc.addr, tag := r.tag, len := r.len }

/-- The SRAM adder (R301, R302): source elements added into a tile's SRAM, a line at a time. -/
def sramAdd (s : State) (t : Nat) (ctl : MoveCtl) (w : DmaWrite) : State :=
  let k := s.tile w.loc.who
  let wb := elemWidth ctl.src / 8
  let src := leNat (w.data.map (fun b => b.getD 0))
  let n := w.data.length / wb
  let srcPz (i : Nat) : Bool := w.poison.getD (i * wb / 64) false
  let hit := (List.range n).any srcPz || k.pzRun w.loc.addr (4 * n)
  if hit && ctl.bite then bite s (t / 64) 0x05 (t % 64) 0x1810 (w.loc.addr / 32)
  else
    let out := (List.range n).flatMap (fun i =>
      let x := src / 2 ^ (i * wb * 8) % 2 ^ (wb * 8)
      let a := w.loc.addr + 4 * i
      let old := leNat (k.run_ a 4)
      let r := if ctl.dst = 11 then (laneOp .add 5 old x 0).1
        else (laneOp .add 0 old (if ctl.src = 10 then x else
          (roundNE fmtF32 (decodeF (if ctl.src = 7 then fmtBF16 else if ctl.src = 0 then fmtE4M3 else fmtE5M2) x)).1) 0).1
      let pz := srcPz i || k.pz a
      (leBytes 4 r).zip (List.range 4) |>.map (fun (b, j) => (a + j, b.toNat, 255, pz)))
    s.updTile w.loc.who (fun k => k.put out)

/-- Accumulation format of an element type in a WR_ACC (R417 AFMT). -/
def afmtOf (ty : Nat) : Nat := match ty with | 10 => 0 | 7 => 1 | 0 => 2 | _ => 3

/-- Whole sectors around a run of written bytes. -/
def sectorReq (src tag a : Nat) (data : List (Option Byte)) (pz : List Bool) : Req :=
  let lead := List.replicate (a % 64) none
  let n := (a % 64 + data.length + 63) / 64
  { src := src, pa := a / 64 * 64, nsec := n, write := true
    data := lead ++ data ++ List.replicate (n * 64 - a % 64 - data.length) none
    poison := pz, tag := tag, bypass := 0 }

/-- Destination bytes of a write. -/
def writeBytes (ctl : MoveCtl) (w : DmaWrite) : Nat := if ctl.acc then w.data.length / (elemWidth ctl.src / 8) * 4 else w.data.length

/-- A write request issued. A write of SRAM lands at once. -/
def issueWrite (t c : Nat) (s : State) (w : DmaWrite) : State :=
  let ctl := (dch s t c).ctl
  let s := updDch s t c (fun x => { x with writes := x.writes ++ [w.tag] })
  let s := bumpF s (pgDma t) F.DMA_CH_BYTES (writeBytes ctl w) c
  let pkt (typ part : Nat) : Pkt :=
    { blankPkt typ part (partNo s) (dmaSrc t c) with
      pa := w.loc.addr
      tag := w.tag
      len := w.data.length
      afmt := if typ = 2 then afmtOf ctl.src else 0
      poison := if typ = 2 then w.poison else
        (List.range ((w.data.length + 63) / 64)).map (fun u => (List.range 64).any (fun i =>
          u * 64 + i < w.data.length && w.poison.getD ((w.loc.addr + u * 64 + i) / 64 - w.loc.addr / 64) false))
      payload := w.data.map (fun b => b.getD 0) }
  match w.loc.kind with
  | 0 =>
    let s := if ctl.acc then sramAdd s t ctl w
      else
        let s := if sramBytes < w.loc.addr + w.data.length && w.loc.addr < 0x190000 then recordErr s (pgTile w.loc.who) 0x0311 0 else s
        s.updTile w.loc.who (fun k => k.put (runBytes w.loc.addr w.data (fun i => w.poison.getD ((w.loc.addr + i) / 64 - w.loc.addr / 64) false)))
    let s := charge s (pgTile w.loc.who) 4 ((w.loc.addr + w.data.length + 31) / 32 - w.loc.addr / 32)
    updDch s t c (fun x => { x with wback := x.wback ++ [w.tag] })
  | 1 => if ctl.acc then toEgress s (t / 64) (pkt 2 (partNo s)) else arrive s (sectorReq (dmaSrc t c) w.tag w.loc.addr w.data w.poison)
  | _ => toEgress s (t / 64) (pkt (if ctl.acc then 2 else 1) w.loc.who)

/-- How many of the waiting reads may be issued now: the read of a byte that is named in part waits until everything before it has
completed. -/
def readsReady (x : DmaCh) : Nat :=
  if !x.wtodo.isEmpty then ((x.rtodo.takeWhile (·.role ≠ 2)).length)
  else
    let idle := x.reads.isEmpty && x.writes.isEmpty
    match x.rtodo with
    | r :: l => if r.role = 2 then (if idle then 1 else 0) else 1 + (l.takeWhile (·.role ≠ 2)).length
    | [] => 0

/-- Requests issued while fewer than 16 of a kind are outstanding and the channel may issue (R321, R322). -/
def issueMove (s : State) (t c : Nat) : State :=
  if !dmaRuns s t then s
  else
    let x := dch s t c
    let nw := Nat.min x.wtodo.length (16 - x.writes.length)
    let s := updDch s t c (fun x => { x with wtodo := x.wtodo.drop nw })
    let s := forEach s (x.wtodo.take nw) (issueWrite t c)
    let x := dch s t c
    let nr := Nat.min (readsReady x) (16 - x.reads.length)
    let s := updDch s t c (fun x => { x with rtodo := x.rtodo.drop nr })
    forEach s (x.rtodo.take nr) (issueRead t c)

/-- Reads given their tags and put behind those that wait. -/
def addReads (s : State) (t c : Nat) (l : List DmaRead) : State :=
  updDch s t c (fun x => { x with
    rtodo := x.rtodo ++ (l.zip (nextTags x l.length)).map (fun (r, tag) => { r with tag := tag })
    nextTag := (x.nextTag + l.length) % 2 ^ 16 })

/-! ## Signals (R320) -/

/-- A SIGNAL of KIND 0 to 2 takes effect. -/
def applySignal (s : State) (t : Nat) (w : W64) : State :=
  match fld w 8 2 with
  | 0 => semAdd s t (fld w 16 5) (fld w 48 16)
  | 1 => semAdd s (fld w 28 9) (fld w 16 5) (fld w 48 16)
  | _ => syncAdd s (fld w 16 12) (fld w 48 16)

/-- FENCE and SIG to a part (R320 KIND 3, R426). -/
def sendSignal (s : State) (t c : Nat) (w : W64) : State :=
  let part := fld w 10 6
  let no := (dch s t c).fenceNo
  let h (vc : Nat) : Pkt := { blankPkt 6 part (partNo s) (dmaSrc t c) with fenceNo := no, vc := vc }
  let s := toEgress (toEgress s (t / 64) (h 0)) (t / 64) (h 2)
  let s := toEgress s (t / 64) { blankPkt 5 part (partNo s) (dmaSrc t c) with
    value := fld w 48 16, counter := fld w 16 12, tag := (dch s t c).nextTag }
  updDch s t c (fun x => { x with fenceNo := (no + 1) % 256, nextTag := (x.nextTag + 1) % 2 ^ 16 })

/-- SIGNAL (R320). A part is absent from the system where the routing table has no valid entry for it (DEDUCED). -/
def chSignal (s : State) (t c : Nat) (w : W64) : State :=
  let kind := fld w 8 2
  let part := fld w 10 6
  let self := decide (part = partNo s)
  if (kind = 1 && !hasTile s (fld w 28 9))
      || (kind = 3 && !self && (getF s pgSync F.SYNC_ROUTE_VALID part = 0 || !svcGlobal s)) then
    chRefuse s t c 0x054A (chPc s t c)
  else if kind = 3 then chNext (sendSignal s t c w) t c 1
  else if (dch s t c).writes.isEmpty then chNext (applySignal s t w) t c 1
  else setF (updDch s t c (fun x => { x with sig := some w })) (pgDma t) F.DMA_CH_STAT_STATE 4 c

/-! ## MOVE -/

/-- Entries of the owner table that index tuples reach through a REMOTE descriptor, by table and entry: one for each 64 B (R293). -/
def tableEntries (s : State) (d : List W64) (l : List (List Int)) : List (Nat × Nat) :=
  if dKind d ≠ 2 then []
  else
    let t := s.otab (dTable d)
    (((l.filter (fun ix => elemClass d ix = 0)).map (fun ix =>
      (List.range (dRank d)).foldr (fun k acc => (ix.getD k 0).toNat / Nat.max 1 (t.blk k) + t.grd k * acc) 0 / 8)).eraseDups).map
        (fun b => (dTable d, b * 8))

/-- Index tuples of both sides of a MOVE, in box order. -/
def mTuples (w : List W64) (x : DmaCh) (R : Nat) (idx : List (Option Int)) : List (List Int × List Int) :=
  (boxOuter w R).flatMap (fun o => (List.range (mE w 0)).filterMap (fun i => mIndices w x R idx (i :: o)))

/-- Elements that lie outside or are refused remote references counted (R282, R293). -/
def countOut (s : State) (t : Nat) (write : Bool) (l : List Place) (skipped : Nat) : State :=
  let isOut (q : Place) : Bool := match q with | .at_ _ => false | _ => true
  let ref (q : Place) : Bool := match q with | .refused => true | _ => false
  bumpF (countOob s t write (l.countP isOut + skipped)) pgOwn F.OWN_STAT_REMOTE_REFUSED (l.countP ref)

/-- The elements of a MOVE placed and their reads formed, its index elements being known: what poison does there, the overlap rule,
the counts (R311 to R315). -/
def moveGo (s : State) (t c : Nat) (m : MoveRun) : State :=
  let x := dch s t c
  let w := m.words
  let ds := m.descs.getD 0 []
  let dd := m.descs.getD 1 []
  if m.idx.any (·.2) && dBite (m.descs.getD 2 []) then bite s (t / 64) 0x05 (t % 64) 0x1810 0
  else
    let idx := m.idx.map (fun p => if p.2 then none else some p.1)
    let (els, skipped) := mElems s w x ds dd idx
    if sidesMeet ds dd els then chRefuse s t c 0x0545 (chPc s t c)
    else
      let tuples := mTuples w x (dRank ds) idx
      let (bad, s) := ownFetch s (tableEntries s ds (tuples.map (·.1)) ++ tableEntries s dd (tuples.map (·.2)))
      if bad then s
      else
        let s := countOut s t false (els.map (·.src)) (if mForm w = 1 then skipped else 0)
        let s := countOut s t true (els.map (·.dst)) (if mForm w = 2 then skipped else 0)
        let segs := segsOf (dWidth ds) (dWidth dd) (dNarrow ds) (dNarrow dd) els
        let s := updDch s t c (fun x => { x with move := some { m with begun := true } })
        issueMove (addReads s t c (moveReads 0 (dWidth ds) (dWidth dd) (dFill ds) (dAccum dd) segs)) t c

/-- What waits for the channel's requests goes on: the elements of a MOVE once its index elements are in; the next instruction once
its last request is issued; and, once all have completed, descriptor copies, an owed signal, END, a refusal. -/
def chSettle (s : State) (t c : Nat) : State :=
  let issued (x : DmaCh) : Bool := x.reads.isEmpty && x.rtodo.isEmpty && x.wtodo.isEmpty
  let s := match (dch s t c).move with
    | some m => if !m.begun && issued (dch s t c) then moveGo s t c m else s
    | none => s
  if !issued (dch s t c) then s
  else
    let s := match (dch s t c).move with
      | some m => if m.begun then chNext (updDch s t c (fun x => { x with move := none })) t c 13 else s
      | none => s
    if !(dch s t c).writes.isEmpty || (dch s t c).move.isSome then s
    else
      let s := releaseHolds s t c
      match (dch s t c).sig with
      | some w => chNext (setF (applySignal (updDch s t c (fun x => { x with sig := none })) t w) (pgDma t) F.DMA_CH_STAT_STATE 2 c) t c 1
      | none => if chSt s t c = 5 then chanIdle s t c else s

/-- The index elements of a gather or scatter: where each lies (R299). -/
def idxPlaces (s : State) (w : List W64) (R : Nat) (di : List W64) : List MElem :=
  (List.range (mE w (R - 1))).map (fun k => ⟨placeOf s di (nthInside di k), .at_ ⟨3, 0, 32 * k⟩, k % Nat.max 1 (dDim di 0) = 0⟩)

/-- A MOVE that has passed its checks takes its descriptor copies (R291) and reads its index elements through the channel's own reads
(R299); with none, its elements go at once. -/
def moveTake (s : State) (t c : Nat) (w : List W64) (named : List (List W64)) : State :=
  let ds := named.getD 0 []
  let dd := named.getD 1 []
  let di := named.getD 2 []
  let held := (named.filter (fun d => dKind d ≠ 2)).map dAlloc
  let s := forEach s named (fun s d => holdDesc s d true)
  let ix := if mForm w = 0 then [] else idxPlaces s w (dRank ds) di
  let (bad, s) := ownFetch s (tableEntries s di ((List.range ix.length).map (nthInside di)))
  let s := updDch s t c (fun x => { x with
    move := some ⟨w, named, ix.map (fun _ => (sgn 32 (dFill di % 2 ^ 32), false)), false⟩
    asm := {}
    ctl := { acc := dAccum dd, src := dType ds, dst := dType dd, bite := dBite dd, holds := x.ctl.holds ++ held } })
  if bad then s
  else
    let s := countOut s t false (ix.map (·.src)) 0
    let ix := ix.filter (fun e => match e.src with | .at_ _ => true | _ => false)
    chSettle (issueMove (addReads s t c (moveReads 1 32 32 0 false (segsOf 32 32 (dNarrow di) false ix))) t c) t c

/-- The handles a MOVE names. -/
def moveHandles (w : List W64) : List Nat :=
  [mHandle w 0, mHandle w 1] ++ (if mForm w = 0 ∨ mForm w = 3 then [] else [mHandle w 2])

/-- A MOVE whose descriptors are fetched is checked (R312), is a counted no-op (R315), or starts. -/
def moveStart (s : State) (t c : Nat) : State :=
  let x := dch s t c
  let w := (x.prog.drop (chPc s t c)).take 13
  let code := moveCheck s w x
  if code ≠ 0 then chRefuse s t c code (chPc s t c)
  else
    let named := (moveHandles w).map s.desc
    if identicalMove w x (named.getD 0 []) (named.getD 1 []) then chNext (bumpF s (pgDma t) F.DMA_CH_COUNT_NOOPS 1 c) t c 13
    else moveTake s t c w named

/-- A MOVE (R311 to R315): its descriptors are fetched (R291), and it starts unless a poisoned fetch bit. -/
def chMove (s : State) (t c : Nat) : State :=
  let r := descFetch s (moveHandles (((dch s t c).prog.drop (chPc s t c)).take 13))
  if r.1 then r.2 else moveStart r.2 t c

/-- The oldest outstanding read of a channel, once its data is back; what belongs to no read of the channel is dropped. -/
def popRead (s : State) (t c : Nat) (wanted : Nat → Bool) : Option (DmaRead × List Byte × List Bool) × State :=
  let x := dch s t c
  match x.reads with
  | [] => (none, updDch s t c (fun x => { x with rback := [] }))
  | r :: l =>
    match x.rback.find? (·.1 = r.tag) with
    | some b =>
      if wanted r.role then
        (some (r, b.2.1, b.2.2), updDch s t c (fun x => { x with reads := l, rback := x.rback.filter (·.1 ≠ r.tag) }))
      else (none, s)
    | none => (none, s)

/-- A returned read is taken (R321), the oldest outstanding one first, so that what is written, added or indexed follows box order
(R302, R313): its pieces become writes, index elements, or the other bits of a byte. -/
def takeRead (s : State) (t c : Nat) : State :=
  match popRead s t c (· ≠ 3) with
  | (none, s) => s
  | (some (r, data, marks), s) =>
    let x := dch s t c
    let s := match r.role with
      | 1 =>
        let l := idxOf r data marks
        updDch s t c (fun x => { x with move := x.move.map (fun m => { m with idx := l.foldl (fun ix p => ix.set p.1 p.2) m.idx }) })
      | 2 =>
        let got := r.pieces.map (fun p => (({ p.dst with addr := p.dst.addr / 8 } : Loc), BitVec.ofNat 8 (pieceBits p data)))
        updDch s t c (fun x => { x with asm := { x.asm with old := x.asm.old ++ got } })
      | _ =>
        let (ws, asm) := if x.ctl.acc then (accWrites x.ctl r data marks, x.asm) else copyWrites x.asm r data marks
        let ws := (ws.zip (nextTags x ws.length)).map (fun (w, tag) => { w with tag := tag })
        updDch s t c (fun x => { x with asm := asm, wtodo := x.wtodo ++ ws, nextTag := (x.nextTag + ws.length) % 2 ^ 16 })
    chSettle (issueMove s t c) t c

/-- A returned write is taken (R321). -/
def takeWrite (s : State) (t c : Nat) : State :=
  let x := dch s t c
  match x.wback with
  | [] => s
  | tag :: rest =>
    let s := updDch s t c (fun x => { x with wback := rest, writes := x.writes.erase tag })
    chSettle (issueMove s t c) t c

/-! ## Programs (R308) -/

/-- The read of a program in DRAM from an address on: to the end of the row, within the 256 words (R321). -/
def progRead (a left : Nat) : DmaRead := ⟨0, 3, ⟨1, 0, a⟩, Nat.min (2048 - a % 2048) left, []⟩

/-- A channel starts (R308): where its program lies, and FETCH, with the first read of a program in DRAM; a disabled DMA page takes
no new work (R528). DESIGN CHOICE (log 7): the low 6 bits of a DRAM address and the low 5 of an SRAM address count as 0. -/
def startChan (s : State) (t c : Nat) (sram : Bool) (addr : Nat) : State :=
  if s.disabled.contains (pgDma t) then s else
  let a := if sram then addr / 32 * 32 else addr / 64 * 64
  let s := updDch s t c (fun x => { x with src := a, sram := sram, fetched := [] })
  let s := setF (setF s (pgDma t) F.DMA_CH_STAT_STATE 1 c) (pgDma t) F.DMA_CH_STAT_PC 0 c
  if sram then s else issueMove (addReads s t c [progRead a 2048]) t c

/-- Words that a channel holds of a program (R308): to the first END, or to where its check fails. -/
def heldWords (l : List W64) : Nat :=
  match structCheck l 256 0 0 with | .ok n => n | .error e => if e.1 = 0x0549 then 256 else e.2 + 1

/-- The structure check of fetched words (R308): poison in a word that the channel holds bites; a program that passes runs. -/
def runProgram (s : State) (t c : Nat) (l : List (W64 × Bool)) : State :=
  let s := updDch s t c (fun x => { x with fetched := [] })
  match (l.take (heldWords (l.map (·.1)))).findIdx? (·.2) with
  | some w =>
    let tag := c + w * 256
    bite (recordErr s (pgDma t) 0x0510 tag) (t / 64) 0x05 (t % 64) 0x0510 tag
  | none =>
    match structCheck (l.map (·.1)) 256 0 0 with
    | .error e => chRefuse s t c e.1 e.2
    | .ok n => setF (updDch s t c (fun x => { x with prog := (l.take n).map (·.1) })) (pgDma t) F.DMA_CH_STAT_STATE 2 c

/-- Words with the poison mark of the 64 B each lies in; the bytes begin at a sector. -/
def markedWords (data : List Byte) (marks : List Bool) : List (W64 × Bool) :=
  let l := leWords data
  ((List.range l.length).zip l).map (fun (i, w) => (w, marks.getD (i / 8) false))

/-- The fetched words do not hold the first END, nor all 256 words: the channel fetches on. -/
def fetchesOn (l : List W64) : Bool :=
  decide (l.length < 256) && (match structCheck l 256 0 0 with | .error e => e.1 = 0x0549 && l.length ≤ e.2 | .ok _ => false)

/-- The program is held (R308, R321): a read of its words is back, or its words in SRAM are read. -/
def holdProgram (s : State) (t c : Nat) : State :=
  if chSt s t c ≠ 1 || !dmaRuns s t then s
  else
    let x := dch s t c
    if x.sram then
      let (k, s) := blur s t 2
      let words := leWords ((List.range 2048).map (fun i => dmaByte k k.mxBusy (x.src + i)))
      let l := ((List.range 256).zip words).map (fun (i, w) => (w, dmaPz k k.mxBusy (x.src + i * 8)))
      let s := if sramBytes < x.src + 8 * heldWords words && x.src < 0x190000 && k.mxBusy then recordErr s (pgTile t) 0x0312 0 else s
      runProgram s t c l
    else match popRead s t c (· = 3) with
      | (none, s) => s
      | (some (_, data, marks), s) =>
        let l := x.fetched ++ markedWords data marks
        if fetchesOn (l.map (·.1)) then
          issueMove (addReads (updDch s t c (fun x => { x with fetched := l })) t c
            [progRead (x.src + 8 * l.length) (2048 - 8 * l.length)]) t c
        else runProgram s t c l

/-! ## Commands -/

/-- A write of CHc_START (R308, R323). -/
def chStart (s : State) (t c : Nat) (v : W64) : State :=
  let p := pgDma t
  if !bitOf v 0 then s
  else if chSt s t c ≠ 0 then recordErr s p 0x0505 (p + 0x108 + c * 0x40)
  else startChan s t c (getF s p F.DMA_CH_PROG_SRAM c = 1)
    (if getF s p F.DMA_CH_PROG_SRAM c = 1 then getF s p F.DMA_CH_PROG_ADDR c % 2 ^ 24 else getF s p F.DMA_CH_PROG_ADDR c)

/-- A DMA channel of a tile. -/
def hasDma (s : State) (t c : Nat) : Bool := hasTile s t && c < 4

/-- DMA_START (R308). -/
def execDmaStart (_w : Writer) (tile ch : Nat) (v : W64) (s : State) : Res := onPage (hasDma s tile ch) (pgDma tile + 0x108 + 64 * ch) s (if (s.tile tile).gated then s else chStart s tile ch v)

/-- PROGRAM_HELD (R308, R321). -/
def execProgramHeld (tile ch : Nat) (s : State) : Res := onObj (hasDma s tile ch) s (holdProgram s tile ch)

/-- END (R309): also the command of a word whose opcode is unassigned, which is refused. -/
def execDmaEnd (tile ch : Nat) (s : State) : Res :=
  onObj (hasDma s tile ch) s
    (let op := fld (chWord s tile ch) 0 8
     if chReady s tile ch && !(List.contains [1, 2, 3, 4, 5, 0x10] op) then chRefuse s tile ch 0x0540 (chPc s tile ch)
     else chDo s tile ch 0x01 0xFFFFFFFFFFFFFF00 (fun _ => true) (fun s _ =>
       let p := pgDma tile
       let s := bumpF (event s p ch) p F.DMA_CH_COUNT_PROGRAMS 1 ch
       if (dch s tile ch).writes.isEmpty then chanIdle s tile ch else setF s p F.DMA_CH_STAT_STATE 5 ch))

/-- The word after the ENDLOOP that matches a LOOP (R318). -/
def afterLoop (l : List W64) : Nat → Nat → Nat → Nat
  | 0, pc, _ => pc
  | n + 1, pc, depth =>
    match fld (l.getD pc 0) 0 8 with
    | 0x02 => afterLoop l n (pc + 1) (depth + 1)
    | 0x03 => if depth ≤ 1 then pc + 1 else afterLoop l n (pc + 1) (depth - 1)
    | _ => afterLoop l n (pc + insLen (l.getD pc 0)) depth

/-- LOOP (R318). -/
def execDmaLoop (tile ch : Nat) (count : Word) (s : State) : Res :=
  onObj (hasDma s tile ch) s (chDo s tile ch 0x02 0xFFFF00000000FF00 (fun w => fld w 16 32 = count.toNat) (fun s _ =>
    let pc := chPc s tile ch
    if count = 0 then setF s (pgDma tile) F.DMA_CH_STAT_PC (afterLoop (dch s tile ch).prog 256 pc 0) ch
    else chNext (updDch s tile ch (fun x => { x with loops := ⟨pc + 1, count.toNat, 0⟩ :: x.loops })) tile ch 1))

/-- ENDLOOP (R318). -/
def execDmaEndloop (tile ch : Nat) (s : State) : Res :=
  onObj (hasDma s tile ch) s (chDo s tile ch 0x03 0xFFFFFFFFFFFFFF00 (fun _ => true) (fun s _ =>
    match (dch s tile ch).loops with
    | [] => chRefuse s tile ch 0x0547 (chPc s tile ch)
    | l :: r =>
      if l.iter + 1 < l.count then
        setF (updDch s tile ch (fun x => { x with loops := { l with iter := l.iter + 1 } :: r })) (pgDma tile) F.DMA_CH_STAT_PC l.start ch
      else chNext (updDch s tile ch (fun x => { x with loops := r })) tile ch 1))

/-- WAIT (R319). -/
def execDmaWait (tile ch : Nat) (sem : BitVec 5) (k : BitVec 16) (s : State) : Res :=
  onObj (hasDma s tile ch) s
    (chDo s tile ch 0x04 0xFFFFFFFF0000E000 (fun w => fld w 8 5 = sem.toNat && fld w 16 16 = k.toNat) (fun s _ =>
      setF (updDch s tile ch (fun x => { x with wait := some (sem.toNat, k.toNat) })) (pgDma tile) F.DMA_CH_STAT_STATE 3 ch))

/-- SIGNAL (R320). -/
def execSignal (tile ch : Nat) (word : W64) (s : State) : Res :=
  onObj (hasDma s tile ch) s (chDo s tile ch 0x05 0x0000FFE000000000 (fun w => w = word) (fun s w => chSignal s tile ch w))

/-- MOVE (R310 to R317). -/
def execMove (tile ch : Nat) (words : List W64) (s : State) : Res :=
  onObj (hasDma s tile ch) s (chDo s tile ch 0x10 0xC00
    (fun _ => ((dch s tile ch).prog.drop (chPc s tile ch)).take 13 = words) (fun s _ => chMove s tile ch))

/-- DMA_REQUEST_DONE (R321). -/
def execDmaRequestDone (tile ch : Nat) (write : Bool) (s : State) : Res :=
  onObj (hasDma s tile ch) s (if write then takeWrite s tile ch else takeRead s tile ch)

/-- A channel's WAIT is released (R319, R321). -/
def chRelease (s : State) (t c : Nat) : State :=
  match (dch s t c).wait with
  | some (sem, k) =>
    if k ≤ semVal s t sem && dmaRuns s t then
      chNext (setF (updDch s t c (fun x => { x with wait := none })) (pgDma t) F.DMA_CH_STAT_STATE 2 c) t c 1
    else s
  | none => s

/-- SEMAPHORE_WAIT_RELEASE (R341, R345): an engine's stream or a DMA channel goes on; `held` is the delay in tc. -/
def execSemaphoreWaitRelease (tile : Nat) (who : Waiter) (held : Nat) (s : State) : Res :=
  onObj (hasTile s tile && (match who with | .channel c => decide (c < 4) | _ => true)) s
    (match who with
     | .engine e => releaseWait s tile e held
     | .channel c => chRelease s tile c)

end Sys2Proof.Machine
end

