-- ==== Sys2Proof/Machine/Mx.lean ====
section
/-! DEFINITION. The matrix engine: formats and pairings (R228, R229), the arithmetic of a pass (R231 to R238), the
accumulator drain (R242 to R247), and the checks of MX.RUN (R370 to R373). -/
namespace Sys2Proof.Machine

/-- Whether a matrix format code is an MX format. -/
def isMx (c : Nat) : Bool := 2 ≤ c && c ≤ 6

/-- The float format of a matrix format code (R228); INT8, FP32 and INT32 apart. -/
def mxFmt (c : Nat) : Fmt := [fmtE4M3, fmtE5M2, fmtE4M3, fmtE5M2, fmtE2M3, fmtE3M2, fmtE2M1, fmtBF16, fmtF16].getD c fmtF32

/-- The exact value of an operand element. -/
def mxVal (c v : Nat) : FV := if c = 9 then fvInt (sgn 8 v) else decodeF (mxFmt c) v

/-- The pairing is one of R229. -/
def pairing (a b : Nat) : Bool := (a ≤ 6 && b ≤ 6) || ((a = 7 || a = 8) && (b = 7 || b = 8)) || (a = 9 && b = 9)

/-! ## Arithmetic of a cell -/

/-- A value added to an FP32 accumulator with one rounding, nearest-even, under ACC_POLICY (R233 to R236). -/
def accAdd (sat : Bool) (acc : Nat) (x : FV) (f : NFlags) : Nat × NFlags :=
  let (r, g) := fvAdd (decodeF fmtF32 acc) x
  let (p, h) := encodeF fmtF32 .ne sat r
  (p, f ||| g ||| h)

/-- What a block of at most 32 products contributes (R233, R235): scale bytes `sa` and `sb`. -/
def blockSum (l : List (FV × FV)) (sa sb : Nat) : FV × NFlags :=
  if sa = 0xFF || sb = 0xFF then (.nan, fInv)
  else if l.any (fun p => p.1 = .nan || p.2 = .nan) then (.nan, 0)
  else
    let (t, f) := (l.map (fun p => fvMul p.1 p.2)).foldl (fun (acc : FV × NFlags) x =>
      let (r, g) := fvAdd acc.1 x.1
      (r, acc.2 ||| g ||| x.2)) (.fin false 0 0, 0)
    match t with
    | .fin s m e => (.fin s m (e + (sa : Int) + sb - 254), f)
    | v => (v, f)

/-- An INT8 product added to an INT32 accumulator (R234, R236). -/
def accInt (sat : Bool) (acc x y : Nat) : Nat × NFlags :=
  let t := sgn 32 acc + sgn 8 x * sgn 8 y
  if t < -(2 ^ 31) then (if sat then 0x80000000 else unsgn 32 t, fOvf)
  else if (2 : Int) ^ 31 ≤ t then (if sat then 0x7FFFFFFF else unsgn 32 t, fOvf)
  else (unsgn 32 t, 0)

/-- One operand element as the feed delivers it: pattern, poison mark, outside (R232, R282). -/
structure Feed where
  v : Nat
  pz : Bool
  out : Bool
  line : Nat
  deriving DecidableEq, Repr

/-- An element of a TILE descriptor read by an engine of a tile as it stands in `k`; `off` makes the whole operand outside
(R378). -/
def feed (k : Tile) (t : Nat) (d : List W64) (off : Bool) (ix : List Int) : Feed :=
  if off || dTile d ≠ t || elemClass d ix = 2 then ⟨dFill d, false, true, 0⟩
  else
    let p := (elemBit d ix).toNat
    ⟨bitsAt k.byte p (dWidth d), k.pz (p / 8) || k.pz ((p + dWidth d - 1) / 8), false, p / 256⟩

/-- A reduction of K steps into one cell: A elements and B elements by k, scale bytes by block, format codes. -/
def cellRun (fa fb : Nat) (sat : Bool) (acc : Nat) (xs ys : List Nat) (sa sb : List Nat) : Nat × NFlags :=
  if fa = 9 then
    (xs.zip ys).foldl (fun a p => let (r, f) := accInt sat a.1 p.1 p.2; (r, a.2 ||| f)) (acc, 0)
  else if 7 ≤ fa then
    (xs.zip ys).foldl (fun a p =>
      let (x, f) := fvMul (mxVal fa p.1) (mxVal fb p.2)
      let (r, g) := accAdd sat a.1 x f
      (r, a.2 ||| g)) (acc, 0)
  else
    let prods := (xs.zip ys).map (fun p => (mxVal fa p.1, mxVal fb p.2))
    (List.range ((xs.length + 31) / 32)).foldl (fun a j =>
      let (x, f) := blockSum ((prods.drop (32 * j)).take 32) (sa.getD j 0x7F) (sb.getD j 0x7F)
      let (r, g) := accAdd sat a.1 x f
      (r, a.2 ||| g)) (acc, 0)

/-! ## A latched MX slot (R381) -/

/-- A_FMT. -/
def lA (l : List W64) : Nat := fld (lw l 46) 0 4
/-- B_FMT. -/
def lB (l : List W64) : Nat := fld (lw l 46) 4 4
/-- OUT_TYPE. -/
def lOut (l : List W64) : Nat := fld (lw l 46) 8 4
/-- DRAIN_LAYOUT. -/
def lLayout (l : List W64) : Nat := fld (lw l 46) 12 3
/-- ACC_POLICY. -/
def lSat (l : List W64) : Bool := bitOf (lw l 46) 16
/-- ACC_INIT. -/
def lInit (l : List W64) : Nat := fld (lw l 46) 17 2
/-- DRAIN_MODE. -/
def lDrain (l : List W64) : Nat := fld (lw l 46) 19 1
/-- SCALE_SRC. -/
def lScale (l : List W64) : Nat := fld (lw l 46) 20 2
/-- BIAS_SRC. -/
def lBias (l : List W64) : Nat := fld (lw l 46) 22 2
/-- OUT_RND: stochastic. -/
def lRnd (l : List W64) : Bool := bitOf (lw l 46) 24
/-- OUT_SAT. -/
def lOutSat (l : List W64) : Bool := bitOf (lw l 46) 25
/-- K. -/
def lK (l : List W64) : Nat := fld (lw l 47) 0 32
/-- Handle of an operand, in the order A, AS, B, BS, DST, DSTS, SVEC, BVEC, LOAD. -/
def lHandle (l : List W64) (o : Nat) : Nat := if o < 5 then fld (lw l 48) (12 * o) 12 else fld (lw l 49) (12 * (o - 5)) 12
/-- Selector j of an operand. -/
def lSel (l : List W64) (o j : Nat) : Nat :=
  if o < 5 then fld (lw l 50) (12 * o + 4 * j) 4 else fld (lw l 51) (12 * (o - 5) + 4 * j) 4

/-- Whether a run uses an operand (R370). -/
def lUses (l : List W64) (o : Nat) : Bool :=
  let drains := lDrain l = 0
  match o with
  | 0 => true
  | 1 => isMx (lA l)
  | 2 => true
  | 3 => isMx (lB l)
  | 4 => drains
  | 5 => drains && (lLayout l = 3 || lLayout l = 4)
  | 6 => lScale l = 2 || lScale l = 3
  | 7 => lBias l = 1 || lBias l = 2
  | _ => lInit l = 2

/-- Operands that a run uses. -/
def lOps (l : List W64) : List Nat := (List.range 9).filter (lUses l)

/-- Number of selectors of an operand: vectors have one. -/
def selCount (o : Nat) : Nat := if o = 6 || o = 7 then 1 else 3

/-- Bits of an output element. -/
def outBits (c : Nat) : Nat := elemWidth c

/-- Least S of a layout (R244). -/
def leastS (layout out : Nat) : Nat :=
  let b := outBits out
  match layout with
  | 0 => 8 * b | 1 => 16 * b | 2 => 64 * b | 3 => 16 * b | _ => 8 * b

/-- OUT_TYPE allowed with a layout (R244). -/
def outAllowed (layout out : Nat) : Bool :=
  if layout ≤ 2 then out ≤ 1 || (7 ≤ out && out ≤ 11) else isMx out

/-- The ETYPE that an operand's descriptor must have (R373 check 7). -/
def wantType (l : List W64) (o : Nat) (ty : Nat) : Bool :=
  match o with
  | 0 => ty = lA l
  | 2 => ty = lB l
  | 4 => ty = lOut l
  | 6 => ty = 10
  | 7 => ty = 10
  | 8 => ty = if lA l = 9 then 11 else 10
  | _ => ty = 12

/-- An affine term is a multiple of `n` over every pass (R373). A streamed term is not checked here. -/
def termMult (l : List W64) (tile t : Nat) (n : Int) : Bool :=
  lStream l t ||
    ((lStart l t + lTile l t tile) % n = 0 &&
      (List.range (lNlev l)).all (fun k => lCount l k ≤ 1 || lStride l t k % n = 0))

/-- The multiple that a selected value must be: 32 under DIV32, and that dimension 0 starts on a 256-bit boundary and an MX
side on a block (R373 check 8). Answers the condition on the term before DIV32. -/
def selUnit (l : List W64) (o j w : Nat) : Int :=
  let div : Nat := if bit (lSel l o j) 3 then 32 else 1
  let need : Nat :=
    if j = 0 then 256 / Nat.gcd 256 w
    else if j = 1 && ((o = 0 && isMx (lA l)) || (o = 2 && isMx (lB l))) then 32 else 1
  (div * need : Nat)

/-- Check 8 of R373 on an operand with a descriptor. -/
def startsOk (l : List W64) (tile o : Nat) (d : List W64) : Bool :=
  (List.range (selCount o)).all (fun j =>
    let sel := lSel l o j % 8
    sel = 0 || termMult l tile (sel - 1) (selUnit l o j (dWidth d)))

/-- The run is an illegal instruction (R372). -/
def mxIllegal (l : List W64) : Bool :=
  lClass l ≠ 1 || lNlev l = 7 || (lKsplit l && lNlev l = 0)
    || (lOps l).any (fun o => (List.range (selCount o)).any (fun j => lSel l o j % 8 = 7))

/-- The checks of R373: 0, or the code of the first failure. DESIGN CHOICE (log 54): a NARROW descriptor (R278), and a READ_ONLY one
as a destination (R279), are refused with check 6 and its code; no chapter gives a code for them. -/
def mxCheck (s : State) (tile : Nat) (l : List W64) : Nat :=
  let ds := (lOps l).map (fun o => (o, s.desc (lHandle l o)))
  let badFmt (c : Nat) : Bool := 12 ≤ c
  let dst := s.desc (lHandle l 4)
  let str := if lLayout l = 2 then dStride dst 2 else dStride dst 1
  if 5 ≤ lLayout l then 0x0342
  else if lInit l = 3 then 0x0345
  else if lBias l = 3 then 0x0346
  else if badFmt (lA l) || badFmt (lB l) || badFmt (lOut l) || !pairing (lA l) (lB l) then 0x0340
  else if !outAllowed (lLayout l) (lOut l) then 0x0343
  else if ds.any (fun p => !dValid p.2 || dKind p.2 ≠ 1 || dNarrow p.2 || (dReadOnly p.2 && (p.1 = 4 || p.1 = 5))) then 0x0341
  else if ds.any (fun p => !wantType l p.1 (dType p.2)) then 0x0340
  else if ds.any (fun p => !startsOk l tile p.1 p.2) then 0x0344
  else if lUses l 4 && (str < leastS (lLayout l) (lOut l)
      || (lLayout l = 2 && dStride dst 1 ≠ 8 * outBits (lOut l))) then 0x0344
  else if lUses l 8 && dStride (s.desc (lHandle l 8)) 1 ≠ 256 then 0x0344
  else 0

/-! ## A pass -/

/-- Key of an accumulator cell. -/
def accKey (buf m n : Nat) : Nat := buf * 8192 + 64 * m + n

/-- The level-0 index of a pass, and how it starts and ends (R371): ACC_INIT and DRAIN_MODE. -/
def passModes (l : List W64) (iter : Nat) : Nat × Nat :=
  if !lKsplit l then (lInit l, lDrain l)
  else
    let i := lIndex l iter 0
    let last := decide (i + 1 = Nat.max 1 (lCount l 0))
    (if i = 0 then lInit l else 1, if last then lDrain l else 1)

/-- The terms whose popped entry breaks check 8 in this pass, with the operands they make outside (R378). -/
def badTerms (l : List W64) (vals : Nat → Int) (descs : List (List W64)) : List (Nat × Nat) :=
  (lOps l).flatMap (fun o => (List.range (selCount o)).filterMap (fun j =>
    let sel := lSel l o j % 8
    if sel = 0 || !lStream l (sel - 1) then none
    else if vals (sel - 1) % selUnit l o j (dWidth (descs.getD o [])) = 0 then none else some (sel - 1, o)))

/-- One output element after steps 1 to 3 of R242: an FP32 pattern, or an exact INT32 (second component), and flags. -/
structure Epi where
  y : Nat
  int : Option Int
  f : NFlags
  deriving DecidableEq, Repr

/-- min(max(y, lo), hi); a NaN stays (R242 step 3). -/
def clampF (y lo hi : Nat) : Nat :=
  match f32 y with
  | .nan => fmtF32.nanPat
  | _ =>
    let y := if fvLt true (f32 y) (f32 lo) then lo else y
    if fvLt true (f32 hi) (f32 y) then hi else y

/-- Steps 1 to 3 of R242 on an accumulator value. -/
def epilogue (l : List W64) (a : Nat) (scale bias : Option Nat) : Epi :=
  let int8 := lA l = 9
  let lo := fld (lw l 52) 0 32
  let hi := fld (lw l 52) 32 32
  if int8 && lOut l = 11 && scale.isNone && bias.isNone then
    let i := sgn 32 a
    let v := fvInt i
    let bound (b : Nat) : Int := sgn 32 (toInt 32 .ne (f32 b)).1
    let i := if fvLt true v (f32 lo) then bound lo else i
    let i := if fvLt true (f32 hi) (fvInt i) then bound hi else i
    ⟨0, some i, 0⟩
  else
    let x : FV := if int8 then f32 (toF32 (fvInt (sgn 32 a), 0)).1 else f32 a
    let (y, f) := toF32 (fvFma x (f32 (scale.getD 0x3F800000)) (f32 (bias.getD 0)))
    ⟨clampF y lo hi, none, f⟩

/-- Step 4 of R242 outside MX blocks (R243): the element, and MXFLAGS bits. -/
def drainConv (l : List W64) (e : Epi) (r : Rnd) : Nat × Nat :=
  let flag (f : NFlags) : Nat := (if f % 2 = 1 then 1 else 0) + (if f / 2 % 2 = 1 then 4 else 0)
  match e.int with
  | some i => (unsgn 32 i, 0)
  | none =>
    let out := lOut l
    let (v, f) :=
      if out = 11 then toInt 32 r (f32 e.y) else if out = 9 then toInt 8 r (f32 e.y)
      else if out = 10 then (e.y, 0) else encodeF (mxFmt out) r (lOutSat l) (f32 e.y)
    (v, flag f)

/-- emax of an MX format (R245). -/
def mxEmax (c : Nat) : Int := [8, 15, 8, 15, 2, 4, 2].getD c 0

/-- The block scale byte, and the exponent its elements use (R245): none for zero elements. -/
def blockScale (c : Nat) (ys : List Nat) : Nat × Option Int :=
  if mxBad ys then (0xFF, none)
  else match mxScale (mxEmax c) ys with
    | none => (0, none)
    | some x => ((x + 127).toNat, some x)

/-- Destination index of element (m, n) and, in MX layouts, of its scale (R370). -/
def dstIx (layout : Nat) (s0 s1 s2 : Int) (m n : Nat) : List Int :=
  match layout with
  | 0 => [s0 + n, s1 + m, s2]
  | 1 => [s0 + m, s1 + n, s2]
  | 2 => [s0 + (8 * (m % 8) + n % 8 : Nat), s1 + (n / 8 : Nat), s2 + (m / 8 : Nat)]
  | 3 => [s0 + m, s1 + n, s2]
  | _ => [s0 + n, s1 + m, s2]

/-- Index of the scale of (m, n). -/
def scaleIx (layout : Nat) (s0 s1 s2 : Int) (m n : Nat) : List Int :=
  if layout = 3 then [s0 + m, s1 + (n / 32 : Nat), s2] else [s0 + n, s1 + (m / 32 : Nat), s2]

/-- A write of an element through a TILE descriptor by an engine of a tile, none where it is outside. -/
def elemWrite (t : Nat) (d : List W64) (off : Bool) (ix : List Int) (v : Nat) (pz : Bool) :
    Option (List (Nat × Nat × Nat × Bool)) :=
  if off || dTile d ≠ t || elemClass d ix = 2 then none
  else some ((bitBytes (elemBit d ix).toNat (dWidth d) v).map (fun b => (b.1, b.2.1, b.2.2, pz)))

/-- Addresses of the SRAM lines that a list of writes lies in. -/
def linesOf (l : List (Nat × Nat × Nat × Bool)) : List Nat := (l.map (·.1 / 32)).eraseDups

/-- The writes of a pass's drain before its values: elements of DST, and of DSTS in the MX layouts (R244, R370). -/
def drainPlaces (t : Nat) (r : MxRun) (val : Nat → Nat → Int) (off : Nat → Bool) : List (Nat × Nat × Nat × Bool) :=
  let lay := lLayout r.words
  let d (o : Nat) : List W64 := r.descs.getD o []
  let cells := (List.range 128).flatMap (fun m => (List.range 64).map (fun n => (m, n)))
  cells.flatMap (fun (m, n) =>
    (elemWrite t (d 4) (off 4) (dstIx lay (val 4 0) (val 4 1) (val 4 2) m n) 0 false).getD []
      ++ (if lay = 3 || lay = 4 then (elemWrite t (d 5) (off 5) (scaleIx lay (val 5 0) (val 5 1) (val 5 2) m n) 0 false).getD [] else []))

/-- The lines that the passes of a run drain into, as far as affine terms give them (R344); a streamed term gives its lines when its
pass drains. -/
def runLines (t : Nat) (r : MxRun) : List Nat :=
  let l := r.words
  if (List.range 3).any (fun j => [4, 5].any (fun o => lUses l o && lSel l o j % 8 ≠ 0 && lStream l (lSel l o j % 8 - 1))) then []
  else (((List.range r.total).filter (fun i => (passModes l i).2 = 0)).flatMap (fun i =>
    linesOf (drainPlaces t r (fun o j => selValue (fun x => lValue l t i x []) (lSel l o j)) (fun _ => false)))).eraseDups

/-- An element of an ACCUM_DEST destination written by the drain: added to what stands there, by the SRAM adder (R301, R302). -/
def drainAdd (k : Tile) (int : Bool) (a v : Nat) (pz : Bool) : List (Nat × Nat × Nat × Bool) :=
  let old := leNat (k.run_ a 4)
  let x := (laneOp .add (if int then 5 else 0) old v 0).1
  (leBytes 4 x).zip (List.range 4) |>.map (fun (b, j) => (a + j, b.toNat, 255, pz || k.pz a))

/-- The drain of a buffer (R242 to R247). `val o j` is the selected value j of operand o; `kb` is the tile as the engine reads it
(R344). -/
def drain (s : State) (t : Nat) (kb : Tile) (r : MxRun) (buf : Nat) (val : Nat → Nat → Int) (off : Nat → Bool) : State :=
  let l := r.words
  let d (o : Nat) : List W64 := r.descs.getD o []
  let k := s.tile t
  let cells := (List.range 128).flatMap (fun m => (List.range 64).map (fun n => (m, n)))
  let vec (o : Nat) (i : Nat) : Feed := feed kb t (d o) (off o) [val o 0 + i]
  let scale (m n : Nat) : Option Feed := match lScale l with
    | 1 => some ⟨fld (lw l 53) 0 32, false, false, 0⟩ | 2 => some (vec 6 n) | 3 => some (vec 6 m) | _ => none
  let bias (m n : Nat) : Option Feed := match lBias l with
    | 1 => some (vec 7 n) | 2 => some (vec 7 m) | _ => none
  let epi := cells.map (fun (m, n) =>
    let sc : Option Feed := scale m n
    let bi : Option Feed := bias m n
    let e := epilogue l (tget 0 k.acc (accKey buf m n)).toNat (sc.map Feed.v) (bi.map Feed.v)
    let pz := k.accPoison.contains (accKey buf m n) || (sc.map Feed.pz).getD false || (bi.map Feed.pz).getD false
    (m, n, e, pz))
  -- one draw per element in ascending 64m + n
  let gen := s.reg (pgTile t + 0xC0)
  let (draws, gen') := if lRnd l then (List.range 8192).foldl (fun (a : List Nat × W64) _ =>
      let (x, g) := draw16 a.2; (a.1 ++ [x], g)) ([], gen) else ([], gen)
  let rnd (m n : Nat) : Rnd := if lRnd l then .st (draws.getD (64 * m + n) 0) else .ne
  let s := s.setReg (pgTile t + 0xC0) gen'
  let lay := lLayout l
  let mx := lay = 3 || lay = 4
  let blockOf (m n : Nat) : Nat := if lay = 3 then m * 2 + n / 32 else n * 4 + m / 32
  let blockYs (b : Nat) : List Nat := (epi.filter (fun x => blockOf x.1 x.2.1 = b)).map (fun x => x.2.2.1.y)
  let outs := epi.map (fun (m, n, e, pz) =>
    if mx then
      let (sb, x) := blockScale (lOut l) (blockYs (blockOf m n))
      let v := match x with
        | some x => (encodeF (mxFmt (lOut l)) (rnd m n) true (scaleDown e.y x)).1
        | none => 0
      (m, n, v, pz, (if sb = 0xFF then 1 else 0))
    else
      let (v, f) := drainConv l e (rnd m n)
      (m, n, v, pz, f))
  let flags := outs.foldl (fun a x => a ||| x.2.2.2.2) (epi.foldl (fun a x => a ||| (x.2.2.1.f % 2)) 0)
  let at_ (m n : Nat) : List Int := dstIx lay (val 4 0) (val 4 1) (val 4 2) m n
  let els := outs.map (fun (m, n, v, pz, _) =>
    let w := elemWrite t (d 4) (off 4) (at_ m n) v pz
    if dAccum (d 4) then w.map (fun _ => drainAdd k (lOut l = 11) ((elemBit (d 4) (at_ m n)).toNat / 8) v pz) else w)
  let scs := if !mx then [] else
    ((cells.filter (fun (m, n) => if lay = 3 then n % 32 = 0 else m % 32 = 0)).map (fun (m, n) =>
      let b := blockOf m n
      let pz := epi.any (fun x => blockOf x.1 x.2.1 = b && x.2.2.2)
      elemWrite t (d 5) (off 5) (scaleIx lay (val 5 0) (val 5 1) (val 5 2) m n) (blockScale (lOut l) (blockYs b)).1 pz))
  let all := els ++ scs
  let bytes := all.flatMap (fun x => x.getD [])
  match (if dAccum (d 4) && dBite (d 4) then (bytes.find? (·.2.2.2)).map (·.1 / 32) else none) with
  | some line => tileBite s t .mx line
  | none =>
  let s := s.updTile t (fun k => k.put bytes)
  let vecs (o n : Nat) : Nat := ((List.range n).filter (fun i => (vec o i).out)).length
  let s := countOob s t false
    ((match lScale l with | 2 => vecs 6 64 | 3 => vecs 6 128 | _ => 0) + (match lBias l with | 1 => vecs 7 64 | 2 => vecs 7 128 | _ => 0))
  let s := countOob s t true (all.filter (·.isNone)).length
  let s := mxFlags s t flags
  bumpF s (pgTile t) F.TILE_PASSES_DRAINS

/-- The kind of k-step that a pairing charges (R459). -/
def kStepKind (a b : Nat) : Nat := if 7 ≤ a && a ≤ 8 then 2 else if 4 ≤ a && a ≤ 6 && 4 ≤ b && b ≤ 6 then 1 else 0

/-- A number of undefined words. -/
def freeWords : Nat → State → List Nat × State
  | 0, s => ([], s)
  | n + 1, s =>
    let (w, s) := s.draw
    let (l, s) := freeWords n s
    (w.toNat % 2 ^ 32 :: l, s)

/-- A loaded accumulator value as it stands in the buffer: every NaN is the canonical one (R235). -/
def loadWord (int8 : Bool) (x : Nat) : Nat := if !int8 && f32 x = .nan then fmtF32.nanPat else x

/-- Accumulators that a pass takes while the run before it drains them hold undefined data (R344): a value for each. -/
def earlyAcc (s : State) (early : Bool) : List Nat × State := if early then freeWords 8192 s else ([], s)

/-- The pass in the array ends (R231 to R239): its products are summed, the buffers swap and drain, or are kept. An accumulator kept
from a run whose last line is not written is undefined (R344). -/
def runPass (s : State) (t : Nat) (r : MxRun) : State :=
  let l := r.words
  let pg_ := pgTile t
  let (kb, s) := blur s t 0
  let vals (x : Nat) : Int := lValue l t r.iter x r.popped
  let val (o j : Nat) : Int := selValue vals (lSel l o j)
  let bad := badTerms l vals r.descs
  let off (o : Nat) : Bool := bad.any (·.2 = o)
  let s := forEach s ((bad.map (·.1)).eraseDups) (fun s x => recordErr s (pgLcb t r.slot) 0x0411 (r.slot + x * 16))
  let d (o : Nat) : List W64 := r.descs.getD o []
  let (init, mode) := passModes l r.iter
  let buf := getF s pg_ F.TILE_TSTAT_ACC_ACTIVE
  let K := lK l
  let J := (K + 31) / 32
  -- the operand feed
  let rowA (m : Nat) : List Feed := (List.range K).map (fun (k : Nat) => feed kb t (d 0) (off 0) [val 0 0 + m, val 0 1 + k, val 0 2])
  let colB (n : Nat) : List Feed := (List.range K).map (fun (k : Nat) => feed kb t (d 2) (off 2) [val 2 0 + n, val 2 1 + k, val 2 2])
  let scA (m : Nat) : List Feed := if isMx (lA l) then
    (List.range J).map (fun (j : Nat) => feed kb t (d 1) (off 1) [val 1 0 + m, val 1 1 + j, val 1 2]) else []
  let scB (n : Nat) : List Feed := if isMx (lB l) then
    (List.range J).map (fun (j : Nat) => feed kb t (d 3) (off 3) [val 3 0 + n, val 3 1 + j, val 3 2]) else []
  let as_ := (List.range 128).map (fun m => (rowA m, scA m))
  let bs := (List.range 64).map (fun n => (colB n, scB n))
  let eats (o : Nat) (f : List Feed) : Option Nat := if dBite (d o) then (f.find? (·.pz)).map (·.line) else none
  let biteLine := (as_.findSome? (fun p => (eats 0 p.1).orElse (fun _ => eats 1 p.2))).orElse
    (fun _ => bs.findSome? (fun p => (eats 2 p.1).orElse (fun _ => eats 3 p.2)))
  match biteLine with
  | some line => tileBite s t .mx line
  | none =>
    let early := init = 1 && !r.bufs.contains buf && (s.tile t).ended.any (·.bufs.contains buf)
    let (frees, s) := earlyAcc s early
    let k := s.tile t
    let loadEl (m n : Nat) : Feed := feed kb t (d 8) (off 8) [val 8 0 + n, val 8 1 + m, val 8 2]
    let start (m n : Nat) : Nat × Bool := match init with
      | 1 => (if early then frees.getD (64 * m + n) 0 else (tget 0 k.acc (accKey buf m n)).toNat, k.accPoison.contains (accKey buf m n))
      | 2 => let e := loadEl m n; (loadWord (lA l = 9) e.v, e.pz)
      | _ => (0, false)
    let cells := (List.range 128).flatMap (fun m => (List.range 64).map (fun n =>
      let a := as_.getD m ([], [])
      let b := bs.getD n ([], [])
      let (x0, p0) := start m n
      let (x, f) := cellRun (lA l) (lB l) (lSat l) x0 (a.1.map Feed.v) (b.1.map Feed.v) (a.2.map Feed.v) (b.2.map Feed.v)
      let eaten := (a.1 ++ a.2 ++ b.1 ++ b.2).any (·.pz)
      (accKey buf m n, x, p0 || eaten, f, eaten)))
    let s := s.updTile t (fun k => { k with
      acc := cells.foldl (fun (m : Tbl Word) c => tset 0 m c.1 (BitVec.ofNat 32 c.2.1)) k.acc
      accPoison := cells.foldl (fun p c => setPut p c.1 c.2.2.1) k.accPoison })
    let s := mxFlags s t (cells.foldl (fun a c => a ||| c.2.2.2.1 ||| (if c.2.2.2.2 then 8 else 0)) 0)
    let outs (f : List Feed) : Nat := (f.filter (·.out)).length
    let s := countOob s t false ((as_.map (fun p => outs p.1 + outs p.2)).sum + (bs.map (fun p => outs p.1 + outs p.2)).sum)
    let loadOuts := if init = 2 then ((List.range 8192).filter (fun i => (loadEl (i / 64) (i % 64)).out)).length else 0
    let s := countOob s t false loadOuts
    let T := if kStepKind (lA l) (lB l) = 1 then (K + 1) / 2 else if kStepKind (lA l) (lB l) = 2 then 2 * K else K
    let s := updStream s t .mx (fun x => { x with clk := x.clk + (if mode = 0 then Nat.max T 64 else T) })
    let s := charge s pg_ (kStepKind (lA l) (lB l)) K
    let s := bumpF s pg_ F.TILE_PASSES_PASSES
    if mode = 0 then
      drain (setB (setF s pg_ F.TILE_TSTAT_ACC_ACTIVE (1 - buf)) pg_ F.TILE_TSTAT_ACC_HELD false) t kb r buf val off
    else setB s pg_ F.TILE_TSTAT_ACC_HELD true

/-- The next pass of the run enters the array, if the address stream holds its entries (R376, R378). -/
def startPass (s : State) (t : Nat) : State :=
  match (s.tile t).run with
  | none => s
  | some r =>
    if r.started || r.total ≤ r.iter || !tileRuns s t then s
    else match popAsf s t r.words with
      | none => s
      | some (p, s) =>
        let s := bumpF s (pgLcb t 0) F.LCB_ITER_MX_PASSES
        s.updTile t (fun k => { k with run := some { r with started := true, popped := p } })

/-- The MX.RUN in progress gives up its slot and descriptor copies (R291, R366). -/
def endRun (s : State) (t : Nat) (r : MxRun) : State :=
  let s := forEach s r.descs (fun s d => holdDesc s d false)
  markLatched s t r.slot false

/-- A run that has passed its checks begins: its descriptors are copied and held, its slot is latched (R233, R291). -/
def mxBegin (s : State) (t slot : Nat) (l : List W64) : State :=
  let ds := (List.range 9).map (fun o => if lUses l o then s.desc (lHandle l o) else [])
  let s := forEach s ds (fun s d => holdDesc s d true)
  let s := markLatched (setF s (pgLcb t 0) F.LCB_ITER_MX_PASSES 0) t slot true
  let r : MxRun := { slot := slot, words := l, iter := 0, total := lTotal l, descs := ds, started := false, popped := [], no := (s.tile t).runNo }
  let s := s.updTile t (fun k => { k with run := some { r with lines := runLines t r }, runNo := k.runNo + 1 })
  startPass (nextEntry (beginWork s t .mx r.no) t .mx 0) t

/-- MX.RUN issues (R248, R366, R370, R372), also while the run before it drains; its issue interval is that of its passes (R240). -/
def mxRunStart (s : State) (t slot : Nat) : State :=
  if (s.tile t).run.isSome then s
  else
    let (l, s) := latch s t .mx slot
    let p := pgTile t
    if mxIllegal l then illegalSlot s t .mx
    else
      let (bad, s) := descFetch s (((List.range 9).filter (lUses l)).map (lHandle l))
      if bad then s else
      let c := mxCheck s t l
      if c ≠ 0 then
        let s := setF (setF s p F.TILE_MXRESULT_CODE c) p F.TILE_MXRESULT_SLOT slot
        let s := bumpF (refusal (event s p 1) p) p F.TILE_MXRESULT_REFUSED
        nextEntry s t .mx 1
      else if lTotal l = 0 then nextEntry (setF s (pgLcb t 0) F.LCB_ITER_MX_PASSES 0) t .mx 1
      else mxBegin s t slot l

end Sys2Proof.Machine
end

