-- ==== Sys2Proof/Machine/Ve.lean ====
section
/-! DEFINITION. The vector engine: registers, flags and counting (R252 to R259, R267, R273), poison (R268, R269), SRAM
access (R270 to R272), conversions, packing, reductions and permutes (R260 to R266). -/
namespace Sys2Proof.Machine

/-! ## Issue -/

/-- A register-form slot word (R256). -/
def vregWord (op : Nat) (f : VReg) : W64 :=
  BitVec.ofNat 64 (2 ^ 56 * op + 2 ^ 51 * f.vd.toNat + 2 ^ 46 * f.va.toNat + 2 ^ 41 * f.vb.toNat + 2 ^ 36 * f.vc.toNat
    + 2 ^ 33 * f.ty.toNat + b2n f.s * 2 ^ 32 + f.imm.toNat)

/-- A memory-form slot word (R256). -/
def vmemWord (op : Nat) (f : VMem) : W64 :=
  BitVec.ofNat 64 (2 ^ 56 * op + 2 ^ 51 * f.vd.toNat + 2 ^ 49 * f.ar.toNat + b2n f.inc * 2 ^ 48 + 2 ^ 36 * f.step.toNat
    + 2 ^ 24 * f.stride.toNat + f.off.toNat)

/-- Opcodes that R257 assigns. -/
def veOps : List Nat :=
  [0x00, 0x01, 0x02, 0x03, 0x04, 0x05, 0x06, 0x08, 0x09, 0x0A, 0x0C, 0x0D, 0x0E, 0x10, 0x11, 0x12, 0x13, 0x14, 0x15, 0x16,
   0x17, 0x18, 0x19, 0x1A, 0x1C, 0x1D, 0x20, 0x21, 0x28, 0x29, 0x2A, 0x2B, 0x30, 0x31, 0x32, 0x33, 0x38, 0x39, 0x3A, 0x3B]

/-- A tile's vector engine changed. -/
def updVe (s : State) (t : Nat) (f : VE → VE) : State := s.updTile t (fun k => { k with ve := f k.ve })

/-- The tc of the engine's next issue. -/
def veClk (s : State) (t : Nat) : Nat := (s.tile t).ves.clk

/-- A change of flags put in its place: clears before sets of the same tc, so that a flag set in the tc of its clear
stays set (R267). -/
def flagIns (k b : Nat) : List (Nat × Nat) → List (Nat × Nat)
  | [] => [(k, b)]
  | (a, c) :: l => if k < a then (k, b) :: (a, c) :: l else (a, c) :: flagIns k b l

/-- The flags after the changes of tc `T` and earlier. -/
def VE.flagsAt (v : VE) (T : Nat) : Nat :=
  (v.fpend.filter (·.1 ≤ 2 * T + 1)).foldl (fun f e => if e.1 % 2 = 1 then Nat.lor f e.2 else f - Nat.land f e.2) v.flags

/-- What has happened by tc `clk`: VRDFLs sampled (R267), flags completed, stores landed. -/
def VE.upTo (v : VE) (clk : Nat) : VE :=
  let v := (v.rdfl.filter (·.1 ≤ clk)).foldl (fun (v : VE) r => { v with v := tset 0 v.v (r.2 * 64) (BitVec.ofNat 32 (v.flagsAt r.1)) }) v
  { v with
    rdfl := v.rdfl.filter (fun r => clk < r.1)
    flags := v.flagsAt clk
    fpend := v.fpend.filter (fun e => 2 * clk + 1 < e.1)
    lines := v.lines.filter (fun l => clk ≤ l.2.2.1) }

/-- The tc that have surely passed in a number of µs since an issue: the slowest tile clock has 679 in a µs (R456, R457), and the first
µs may have just begun. -/
def surelyPassed (us : Nat) : Nat := 679 * (us - 1)

/-- The engine's count of tc, moved on by the time that has passed since its last issue (R340). -/
def catchUp (s : State) (t : Nat) : State :=
  updStream s t .ve (fun x => { x with clk := x.clk + surelyPassed (s.us - x.us), us := s.us })

/-- An instruction starts to issue: its energy (R459), and the engine's past. -/
def veBegin (s : State) (t : Nat) : State :=
  let s := catchUp s t
  charge (updVe s t (fun v => v.upTo (veClk s t))) (pgTile t) 3 (s.tile t).ve.vl

/-- The engine issues an instruction: the command of that word, if it is the next one. -/
def issueV (s : State) (t : Nat) (w : W64) (f : State → State) : State :=
  if nextSlot s t .ve = some w then f (veBegin s t) else s

/-- Flags that an instruction sets `comp` tc after its issue (R267). -/
def veFlags (s : State) (t comp b : Nat) : State :=
  if b = 0 then s else updVe s t (fun v => { v with fpend := flagIns (2 * (veClk s t + comp) + 1) b v.fpend })

/-- An illegal instruction (R259): nothing written, ILLEGAL set, the issue interval of its row. -/
def veIllegal (s : State) (t issue comp : Nat) : State := nextEntry (veFlags s t comp 16) t .ve issue

/-! ## Registers -/

/-- Lane n of a register as a number. -/
def VE.lane (v : VE) (r n : Nat) : Nat := (tget 0 v.v (r * 64 + n)).toNat

/-- Element e of w bytes of a register (R253). -/
def VE.el (v : VE) (r w e : Nat) : Nat := bits (v.lane r (e * w / 4)) (e * w % 4 * 8) (8 * w)

/-- Whether the 64 B unit of element e is marked. -/
def VE.elPz (v : VE) (r w e : Nat) : Bool := v.poison.contains (r * 4 + e * w / 64)

/-- Keys of the lanes of a register that hold elements `es` of w bytes. -/
def elKeys (r w : Nat) (es : List Nat) : List Nat := (es.map (fun e => r * 64 + e * w / 4)).eraseDups

/-- Whether any unit of the lanes is marked. -/
def VE.anyPz (v : VE) (keys : List Nat) : Bool := keys.any (fun k => v.poison.contains (k / 16))

/-- A write of `n` bytes at a byte of the register file (register × 256 + byte), with its poison. -/
structure VW where
  at_ : Nat
  n : Nat
  v : Nat
  pz : Bool
  deriving DecidableEq, Repr

/-- A result of all bits of a lane does not stand: another completes later (R273). -/
def VE.loses (v : VE) (comp k : Nat) : Bool := comp < tget 0 v.ready k

/-- One lane written in the bits of a mask, complete at tc `comp` (R273): of two results the one that completes later
stands. A part of a lane written while the lane waits for another result is a free value. -/
def veLane (s : State) (t comp k x mask : Nat) : State :=
  let v := (s.tile t).ve
  let old := (tget 0 v.v k).toNat
  let full := mask = 2 ^ 32 - 1
  let sampled := k % 64 = 0 && v.rdfl.any (·.2 = k / 64)
  let put (s : State) (x rd : Nat) : State := updVe s t (fun v => { v with
    v := tset 0 v.v k (BitVec.ofNat 32 x), ready := tset 0 v.ready k rd
    rdfl := if k % 64 = 0 then v.rdfl.filter (·.2 ≠ k / 64) else v.rdfl })
  if v.loses comp k then
    if full then s else let (d, s) := s.draw; put s (d.toNat % 2 ^ 32) (tget 0 v.ready k)
  else if !full && sampled then let (d, s) := s.draw; put s (d.toNat % 2 ^ 32) comp
  else put s (Nat.lor (old - Nat.land old mask) (Nat.land x mask)) comp

/-- The writes of an instruction, `early` when it read a register too soon: undefined data then (R273). A unit written
whole takes the mark of what is written; a unit written in part keeps its own mark besides (R268). What does not stand marks nothing
(R273). -/
def veCommit (s : State) (t comp : Nat) (early : Bool) (ws : List VW) : State :=
  let v0 := (s.tile t).ve
  let lanes := ws.foldl (fun (m : List (Nat × (Nat × Nat))) w =>
    tupd (0, 0) m (w.at_ / 4) (fun (x, mask) =>
      let b := (2 ^ (8 * w.n) - 1) * 2 ^ (w.at_ % 4 * 8)
      (Nat.lor (x - Nat.land x b) (w.v * 2 ^ (w.at_ % 4 * 8)), Nat.lor mask b))) []
  let s := lanes.foldl (fun s l =>
    if early then let (d, s) := s.draw; veLane s t comp l.1 (d.toNat % 2 ^ 32) l.2.2
    else veLane s t comp l.1 l.2.1 l.2.2) s
  let whole (k : Nat) : Bool := lanes.any (fun l => l.1 = k && l.2.2 = 2 ^ 32 - 1)
  let stand := ws.filter (fun w => !(v0.loses comp (w.at_ / 4) && whole (w.at_ / 4)))
  let units := (stand.map (fun w => w.at_ / 64)).eraseDups
  updVe s t (fun v => { v with poison := units.foldl (fun p u =>
    let own := stand.filter (fun w => w.at_ / 64 = u)
    let full := decide (64 ≤ (own.map (·.n)).sum)
    setPut p u (own.any (·.pz) || (!full && p.contains u))) v.poison })

/-- An instruction that reads lanes (`reads`: key and tc after issue) and writes registers. `hit` says that it consumes
poison (R269): with POISON_BITE the part faults and nothing is written. `may` are the numeric flags that an early read
leaves open. -/
def veDo (s : State) (t issue comp : Nat) (reads : List (Nat × Nat)) (hit : Bool) (ws : List VW) (flags may : Nat) : State :=
  let v := (s.tile t).ve
  let early := reads.any (fun r => veClk s t + r.2 < tget 0 v.ready r.1)
  if hit && v.vctl.getLsbD 2 then let (d, s) := s.draw; tileBite s t .ve (d.toNat % 2 ^ 32)
  else
    let s := veCommit s t (veClk s t + comp) early ws
    let (fl, s) := if early then let (d, s) := s.draw; (Nat.land d.toNat may, s) else (flags, s)
    nextEntry (veFlags s t comp (Nat.lor fl (if hit then 8 else 0))) t .ve issue

/-- An elementwise instruction over elements of w bytes: `eat` are the sources whose poison it consumes, `carry` those
whose poison it carries. -/
def veMap (s : State) (t : Nat) (f : VReg) (w issue comp may : Nat) (eat carry : List Nat) (g : Nat → Nat × Nat) : State :=
  let v := (s.tile t).ve
  let es := List.range (v.vl * 4 / w)
  let keys (l : List Nat) : List Nat := l.flatMap (fun r => elKeys r w es)
  let rs := es.map (fun e => (e, g e))
  let ws := rs.map (fun (e, x) => (⟨f.vd.toNat * 256 + e * w, w, x.1, (eat ++ carry).any (fun r => v.elPz r w e)⟩ : VW))
  veDo s t issue comp ((keys (eat ++ carry)).map (fun k => (k, 0))) (v.anyPz (keys eat)) ws
    (rs.foldl (fun a x => Nat.lor a x.2.2) 0) may

/-- The second source of an element: VB, or IMM under S (R256, R262). -/
def veB (v : VE) (f : VReg) (w e : Nat) : Nat := if f.s then bits f.imm.toNat 0 (8 * w) else v.el f.vb.toNat w e

/-- The registers read besides `l` for VB. -/
def withB (f : VReg) (l : List Nat) : List Nat := if f.s then l else l ++ [f.vb.toNat]

/-- A float type of arithmetic (F of R257). -/
def isF (ty : Nat) : Bool := ty ≤ 2

/-- VADD, VSUB, VMUL, VFMA, VMIN, VMAX (R257, R260). -/
def veArith (s : State) (t : Nat) (op : AOp) (f : VReg) : State :=
  let ty := f.ty.toNat
  let v := (s.tile t).ve
  let w := tyBytes ty
  if isF ty || (ty = 5 && op ≠ .fma) then
    veMap s t f w 1 4 3 (withB f [f.va.toNat] ++ (if op = .fma then [f.vc.toNat] else [])) []
      (fun e => laneOp op ty (v.el f.va.toNat w e) (veB v f w e) (v.el f.vc.toNat w e))
  else veIllegal s t 1 4

/-- VAND, VOR, VXOR (R257). -/
def veBitwise (s : State) (t : Nat) (g : Nat → Nat → Nat) (f : VReg) : State :=
  let v := (s.tile t).ve
  veMap s t f 4 1 4 0 (withB f [f.va.toNat]) [] (fun e => (g (v.lane f.va.toNat e) (veB v f 4 e), 0))

/-- VRCP, VRSQ, VEXP2, VLOG2 (R261): 16-bit types through FP32. -/
def veApprox (s : State) (t issue comp : Nat) (g : Nat → Nat × Nat) (f : VReg) : State :=
  let ty := f.ty.toNat
  let v := (s.tile t).ve
  let w := tyBytes ty
  if isF ty then
    veMap s t f w issue comp 3 [f.va.toNat] [] (fun e =>
      let x := v.el f.va.toNat w e
      if ty = 0 then g x
      else
        let (y, a) := g (roundNE fmtF32 (decodeF (fmtOf ty) x)).1
        let (z, b) := roundNE (fmtOf ty) (f32 y)
        (z, Nat.lor a b))
  else veIllegal s t issue comp

/-! ## Conversions (R263, R264) -/

/-- Draws from the tile generator (R199), one for each of `n` elements. -/
def tileDraws : Nat → W64 → List Nat × W64
  | 0, g => ([], g)
  | n + 1, g =>
    let (x, g) := draw16 g
    let (l, g) := tileDraws n g
    (x :: l, g)

/-- The rounding of `n` elements under a rounding selector, with its draws from the tile generator; none are taken where
the instruction bites. -/
def veRnd (s : State) (t sel n : Nat) (hit : Bool) : (Nat → Rnd) × State :=
  if hit && (s.tile t).ve.vctl.getLsbD 2 then ((fun _ => .ne), s) else
  let st := sel = 2 || (sel = 0 && (s.tile t).ve.vctl.getLsbD 1)
  if st then
    let k := pgTile t + 0xC0
    let (l, g) := tileDraws n (s.reg k)
    ((fun e => .st (l.getD e 0)), s.setReg k g)
  else ((fun _ => .ne), s)

/-- The byte of element n on the narrower side: the selected half or quarter (R263). -/
def partAt (w part n : Nat) : Nat := (if w = 2 then part % 2 * 128 else if w = 1 then part * 64 else 0) + n * w

/-- VCVT (R263). DEDUCED: a 2-byte type as the wider side uses elements 0 to 63; types of equal size convert every
element of the active lanes. -/
def veCvt (s : State) (t : Nat) (f : VReg) : State :=
  let a := f.ty.toNat
  let b := bits f.imm.toNat 0 3
  let sel := bits f.imm.toNat 3 2
  let part := bits f.imm.toNat 5 2
  if a = 7 || b = 7 || sel = 3 then veIllegal s t 1 4
  else
    let v := (s.tile t).ve
    let wa := tyBytes a
    let wb := tyBytes b
    let n := if wa = wb then v.vl * 4 / wa else v.vl
    let src (e : Nat) : Nat := if wa < wb then partAt wa part e else e * wa
    let dst (e : Nat) : Nat := if wb < wa then partAt wb part e else e * wb
    let live (e : Nat) : Bool := wa = wb || dst e / 4 < v.vl
    let keys := ((List.range n).map (fun e => f.va.toNat * 64 + src e / 4)).eraseDups
    let (rnd, s) := veRnd s t sel n (v.anyPz keys)
    let rs := (List.range n).map (fun e =>
      let x := bits (v.lane f.va.toNat (src e / 4)) (src e % 4 * 8) (8 * wa)
      (e, toElem b (rnd e) (v.vctl.getLsbD 0) (elemVal a x)))
    let ws := (rs.filter (fun x => live x.1)).map (fun (e, x) =>
      (⟨f.vd.toNat * 256 + dst e, wb, x.1, v.poison.contains (f.va.toNat * 4 + src e / 64)⟩ : VW))
    veDo s t 1 4 (keys.map (fun k => (k, 0))) (v.anyPz keys) ws (rs.foldl (fun a x => Nat.lor a x.2.2) 0) 3

/-- VMXP (R264). -/
def veMxp (s : State) (t : Nat) (f : VReg) : State :=
  let sel := bits f.imm.toNat 3 2
  let p := bits f.imm.toNat 5 2
  let c := bits f.imm.toNat 0 1
  if f.ty.toNat ≠ 0 || sel = 3 then veIllegal s t 1 8
  else
    let v := (s.tile t).ve
    let keys := elKeys f.va.toNat 4 (List.range 64)
    let (rnd, s) := veRnd s t sel 64 (v.anyPz keys)
    let xs := (List.range 64).map (v.lane f.va.toNat)
    let blk (j : Nat) : Nat × Option Int := blockScale c ((xs.drop (32 * j)).take 32)
    let elem (e : Nat) : Nat := match (blk (e / 32)).2 with
      | some x => (encodeF (mxFmt c) (rnd e) true (scaleDown (xs.getD e 0) x)).1
      | none => 0
    let pz (j : Nat) : Bool := v.poison.contains (f.va.toNat * 4 + 2 * j) || v.poison.contains (f.va.toNat * 4 + 2 * j + 1)
    let ws := (List.range 64).map (fun e => (⟨f.vd.toNat * 256 + 64 * p + e, 1, elem e, v.elPz f.va.toNat 4 e⟩ : VW))
      ++ (List.range 2).map (fun j => (⟨f.vc.toNat * 256 + 2 * p + j, 1, (blk j).1, pz j⟩ : VW))
    veDo s t 1 8 (keys.map (fun k => (k, 0))) (v.anyPz keys) ws (if (blk 0).1 = 0xFF || (blk 1).1 = 0xFF then 1 else 0) 1

/-! ## Reductions and permutes (R265, R266) -/

/-- A reduction of positions of which the first are given and the others take the identity; `op` 0 SUM, 1 MIN, 2 MAX,
3 SUMSQ; 2^`k` positions. -/
def veReduce (op ty k : Nat) (l : List Nat) : Nat × Nat :=
  let ident := if op = 1 then (if ty = 5 then 0x7FFFFFFF else 0x7F800000)
    else if op = 2 then (if ty = 5 then 0x80000000 else 0xFF800000) else 0
  let l := l ++ List.replicate (2 ^ k - l.length) ident
  let sq (a b : Nat) : Nat × Nat := let (x, f) := fvMul (f32 a) (f32 a); let (y, g) := fvFma (f32 b) (f32 b) x
    let (r, h) := toF32 (y, 0); (r, Nat.lor f (Nat.lor g h))
  let node (a b : Nat) : Nat × Nat := laneOp (if op = 1 then .min else if op = 2 then .max else .add) ty a b 0
  let (l, f) := if op = 3 then pairUp sq l else (l, 0)
  let (r, g) := tree node k l
  (r.headD 0, Nat.lor f g)

/-- The operation of a reduction is legal. -/
def redOk (f : VReg) : Bool :=
  let op := bits f.imm.toNat 4 3
  (f.ty.toNat = 0 && op ≤ 3) || (f.ty.toNat = 5 && op ≤ 2)

/-- The register count of R265. -/
def redCount (f : VReg) : Nat := if bits f.imm.toNat 0 4 = 0 then 16 else bits f.imm.toNat 0 4

/-- Lanes of a register read, `dt` tc after issue. -/
def readsOf (r n dt : Nat) : List (Nat × Nat) := (List.range n).map (fun i => (r * 64 + i, dt))

/-- Lanes 0 to 63 of a register written: the given ones, then +0. -/
def wholeReg (r : Nat) (l : List (Nat × Bool)) : List VW :=
  (List.range 64).map (fun i => let x := l.getD i (0, false); ⟨r * 256 + 4 * i, 4, x.1, x.2⟩)

/-- VRED. -/
def veRed (s : State) (t : Nat) (f : VReg) : State :=
  if !redOk f then veIllegal s t 1 12
  else
    let v := (s.tile t).ve
    let (x, fl) := veReduce (bits f.imm.toNat 4 3) f.ty.toNat 6 ((List.range v.vl).map (v.lane f.va.toNat))
    let pz := v.anyPz (elKeys f.va.toNat 4 (List.range v.vl))
    veDo s t 1 12 (readsOf f.va.toNat v.vl 0) pz (wholeReg f.vd.toNat [(x, pz)]) fl 3

/-- TROW. -/
def veTrow (s : State) (t : Nat) (f : VReg) : State :=
  let c := redCount f
  let a := f.va.toNat
  if !redOk f || (a ≠ 0 && a ≠ 16) then veIllegal s t c (c + 12)
  else
    let v := (s.tile t).ve
    let rs := (List.range c).map (fun r =>
      let (x, fl) := veReduce (bits f.imm.toNat 4 3) f.ty.toNat 6 ((List.range v.vl).map (v.lane (a + r)))
      (x, fl, v.anyPz (elKeys (a + r) 4 (List.range v.vl))))
    veDo s t c (c + 12) ((List.range c).flatMap (fun r => readsOf (a + r) v.vl r)) (rs.any (·.2.2))
      (wholeReg f.vd.toNat (rs.map (fun x => (x.1, x.2.2)))) (rs.foldl (fun a x => Nat.lor a x.2.1) 0) 3

/-- TCOL: register r is read r tc after issue (R273). -/
def veTcol (s : State) (t : Nat) (f : VReg) : State :=
  let c := redCount f
  let a := f.va.toNat
  let issue := (c + 1) / 2
  if !redOk f || (a ≠ 0 && a ≠ 16) then veIllegal s t issue (issue + 12)
  else
    let v := (s.tile t).ve
    let rs := (List.range v.vl).map (fun n =>
      let (x, fl) := veReduce (bits f.imm.toNat 4 3) f.ty.toNat 4 ((List.range c).map (fun r => v.lane (a + r) n))
      (n, x, fl, (List.range c).any (fun r => v.elPz (a + r) 4 n)))
    veDo s t issue (issue + 12) ((List.range c).flatMap (fun r => readsOf (a + r) v.vl r)) (rs.any (·.2.2.2))
      (rs.map (fun x => ⟨f.vd.toNat * 256 + 4 * x.1, 4, x.2.1, x.2.2.2⟩)) (rs.foldl (fun a x => Nat.lor a x.2.2.1) 0) 3

/-- VPERM. -/
def vePerm (s : State) (t : Nat) (f : VReg) : State :=
  let v := (s.tile t).ve
  let rs := (List.range v.vl).map (fun n =>
    let i := veB v f 4 n
    let inside := decide (i < v.vl)
    (n, i, inside, (if inside then v.lane f.va.toNat i else 0),
      (inside && v.elPz f.va.toNat 4 i) || (!f.s && v.elPz f.vb.toNat 4 n)))
  let idx := if f.s then [] else readsOf f.vb.toNat v.vl 0
  let data := (rs.filter (·.2.2.1)).map (fun x => (f.va.toNat * 64 + x.2.1, 0))
  veDo s t 1 6 (idx ++ data) (v.anyPz (idx.map (·.1))) (rs.map (fun x => ⟨f.vd.toNat * 256 + 4 * x.1, 4, x.2.2.2.1, x.2.2.2.2⟩))
    (if rs.any (fun x => !x.2.2.1) then 4 else 0) 4

/-! ## Loads and stores (R268, R270 to R272) -/

/-- One line of an access: register, first lane, SRAM address, first and last tc at which it is read or lands. -/
structure VLine where
  reg : Nat
  lane : Nat
  addr : Nat
  lo : Nat
  hi : Nat
  deriving DecidableEq, Repr

/-- The effective address. -/
def veEa (v : VE) (f : VMem) : Nat := (tget 0 v.a f.ar.toNat + f.off.toNat) % 2 ^ 24

/-- The largest number of distinct lines in any one bank (R257). -/
def bankLoad (addrs : List Nat) : Nat :=
  let l := (addrs.map (· / 32)).eraseDups
  Nat.max 1 ((List.range 32).foldl (fun a b => Nat.max a (l.countP (fun x => x % 32 = b))) 0)

/-- Lines of register `reg` from an address on, one each `step` bytes; those with an active lane. -/
def veLines (vl reg ea step lo hi : Nat) : List VLine :=
  ((List.range 8).filter (fun i => 8 * i < vl)).map (fun i => ⟨reg, 8 * i, ea + i * step, lo, hi⟩)

/-- Active lanes of a line. -/
def VLine.lanes (vl : Nat) (l : VLine) : List Nat := (List.range 8).filter (fun i => l.lane + i < vl)

/-- The access moves its address register on (R256). -/
def veInc (s : State) (t : Nat) (f : VMem) : State :=
  if f.inc then updVe s t (fun v =>
    let a : Nat := tget 0 v.a f.ar.toNat
    { v with a := tset 0 v.a f.ar.toNat (unsgn 24 (Int.ofNat a + sgn 12 f.step.toNat * 32)) })
  else s

/-- A line as a read between two tc sees it (R223, R272): entirely before or entirely after a store; where the tc does not settle which,
one free bit does. -/
def lineRead (s : State) (k : Tile) (l : VLine) : List Word × Bool × State :=
  let new := (leWords32 (k.run_ l.addr 32), k.pz l.addr)
  match k.ve.lines.find? (fun x => x.1 = l.addr / 32 && l.lo ≤ x.2.2.1) with
  | some x =>
    let old := (leWords32 x.2.2.2.1, x.2.2.2.2)
    if x.2.1 < l.hi then
      let (b, s) := s.draw
      if bitOf b 0 then (old.1, old.2, s) else (new.1, new.2, s)
    else (old.1, old.2, s)
  | none => (new.1, new.2, s)

/-- The lines of one register loaded, from the tile as the engine reads it (R344). -/
def veLoadReg (s : State) (t comp : Nat) (ls : List VLine) : State :=
  let vl := (s.tile t).ve.vl
  let (k, s) := blur s t 1
  let (ws, s) := ls.foldl (fun (acc : List VW × State) l =>
    if sramBytes ≤ l.addr then
      (acc.1 ++ (l.lanes vl).map (fun i => ⟨l.reg * 256 + 4 * (l.lane + i), 4, 0, false⟩), countOob acc.2 t false 1)
    else
      let (d, pz, s) := lineRead acc.2 k l
      (acc.1 ++ (l.lanes vl).map (fun i => ⟨l.reg * 256 + 4 * (l.lane + i), 4, (d.getD i 0).toNat, pz⟩), s)) ([], s)
  veCommit s t comp false ws

/-- SRAM lines accessed, for their energy (R459). -/
def veLineCharge (s : State) (t : Nat) (ls : List VLine) : State :=
  charge s (pgTile t) 4 (ls.countP (fun l => l.addr < sramBytes))

/-- A load: registers with their lines and the tc at which each is complete. -/
def veLoad (s : State) (t issue : Nat) (f : VMem) (rows : List (Nat × List VLine)) : State :=
  let s := rows.foldl (fun s r => veLoadReg s t r.1 r.2) s
  nextEntry (veInc (veLineCharge s t (rows.flatMap (·.2))) t f) t .ve issue

/-- The bytes that one line stores: active lanes only; a line out of bounds is dropped and counted (R271). -/
def lineBytes (early : Bool) (t : Nat) (s : State) (l : VLine) : List (Nat × Nat × Nat × Bool) × State :=
  let k := s.tile t
  if sramBytes ≤ l.addr then ([], countOob s t true 1)
  else (l.lanes k.ve.vl).foldl (fun (acc : List (Nat × Nat × Nat × Bool) × State) i =>
      let (x, s) := if early then let (d, s) := acc.2.draw; (BitVec.ofNat 32 d.toNat, s)
        else (tget 0 k.ve.v (l.reg * 64 + l.lane + i), acc.2)
      (acc.1 ++ runBytes (l.addr + 4 * i) ((leBytes 4 x.toNat).map some) (fun _ => k.ve.poison.contains (l.reg * 4 + (l.lane + i) / 16)), s))
      ([], s)

/-- The lines that one register stores, as one write: a 64 B unit stored whole is written whole (R224). -/
def storeLines (early : Bool) (t : Nat) (s : State) (ls : List VLine) : State :=
  let (bytes, s) := ls.foldl (fun (acc : List (Nat × Nat × Nat × Bool) × State) l =>
    let (b, s) := lineBytes early t acc.2 l
    (acc.1 ++ b, s)) ([], s)
  let ins := ls.filter (fun l => l.addr < sramBytes)
  let s := s.updTile t (fun k => { k.put bytes with
    ve := { k.ve with lines := k.ve.lines ++ ins.map (fun l => (l.addr / 32, l.lo, l.hi, k.run_ l.addr 32, k.pz l.addr)) } })
  addSoon s t (ins.map (fun l => { eng := 1, thing := l.addr / 32, tc := l.hi + 1, us := s.us }))

/-- A store: lines, each with the tc after issue at which its register is read. -/
def veStore (s : State) (t issue : Nat) (f : VMem) (ls : List (Nat × VLine)) : State :=
  let v := (s.tile t).ve
  let early := ls.any (fun l => (l.2.lanes v.vl).any (fun i => veClk s t + l.1 < tget 0 v.ready (l.2.reg * 64 + l.2.lane + i)))
  let s := forEach s ((ls.map (·.1)).eraseDups) (fun s r => storeLines early t s ((ls.filter (·.1 = r)).map (·.2)))
  nextEntry (veInc (veLineCharge s t (ls.map (·.2))) t f) t .ve issue

/-- Address or register of a memory form is illegal (R258). -/
def memBad (f : VMem) (tileReg : Bool) : Bool := f.off.toNat % 32 ≠ 0 || (tileReg && f.vd.toNat ≠ 0 && f.vd.toNat ≠ 16)

end Sys2Proof.Machine
end

