-- ==== Sys2Proof/Machine/Cewick.lean ====
section
/-! DEFINITION. The engine routines of the Cewick library (R274 to R277, R349). -/
namespace Sys2Proof.Machine

/-- The argument block of a routine (R274). -/
structure CwArg where
  input : Nat
  output : Nat
  L : Nat
  R : Nat
  inStride : Nat
  outStride : Nat
  mask : Nat
  maskStride : Nat
  stats : Nat
  flags : Nat
  scale : Nat
  inType : Nat
  outType : Nat
  gamma : Nat
  beta : Nat
  deriving DecidableEq, Repr

/-- A byte of SRAM, 0 out of bounds (R271). -/
def cwByte (k : Tile) (a : Nat) : Byte := if a < sramBytes then k.byte a else 0

/-- A run of bytes of SRAM, 0 out of bounds. -/
def cwRun (k : Tile) (a n : Nat) : List Byte := (List.range n).map (fun i => cwByte k (a + i))

/-- Lines of a run that are out of bounds. -/
def cwOob (a n : Nat) : Nat := if n = 0 then 0 else ((List.range ((a + n - 1) / 32 - a / 32 + 1)).filter (fun i => sramBytes ≤ (a / 32 + i) * 32)).length

/-- The argument block at a line. -/
def cwArg (k : Tile) (line : Nat) : CwArg :=
  let w := leWords (cwRun k (line * 32) 64)
  let g (i lo n : Nat) : Nat := fld (w.getD i 0) lo n
  { input := g 0 0 24
    output := g 0 24 24
    L := g 1 0 16
    R := g 1 16 16
    inStride := g 1 32 16
    outStride := g 1 48 16
    mask := g 2 0 24
    maskStride := g 2 24 16
    stats := g 3 0 24
    flags := g 3 24 24
    scale := g 4 0 32
    inType := g 4 32 3
    outType := g 4 35 3
    gamma := g 5 0 24
    beta := g 5 24 24 }

/-- The item is absent (R274). -/
def absent (a : Nat) : Bool := a = 0xFFFFFF

/-- The status a call ends with (R274): 1, or the first failed check in the order of its codes (DEDUCED). IN and OUT must
be present (DEDUCED). -/
def cwStatus (softmax : Bool) (a : CwArg) : Nat :=
  let opt := if softmax then [a.mask, a.stats, a.flags] else [a.stats, a.flags, a.gamma, a.beta]
  if a.L = 0 || 16384 < a.L || a.R = 0 || 4096 < a.R then 2
  else if absent a.input || absent a.output || a.input % 32 ≠ 0 || a.output % 32 ≠ 0 || opt.any (fun x => !absent x && x % 32 ≠ 0) then 3
  else if 2 < a.inType || 2 < a.outType then 4
  else 1

/-- An element of a run as an FP32 pattern. -/
def cwElem (k : Tile) (at_ ty j : Nat) : Nat :=
  let w := tyBytes ty
  let x := leNat (cwRun k (at_ + j * w) w)
  if ty = 0 then x else (roundNE fmtF32 (decodeF (fmtOf ty) x)).1

/-- An FP32 pattern rounded to an element type. -/
def cwOut (ty x : Nat) : Nat × NFlags := if ty = 0 then (x, 0) else roundNE (fmtOf ty) (f32 x)

/-- A pairwise sum over 64-lane chunks, the chunks in ascending order (R275, R276). -/
def cwSum (l : List Nat) : Nat × NFlags :=
  ((List.range ((l.length + 63) / 64)).map (fun c => (l.drop (64 * c)).take 64)).foldl (fun (a : Nat × NFlags) c =>
    let (x, f) := veReduce 0 0 6 c
    let (y, g) := laneOp .add 0 a.1 x 0
    (y, a.2 ||| f ||| g)) (0, 0)

/-- What a routine makes of one row: the outputs (FP32 patterns), the two statistics, the flag byte, engine flags. -/
structure CwRow where
  ys : List Nat
  st0 : Nat
  st1 : Nat
  flag : Nat
  f : NFlags
  deriving DecidableEq, Repr

/-- log2 e × 2^96, cut. -/
def log2e : Nat := 114302077158074026402637675936

/-- 2^((x − m) × log2 e) for finite FP32 patterns: the free value within 2^−22, else the computed one rounded once. -/
def cwExp (x m : Nat) : Nat :=
  match (fvAdd (f32 x) (f32 m).negate).1 with
  | .fin s n e =>
    let d : Nat := if -100 ≤ e then n * 2 ^ (e + 100).toNat else n / 2 ^ (-100 - e).toNat
    let t : Int := onScale s (d * log2e / 2 ^ 116) 0 0
    let i : Int := t / (2 ^ 80 : Nat)
    if i < -160 then 0
    else
      let r := exp2Loop 80 80 (t % (2 ^ 80 : Nat)).toNat (2 ^ 97) (2 ^ 96)
      let p := (roundNE fmtF32 (.fin false r (i - 96))).1
      within 5 (roundNE fmtF32 (.fin s n e)).1 (nearRef 22 false r (i - 96)) p
  | _ => 0

/-- A row of CW.SOFTMAX (R275): entries, none where masked. DEDUCED: y is the rounded product of the exponential and the
approximate reciprocal of s, each within the engine's own bound, which keeps y within 2^−19. 1/k is rounded once. -/
def softmaxRow (scale : Nat) (xs : List (Option Nat)) : CwRow :=
  let ps := xs.map (fun x => x.map (fun x => let (y, f) := laneOp .mul 0 x scale 0; (y, Nat.land f 2)))
  let vals := ps.filterMap id
  let fl := vals.foldl (fun a x => Nat.lor a x.2) 0
  let qs := ps.map (fun x => x.map (·.1))
  let isInfP (x : Nat) : Bool := x = 0x7F800000
  let n := xs.length
  if vals.any (fun x => f32 x.1 = .nan) then ⟨List.replicate n fmtF32.nanPat, fmtF32.nanPat, fmtF32.nanPat, 3, 0⟩
  else
    let k := vals.countP (fun x => isInfP x.1)
    if 0 < k then
      let kf := (toF32 (fvInt k, 0)).1
      let y := (toF32 (.fin false (2 ^ 64 / k) (-64), 0)).1
      ⟨qs.map (fun x => match x with | some p => if isInfP p then y else 0 | none => 0), 0x7F800000, kf, 2, fl⟩
    else
      let fin := vals.filter (fun x => f32 x.1 ≠ .inf true)
      if fin.isEmpty then ⟨List.replicate n 0, 0xFF800000, 0, 1, fl⟩
      else
        let m := fin.foldl (fun a x => if fvLt true (f32 a) (f32 x.1) then x.1 else a) 0xFF800000
        let es := qs.map (fun x => match x with | some p => if p = 0xFF800000 then 0 else cwExp p m | none => 0)
        let (s, _) := cwSum es
        let (r, _) := approxRcp s
        ⟨es.map (fun e => (laneOp .mul 0 e r 0).1), m, s, 0, fl⟩

/-- x / L rounded once. -/
def cwMean (x L : Nat) : Nat × NFlags :=
  match f32 x with
  | .fin s m e => toF32 (.fin s (m * 2 ^ 64 / L) (e - 64), 0)
  | _ => (x, 0)

/-- A row of CW.LNORM or CW.RMSNORM (R276). DEDUCED: each operation of the formula is rounded to FP32 in the order written,
and a row of flag 3 reports NaN statistics (μ = 0 for CW.RMSNORM). -/
def normRow (centred : Bool) (eps : Nat) (xs gs bs : List Nat) : CwRow :=
  let n := xs.length
  let nan := fmtF32.nanPat
  let bad (f : NFlags) : CwRow := ⟨List.replicate n nan, if centred then nan else 0, nan, 3, f⟩
  let inf := xs.any (fun x => match f32 x with | .inf _ => true | _ => false)
  if inf || xs.any (fun x => f32 x = .nan) then bad (if inf then fInv else 0)
  else
    let (sum, f1) := if centred then cwSum xs else (0, 0)
    let (mu, f2) := cwMean sum n
    let ds := xs.map (fun x => laneOp .sub 0 x mu 0)
    let dv := if centred then ds.map (·.1) else xs
    let sq := dv.map (fun d => laneOp .mul 0 d d 0)
    let (ss, f3) := cwSum (sq.map (·.1))
    let (var, f4) := cwMean ss n
    let (den, f5) := laneOp .add 0 var eps 0
    let zero := den = 0
    let (rho, f6) := if zero then (0x7F800000, 0) else approxRsq den
    let ys := (dv.zip (gs.zip bs)).map (fun (d, g, b) =>
      let (x, h1) := if zero then (0, 0) else laneOp .mul 0 d rho 0
      let (y, h2) := if zero then (0, 0) else laneOp .mul 0 x g 0
      let (z, h3) := if zero then (if centred then b else 0, 0) else if centred then laneOp .add 0 y b 0 else (y, 0)
      (z, h1 ||| h2 ||| h3))
    let fl := f1 ||| f2 ||| f3 ||| f4 ||| f5 ||| f6 ||| (ds.foldl (fun a x => a ||| x.2) 0) ||| (sq.foldl (fun a x => a ||| x.2) 0)
      ||| (ys.foldl (fun a x => a ||| x.2) 0)
    ⟨ys.map (·.1), mu, rho, if zero then 4 else 0, fl⟩

/-- The row r of a routine read, computed and written; nothing once poison has bitten. `which` 1 softmax, 2 LNORM, 3 RMSNORM. -/
def cwRow (which : Nat) (t : Nat) (a : CwArg) (s : State) (r : Nat) : State :=
  if (s.tile t).ves.stopped then s
  else
    let (k, s) := blur s t 1
    let src := a.input + r * a.inStride * 32
    let dst := a.output + r * a.outStride * 32
    let wi := tyBytes a.inType
    let wo := tyBytes a.outType
    let softmax := decide (which = 1)
    let maskAt := a.mask + r * a.maskStride * 32
    let masked (j : Nat) : Bool := softmax && !absent a.mask && (cwByte k (maskAt + j / 8)).getLsbD (j % 8)
    let js := List.range a.L
    let reads : List (Nat × Nat) := [(src, a.L * wi)]
      ++ (if softmax && !absent a.mask then [(maskAt, (a.L + 7) / 8)] else [])
      ++ (if !softmax && !absent a.gamma then [(a.gamma, a.L * 4)] else [])
      ++ (if which = 2 && !absent a.beta then [(a.beta, a.L * 4)] else [])
    let hit := reads.any (fun x => k.pzRun x.1 x.2)
    if hit && k.ve.vctl.getLsbD 2 then
      tileBite s t .ve (((reads.flatMap (fun x => sectorsOf x.1 x.2)).find? (fun u => k.spoison.contains u)).getD 0 * 2)
    else
      let vecAt (at_ d : Nat) : List Nat := js.map (fun j => if absent at_ then d else cwElem k at_ 0 j)
      let row := if softmax then softmaxRow a.scale (js.map (fun j => if masked j then none else some (cwElem k src a.inType j)))
        else normRow (decide (which = 2)) a.scale (js.map (cwElem k src a.inType)) (vecAt a.gamma 0x3F800000)
          (if which = 2 then vecAt a.beta 0 else js.map (fun _ => 0))
      let outs := row.ys.map (cwOut a.outType)
      let fo := outs.foldl (fun f x => Nat.lor f x.2) row.f
      let wr (at_ : Nat) (l : List Byte) : List (Nat × Nat × Nat × Bool) := runBytes at_ (l.map some) (fun _ => hit)
      let st := a.stats + 8 * r
      let writes := [(dst, outs.flatMap (fun x => leBytes wo x.1))]
        ++ (if absent a.stats then [] else [(st, leBytes 4 row.st0 ++ leBytes 4 row.st1)])
        ++ (if absent a.flags then [] else [(a.flags + r, leBytes 1 row.flag)])
      let s := s.updTile t (fun k => k.put (writes.flatMap (fun x => wr x.1 x.2)))
      let s := countOob s t false ((reads.map (fun x => cwOob x.1 x.2)).sum)
      let s := countOob s t true ((writes.map (fun x => cwOob x.1 x.2.length)).sum)
      veFlags s t 0 (Nat.lor fo (if hit then 8 else 0))

/-- The call entry that the vector engine takes next (R349). -/
def nextCall (s : State) (t : Nat) : Option (Nat × Nat) :=
  let x := (s.tile t).ves
  if !tileRuns s t || x.stopped || x.wait.isSome || x.routine.isSome || x.skip || x.atAlign then none
  else match x.buf[x.pc]? with
    | some (.call r a) => some (r, a)
    | _ => none

/-- A routine runs (R274): a refused call does no row. The engine takes nothing more until ENGINE_ROUTINE_DONE. Poison in the routine
store bites (R350), and so does poison in the argument block under POISON_BITE. -/
def cwCall (s : State) (t which line : Nat) : State :=
  if nextCall s t ≠ some (which, line) then s
  else
    let s := veBegin s t
    let (k, s) := blur s t 1
    let hit := k.pzRun (line * 32) 64
    if k.storePz || (hit && k.ve.vctl.getLsbD 2) then tileBite s t .ve line
    else
      let s := veFlags (countOob s t false (cwOob (line * 32) 64)) t 0 (if hit then 8 else 0)
      let a := cwArg k line
      let st := cwStatus (decide (which = 1)) a
      let s := if st = 1 then (List.range a.R).foldl (cwRow which t a) s else s
      if (s.tile t).ves.stopped then s
      else updStream s t .ve (fun x => { x with routine := some (line, st, if st = 1 then a.R else 0) })

/-- A routine ends (R349): word 6 is written, VL is 64, the registers are undefined, the stream goes on. -/
def cwEnd (s : State) (t : Nat) : State :=
  match (s.tile t).ves.routine with
  | none => s
  | some (line, st, rows) =>
    let word := leBytes 8 (st + rows * 2 ^ 32)
    let s := s.updTile t (fun k => k.put (runBytes (line * 32 + 48) (word.map some) (fun _ => false)))
    let s := countOob s t true (cwOob (line * 32 + 48) 8)
    let (v, s) := (List.range 2048).foldl (fun (acc : Tbl Word × State) i =>
      let (d, s) := acc.2.draw; (tset 0 acc.1 i (BitVec.ofNat 32 d.toNat), s)) ([], s)
    let (a, s) := (List.range 4).foldl (fun (acc : Tbl Nat × State) i =>
      let (d, s) := acc.2.draw; (tset 0 acc.1 i (d.toNat % 2 ^ 19 * 32), s)) ([], s)
    let s := updVe s t (fun x => { x with
      v := v, poison := [], vl := 64, a := a, ready := [], rdfl := [], lines := []
      flags := x.flagsAt (x.fpend.foldl (fun m e => Nat.max m e.1) 0), fpend := [] })
    nextEntry (updStream s t .ve (fun x => { x with routine := none })) t .ve 0

end Sys2Proof.Machine
end

