-- ==== Sys2Proof/Machine/Slots.lean ====
section
/-! DEFINITION. The DMA and SRL slots of the tiles (R334 to R338, R374, R375), the address-stream FIFO (R376 to R378), and
semaphore registers (R345). -/
namespace Sys2Proof.Machine

/-! ## DMA slot -/

/-- DSTART and DRUN hold the stream while their channel is not IDLE (R336). -/
def chanFree (s : State) (t c : Nat) : Bool := chSt s t c = 0

/-- A slot instruction starts a channel on a program location; `slot` 8 is DSTART. -/
def slotStart (s : State) (t c slot : Nat) (sram : Bool) (addr : Nat) : State :=
  let s := startChan s t c sram addr
  let s := s.updTile t (fun k => { k with drun := k.drun ++ [(c, slot)] })
  nextEntry (beginWork s t .dma c) t .dma 1

/-- DSTART (R336). -/
def dstart (s : State) (t c : Nat) : State :=
  if !chanFree s t c then s
  else
    let sram := decide (getF s (pgDma t) F.DMA_CH_PROG_SRAM c = 1)
    let a := getF s (pgDma t) F.DMA_CH_PROG_ADDR c
    slotStart s t c 8 sram (if sram then a % 2 ^ 24 else a)

/-- The program location that a DMA-class slot gives a tile (R374): whether it is in SRAM, and the address. -/
def dprog (l : List W64) (tile : Nat) : Bool × Nat :=
  let sram := bitOf (lw l 46) 63
  let a : Nat := fld (lw l 46) 0 41
  let v : Int := lStart l 0 + lTile l 0 tile
  (sram, unsgn (if sram then 24 else 41) (Int.ofNat a + 64 * v))

/-- DRUN (R336, R372, R374). -/
def drun (s : State) (t c slot : Nat) : State :=
  if !chanFree s t c then s
  else
    let (l, s) := latch s t .dma slot
    let (sram, a) := dprog l t
    if lClass l ≠ 2 || lNlev l ≠ 0 || lKsplit l || fld (lw l 0) 8 6 ≠ 0 || a % (if sram then 32 else 64) ≠ 0 then
      illegalSlot s t .dma
    else slotStart (markLatched s t slot true) t c slot sram a

/-- DSTART (R336). -/
def execDstart (tile : Nat) (ch : BitVec 2) (s : State) : Res :=
  onObj (hasTile s tile) s (issue s tile .dma 0x01 (fun w => fld w 16 2 = ch.toNat) (fun s _ => dstart s tile ch.toNat))

/-- DRUN (R374). -/
def execDrun (tile : Nat) (ch : BitVec 2) (slot : BitVec 3) (s : State) : Res :=
  onObj (hasTile s tile) s (issue s tile .dma 0x02 (fun w => fld w 16 2 = ch.toNat && fld w 20 3 = slot.toNat)
    (fun s _ => drun s tile ch.toNat slot.toNat))

/-- The DMA slot's CFG.LOAD (R364). -/
def execDmaCfgLoad (tile : Nat) (slot : BitVec 3) (line : BitVec 16) (s : State) : Res :=
  onObj (hasTile s tile) s (issue s tile .dma 0x03 (fun w => fld w 20 3 = slot.toNat && fld w 0 16 = line.toNat)
    (fun s _ => cfgLoad s tile .dma slot.toNat line.toNat))

/-- DMA-slot NOP (R334); a slot word of an unlisted operation executes as NOP for 1 tc and is logged (R338). -/
def execDmaSlotNop (tile n : Nat) (s : State) : Res :=
  onObj (hasTile s tile) s (match nextSlot s tile .dma with
    | some w =>
      if slotOp .dma w = 0 then (if fld w 0 8 = n then slotNop s tile .dma n else s)
      else if [1, 2, 3, 0x38, 0x39, 0x3A, 0x3B].contains (slotOp .dma w) then s
      else illegalSlot s tile .dma
    | none => s)

/-- DMA-slot WAIT (R334, R345). -/
def execDmaSlotWait (tile : Nat) (sem : BitVec 5) (k : BitVec 16) (s : State) : Res :=
  onObj (hasTile s tile) s (issue s tile .dma 0x38 (fun w => fld w 16 5 = sem.toNat && fld w 0 16 = k.toNat)
    (fun s _ => slotWait s tile .dma sem.toNat k.toNat))

/-- DMA-slot SIG (R338). -/
def execDmaSlotSig (tile : Nat) (sem : BitVec 5) (v : BitVec 16) (s : State) : Res :=
  onObj (hasTile s tile) s (issue s tile .dma 0x39 (fun w => fld w 16 5 = sem.toNat && fld w 0 16 = v.toNat)
    (fun s _ => slotSig s tile .dma sem.toNat v.toNat))

/-- DMA-slot LOOP (R333). -/
def execDmaSlotLoop (tile : Nat) (count : BitVec 24) (s : State) : Res :=
  onObj (hasTile s tile) s (issue s tile .dma 0x3A (fun w => fld w 0 24 = count.toNat) (fun s _ => slotLoop s tile .dma count.toNat))

/-- DMA-slot ENDLOOP (R333). -/
def execDmaSlotEndloop (tile : Nat) (s : State) : Res :=
  onObj (hasTile s tile) s (issue s tile .dma 0x3B (fun _ => true) (fun s _ => slotEndloop s tile .dma))

/-! ## SRL slot -/

/-- What a command access of the SRL engine is for: a read into lines from L, or a poll or a write. -/
def forPoll : Nat := 65536
/-- A write or a launch. -/
def forWrite : Nat := 65537

/-- A piece of the command access number `n`, sent by a tile's SRL engine to row 0 of a channel. -/
def srlPiece (s : State) (t st ch what n : Nat) (a : Access) : State :=
  let s := s.updTile t (fun k => { k with srlOut := k.srlOut ++ [n] })
  match arriveAccess s st ch 0 { a with src := 0x1000 + t, tag := what + 2 ^ 20 * n } with
  | some s => s
  | none => s

/-- A command access sent by a tile's SRL engine to row 0 of a channel (R219, R337); answers its number. -/
def srlSend (s : State) (t st ch what : Nat) (a : Access) : Nat × State :=
  let n := (s.tile t).srlSeq + 1
  (n, srlPiece (s.updTile t (fun k => { k with srlSeq := n })) t st ch what n a)

/-- 32 command accesses are outstanding (R337); one in two pieces is one. -/
def srlFull (s : State) (t : Nat) : Bool := 32 ≤ (s.tile t).srlOut.eraseDups.length

/-- A word of an access of the SRL engine: bank, offset in the 2 KiB row, bytes. -/
def srlAccess (bank off len : Nat) (write : Bool) (data : List Byte) (marks : List Bool) : Access where
  src := 0
  bank := bank
  off := off
  len := len
  write := write
  data := data.map some
  poison := marks
  tag := 0
  grp := 0

/-- The launch of an iteration (R375): its stack if there is one, its channel, its access. -/
def srunLaunch (s : State) (t : Nat) (l : List W64) (vals : Nat → Int) : Option Nat × Nat × Access :=
  let tgt := lw l 46
  let local_ := bitOf tgt 15
  let x : Int := Int.ofNat (fld tgt 0 5) + vals 3
  let mine := s.member.dieStacks (t / 64)
  let st : Option Nat :=
    if x < 0 then none
    else if local_ then mine[x.toNat]?
    else if x.toNat < s.member.stackCount then some x.toNat else none
  let ch := (Int.ofNat (fld tgt 5 5) + vals 2) % 32
  let bank := (Int.ofNat (fld tgt 10 4) + vals 4) % 16
  let row := (Int.ofNat (fld (lw l 47) 0 16) + vals 0) % 65536
  let tag := (Int.ofNat (fld (lw l 48) 32 32) + vals 1) % 2 ^ 32
  let w0 := withFld (lw l 47) 0 16 row.toNat
  let w1 := withFld (lw l 48) 32 32 tag.toNat
  let data := leBytes 8 w0.toNat ++ leBytes 8 w1.toNat ++ List.replicate 40 0 ++ leBytes 8 1
  let bcast := bitOf tgt 14
  (st, ch.toNat, srlAccess (if bcast then 0 else bank.toNat) (if bcast then 3 * 512 + 4 * 64 else 4 * 64) 64 true data [false, false])

/-- The SRUN has sent its launches: what its completion waits for is the last one (R375). -/
def endSrun (s : State) (t : Nat) (r : SrlRun) : State :=
  let s := markLatched s t r.slot false
  let s := s.updTile t (fun k => { k with srun := none })
  match r.last with
  | some n =>
    let s := s.updTile t (fun k => { k with srlMid := k.srlMid.filter (· ≠ n) })
    if (s.tile t).srlOut.contains n then s else sigDone s t .srl n
  | none => s

/-- Launches go while fewer than 32 accesses are outstanding and the address stream holds their entries (R375 to R378). -/
def pumpSrun : Nat → State → Nat → State
  | 0, s, _ => s
  | fuel + 1, s, t =>
    match (s.tile t).srun with
    | none => s
    | some r =>
      if r.total ≤ r.iter then endSrun s t r
      else if srlFull s t || !tileRuns s t then s
      else match popAsf s t r.words with
        | none => s
        | some (p, s) =>
          let vals (x : Nat) : Int := lValue r.words t r.iter x p
          let (st, ch, a) := srunLaunch s t r.words vals
          let next (s : State) (last : Option Nat) : State :=
            updStream (s.updTile t (fun k => { k with srun := some { r with iter := r.iter + 1, last := last } })) t .srl
              (fun x => { x with clk := x.clk + 2 })
          match st with
          | none => pumpSrun fuel (next (recordErr s (pgLcb t 0) 0x0413 0) r.last) t
          | some st =>
            -- the launch is outstanding before its answer can come
            let n := (s.tile t).srlSeq + 1
            let s := next (s.updTile t (fun k => { k with srlMid := k.srlMid ++ [n] })) (some n)
            let s := bumpF s (pgLcb t 0) F.LCB_ITER_SRL_LAUNCHES
            pumpSrun fuel (srlSend (beginWork s t .srl n) t st ch forWrite a).2 t

/-- The SRUN of a tile goes on as far as it can. -/
def pump (s : State) (t : Nat) : State :=
  match (s.tile t).srun with
  | some r => pumpSrun (r.total - r.iter + 1) s t
  | none => s

/-- SRUN (R372, R375). -/
def srun (s : State) (t slot : Nat) : State :=
  let (l, s) := latch s t .srl slot
  if lClass l ≠ 3 || lNlev l = 7 || lKsplit l then illegalSlot s t .srl
  else
    let s := setF s (pgLcb t 0) F.LCB_ITER_SRL_LAUNCHES 0
    if lTotal l = 0 then nextEntry s t .srl 1
    else
      let s := nextEntry s t .srl 0
      pump (s.updTile (t) (fun k => { k with srun := some ⟨slot, l, 0, lTotal l, none⟩, lcbLatched := k.lcbLatched ++ [slot] })) t

/-- The fields of SWR and SRD in a slot word: stack, channel, PA[14:6], sectors, line. -/
def srlFields (w : W64) : Nat × Nat × Nat × Nat × Nat :=
  (fld w 51 5, fld w 46 5, fld w 37 9, (if fld w 32 5 = 0 then 32 else fld w 32 5), fld w 0 16)

/-- A field of SWR or SRD is out of range (R337, R338): a stack that the member does not have, an odd line, lines beyond the
SRAM, sectors beyond row 0 of the channel's last bank. -/
def srlBad (s : State) (w : W64) : Bool :=
  let (st, _, pa, n, line) := srlFields w
  s.member.stackCount ≤ st || line % 2 = 1 || 49151 < line + 2 * n - 1 || 512 < pa + n

/-- An access of n sectors from PA[14:6], split where it crosses into the row of the next bank (R72): sectors before a piece, its own,
and its place. -/
def srlPieces (pa n : Nat) : List (Nat × Nat × Nat) :=
  let f := Nat.min n (32 - pa % 32)
  if f < n then [(0, f, pa), (f, n - f, pa + f)] else [(0, n, pa)]

/-- SWR (R337). -/
def swr (s : State) (t : Nat) (w : W64) : State :=
  let (st, ch, pa, n, line) := srlFields w
  if srlBad s w then illegalSlot s t .srl
  else if srlFull s t then s
  else
    let no := (s.tile t).srlSeq + 1
    let (k, s) := blur s t 3
    let s := charge s (pgTile t) 4 (2 * n)
    let s := beginWork (s.updTile t (fun k => { k with srlSeq := no })) t .srl no
    let s := forEach s (srlPieces pa n) (fun s (skip, m, at_) =>
      let a := (line + 2 * skip) * 32
      srlPiece s t st ch forWrite no (srlAccess (at_ / 32) (at_ % 32 * 64) (m * 64) true (k.run_ a (m * 64))
        ((List.range (2 * m)).map (fun i => k.pz (a + i * 32)))))
    nextEntry s t .srl (2 * n)

/-- SRD (R337). -/
def srd (s : State) (t : Nat) (w : W64) : State :=
  let (st, ch, pa, n, line) := srlFields w
  if srlBad s w then illegalSlot s t .srl
  else if srlFull s t then s
  else
    let no := (s.tile t).srlSeq + 1
    let s := s.updTile t (fun k => { k with srlSeq := no, srdLines := k.srdLines ++ [(no, line, 2 * n)] })
    let s := beginWork s t .srl no
    let s := forEach s (srlPieces pa n) (fun s (skip, m, at_) =>
      srlPiece s t st ch (line + 2 * skip) no (srlAccess (at_ / 32) (at_ % 32 * 64) (m * 64) false [] []))
    nextEntry s t .srl 1

/-- A poll of SWAIT, if none is outstanding (R337): a broadcast read of the result slot's summary. -/
def poll (s : State) (t : Nat) : State :=
  match (s.tile t).stream .srl |>.swait with
  | some (st, ch, slot, _) =>
    if srlFull s t || !tileRuns s t then s
    else (srlSend s t st ch forPoll (srlAccess 8 (3 * 512 + slot * 64) 64 false [] [])).2
  | none => s

/-- SWAIT (R337): the first issue holds the stream; each further one is the poll due 64 tc later. -/
def swait (s : State) (t st ch slot mask : Nat) : State :=
  match (s.tile t).srl.swait with
  | some w => if w = (st, ch, slot, mask) then poll s t else s
  | none =>
    issue s t .srl 0x05 (fun w => fld w 51 5 = st && fld w 46 5 = ch && fld w 43 3 = slot && fld w 0 16 = mask) (fun s _ =>
      if s.member.stackCount ≤ st then illegalSlot s t .srl
      else if srlFull s t then s
      else poll (updStream s t .srl (fun x => { x with swait := some (st, ch, slot, mask), swaitFrom := (s.tile t).srlSeq })) t)

/-- A poll's answer (R165, R337): the stream goes on when every unit of the mask reads READY, REFUSED, CANCELLED or
FAULTED. The answer of an earlier SWAIT's poll releases nothing. -/
def pollBack (s : State) (t n : Nat) (data : List Byte) : State :=
  match (s.tile t).srl.swait with
  | some (_, _, _, mask) =>
    if n ≤ (s.tile t).srl.swaitFrom then s else
    let ended := Nat.lor (leNat (data.take 2)) (leNat ((data.drop 4).take 2))
    if Nat.land mask ended = mask then nextEntry (updStream s t .srl (fun x => { x with swait := none })) t .srl 1 else s
  | none => s

/-- A command access of the SRL engine returns (R337). -/
def srlBack (s : State) (t : Nat) : State :=
  match (s.tile t).srlBack with
  | [] => s
  | (tag, data, marks) :: rest =>
    let n := tag / 2 ^ 20
    let what := tag % 2 ^ 20
    let s := s.updTile t (fun k => { k with srlBack := rest, srlOut := k.srlOut.erase n })
    let settled := !(s.tile t).srlOut.contains n
    let s := if settled then s.updTile t (fun k => { k with
        srlMid := k.srlMid.filter (· ≠ n), srdLines := k.srdLines.filter (·.1 ≠ n) }) else s
    let s := if what < forPoll then
        let s := charge s (pgTile t) 4 (data.length / 32)
        s.updTile t (fun k => k.put (runBytes (what * 32) (data.map some) (fun i => marks.getD (i / 32) false)))
      else if what = forPoll then pollBack s t n data
      else s
    let mid := match (s.tile t).srun with | some r => decide (r.last = some n) | none => false
    pump (if mid || !settled then s else sigDone s t .srl n) t

/-- The SRL slot's CFG.LOAD (R364). -/
def execSrlCfgLoad (tile : Nat) (slot : BitVec 3) (line : BitVec 16) (s : State) : Res :=
  onObj (hasTile s tile) s (issue s tile .srl 0x01 (fun w => fld w 48 3 = slot.toNat && fld w 0 16 = line.toNat)
    (fun s _ => cfgLoad s tile .srl slot.toNat line.toNat))

/-- SRUN (R375). -/
def execSrun (tile : Nat) (slot : BitVec 3) (s : State) : Res :=
  onObj (hasTile s tile) s (issue s tile .srl 0x02 (fun w => fld w 48 3 = slot.toNat) (fun s _ => srun s tile slot.toNat))

/-- Whether a slot word carries the operands of SWR or SRD; n counts 0 as 32. -/
def srlFits (stack ch : BitVec 5) (pa : BitVec 9) (n : BitVec 5) (line : BitVec 16) (w : W64) : Bool :=
  fld w 51 5 = stack.toNat && fld w 46 5 = ch.toNat && fld w 37 9 = pa.toNat && fld w 32 5 = n.toNat && fld w 0 16 = line.toNat

/-- SWR (R337). -/
def execSwr (tile : Nat) (stack ch : BitVec 5) (pa : BitVec 9) (n : BitVec 5) (line : BitVec 16) (s : State) : Res :=
  onObj (hasTile s tile) s (issue s tile .srl 0x03 (srlFits stack ch pa n line) (fun s w => swr s tile w))

/-- SRD (R337). -/
def execSrd (tile : Nat) (stack ch : BitVec 5) (pa : BitVec 9) (n : BitVec 5) (line : BitVec 16) (s : State) : Res :=
  onObj (hasTile s tile) s (issue s tile .srl 0x04 (srlFits stack ch pa n line) (fun s w => srd s tile w))

/-- SWAIT (R337). -/
def execSwait (tile : Nat) (stack ch : BitVec 5) (slot : BitVec 3) (mask : BitVec 16) (s : State) : Res :=
  onObj (hasTile s tile) s (swait s tile stack.toNat ch.toNat slot.toNat mask.toNat)

/-- SRL-slot NOP (R334); a slot word of an unlisted operation executes as NOP for 1 tc and is logged (R338). -/
def execSrlSlotNop (tile n : Nat) (s : State) : Res :=
  onObj (hasTile s tile) s (match nextSlot s tile .srl with
    | some w =>
      if slotOp .srl w = 0 then (if fld w 0 8 = n then slotNop s tile .srl n else s)
      else if [1, 2, 3, 4, 5, 0x38, 0x39, 0x3A, 0x3B].contains (slotOp .srl w) then s
      else illegalSlot s tile .srl
    | none => s)

/-- SRL-slot WAIT (R334, R345). -/
def execSrlSlotWait (tile : Nat) (sem : BitVec 5) (k : BitVec 16) (s : State) : Res :=
  onObj (hasTile s tile) s (issue s tile .srl 0x38 (fun w => fld w 0 5 = sem.toNat && fld w 16 16 = k.toNat)
    (fun s _ => slotWait s tile .srl sem.toNat k.toNat))

/-- SRL-slot SIG (R338). -/
def execSrlSlotSig (tile : Nat) (sem : BitVec 5) (v : BitVec 16) (s : State) : Res :=
  onObj (hasTile s tile) s (issue s tile .srl 0x39 (fun w => fld w 0 5 = sem.toNat && fld w 16 16 = v.toNat)
    (fun s _ => slotSig s tile .srl sem.toNat v.toNat))

/-- SRL-slot LOOP (R333). -/
def execSrlSlotLoop (tile : Nat) (count : Word) (s : State) : Res :=
  onObj (hasTile s tile) s (issue s tile .srl 0x3A (fun w => fld w 0 32 = count.toNat) (fun s _ => slotLoop s tile .srl count.toNat))

/-- SRL-slot ENDLOOP (R333). -/
def execSrlSlotEndloop (tile : Nat) (s : State) : Res :=
  onObj (hasTile s tile) s (issue s tile .srl 0x3B (fun _ => true) (fun s _ => slotEndloop s tile .srl))

/-- SRL_ACCESS_COMPLETION (R337). -/
def execSrlAccessCompletion (tile : Nat) (s : State) : Res := onObj (hasTile s tile) s (srlBack s tile)

/-! ## Address stream and semaphore registers -/

/-- The host, and the Uzoid core of the tile's die (R377). -/
def tileWriter (w : Writer) (t : Nat) : Bool := match w with | .host => true | .uzoid d => decide (d = t / 64)

/-- A push of an entry (R377): held iterations look again. -/
def asfPush (s : State) (w : Writer) (t : Nat) (v : W64) : State :=
  if (s.tile t).gated || !tileWriter w t then s
  else if (s.tile t).asf.length < 256 then
    pump (startPass (s.updTile t (fun k => { k with asf := k.asf ++ [v] })) t) t
  else match w with
    | .host => recordErr s (pgLcb t 0) 0x0410 0
    | .uzoid _ => s.updTile t (fun k => { k with asfHeld := k.asfHeld ++ [v] })

/-- ASF_PUSH (R377). -/
def execAsfPush (w : Writer) (tile : Nat) (v : W64) (s : State) : Res := onPage (hasTile s tile) (pgLcb tile 0 + 0xC0) s (if (s.tile tile).gated then s else asfPush s w tile v)

/-- An iteration of the engine lacks stream entries (R378). -/
def asfLacks (k : Tile) (e : Eng) : Bool :=
  match e with
  | .mx => match k.run with
    | some r => !r.started && decide (r.iter < r.total) && decide (k.asf.length < (lStreams r.words).length)
    | none => false
  | .srl => match k.srun with
    | some r => decide (r.iter < r.total) && decide (k.asf.length < (lStreams r.words).length)
    | none => false
  | _ => false

/-- ASF_WAIT (R378, R382). -/
def execAsfWait (tile : Nat) (e : Eng) (s : State) : Res :=
  onObj (hasTile s tile) s (if asfLacks (s.tile tile) e && tileRuns s tile then event s (pgLcb tile 0) 0 else s)

/-- A write of TILE_SEMj (R250, R345). -/
def semWrite (s : State) (t j : Nat) (v : W64) : State := if tileOff s t then s else s.setReg (pgTile t + 0x100 + j * 8) v

/-- SEM_REGISTER_WRITE (R345): semaphores 4j to 4j + 3. -/
def execSemRegisterWrite (_w : Writer) (tile j : Nat) (v : W64) (s : State) : Res :=
  onPage (hasTile s tile && j < 8) (pgTile tile + 0x100 + 8 * j) s (if (s.tile tile).gated then s else semWrite s tile j v)

end Sys2Proof.Machine
end

