-- ==== Sys2Proof/Machine/Seqs.lean ====
section
/-! DEFINITION. The die sequencers: fetch, delivery, the CTL operations, cut points, instruction memories (R325 to R362). -/
namespace Sys2Proof.Machine

/-! ## Who fetches and who receives (R325, R327) -/

/-- SEQ_CFG.MODE of a die reads DIE. -/
def dieMode (s : State) (d : Nat) : Bool := getF s (pgSeq d) F.SEQ_CFG_MODE = 1

/-- The dies that the sequencer of a die delivers to: the lead in BROADCAST mode serves every die that is not in DIE mode. -/
def servedDies (s : State) (d : Nat) : List Nat :=
  if dieMode s d then [d]
  else if d = 0 then (List.range s.member.dies).filter (fun e => !dieMode s e)
  else []

/-- The die whose sequencer feeds a die. -/
def feeder (s : State) (d : Nat) : Nat := if dieMode s d then d else 0

/-- The tiles of a die. -/
def dieTiles (d : Nat) : List Nat := (List.range 64).map (d * 64 + ·)

/-- The tiles that the sequencer of a die delivers to. -/
def servedTiles (s : State) (d : Nat) : List Nat := (servedDies s d).flatMap dieTiles

/-- STAT.PHASE as the sequencer moves it: FREEZE and a fence show as HOLD (`phaseRead`). -/
def phase (s : State) (d : Nat) : Nat := getF s (pgSeq d) F.SEQ_STAT_PHASE

/-- PHASE set. -/
def setPhase (s : State) (d p : Nat) : State := setF s (pgSeq d) F.SEQ_STAT_PHASE p

/-- Fetch is held by FREEZE (R356) or by a checkpoint fence (R488). -/
def fetchHeld (s : State) (d : Nat) : Bool := getF s (pgSeq d) F.HDR_CTRL_FREEZE = 1 || (s.seq d).fenceHold

/-- PHASE as it reads. -/
def phaseRead (s : State) (d : Nat) : Nat := if phase s d = 1 && fetchHeld s d then 3 else phase s d

/-- PHASE IDLE or END. -/
def seqIdle (s : State) (d : Nat) : Bool := phase s d = 0 || phase s d = 6

/-- The next fetch address: STAT.PC, or the one beyond its 18 bits, where a bank ends (R357). -/
def seqPc (s : State) (d : Nat) : Nat := getF s (pgSeq d) F.SEQ_STAT_PC + (if (s.seq d).beyond then 2 ^ 18 else 0)
/-- STAT.IN_LIB. -/
def inLib (s : State) (d : Nat) : Bool := getF s (pgSeq d) F.SEQ_STAT_IN_LIB = 1
/-- IMEM_BANK.ACTIVE. -/
def bankOf (s : State) (d : Nat) : Nat := getF s (pgImem d) F.IMEM_BANK_ACTIVE

/-- Place and call depth set. -/
def setPc (s : State) (d pc : Nat) (lib : Bool) : State :=
  let q := pgSeq d
  let s := s.updSeq d (fun x => { x with beyond := decide (2 ^ 18 ≤ pc) })
  setF (setB (setF s q F.SEQ_STAT_PC pc) q F.SEQ_STAT_IN_LIB lib) q F.SEQ_STAT_DEPTH (s.seq d).calls.length

/-! ## Long words (R328) -/

/-- A long word decoded from the bytes at a place, and its length in bytes. -/
def decodeWord (byte : Nat → Byte) (a : Nat) : LongWord × Nat :=
  let h := leNat [byte a, byte (a + 1)]
  let get (off n : Nat) : Nat := leNat ((List.range n).map (fun i => byte (a + off + i)))
  let o1 := 2 + (if bit h 0 then 4 else 0)
  let o2 := o1 + (if bit h 1 then 8 else 0)
  let o3 := o2 + (if bit h 2 then 8 else 0)
  let o4 := o3 + (if bit h 3 then 4 else 0)
  let o5 := o4 + (if bit h 4 then 8 else 0)
  ({ ctl := if bit h 0 then some (BitVec.ofNat 32 (get 2 4)) else none
     mx := if bit h 1 then some (BitVec.ofNat 64 (get o1 8)) else none
     ve := if bit h 2 then some (BitVec.ofNat 64 (get o2 8)) else none
     dma := if bit h 3 then some (BitVec.ofNat 32 (get o3 4)) else none
     srl := if bit h 4 then some (BitVec.ofNat 64 (get o4 8)) else none }, o5)

/-- Operation of a CTL word (R330). -/
def ctlOp (w : Word) : Nat := bits w.toNat 24 8

/-- The entries that a long word makes in an engine's queue (R329, R339, R349): what its CTL slot places comes first. -/
def entriesOf (w : LongWord) (e : Eng) : List Entry :=
  let pre : List Entry := match w.ctl with
    | some c =>
      if ctlOp c = 1 then [.align (Nat.min 64 (bits c.toNat 0 7))]
      else if ctlOp c = 6 && e = .ve then [.call (bits c.toNat 16 8) (bits c.toNat 0 16)]
      else []
    | none => []
  let slot : Option W64 := match e with
    | .mx => w.mx | .ve => w.ve | .dma => w.dma.map (fun x => BitVec.ofNat 64 x.toNat) | .srl => w.srl
  pre ++ (slot.map Entry.slot).toList

/-- The engines. -/
def engines : List Eng := [.mx, .ve, .dma, .srl]

/-- A long word given to the FIFOs of the dies that a sequencer serves (R325). -/
def broadcast (s : State) (d : Nat) (w : LongWord) : State :=
  forEach s (servedDies s d) (fun s e => s.updSeq e (fun x => { x with fifo := x.fifo ++ [w] }))

/-- Every tile of a die has room for a long word's entries (R326, R332). -/
def tilesHaveRoom (s : State) (d : Nat) (w : LongWord) : Bool :=
  (dieTiles d).all (fun t => engines.all (fun e => ((s.tile t).stream e).queue.length + (entriesOf w e).length ≤ 64))

/-- LONG_WORD_DELIVERY (R326): the oldest long word of a die's FIFO reaches its tiles. -/
def deliverWord (s : State) (d : Nat) : State :=
  match (s.seq d).fifo with
  | [] => s
  | w :: rest =>
    if halted s || !tilesHaveRoom s d w then s
    else
      let s := s.updSeq d (fun x => { x with fifo := rest })
      forEach s (dieTiles d) (fun s t => forEach s engines (fun s e =>
        match entriesOf w e with
        | [] => s
        | l => reachEntry (updStream s t e (Stream.push e l)) t e))

/-! ## Fetch -/

/-- Fetching ends (R331): PHASE DRAIN, with an END record. -/
def endFetch (s : State) (d : Nat) : State := setPhase (trace s d 2 0 0 0) d 4

/-- A CALL, RET or SWITCH that ends the fetch (R348). -/
def badCall (s : State) (d : Nat) : State := endFetch (seqErr s d 0x0213 0 0 0) d

/-- The fetch has reached the cut (R354). -/
def atCut (s : State) (d : Nat) : Bool :=
  let q := pgSeq d
  match getF s q F.SEQ_CUT_MODE with
  | 1 => getF s q F.SEQ_WORDS_COUNT = getF s q F.SEQ_CUT_N
  | 2 => (s.seq d).sawMark
  | _ => false

/-- What the SECDED of an instruction memory finds in a long word (R351): `corrected` 8 B words are corrected and counted; an
uncorrectable one is logged in SEQ and IMEM, and bites. -/
def fetchEcc (s : State) (d corrected : Nat) (uncorrectable : Bool) : State :=
  let s := bumpF s (pgImem d) F.IMEM_ECC_CORRECTED corrected
  if uncorrectable then
    let s := bumpF (seqErr s d 0x0215 0 0 0) (pgImem d) F.IMEM_ECC_UNCORRECTABLE
    bite (recordErr s (pgImem d) 0x1611 0) d 0x02 0 0x0215 0
  else s

/-- LONG_WORD_FETCH (R325, R328, R351, R354). DESIGN CHOICE (log 36): an uncorrectable long word is not taken. The library store has
no SECDED of its own. -/
def fetchWord (s : State) (d corrected : Nat) (uncorrectable : Bool) : State :=
  let x := s.seq d
  let q := pgSeq d
  if phase s d ≠ 1 || x.cur.isSome || fetchHeld s d || halted s || (servedDies s d).isEmpty
      || (servedDies s d).any (fun e => 16 ≤ (s.seq e).fifo.length) then s
  else if atCut s d then
    let s := s.updSeq d (fun x => { x with cutting := true })
    let s := event (setB s q F.SEQ_CUT_HIT true) q 2
    setPhase (trace s d 11 0 0 (getF s q F.SEQ_CUT_N)) d 4
  else
    let a := seqPc s d * 2
    let lib := inLib s d
    let size := if lib then 2 ^ 18 else 2 ^ 19
    let base := if lib then 0 else 2 ^ 20 * d + bankOf s d * 2 ^ 19
    let mem := if lib then s.lib else s.imem
    let byte (i : Nat) : Byte := mget mem (base + i)
    let (w, n) := decodeWord byte a
    if size < a + 2 || size < a + n then endFetch (seqErr s d 0x0214 0 0 0) d
    else if uncorrectable && !lib then fetchEcc s d corrected true
    else
      let s := if lib then s else fetchEcc s d corrected false
      let s := bumpF s q F.SEQ_WORDS_COUNT
      let s := setPc s d (seqPc s d + n / 2) lib
      match w.ctl with
      | some _ => s.updSeq d (fun x => { x with cur := some w })
      | none => broadcast s d w

/-! ## CTL operations (R330) -/

/-- The CTL operation of the long word in hand, if the sequencer may perform it: the operation, with the state in which it has
left the sequencer's hand. -/
def ctlDo (s : State) (d op : Nat) (fits : Nat → Bool) (f : State → LongWord → Nat → State) : State :=
  match (s.seq d).cur with
  | some w =>
    match w.ctl with
    | some c =>
      if ctlOp c = op && fits c.toNat && phase s d = 1 && !halted s then
        f (s.updSeq d (fun x => { x with cur := none })) w c.toNat
      else s
    | none => s
  | none => s

/-- The long word without what its CTL slot would place. -/
def plain (w : LongWord) : LongWord := { w with ctl := none }

/-- An unassigned CTL operation acts as CNOP and is logged (R330). -/
def badCtl (s : State) (d : Nat) (w : LongWord) : State := broadcast (seqErr s d 0x0210 0 0 0) d (plain w)

/-- TOKW, TOKS, CALL and RET are unassigned on dies 1 to 7 (R327). -/
def leadOnly (d op : Nat) : Bool := d ≠ 0 && [2, 3, 4, 5].contains op

/-- CNOP, and any unassigned operation (R330). -/
def ctlNop (s : State) (d : Nat) : State :=
  match (s.seq d).cur with
  | some w =>
    match w.ctl with
    | some c =>
      if phase s d = 1 && !halted s && (ctlOp c = 0 || 9 < ctlOp c || leadOnly d (ctlOp c)) then
        let s := s.updSeq d (fun x => { x with cur := none })
        if ctlOp c = 0 then broadcast s d (plain w) else badCtl s d w
      else s
    | none => s
  | none => s

/-- The entries that each engine of each tile has been given, or has on its way, before a moment (R347). -/
def givenBefore (s : State) : List Nat :=
  (List.range s.member.tiles).flatMap (fun t => engines.map (fun e =>
    ((s.tile t).stream e).given + (((s.seq (t / 64)).fifo.map (fun w => (entriesOf w e).length)).sum)))

/-- A tile has drained the entries before a count of each engine (R347). -/
def tileDrained (s : State) (need : List Nat) (t : Nat) : Bool :=
  let k := s.tile t
  engines.all (fun e =>
    let n := need.getD (t * 4 + engNo e) 0
    decide (n ≤ (k.stream e).gone)
      && (pendingWork k e).all (fun w => !k.ords.any (fun o => o.1 = engNo e && o.2.1 = w && decide (o.2.2 < n))))

/-- The oldest TOKS in flight adds its value (R347). -/
def toksLand (s : State) (d : Nat) : State :=
  match (s.seq d).toks with
  | [] => s
  | (c, v, need) :: rest =>
    if !halted s && (List.range s.member.tiles).all (tileDrained s need) then
      syncAdd (s.updSeq d (fun x => { x with toks := rest })) c v
    else s

/-- No load runs into the bank that is not active (R353). -/
def otherBankFree (s : State) (d : Nat) : Bool :=
  match (s.seq d).load with
  | some (_, bank, _, _) => bank = bankOf s d
  | none => true

/-- A SWITCH goes on once no load runs into the other bank (R353). -/
def trySwitch (s : State) (d : Nat) : State :=
  match (s.seq d).switchTo with
  | some entry =>
    if otherBankFree s d && !halted s then
      let s := s.updSeq d (fun x => { x with switchTo := none })
      let b := 1 - bankOf s d
      let s := setF (setF s (pgImem d) F.IMEM_BANK_ACTIVE b) (pgSeq d) F.SEQ_STAT_BANK b
      let s := event (trace s d 10 0 0 entry) (pgImem d) 2
      setPhase (setPc s d entry false) d 1
    else s
  | none => s

/-- No engine of the tiles that a sequencer serves holds an entry or waits (R331). -/
def startAllowed (s : State) (d : Nat) : Bool :=
  (d = 0 || dieMode s d) && seqIdle s d
    && (servedTiles s d).all (fun t => engines.all (fun e =>
      let x := (s.tile t).stream e
      x.buf.isEmpty && x.wait.isNone && x.swait.isNone))

/-- A write of SEQ_RUN.START (R331). -/
def seqStart (s : State) (d : Nat) : State :=
  let q := pgSeq d
  if !startAllowed s d then seqErr s d 0x0205 (q + 0x80) 0 0
  else
    let entry := getF s q F.SEQ_ENTRY_ADDR
    let s := s.updSeq d (fun x => { x with cur := none, calls := [], tokw := none, switchTo := none, cutting := false, sawMark := false })
    let s := setPc (setF s q F.SEQ_WORDS_COUNT 0) d entry false
    let s := setF s q F.SEQ_STAT_BANK (bankOf s d)
    let s := trace (event (setPhase s d 1) q 0) d 1 0 0 entry
    if d = 0 then planStart s else s

/-- A write of SEQ_RUN.STOP (R356): fetching ends. A long word whose CTL operation is not performed yet, or that a TOKW
holds, is not delivered. -/
def seqStop (s : State) (d : Nat) : State :=
  if 1 ≤ phase s d && phase s d ≤ 3 then
    endFetch (s.updSeq d (fun x => { x with cur := none, tokw := none, switchTo := none })) d
  else s

/-- The buffer of each engine holds PRIME entries behind its align entry, or the lead holds its fetch (R339). -/
def alignReady (s : State) (t : Nat) : Bool :=
  let p := phase s (feeder s (t / 64))
  let lead := p = 2 || p = 4 || p = 5 || p = 6 || (p = 3 && (s.seq (feeder s (t / 64))).switchTo.isSome)
  engines.all (fun e =>
    let x := (s.tile t).stream e
    x.atAlign && !x.stopped && (lead || (match x.buf[x.pc]? with
      | some (.align n) => decide (x.pc + 1 + n ≤ x.buf.length)
      | _ => false)))

/-- A WAIT of an engine is satisfied: it goes on 1 tc later (R345). -/
def waitOver (s : State) (t : Nat) (x : Stream) : Bool :=
  match x.wait with
  | some (sem, k) => tileRuns s t && decide (k ≤ semVal s t sem)
  | none => false

/-- SEQ_QUIET.TC tc may have passed since an engine's last issue (R331): the tile clock runs at 1.4 GHz at most. -/
def quiet (s : State) (d : Nat) (x : Stream) : Bool :=
  decide (Nat.max 1 (getF s (pgSeq d) F.SEQ_QUIET_TC) ≤ 1400 * (s.us - x.us + 1))

/-- A tile is drained (R331): no engine has an instruction that it could issue, and none has issued for SEQ_QUIET.TC tc; MX_BUSY,
DMA_BUSY and SRL_BUSY read 0. -/
def drainedTile (s : State) (t : Nat) : Bool :=
  let k := s.tile t
  !k.mxBusy && k.srlOut.isEmpty && k.ves.routine.isNone && (nextCall s t).isNone
    && (List.range 4).all (fun c => chSt s t c = 0)
    && !(tileRuns s t && alignReady s t)
    && engines.all (fun e => (nextSlot s t e).isNone && !waitOver s t (k.stream e) && quiet s (feeder s (t / 64)) (k.stream e))

/-- Every tile that a sequencer serves is drained, with nothing on its way to one. -/
def allDrained (s : State) (d : Nat) : Bool :=
  (servedDies s d).all (fun e => (s.seq e).fifo.isEmpty) && (servedTiles s d).all (drainedTile s)

/-- The engines of a tile count the quiet tc (R331, R340). -/
def Tile.rest (k : Tile) (n : Nat) : Tile :=
  engines.foldl (fun (k : Tile) e => k.updStream e (fun x => { x with clk := x.clk + n })) k

/-- A drained sequencer: a cut has been reached, or END (R331, R354). -/
def seqRests (s : State) (d : Nat) : State :=
  let q := pgSeq d
  if (s.seq d).cutting then event (setPhase s d 5) q 3
  else
    let s := event (setPhase s d 6) q 1
    if d = 0 then planMark s (fun p => !p.endByMark) else s

/-- The tiles have drained after END or a cut (R331, R354). -/
def seqDrained (s : State) (d : Nat) : State :=
  if phase s d ≠ 4 || halted s || !allDrained s d then s
  else
    let n := Nat.max 1 (getF s (pgSeq d) F.SEQ_QUIET_TC)
    seqRests (forEach s (servedTiles s d) (fun s t => s.updTile t (·.rest n))) d

/-! ## Commands of the sequencers -/

/-- SEQ_START (R331). -/
def execSeqStart (_w : Writer) (die : Nat) (v : W64) (s : State) : Res :=
  onPage (hasDie s die) (pgSeq die + 0x80) s (if bitOf v 0 then seqStart s die else s)

/-- SEQ_STOP (R356). -/
def execSeqStop (_w : Writer) (die : Nat) (v : W64) (s : State) : Res :=
  onPage (hasDie s die) (pgSeq die + 0x80) s (if bitOf v 1 then seqStop s die else s)

/-- LONG_WORD_FETCH (R325). -/
def execLongWordFetch (die corrected : Nat) (uncorrectable : Bool) (s : State) : Res :=
  onObj (hasDie s die) s (fetchWord s die corrected uncorrectable)

/-- LONG_WORD_DELIVERY (R326). -/
def execLongWordDelivery (die : Nat) (s : State) : Res := onObj (hasDie s die) s (deliverWord s die)

/-- CNOP (R330). -/
def execCnop (die : Nat) (s : State) : Res := onObj (hasDie s die) s (ctlNop s die)

/-- ALIGN (R339). -/
def execAlign (die : Nat) (prime : BitVec 7) (s : State) : Res :=
  onObj (hasDie s die) s (ctlDo s die 1 (fun c => bits c 0 7 = prime.toNat) (fun s w _ => broadcast s die w))

/-- ALIGN_RELEASE (R339): the four engines of a tile go on in the same tc. -/
def execAlignRelease (tile : Nat) (s : State) : Res :=
  onObj (hasTile s tile) s
    (if tileRuns s tile && alignReady s tile then
      forEach s engines (fun s e => nextEntry (updStream s tile e (fun x => { x with atAlign := false })) tile e 0)
    else s)

/-- TOKW (R346): fetch and the delivery of its word's slots hold. -/
def execTokw (die : Nat) (counter k : BitVec 12) (s : State) : Res :=
  onObj (hasDie s die) s (if leadOnly die 2 then s else
    ctlDo s die 2 (fun c => bits c 12 12 = counter.toNat && bits c 0 12 = k.toNat) (fun s w _ =>
      let s := s.updSeq die (fun x => { x with cur := some w, tokw := some (counter.toNat, k.toNat) })
      setPhase (trace s die 4 0 0 (2 ^ 32 * counter.toNat + k.toNat)) die 2))

/-- TOKW_RELEASE (R346). -/
def execTokwRelease (die : Nat) (s : State) : Res :=
  onObj (hasDie s die) s (match (s.seq die).tokw, (s.seq die).cur with
    | some (c, k), some w =>
      if k ≤ syncVal s c && !halted s then
        let s := s.updSeq die (fun x => { x with cur := none, tokw := none })
        broadcast (setPhase (trace s die 5 0 0 (2 ^ 32 * c + k)) die 1) die (plain w)
      else s
    | _, _ => s)

/-- TOKS (R347). -/
def execToks (die : Nat) (counter v : BitVec 12) (s : State) : Res :=
  onObj (hasDie s die) s (if leadOnly die 3 then s else
    ctlDo s die 3 (fun c => bits c 12 12 = counter.toNat && bits c 0 12 = v.toNat) (fun s w _ =>
      let need := givenBefore s
      let s := s.updSeq die (fun x => { x with toks := x.toks ++ [(counter.toNat, v.toNat, need)] })
      broadcast (trace s die 6 0 0 (2 ^ 32 * counter.toNat + v.toNat)) die (plain w)))

/-- TOKS_ADD (R347). -/
def execToksAdd (die : Nat) (s : State) : Res := onObj (hasDie s die) s (toksLand s die)

/-- CALL (R348). -/
def execCall (die : Nat) (routine : BitVec 8) (s : State) : Res :=
  onObj (hasDie s die) s (if leadOnly die 4 then s else
    ctlDo s die 4 (fun c => bits c 0 8 = routine.toNat) (fun s w _ =>
      let s := broadcast s die (plain w)
      let n := routine.toNat
      if getF s pgLib F.LIB_ENTRY_VALID n = 0 || 4 ≤ (s.seq die).calls.length then badCall s die
      else
        let s := bumpF (trace s die 7 0 0 n) pgLib F.LIB_CALLS_CALL
        let s := s.updSeq die (fun x => { x with calls := (seqPc s die, inLib s die) :: x.calls })
        setPc s die (getF s pgLib F.LIB_ENTRY_OFFSET n) true))

/-- RET (R348). -/
def execRet (die : Nat) (s : State) : Res :=
  onObj (hasDie s die) s (if leadOnly die 5 then s else
    ctlDo s die 5 (fun _ => true) (fun s w _ =>
      let s := broadcast s die (plain w)
      match (s.seq die).calls with
      | [] => badCall s die
      | (pc, lib) :: rest => setPc (trace (s.updSeq die (fun x => { x with calls := rest })) die 8 0 0 pc) die pc lib))

/-- ECALL (R349). -/
def execEcall (die : Nat) (routine : BitVec 8) (argLine : BitVec 16) (s : State) : Res :=
  onObj (hasDie s die) s
    (ctlDo s die 6 (fun c => bits c 16 8 = routine.toNat && bits c 0 16 = argLine.toNat) (fun s w _ =>
      if 1 ≤ routine.toNat && routine.toNat ≤ 3 then
        broadcast (bumpF (trace s die 9 0 0 (2 ^ 16 * routine.toNat + argLine.toNat)) pgLib F.LIB_CALLS_ECALL) die w
      else broadcast (seqErr s die 0x0216 0 0 0) die (plain w)))

/-- MARK (R330, R354, R471). -/
def execMark (die : Nat) (marker : BitVec 16) (s : State) : Res :=
  onObj (hasDie s die) s
    (ctlDo s die 7 (fun c => bits c 0 16 = marker.toNat) (fun s w _ =>
      let q := pgSeq die
      let s := trace s die 3 0 0 marker.toNat
      let s := if getF s q F.SEQ_CUT_MODE = 2 && getF s q F.SEQ_CUT_MARKER = marker.toNat then
          s.updSeq die (fun x => { x with sawMark := true }) else s
      let s := if die = 0 then planMark s (fun p => p.endByMark && p.endMarker = marker.toNat) else s
      broadcast s die (plain w)))

/-- SWITCH (R353). -/
def execSwitch (die : Nat) (entry : BitVec 18) (s : State) : Res :=
  onObj (hasDie s die) s
    (ctlDo s die 8 (fun c => bits c 0 18 = entry.toNat) (fun s w _ =>
      let s := broadcast s die (plain w)
      if inLib s die then badCall s die
      else trySwitch (setPhase (s.updSeq die (fun x => { x with switchTo := some entry.toNat })) die 3) die))

/-- SEQ_END (R331): the CTL operation END. -/
def execSeqEnd (die : Nat) (s : State) : Res :=
  onObj (hasDie s die) s (ctlDo s die 9 (fun _ => true) (fun s w _ => endFetch (broadcast s die (plain w)) die))

/-- SEQ_DRAINED (R331, R354). -/
def execSeqDrained (die : Nat) (s : State) : Res := onObj (hasDie s die) s (seqDrained s die)

/-! ## Instruction memories (R351 to R353) -/

/-- The active bank is being fetched (R351). A die that takes the broadcast fetches nothing (R352). -/
def fetching (s : State) (d : Nat) : Bool := !seqIdle s d

/-- A load refused. -/
def loadRefused (s : State) (d code : Nat) : State :=
  let p := pgImem d
  refusal (event (setF s p F.IMEM_LOADSTAT_CODE code) p 1) p

/-- A write of IMEM_LOADGO.GO (R352). -/
def imemLoad (s : State) (d : Nat) : State :=
  let p := pgImem d
  let src := getF s p F.IMEM_LOADSRC_PA
  let off := getF s p F.IMEM_LOADDST_OFFSET
  let len := getF s p F.IMEM_LOADDST_LEN
  let bank := getF s p F.IMEM_LOADDST_BANK
  let bad (i : Nat) : Bool := !backed s.member (src + i * 64) || inHole s (src + i * 64)
  if bank = bankOf s d && fetching s d then loadRefused s d 0x1640
  else if src % 64 ≠ 0 || off % 64 ≠ 0 || len % 64 ≠ 0 || len = 0 || 2 ^ 19 < off + len || (List.range (len / 64)).any bad then
    loadRefused s d 0x1641
  else if (s.seq d).load.isSome then loadRefused s d 0x1642
  else
    let s := setF (setB (setB s p F.IMEM_LOADSTAT_DONE false) p F.IMEM_LOADSTAT_BUSY true) p F.IMEM_LOADSTAT_CODE 0
    (ctlFetch (s.updSeq d (fun x => { x with load := some (src, bank, off, len) })) (64 + d) (0x3000 + d) src len).2

/-- A load completes (R352), once its bytes are fetched: its bytes, its CRC; poison in the source bites. -/
def loadDone (s : State) (d : Nat) : State :=
  let p := pgImem d
  match (s.seq d).load with
  | none => s
  | some (src, bank, off, len) =>
  match ctlFetch s (64 + d) (0x3000 + d) src len with
  | (none, s) => s
  | (some (l, pz), s) =>
    let s := dropFetch s (64 + d)
    let s := setB (s.updSeq d (fun x => { x with load := none })) p F.IMEM_LOADSTAT_BUSY false
    if pz then bite (recordErr (setB s p F.IMEM_LOADSTAT_DONE true) p 0x1610 0) d 0x16 0 0x1610 0
    else
      let s := { s with imem := mwrite s.imem (2 ^ 20 * d + 2 ^ 19 * bank + off) l }
      let s := setF (setB s p F.IMEM_LOADSTAT_DONE true) p F.IMEM_LOADSTAT_CRC (crc32 l)
      trySwitch (event s p 0) d

/-- A write of IMEM_BANK.ACTIVE (R353). -/
def bankWrite (s : State) (d : Nat) (v : W64) : State :=
  let p := pgImem d
  if !seqIdle s d then recordErr s p 0x1605 (p + 0x80)
  else setF (setB s p F.IMEM_BANK_ACTIVE (bitOf v 0)) (pgSeq d) F.SEQ_STAT_BANK (b2n (bitOf v 0))

/-- IMEM_LOAD (R352). -/
def execImemLoad (_w : Writer) (die : Nat) (v : W64) (s : State) : Res :=
  onPage (hasDie s die) (pgImem die + 0x98) s (if bitOf v 0 then imemLoad s die else s)

/-- LOAD_DONE (R352). -/
def execLoadDone (die : Nat) (s : State) : Res := onObj (hasDie s die) s (loadDone s die)

/-- BANK_ACTIVE_WRITE (R353). -/
def execBankActiveWrite (_w : Writer) (die : Nat) (v : W64) (s : State) : Res := onPage (hasDie s die) (pgImem die + 0x80) s (bankWrite s die v)

end Sys2Proof.Machine
end

