-- ==== Sys2Proof/Machine/Ledger.lean ====
section
/-! DEFINITION. The energy ledger (R456 to R464, R476, R478): the account, classes and the ceiling, tightening, calibration, and the
temperature samples that drive it (R90 to R92). -/
namespace Sys2Proof.Machine

/-- LEDG_CLASS.CLASS. -/
def classNow (s : State) : Nat := getF s pgLedg F.LEDG_CLASS_CLASS

/-- Depth of the account in µJ (R461). -/
def depthNow (s : State) : Nat := classDepth s.member (classNow s)

/-- The balance B in µJ (R461). -/
def balance (s : State) : Int := sgn 64 (getF s pgLedg F.LEDG_BALANCE)

/-- The balance set. -/
def setBalance (s : State) (b : Int) : State := setF s pgLedg F.LEDG_BALANCE (unsgn 64 b)

/-- Hard throttling acts (R463). -/
def hardNow (s : State) : Bool := getF s pgLedg F.LEDG_TIGHT_HARD = 1

/-- The ledger's cap and floor written to a stack's SRL registers (R463). -/
def applyLimits (s : State) (st : Nat) : State :=
  let t := s.ledger.tight.contains st
  let g := pgSrl s.member st 0
  let s := setF s g F.SRL_ACT_MAX_LEDGER_CAP (if hardNow s || t then 16 else 64)
  setF s g F.SRL_COL_GAP_LEDGER_FLOOR (if hardNow s then 4 else if t then 2 else 1)

/-- The limits of every stack written. -/
def applyAll (s : State) : State := forEach s (List.range s.member.stackCount) applyLimits

/-- TDIV of every die (R457, R463). -/
def setTdiv (s : State) (n : Nat) : State :=
  let s := setF s pgLedg F.LEDG_TIGHT_TDIV_MAX n
  forEach s (List.range s.member.dies) (fun s d =>
    if getF s (pgPwr d) F.PWR_TDIV_IN_FORCE = n then s else event (setF s (pgPwr d) F.PWR_TDIV_IN_FORCE n) (pgPwr d) 1)

/-- TIGHT.ANNOUNCED and TIGHTPEND as they stand. -/
def showPending (s : State) : State :=
  let s := setF s pgLedg F.LEDG_TIGHTPEND_STACKS ((s.ledger.announceCap.map (fun p => 2 ^ p.1)).sum)
  setB s pgLedg F.LEDG_TIGHT_ANNOUNCED (!s.ledger.announceCap.isEmpty || getF s pgLedg F.LEDG_CLASS_PEND_VALID = 1)

/-- A class change takes effect (R462): the balance is clipped to the new depth. -/
def setClass (s : State) (c : Nat) : State :=
  let s := setB s pgLedg F.LEDG_CLASS_PEND_VALID false
  let s := setF s pgLedg F.LEDG_CLASS_PENDING 0
  if c = classNow s then showPending s
  else
    let s := event (setF s pgLedg F.LEDG_CLASS_CLASS c) pgLedg 4
    showPending (setBalance s (Min.min (balance s) (depthNow s)))

/-- A class change at once, or held while a plan is armed or runs (R462, R463). -/
def changeClass (s : State) (c : Nat) : State :=
  if s.armed.isNone && s.running.isNone then setClass s c
  else
    let s := setB (setF s pgLedg F.LEDG_CLASS_PENDING c) pgLedg F.LEDG_CLASS_PEND_VALID true
    event (showPending s) pgLedg 2

/-- A write of LEDG_CLASS (R462). -/
def classWrite (s : State) (v : W64) : State :=
  let c := fld v 0 2
  if fld (bwVal s (pgLedg + 0x88)) 0 2 < c then recordErr s pgLedg 0x0F10 0 else changeClass s c

/-- A committed ceiling lowers a class above it, held ones too (R462). -/
def ceilingCommitted (s : State) (c : Nat) : State :=
  let p := getF s pgLedg F.LEDG_CLASS_PEND_VALID = 1
  if p && c < getF s pgLedg F.LEDG_CLASS_PENDING then setF s pgLedg F.LEDG_CLASS_PENDING c
  else if !p && c < classNow s then changeClass s c
  else s

/-- Announced cap changes take effect (R463). -/
def applyCaps (s : State) : State :=
  if s.ledger.announceCap.isEmpty then s
  else
    let t := s.ledger.announceCap.foldl (fun l p => setPut l p.1 p.2) s.ledger.tight
    let s := { s with ledger := { s.ledger with tight := t, announceCap := [] } }
    event (showPending (applyAll s)) pgLedg 3

/-- A cap change of a stack announced (R463). -/
def announce (s : State) (st : Nat) (on : Bool) : State :=
  let l := s.ledger
  let s := { s with ledger := { l with announceCap := l.announceCap.filter (fun p => p.1 ≠ st) ++ [(st, on)] } }
  let s := event (showPending s) pgLedg 2
  if s.running.isNone then applyCaps s else s

/-- What the end of a running or armed plan lets take effect (R462, R463). -/
def settleLedger (s : State) : State :=
  let s := if s.running.isNone then applyCaps s else s
  if s.running.isNone && s.armed.isNone && getF s pgLedg F.LEDG_CLASS_PEND_VALID = 1 then
    setClass s (getF s pgLedg F.LEDG_CLASS_PENDING)
  else s

/-- Hard throttling begins or ends (R463). -/
def hardRules (s : State) : State :=
  let b := balance s
  if !hardNow s && b ≤ 0 then
    let s := event (setB s pgLedg F.LEDG_TIGHT_HARD true) pgLedg 0
    applyAll (setTdiv (bumpF s pgLedg F.LEDG_COUNT_HARD_EVENTS) 4)
  else if hardNow s && (depthNow s * getF s pgLedg F.LEDG_THRESH_RECOVER_PCT : Nat) ≤ b * 100 then
    let s := event (setB s pgLedg F.LEDG_TIGHT_HARD false) pgLedg 1
    applyAll (setTdiv s 0)
  else s

/-- Static energy of a microsecond (R458, R459). -/
def staticEnergy (s : State) : State :=
  let s := forEach s (List.range s.member.dies) (fun s d => addEnergy s (pgPwr d) 0 (Config.dieEnergy s.us d))
  forEach s (List.range s.member.stackCount) (fun s st =>
    if (s.stack st).trained && srState s st = 0 then charge s (pgStk s.member st) 15 1 else s)

/-- LEDG_BASE (R476): PKG_W over each whole ms; W every 100 ms, a value the manual does not let the model compute. -/
def baseReport (s : State) : State :=
  if s.us % 1000 ≠ 0 then s
  else
    let s := setF s pgLedg F.LEDG_BASE_PKG_W (Nat.min (s.ledger.msFj / 10 ^ 12) 65535)
    let s := { s with ledger := { s.ledger with msFj := 0 } }
    if s.us % 100000 ≠ 0 then s else let (w, s) := s.draw; setF s pgLedg F.LEDG_BASE_W w.toNat

/-- The plan clock (R471): it pauses while die 0's sequencer reads PHASE TOKW or HOLD. -/
def planClock (s : State) : State :=
  if s.running.isSome && phaseRead s 0 ≠ 2 && phaseRead s 0 ≠ 3 then bumpF s pgPlan F.PLAN_CLOCK_NS 1000 else s

/-- A stack that leaves self-refresh turns from EXITING to CLEARING (R97 step 2). DESIGN CHOICE: at the second tick after its EXIT,
between 1 and 2 µs of the 0.4 to 10 µs that R98 gives. -/
def clearing (s : State) (st : Nat) : State :=
  if srState s st = 3 && 2 ≤ elapsed s (s.stack st).heldUs then setF s (pgStk s.member st) F.STK_SRCTL_SR_STATE 4 else s

/-- A microsecond of the account (R461, R463). -/
def tick (s : State) : State :=
  let s := planClock { s with us := s.us + 1 }
  let s := forEach s (List.range s.member.stackCount) clearing
  let s := staticEnergy s
  let l := s.ledger
  let e := l.restFj + l.tickFj
  let s := { s with ledger := { l with tickFj := 0, restFj := e % 10 ^ 9, msFj := l.msFj + l.tickFj } }
  let b := balance s + classW s.member (classNow s) - (e / 10 ^ 9 : Nat)
  let s := setBalance s (Min.min (depthNow s : Int) b)
  let s := if hardNow s then bumpF s pgLedg F.LEDG_COUNT_THROTTLE_US else s
  baseReport (hardRules s)

/-- Rails of a die: core, I/O, and its stacks (R460). -/
def rails (m : Member) (d : Nat) : Nat := 2 + (m.dieStacks d).length

/-- A regulator report of a rail over a millisecond (R460). -/
def railReport (s : State) (d r mA mV : Nat) : State :=
  { s with ledger := { s.ledger with railMeas := tupd 0 s.ledger.railMeas (d * 8 + r) (· + mA * mV * 10 ^ 6) } }

/-- The scale after a comparison (R460), within 0.9 to 1.1 of the old one. -/
def newScale (scale meas est : Nat) : Nat :=
  if est = 0 then scale
  else if meas * 10 < est * 9 then scale * 9 / 10
  else if est * 11 < meas * 10 then scale * 11 / 10
  else scale * meas / est

/-- The calibration of a rail over 10 ms (R460). -/
def calibrateRail (s : State) (d r : Nat) : State :=
  let p := pgPwr d
  let k := d * 8 + r
  let meas := tget 0 s.ledger.railMeas k
  let est := tget 0 s.ledger.railEst k
  let s := setF s p F.PWR_RAIL_MEASURED_W (Nat.min (meas / 10 ^ 13) 65535) r
  let s := setF s p F.PWR_RAIL_ESTIMATED_W (Nat.min (est / 10 ^ 13) 65535) r
  let s := setF s p F.PWR_RAIL_SCALE (Nat.min (newScale (getF s p F.PWR_RAIL_SCALE r) meas est) 65535) r
  let off := decide (meas * 10 < est * 9 ∨ est * 11 < meas * 10)
  let n := if off then tget 0 s.ledger.drift k + 1 else 0
  let l := s.ledger
  let s := { s with ledger := { l with
    railMeas := tset 0 l.railMeas k 0, railEst := tset 0 l.railEst k 0, drift := tset 0 l.drift k (if n = 3 then 0 else n) } }
  if n = 3 then bumpF (event (recordErr s p 0x1510 r) p 0) p F.PWR_CALSTAT_DRIFTS else s

/-- A calibration of a die (R460). -/
def calibrate (s : State) (d : Nat) : State :=
  bumpF (forEach s (List.range (rails s.member d)) (fun s r => calibrateRail s d r)) (pgPwr d) F.PWR_CALSTAT_CALS

/-! ## Temperature (R90 to R92) -/

/-- The stack leaves the cool rate (R91, R176, R474). -/
def goHot (s : State) (st : Nat) : State :=
  let s := coolLost (setRate s st true) st
  forEach s ((List.range 512).map (st * 512 + ·)) (fun s i =>
    match (s.unit i).run with
    | some r => if r.cool then signalCause s i 1 else s
    | none => s)

/-- A sample of a stack's 17 sensors, core dies 0 to 15 and the base die, in units of 0.125 °C (R90 to R92, R102). -/
def sample (s : State) (st : Nat) (l : List Nat) : State :=
  let k := pgStk s.member st
  let cur := Nat.min (l.foldl Nat.max 0) 4095
  let was := getF s k F.STK_TEMP_CUR
  let trip := getF s k F.STK_TEMPCFG_TRIP
  let warn := getF s k F.STK_TEMPCFG_WARN
  let s := setF (setF s k F.STK_TEMP_CUR cur) k F.STK_TEMP_HOTTEST (l.idxOf (l.foldl Nat.max 0))
  let s := maxF s k F.STK_TEMP_PEAK cur
  let s := s.updStack st (fun x => { x with coolRun := decide (cur ≤ 640), warnRun := decide (cur + 40 ≤ warn) })
  let s := if 664 ≤ cur && !stackHot s st then goHot s st else s
  let s := if warn ≤ cur && (s.stack st).warnArmed then
      let s := event (s.updStack st (fun x => { x with warnArmed := false })) k 0
      announce ((cxlEvent s 1 st false).pldm 1) st true
    else s
  if trip ≤ cur && was < trip then
    let tag := cur + getF s k F.STK_TEMP_HOTTEST * 2 ^ 12
    let s := event (recordErr s k 0x0713 tag) k 5
    raiseCause (s.pldm 2) ⟨6, s.member.stackDie st, 0x07, s.member.localStack st, 0x0713, tag⟩
  else s

/-- The warning is re-armed and its tightening released (R92, R463). -/
def rearm (s : State) (st : Nat) : State :=
  if (s.stack st).warnArmed || !(s.stack st).warnRun then s
  else announce (s.updStack st (fun x => { x with warnArmed := true })) st false

/-! ## The commands -/

/-- TEMP_SAMPLE (R90). -/
def execTempSample (stack : Nat) (readings : List Nat) (s : State) : Res :=
  onObj (hasStack s stack && readings.length = 17) s (sample s stack readings)

/-- WARN_REARM (R92): the stack has read WARN − 5.0 °C or less for 1 s. -/
def execWarnRearm (stack : Nat) (s : State) : Res := onObj (hasStack s stack) s (rearm s stack)

/-- RAIL_REPORT (R460). -/
def execRailReport (die rail mA mV : Nat) (s : State) : Res :=
  onObj (hasDie s die && rail < rails s.member die) s (railReport s die rail mA mV)

/-- CALIBRATION (R460). -/
def execCalibration (die : Nat) (s : State) : Res := onObj (hasDie s die) s (calibrate s die)

/-- LEDG_CLASS_WRITE (R462). -/
def execLedgClassWrite (_w : Writer) (v : W64) (s : State) : Res := .next (classWrite s v)

/-- LEDG_CEILING (R462, R508): the setting's own value is checked by nothing but the rules of bounded writes. -/
def ceilingWrite (s : State) (w : Writer) (v : W64) : State :=
  let c : W64 := BitVec.ofNat 64 (fld v 0 2)
  if c = bwVal s (pgLedg + 0x88) then s else bwAccept s w (pgLedg + 0x88) 1 0 0 c [] 0

/-- LEDG_CEILING (R462). -/
def execLedgCeiling (w : Writer) (v : W64) (s : State) : Res := .next (ceilingWrite s w v)

end Sys2Proof.Machine
end

