-- ==== Sys2Proof/Machine/Vylith.lean ====
section
/-! DEFINITION. Vylith ports: the link layer (R408 to R412), routing (R421), packets formed and merged (R418), packets that
arrive (R416 to R420), fences (R426), completions (R430, R431), training (R434, R435). Ports from 16 on are the loopbacks of
the dies (R423). -/
namespace Sys2Proof.Machine

/-! ## Ports -/

/-- The page of a port; a loopback's happenings are recorded on its die's first port. -/
def portPage (s : State) (port : Nat) : Nat :=
  if 16 ≤ port then pgVyl s.member (((s.member.diePorts (port - 16)).head?).getD 0) else pgVyl s.member port

/-- PSTAT.STATE. -/
def portState (s : State) (port : Nat) : Nat := getF s (pgVyl s.member port) F.VYL_PSTAT_STATE

/-- The port reads UP8 or UP4 (R434). -/
def portUp (s : State) (port : Nat) : Bool := portState s port = 2 || portState s port = 3

/-- The lanes that the port's width uses. -/
def lanesOf (s : State) (port : Nat) : Nat :=
  if portState s port = 3 then (if (s.port port).half = 2 then 0xF0 else 0x0F) else 0xFF

/-- A lane of the port has lost lock, so that it carries nothing (R434). -/
def portStopped (s : State) (port : Nat) : Bool :=
  let l := lanesOf s port
  Nat.land l (getF s (pgVyl s.member port) F.VYL_PSTAT_LANES_LOCKED) ≠ l

/-- The port carries flits. -/
def portCarries (s : State) (port : Nat) : Bool := portUp s port && !portStopped s port

/-- REPLAY_MAX: 0 is taken as 1 (R436). -/
def replayMax (s : State) (port : Nat) : Nat := Nat.max 1 (getF s (pgVyl s.member port) F.VYL_CFG_REPLAY_MAX)

/-- Replay is exhausted (R411): the port reads FAILED and the part enters FAULTED. -/
def exhausted (s : State) (port : Nat) : State :=
  let g := pgVyl s.member port
  let s := event (setF (recordErr s g 0x0D10 0) g F.VYL_PSTAT_STATE 4) g 1
  raiseCause s ⟨2, s.member.portDie port, 0x0D, port, 0x0D10, 0⟩

/-- A replay begins from the oldest flit not acknowledged (R410). The replay before it, if that flit is still the oldest,
was a failure (R411). -/
def startReplay (s : State) (port : Nat) : State :=
  let x := s.port port
  match x.replay with
  | [] => s
  | from_ :: _ =>
    let g := pgVyl s.member port
    let run := if x.replaying then x.failRun + 1 else x.failRun
    let s := s.updPort port (fun x => { x with failRun := run, replaying := true })
    let s := maxF s g F.VYL_REPLAY_RUN_MAX (min run 15)
    if replayMax s port ≤ run then exhausted s port
    else
      let n := x.replay.length
      let s := event (bumpF s g F.VYL_REPLAY_REPLAYS) g 2
      (charge (bumpF s g F.VYL_TXFLITS n) g 11 n).emit (.flitResend port from_)

/-- An acknowledgement covers flits up to a number (R410); one that covers the oldest clears the run (R411). -/
def ackFlits (s : State) (port ack : Nat) : State :=
  if (s.port port).replay.contains ack then
    s.updPort port (fun x => { x with replay := (x.replay.dropWhile (· ≠ ack)).drop 1, failRun := 0, replaying := false })
  else s

/-- A NAK: the flit after ACK was lost (R410). -/
def nakReceived (s : State) (port ack : Nat) : State := startReplay (ackFlits s port ack) port

/-- The last sequence number that a port has received in order. -/
def lastRx (s : State) (port : Nat) : Nat := ((s.port port).rxSeq + 4095) % 4096

/-- The control field of a flit (R409). -/
structure FlitCtl where
  kind : Nat
  seq : Nat
  ack : Nat
  creditVc : Nat
  credit : Nat
  nak : Bool
  creditClass : Nat
  deriving DecidableEq, Repr

/-- The fields of a control word (R409). -/
def flitCtl (v : Nat) : FlitCtl :=
  ⟨bits v 0 2, bits v 5 12, bits v 17 12, bits v 29 2, bits v 31 6, bit v 37, bits v 38 1⟩

/-- The CRC-32 of IEEE 802.3 is linear: what the wrong bits of a flit's body and control field change in it. DESIGN CHOICE
(log 57): bit 0 of the body is first into the CRC, and CRC bit k is bit 2,088 + k of the codeword. -/
def crcChange (wrong : List Nat) : Nat :=
  (List.range 2088).foldl (fun c i =>
    let d := Nat.xor c (b2n (wrong.contains i))
    if d % 2 = 1 then Nat.xor (d / 2) 0xEDB88320 else d / 2) 0

/-- A codeword as its receiver decodes it (R408): the control word and the symbols corrected; none where it is uncorrectable, a CRC
failure included. -/
def flitDecode (f : FlitRx) : Option (Nat × List Nat) :=
  let wrong := flipBits [] f.flips
  let data := wrong.filter (· < 2120)
  (rsDecode flitField 10 212 data ((wrong.filter (2120 ≤ ·)).map (· - 2120))).bind (fun (d, p) =>
    let left := flipBits data d
    let crc := ((left.filter (2088 ≤ ·)).map (fun b => 2 ^ (b - 2088))).sum
    let ctl := ((left.filter (fun b => 2048 ≤ b && b < 2088)).map (fun b => 2 ^ (b - 2048))).sum
    if left ≠ [] ∧ crcChange left ≠ crc then none
    else some (Nat.xor f.control.toNat ctl, (d.map (· / 10)).eraseDups ++ (p.map (fun b => 212 + b / 10)).eraseDups))

/-- The lane that carries a symbol (R408), at the width that a port trained at. -/
def symbolLane (s : State) (port k : Nat) : Nat :=
  if portState s port = 3 then k % 4 + (if (s.port port).half = 2 then 4 else 0) else k % 8

/-- The fields of a decoded flit acted on: credit, acknowledgement, sequence (R409, R410). -/
def flitTake (s : State) (port : Nat) (f : FlitCtl) : State :=
  let s := s.updPort port (fun x => { x with used := tupd 0 x.used (2 * f.creditVc + f.creditClass) (· - f.credit) })
  let s := if f.nak then nakReceived s port f.ack else ackFlits s port f.ack
  if (f.kind = 1 || f.kind = 2) && f.seq = (s.port port).rxSeq then
    bumpF (s.updPort port (fun x => { x with rxSeq := (x.rxSeq + 1) % 4096, discarding := false })) (pgVyl s.member port) F.VYL_RXFLITS
  else s

/-- A codeword that a port receives (R408 to R410). -/
def flitReceive (s : State) (port : Nat) (f : FlitRx) : State :=
  let g := pgVyl s.member port
  if !portCarries s port then s
  else
    let s := charge s g 12 1
    match flitDecode f with
    | none =>
      let s := bumpF s g F.VYL_FEC_UNCORRECTABLE
      (s.updPort port (fun x => { x with discarding := true })).emit (.flitNak port (lastRx s port))
    | some (ctl, fixed) =>
      let s := forEach s fixed (fun s k =>
        let l := 8 * symbolLane s port k
        s.setReg (g + 0xB8) (withFld (s.reg (g + 0xB8)) l 8 (min 255 (fld (s.reg (g + 0xB8)) l 8 + 1))))
      let s := if fixed.isEmpty then s else bumpF s g F.VYL_FEC_CORRECTED
      flitTake s port (flitCtl ctl)

/-- Margin codes of a millisecond (R412): LANESYM starts anew. -/
def eqReport (s : State) (port : Nat) (codes : W64) : State :=
  let g := pgVyl s.member port
  let s := (s.setReg (g + 0xC0) codes).setReg (g + 0xB8) 0
  if (onesOf 8 (lanesOf s port)).any (fun l => fld codes (8 * l) 8 < getF s g F.VYL_CFG_EQ_MIN) then event s g 3 else s

/-- A lane loses lock (R434). -/
def loseLane (s : State) (port lane : Nat) : State :=
  let g := pgVyl s.member port
  let l := getF s g F.VYL_PSTAT_LANES_LOCKED
  if portUp s port && bit l lane then setF s g F.VYL_PSTAT_LANES_LOCKED (l - 2 ^ lane) else s

/-! ## Routing (R421) -/

/-- Where a packet goes: delivered here, out of a port, or no route (with the port that is not up). -/
inductive Route where
  | self
  | out (port : Nat)
  | none_ (port : Nat)
  deriving DecidableEq, Repr

/-- The table's answer for a source identifier and a destination. -/
def routeOf (s : State) (srcId dest : Nat) : Route :=
  if getF s pgSync F.SYNC_ROUTE_VALID dest = 0 then .none_ 0
  else if getF s pgSync F.SYNC_ROUTE_SELF dest = 1 then .self
  else
    let p := if (srcId + dest) % 2 = 1 then getF s pgSync F.SYNC_ROUTE_PORT_B dest else getF s pgSync F.SYNC_ROUTE_PORT_A dest
    if p < s.member.ports && portUp s p then .out p else .none_ p

/-- A packet without a route is discarded (R421): 0x0D11 on the die that looked it up, and a firmware assertion. -/
def noRoute (s : State) (die dest port : Nat) : State :=
  let own := ((s.member.diePorts die).head?).getD 0
  let tag := dest + port * 2 ^ 8
  fwAssert (recordErr s (pgVyl s.member own) 0x0D11 tag) die 0x0D own 0x0D11 tag

/-! ## Packets formed at the egress (R418) -/

/-- Destination bytes of a WR_ACC payload. -/
def accDst (afmt n : Nat) : Nat := n / afmtBytes afmt * 4

/-- The mark of a payload byte. -/
def byteMark (p : Pkt) (j : Nat) : Bool := p.poison.getD (j / 64) false

/-- Two payloads in one packet: bytes and marks. -/
def joinPayload (a b : Pkt) : Pkt :=
  let n := a.payload.length
  let all := n + b.payload.length
  { a with
    len := a.len + b.len
    payload := a.payload ++ b.payload
    poison := (List.range ((all + 63) / 64)).map (fun u => (List.range 64).any (fun i =>
      let j := u * 64 + i
      decide (j < all) && (if j < n then byteMark a j else byteMark b (j - n)))) }

/-- A request joined to the packet that `k` requests have made, the first of length `len0` (R418): a WR of contiguous
destinations; a WR_ACC of contiguous destinations in one row, or of equal pieces 2,048 B apart. -/
def joinPkt (a b : Pkt) (k len0 : Nat) : Option Pkt :=
  if a.typ ≠ b.typ || a.dest ≠ b.dest || 4096 < a.len + b.len then none
  else match a.typ with
    | 1 => if b.pa = a.pa + a.len then some (joinPayload a b) else none
    | 2 =>
      let d := accDst b.afmt b.len
      if a.afmt ≠ b.afmt then none
      else if a.piece = 0 && b.pa = a.pa + accDst a.afmt a.len && a.pa % 2048 + accDst a.afmt a.len + d ≤ 2048 then some (joinPayload a b)
      else if (k = 1 || a.piece ≠ 0) && b.len = len0 && b.pa = a.pa + 2048 * k && d % 64 = 0 && d / 64 ≤ 32 && d ≠ 0 then
        some { joinPayload a b with piece := d / 64 }
      else none
    | _ => none

/-- A packet formed with the requests queued behind its first: the packet, tag and length of each request, and the rest of the
egress. -/
def gatherPkt (die : Nat) (first : Pkt) (own : Bool) (rest : List (Nat × Pkt)) : Pkt × List (Nat × Nat) × List (Nat × Pkt) :=
  let (p, parts, kept, _) := rest.foldl
    (fun (acc : Pkt × List (Nat × Nat) × List (Nat × Pkt) × Bool) e =>
      let (p, parts, kept, open_) := acc
      if !open_ || e.1 ≠ die || e.2.srcId ≠ first.srcId || e.2.src ≠ first.src then (p, parts, kept ++ [e], open_)
      else match joinPkt p e.2 parts.length first.len with
        | some q => (q, parts ++ [(e.2.tag, e.2.len)], kept, true)
        | none => (p, parts, kept ++ [e], false))
    (first, [(first.tag, first.len)], [], own && decide (first.srcId < 4096))
  (p, parts, kept)

/-- Flits of credit of a VC and class (R413). -/
def creditOf (vc : Nat) : Nat := match vc with | 2 => 512 | 3 => 32 | _ => 256

/-- A packet whole in the transmit buffer goes onto the wire (R409, R410, R413). -/
def wireSend (s : State) (port : Nat) (p : Pkt) : State :=
  let g := pgVyl s.member port
  let n := flitsOf p
  let s := s.updPort port (fun x => { x with
    replay := x.replay ++ (List.range n).map (fun i => (x.txSeq + i) % 4096)
    txSeq := (x.txSeq + n) % 4096
    used := tupd 0 x.used (2 * p.vc + p.cls) (· + n) })
  (charge (bumpF s g F.VYL_TXFLITS n) g 11 n).emit (.packet port p)

/-- The port has credit and replay room for a packet. -/
def wireRoom (s : State) (port : Nat) (p : Pkt) : Bool :=
  let x := s.port port
  decide (tget 0 x.used (2 * p.vc + p.cls) + flitsOf p ≤ creditOf p.vc) && decide (x.replay.length + flitsOf p ≤ 256)

/-- A request that its destination answers (R431). -/
def callsAnswer (typ : Nat) : Bool := typ = 1 || typ = 2 || typ = 3 || typ = 5

/-- The arbiter of a port's egress has isolated a virtual channel (R383, R392). -/
def egressIsolated (s : State) (port vc : Nat) : Bool :=
  let d := s.member.portDie port
  isolated s d (100 + (s.member.diePorts d).idxOf port) vc

/-- PACKET_SEND (R418): the oldest packet of a source, destination and VC, formed with what it merges, leaves by a port or
through the loopback of its die. -/
def packetSend (s : State) (port : Nat) (want : Pkt) : State :=
  let same (e : Nat × Pkt) : Bool := e.2.srcId = want.srcId && e.2.src = want.src && e.2.dest = want.dest && e.2.vc = want.vc
    && (if 32 ≤ e.1 then e.1 = 32 + port else true)
  match s.egress.findIdx? same with
  | none => s
  | some i =>
    match s.egress[i]? with
    | none => s
    | some (die, first) =>
      if halted s && first.vc ≠ 3 then s
      else
        let own := decide (first.src = partNo s)
        let (p, parts, kept) := gatherPkt die first own (s.egress.drop (i + 1))
        let rest := s.egress.take i ++ kept
        let route := if 32 ≤ die then (if portUp s (die - 32) then Route.out (die - 32) else .none_ (die - 32)) else routeOf s p.srcId p.dest
        let keep (s : State) : State := { s with egress := rest }
        let track (s : State) : State :=
          if own && callsAnswer p.typ then { s with outReqs := s.outReqs ++ [⟨p.srcId, p.tag, port, p.typ, s.us, parts⟩] } else s
        match route with
        | .none_ q => if 32 ≤ die then keep s else noRoute (keep s) die p.dest q
        | .self =>
          if port ≠ 16 + die || p ≠ want then s
          else (track (keep s)).updPort port (fun x => { x with loop := x.loop ++ [p] })
        | .out q =>
          let g := pgVyl s.member q
          let p := { p with cls := if getF s g F.VYL_CFG_DATELINE = 1 then 1 else p.cls }
          if q ≠ port || p ≠ want || !portCarries s q || egressIsolated s q p.vc then s
          else if p.poison.any id && getF s g F.VYL_CFG_POISON_FORWARD = 0 then
            bite (recordErr (keep s) g 0x0D15 0) (s.member.portDie q) 0x0D q 0x0D15 0
          else if !wireRoom s q p then s
          else wireSend (track (keep s)) q p

/-! ## Packets that arrive -/

/-- Destination bytes of a WR_ACC, its payload bytes in each piece, and its pieces (R419). -/
def accPieces (p : Pkt) : Nat × Nat × Nat :=
  let e := afmtBytes p.afmt
  if p.piece = 0 then (accDst p.afmt p.len, p.len, 1) else (p.piece * 64, p.piece * 16 * e, p.len / (p.piece * 16 * e))

/-- A WR_ACC keeps R419. -/
def accWellFormed (p : Pkt) : Bool :=
  let (d, b, _) := accPieces p
  p.piece ≤ 32 && p.pa % 4 = 0 && p.len % afmtBytes p.afmt = 0 && p.len % (Nat.max 1 b) = 0 && p.pa % 2048 + d ≤ 2048

/-- A packet that R416 and R419 let a receiver take. -/
def pktWellFormed (p : Pkt) : Bool :=
  !p.reserved && 1 ≤ p.typ && p.typ ≤ 7
    && (if p.typ = 6 then p.vc = 0 || p.vc = 2 else p.vc = vcOf p.typ)
    && (match p.typ with
      | 1 => 1 ≤ p.len && p.len ≤ 4096 && p.payload.length = p.len
      | 2 => 1 ≤ p.len && p.len ≤ 4096 && p.payload.length = p.len && accWellFormed p
      | 3 => 1 ≤ p.len && p.len ≤ 4096
      | 4 => p.len ≤ 4096 && p.payload.length = p.len && p.status ≤ 3
      | 7 => p.payload.length ≤ 192 && 1 ≤ p.mgmtOp && p.mgmtOp ≤ 8
      | _ => true)

/-- A completion for a packet that is not performed. -/
def refuse (s : State) (port : Nat) (p : Pkt) (status : Nat) (data : List Byte) (marks : List Bool) : State :=
  answer s ⟨0, p.src, p.srcId, p.tag, port, p.typ, p.pa, p.len, 0, [], 0⟩ status data marks

/-- A malformed packet is discarded (R416). -/
def malformed (s : State) (port : Nat) (p : Pkt) : State :=
  let s := recordErr s (portPage s port) 0x0D14 (p.typ % 16 + p.src % 64 * 16)
  if callsAnswer p.typ then refuse s port p 2 [] [] else s

/-- An address range that a peer may not use (R420). -/
def outsideOf (s : State) (a n : Nat) : Bool :=
  inSystem a || !backed s.member a || inSystem (a + n - 1) || !backed s.member (a + n - 1)

/-- A WR performed (R417, R420): requests of the port's REQ channel, answered when the last completes. -/
def deliverWr (s : State) (port : Nat) (p : Pkt) : State :=
  if outsideOf s p.pa p.len then refuse s port p 3 [] []
  else
    let marks := (sectorsOf p.pa p.len).map (fun u => (List.range 64).any (fun i =>
      decide (p.pa ≤ u * 64 + i) && decide (u * 64 + i < p.pa + p.len) && byteMark p (u * 64 + i - p.pa)))
    let r := sectorReq (ingressSrc port 0) 0 p.pa (p.payload.map some) marks
    let (id, s) := openIn s port (splitReq 64 r).length p
    arrive s { r with tag := id }

/-- An RD_REQ performed (R420). -/
def deliverRd (s : State) (port : Nat) (p : Pkt) : State :=
  if outsideOf s p.pa p.len then
    refuse s port p 3 (List.replicate p.len 0) (List.replicate ((p.len + 63) / 64) true)
  else
    let r : Req := { src := ingressSrc port 0, pa := p.pa / 64 * 64, nsec := (sectorsOf p.pa p.len).length, write := false, data := [],
                     poison := [], tag := 0, bypass := 0 }
    let (id, s) := openIn s port (splitReq 64 r).length p
    arrive s { r with tag := id }

/-- A WR_ACC performed (R419, R420): one swath for each row it touches. -/
def deliverAcc (s : State) (port : Nat) (p : Pkt) : State :=
  let (d, b, n) := accPieces p
  let places := (List.range n).map (fun k => p.pa + 2048 * k)
  let holes := places.filter (fun a => backed s.member a && !inSystem a && inHole s a)
  let s := forEach s holes (fun s a => logHole s (rowAt a) 8 (ingressSrc port 2) (((sectorsOf a d).map (fun u => 2 ^ (u % 32))).sum))
  if places.any (fun a => outsideOf s a d) || !holes.isEmpty then refuse s port p 3 [] []
  else
    let (id, s) := openIn s port n p
    let e := afmtBytes p.afmt
    forEach s (List.range n) (fun s k =>
      let a := p.pa + 2048 * k
      accArrive s (paStack a) (paCh a) (paBank a) (paRow a)
        { dst := paByte a, afmt := p.afmt, bytes := (p.payload.drop (k * b)).take b, packet := id
          poison := (List.range (b / e)).map (fun i => byteMark p (k * b + i * e)) }
        (ingressSrc port 2))

/-- A SIG performed (R420, R427). -/
def deliverSig (s : State) (port : Nat) (p : Pkt) : State :=
  refuse (bumpF (syncAdd s (p.counter % 4096) p.value) pgSync F.SYNC_SIGCOUNT_SIG_IN) port p 0 [] []

/-- What a FENCE that holds the port waits for, once both headers are in (R426): every REQ and ACC packet in performance. -/
def fenceSnap (s : State) (port : Nat) : State :=
  let x := s.port port
  match x.fence with
  | some k =>
    if x.fenceWait.isNone && x.fenceAcc.contains k then
      let ids := (s.inPkts.filter (·.port = port)).map (·.id)
      s.updPort port (fun x => { x with fenceWait := some ids })
    else s
  | none => s

/-- A FENCE header arrives (R426). -/
def deliverFence (s : State) (port : Nat) (p : Pkt) : State :=
  let k := (p.src, p.srcId, p.fenceNo)
  fenceSnap (s.updPort port (fun x => if p.vc = 2 then { x with fenceAcc := x.fenceAcc ++ [k] } else { x with fence := some k })) port

/-- A completion or read data returned to the source of its request (R321, R420). -/
def completeReq (s : State) (r : OutReq) (p : Pkt) : State :=
  let i := r.srcId % 4096
  if 4096 ≤ r.srcId then s
  else
    let n := (r.parts.map (·.2)).sum
    let data := if p.payload.isEmpty then List.replicate n 0 else p.payload
    let marks := if p.payload.isEmpty then List.replicate ((n + 63) / 64) true else (List.range ((n + 63) / 64)).map (fun u => p.poison.getD u false)
    s.updTile (i / 4) (fun t => t.updCh (i % 4) (fun c =>
      if r.typ = 3 then { c with rback := c.rback ++ [(r.tag, data, marks)] }
      else if r.typ = 5 then c
      else { c with wback := c.wback ++ r.parts.map (·.1) }))

/-- An RD_RSP arrives (R420, R430). -/
def deliverRsp (s : State) (port : Nat) (p : Pkt) : State :=
  let g := portPage s port
  let s := if p.len = 0 && p.status ≠ 0 then
      let tag := p.status % 16 + p.completes % 16 * 16
      let s := setF (bumpF (event (recordErr s g 0x0D12 tag) g 4) g F.VYL_REFUSED_COUNT) g F.VYL_REFUSED_LAST_STATUS p.status
      let inst := if 16 ≤ port then ((s.member.diePorts (port - 16)).head?).getD 0 else port
      if getF s g F.VYL_CFG_NAK_FAULT = 1 then fwAssert s (dieOfPort s port) 0x0D inst 0x0D12 tag else s
    else s
  match s.outReqs.find? (fun r => r.srcId = p.srcId && r.tag = p.tag) with
  | some r => completeReq { s with outReqs := s.outReqs.erase r } r p
  | none => s

/-- A DESC_REQ (R295): the descriptor's words, zeros where it is LOCAL_ONLY or invalid; EXPORTS rises. -/
def deliverDescReq (s : State) (p : Pkt) : State :=
  let w := leNat (p.payload.take 8)
  let h := bits w 0 12
  let d := s.desc h
  let ok := dValid d && dKind d = 0 && !dLocalOnly d
  let s := if ok then updExports s h (· + 1) else s
  let words : List W64 := if ok then (List.range 16).map (fun k => d.getD k 0) else List.replicate 16 0
  toEgress s 0 { blankPkt 7 p.src (partNo s) 0x3000 with
    mgmtOp := 2, tag := p.tag, payload := wordBytes words ++ leBytes 8 w }

/-- A DESC_RSP (R294): the entry of the publishing table is answered. -/
def deliverDescRsp (s : State) (p : Pkt) : State :=
  let l := leWords p.payload
  let n := fld (l.getD 16 0) 16 5
  let t := s.otab n
  if t.state = 1 && t.waiting.contains p.tag && ePart (t.entries.getD p.tag 0) = p.src then
    s.updOtab n (fun t => { t with waiting := t.waiting.filter (· ≠ p.tag), remote := t.remote ++ [(p.tag, l.take 16)] })
  else s

/-- A management packet (R417). -/
def deliverMgmt (s : State) (port : Nat) (p : Pkt) : State :=
  let g := portPage s port
  match p.mgmtOp with
  | 1 => deliverDescReq s p
  | 2 => deliverDescRsp s p
  | 3 => updExports s (bits (leNat (p.payload.take 8)) 0 12) (· - 1)
  | 4 => toEgress s 0 { blankPkt 7 p.src (partNo s) 0x3000 with mgmtOp := 5, tag := p.tag, payload := p.payload }
  | 6 => event s g 5
  | 7 => setB (setF (setF s g F.VYL_PSTAT_PEER_PART p.src) g F.VYL_PSTAT_PEER_PORT (leNat (p.payload.take 1) % 16)) g F.VYL_PSTAT_PEER_VALID true
  | 8 => s.updPort port (fun x => { x with discard := false })
  | _ => s

/-- A packet for this part. -/
def deliver (s : State) (port : Nat) (p : Pkt) : State :=
  match p.typ with
  | 1 => deliverWr s port p
  | 2 => deliverAcc s port p
  | 3 => deliverRd s port p
  | 4 => deliverRsp s port p
  | 5 => deliverSig s port p
  | 6 => deliverFence s port p
  | _ => deliverMgmt s port p

/-- The class of a packet that a part forwards (R414): it stays within a dimension and starts anew in the next; DATELINE acts
as it leaves. -/
def forwardClass (s : State) (inPort outPort cls : Nat) : Nat :=
  if inPort < 16 && s.member.portDim inPort = s.member.portDim outPort then cls else 0

/-- A packet that leaves its ingress buffer: checked, delivered or forwarded (R416, R421). -/
def takePkt (s : State) (port : Nat) (p : Pkt) : State :=
  let s := if port < 16 then s.emit (.credit port p.vc p.cls (flitsOf p)) else s
  if !pktWellFormed p then malformed s port p
  else if p.typ = 7 && 7 ≤ p.mgmtOp then deliver s port p
  else match routeOf s p.srcId p.dest with
    | .self => deliver s port p
    | .none_ q => noRoute s (dieOfPort s port) p.dest q
    | .out q =>
      if 15 ≤ p.hops then malformed s port p
      else toEgress s (dieOfPort s port) { p with hops := p.hops + 1, cls := forwardClass s port q p.cls }

/-- The requests of pieces all find room at their intakes now (R73, R174, R385). -/
def piecesFit (s : State) (l : List Req) : Bool :=
  (l.foldl (fun (o : Option State) r => o.bind (fun s =>
    if (s.chan (paStack r.pa) (paCh r.pa)).blocked.any (awaitsBank s r) then none else tryTake s r)) (some s)).isSome

/-- An ingress can deliver or forward a packet now (R415): what it writes or reads finds room. -/
def pktFits (s : State) (port : Nat) (p : Pkt) : Bool :=
  if !pktWellFormed p || !(p.typ = 1 || p.typ = 3) || routeOf s p.srcId p.dest ≠ .self || outsideOf s p.pa p.len then true
  else
    let r : Req := { src := ingressSrc port 0, pa := p.pa / 64 * 64, nsec := (sectorsOf p.pa p.len).length, write := decide (p.typ = 1),
                     data := [], poison := [], tag := 0, bypass := 0 }
    piecesFit s (splitReq 64 r)

/-- A packet waits in its ingress (R415, R426): behind an earlier one of its virtual channel and class (a FENCE header behind any of
its channel), a REQ packet behind a FENCE, or for room. -/
def pktWaits (s : State) (port : Nat) (before : List Pkt) (p : Pkt) : Bool :=
  before.any (fun q => q.vc = p.vc && (q.cls = p.cls || p.typ = 6 || q.typ = 6))
    || (p.vc = 0 && (s.port port).fence.isSome) || !pktFits s port p

/-- A packet arrives at a port whole, or comes through a loopback (R415, R423, R426, R433): held with its credit in FAULTED, behind a
FENCE, and while it cannot be delivered; discarded until the peer's RESET_NOTE. -/
def arrivePkt (s : State) (port : Nat) (p : Pkt) : State :=
  let x := s.port port
  let here := if 16 ≤ port then x.loop.find? (·.vc = p.vc) = some p else portUp s port
  if !here || (halted s && p.vc ≠ 3) then s
  else
    let s := if 16 ≤ port then s.updPort port (fun x => { x with loop := x.loop.erase p }) else s
    if x.discard && p.vc ≠ 3 then s
    else if pktWaits s port x.held p then s.updPort port (fun x => { x with held := x.held ++ [p] })
    else takePkt s port p

/-- Held packets looked at in the order they came: those that wait no more leave the ingress. Answers what is still held. -/
def heldLoop (port : Nat) : List Pkt → List Pkt → State → State × List Pkt
  | [], kept, s => (s, kept)
  | p :: l, kept, s => if pktWaits s port kept p then heldLoop port l (kept ++ [p]) s else heldLoop port l kept (takePkt s port p)

/-- The held packets of a port that may leave its ingress now (R415, R426); in FAULTED those of MGMT alone (R433). -/
def drainHeld (s : State) (port : Nat) : State :=
  let l := (s.port port).held
  let go (p : Pkt) : Bool := !halted s || p.vc = 3
  let (s, kept) := heldLoop port (l.filter go) [] (s.updPort port (fun x => { x with held := [] }))
  s.updPort port (fun x => { x with held := l.filter (fun p => !go p) ++ kept ++ x.held })

/-- Every ingress and loopback looked at again (R415). -/
def ingressTick (s : State) : State :=
  forEach s (List.range 16 ++ (List.range s.member.dies).map (16 + ·)) (fun s p => if (s.port p).held.isEmpty then s else drainHeld s p)

/-- FENCE_RELEASE (R426). -/
def fenceRelease (s : State) (port : Nat) : State :=
  let x := s.port port
  match x.fence, x.fenceWait with
  | some k, some ids =>
    if !halted s && s.inPkts.all (fun q => !ids.contains q.id) then
      let s := bumpF s pgSync F.SYNC_SIGCOUNT_FENCE_IN
      let s := s.updPort port (fun x => { x with fence := none, fenceWait := none, fenceAcc := x.fenceAcc.erase k })
      drainHeld s port
    else s
  | _, _ => s

/-- A request without its completion within CMP_US (R431). -/
def completionTimeout (s : State) (port srcId tag : Nat) : State :=
  match s.outReqs.find? (fun r => r.port = port && r.srcId = srcId && r.tag = tag
      && getF s pgSync F.SYNC_TIMEOUT_CMP_US ≤ s.us - r.since) with
  | some r =>
    let g := portPage s port
    let inst := if 16 ≤ port then ((s.member.diePorts (port - 16)).head?).getD 0 else port
    let s := event (recordErr { s with outReqs := s.outReqs.erase r } g 0x0D13 srcId) g 6
    fwAssert s (dieOfPort s port) 0x0D inst 0x0D13 srcId
  | none => s

/-! ## Training (R434, R435) -/

/-- A management packet that a die's Uzoid core sends out of one port alone (R417). -/
def linkLocal (s : State) (port op : Nat) (payload : List Byte) : State :=
  toEgress s (32 + port) { blankPkt 7 (getF s (pgVyl s.member port) F.VYL_PSTAT_PEER_PART) (partNo s) (0x3000 + s.member.portDie port) with
    mgmtOp := op, payload := payload }

/-- A port in training; `half` 3 is firmware's own training at eight lanes (R435). -/
def startTraining (s : State) (port half : Nat) : State :=
  setF (s.updPort port (fun x => { x with half := half })) (pgVyl s.member port) F.VYL_PSTAT_STATE 1

/-- A write of VYL_RETRAIN (R434). -/
def retrain (s : State) (port : Nat) (v : W64) : State :=
  let g := pgVyl s.member port
  if !bitOf v 0 then s
  else
    let st := portState s port
    let ph := getF s (pgSeq 0) F.SEQ_STAT_PHASE
    let idle := (List.range s.member.tiles).all (fun t => (List.range 4).all (fun c => getF s (pgDma t) F.DMA_CH_STAT_STATE c = 0))
    if (st = 0 || st = 4) && (ph = 0 || ph = 6) && idle then voidPlan (startTraining s port (getF s g F.VYL_CFG_HALF))
    else recordErr s g 0x0D05 (g + 0x90)

/-- Training completes (R434): `far` is the width the far end was given. The link starts anew and firmware sends IDENT. -/
def retrainDone (s : State) (port far : Nat) : State :=
  let g := pgVyl s.member port
  let h := (s.port port).half
  let wide (x : Nat) : Bool := x = 0 || x = 3
  if portState s port ≠ 1 || wide h != wide far then s
  else
    let s := s.updPort port (fun x => { x with
      rxSeq := 0, txSeq := 0, discarding := false, replay := [], used := [], failRun := 0, replaying := false })
    let s := setF s g F.VYL_PSTAT_STATE (if wide h then 2 else 3)
    let s := setF s g F.VYL_PSTAT_LANES_LOCKED (if wide h then 0xFF else if h = 2 then 0xF0 else 0x0F)
    linkLocal (event s g 0) port 7 (leBytes 8 port)

/-- Training fails (R434); a port that firmware tried by itself stays DOWN (R435). -/
def retrainTimeout (s : State) (port : Nat) : State :=
  if portState s port ≠ 1 then s
  else setF s (pgVyl s.member port) F.VYL_PSTAT_STATE (if (s.port port).half = 3 then 0 else 4)

/-- A port with no partner is tried again (R435). -/
def portRetry (s : State) (port : Nat) : State :=
  if portState s port = 0 && s.enabled then startTraining s port 3 else s

end Sys2Proof.Machine
end

