-- ==== Sys2Proof/Machine/Planner.lean ====
section
/-! DEFINITION. The planner (R464 to R474, R477): plan headers and items, worst and best cases in ps, the checks, and the life of a
plan. -/
namespace Sys2Proof.Machine

/-- An item as the planner evaluates it: kind, AFTER, deadline in ns, durations in ps, energy in fJ, stack mask, pausing allowed,
longest launch in ns, fetches that may be parked (R42). -/
structure PItem where
  kind : Nat
  after : Nat
  deadline : Nat
  worst : Nat
  best : Nat
  fj : Nat
  mask : Nat
  pauseOk : Bool
  launch : Nat
  fetches : Nat
  deriving DecidableEq, Repr

/-- Rounded up. -/
def ceilDiv (a b : Nat) : Nat := (a + b - 1) / b

/-- `n` tc in ps at a TDIV (R457), with the stretch of R456 in per cent; rounded up. -/
def tcPs (n tdiv stretch : Nat) : Nat := ceilDiv (n * 5000 * 8 * (100 + stretch)) (7 * (8 - tdiv) * 100)

/-- The TDIV in force or announced, whichever is slower (R468). -/
def planTdiv (s : State) : Nat :=
  ((List.range s.member.dies).map (fun d => Nat.max (getF s (pgPwr d) F.PWR_TDIV_IN_FORCE) (getF s (pgPwr d) F.PWR_TDIV_PENDING))).foldl
    Nat.max 0

/-- Bits of a word beyond its fields are zero. -/
def zeroFrom (w : Nat) (parts : List (Nat × Nat)) : Bool := parts.all (fun p => bits w p.1 p.2 = 0)

/-- A readable place for planner input (R465): backed, outside the holes. -/
def planPlace (s : State) (a n : Nat) : Bool :=
  backed s.member a && backed s.member (a + n - 1) && !inHole s a && !inHole s (a + n - 1)

/-- The header is well formed (R466). -/
def planHeaderOk (w : List W64) : Bool :=
  let n := fld (w.getD 0 0) 0 11
  1 ≤ n && n ≤ 1024 && zeroFrom (w.getD 0 0).toNat [(11, 5), (34, 14)] && zeroFrom (w.getD 1 0).toNat [(40, 24)]
    && zeroFrom (w.getD 2 0).toNat [(48, 16)] && (w.drop 3).all (· = 0)

/-- An item is well formed (R466, R467). -/
def itemOk (s : State) (i : Nat) (w : List W64) : Bool :=
  let a := (w.getD 0 0).toNat
  let b := (w.getD 1 0).toNat
  let c := (w.getD 2 0).toNat
  let after := bits a 16 16
  zeroFrom a [(5, 11)] && zeroFrom (w.getD 3 0).toNat [(48, 16)] && (after = 0xFFFF || after < i) &&
  match bits a 0 4 with
  | 1 => planPlace s b 512 && c = 0
  | 2 => planPlace s b 2048 && zeroFrom c [(3, 61)]
  | 3 => zeroFrom b [(20, 12)] && (onesOf 20 b).all (· < s.member.stackCount) && zeroFrom c [(32, 32)]
  | 4 => zeroFrom b [(16, 48)]
  | 5 => zeroFrom b [(40, 24)] && c = 0
  | _ => false

/-- The image or the program that an item names decodes (R467, R469 check 2). -/
def imageOk (kind : Nat) (l : List W64) : Bool :=
  match kind with
  | 1 => !mxIllegal l
  | 2 => match structCheck l 256 0 0 with | .ok _ => true | .error _ => false
  | _ => true

/-- T of a pass in tc (R229, R239). -/
def passLen (l : List W64) : Nat :=
  match kStepKind (lA l) (lB l) with | 1 => ceilDiv (lK l) 2 | 2 => 2 * lK l | _ => lK l

/-- Issue interval of an MX run in tc (R239, R240, R371): the passes that drain occupy the array for 64 tc at least. -/
def issueTc (l : List W64) : Nat :=
  let n := lTotal l
  let d := if lDrain l ≠ 0 then 0 else if lKsplit l then n / Nat.max 1 (lCount l 0) else n
  d * Nat.max (passLen l) 64 + (n - d) * passLen l

/-- Energy in fJ of `n` events of a kind counted on every die's share of the tiles (R459). -/
def tileEnergy (s : State) (kind n : Nat) : Nat := ((List.range s.member.dies).map (fun d => n * 64 * coef s (pgTile (d * 64)) kind)).sum

/-- Whether the planner takes a stack at the cool rate (R468). -/
def planCool (s : State) (cool : Bool) (st : Nat) : Bool := cool && !stackHot s st

/-- PLAN_ALLOW of a stack (R114). -/
def planAllow (s : State) (st : Nat) : Nat := getF s (pgEcc s.member st) F.ECC_CFG_PLAN_ALLOW

/-- A duration in ps with its refreshes (R467): the least one that holds a tRFC for each tREFI (in ns) begun. -/
def withRefresh (trefi base : Nat) : Nat → Nat → Nat
  | 0, d => d
  | n + 1, d =>
    let e := base + ceilDiv d (trefi * 1000) * 350000
    if e ≤ d then d else withRefresh trefi base n e

/-- SRL_ACT_MAX that the planner uses for a stack: with the ledger's caps in force and announced, or without (best case). -/
def planAct (s : State) (st : Nat) (worst : Bool) : Nat :=
  let set := getF s (stackSrl s st) F.SRL_ACT_MAX_SET
  let now := classAct (classNow s)
  let pend := if getF s pgLedg F.LEDG_CLASS_PEND_VALID = 1 then classAct (getF s pgLedg F.LEDG_CLASS_PENDING) else now
  let d := if worst then Nat.min now pend else now
  let d := Nat.min d (if set = 0 then d else set)
  if worst then
    let cap := if s.ledger.announceCap.any (fun p => p.1 = st && p.2) then 16 else 64
    Nat.max 1 (Nat.min (Nat.min d cap) (getF s (stackSrl s st) F.SRL_ACT_MAX_LEDGER_CAP))
  else Nat.max 1 d

/-- Duration in ps of one repetition of a swath set on a stack (R467). -/
def swathPs (s : State) (cool worst : Bool) (acts change st : Nat) : Nat :=
  let base := ceilDiv (acts * 40000) (planAct s st worst) + (if worst then 2000000 + planAllow s st * 1200000 else 0)
  let trefi := if worst then (if planCool s cool st then 3900 else 1950) else 3900
  withRefresh trefi base 64 base + (if change = 0 then 0 else 13000000 + (swathMax s st) * 1000 + 1500000)

/-- The longest breather without a window, in ps: 64 parked requests and nine refreshes at the bounds of R175 (DEDUCED). -/
def breatherPs : Nat := (50 + 46 + 64 * 172 + 58 + 9 * 350 + 50) * 1000

/-- Training windows of an item of a worst-case duration on a stack, in ps (R153, R468): one per channel and period, each 2 µs and
its wait, a swath and the breather before it (R150); the channels' windows run alongside. One window a repetition is in the
duration already (R467). -/
def windowPs (s : State) (rep d st : Nat) : Nat :=
  let n := ceilDiv d (Nat.max 1 (getF s (pgCal s.member st) F.CAL_WINCFG_PERIOD_MS) * 10 ^ 9)
  (n - rep) * 2000000 + n * (swathMax s st * 1000 + breatherPs)

/-- Worst-case duration in ps of a swath set on a stack, its repetitions and windows included (R467, R468). -/
def swathWorst (s : State) (cool : Bool) (acts change rep st : Nat) : Nat :=
  let d := rep * swathPs s cool true acts change st
  d + windowPs s rep d st

/-- Duration in ps of one repetition of a collective step at a port (R404, R467): 240.9 GB/s at eight lanes, half of it at four. -/
def portPs (s : State) (bytes hops port : Nat) : Nat :=
  ceilDiv (bytes * 10000 * (if portState s port = 3 then 2 else 1)) 2409 + hops * 290000 + 1500000

/-- The MOVEs that a DMA program performs, each with the times its loops repeat it; `reps` holds the products of the open loops. -/
def progMoves (l : List W64) : Nat → Nat → List Nat → List (List W64 × Nat)
  | 0, _, _ => []
  | n + 1, pc, reps =>
    let w := l.getD pc 0
    match fld w 0 8 with
    | 0x01 => []
    | 0x02 => progMoves l n (pc + 1) (reps.headD 1 * fld w 16 32 :: reps)
    | 0x03 => progMoves l n (pc + 1) reps.tail
    | 0x10 => ((l.drop pc).take 13, reps.headD 1) :: progMoves l n (pc + 13) reps
    | _ => progMoves l n (pc + 1) reps

/-- Bytes of the box of a MOVE, by its source descriptor as it stands (R310). -/
def moveBytes (s : State) (w : List W64) : Nat :=
  let d := s.desc (mHandle w 0)
  ceilDiv (((List.range (dRank d)).map (mE w)).foldl (· * ·) (dWidth d)) 8

/-- Duration in ps of a DMA program's MOVEs (R467) with the tiles at a TDIV and a stretch. The requests of a MOVE times L / 16 is a free
value each: the bound L of R398 is that of a path, and an item names no tile. -/
def movesPs (s : State) (td stretch : Nat) (l : List (List W64 × Nat)) : Nat × State :=
  l.foldl (fun (x : Nat × State) m =>
    let (path, s) := x.2.draw
    (x.1 + m.2 * (tcPs 200 td stretch + Nat.max (tcPs (ceilDiv (moveBytes s m.1) 32) td stretch) path.toNat), s)) (0, s)

/-- An item evaluated (R467, R468). What the manual leaves open is a free value: the fetch, the paths and the energy of a DMA program,
the chunks of a swath set, and the breathers of launches that pause. -/
def evalItem (s : State) (cool : Bool) (w l : List W64) : PItem × State :=
  let a := (w.getD 0 0).toNat
  let b := (w.getD 1 0).toNat
  let c := (w.getD 2 0).toNat
  let kind := bits a 0 4
  let rep := Nat.max 1 (bits (w.getD 3 0).toNat 32 16)
  let est := bits (w.getD 3 0).toNat 0 32 * 10 ^ 9
  let td := planTdiv s
  let it (worst best fj : Nat) : PItem :=
    { kind := kind, after := bits a 16 16, deadline := bits a 32 32, worst := worst, best := Nat.min best worst, fj := Nat.max fj est,
      mask := if kind = 3 then bits b 0 20 else 0, pauseOk := bit a 4, launch := if kind = 3 then bits c 0 16 * 682 else 0
      fetches := if kind = 1 then rep * ((List.range 9).filter (lUses l)).length else 0 }
  match kind with
  | 1 =>
    let n := 20 + rep * issueTc l + 263 + (if lInit l = 2 then 64 else 0)
    let steps := rep * lTotal l * lK l
    let img := rep * fld (lw l 63) 0 32 * 10 ^ 9
    (it (tcPs n td 3) (tcPs n 0 0) (Nat.max img (tileEnergy s (kStepKind (lA l) (lB l)) steps)), s)
  | 2 =>
    let l := progMoves l 256 0 []
    let (x, s) := s.draw
    let (slow, s) := movesPs s td 3 l
    let (y, s) := s.draw
    let (fast, s) := movesPs s 0 0 l
    let (z, s) := s.draw
    (it (rep * (x.toNat + slow)) (rep * (y.toNat + fast)) (rep * z.toNat), s)
  | 3 =>
    let sts := onesOf 20 b
    let acts := bits b 32 32
    let change := bits c 16 16
    let worst := (sts.map (swathWorst s cool acts change rep)).foldl Nat.max 0
    let best := rep * (sts.map (swathPs s cool false acts change)).foldl Nat.max 0
    let fj := (sts.map (fun st => acts * coef s (pgSrl s.member st 0) 8)).sum
    let (x, s) := s.draw
    let (y, s) := s.draw
    let pauses := bit a 4 && sts.any (fun st => swathMax s st < bits c 0 16 * 682)
    (it (worst + if pauses then rep * x.toNat else 0) best (rep * (fj + y.toNat)), s)
  | 4 =>
    let ps := onesOf 12 b
    let d := rep * ((ps.map (portPs s c (bits b 12 4))).foldl Nat.max 0)
    let flits := ceilDiv c 256 + ceilDiv c 4096
    (it d d (rep * ((ps.map (fun p => flits * coef s (pgVyl s.member p) 11)).sum)), s)
  | _ => (it (rep * bits b 0 40 * 1000) (rep * bits b 0 40 * 1000) 0, s)

/-- The ends of the items in ps, in order (R467): an item follows its AFTER and the earlier items of its kind. -/
def itemEnds (dur : PItem → Nat) : List PItem → List (Nat × Nat) → List Nat
  | [], _ => []
  | p :: r, past =>
    let start := Nat.max (if p.after = 0xFFFF then 0 else (past.getD p.after (0, 0)).2)
      (((past.filter (·.1 = p.kind)).map (·.2)).foldl Nat.max 0)
    let e := start + dur p
    e :: itemEnds dur r (past ++ [(p.kind, e)])

/-- The power that refills the account in the energy test: the current or pending class, whichever is lower (R470). -/
def planPower (s : State) : Nat :=
  let p := classW s.member (classNow s)
  if getF s pgLedg F.LEDG_CLASS_PEND_VALID = 1 then Nat.min p (classW s.member (getF s pgLedg F.LEDG_CLASS_PENDING)) else p

/-- B0 in µJ (R470). -/
def planB0 (s : State) : Int :=
  match s.running with
  | none => balance s
  | some p =>
    let left := p.deadline - getF s pgPlan F.PLAN_CLOCK_NS
    Min.min (depthNow s : Int) (balance s + (planPower s * left / 1000 : Nat) - p.pred)

/-- Predicted energy in µJ up to a moment (R468, R470): the items that have ended by their best case and the base power, with
the margin; rounded up. -/
def predUj (s : State) (fj ps : Nat) : Nat :=
  let base := getF s pgLedg F.LEDG_BASE_W * ps * 1000
  ceilDiv ((fj + base) * (100 + getF s pgPlan F.PLAN_CFG_MARGIN_PCT)) (100 * 10 ^ 9)

/-- The energy test (R470): the first item, in the order of best-case ends, at which it fails, and the shortfall in µJ. -/
def energyTest (s : State) (items : List (Nat × PItem × Nat)) : Option (Nat × Nat) :=
  let l := items.mergeSort (fun a b => a.2.2 ≤ b.2.2)
  l.findSome? (fun (x : Nat × PItem × Nat) =>
    let used := ((items.filter (fun (y : Nat × PItem × Nat) => y.2.2 ≤ x.2.2)).map (fun (y : Nat × PItem × Nat) => y.2.1.fj)).sum
    let need : Int := predUj s used x.2.2
    let have_ : Int := planB0 s + (planPower s * x.2.2 / 10 ^ 6 : Nat)
    if need ≤ have_ then none else some (x.1, (need - have_).toNat))

/-- Result of a planner command written (R477). -/
def planResult (s : State) (code item id : Nat) : State :=
  let g := pgPlan
  let s := setF (setF s g F.PLAN_RESULT_CODE code) g F.PLAN_RESULT_ITEM item
  setF (setB (setB s g F.PLAN_RESULT_DONE true) g F.PLAN_RESULT_BUSY false) g F.PLAN_RESULT_PLAN_ID id

/-- A plan refused (R469). -/
def planRefuse (s : State) (code item id short : Nat) : State :=
  let s := setF (planResult s code item id) pgPlan F.PLAN_SHORT short
  event (bumpF (refusal s pgPlan) pgPlan F.PLAN_COUNT_REFUSED) pgPlan 1

/-- A poisoned planner-input fetch (R465): it bites. -/
def planPoison (s : State) : State :=
  bite (recordErr (setB s pgPlan F.PLAN_RESULT_BUSY false) pgPlan 0x1011 0) 0 0x10 0 0x1011 0

/-- The planner waits for a fetch that is queued or parked (R42): its command goes on when asked again. -/
def planWait (s : State) : State :=
  setB (setB (setF s pgPlan F.PLAN_CMD_OP 0) pgPlan F.PLAN_RESULT_BUSY true) pgPlan F.PLAN_RESULT_DONE false

/-- What an item names, as the planner fetches it (R465, R467): part address and bytes. -/
def itemInput (w : List W64) : Option (Nat × Nat) :=
  match fld (w.getD 0 0) 0 4 with
  | 1 => some ((w.getD 1 0).toNat, 512)
  | 2 => some ((w.getD 1 0).toNat, 2048)
  | _ => none

/-- Planner input of several places fetched: its words once all of it is there, and whether any is poisoned. -/
def planFetch (s : State) : List (Option (Nat × Nat)) → Option (List (List W64) × Bool) × State
  | [] => (some ([], false), s)
  | x :: l =>
    let (r, s) : Option (List Byte × Bool) × State := match x with
      | some (a, n) => ctlFetch s 0 0x3000 a n
      | none => (some ([], false), s)
    let (rest, s) := planFetch s l
    match r, rest with
    | some (b, z), some (ws, y) => (some (leWords b :: ws, z || y), s)
    | _, _ => (none, s)

/-- Checks 3 to 9 of R469 on evaluated items, and the arming of the plan. While a plan holds channels of stack 0, each fetch into it
waits for a swath and a breather (R42, R468). -/
def judge (s : State) (h : List W64) (items : List PItem) (ports : List (Nat × Nat)) : State :=
  let g := pgPlan
  let id := fld (h.getD 0 0) 16 16
  let deadline := fld (h.getD 1 0) 0 40
  let cool := bitOf (h.getD 0 0) 32
  let items := if items.any (fun p => p.mask % 2 = 1) then
      items.map (fun p => { p with worst := p.worst + p.fetches * (swathMax s 0 * 1000 + breatherPs) })
    else items
  let worsts := itemEnds (·.worst) items []
  let bests := itemEnds (·.best) items []
  let worst := worsts.foldl Nat.max 0
  let best := bests.foldl Nat.max 0
  let num := (List.range items.length).zip items
  let fj := Nat.max ((items.map (·.fj)).sum) (fld (h.getD 2 0) 0 48 * 10 ^ 9)
  let s := setF s g F.PLAN_WORST_NS (ceilDiv worst 1000)
  let s := setF s g F.PLAN_PRED_UJ (predUj s fj best)
  let late (e d : Nat) : Bool := d * 1000 < e
  if deadline = 0 || getF s g F.PLAN_CFG_MAX_DEADLINE_MS * 10 ^ 6 < deadline then planRefuse s 0x1049 0 id 0
  else match ports.find? (fun p => !portUp s p.2 || s.member.ports ≤ p.2) with
  | some p => planRefuse s 0x1047 p.1 id 0
  | none =>
  let sts (p : PItem) : List Nat := onesOf 20 p.mask
  match num.find? (fun (q : Nat × PItem) => !q.2.pauseOk && (sts q.2).any (fun st => swathMax s st < q.2.launch)) with
  | some q => planRefuse s 0x1042 q.1 id 0
  | none =>
  let owedMax (st : Nat) : Nat :=
    let t := if planCool s cool st then 3900 else 1950
    7 - ceilDiv (swathMax s st) t + ceilDiv (swathMax s st + planAllow s st * 1200) t
  match num.find? (fun (q : Nat × PItem) => (sts q.2).any (fun st => 8 < owedMax st)) with
  | some q => planRefuse s 0x1043 q.1 id 0
  | none =>
  match (num.zip worsts).find? (fun (q : (Nat × PItem) × Nat) => q.1.2.deadline ≠ 0 && late q.2 q.1.2.deadline) with
  | some q => planRefuse s 0x1046 q.1.1 id (ceilDiv (q.2 - q.1.2.deadline * 1000) 1000)
  | none =>
  if late worst deadline then planRefuse s 0x1040 (worsts.idxOf worst) id (ceilDiv (worst - deadline * 1000) 1000)
  else match energyTest s ((num.zip bests).map (fun (q : (Nat × PItem) × Nat) => (q.1.1, q.1.2, q.2))) with
  | some q => planRefuse s 0x1041 q.1 id q.2
  | none =>
    let p : Plan := {
      id := id, cool := cool, endByMark := bitOf (h.getD 0 0) 33, endMarker := fld (h.getD 0 0) 48 16, deadline := deadline,
      worst := ceilDiv worst 1000, pred := predUj s fj best, best := best / 1000,
      stackMask := (items.map (·.mask)).foldl (fun a b => a ||| b) 0 }
    let s := setF (planResult { s with armed := some p } 0 0 id) g F.PLAN_SHORT 0
    let s := setF (setB s g F.PLAN_SLOTS_ARMED true) g F.PLAN_SLOTS_ARMED_ID id
    event (bumpF s g F.PLAN_COUNT_ACCEPTED) g 0

/-- SUBMIT (R465, R469): the header, the items and what they name are fetched and checked. -/
def submit (s : State) : State :=
  let src := getF s pgPlan F.PLAN_SRC
  if s.armed.isSome then planRefuse s 0x1045 0 0 0
  else if src % 64 ≠ 0 || !planPlace s src 64 then planRefuse s 0x1044 0 0 0
  else
    match planFetch s [some (src, 64)] with
    | (none, s) => planWait s
    | (some (hs, pz), s) =>
    let h := hs.getD 0 []
    let id := fld (h.getD 0 0) 16 16
    let n := fld (h.getD 0 0) 0 11
    if pz then planPoison s
    else if !planHeaderOk h || !planPlace s (src + 64) (32 * n) then planRefuse s 0x1044 0 id 0
    else
      match planFetch s [some (src + 64, 32 * n)] with
      | (none, s) => planWait s
      | (some (iw, pz), s) =>
      let words := iw.getD 0 []
      let item (i : Nat) : List W64 := (words.drop (4 * i)).take 4
      if pz then planPoison s
      else match (List.range n).find? (fun i => !itemOk s i (item i)) with
      | some i => planRefuse s 0x1044 i id 0
      | none =>
        match planFetch s ((List.range n).map (fun i => itemInput (item i))) with
        | (none, s) => planWait s
        | (some (images, pz), s) =>
        if pz then planPoison s
        else match (List.range n).find? (fun i => !imageOk (fld ((item i).getD 0 0) 0 4) (images.getD i [])) with
        | some i => planRefuse s 0x1044 i id 0
        | none =>
          let cool := bitOf (h.getD 0 0) 32
          let (items, s) := (List.range n).foldl
            (fun (x : List PItem × State) i => let (p, s) := evalItem x.2 cool (item i) (images.getD i []); (x.1 ++ [p], s)) ([], s)
          let ports := (List.range n).flatMap (fun i =>
            if fld ((item i).getD 0 0) 0 4 = 4 then (onesOf 12 ((item i).getD 1 0).toNat).map (fun p => (i, p)) else [])
          judge s h items ports

/-- CANCEL (R465): the armed plan is withdrawn. -/
def cancel (s : State) : State :=
  let id := s.armed.elim 0 (·.id)
  let s := setF (setF s pgPlan F.PLAN_SLOTS_ARMED 0) pgPlan F.PLAN_SLOTS_ARMED_ID 0
  settleLedger (planResult { s with armed := none } 0 0 id)

/-- The planner performs a command of an OP (R465, R477). -/
def planDo (s : State) (op : Nat) : State :=
  let s := match op with
    | 0 => submit s
    | 1 => cancel s
    | _ => let s := refusal s pgPlan; planResult s 0x1048 0 0
  if getF s pgPlan F.PLAN_RESULT_BUSY = 1 then s else dropFetch s 0

/-- A write of PLAN_CMD (R465, R477, R486): while the lead core restarts or is stopped the command waits; a stopped planner takes none. -/
def planCmd (s : State) (op : Nat) : State :=
  let g := pgPlan
  if faulted s then s
  else if leadDown s then setB (setB (setF s g F.PLAN_CMD_OP op) g F.PLAN_RESULT_BUSY true) g F.PLAN_RESULT_DONE false
  else planDo (dropFetch s 0) op

/-- A SUBMIT that waits for planner input goes on (R42, R465). -/
def planTick (s : State) : State :=
  if s.fetches.any (·.user = 0) && getF s pgPlan F.PLAN_RESULT_BUSY = 1 && !leadDown s && !faulted s then
    planDo s (getF s pgPlan F.PLAN_CMD_OP)
  else s

/-- The running plan ends with a status (R471, R477). -/
def planClose (s : State) (status slack : Nat) : State :=
  let g := pgPlan
  let s := setF (setF s g F.PLAN_LAST_STATUS status) g F.PLAN_LAST_SLACK_NS slack
  let s := setF (setF (setF s g F.PLAN_SLOTS_RUN_STATE 0) g F.PLAN_SLOTS_RUN_ID 0) g F.PLAN_CLOCK_NS 0
  settleLedger (event { s with running := none } g 3)

/-- What ends the running plan has happened (R471, R473). -/
def planEnd (s : State) : State :=
  match s.running with
  | none => s
  | some p =>
    let clock := getF s pgPlan F.PLAN_CLOCK_NS
    if !p.ended then s
    else if clock ≤ p.deadline then planClose s 1 (p.deadline - clock)
    else planClose s 2 0

/-- The plan clock has reached the deadline (R473): not enforced where the promise is void or its cool assumption lost. -/
def planOverrun (s : State) : State :=
  match s.running with
  | none => s
  | some p =>
    if p.deadline ≤ getF s pgPlan F.PLAN_CLOCK_NS && getF s pgPlan F.PLAN_SLOTS_RUN_STATE = 1 && !p.ended
        && !s.causes.any (·.cause = 4) then
      raiseCause (recordErr s pgPlan 0x1010 p.id) ⟨4, 0, 0x10, 0, 0x1010, p.id⟩
    else s

/-- What goes on in the part as time passes: packets held in the ingresses, waiting descriptor and allocation commands, tables, the
planner (R290, R294, R296, R305, R415, R465). -/
def blockTick (s : State) : State := planTick (ownTick (allocTick (descTick (ingressTick s))))

/-- LEDGER_TICK (R461): a microsecond of part time; under PERST# it alone runs, and without main power nothing does. -/
def execLedgerTick (s : State) : Res :=
  .next (if !s.board.mainOn then s else if s.board.perst then { s with us := s.us + 1 } else blockTick (tick s))

/-- PLAN_SUBMIT (R465). -/
def execPlanSubmit (_w : Writer) (s : State) : Res := .next (planCmd s 0)

/-- PLAN_CANCEL (R465). -/
def execPlanCancel (_w : Writer) (s : State) : Res := .next (planCmd s 1)

/-- PLAN_END (R471). -/
def execPlanEnd (s : State) : Res := .next (planEnd s)

/-- PLAN_OVERRUN (R473). -/
def execPlanOverrun (s : State) : Res := .next (planOverrun s)

end Sys2Proof.Machine
end

