-- ==== Sys2Proof/Machine/Faults.lean ====
section
/-! DEFINITION. Entry to FAULTED, its sequence and record (R479 to R485), the job reset (R483), checkpoint fences (R488), watchdogs
and assertions (R486, R487), and what a reset of one block clears (R57). -/
namespace Sys2Proof.Machine

/-! ## Clearing registers (R46, R56) -/

/-- A job reset clears a field of a block (After fault column). -/
def RegF.clears (f : RegF) (blk : Nat) : Bool :=
  match f.keep with
  | .kept => false
  | .clear => true
  | .scope => jobScope blk

/-- The register at a BAR0 offset with the fields that a job reset clears back at their reset values. -/
def clearedReg (m : Member) (k : Nat) (v : W64) : W64 :=
  ((fieldsAt (pageOf k) (k % 4096)).filter (·.clears (pageOf k).blk)).foldl
    (fun x f => withFld x f.lo f.wid (fld (resetReg m k) f.lo f.wid)) v

/-- The registers of the pages that satisfy a condition as a job reset leaves them. -/
def clearRegs (s : State) (q : Page → Bool) : State :=
  let l := s.regs.map (fun (p : Nat × W64) => if q (pageOf p.1) then (p.1, clearedReg s.member p.1 p.2) else p)
  { s with regs := l.filter (fun (p : Nat × W64) => p.2 ≠ resetReg s.member p.1) }

/-! ## What a reset clears of an object -/

/-- DMA channels as a reset leaves them (R322): their tags go on, so that no late answer meets a new request. -/
def clearedDma (l : Tbl DmaCh) : Tbl DmaCh :=
  (l.map (fun (p : Nat × DmaCh) => (p.1, ({ nextTag := p.2.nextTag, fenceNo := p.2.fenceNo } : DmaCh)))).filter (fun p => p.2 ≠ {})

/-- A stream emptied: what it has been given has left its buffer (R347). -/
def emptied (x : Stream) : Stream := { given := x.given, gone := x.given }

/-- A tile with its SRAM, accumulators, engines and semaphores' work gone; its routine store stays (R350). -/
def emptiedTile (k : Tile) : Tile :=
  { gated := k.gated
    zeroing := k.zeroing
    srlSeq := k.srlSeq
    runNo := k.runNo
    store := k.store
    storePz := k.storePz
    mx := emptied k.mx
    ves := emptied k.ves
    dmas := emptied k.dmas
    srl := emptied k.srl }

/-- A tile as a job reset leaves it (R227): its zeroing runs, as after an ungating. -/
def clearedTile (k : Tile) : Tile :=
  { (emptiedTile k) with dma := clearedDma k.dma, zeroing := !k.gated }

/-- A sequencer as a job reset leaves it (R355, R358): the trace stays and a load goes on. -/
def clearedSeq (x : Seq) : Seq := { load := x.load, trace := x.trace }

/-- A port as a job reset leaves it (R433); `up`: REQ, RSP and ACC wait for the peer's RESET_NOTE. -/
def clearedPort (up : Bool) (x : Port) : Port :=
  { x with fence := none, fenceWait := none, fenceAcc := [], held := x.held.filter (·.vc = 3), loop := x.loop.filter (·.vc = 3), discard := x.discard || up }

/-- Accesses that a reset finds held at a channel's units complete unperformed (R183). -/
def dropHeld (s : State) (st ch : Nat) : State :=
  let l := (s.chan st ch).held
  let s := s.updChan st ch (fun c => { c with held := [] })
  (l.foldl (fun (acc : State × List Nat) a =>
    if a.grp ≠ 0 && acc.2.contains a.grp then acc
    else (replyCmd acc.1 a (List.replicate (if a.write then 0 else a.len) 0) [], a.grp :: acc.2)) (s, [])).1

/-! ## The fault sequence (R481) -/

/-- A run with nothing in flight any more. -/
def MxRun.abandoned (r : MxRun) : MxRun := { r with started := false, draining := false }

/-- The MX passes in flight are abandoned (R249, R481). -/
def abandonPasses (s : State) : State :=
  { s with tiles := s.tiles.map (fun (p : Nat × Tile) =>
    (p.1, { p.2 with run := p.2.run.map MxRun.abandoned, ended := p.2.ended.map MxRun.abandoned })) }

/-- The part stops its tensor work (R481): Sorrel channels exit, MX passes in flight are abandoned, the running plan ends, and a
FAULT_NOTE goes to every neighbour whose port is up. Everything else stops by `halted`. -/
def stopPart (s : State) : State :=
  let s := forEach s (List.range s.member.stackCount) (fun s st => forEach s (List.range 32) (fun s ch => faultChannel s st ch))
  let s := abandonPasses s
  let s := if s.running.isSome then planClose s 3 0 else s
  forEach s ((List.range s.member.ports).filter (portUp s)) (fun s p => linkLocal s p 6 [])

/-- The FLT page of every die. -/
def onFlt (s : State) (f : State → Nat → State) : State := forEach s (List.range s.member.dies) (fun s d => f s (pgFlt d))

/-- Words 0 to 7 of a fault record (R485). -/
def faultWords (s : State) (c : Cause) (seq : Nat) : List W64 :=
  let plan := s.running.elim 0 (fun p => p.id % 2 ^ 16 + 2 ^ 16)
  [BitVec.ofNat 64 (seq % 2 ^ 32 + c.cause % 2 ^ 8 * 2 ^ 32 + c.die % 8 * 2 ^ 40 + c.blk % 32 * 2 ^ 43 + c.code % 2 ^ 16 * 2 ^ 48),
    BitVec.ofNat 64 (c.tag % 2 ^ 32 + c.inst % 2 ^ 8 * 2 ^ 32),
    BitVec.ofNat 64 (s.us % 2 ^ 48),
    BitVec.ofNat 64 (plan + getF s (pgSeq 0) F.SEQ_WORDS_COUNT * 2 ^ 32), 0, 0, 0, 0]

/-- A record shown in FLT_REC of a die. -/
def showRecord (s : State) (d : Nat) (l : List W64) : State :=
  forEach s (l.zip (List.range 8)) (fun s (v, w) => setF s (pgFlt d) F.FLT_REC v.toNat w)

/-- What the die that raised a cause keeps of it: FLT's own codes are recorded on its page (R490), and a die other than 0 holds the
first cause since its record was cleared (R485). -/
def dieNotes (s : State) (c : Cause) (l : List W64) : State :=
  let s := if c.code / 256 = 0x18 then recordErr s (pgFlt c.die) c.code c.tag else s
  if c.die ≠ 0 && getF s (pgFlt c.die) F.FLT_REC 0 = 0 then showRecord s c.die l else s

/-- The first pending cause of a die with a number. -/
def pendingCause (s : State) (die cause : Nat) : Option Cause := s.causes.find? (fun c => c.die = die && c.cause = cause)

/-- Die 0 latches a cause: entry to FAULTED (R480, R481). A cause that arrives in a job reset waits for its end (R483). -/
def enterFaulted (s : State) (die cause : Nat) : State :=
  match pendingCause s die cause with
  | none => s
  | some c =>
    if halted s then s
    else
      let l := faultWords s c s.entries
      let s := { s with causes := s.causes.erase c, entry := some l, entries := s.entries + 1 }
      let s := onFlt s (fun s g => bumpF (event (setF s g F.FLT_FSTAT_FAULTED 1) g 0) g F.FLT_FSTAT_ENTRIES)
      let s := dieNotes s c l
      (cxlEvent (stopPart s) 2 0 false).pldm 0

/-- A record with one more secondary fault of a cause (R485 word 4). -/
def addSecondary (cause : Nat) (l : List W64) : List W64 :=
  let w := l.getD 4 0
  let w := withFld w 0 32 (Nat.min (fld w 0 32 + 1) (2 ^ 32 - 1))
  l.set 4 (setBit w (32 + cause % 8))

/-- A later cause reaches die 0 (R480). -/
def secondary (s : State) (die cause : Nat) : State :=
  match pendingCause s die cause with
  | none => s
  | some c =>
    if !faulted s || resetting s then s
    else
      let s := dieNotes { s with causes := s.causes.erase c } c (faultWords s c (s.entries - 1))
      let s := bumpF (recordErr s (pgFlt 0) 0x1813 0) (pgFlt 0) F.FLT_FSTAT_SECONDARY
      match s.entry with
      | some l => { s with entry := some (addSecondary cause l) }
      | none =>
        let l := addSecondary cause ((List.range 8).map (fun w => BitVec.ofNat 64 (getF s (pgFlt 0) F.FLT_REC w)))
        let s := showRecord s 0 l
        { s with history := tset [] s.history ((s.entries - 1) % 256) l }

/-- The record of the entry becomes valid and joins the history (R481, R485). -/
def recordFault (s : State) : State :=
  match s.entry with
  | none => s
  | some l =>
    let s := showRecord { s with entry := none } 0 l
    { s with history := tset [] s.history ((s.entries - 1) % 256) l }

/-! ## Job reset (R483) -/

/-- A write of FLT_JOBRESET (R483). -/
def jobResetWrite (s : State) (v : W64) : State :=
  if !bitOf v 0 then s
  else if resetting s then refusal s (pgFlt 0)
  else
    let first := !faulted s
    let s := onFlt { s with clearDesc := bitOf v 1 } (fun s g => setF s g F.FLT_FSTAT_RESETTING 1)
    let s := forEach s (List.range s.member.stackCount) (fun s st => forEach s (List.range 32) (fun s ch => dropHeld s st ch))
    if first then stopPart s else s

/-- Valid descriptors as a job reset keeps them: LOCAL_PIN, EXPORTS and PINNED read 0 (R297). -/
def unpinned (d : List W64) : List W64 := descPinned (descSet d 13 (fun w => withFld w 0 17 0))

/-- The references of the allocations counted anew from the valid descriptors (R285): the copies that engines held are gone. -/
def recountRefs (s : State) : State :=
  { s with allocs := s.allocs.map (fun (p : Nat × AllocE) =>
      (p.1, { p.2 with refs := s.descs.countP (fun (d : Nat × List W64) => dValid d.2 && dKind d.2 ≠ 2 && dAlloc d.2 = p.1) })) }

/-- Every tile as a job reset leaves it. -/
def clearTiles (s : State) : State :=
  { s with tiles := (s.tiles.map (fun (p : Nat × Tile) => (p.1, clearedTile p.2))).filter (fun p => p.2 ≠ {}) }

/-- No requester is isolated any more (R393): what the CXL port and the Uzoid cores sent goes on, the job's is gone. -/
def isolationGone (s : State) : State :=
  let stays (x : Req ⊕ Access) : Bool := let k := (match x with | .inl r => r.src | .inr a => a.src) / 4096; k = 2 || k = 3
  let s := forEach s (List.range s.member.stackCount) (fun s st => forEach s (List.range 32) (fun s ch =>
    if (s.chan st ch).stalled.isEmpty then s
    else unstall (s.updChan st ch (fun c => { c with stalled := c.stalled.filter stays })) st ch))
  isolEnds s 0 102

/-- Everything a job reset clears (R483 steps 1 to 3). -/
def clearJob (s : State) : State :=
  let s := forEach s (List.range s.member.stackCount) (fun s st => forEach s (List.range 32) (fun s ch => dropHeld s st ch))
  let up := (List.range s.member.ports).filter (portUp s)
  let s := { clearTiles s with
    units := []
    seqs := (s.seqs.map (fun (p : Nat × Seq) => (p.1, clearedSeq p.2))).filter (fun p => p.2 ≠ {})
    egress := s.egress.filter (fun p => p.2.vc = 3)
    inPkts := []
    outReqs := []
    sync := []
    otabs := []
    descQ := []
    allocQ := []
    fetches := s.fetches.filter (64 ≤ ·.user)
    armed := none
    running := none
    arbs := (s.arbs.map (fun (p : Nat × Arb) => (p.1, { p.2 with next := none, offences := [] }))).filter (fun p => p.2 ≠ {}) }
  let s := forEach s (List.range s.member.ports ++ (List.range s.member.dies).map (16 + ·))
    (fun s p => s.updPort p (clearedPort (up.contains p)))
  let s := if s.clearDesc then forEach s ((s.descs.filter (fun p => dValid p.2)).map (·.1)) clearDescEntry
    else { s with descs := s.descs.map (fun (p : Nat × List W64) => if dValid p.2 then (p.1, unpinned p.2) else p) }
  let s := recountRefs s
  let s := clearRegs s (fun _ => true)
  let s := isolationGone s
  -- a load keeps running through a job reset (R358)
  forEach s (List.range s.member.dies) (fun s d => if (s.seq d).load.isSome then setB s (pgImem d) F.IMEM_LOADSTAT_BUSY true else s)

/-- Every channel has returned to memory mode (R183). -/
def allStopped (s : State) : Bool :=
  (List.range s.member.stackCount).all (fun st => (List.range 32).all (fun ch => chState s st ch = 0 && !(s.chan st ch).breath))

/-- A job reset completes (R483, R433): RESET_NOTE goes out of every port that is up. -/
def endJobReset (s : State) : State :=
  if !resetting s || !allStopped s then s
  else
    let s := settleLedger { clearJob s with clearDesc := false }
    let s := event s (pgFlt 0) 1
    settleVec (forEach s ((List.range s.member.ports).filter (portUp s)) (fun s p => linkLocal s p 8 []))

/-! ## Checkpoint fences (R488) -/

/-- FSTAT.FENCE_STATE. -/
def fenceState (s : State) : Nat := getF s (pgFlt 0) F.FLT_FSTAT_FENCE_STATE

/-- The lead sequencer's fetch held by a fence, or not. -/
def holdFetch (s : State) (on : Bool) : State := s.updSeq 0 (fun x => { x with fenceHold := on })

/-- The part has drained (R488 step 2): tiles, sequencer FIFOs, egress buffers and outstanding requests. -/
def fenceDrained (s : State) : Bool :=
  (List.range s.member.dies).all (fun d => (s.seq d).fifo.isEmpty)
    && (List.range s.member.tiles).all (drainedTile s) && s.egress.isEmpty && s.outReqs.isEmpty

/-- A fence whose drain has ended flushes the parity caches of every stack (R121, R488 step 3). -/
def fenceFlush (s : State) : State :=
  let full := getF s (pgFlt 0) F.FLT_FENCE_GO = 1
  if fenceState s ≠ 1 || s.fenceFlushed || (full && !faulted s && !fenceDrained s) then s
  else forEach { s with fenceFlushed := true } (List.range s.member.stackCount) flushDirty

/-- A write of FLT_FENCE.GO (R488). DESIGN CHOICE: GO and HOLD stay in their fields, which read 0, until the fence ends; GO says
that the fence drains the part. -/
def fenceGo (s : State) (v : W64) : State :=
  let g := pgFlt 0
  if !bitOf v 0 then s
  else if fenceState s ≠ 0 then refusal s g
  else
    let s := setF (setF s g F.FLT_FSTAT_FENCE_STATE 1) g F.FLT_FENCE_RESULT 0
    let s := setB (setB s g F.FLT_FENCE_HOLD (bitOf v 1)) g F.FLT_FENCE_GO (!faulted s)
    fenceFlush (if faulted s then s else holdFetch s true)

/-- A fence reaches its end once every flush has ended (R488 steps 3 and 4). DESIGN CHOICE (log 44): a drain that ends later than GO
is noticed here, and the flush begins. -/
def fenceEnd (s : State) : State :=
  let g := pgFlt 0
  let full := getF s g F.FLT_FENCE_GO = 1
  let s := fenceFlush s
  if fenceState s ≠ 1 || !s.fenceFlushed || (List.range s.member.stackCount).any (flushing s) then s
  else
    let s := { s with fenceFlushed := false }
    let aborted := full && faulted s
    let hold := getF s g F.FLT_FENCE_HOLD = 1 && !aborted
    let s := setF (setF s g F.FLT_FENCE_RESULT (if aborted then 2 else 1)) g F.FLT_FSTAT_FENCE_STATE (if hold then 2 else 0)
    let s := setB (setB s g F.FLT_FENCE_GO false) g F.FLT_FENCE_HOLD false
    let s := holdFetch s (hold && full)
    if aborted then s else event s g 2

/-- A write of FLT_FENCE.RELEASE (R488, R489). -/
def fenceLet (s : State) (v : W64) : State :=
  if bitOf v 2 && fenceState s = 2 then holdFetch (setF s (pgFlt 0) F.FLT_FSTAT_FENCE_STATE 0) false else s

/-! ## Watchdogs and assertions (R486, R487, R500) -/

/-- A write of FLT_WDOG (R486, R489). -/
def wdogWrite (s : State) (d : Nat) (v : W64) : State :=
  let s := storeRW s (pgFlt d + 0x98) v
  if bitOf v 16 then { s with kicks := tset 0 s.kicks d s.us } else s

/-- A watchdog expires (R486): cause 5, and the core restarts; a Transfer FW in progress is abandoned (R499), and the wait of R498
begins anew. -/
def expire (s : State) (d : Nat) : State :=
  let g := pgFlt d
  if s.restarting.contains d || s.restarting.contains (d + 8) || elapsed s (tget 0 s.kicks d) < Nat.max 1 (getF s g F.FLT_WDOG_TIMEOUT_MS) * 1000
  then s
  else
    let s := event (bumpF s g F.FLT_WDOG_EXPIRIES) g 3
    let s := raiseCause s ⟨5, d, 0x01, 0, 0x1811, 0⟩
    { s with
      restarting := setIns d s.restarting
      cxl := { s.cxl with transfer := none }
      board := { s.board with sinceBoot := s.us } }

/-- A die's core starts again on the copy of its firmware, with its watchdog kicked (R500). -/
def coreStarts (s : State) (d : Nat) : State :=
  { s with kicks := tset 0 s.kicks d s.us, uzoids := tupd {} s.uzoids d startCore }

/-- A core's restart ends (R500): it runs, or its copy fails the check and it stays stopped until PERST#. -/
def restarted (s : State) (d : Nat) (copyOk : Bool) : State :=
  if !s.restarting.contains d then s
  else
    let s := { s with restarting := setPut s.restarting d false }
    if copyOk then
      let s := coreStarts s d
      if d = 0 && getF s pgPlan F.PLAN_RESULT_BUSY = 1 then planCmd s (getF s pgPlan F.PLAN_CMD_OP) else s
    else
      let s := recordErr { s with restarting := setIns (d + 8) s.restarting } pgSec 0x1415 d
      raiseCause s ⟨7, d, 0x14, 0, 0x1415, d⟩

/-- The page of a block on a die whose ERR_FIRST holds a code: instance and tag; 0 where none does (R485). -/
def firstOf (s : State) (d code : Nat) : Nat × Nat :=
  let blk := code / 256
  match (blkInsts s.member d blk).find? (fun i =>
    getF s (pg d blk i) F.HDR_ERR_FIRST_VALID = 1 && getF s (pg d blk i) F.HDR_ERR_FIRST_CODE = code) with
  | some i => (i, getF s (pg d blk i) F.HDR_ERR_FIRST_TAG)
  | none => (0, 0)

/-- A write of FLT_ASSERT (R487): by the die's own Uzoid core alone. -/
def assertWrite (s : State) (w : Writer) (d : Nat) (v : W64) : State :=
  if w ≠ .uzoid d then recordErr s (pgFlt d) 0x1805 (pgFlt d + 0xA0)
  else
    let code := if fld v 0 16 = 0 then 0x1812 else fld v 0 16
    let (inst, tag) := firstOf s d code
    raiseCause s ⟨7, d, code / 256, inst, code, tag⟩

/-- A write of FLT_RECCLR (R489). -/
def recClear (s : State) (d : Nat) (v : W64) : State :=
  if !bitOf v 0 then s
  else if faulted s then recordErr s (pgFlt d) 0x1805 (pgFlt d + 0x140)
  else showRecord s d (List.replicate 8 0)

/-! ## The commands -/

/-- FAULT_ENTRY (R480). -/
def execFaultEntry (die cause : Nat) (s : State) : Res := onObj (hasDie s die) s (enterFaulted s die cause)

/-- SECONDARY_FAULT (R480). -/
def execSecondaryFault (die cause : Nat) (s : State) : Res := onObj (hasDie s die) s (secondary s die cause)

/-- FAULT_RECORD (R485). -/
def execFaultRecord (s : State) : Res := .next (recordFault s)

/-- JOB_RESET (R483). -/
def execJobReset (_w : Writer) (v : W64) (s : State) : Res := .next (jobResetWrite s v)

/-- RESET_DONE (R483). -/
def execResetDone (s : State) : Res := .next (endJobReset s)

/-- CHECKPOINT_FENCE (R488). -/
def execCheckpointFence (_w : Writer) (v : W64) (s : State) : Res := .next (fenceGo (fenceLet s v) v)

/-- FENCE_DONE (R488). -/
def execFenceDone (s : State) : Res := .next (fenceEnd s)

/-- FENCE_RELEASE_WRITE (R488). -/
def execFenceReleaseWrite (_w : Writer) (v : W64) (s : State) : Res := .next (fenceGo (fenceLet s v) v)

/-- WDOG_KICK (R486). -/
def execWdogKick (_w : Writer) (die : Nat) (v : W64) (s : State) : Res := onPage (hasDie s die) (pgFlt die + 0x98) s (wdogWrite s die v)

/-- WDOG_EXPIRED (R486). -/
def execWdogExpired (die : Nat) (s : State) : Res := onObj (hasDie s die) s (expire s die)

/-- CORE_RESTART_DONE (R500). -/
def execCoreRestartDone (die : Nat) (copyOk : Bool) (s : State) : Res := onObj (hasDie s die) s (restarted s die copyOk)

/-- FLT_ASSERT (R487). -/
def execFltAssert (w : Writer) (die : Nat) (v : W64) (s : State) : Res := onPage (hasDie s die) (pgFlt die + 0xA0) s (assertWrite s w die v)

/-- RECCLR (R489). -/
def execRecclr (_w : Writer) (die : Nat) (v : W64) (s : State) : Res := onPage (hasDie s die) (pgFlt die + 0x140) s (recClear s die v)

end Sys2Proof.Machine
end

