-- ==== Sys2Proof/Machine/Boot.lean ====
section
/-! DEFINITION. Resets of the part and its boot (R453, R484, R491 to R499), bounded-write commits (R509 to R511), the owner key (R506,
R507), attestation (R505) and CDAT (R441). -/
namespace Sys2Proof.Machine

/-! ## What a reset leaves (R484) -/

/-- The stacks HELD in self-refresh. -/
def heldStacks (s : State) : List Nat := (List.range s.member.stackCount).filter (fun st => srState s st = 2)

/-- Whether an address lies in one of the stacks. -/
def inStacks (l : List Nat) (a : Nat) : Bool := l.contains (a / 2 ^ 36)

/-- What of a stack's base die survives a reset: KEEP_EFF and SR_STATE (R96). -/
def keepHeld (old s : State) (st : Nat) : State :=
  let k := pgStk s.member st
  let s := setF (setF s k F.STK_SRCTL_KEEP_EFF (getF old k F.STK_SRCTL_KEEP_EFF)) k F.STK_SRCTL_SR_STATE 2
  s.updStack st (fun x => { x with bootHeld := true, heldUs := (old.stack st).heldUs })

/-- The part with every C-die reset (R453, R484): the flash, the module's inputs and the DRAM of the stacks in `held` stay. -/
def diesDown (s : State) (held : List Nat) : State :=
  let hist := held.contains 0 && bit (getF s (pgStk s.member 0) F.STK_SRCTL_KEEP_EFF) 0
  { State.reset with
    pending := s.pending
    member := s.member
    mem := s.mem.filter (fun p => inStacks held p.1)
    poison := s.poison.filter (fun k => inStacks held (k * 64))
    flips := s.flips.filter (fun p => inStacks held (p.1 * 64))
    slotErrs := s.slotErrs.filter (fun p => inStacks held (p.1 * 2048))
    cxl := { slots := s.cxl.slots }
    history := if hist then s.history else []
    entries := if hist then s.entries else 0
    flash := s.flash
    board := s.board
    us := s.us
    drawn := s.drawn
    out := s.out }

/-- Every C-die reset, and what self-refresh keeps of the base dies (R96, R453, R484). -/
def resetDies (s : State) (held : List Nat) : State := forEach (diesDown s held) held (keepHeld s)

/-! ## Boot (R493) -/

/-- What a slot fails of R497, if anything, given the check of its body: none where it verifies. Which check stops a slot that holds
no image is open. -/
def slotFails (s : State) (k : Nat) (bodyOk : Bool) : Option Nat × State :=
  match slotImage s k with
  | none => let (w, s) := s.draw; (some (w.toNat % 6 + 1), s)
  | some img =>
    match imageFails s img with
    | some n => (some n, s)
    | none => (if bodyOk then none else some 5, s)

/-- Verification of a slot at boot, a failure recorded (R493, R513). -/
def verifySlot (s : State) (k : Nat) (bodyOk : Bool) : Bool × State :=
  let (f, s) := slotFails s k bodyOk
  match f with
  | none => (true, s)
  | some n => (false, recordErr s pgSec 0x1410 (k + n * 16))

/-- The CXL core comes up (R452, R493 step 5, R495). -/
def cxlUp (s : State) : State :=
  let s := setB (setF s pgCxl F.CXL_LINK_STATE 1) pgCxl F.CXL_MEM_INFO_VALID true
  { s with cxl := { s.cxl with configReady := true } }

/-- A boot that cannot complete stops in RECOVERY (R495). -/
def recovery (s : State) (code : Nat) : State := cxlUp (setF (setF s pgSec F.SEC_BOOT_STATE 5) pgSec F.SEC_BOOT_FAIL_CODE code)

/-- The sizes of the torus (R405). -/
def torus : Member → List Nat
  | .zh2 => [4, 16]
  | _ => [4, 4, 4]

/-- The coordinates of a part number (R406). -/
def coords : List Nat → Nat → List Nat
  | [], _ => []
  | n :: r, p => p % n :: coords r (p / n)

/-- The ports of the default route from part `a` to part `b` (R422); none where they are the same part. -/
def defaultRoute (m : Member) (a b : Nat) : Option (Nat × Nat) :=
  let dims := ((coords (torus m) a).zip (coords (torus m) b)).zip ((torus m).zip (List.range 3))
  match dims.find? (fun d => d.1.1 ≠ d.1.2) with
  | none => none
  | some ((x, y), (n, i)) =>
    let plus := m.dirs.getD (2 * i) []
    let minus := m.dirs.getD (2 * i + 1) []
    let k := (y + n - x) % n
    let pair (l : List Nat) : Nat × Nat := (l.headD 0, l.getLastD 0)
    some (if 2 * k < n then pair plus else if n < 2 * k then pair minus else (plus.headD 0, minus.getLastD 0))

/-- The default routing table (R422). -/
def loadRoutes (s : State) : State :=
  let me := getF s pgSync F.SYNC_PARTID_PART
  forEach s (List.range 64) (fun s d =>
    let s := setB s pgSync F.SYNC_ROUTE_VALID true d
    match defaultRoute s.member me d with
    | none => setB s pgSync F.SYNC_ROUTE_SELF true d
    | some (a, b) => setF (setF s pgSync F.SYNC_ROUTE_PORT_A a d) pgSync F.SYNC_ROUTE_PORT_B b d)

/-- The ports whose link wraps a ring (R414). -/
def datelinePorts (m : Member) (me : Nat) : List Nat :=
  (((coords (torus m) me).zip (torus m)).zip (List.range 3)).flatMap (fun d =>
    (if d.1.1 + 1 = d.1.2 then m.dirs.getD (2 * d.2) [] else []) ++ (if d.1.1 = 0 then m.dirs.getD (2 * d.2 + 1) [] else []))

/-- The DATELINE settings (R414). -/
def loadDatelines (s : State) : State :=
  forEach s (datelinePorts s.member (getF s pgSync F.SYNC_PARTID_PART)) (fun s p => setB s (pgVyl s.member p) F.VYL_CFG_DATELINE true)

/-- The contents of the library store and of every die's instruction memory that an image brings. -/
def loadStores (s : State) (img : FwImage) : State :=
  { s with
    lib := mwrite [] 0 (img.libStore.take (2 ^ 18))
    routines := img.routines.take (2 ^ 14)
    imem := (List.range s.member.dies).foldl (fun m d => mwrite m (2 ^ 20 * d) (img.imem.take (2 ^ 20))) [] }

/-- The library and the instruction memories of an image (R348, R360, R493 step 7). -/
def loadImage (s : State) (img : FwImage) : State :=
  let s := loadStores s img
  let lib := img.library.filter (fun e => decide (e.1 < 256))
  let s := setF s pgLib F.LIB_INFO_VERSION img.libVersion.toNat
  let s := setF s pgLib F.LIB_INFO_SEQ_ROUTINES ((lib.map (·.1)).eraseDups.length)
  forEach s lib (fun s e =>
    setB (setF (setF s pgLib F.LIB_ENTRY_OFFSET e.2.1 e.1) pgLib F.LIB_ENTRY_LENGTH e.2.2 e.1) pgLib F.LIB_ENTRY_VALID true e.1)

/-- The firmware copied to every die, and the cores started on it (R493 step 5). -/
def coresUp (s : State) (img : FwImage) : State :=
  { s with uzoids := (List.range s.member.dies).foldl (fun k d => tset {} k d (startCore { copy := img.core })) [] }

/-- Every tile ungated and zeroed, its routine store written (R350), and every watchdog kicked. -/
def tilesUp (s : State) (img : FwImage) : State :=
  { s with
    tiles := (List.range s.member.tiles).map (fun t => (t, { gated := false, store := img.routines.take (2 ^ 14) }))
    kicks := (List.range s.member.dies).foldl (fun k d => tset 0 k d s.us) [] }

/-- A stack's turn in the training of its die (R141): it is set in TEST. -/
def beginTraining (s : State) (st : Nat) : State := setB s (pgCal s.member st) F.CAL_TRCTL_TEST true

/-- Training is through with a stack: it has passed, failed, or waits for its end-to-end check. -/
def Stack.through (x : Stack) : Bool := x.trained || x.trainFailed || x.coded

/-- The stacks of a die before the one whose turn it is, and that one (R141: each in turn). -/
def nextToTrain (s : State) (die : Nat) : Option Nat :=
  ((List.range s.member.stackCount).filter (fun st => s.member.stackDie st = die)).find? (fun st => !(s.stack st).through)

/-- The Fallow entries stored in the flash redirect their rows (R131, R493 step 6). -/
def storedFallow (s : State) : State :=
  forEach s (List.range s.member.stackCount) (fun s st => s.updStack st (fun x => { x with
    redirected := ((fallowEntries s st).filter (fun p => bitOf p.2 63)).map (·.1) }))

/-- Firmware runs on every die (R493 steps 5 to 7, 9): the pages enabled and the islands ungated, the class at the ceiling and the
balance at the depth, the ports in training. -/
def firmwareUp (s : State) (img : FwImage) : State :=
  let s := cxlUp { s with enabled := true }
  let s := setF (setF s pgSec F.SEC_FW_VERSION img.version.toNat) pgSec F.SEC_FW_SVN img.svn
  let s := tilesUp (coresUp s img) img
  let s := loadDatelines (loadRoutes (loadImage s img))
  let c := fld (bwVal s (pgLedg + 0x88)) 0 2
  let s := setBalance (setF s pgLedg F.LEDG_CLASS_CLASS c) (classDepth s.member c)
  let s := forEach s (List.range s.member.ports) (fun s p => startTraining s p 3)
  let s := forEach (storedFallow s) (List.range s.member.dies) (fun s d => match nextToTrain s d with
    | some st => beginTraining s st
    | none => s)
  setF s pgSec F.SEC_BOOT_STATE 3

/-- The part key is rebuilt, or it is not (R504). -/
def rebuildKey (s : State) (ok : Bool) : State :=
  if ok then setF s pgSec F.SEC_KEY_STATE 1 else event (setF s pgSec F.SEC_KEY_STATE 2) pgSec 5

/-- Boot from a verified slot (R493 steps 3 to 7). -/
def bootFrom (s : State) (b : BootIn) (k : Nat) : State :=
  match slotImage s k with
  | none => s
  | some img =>
    let s := setF s pgSec F.SEC_BOOT_SLOT k
    if !b.storeOk then recovery (recordErr s pgSec 0x1414 0) 0x1414
    else
      let s := rebuildKey s b.keyOk
      match b.copyFail.filter (· < s.member.dies) with
      | some d => recovery (recordErr s pgSec 0x1415 d) 0x1415
      | none => firmwareUp s img

/-- Every fabric edge reads up (R396, R493 step 1). -/
def edgesUp (s : State) : State :=
  forEach s (List.range s.member.dies) (fun s d =>
    forEach s ((List.range 4).filter (fun e => (s.member.edgePeer d e).isSome)) (fun s e => setF s (pgFab d e) F.FAB_EDGE_STATE 2))

/-- Boot (R493): the activated slot, or the other where it fails. -/
def boot (s : State) (b : BootIn) : State :=
  let s := edgesUp s
  let a := s.flash.activated
  let (ok, s) := verifySlot s a b.slotOk
  if ok then bootFrom s b a
  else
    let s := event (setB s pgSec F.SEC_BOOT_FALLBACK true) pgSec 1
    let (ok, s) := verifySlot s (1 - a) b.otherOk
    if ok then bootFrom s b (1 - a) else recovery s 0x1410

/-- PERST# asserted (R453, R484). -/
def perstDown (s : State) : State :=
  let s := { s with board := { s.board with perst := true } }
  if s.board.mainOn then resetDies s (heldStacks s) else s

/-- PERST# deasserted (R493); while PWR_OK is low it takes effect when PWR_OK rises (R520). -/
def perstUp (s : State) (b : BootIn) : State :=
  if !s.board.perst then s
  else
    let s := { s with board := { s.board with perst := false } }
    if s.board.mainOn then boot s b else s

/-! ## Boot training and Memory_Active (R141 to R144, R452) -/

/-- A stack written with zeros, as a reformat writes it (R493 step 6). -/
def zeroStack (s : State) (st : Nat) : State :=
  let base := 2 ^ 36 * st
  let s := s.clrMem base (2 ^ 36)
  let s := { s with
    poison := s.poison.filter (fun k => k / 2 ^ 30 ≠ st)
    flips := tclr s.flips (base / 64) (2 ^ 36 / 64)
    slotErrs := tclr s.slotErrs (base / 2048) (2 ^ 36 / 2048) }
  charge s (pgStk s.member st) 7 (65536 * 512)

/-- A stack leaves TEST, and the next of its die begins (R141 step 10). -/
def endTraining (s : State) (st : Nat) : State :=
  let s := admitStack (setB s (pgCal s.member st) F.CAL_TRCTL_TEST false) st
  match nextToTrain s (s.member.stackDie st) with
  | some k => beginTraining s k
  | none => s

/-- The end of a stack's training (R141 to R143): its result, and zeros in a stack that did not boot HELD, ACTIVE from here on. -/
def concludeTraining (s : State) (st : Nat) (bad : Option (Nat × Nat)) : State :=
  let s := match bad with
    | some (ch, w) => trainingFailed s st ch w
    | none => setF (s.updStack st (fun x => { x with trained := true })) (pgCal s.member st) F.CAL_TRSTAT_RESULT 1
  endTraining (if (s.stack st).bootHeld then s else firstActive (zeroStack s st) st) st

/-- Boot training of a stack completes (R141 to R144), in its turn. A stack that boots HELD and keeps nothing is trained but for its
core dies, then taken out of self-refresh; its end-to-end check runs once it is ACTIVE, at a second completion. -/
def stackTrained (s : State) (st : Nat) (r : TrainOut) : State :=
  let x := s.stack st
  let sr := srState s st
  let check := r.check.filter (· < 2048)
  if getF s pgSec F.SEC_BOOT_STATE ≠ 3 || x.trained || x.trainFailed || (sr ≠ 0 && sr ≠ 2) then s
  else if x.coded then (if sr = 0 then concludeTraining s st (firstRejected [] [] check) else s)
  else if nextToTrain s (s.member.stackDie st) ≠ some st then s
  else
    let (wires, s) := wireTraining s st r
    if sr = 2 && getF s (pgStk s.member st) F.STK_SRCTL_KEEP_EFF = 0 then
      (match firstRejected wires [] [] with
       | some b => concludeTraining s st (some b)
       | none =>
         srctlWrite (endTraining (s.updStack st (fun x => { x with coded := true })) st) st (BitVec.ofNat 64 (2 ^ 17)))
    else
      let (tsv, s) := tsvTraining s st (poweredDies s st) r.tsv
      concludeTraining s st (firstRejected wires tsv check)

/-- Memory_Active rises (R142, R452, R493 step 8); BOOT.STATE reaches ACTIVE with it. -/
def raiseActive (s : State) : State :=
  let ready (st : Nat) : Bool := !(s.stack st).trainFailed && ((s.stack st).trained || srState s st = 2)
  if getF s pgSec F.SEC_BOOT_STATE ≠ 3 || !(List.range s.member.stackCount).all ready then s
  else
    let s := event (setB s pgCxl F.CXL_MEM_ACTIVE true) pgCxl 2
    let s := event (setF s pgSec F.SEC_BOOT_STATE 4) pgSec 0
    { s with board := { s.board with sinceBoot := s.us } }

/-! ## Bounded-write settings of the SEC page (R498, R507) -/

/-- A write of SEC_ARB.VERSION (R498). -/
def arbWrite (s : State) (w : Writer) (v : W64) : State :=
  let n := fld v 0 7
  bwAccept s w (pgSec + 0x90) 6 0 0 (BitVec.ofNat 64 n) [] (if n = arbVersion s + 1 then 0 else 0x1412)

/-- Firmware raises the anti-rollback counter one step (R498). -/
def arbRaise (s : State) : State :=
  if memActive s && !leadDown s && 60000000 ≤ elapsed s s.board.sinceBoot && arbVersion s < getF s pgSec F.SEC_FW_SVN then
    arbWrite s (.uzoid 0) (BitVec.ofNat 64 (arbVersion s + 1))
  else s

/-- The words of an indexed register of the SEC page. -/
def secWords (s : State) (f : RegF) : List W64 := (List.range f.cnt).map (fun i => BitVec.ofNat 64 (getF s pgSec f i))

/-- The owner-key hash: six words, zeros where none is set (R506). -/
def ownerHash (s : State) : List W64 := (List.range 6).map (fun i => s.flash.owner.getD i 0)

/-- A write of SEC_OWNER_CTL (R507): `sigOk` says whether the staged signature is the owner's. -/
def ownerCommit (s : State) (w : Writer) (v : W64) (sigOk : Bool) : State :=
  let hash := secWords s F.SEC_OWNER_STAGE
  if !bitOf v 0 || hash = ownerHash s then s
  else bwAccept s w (pgSec + 0xA0) 2 0 0 0 hash (if ownerSet s && !sigOk then 0x1413 else 0)

/-- Whether the signature in SEC_OWNER_AUTH is the owner's over the staged hash and the serial number (R507). -/
def ownerAuth (s : State) : Bool :=
  Config.ownerSigned (ownerHash s) (secWords s F.SEC_OWNER_STAGE ++ [s.flash.serial]) (secWords s F.SEC_OWNER_AUTH)

/-! ## Commits (R509 to R511) -/

/-- The signature words of a log record, which the model leaves open: one draw for each. -/
def drawn (s : State) : Nat → List W64 × State
  | 0 => ([], s)
  | n + 1 => let (w, s) := s.draw; let (l, s) := drawn s n; (w :: l, s)

/-- A log record (R511). -/
def bwRecord (s : State) (p : BwPend) (seq left : Nat) (old : W64) (sign : List W64) : List W64 :=
  [BitVec.ofNat 64 (seq % 2 ^ 32 + p.id % 2 ^ 8 * 2 ^ 32 + p.stack % 2 ^ 8 * 2 ^ 40 + p.entry % 2 ^ 16 * 2 ^ 48), old, p.value,
    BitVec.ofNat 64 (left % 2 ^ 8 + p.writer % 2 ^ 8 * 2 ^ 8 + s.us % 2 ^ 48 * 2 ^ 16)]
    ++ (List.range 6).map (fun i => p.hash.getD i 0) ++ [0, 0] ++ sign

/-- What a committed setting starts (R108, R133, R462, R506, R513). -/
def bwEffect (s : State) (p : BwPend) (old : W64) : State :=
  match p.id with
  | 1 => ceilingCommitted s (fld p.value 0 2)
  | 2 => event { s with flash := { s.flash with owner := p.hash } } pgSec 3
  | 3 => cxlEvent (startReformat s p.stack (fld old 0 2)) 2 p.stack false
  | 4 => fallowCommitted s p.stack p.entry
  | 5 => fallowCommitted s p.stack (256 + p.entry)
  | 6 => event s pgSec 4
  | _ => s

/-- A setting in the flash: its value, one more change used, and a record appended to the log (R508, R511). -/
def bwStore (s : State) (p : BwPend) (old : W64) (sign : List W64) : State :=
  let used := bwUsed s p.id p.stack p.entry + 1
  let f := s.flash
  let record := bwRecord s p f.log.length (bwLimit p.id - used) old sign
  { s with flash := { f with
    log := f.log ++ [record]
    used := tset (if p.id = 1 && s.member = .zh8a then 16 else 0) f.used (bwSlot p.id p.stack p.entry) used
    store := if p.id = 2 then f.store else
      tset (if p.off = pgLedg + 0x88 then BitVec.ofNat 64 (ceilingDefault s.member) else 0) f.store p.off p.value } }

/-- The oldest waiting bounded write is committed, no sooner than 10 ms after it arrived (R53, R509). -/
def bwCommit (s : State) : State :=
  match s.bwq with
  | [] => s
  | p :: rest =>
    if elapsed s p.us < 10000 then s
    else
      let old := bwVal s p.off
      let (sign, s) := drawn { s with bwq := rest } 12
      let s := bwStore s p old sign
      bwEffect (event s pgSec 2) p old

/-! ## Attestation and CDAT (R441, R505) -/

/-- There is no part key to sign with (R504). -/
def keyFailed (s : State) : Bool := getF s pgSec F.SEC_KEY_STATE ≠ 1

/-- A measurement (R505), none where the index is not reported. -/
def measurement (s : State) (i : Nat) : Option (List W64) :=
  let img := (runningSlot s).bind (slotImage s)
  let header := img.elim [] (fun x => [BitVec.ofNat 64 (x.version.toNat + 2 ^ 32 * x.svn)])
  match i with
  | 1 => some (Config.sha384 1 [])
  | 2 => some (Config.sha384 2 header)
  | 3 => some (Config.sha384 3 (img.elim [] (fun x => leWords (x.imem ++ x.libStore))))
  | 4 => some [BitVec.ofNat 64 (getF s pgSec F.SEC_FW_SVN + arbVersion s * 256)]
  | 5 => some (Config.sha384 5 (s.flash.store.flatMap (fun p => [BitVec.ofNat 64 p.1, p.2]) ++ ownerHash s))
  | 6 => some (Config.sha384 6 (s.flash.ident.flatMap (fun p => BitVec.ofNat 64 p.1 :: p.2)))
  | 7 => some (ownerHash s)
  | _ => none

/-- An SPDM request over DOE (R505): the response code, and what the part key signs. -/
def spdm (s : State) (r : Spdm) : State :=
  let say (kind : Nat) (signed : Bool) (l : List W64) : State := s.emit (.spdm kind signed l)
  let err (n : Nat) : State := say 0x7F false [BitVec.ofNat 64 n]
  if !s.cxl.configReady then s
  else match r with
    | .getVersion => say 0x04 false [0x12]
    | .getCapabilities => say 0x61 false []
    | .negotiateAlgorithms => say 0x63 false []
    | .getDigests => say 0x01 false (Config.sha384 0 s.flash.chain)
    | .getCertificate slot => if slot = 0 then say 0x02 false s.flash.chain else err 0x01
    | .challenge => if keyFailed s then err 0x05 else say 0x03 true (Config.sha384 0 s.flash.chain)
    | .getMeasurements i =>
      if keyFailed s then err 0x05
      else if i = 0 then say 0x60 true [7]
      else if i = 255 then say 0x60 true ((List.range 8).flatMap (fun k => (measurement s k).getD []))
      else match measurement s i with
        | some l => say 0x60 true l
        | none => err 0x01
    | .other => err 0x07

/-- The DSMAS entries of CDAT (R441): DPA base and length of each stack's data rows. -/
def cdatEntries (s : State) : List (Nat × Nat) :=
  (List.range s.member.stackCount).map (fun st =>
    let lo := if st = 0 then 0 else 2 ^ 36 * st - 2 ^ 31
    (lo, 2 ^ 36 * st + holeRow (strength s st) * 2 ^ 20 - 2 ^ 31 - lo))

/-! ## The commands -/

/-- PERST_ASSERT (R453, R484). -/
def execPerstAssert (s : State) : Res := .next (perstDown s)

/-- PERST_DEASSERT (R493). -/
def execPerstDeassert (b : BootIn) (s : State) : Res := .next (perstUp s b)

/-- STACK_TRAINED (R141). -/
def execStackTrained (stack : Nat) (res : TrainOut) (s : State) : Res := onObj (hasStack s stack) s (stackTrained s stack res)

/-- MEMORY_ACTIVE (R452). -/
def execMemoryActive (s : State) : Res := .next (raiseActive s)

/-- ARB_RAISE (R498). -/
def execArbRaise (s : State) : Res := .next (arbRaise s)

/-- SEC_ARB_WRITE (R498). -/
def execSecArbWrite (w : Writer) (v : W64) (s : State) : Res := .next (arbWrite s w v)

/-- OWNER_COMMIT (R507). -/
def execOwnerCommit (w : Writer) (v : W64) (sigOk : Bool) (s : State) : Res := .next (ownerCommit s w v sigOk)

/-- BW_COMMIT (R509). -/
def execBwCommit (s : State) : Res := .next (bwCommit s)

/-- SPDM_REQUEST (R505). -/
def execSpdmRequest (r : Spdm) (s : State) : Res := .next (spdm s r)

/-- CDAT_REQUEST (R441). -/
def execCdatRequest (s : State) : Res := .next (if s.cxl.configReady then s.emit (.cdat (cdatEntries s)) else s)

end Sys2Proof.Machine
end

