-- ==== Sys2Proof/Machine/Board.lean ====
section
/-! DEFINITION. The module: its power inputs, the junction protection and the sideband (R519 to R526). -/
namespace Sys2Proof.Machine

/-- Main power goes (R484, R519): the part loses everything but its flash, and PWR_OK falls. -/
def powerOff (s : State) : State :=
  if !s.board.mainOn then s
  else
    let b := s.board
    let s := { resetDies s [] with us := 0, board := { b with mainOn := false } }
    (s.emit (.pwrOk false)).pldm 3

/-- A removal of the main input (R519). -/
def removeMain (s : State) (why : Removal) : State :=
  let s := match why with
    | .pwrdis => { s with board := { s.board with pwrdis := true } }
    | .undervoltage => s
  powerOff s

/-- The main input in range with PWRDIS deasserted (R519): PWR_OK rises, part time begins, and a PERST# that is deasserted takes effect
(R520). -/
def applyMain (s : State) (b : BootIn) : State :=
  if s.board.mainOn then s
  else
    let s := { s with us := 0, board := { s.board with mainOn := true, pwrdis := false } }
    let s := s.emit (.pwrOk true)
    if s.board.perst then s else boot s b

/-- A junction reading in °C (R526). -/
def junction (s : State) (die reading : Nat) : State :=
  if reading < 120 || !s.board.mainOn then s
  else powerOff { s with board := { s.board with protectedBy := setIns die s.board.protectedBy } }

/-- PART.STATUS.STATE (R60): the state of the part as a whole. -/
def partState (s : State) : Nat :=
  if faulted s then 4
  else if !s.enabled then 0
  else if getF s pgSec F.SEC_BOOT_STATE = 3 then 6
  else if s.running.isSome || (List.range s.member.dies).any (fun d => !seqIdle s d) then 2
  else 1

/-- The sensors of R522: main voltage, current and power, auxiliary voltage, package power, highest and each stack temperature,
each junction, coolant outlet, part state; none where a sensor's rail is off, and no coolant sensor on the ZH8-1280A. -/
def sensorValues (s : State) (mainMv mainMa auxMv coolant : Nat) (junctions : List Nat) : List (Option Nat) :=
  let main (x : Nat) : Option Nat := if s.board.mainOn then some x else none
  let temps := (List.range s.member.stackCount).map (fun st => getF s (pgStk s.member st) F.STK_TEMP_CUR)
  [main mainMv, main mainMa, main (mainMv * mainMa / 1000000), some auxMv, main (getF s pgLedg F.LEDG_BASE_PKG_W),
    main (temps.foldl Nat.max 0)]
    ++ temps.map main ++ (List.range s.member.dies).map (fun d => main (junctions.getD d 0))
    ++ (if s.member = .zh8a then [] else [main coolant]) ++ [main (partState s)]

/-- The ordering code's place in the family (R5, R522). -/
def memberNo : Member → Nat
  | .zh8c => 0
  | .zh8a => 1
  | .zh4 => 2
  | .zh2 => 3

/-! ## The commands -/

/-- MAIN_INPUT_REMOVAL (R519). -/
def execMainInputRemoval (why : Removal) (s : State) : Res := .next (removeMain s why)

/-- MAIN_INPUT_APPLIED (R519). -/
def execMainInputApplied (b : BootIn) (s : State) : Res := .next (applyMain s b)

/-- AUX_INPUT_CHANGE (R519). -/
def execAuxInputChange (on : Bool) (s : State) : Res := .next { s with board := { s.board with auxOn := on } }

/-- JUNCTION_PROTECTION (R526). -/
def execJunctionProtection (die reading : Nat) (s : State) : Res := onObj (hasDie s die) s (junction s die reading)

/-- SIDEBAND_SENSOR_REPORT (R522): only with auxiliary power. -/
def execSidebandSensorReport (mainMv mainMa auxMv coolant : Nat) (junctions : List Nat) (s : State) : Res :=
  .next (if s.board.auxOn then
      let l := sensorValues s mainMv mainMa auxMv coolant junctions
      { s.emit (.sensors l) with board := { s.board with readings := l } }
    else s)

/-- SIDEBAND_REQUEST (R522): monitoring is answered with the readings taken last; no other message type is answered. -/
def execSidebandRequest (r : Sideband) (s : State) : Res :=
  .next (if !s.board.auxOn then s
    else match r with
      | .fru => s.emit (.fru (memberNo s.member) s.flash.serial (getF s pgSec F.SEC_FW_VERSION))
      | .monitoring => s.emit (.sensors s.board.readings)
      | .other => s)

end Sys2Proof.Machine
end

