-- ==== Sys2Proof/Machine/Read.lean ====
section
/-! DEFINITION. What a register reads (R51, R52, R55, R56, R63, R64 and the register tables): the stored value, with the fields that
the hardware computes. -/
namespace Sys2Proof.Machine

/-! ## Objects of a page -/

/-- The stack of a page of a stack-level block. -/
def pageStack (m : Member) (p : Page) : Nat :=
  (m.dieStacks p.die).getD (if p.blk = 0x06 || p.blk = 0x08 then p.inst / 32 else p.inst) 0

/-- The channel of a DCTL or SRL page. -/
def pageCh (p : Page) : Nat := p.inst % 32

/-- The tile of a TILE, LCB or DMA page. -/
def pageTile (p : Page) : Nat := p.die * 64 + (if p.blk = 0x04 then p.inst / 2 else p.inst)

/-- The blocks of the tile island. -/
def tileBlk (blk : Nat) : Bool := blk = 0x03 || blk = 0x04 || blk = 0x05

/-- The island of a page is power-gated (R55, R528). -/
def pageGated (s : State) (p : Page) : Bool :=
  if tileBlk p.blk then (s.tile (pageTile p)).gated
  else if p.blk = 0x08 then !pageEnabled s (pgBase p)
  else false

/-! ## STATUS.STATE (R60) -/

/-- A tile has work of a kind in hand: MX, drain, vector, DMA, SRL (R250). -/
def tileBusy (s : State) (t : Nat) : List Bool :=
  let k := s.tile t
  let ve := !k.ves.buf.isEmpty || !k.ves.queue.isEmpty || k.ves.routine.isSome
  [k.mxBusy, k.drainBusy, ve, (List.range 4).any (fun c => chSt s t c ≠ 0), !k.srlOut.isEmpty]

/-- 3 while a frozen block finishes its work, 1 once it has (R58). -/
def frozenState (busy : Bool) : Nat := if busy then 3 else 1

/-- STATUS.STATE of a page (R60 and the chapters). -/
def pageState (s : State) (p : Page) : Nat :=
  let frozen := getF s (pgBase p) F.HDR_CTRL_FREEZE = 1
  let st := pageStack s.member p
  if p.blk = 0x00 then partState s
  else if p.blk = 0x18 then 2
  else if p.blk = 0x14 then (if getF s pgSec F.SEC_BOOT_STATE = 4 then 2 else 6)
  else if p.blk = 0x0E then (match getF s pgCxl F.CXL_LINK_STATE with | 2 => 2 | 1 => 6 | _ => 0)
  else if p.blk = 0x0C && !faulted s then (match getF s (pgBase p) F.FAB_EDGE_STATE with | 2 => 2 | 1 => 6 | _ => 0)
  else if !pageEnabled s (pgBase p) || pageGated s p then 0
  else if tileBlk p.blk && (s.tile (pageTile p)).zeroing then 0
  else if faulted s && (jobScope p.blk || [0x0B, 0x0C, 0x0D].contains p.blk) then 4
  else match p.blk with
    | 0x01 => if s.restarting.contains p.die || s.restarting.contains (p.die + 8) then 0 else 2
    | 0x02 => match phaseRead s p.die with | 1 => 2 | 2 => 2 | 3 => 2 | 4 => 3 | _ => 1
    | 0x03 =>
      let busy := (tileBusy s (pageTile p)).any id
      if frozen then frozenState (s.tile (pageTile p)).mxBusy else if busy then 2 else 1
    | 0x04 => if (s.tile (pageTile p)).lcbLatched.any (fun k => k / 4 = p.inst % 2) then 2 else 1
    | 0x05 =>
      let t := pageTile p
      if frozen || getF s (pgTile t) F.HDR_CTRL_FREEZE = 1 then frozenState ((List.range 4).any (fun c => !(dch s t c).reads.isEmpty || !(dch s t c).writes.isEmpty))
      else if (List.range 4).any (fun c => chSt s t c ≠ 0) then 2 else 1
    | 0x06 => if queued s st (pageCh p) = 0 && chState s st (pageCh p) = 0 then 1 else 2
    | 0x08 =>
      if frozen then frozenState ((chUnits st (pageCh p)).any (fun i => unitRuns (s.unit i)))
      else if chState s st (pageCh p) ≠ 0 then 2 else 1
    | 0x09 => if reformatting s st || !(s.stack st).copies.isEmpty || getF s (pgBase p) F.ECC_PCSTAT_FLUSHING = 1 then 2 else 1
    | 0x0A => if inTest s st then 6 else 1
    | 0x0B => if getF s (pgBase p) F.ARB_HOLD_VALID = 1 then 2 else 1
    | 0x0D => match portState s p.inst with | 2 => 2 | 3 => 2 | 1 => 6 | 4 => 4 | _ => 0
    | 0x10 => if s.running.isSome then 2 else 1
    | 0x11 => if svcGlobal s then 1 else 5
    | 0x16 => if getF s (pgBase p) F.IMEM_LOADSTAT_BUSY = 1 || fetching s p.die then 2 else 1
    | 0x1A => if svcGlobal s then 1 else 5
    | _ => 1

/-! ## Pending maps (R63, R64) -/

/-- Dies on which a block holds an unmasked bit (R63). -/
def diePend (s : State) (off b : Nat) : Nat :=
  bitMap ((List.range 8).map (fun d => anyPend s off (fun p => p.blk = b && p.die = d && p.inst ≠ 255)))

/-- Register j of a summary page's map (R64). -/
def instPend (s : State) (p : Page) (off j : Nat) : Nat :=
  bitMap ((List.range 64).map (fun i => anyPend s off (fun q => q.blk = p.blk && q.die = p.die && q.inst = 64 * j + i && q.inst ≠ 255)))

/-- LEDGER_TAP of a page in µJ; the sum over the die's instances on a summary page (R56). -/
def tapUj (s : State) (p : Page) : Nat :=
  let tap (i : Nat) : Nat := tget 0 s.ledger.tap (pg p.die p.blk i)
  (if p.inst = 255 && p.blk ≠ 0 then ((blkInsts s.member p.die p.blk).map tap).sum else tap p.inst) / 10 ^ 9

/-! ## Windows (R48, R279, R286) -/

/-- Word w of an allocation's window entry (R286). -/
def allocWord (a : AllocE) (w : Nat) : Nat :=
  if !a.valid then 0
  else match w with
    | 0 => 1 + a.kind % 2 * 2 + (if a.kind = 1 then a.tile % 512 * 8 else 0) + a.refs % 2 ^ 32 * 2 ^ 32
    | 1 => a.base % 2 ^ 41
    | 2 => a.size % 2 ^ 41
    | _ => a.gen % 2 ^ 16

/-- A register of a window page. -/
def windowRead (s : State) (p : Page) (off : Nat) : Nat :=
  match p.blk with
  | 0x11 =>
    let d := s.desc (p.inst * 32 + off / 128)
    if dValid d then descW d (off % 128 / 8) else 0
  | 0x12 => allocWord (s.alloc ((p.inst - 1) * 128 + off / 32)) (off % 32 / 8)
  | _ => syncVal s ((p.inst - 1) * 512 + off / 8)

/-! ## Fields that the hardware computes -/

/-- Fields of a register, as low bit, width and value. -/
abbrev Fields := List (Nat × Nat × Nat)

/-- A field with a value. -/
def RegF.is (f : RegF) (x : Nat) : Nat × Nat × Nat := (f.lo, f.wid, x)

/-- The computed fields of the DCTL page (R99). -/
def readDctl (s : State) (p : Page) (off : Nat) : Fields :=
  let st := pageStack s.member p
  let c := s.chan st (pageCh p)
  let occ (k : Nat) : Nat := ((List.range 8).map (fun b => (c.bank (k + b)).queue.length * 2 ^ (8 * b))).sum
  match off with
  | 0x88 => [F.DCTL_CHSTAT_PARKED.is c.parked.length, F.DCTL_CHSTAT_QUEUED.is (queued s st (pageCh p)),
      F.DCTL_CHSTAT_OPEN.is (bitMap ((List.range 16).map (fun b => (c.bank b).openRow.isSome || unitRowOpen (s.unit (unitOf st (pageCh p) b)))))]
  | 0x90 => [F.DCTL_QOCC_LO.is (occ 0)]
  | 0x98 => [F.DCTL_QOCC_HI.is (occ 8)]
  | _ => []

/-- The computed fields of the ECC page (R134). -/
def readEcc (s : State) (p : Page) (off : Nat) : Fields :=
  let st := pageStack s.member p
  let e := pgBase p
  let used (lo hi : Nat) : Nat := (s.flash.store.filter (fun q => e + lo ≤ q.1 && q.1 < e + hi)).length
  if off = 0x80 then [F.ECC_STRENGTH_STRENGTH.is (committedStrength s st), F.ECC_STRENGTH_CHANGES_LEFT.is (bwLeft s 3 st 0)]
  else if off = 0xB0 then [F.ECC_PCSTAT_DIRTY_MAX.is (dirtyMax s st)]
  else if 0xD0 ≤ off && off < 0xF0 then
    [(0, 64, ((tget [] (s.stack st).log (getF s e F.ECC_LOGIDX_INDEX)).getD ((off - 0xD0) / 8) 0).toNat)]
  else if off = 0xF0 then [F.ECC_REBUILD_PENDING.is (s.stack st).rebuild.length]
  else if off = 0xF8 then [F.ECC_FALLOWSTAT_ROW_LEFT.is (256 - used 0x800 0x1000), F.ECC_FALLOWSTAT_BANK_LEFT.is (2 - used 0x100 0x110)]
  else if (0x100 ≤ off && off < 0x110) || 0x800 ≤ off then [(0, 64, (bwVal s (e + off)).toNat)]
  else []

/-- WIREDATA of a data wire (R155). -/
def wireWord (x : Wire) : Nat :=
  x.readDly % 2 ^ 7 + x.writeDly % 2 ^ 7 * 2 ^ 7 + x.readRef % 2 ^ 6 * 2 ^ 14 + x.writeRef % 2 ^ 6 * 2 ^ 20 + x.duty % 2 ^ 4 * 2 ^ 26
    + x.margin % 2 ^ 6 * 2 ^ 30 + x.laneCe % 2 ^ 12 * 2 ^ 36 + x.steps % 2 ^ 16 * 2 ^ 48

/-- The key of a TSV bundle's delay: channel × 16 + core die. -/
def tsvKey (s : State) (st : Nat) : Nat :=
  getF s (pgCal s.member st) F.CAL_WIREIDX_CHANNEL * 16 + getF s (pgCal s.member st) F.CAL_WIREIDX_WIRE % 16

/-- The computed fields of the CAL page (R155). -/
def readCal (s : State) (p : Page) (off : Nat) : Fields :=
  let st := pageStack s.member p
  let c := pgBase p
  let x := s.stack st
  let key := getF s c F.CAL_TRCTL_CHANNEL * 64 + off % 512 / 8
  if off = 0xA8 then
    [(0, 64, if getF s c F.CAL_WIREIDX_KIND = 1 then tget 16 x.tsv (tsvKey s st)
      else wireWord (wireOf s st (getF s c F.CAL_WIREIDX_CHANNEL) (getF s c F.CAL_WIREIDX_WIRE)))]
  else if 0x800 ≤ off && off < 0xA00 then [F.CAL_CMPCNT.is (tget 0 x.cmp key)]
  else if 0xA00 ≤ off && off < 0xC00 then
    let w := tget (0, 0, false) x.sweep key
    [F.CAL_SWEEPLOG_LEFT.is w.1, F.CAL_SWEEPLOG_RIGHT.is w.2.1, F.CAL_SWEEPLOG_FOUND.is (b2n w.2.2)]
  else []

/-- The computed fields of the SRL page (R181, R185). -/
def readSrl (s : State) (p : Page) (off : Nat) : Fields :=
  let st := pageStack s.member p
  let us := (chUnits st (pageCh p)).map s.unit
  match off with
  | 0x80 => [F.SRL_UNITS_BUSY.is (bitMap (us.map (fun u => u.run.isSome))),
      F.SRL_UNITS_QUEUED.is (bitMap (us.map (fun u => !u.queue.isEmpty))), F.SRL_UNITS_HELD.is (bitMap (us.map (·.heldStart)))]
  | 0xA0 => [(0, 64, (s.reg (stackSrl s st + 0xA0)).toNat), F.SRL_ACT_MAX_EFFECTIVE.is (actMax s st),
      F.SRL_ACT_MAX_CLASS_DEFAULT.is (classAct (classNow s))]
  | 0xA8 => [(0, 64, (s.reg (stackSrl s st + 0xA8)).toNat), F.SRL_COL_GAP_EFFECTIVE.is (colGap s st)]
  | 0xB0 => [(0, 64, (s.reg (stackSrl s st + 0xB0)).toNat)]
  | _ => []

/-- The computed fields of the pages of a tile (R250, R323, R380). -/
def readTile (s : State) (p : Page) (off : Nat) : Fields :=
  let t := pageTile p
  let k := s.tile t
  if p.blk = 0x03 then (if off = 0x80 then [(0, 5, bitMap (tileBusy s t))] else [])
  else if p.blk = 0x04 then
    (if off = 0x80 then
      (List.range 4).flatMap (fun i => [(8 * i, 4, fld (s.reg (pgBase p + 0x400 + i * 0x200)) 0 4),
        (8 * i + 4, 1, b2n (k.lcbLatched.contains (p.inst % 2 * 4 + i)))])
    else if off = 0xC8 then [F.LCB_ASF_STAT_LEVEL.is k.asf.length] else [])
  else if off = 0x80 then [F.DMA_DSTAT_BUSY.is (bitMap ((List.range 4).map (fun c => decide (chSt s t c ≠ 0))))]
  else if 0x100 ≤ off && off % 64 = 0x10 then
    let i := (off - 0x100) / 64
    let c := dch s t i
    let held := getF s (pgDma t) F.HDR_CTRL_FREEZE = 1 || getF s (pgTile t) F.HDR_CTRL_FREEZE = 1
    [F.DMA_CH_STAT_STATE.is (if held && chSt s t i ≠ 0 && !(c.reads.isEmpty && c.writes.isEmpty) then 5 else chSt s t i),
      F.DMA_CH_STAT_DEPTH.is c.loops.length, F.DMA_CH_STAT_READS.is c.reads.length, F.DMA_CH_STAT_WRITES.is c.writes.length]
  else []

/-- The computed fields of the OWN page (R306). -/
def readOwn (s : State) (off : Nat) : Fields :=
  let i := getF s pgOwn F.OWN_SEL_TABLE
  let t := s.otab i
  if off = 0x90 then [F.OWN_MAP_PUBLISHED.is (bitMap ((List.range 32).map (fun j => decide ((s.otab j).state = 2))))]
  else if off = 0x100 then [(0, 8, fld t.cfg 0 8), F.OWN_T_CFG_COUNT.is t.count]
  else if 0x108 ≤ off && off < 0x120 then [(0, 64, (tget 0 t.block ((off - 0x108) / 8)).toNat)]
  else if 0x120 ≤ off && off < 0x130 then [(0, 60, (tget 0 t.grid ((off - 0x120) / 8)).toNat)]
  else if off = 0x130 then [(0, 41, t.src.toNat)]
  else if off = 0x140 then [F.OWN_T_RESULT_CODE.is t.code, F.OWN_T_RESULT_STATE.is t.state, F.OWN_T_RESULT_ENTRY.is t.failed]
  else if off = 0x148 then [F.OWN_T_CRC_CRC.is (if t.state = 2 then t.crc else 0), F.OWN_T_CRC_REMOTE_PAIRS.is t.pairs]
  else if off = 0x150 then
    [F.OWN_T_REFS_REMOTE_DESC.is (s.descs.countP (fun d => dValid d.2 && dKind d.2 = 2 && dTable d.2 = i))]
  else []

/-- The computed fields of the SEC page (R512). -/
def readSec (s : State) (off : Nat) : Fields :=
  if off = 0x80 then [F.SEC_BOOT_ACTIVATED.is s.flash.activated]
  else if off = 0x90 then [F.SEC_ARB_VERSION.is (arbVersion s), F.SEC_ARB_CHANGES_LEFT.is (bwLeft s 6 0 0)]
  else if off = 0xA0 then [F.SEC_OWNER_CTL_CHANGES_LEFT.is (bwLeft s 2 0 0), F.SEC_OWNER_CTL_SET.is (b2n (ownerSet s))]
  else if 0x100 ≤ off && off < 0x130 then [(0, 64, ((ownerHash s).getD ((off - 0x100) / 8) 0).toNat)]
  else if off = 0x200 then [F.SEC_BWLOG_STAT_RECORDS.is s.flash.log.length]
  else if 0x210 ≤ off && off < 0x2D0 then
    [(0, 64, ((s.flash.log.getD (getF s pgSec F.SEC_BWLOG_IDX_INDEX) []).getD ((off - 0x210) / 8) 0).toNat)]
  else if 0x308 ≤ off && off < 0x328 then
    [(0, 64, ((tget [] s.flash.ident (getF s pgSec F.SEC_ID_IDX_INDEX)).getD ((off - 0x308) / 8) 0).toNat)]
  else if off = 0x328 then [F.SEC_SERIAL.is s.flash.serial.toNat]
  else []

/-- The computed fields of a page's register. -/
def computed (s : State) (p : Page) (off : Nat) : Fields :=
  if off = 0x10 then [F.HDR_CTRL_ENABLE.is (b2n (pageEnabled s (pgBase p)))]
  else if off = 0x18 then [F.HDR_STATUS_STATE.is (pageState s p)]
  else if off = 0x58 then [F.HDR_LEDGER_TAP_UJ.is (tapUj s p)]
  else if off < 0x80 then []
  else match p.blk with
    | 0x00 =>
      if off = 0x88 then [F.PART_ERR_PEND.is (bitMap ((List.range 27).map (blkPend s 0x20)))]
      else if off = 0x90 then [F.PART_EVT_PEND.is (bitMap ((List.range 27).map (blkPend s 0x40)))]
      else if 0x100 ≤ off && off < 0x1D8 then
        [F.PART_BLK_PEND_ERR.is (diePend s 0x20 ((off - 0x100) / 8)), F.PART_BLK_PEND_EVT.is (diePend s 0x40 ((off - 0x100) / 8))]
      else []
    | 0x02 => if off = 0x98 then [F.SEQ_STAT_PHASE.is (phaseRead s p.die), F.SEQ_STAT_DEPTH.is (s.seq p.die).calls.length,
        F.SEQ_STAT_BANK.is (bankOf s p.die)] else []
    | 0x03 => readTile s p off
    | 0x04 => readTile s p off
    | 0x05 => readTile s p off
    | 0x06 => readDctl s p off
    | 0x07 =>
      let st := pageStack s.member p
      if off = 0x80 then [F.STK_STKINFO_STACK.is st, F.STK_STKINFO_STRENGTH.is (committedStrength s st),
        F.STK_STKINFO_HOLE_ROW.is (holeRow (committedStrength s st))] else []
    | 0x08 => readSrl s p off
    | 0x09 => readEcc s p off
    | 0x0A => readCal s p off
    | 0x0F =>
      if off = 0x88 then [F.LEDG_CEILING_CEILING.is (fld (bwVal s (pgLedg + 0x88)) 0 2), F.LEDG_CEILING_CHANGES_LEFT.is (bwLeft s 1 0 0)]
      else if off = 0x98 then [F.LEDG_DEPTH_UJ.is (depthNow s), F.LEDG_DEPTH_RATE_W.is (classW s.member (classNow s))]
      else []
    | 0x11 => if off = 0x80 then [F.DESC_DSTAT_VALID.is (s.descs.countP (fun d => dValid d.2)), F.DESC_DSTAT_LOCAL.is (b2n (!svcGlobal s))]
        else []
    | 0x12 => if off = 0x80 then [F.ALLOC_ASTAT_LIVE.is (s.allocs.countP (fun a => a.2.valid))] else []
    | 0x14 => readSec s off
    | 0x15 => if (0x180 ≤ off && off < 0x200) || 0x200 + 8 * rails s.member p.die ≤ off then [(0, 64, 0)] else []
    | 0x16 => if off = 0x80 then [F.IMEM_BANK_FETCHING.is (b2n (fetching s p.die))] else []
    | 0x18 => if 0x150 ≤ off && off < 0x190 then
        [(0, 64, ((tget [] s.history (getF s pgFlt0 F.FLT_HISTIDX_INDEX)).getD ((off - 0x150) / 8) 0).toNat)] else []
    | 0x19 => if 0x98 ≤ off && off < 0xB8 then
        [(0, 64, ((tget [] (s.seq p.die).trace (getF s (pgBase p) F.TRC_IDX_INDEX)).getD ((off - 0x98) / 8) 0).toNat)] else []
    | 0x1A => readOwn s off
    | _ => []
where
  /-- The FLT page of die 0. -/
  pgFlt0 : Nat := pgFlt 0

/-- Registers of FLT and LCB that only some of the block's pages carry (R380, R489). -/
def elsewhere (p : Page) (off : Nat) : Bool :=
  (p.blk = 0x18 && p.die ≠ 0 && (off = 0x88 || off = 0x90 || (0x148 ≤ off && off < 0x190)))
    || (p.blk = 0x04 && p.inst % 2 = 1 && 0x88 ≤ off && off < 0xD0)

/-- The fields of a register that an assigned page carries; none at a reserved offset. -/
def regFields (p : Page) (off : Nat) : List RegF := if elsewhere p off then [] else fieldsAt p off

/-- Header registers that a gated island's pages keep reading (R55). DESIGN CHOICE (log 14): CTRL, which takes writes there, among
them. -/
def readsGated (off : Nat) : Bool := [0x00, 0x08, 0x10, 0x18, 0x50, 0x58].contains off

/-- A summary page's register (R56, R64). -/
def summaryRead (s : State) (p : Page) (off : Nat) : W64 :=
  if off = 0x00 || off = 0x08 || off = 0x50 then s.reg (pgBase p + off)
  else if off = 0x58 then BitVec.ofNat 64 (tapUj s p % 2 ^ 48)
  else if 0x80 ≤ off && off < 0xA0 then BitVec.ofNat 64 (instPend s p 0x20 ((off - 0x80) / 8))
  else if 0xA0 ≤ off && off < 0xC0 then BitVec.ofNat 64 (instPend s p 0x40 ((off - 0xA0) / 8))
  else 0

/-- What a 64-bit read of a BAR0 offset returns; WO fields read 0 (R52). -/
def readReg (s : State) (k : Nat) : W64 :=
  let p := pageOf k
  let off := k % 4096
  if isSummary s.member p then summaryRead s p off
  else if !assigned s.member p then 0
  else if isWindow p then BitVec.ofNat 64 (windowRead s p off)
  else if pageGated s p && !readsGated off then 0
  else if (regFields p off).isEmpty then 0
  else
    let v := (computed s p off).foldl (fun v f => withFld v f.1 f.2.1 f.2.2) (s.reg k)
    ((regFields p off).filter (·.acc = .wo)).foldl (fun v f => withFld v f.lo f.wid 0) v

end Sys2Proof.Machine
end

