-- ==== Sys2Proof/Machine/Reset.lean ====
section
/-! DEFINITION. The CTRL register of a page (R56 to R58, R528): the reset of one block, freezing, power gating and ungating. -/
namespace Sys2Proof.Machine

/-! ## CTRL.RESET of a job-scope block (R57) -/

/-- TILE: the engines' work is discarded, and the tile is as after a job reset (R227); the DMA channels and the address stream
belong to other pages. -/
def resetTile (s : State) (t : Nat) : State :=
  let s := forEach s (s.tile t).runs (fun s r => endRun s t r)
  s.updTile t (fun k => { (emptiedTile k) with dma := k.dma, asf := k.asf, asfHeld := k.asfHeld })

/-- DMA: every channel of the tile is IDLE again, and what its requests return is not taken (R322). -/
def resetDma (s : State) (t : Nat) : State :=
  let s := forEach s (List.range 4) (fun s c => if chSt s t c = 0 then s else chanIdle s t c)
  s.updTile t (fun k => { k with dma := clearedDma k.dma })

/-- LCB: the page of slots 0 to 3 holds the address stream (R377). -/
def resetLcb (s : State) (p : Page) : State :=
  if p.inst % 2 = 0 then s.updTile (pageTile p) (fun k => { k with asf := [], asfHeld := [] }) else s

/-- SEQ: its words, calls and waits; the trace, a load and a fence's hold stay. -/
def resetSeq (s : State) (d : Nat) : State := s.updSeq d (fun x => { clearedSeq x with fenceHold := x.fenceHold })

/-- A unit under a reset of its page: at its row boundary, where a row runs (R59). -/
def resetUnit (u : Unit) : Unit :=
  if unitRuns u then { u with queue := [], heldStart := false, wipe := true } else {}

/-- SRL: held accesses complete unperformed (R183), and the swaths of the channel are discarded, accumulations with their packets. -/
def resetSrl (s : State) (st ch : Nat) : State :=
  let swaths (u : Unit) : List Swath := u.queue ++ (u.run.map (·.sw)).toList
  let gone := (chUnits st ch).flatMap (fun i => (swaths (s.unit i)).filterMap (fun x => x.acc.map (·.packet)))
  let s := dropHeld s st ch
  let s := { s with inPkts := s.inPkts.filter (fun q => !gone.contains q.id) }
  forEach s (chUnits st ch) (fun s i => s.updUnit i resetUnit)

/-- What a job-scope block holds beside its registers, cleared. -/
def resetBlock (s : State) (p : Page) : State :=
  match p.blk with
  | 0x02 => resetSeq s p.die
  | 0x03 => resetTile s (pageTile p)
  | 0x04 => resetLcb s p
  | 0x05 => resetDma s (pageTile p)
  | 0x08 => resetSrl s (pageStack s.member p) (pageCh p)
  | 0x10 => settleLedger (dropFetch { s with armed := none, running := none } 0)
  | 0x11 => if p.inst = 128 then { s with descQ := [] } else s
  | 0x12 => if p.inst = 0 then { s with allocQ := [] } else s
  | 0x13 => { s with sync := [] }
  | 0x1A => { s with
      otabs := []
      fetches := s.fetches.filter (fun f => f.user = 0 || 64 ≤ f.user)
      descs := s.descs.map (fun (d : Nat × List W64) => if dValid d.2 then (d.1, unpinned d.2) else d) }
  | _ => s

/-- CTRL.RESET of a page (R57). -/
def ctrlReset (s : State) (p : Page) : State :=
  let e := pgBase p
  if jobScope p.blk then settleVec (clearRegs (resetBlock s p) (fun q => q = p))
  else settleVec (((s.setReg (e + 0x20) 0).setReg (e + 0x30) 0).setReg (e + 0x40) 0)

/-! ## CTRL.FREEZE (R58, R249) -/

/-- The work of a tile goes on. -/
def resumeTile (s : State) (t : Nat) : State :=
  pump (forEach (startPass s t) (List.range 4) (fun s c => issueMove s t c)) t

/-- CTRL.FREEZE of a page: ignored where FREEZE_IMPL = 0. Sequencers and Sorrel units go on by their own commands. -/
def ctrlFreeze (s : State) (p : Page) (on : Bool) : State :=
  if !freezeImpl p.blk then s
  else
    let was := getF s (pgBase p) F.HDR_CTRL_FREEZE = 1
    let s := setB s (pgBase p) F.HDR_CTRL_FREEZE on
    if on || !was then s
    else match p.blk with
      | 0x03 => resumeTile s (pageTile p)
      | 0x05 => forEach s (List.range 4) (fun s c => issueMove s (pageTile p) c)
      | _ => s

/-! ## CTRL.ENABLE (R55, R227, R528) -/

/-- The pages of a tile's island: TILE, both LCB pages, DMA. -/
def tilePages (t : Nat) : List Nat := [pgTile t, pgLcb t 0, pgLcb t 4, pgDma t]

/-- The restarts of a page's island counted. -/
def bumpEpoch (s : State) (page : Nat) : State := wrapF s page F.HDR_ISLAND_EPOCH

/-- A tile island is ungated: its volatile state is lost and its zeroing begins (R56, R227); LIB
writes its routine store before it leaves OFF (R350). -/
def ungateTile (s : State) (t : Nat) : State :=
  let pages := tilePages t
  let s := clearRegs s (fun q => pages.contains (pgBase q))
  let s := forEach s pages bumpEpoch
  s.updTile t (fun k => { clearedTile k with gated := false, zeroing := true, store := s.routines, storePz := false })

/-- ENABLE of a page of the tile island. -/
def enableTile (s : State) (p : Page) (on : Bool) : State :=
  let t := pageTile p
  let e := pgBase p
  if on then
    let s := { s with disabled := setPut s.disabled e false }
    if (s.tile t).gated then ungateTile s t else resumeTile s t
  else if s.disabled.contains e then s
  else
    let s := ctrlReset s p
    let s := { s with disabled := setPut s.disabled e true }
    if (tilePages t).all s.disabled.contains then s.updTile t (fun k => { k with gated := true, zeroing := false }) else s

/-- ENABLE of an SRL page, its channel in MEMORY. -/
def enableSrl (s : State) (p : Page) (on : Bool) : State :=
  let e := pgBase p
  if on = !s.disabled.contains e then s
  else if on then bumpEpoch { s with disabled := setPut s.disabled e false } e
  else { ctrlReset s p with disabled := setPut s.disabled e true }

/-- CTRL.ENABLE of a page that firmware has enabled. -/
def ctrlEnable (s : State) (p : Page) (on : Bool) : State :=
  if tileBlk p.blk then enableTile s p on
  else if p.blk = 0x08 then enableSrl s p on
  else s

/-- A write of ENABLE = 0 that is dropped (R528). -/
def keepsEnabled (s : State) (p : Page) : Bool :=
  if tileBlk p.blk then false
  else if p.blk = 0x08 then pageEnabled s (pgBase p) && chState s (pageStack s.member p) (pageCh p) ≠ 0
  else true

/-- A write of CTRL: ENABLE, then RESET, then FREEZE. DESIGN CHOICE: before firmware has set ENABLE, the bit is firmware's alone. -/
def ctrlWrite (s : State) (p : Page) (v : W64) : State :=
  if s.enabled && !bitOf v 0 && keepsEnabled s p then dropLog s (pgBase p + 0x10) 0x05
  else
    let s := if s.enabled then ctrlEnable s p (bitOf v 0) else s
    let s := if bitOf v 1 then ctrlReset s p else s
    ctrlFreeze s p (bitOf v 2)

/-- The value that leaves ENABLE and FREEZE of a page as they read. -/
def ctrlWord (s : State) (p : Page) : W64 :=
  BitVec.ofNat 64 (b2n (pageEnabled s (pgBase p)) + getF s (pgBase p) F.HDR_CTRL_FREEZE * 4)

/-- A tile island ends its zeroing (R227). -/
def ungateDone (s : State) (t : Nat) : State := s.updTile t (fun k => { k with zeroing := false })

end Sys2Proof.Machine
end

