-- ==== Sys2Proof/Machine/VylCmds.lean ====
section
/-! DEFINITION. The commands of the Vylith ports and of the SYNC block (R404 to R438). -/
namespace Sys2Proof.Machine

/-- A port, or the loopback of a die. -/
def hasEnd (s : State) (port : Nat) : Bool := hasPort s port || (16 ≤ port && hasDie s (port - 16))

/-- A packet of a type arrives. -/
def arriving (port : Nat) (p : Pkt) (fits : Bool) (s : State) : Res := onObj (hasEnd s port) s (if fits then arrivePkt s port p else s)

/-- FLIT_RECEIVE (R410). -/
def execFlitReceive (port : Nat) (f : FlitRx) (s : State) : Res := onObj (hasPort s port) s (flitReceive s port f)

/-- NAK (R410). -/
def execNak (port ack : Nat) (s : State) : Res := onObj (hasPort s port) s (if portCarries s port then nakReceived s port ack else s)

/-- REPLAY_TIMEOUT (R410); it runs on while a stopped lane keeps the port from carrying flits (R434). -/
def execReplayTimeout (port : Nat) (s : State) : Res := onObj (hasPort s port) s (if portUp s port then startReplay s port else s)

/-- EQ_REPORT (R412). -/
def execEqReport (port : Nat) (codes : W64) (s : State) : Res := onObj (hasPort s port) s (if portUp s port then eqReport s port codes else s)

/-- PACKET_SEND (R418). -/
def execPacketSend (port : Nat) (p : Pkt) (s : State) : Res := onObj (hasEnd s port) s (packetSend s port p)

/-- WR (R417): also the arrival of a packet of an unassigned type, which is discarded (R416). -/
def execWr (port : Nat) (p : Pkt) (s : State) : Res := arriving port p (p.typ = 1 || p.typ = 0 || 8 ≤ p.typ) s

/-- WR_ACC (R419). -/
def execWrAcc (port : Nat) (p : Pkt) (s : State) : Res := arriving port p (p.typ = 2) s

/-- RD_REQ (R420). -/
def execRdReq (port : Nat) (p : Pkt) (s : State) : Res := arriving port p (p.typ = 3) s

/-- RD_RSP (R420). -/
def execRdRsp (port : Nat) (p : Pkt) (s : State) : Res := arriving port p (p.typ = 4) s

/-- SIG (R427). -/
def execSig (port : Nat) (p : Pkt) (s : State) : Res := arriving port p (p.typ = 5) s

/-- FENCE (R426). -/
def execFence (port : Nat) (p : Pkt) (s : State) : Res := arriving port p (p.typ = 6) s

/-- FENCE_RELEASE (R426). -/
def execFenceRelease (port : Nat) (s : State) : Res := onObj (hasEnd s port) s (fenceRelease s port)

/-- DESC_REQ (R295). -/
def execDescReq (port : Nat) (p : Pkt) (s : State) : Res := arriving port p (p.typ = 7 && p.mgmtOp = 1) s

/-- DESC_RSP (R294). -/
def execDescRsp (port : Nat) (p : Pkt) (s : State) : Res := arriving port p (p.typ = 7 && p.mgmtOp = 2) s

/-- RELEASE (R296). -/
def execRelease (port : Nat) (p : Pkt) (s : State) : Res := arriving port p (p.typ = 7 && p.mgmtOp = 3) s

/-- PING (R417): also the arrival of a MGMT packet of an unassigned operation, which is discarded (R416). -/
def execPing (port : Nat) (p : Pkt) (s : State) : Res :=
  arriving port p (p.typ = 7 && (p.mgmtOp = 4 || p.mgmtOp = 0 || 9 ≤ p.mgmtOp)) s

/-- PONG (R417). -/
def execPong (port : Nat) (p : Pkt) (s : State) : Res := arriving port p (p.typ = 7 && p.mgmtOp = 5) s

/-- FAULT_NOTE (R433). -/
def execFaultNote (port : Nat) (p : Pkt) (s : State) : Res := arriving port p (p.typ = 7 && p.mgmtOp = 6) s

/-- IDENT (R435). -/
def execIdent (port : Nat) (p : Pkt) (s : State) : Res := arriving port p (p.typ = 7 && p.mgmtOp = 7) s

/-- RESET_NOTE (R433). -/
def execResetNote (port : Nat) (p : Pkt) (s : State) : Res := arriving port p (p.typ = 7 && p.mgmtOp = 8) s

/-- COMPLETION_TIMEOUT (R431). -/
def execCompletionTimeout (port srcId tag : Nat) (s : State) : Res := onObj (hasEnd s port) s (completionTimeout s port srcId tag)

/-- VYL_RETRAIN (R434). -/
def execVylRetrain (_w : Writer) (port : Nat) (v : W64) (s : State) : Res := onPage (hasPort s port) (pgVyl .zh8c port + 0x90) s (retrain s port v)

/-- RETRAIN_DONE (R434): `half` is the width that the far end was given. -/
def execRetrainDone (port half : Nat) (s : State) : Res := onObj (hasPort s port) s (retrainDone s port half)

/-- RETRAIN_TIMEOUT (R434). -/
def execRetrainTimeout (port : Nat) (s : State) : Res := onObj (hasPort s port) s (retrainTimeout s port)

/-- LANE_LOCK_LOSS (R434). -/
def execLaneLockLoss (port lane : Nat) (s : State) : Res := onObj (hasPort s port && lane < 8) s (loseLane s port lane)

/-- PORT_RETRY (R435). -/
def execPortRetry (port : Nat) (s : State) : Res := onObj (hasPort s port) s (portRetry s port)

/-- SYNC_COUNTER_WRITE (R427). -/
def execSyncCounterWrite (_w : Writer) (counter : Nat) (v : W64) (s : State) : Res :=
  onObj (counter < 4096) s (syncSet s counter (fld v 0 32))

/-- A write of SYNC_WATCHw (R428). -/
def watchWrite (s : State) (i : Nat) (v : W64) : State := watchCheck (storeRW s (pgSync + 0x100 + i * 8) v)

/-- WATCH_ARM (R428). -/
def execWatchArm (_w : Writer) (i : Nat) (v : W64) (s : State) : Res := onObj (i < 8) s (watchWrite s i v)

/-- A write of SYNC_ROUTEd, or of PARTID (R422, R438). -/
def routeWrite (s : State) (d : Option Nat) (v : W64) : State :=
  if getF s pgOwn F.OWN_SVC_MODE = 1 then recordErr s pgSync 0x1305 (pgSync + d.elim 0x80 (fun d => 0x400 + d * 8))
  else match d with
    | some d =>
      if s.member.ports ≤ fld v 0 4 || s.member.ports ≤ fld v 4 4 then recordErr s pgSync 0x1311 0
      else storeRW s (pgSync + 0x400 + d * 8) v
    | none => storeRW s (pgSync + 0x80) v

/-- ROUTE_WRITE (R422): a routing entry, or PARTID where none is named. -/
def execRouteWrite (_w : Writer) (d : Option Nat) (v : W64) (s : State) : Res :=
  onObj (match d with | some d => decide (d < 64) | none => true) s (routeWrite s d v)

end Sys2Proof.Machine
end

