-- ==== Sys2Proof/Machine/Access.lean ====
section
/-! DEFINITION. Register writes (R45 to R56): the access rules, and what a write of each register does. -/
namespace Sys2Proof.Machine

/-! ## Registers with rules of their own, block by block -/

/-- A write of an entry, register or field with a range: stored in it, dropped with the block's code outside it. -/
def ranged (s : State) (k : Nat) (v : W64) (ok : Bool) (code : Nat) : State :=
  if ok then storeRW s k v else recordErr s (k / 4096 * 4096) code 0

/-- SEQ (R331, R354, R356). -/
def writeSeq (s : State) (p : Page) (off : Nat) (v : W64) : State :=
  let k := pgBase p + off
  match off with
  | 0x80 =>
    let s := if bitOf v 0 then seqStart s p.die else s
    if bitOf v 1 then seqStop s p.die else s
  | 0x88 => if seqIdle s p.die then voidPlan (storeRW s k v) else seqErr s p.die 0x0205 k 0 0
  | 0xA8 => if fld v 48 2 = 3 then seqErr s p.die 0x0217 0 0 0 else storeRW s k v
  | _ => storeRW s k v

/-- TILE (R250). -/
def writeTile (s : State) (p : Page) (off : Nat) (v : W64) : State :=
  let k := pgBase p + off
  if off = 0xC0 then storeRW s k (if v = 0 then 1 else v)
  else if 0x100 ≤ off then semWrite s (pageTile p) ((off - 0x100) / 8) v
  else storeRW s k v

/-- LCB (R377, R380). -/
def writeLcb (s : State) (w : Writer) (p : Page) (off : Nat) (v : W64) : State :=
  if off = 0xC0 then asfPush s w (pageTile p) v else storeRW s (pgBase p + off) v

/-- DMA (R308, R323). -/
def writeDma (s : State) (p : Page) (off : Nat) (v : W64) : State :=
  if 0x100 ≤ off && off % 64 = 8 then chStart s (pageTile p) ((off - 0x100) / 64) v else storeRW s (pgBase p + off) v

/-- DCTL (R76, R85, R99). -/
def writeDctl (s : State) (p : Page) (off : Nat) (v : W64) : State :=
  let k := pgBase p + off
  match off with
  | 0x80 => chmode s (pageStack s.member p) (pageCh p) v
  | 0xA0 => ranged s k v (fld v 0 4 ≤ 8) 0x0612
  | 0xB8 => ranged s k v (fld v 0 2 ≠ 3) 0x0613
  | _ => storeRW s k v

/-- STK (R92, R102). -/
def writeStk (s : State) (p : Page) (off : Nat) (v : W64) : State :=
  let k := pgBase p + off
  match off with
  | 0x90 => ranged s k v (fld v 0 12 ≤ getF s (pgBase p) F.STK_TEMPCFG_TRIP) 0x0712
  | 0x98 => srctlWrite s (pageStack s.member p) v
  | _ => storeRW s k v

/-- SRL (R178 to R181, R185): the stack-wide registers stand in the page of the stack's channel 0. -/
def writeSrl (s : State) (p : Page) (off : Nat) (v : W64) : State :=
  let st := pageStack s.member p
  let e := pgBase p
  let wide : State := voidPlan (storeRW s (stackSrl s st + off) v)
  match off with
  | 0xA0 => if 64 < fld v 0 7 then recordErr s e 0x0813 0 else wide
  | 0xA8 => if 8 < fld v 0 4 then recordErr s e 0x0813 0 else wide
  | 0xB0 =>
    if fld v 0 14 < 1000 || 13600 < fld v 0 14 then recordErr s e 0x0812 0
    else if !allMemory s st then dropLog s (e + off) 0x05
    else wide
  | _ => storeRW s (e + off) v

/-- ECC (R108, R121, R131, R134). -/
def writeEcc (s : State) (w : Writer) (p : Page) (off : Nat) (v : W64) : State :=
  let st := pageStack s.member p
  let k := pgBase p + off
  if off = 0x80 then strengthWrite s w st v
  else if off = 0x88 then scrubWrite s st v
  else if off = 0xB8 then (if bitOf v 0 then startFlush s st else s)
  else if 0x100 ≤ off && off < 0x110 then fallowBankWrite s w st ((off - 0x100) / 8) v
  else if 0x800 ≤ off then fallowRowWrite s w st ((off - 0x800) / 8) v
  else storeRW s k v

/-- WIREDATA (R155): the codes of the selected wire, or the delay of the selected TSV bundle; in TEST only. -/
def wireWrite (s : State) (st : Nat) (v : W64) : State :=
  let c := pgCal s.member st
  if !inTest s st then recordErr s c 0x0A11 0
  else if getF s c F.CAL_WIREIDX_KIND = 1 then
    let key := tsvKey s st
    s.updStack st (fun x => { x with tsv := tset 16 x.tsv key (fld v 0 5) })
  else
    updWire s st (getF s c F.CAL_WIREIDX_CHANNEL) (getF s c F.CAL_WIREIDX_WIRE) (fun x => { x with
      readDly := fld v 0 7, writeDly := fld v 7 7, readRef := fld v 14 6, writeRef := fld v 20 6, duty := fld v 26 4 })

/-- CAL (R155). -/
def writeCal (s : State) (p : Page) (off : Nat) (v : W64) : State :=
  let st := pageStack s.member p
  let k := pgBase p + off
  match off with
  | 0x80 => trctlWrite s st v
  | 0xA8 => wireWrite s st v
  | 0xB0 => ranged s k v (2 ≤ fld v 1 5) 0x0A14
  | 0xC8 =>
    if 100 ≤ fld v 0 16 && fld v 0 16 ≤ 10000 && 10 ≤ fld v 16 16 && fld v 16 16 ≤ 1000 then voidPlan (storeRW s k v)
    else recordErr s (pgBase p) 0x0A14 0
  | _ => storeRW s k v

/-- ARB (R388, R391, R392, R400). -/
def writeArb (s : State) (p : Page) (off : Nat) (v : W64) : State :=
  let k := pgBase p + off
  match off with
  | 0x80 => if fld v 24 12 < 16 then recordErr s (pgBase p) 0x0B12 0 else voidPlan (storeRW s k v)
  | 0x100 => prioWrite s p.die p.inst 0 v
  | 0x108 => prioWrite s p.die p.inst 1 v
  | _ => storeRW s k v

/-- VYL (R434, R436). -/
def writeVyl (s : State) (p : Page) (off : Nat) (v : W64) : State :=
  let k := pgBase p + off
  match off with
  | 0x88 => ranged s k v (fld v 3 2 ≠ 3 && 500 ≤ fld v 16 16) 0x0D16
  | 0x90 => retrain s p.inst v
  | _ => storeRW s k v

/-- LEDG (R462, R463, R476). -/
def writeLedg (s : State) (w : Writer) (off : Nat) (v : W64) : State :=
  let k := pgLedg + off
  match off with
  | 0x80 => classWrite s v
  | 0x88 => ceilingWrite s w v
  | 0xA0 => ranged s k v (1 ≤ fld v 0 8 && fld v 0 8 ≤ 100) 0x0F11
  | _ => storeRW s k v

/-- PLAN (R465, R477). -/
def writePlan (s : State) (off : Nat) (v : W64) : State :=
  let k := pgPlan + off
  match off with
  | 0x88 => planCmd s (fld v 0 2)
  | 0xC0 => ranged s k v (fld v 0 8 ≤ 50 && 1 ≤ fld v 8 16 && fld v 8 16 ≤ 60000) 0x1012
  | _ => storeRW s k v

/-- DESC (R287, R304). -/
def writeDesc (s : State) (w : Writer) (off : Nat) (v : W64) : State :=
  let k := pgDesc + off
  if 0x800 ≤ off then (if slotOfWriter w ≠ (off - 0x800) / 128 then dropLog s k 0x05 else storeRW s k v)
  else if 0x100 ≤ off then descCmd s w ((off - 0x100) / 16) v
  else storeRW s k v

/-- ALLOC (R287, R305). -/
def writeAlloc (s : State) (w : Writer) (off : Nat) (v : W64) : State :=
  let k := pgAlloc + off
  if off < 0x100 then storeRW s k v
  else
    let slot := (off - 0x100) / 32
    if (off - 0x100) % 32 = 0x18 then allocGo s w slot (bitOf v 0)
    else if slotOfWriter w ≠ slot then dropLog s k 0x05
    else storeRW s k v

/-- SYNC (R422, R427, R428, R438). -/
def writeSync (s : State) (off : Nat) (v : W64) : State :=
  let k := pgSync + off
  if off = 0x80 then routeWrite s none v
  else if off = 0x88 then ranged s k v (10 ≤ fld v 0 16 && fld v 0 16 ≤ 60000) 0x1311
  else if 0x100 ≤ off && off < 0x140 then watchWrite s ((off - 0x100) / 8) v
  else if 0x400 ≤ off then routeWrite s (some ((off - 0x400) / 8)) v
  else storeRW s k v

/-- SEC (R498, R507, R512). -/
def writeSec (s : State) (w : Writer) (off : Nat) (v : W64) : State :=
  match off with
  | 0x90 => arbWrite s w v
  | 0xA0 => ownerCommit s w v (ownerAuth s)
  | _ => storeRW s (pgSec + off) v

/-- PWR (R478): coefficients 16 to 31 are reserved. -/
def writePwr (s : State) (p : Page) (off : Nat) (v : W64) : State :=
  if 0x180 ≤ off then s else storeRW s (pgBase p + off) v

/-- IMEM (R352, R353, R360). -/
def writeImem (s : State) (p : Page) (off : Nat) (v : W64) : State :=
  match off with
  | 0x80 => bankWrite s p.die v
  | 0x98 => if bitOf v 0 then imemLoad s p.die else s
  | _ => storeRW s (pgBase p + off) v

/-- FLT (R483, R486 to R489). -/
def writeFlt (s : State) (w : Writer) (p : Page) (off : Nat) (v : W64) : State :=
  match off with
  | 0x88 => jobResetWrite s v
  | 0x90 => fenceGo (fenceLet s v) v
  | 0x98 => wdogWrite s p.die v
  | 0xA0 => assertWrite s w p.die v
  | 0x140 => recClear s p.die v
  | _ => storeRW s (pgBase p + off) v

/-- A write of T_CMD (R294, R296, R306). -/
def tableCmd (s : State) (v : W64) : State :=
  let n := getF s pgOwn F.OWN_SEL_TABLE
  match fld v 0 2 with
  | 0 => publish s n
  | 1 => unpublish s n
  | _ => refusal (s.updOtab n (fun t => { t with code := 0x1A48, failed := 0 })) pgOwn

/-- OWN (R292, R296, R298, R306): the table's registers are those of the table that SEL names. -/
def writeOwn (s : State) (off : Nat) (v : W64) : State :=
  if off = 0x80 then svcModeWrite s v
  else if off = 0x100 then otabWrite s off (fun t => { t with cfg := v &&& 0xF7 })
  else if 0x108 ≤ off && off < 0x120 then otabWrite s off (fun t => { t with block := tset 0 t.block ((off - 0x108) / 8) v })
  else if 0x120 ≤ off && off < 0x130 then
    otabWrite s off (fun t => { t with grid := tset 0 t.grid ((off - 0x120) / 8) (v &&& 0x0FFFFFFFFFFFFFFF) })
  else if off = 0x130 then otabWrite s off (fun t => { t with src := v &&& 0x1FFFFFFFFFF })
  else if off = 0x138 then tableCmd s v
  else storeRW s (pgOwn + off) v

/-- A W1C write, after which the part looks at the interrupt conditions of the page's block again (R52, R66). -/
def clearBits (s : State) (p : Page) (off : Nat) (v : W64) : State :=
  let s := if p.blk = 0x0B && off = 0x90 then isolClear s p.die p.inst v else w1c s (pgBase p + off) v
  resendVec s p.blk

/-- A write of a register that an access of the right width and alignment reaches, not RO throughout. Only the host and the lead
core write the OWN page (R306). -/
def regWrite (s : State) (w : Writer) (p : Page) (off : Nat) (v : W64) : State :=
  if p.blk = 0x1A && !leadWriter w then s
  else if off = 0x10 then ctrlWrite s p v
  else if (regFields p off).any (·.acc = .w1c) then clearBits s p off v
  else if off = 0x28 || off = 0x48 then settleVec (storeRW s (pgBase p + off) v)
  else if off < 0x80 then storeRW s (pgBase p + off) v
  else match p.blk with
    | 0x02 => writeSeq s p off v
    | 0x03 => writeTile s p off v
    | 0x04 => writeLcb s w p off v
    | 0x05 => writeDma s p off v
    | 0x06 => writeDctl s p off v
    | 0x07 => writeStk s p off v
    | 0x08 => writeSrl s p off v
    | 0x09 => writeEcc s w p off v
    | 0x0A => writeCal s p off v
    | 0x0B => writeArb s p off v
    | 0x0D => writeVyl s p off v
    | 0x0F => writeLedg s w off v
    | 0x10 => writePlan s off v
    | 0x11 => writeDesc s w off v
    | 0x12 => writeAlloc s w off v
    | 0x13 => writeSync s off v
    | 0x14 => writeSec s w off v
    | 0x15 => writePwr s p off v
    | 0x16 => writeImem s p off v
    | 0x18 => writeFlt s w p off v
    | 0x1A => writeOwn s off v
    | _ => storeRW s (pgBase p + off) v

/-! ## The access rules (R49 to R51, R55, R56) -/

/-- A write of a window page (R48, R279, R286, R427): only sync counters take one. -/
def windowWrite (s : State) (p : Page) (off size : Nat) (v : W64) : State :=
  if p.blk ≠ 0x13 then dropLog s off 0x03
  else if size = 4 && off % 8 = 4 then s
  else syncSet s ((p.inst - 1) * 512 + off % 4096 / 8) (fld v 0 32)

/-- An access of a width and alignment that the aperture knows (R49, R50). -/
def wellSized (off size : Nat) : Bool := (size = 8 && off % 8 = 0) || (size = 4 && off % 4 = 0)

/-- A field that makes a register take 64-bit writes only (R49). -/
def RegF.whole (f : RegF) : Bool := f.acc = .w1c || f.acc = .wo || f.acc = .bw

/-- A write of `size` bytes at a BAR0 offset. -/
def accessWrite (s : State) (w : Writer) (off size : Nat) (v : W64) : State :=
  let p := pageOf off
  let k := off / 8 * 8
  let o := k % 4096
  let l := regFields p o
  if isSummary s.member p then s
  else if !assigned s.member p then recordErr s pgPart 0x0001 off
  else if !isWindow p && pageGated s p && o ≠ 0x10 then s
  else if !wellSized off size then dropLog s off 0x02
  else if isWindow p then windowWrite s p off size v
  else if l.isEmpty then dropLog s off 0x01
  else if size = 4 && (o = 0x10 || l.any (·.whole)) then dropLog s off 0x02
  else if l.all (·.acc = .ro) then dropLog s off 0x03
  else regWrite s w p o (if size = 8 then v else withFld (readReg s k) (off % 8 * 8) 32 (fld v 0 32))

/-- What a read of `size` bytes at a BAR0 offset returns (R47, R49 to R51, R55), and what it records. -/
def accessRead (s : State) (off size : Nat) : W64 × State :=
  let p := pageOf off
  let k := off / 8 * 8
  let half (v : W64) : W64 := if size = 4 then BitVec.ofNat 64 (fld v (off % 8 * 8) 32) else v
  if isSummary s.member p then (if wellSized off size then half (readReg s k) else 0, s)
  else if !assigned s.member p then (0, recordErr s pgPart 0x0001 off)
  else if !isWindow p && pageGated s p && !readsGated (k % 4096) then (0, s)
  else if !wellSized off size then (0, dropLog s off 0x02)
  else (half (readReg s k), s)

/-! ## BAR2: the MSI-X table and the pending bits (R65) -/

/-- A vector's message is held back (R65). -/
def vecMasked (s : State) (v : Nat) : Bool := s.funcMask || s.vecMask.contains v

/-- A message whose mask is gone is sent, and its pending bit cleared (R65). -/
def releaseVecs (s : State) : State :=
  forEach s (s.vecPend.filter (fun v => !vecMasked s v)) (fun s v =>
    { s with vecPend := setPut s.vecPend v false }.emit (.msix v))

/-- A 32-bit word of BAR2: entries of four words, the fourth with the mask in bit 0, and the pending-bit array from 0x2000 on. -/
def bar2Word (s : State) (i : Nat) : Nat :=
  if i < 256 then (if i % 4 = 3 then b2n (s.vecMask.contains (i / 4)) else tget 0 s.vecTable i)
  else if i = 0x800 || i = 0x801 then
    bitMap ((List.range 32).map (fun b => s.vecPend.contains ((i - 0x800) * 32 + b)))
  else 0

/-- A 32-bit word of the MSI-X table written. -/
def bar2Put (s : State) (i v : Nat) : State :=
  if 256 ≤ i then s
  else if i % 4 = 3 then releaseVecs { s with vecMask := setPut s.vecMask (i / 4) (v % 2 = 1) }
  else { s with vecTable := tset 0 s.vecTable i (v % 2 ^ 32) }

/-- An access of BAR2 of an aligned 32-bit or 64-bit word; no other has an effect. -/
def bar2Access (s : State) (o size : Nat) (v : Option W64) : W64 × State :=
  let i := o / 4
  if !wellSized o size then (0, s)
  else match v with
    | none => (BitVec.ofNat 64 (bar2Word s i + if size = 8 then bar2Word s (i + 1) * 2 ^ 32 else 0), s)
    | some v =>
      let s := bar2Put s i (fld v 0 32)
      (0, if size = 8 then bar2Put s (i + 1) (fld v 32 32) else s)

/-- A register access: offsets below 2^28 are BAR0's. DESIGN CHOICE (log 46): 2^28 + o is offset o of BAR2, and 2^29 the function
mask of the MSI-X capability, bit 14 of its Message Control word. Only the host reaches these. -/
def busAccess (s : State) (w : Writer) (off size : Nat) (v : Option W64) : State :=
  let answer (r : W64 × State) : State := if v = none then r.2.emit (.regRead off r.1) else r.2
  if off < 2 ^ 28 then (match v with
    | some v => accessWrite s w off size v
    | none => answer (accessRead s off size))
  else if w ≠ .host then s
  else if off < 2 ^ 29 then answer (bar2Access s (off - 2 ^ 28) size v)
  else if off = 2 ^ 29 then (match v with
    | some v => releaseVecs { s with funcMask := bitOf v 14 }
    | none => answer (BitVec.ofNat 64 (63 + b2n s.funcMask * 2 ^ 14), s))
  else s

/-! ## The commands -/

/-- An offset of the aperture (R45). -/
def inBar (off : Nat) : Bool := decide (off < 2 ^ 28)

/-- A page number of the aperture (R45). -/
def pageOk (p : Page) : Bool := p.die < 8 && p.blk < 32 && p.inst < 256

/-- REGISTER_WRITE (R52), of a value; DESIGN CHOICE (log 14): without one it is a read. -/
def execRegisterWrite (w : Writer) (off size : Nat) (v : Option W64) (s : State) : Res := .next (busAccess s w off size v)

/-- W1C_CLEAR (R66). -/
def execW1cClear (w : Writer) (off : Nat) (v : W64) (s : State) : Res :=
  onObj (inBar off) s (if (regFields (pageOf off) (off % 4096)).any (·.acc = .w1c) then accessWrite s w off 8 v else s)

/-- BW_WRITE (R53). -/
def execBwWrite (w : Writer) (off : Nat) (v : W64) (s : State) : Res :=
  onObj (inBar off) s (if (regFields (pageOf off) (off % 4096)).any (·.acc = .bw) then accessWrite s w off 8 v else s)

/-- CTRL_RESET (R57): the other bits of CTRL written as they read. -/
def execCtrlReset (w : Writer) (p : Page) (s : State) : Res :=
  onObj (pageOk p) s (accessWrite s w (pgBase p + 0x10) 8 (withFld (ctrlWord s p) 1 1 1))

/-- CTRL_FREEZE (R58). -/
def execCtrlFreeze (w : Writer) (p : Page) (on : Bool) (s : State) : Res :=
  onObj (pageOk p) s (accessWrite s w (pgBase p + 0x10) 8 (withFld (ctrlWord s p) 2 1 (b2n on)))

/-- CTRL_ENABLE (R528). -/
def execCtrlEnable (w : Writer) (p : Page) (on : Bool) (s : State) : Res :=
  onObj (pageOk p) s (accessWrite s w (pgBase p + 0x10) 8 (withFld (ctrlWord s p) 0 1 (b2n on)))

/-- ISLAND_UNGATE_DONE (R227). -/
def execIslandUngateDone (tile : Nat) (s : State) : Res := onObj (hasTile s tile) s (ungateDone s tile)

/-- The message of a vector whose condition holds and that has none for it yet: sent, or pending behind a mask (R65, R66). -/
def sendVec (s : State) (v : Nat) : State :=
  if vecCond s v && !s.vecSent.contains v then
    let s := { s with vecSent := setIns v s.vecSent }
    if vecMasked s v then { s with vecPend := setIns v s.vecPend } else s.emit (.msix v)
  else s

/-- MSIX_MESSAGE (R66). -/
def execMsixMessage (vec : Nat) (s : State) : Res := onObj (vec < 64) s (sendVec s vec)

end Sys2Proof.Machine
end

