-- ==== Sys2Proof/Machine/MxCmds.lean ====
section
/-! DEFINITION. The commands of the MX slot and of the tile (R224, R333 to R340, R345, R364, R370). -/
namespace Sys2Proof.Machine

/-- MX NOP (R334); a slot word of an unlisted operation executes as NOP for 1 tc and is logged (R338). -/
def execMxNop (tile n : Nat) (s : State) : Res :=
  onObj (hasTile s tile) s (match nextSlot s tile .mx with
    | some w =>
      if slotOp .mx w = 0 then (if fld w 0 8 = n then slotNop s tile .mx n else s)
      else if [1, 2, 0x38, 0x39, 0x3A, 0x3B].contains (slotOp .mx w) then s
      else illegalSlot s tile .mx
    | none => s)

/-- MX WAIT (R345). -/
def execMxWait (tile : Nat) (sem : BitVec 5) (k : BitVec 16) (s : State) : Res :=
  onObj (hasTile s tile) s (issue s tile .mx 0x38 (fun w => fld w 0 5 = sem.toNat && fld w 16 16 = k.toNat)
    (fun s _ => slotWait s tile .mx sem.toNat k.toNat))

/-- MX SIG (R338). -/
def execMxSig (tile : Nat) (sem : BitVec 5) (v : BitVec 16) (s : State) : Res :=
  onObj (hasTile s tile) s (issue s tile .mx 0x39 (fun w => fld w 0 5 = sem.toNat && fld w 16 16 = v.toNat)
    (fun s _ => slotSig s tile .mx sem.toNat v.toNat))

/-- MX LOOP (R333). -/
def execMxLoop (tile : Nat) (count : Word) (s : State) : Res :=
  onObj (hasTile s tile) s (issue s tile .mx 0x3A (fun w => fld w 0 32 = count.toNat) (fun s _ => slotLoop s tile .mx count.toNat))

/-- MX ENDLOOP (R333). -/
def execMxEndloop (tile : Nat) (s : State) : Res :=
  onObj (hasTile s tile) s (issue s tile .mx 0x3B (fun _ => true) (fun s _ => slotEndloop s tile .mx))

/-- The MX slot's CFG.LOAD (R364). -/
def execMxCfgLoad (tile : Nat) (slot : BitVec 3) (line : BitVec 16) (s : State) : Res :=
  onObj (hasTile s tile) s (issue s tile .mx 0x01 (fun w => fld w 48 3 = slot.toNat && fld w 0 16 = line.toNat)
    (fun s _ => cfgLoad s tile .mx slot.toNat line.toNat))

/-- MX.RUN (R370). -/
def execMxRun (tile : Nat) (slot : BitVec 3) (s : State) : Res :=
  onObj (hasTile s tile) s (issue s tile .mx 0x02 (fun w => fld w 48 3 = slot.toNat) (fun s _ => mxRunStart s tile slot.toNat))

/-- The lines that a pass drains into. -/
def passLines (t : Nat) (r : MxRun) : List Nat :=
  if (passModes r.words r.iter).2 = 0 then
    linesOf (drainPlaces t r (fun o j => selValue (fun x => lValue r.words t r.iter x r.popped) (lSel r.words o j)) (fun _ => false))
  else []

/-- A run after its pass in the array has ended in a buffer. -/
def passOver (t : Nat) (r : MxRun) (buf : Nat) : MxRun :=
  { r with
    iter := r.iter + 1
    started := false
    popped := []
    draining := r.draining || (passModes r.words r.iter).2 = 0
    lines := (r.lines ++ passLines t r).eraseDups
    bufs := setIns buf r.bufs }

/-- The pass in the array completes; the next pass enters, or the run waits for its last line (R239, R240). -/
def passEnd (s : State) (t : Nat) (r : MxRun) : State :=
  let q := passOver t r (getF s (pgTile t) F.TILE_TSTAT_ACC_ACTIVE)
  let s := runPass s t r
  if (s.tile t).mx.stopped then s
  else if q.iter < q.total then startPass (s.updTile t (fun k => { k with run := some q })) t
  else s.updTile t (fun k => { k with run := none, ended := k.ended ++ [{ q with started := true }] })

/-- MX_PASS_END (R239): the pass in the array completes; the next pass enters. -/
def execMxPassEnd (tile : Nat) (s : State) : Res :=
  onObj (hasTile s tile) s (match (s.tile tile).run with
    | some r =>
      if r.started && r.iter < r.total && !halted s && !tileOff s tile && !(s.tile tile).mx.stopped then passEnd s tile r else s
    | none => s)

/-- The oldest run whose passes have ended has written its last line; with none, the drain of the run in hand has (R250). -/
def runDone (s : State) (t : Nat) : State :=
  match (s.tile t).ended with
  | r :: rest =>
    sigDone (event (endRun (s.updTile t (fun k => { k with ended := rest })) t r) (pgTile t) 0) t .mx r.no
  | [] => s.updTile t (fun k => { k with run := k.run.map (fun r => { r with draining := false }) })

/-- RUN_DONE (R240): the last line of the run is written; SIGs behind it take effect (R338). -/
def execRunDone (tile : Nat) (s : State) : Res :=
  onObj (hasTile s tile) s (if halted s then s else runDone s tile)

/-- SRAM_UE (R224): a double-bit error in an 8 B word, found by a read. With `bits` 1 it is a single-bit error, which is corrected and
counted. -/
def execSramUe (tile word bits : Nat) (s : State) : Res :=
  onObj (hasTile s tile && word < sramBytes / 8 && (bits = 1 || bits = 2)) s
    (if tileOff s tile then s
     else if bits = 1 then bumpF (event s (pgTile tile) 2) (pgTile tile) F.TILE_SRAMECC_CORRECTED
     else
       let p := pgTile tile
       let s := s.updTile tile (fun k => { k with spoison := setPut k.spoison (word / 8) true })
       let s := bumpF (event (recordErr s p 0x0310 (word / 4)) p 3) p F.TILE_SRAMECC_UNCORRECTABLE
       setF s p F.TILE_SRAMLAST_LINE (word / 4))

end Sys2Proof.Machine
end

