-- ==== Sys2Proof/Machine/VeCmds.lean ====
section
/-! DEFINITION. The commands of the vector engine (R257, R274 to R277). -/
namespace Sys2Proof.Machine

/-- VNOP (R257); an unassigned opcode issues as an illegal instruction of 1 tc (R259). -/
def execVnop (tile : Nat) (f : VReg) (s : State) : Res :=
  onObj (hasTile s tile) s (match nextSlot s tile .ve with
    | some w =>
      if w = vregWord 0x00 f then slotNop (veBegin s tile) tile .ve (bits f.imm.toNat 0 8)
      else if !veOps.contains (slotOp .ve w) && w = vregWord (slotOp .ve w) f then veIllegal (veBegin s tile) tile 1 1
      else s
    | none => s)

/-- VSETVL: a value of 0 or above 64 is illegal (R255). -/
def execVsetvl (tile : Nat) (f : VReg) (s : State) : Res :=
  onObj (hasTile s tile) s (issueV s tile (vregWord 0x01 f) (fun s =>
    let n := bits f.imm.toNat 0 7
    if n = 0 || 64 < n then veIllegal s tile 1 1
    else nextEntry (updVe s tile (fun v => { v with vl := n })) tile .ve 1))

/-- VSETCTL (R254). -/
def execVsetctl (tile : Nat) (f : VReg) (s : State) : Res :=
  onObj (hasTile s tile) s (issueV s tile (vregWord 0x02 f) (fun s =>
    nextEntry (updVe s tile (fun v => { v with vctl := f.imm &&& 7 })) tile .ve 1))

/-- VSETA (R258). -/
def execVseta (tile : Nat) (f : VReg) (s : State) : Res :=
  onObj (hasTile s tile) s (issueV s tile (vregWord 0x03 f) (fun s =>
    let x := bits f.imm.toNat 0 24
    if x % 32 ≠ 0 then veIllegal s tile 1 1
    else nextEntry (updVe s tile (fun v => { v with a := tset 0 v.a (f.vd.toNat % 4) x })) tile .ve 1))

/-- VADDA (R258), modulo 2^24. -/
def execVadda (tile : Nat) (f : VReg) (s : State) : Res :=
  onObj (hasTile s tile) s (issueV s tile (vregWord 0x04 f) (fun s =>
    let x := bits f.imm.toNat 0 24
    if x % 32 ≠ 0 then veIllegal s tile 1 1
    else nextEntry (updVe s tile (fun v => { v with
      a := tset 0 v.a (f.vd.toNat % 4) ((tget 0 v.a (f.vd.toNat % 4) + x) % 2 ^ 24) })) tile .ve 1))

/-- VRDFL: the flags are sampled 3 tc after its issue (R267). -/
def execVrdfl (tile : Nat) (f : VReg) (s : State) : Res :=
  onObj (hasTile s tile) s (issueV s tile (vregWord 0x05 f) (fun s =>
    let c := veClk s tile
    let stands := !(s.tile tile).ve.loses (c + 4) (f.vd.toNat * 64)
    let s := veCommit s tile (c + 4) false (wholeReg f.vd.toNat [])
    nextEntry (updVe s tile (fun v => { v with rdfl := if stands then v.rdfl ++ [(c + 3, f.vd.toNat)] else v.rdfl })) tile .ve 1))

/-- VCLRFL, in effect 1 tc after its issue (R267). -/
def execVclrfl (tile : Nat) (f : VReg) (s : State) : Res :=
  onObj (hasTile s tile) s (issueV s tile (vregWord 0x06 f) (fun s =>
    nextEntry (updVe s tile (fun v => { v with
      fpend := flagIns (2 * (veClk s tile + 1)) (bits f.imm.toNat 0 5) v.fpend })) tile .ve 1))

/-- VLD (R257, R272). -/
def execVld (tile : Nat) (f : VMem) (s : State) : Res :=
  onObj (hasTile s tile) s (issueV s tile (vmemWord 0x08 f) (fun s =>
    let v := (s.tile tile).ve
    let c := veClk s tile
    let ea := veEa v f
    if memBad f false then veIllegal s tile 1 8
    else veLoad s tile 1 f [(c + 8, veLines v.vl f.vd.toNat ea 32 (c + 2) (c + 2))]))

/-- VLDS: lines of one bank are read one after the other (R257). -/
def execVlds (tile : Nat) (f : VMem) (s : State) : Res :=
  onObj (hasTile s tile) s (issueV s tile (vmemWord 0x09 f) (fun s =>
    let v := (s.tile tile).ve
    let c := veClk s tile
    let ea := veEa v f
    let ls (hi : Nat) : List VLine := veLines v.vl f.vd.toNat ea (f.stride.toNat * 32) (c + 2) hi
    let b := bankLoad ((ls 0).map (·.addr))
    if memBad f false then veIllegal s tile b (7 + b)
    else veLoad s tile b f [(c + 7 + b, ls (c + 1 + b))]))

/-- TLD: row r is read and complete r tc after row 0 (R272). -/
def execTld (tile : Nat) (f : VMem) (s : State) : Res :=
  onObj (hasTile s tile) s (issueV s tile (vmemWord 0x0A f) (fun s =>
    let v := (s.tile tile).ve
    let c := veClk s tile
    let ea := veEa v f
    if memBad f true then veIllegal s tile 16 23
    else veLoad s tile 16 f ((List.range 16).map (fun r =>
      (c + 8 + r, veLines v.vl (f.vd.toNat + r) (ea + r * f.stride.toNat * 32) 32 (c + 2 + r) (c + 2 + r))))))

/-- VST (R257, R272). -/
def execVst (tile : Nat) (f : VMem) (s : State) : Res :=
  onObj (hasTile s tile) s (issueV s tile (vmemWord 0x0C f) (fun s =>
    let v := (s.tile tile).ve
    let c := veClk s tile
    let ea := veEa v f
    if memBad f false then veIllegal s tile 1 6
    else veStore s tile 1 f ((veLines v.vl f.vd.toNat ea 32 (c + 5) (c + 5)).map (fun l => (0, l)))))

/-- VSTS (R257). -/
def execVsts (tile : Nat) (f : VMem) (s : State) : Res :=
  onObj (hasTile s tile) s (issueV s tile (vmemWord 0x0D f) (fun s =>
    let v := (s.tile tile).ve
    let c := veClk s tile
    let ea := veEa v f
    let ls (hi : Nat) : List VLine := veLines v.vl f.vd.toNat ea (f.stride.toNat * 32) (c + 5) hi
    let b := bankLoad ((ls 0).map (·.addr))
    if memBad f false then veIllegal s tile b (5 + b)
    else veStore s tile b f ((ls (c + 4 + b)).map (fun l => (0, l)))))

/-- TST: row r of the register is read and stored r tc after row 0 (R272). -/
def execTst (tile : Nat) (f : VMem) (s : State) : Res :=
  onObj (hasTile s tile) s (issueV s tile (vmemWord 0x0E f) (fun s =>
    let v := (s.tile tile).ve
    let c := veClk s tile
    let ea := veEa v f
    if memBad f true then veIllegal s tile 16 21
    else veStore s tile 16 f ((List.range 16).flatMap (fun r =>
      (veLines v.vl (f.vd.toNat + r) (ea + r * f.stride.toNat * 32) 32 (c + 5 + r) (c + 5 + r)).map (fun l => (r, l))))))

/-- VADD (R257, R260). -/
def execVadd (tile : Nat) (f : VReg) (s : State) : Res :=
  onObj (hasTile s tile) s (issueV s tile (vregWord 0x10 f) (fun s => veArith s tile .add f))

/-- VSUB (R257, R260). -/
def execVsub (tile : Nat) (f : VReg) (s : State) : Res :=
  onObj (hasTile s tile) s (issueV s tile (vregWord 0x11 f) (fun s => veArith s tile .sub f))

/-- VMUL (R257, R260). -/
def execVmul (tile : Nat) (f : VReg) (s : State) : Res :=
  onObj (hasTile s tile) s (issueV s tile (vregWord 0x12 f) (fun s => veArith s tile .mul f))

/-- VFMA (R257, R260). -/
def execVfma (tile : Nat) (f : VReg) (s : State) : Res :=
  onObj (hasTile s tile) s (issueV s tile (vregWord 0x13 f) (fun s => veArith s tile .fma f))

/-- VMIN (R257, R260). -/
def execVmin (tile : Nat) (f : VReg) (s : State) : Res :=
  onObj (hasTile s tile) s (issueV s tile (vregWord 0x14 f) (fun s => veArith s tile .min f))

/-- VMAX (R257, R260). -/
def execVmax (tile : Nat) (f : VReg) (s : State) : Res :=
  onObj (hasTile s tile) s (issueV s tile (vregWord 0x15 f) (fun s => veArith s tile .max f))

/-- VCMP (R257). -/
def execVcmp (tile : Nat) (f : VReg) (s : State) : Res :=
  onObj (hasTile s tile) s (issueV s tile (vregWord 0x16 f) (fun s => 
    let ty := f.ty.toNat
    let cond := bits f.imm.toNat 0 3
    let v := (s.tile tile).ve
    let w := tyBytes ty
    if (isF ty || ty = 5) && cond ≠ 7 then
      veMap s tile f w 1 4 0 (withB f [f.va.toNat]) [] (fun e =>
        (if laneCmp cond ty (v.el f.va.toNat w e) (veB v f w e) then 2 ^ (8 * w) - 1 else 0, 0))
    else veIllegal s tile 1 4))

/-- VSEL: carries the poison of Va and Vb, consumes that of its mask (R268, R269). -/
def execVsel (tile : Nat) (f : VReg) (s : State) : Res :=
  onObj (hasTile s tile) s (issueV s tile (vregWord 0x17 f) (fun s => 
    let ty := f.ty.toNat
    let v := (s.tile tile).ve
    let w := tyBytes ty
    if isF ty || ty = 5 then
      veMap s tile f w 1 4 0 [f.vc.toNat] (withB f [f.va.toNat]) (fun e =>
        (if v.el f.vc.toNat w e ≠ 0 then v.el f.va.toNat w e else veB v f w e, 0))
    else veIllegal s tile 1 4))

/-- VAND (R257). -/
def execVand (tile : Nat) (f : VReg) (s : State) : Res :=
  onObj (hasTile s tile) s (issueV s tile (vregWord 0x18 f) (fun s => veBitwise s tile Nat.land f))

/-- VOR (R257). -/
def execVor (tile : Nat) (f : VReg) (s : State) : Res :=
  onObj (hasTile s tile) s (issueV s tile (vregWord 0x19 f) (fun s => veBitwise s tile Nat.lor f))

/-- VXOR (R257). -/
def execVxor (tile : Nat) (f : VReg) (s : State) : Res :=
  onObj (hasTile s tile) s (issueV s tile (vregWord 0x1A f) (fun s => veBitwise s tile Nat.xor f))

/-- VIDX (R257). -/
def execVidx (tile : Nat) (f : VReg) (s : State) : Res :=
  onObj (hasTile s tile) s (issueV s tile (vregWord 0x1C f) (fun s => 
    veMap s tile f 4 1 4 0 [] [] (fun e => ((e + f.imm.toNat) % 2 ^ 32, 0))))

/-- VMOV, a copy (R257, R268). -/
def execVmov (tile : Nat) (f : VReg) (s : State) : Res :=
  onObj (hasTile s tile) s (issueV s tile (vregWord 0x1D f) (fun s => 
    let v := (s.tile tile).ve
    veMap s tile f 4 1 4 0 [] [f.va.toNat] (fun e => (v.lane f.va.toNat e, 0))))

/-- VCVT (R263). -/
def execVcvt (tile : Nat) (f : VReg) (s : State) : Res :=
  onObj (hasTile s tile) s (issueV s tile (vregWord 0x20 f) (fun s => veCvt s tile f))

/-- VMXP (R264). -/
def execVmxp (tile : Nat) (f : VReg) (s : State) : Res :=
  onObj (hasTile s tile) s (issueV s tile (vregWord 0x21 f) (fun s => veMxp s tile f))

/-- VRCP (R261). -/
def execVrcp (tile : Nat) (f : VReg) (s : State) : Res :=
  onObj (hasTile s tile) s (issueV s tile (vregWord 0x28 f) (fun s => veApprox s tile 1 10 approxRcp f))

/-- VRSQ (R261). -/
def execVrsq (tile : Nat) (f : VReg) (s : State) : Res :=
  onObj (hasTile s tile) s (issueV s tile (vregWord 0x29 f) (fun s => veApprox s tile 1 10 approxRsq f))

/-- VEXP2 (R261). -/
def execVexp2 (tile : Nat) (f : VReg) (s : State) : Res :=
  onObj (hasTile s tile) s (issueV s tile (vregWord 0x2A f) (fun s => veApprox s tile 2 14 approxExp2 f))

/-- VLOG2 (R261). -/
def execVlog2 (tile : Nat) (f : VReg) (s : State) : Res :=
  onObj (hasTile s tile) s (issueV s tile (vregWord 0x2B f) (fun s => veApprox s tile 2 14 approxLog2 f))

/-- VPERM (R266). -/
def execVperm (tile : Nat) (f : VReg) (s : State) : Res :=
  onObj (hasTile s tile) s (issueV s tile (vregWord 0x30 f) (fun s => vePerm s tile f))

/-- VRED (R265). -/
def execVred (tile : Nat) (f : VReg) (s : State) : Res :=
  onObj (hasTile s tile) s (issueV s tile (vregWord 0x31 f) (fun s => veRed s tile f))

/-- TROW (R265). -/
def execTrow (tile : Nat) (f : VReg) (s : State) : Res :=
  onObj (hasTile s tile) s (issueV s tile (vregWord 0x32 f) (fun s => veTrow s tile f))

/-- TCOL (R265). -/
def execTcol (tile : Nat) (f : VReg) (s : State) : Res :=
  onObj (hasTile s tile) s (issueV s tile (vregWord 0x33 f) (fun s => veTcol s tile f))

/-- VWAIT (R345). -/
def execVwait (tile : Nat) (f : VReg) (s : State) : Res :=
  onObj (hasTile s tile) s (issueV s tile (vregWord 0x38 f) (fun s => slotWait s tile .ve (bits f.imm.toNat 0 5) (bits f.imm.toNat 16 16)))

/-- VSIG (R338). -/
def execVsig (tile : Nat) (f : VReg) (s : State) : Res :=
  onObj (hasTile s tile) s (issueV s tile (vregWord 0x39 f) (fun s => slotSig s tile .ve (bits f.imm.toNat 0 5) (bits f.imm.toNat 16 16)))

/-- LOOP of the vector engine (R333). -/
def execVeLoop (tile : Nat) (f : VReg) (s : State) : Res :=
  onObj (hasTile s tile) s (issueV s tile (vregWord 0x3A f) (fun s => slotLoop s tile .ve f.imm.toNat))

/-- ENDLOOP of the vector engine (R333). -/
def execVeEndloop (tile : Nat) (f : VReg) (s : State) : Res :=
  onObj (hasTile s tile) s (issueV s tile (vregWord 0x3B f) (fun s => slotEndloop s tile .ve))

/-- CW.SOFTMAX (R275). -/
def execCwSoftmax (tile argLine : Nat) (s : State) : Res := onObj (hasTile s tile) s (cwCall s tile 1 argLine)

/-- CW.LNORM (R276). -/
def execCwLnorm (tile argLine : Nat) (s : State) : Res := onObj (hasTile s tile) s (cwCall s tile 2 argLine)

/-- CW.RMSNORM (R276). -/
def execCwRmsnorm (tile argLine : Nat) (s : State) : Res := onObj (hasTile s tile) s (cwCall s tile 3 argLine)

/-- ENGINE_ROUTINE_DONE (R274, R349). -/
def execEngineRoutineDone (tile : Nat) (s : State) : Res :=
  onObj (hasTile s tile) s (if tileRuns s tile then cwEnd s tile else s)

end Sys2Proof.Machine
end

