-- ==== Sys2Proof/Machine/Dispatch.lean ====
section
/-! DEFINITION. Which meaning each command has: one arm per constructor. -/
namespace Sys2Proof.Machine

/-- The effect of a command on everything but the queue of waiting commands. -/
def exec (i : Instr) (s : State) : Host.Outcome State Fault Refusal :=
  match i with
  | .registerWrite w off size v => Sys2Proof.Machine.execRegisterWrite w off size v s
  | .w1cClear w off v => Sys2Proof.Machine.execW1cClear w off v s
  | .ctrlReset w p => Sys2Proof.Machine.execCtrlReset w p s
  | .ctrlFreeze w p on => Sys2Proof.Machine.execCtrlFreeze w p on s
  | .ctrlEnable w p on => Sys2Proof.Machine.execCtrlEnable w p on s
  | .islandUngateDone tile => Sys2Proof.Machine.execIslandUngateDone tile s
  | .bwWrite w off v => Sys2Proof.Machine.execBwWrite w off v s
  | .bwCommit => Sys2Proof.Machine.execBwCommit s
  | .msixMessage vec => Sys2Proof.Machine.execMsixMessage vec s
  | .dramRequest r => Sys2Proof.Machine.execDramRequest r s
  | .dramCommandIssue stack ch ready media => Sys2Proof.Machine.execDramCommandIssue stack ch ready media s
  | .rowIdleClose stack ch bank => Sys2Proof.Machine.execRowIdleClose stack ch bank s
  | .rowDecodeDone stack ch bank => Sys2Proof.Machine.execRowDecodeDone stack ch bank s
  | .parityRebuildDone stack => Sys2Proof.Machine.execParityRebuildDone stack s
  | .parityWriteback stack ch line => Sys2Proof.Machine.execParityWriteback stack ch line s
  | .parityIdleTimeout stack ch => Sys2Proof.Machine.execParityIdleTimeout stack ch s
  | .pcflush w stack v => Sys2Proof.Machine.execPcflush w stack v s
  | .flushDone stack => Sys2Proof.Machine.execFlushDone stack s
  | .refreshDue stack ch => Sys2Proof.Machine.execRefreshDue stack ch s
  | .refreshBurst stack ch => Sys2Proof.Machine.execRefreshBurst stack ch s
  | .burstDone stack ch => Sys2Proof.Machine.execBurstDone stack ch s
  | .tempSample stack readings => Sys2Proof.Machine.execTempSample stack readings s
  | .rateCool stack => Sys2Proof.Machine.execRateCool stack s
  | .warnRearm stack => Sys2Proof.Machine.execWarnRearm stack s
  | .srEnter w stack v => Sys2Proof.Machine.execSrEnter w stack v s
  | .srHeld stack => Sys2Proof.Machine.execSrHeld stack s
  | .srExit w stack v => Sys2Proof.Machine.execSrExit w stack v s
  | .srReady x => Sys2Proof.Machine.execSrReady x s
  | .eccStrength w stack v => Sys2Proof.Machine.execEccStrength w stack v s
  | .reformatDone stack => Sys2Proof.Machine.execReformatDone stack s
  | .fallowRow w stack entry v => Sys2Proof.Machine.execFallowRow w stack entry v s
  | .fallowBank w stack n v => Sys2Proof.Machine.execFallowBank w stack n v s
  | .fallowCopyRow stack => Sys2Proof.Machine.execFallowCopyRow stack s
  | .fallowDone stack => Sys2Proof.Machine.execFallowDone stack s
  | .tedderVisit stack media => Sys2Proof.Machine.execTedderVisit stack media s
  | .scrubLate stack => Sys2Proof.Machine.execScrubLate stack s
  | .scrubPeriodWrite w stack v => Sys2Proof.Machine.execScrubPeriodWrite w stack v s
  | .calTest w stack v => Sys2Proof.Machine.execCalTest w stack v s
  | .calStart w stack v => Sys2Proof.Machine.execCalStart w stack v s
  | .calAbort w stack v => Sys2Proof.Machine.execCalAbort w stack v s
  | .trainDone stack run => Sys2Proof.Machine.execTrainDone stack run s
  | .skylarkStep stack ch wire wr below above => Sys2Proof.Machine.execSkylarkStep stack ch wire wr below above s
  | .marginMeasure stack ch wire reach => Sys2Proof.Machine.execMarginMeasure stack ch wire reach s
  | .laneCeClear stack => Sys2Proof.Machine.execLaneCeClear stack s
  | .windowWaitExpiry stack ch => Sys2Proof.Machine.execWindowWaitExpiry stack ch s
  | .windowDone stack ch found => Sys2Proof.Machine.execWindowDone stack ch found s
  | .chmodeWrite w stack ch v => Sys2Proof.Machine.execChmodeWrite w stack ch v s
  | .modeProc stack ch => Sys2Proof.Machine.execModeProc stack ch s
  | .modeMem stack ch => Sys2Proof.Machine.execModeMem stack ch s
  | .programWrite at_ off data => Sys2Proof.Machine.execProgramWrite at_ off data s
  | .swathCommandWrite at_ off data => Sys2Proof.Machine.execSwathCommandWrite at_ off data s
  | .swathLaunch at_ word7 => Sys2Proof.Machine.execSwathLaunch at_ word7 s
  | .sRegisterWrite at_ off data => Sys2Proof.Machine.execSRegisterWrite at_ off data s
  | .operandWrite at_ off data poison => Sys2Proof.Machine.execOperandWrite at_ off data poison s
  | .operandRead at_ slot => Sys2Proof.Machine.execOperandRead at_ slot s
  | .resultSlotRead at_ slot => Sys2Proof.Machine.execResultSlotRead at_ slot s
  | .unitStatusRead at_ => Sys2Proof.Machine.execUnitStatusRead at_ s
  | .broadcastWrite at_ mirror off data poison => Sys2Proof.Machine.execBroadcastWrite at_ mirror off data poison s
  | .broadcastRead at_ mirror slot => Sys2Proof.Machine.execBroadcastRead at_ mirror slot s
  | .swathStart unit => Sys2Proof.Machine.execSwathStart unit s
  | .swathRowCommit unit => Sys2Proof.Machine.execSwathRowCommit unit s
  | .swathLimit unit => Sys2Proof.Machine.execSwathLimit unit s
  | .sorrelCorrectionDone unit => Sys2Proof.Machine.execSorrelCorrectionDone unit s
  | .breather stack ch => Sys2Proof.Machine.execBreather stack ch s
  | .breatherEnd stack ch => Sys2Proof.Machine.execBreatherEnd stack ch s
  | .wrAccArrival port p => Sys2Proof.Machine.execWrAccArrival port p s
  | .srlNop unit f => Sys2Proof.Machine.execSrlNop unit f s
  | .ld unit f media => Sys2Proof.Machine.execLd unit f media s
  | .st unit f => Sys2Proof.Machine.execSt unit f s
  | .sst unit f => Sys2Proof.Machine.execSst unit f s
  | .mov unit f => Sys2Proof.Machine.execMov unit f s
  | .sbc unit f => Sys2Proof.Machine.execSbc unit f s
  | .sins unit f => Sys2Proof.Machine.execSins unit f s
  | .rdfl unit f => Sys2Proof.Machine.execRdfl unit f s
  | .add unit f => Sys2Proof.Machine.execAdd unit f s
  | .sub unit f => Sys2Proof.Machine.execSub unit f s
  | .mul unit f => Sys2Proof.Machine.execMul unit f s
  | .fma unit f => Sys2Proof.Machine.execFma unit f s
  | .min unit f => Sys2Proof.Machine.execMin unit f s
  | .max unit f => Sys2Proof.Machine.execMax unit f s
  | .cmp unit f => Sys2Proof.Machine.execCmp unit f s
  | .sel unit f => Sys2Proof.Machine.execSel unit f s
  | .rsq unit f => Sys2Proof.Machine.execRsq unit f s
  | .cvt unit f => Sys2Proof.Machine.execCvt unit f s
  | .red unit f => Sys2Proof.Machine.execRed unit f s
  | .post unit f => Sys2Proof.Machine.execPost unit f s
  | .seed unit f => Sys2Proof.Machine.execSeed unit f s
  | .wsend unit f => Sys2Proof.Machine.execWsend unit f s
  | .wrecv unit f => Sys2Proof.Machine.execWrecv unit f s
  | .wradd unit f => Sys2Proof.Machine.execWradd unit f s
  | .wrTimeout unit => Sys2Proof.Machine.execWrTimeout unit s
  | .adamw unit f => Sys2Proof.Machine.execAdamw unit f s
  | .sgdm unit f => Sys2Proof.Machine.execSgdm unit f s
  | .accum unit f => Sys2Proof.Machine.execAccum unit f s
  | .shadow unit f => Sys2Proof.Machine.execShadow unit f s
  | .acci unit => Sys2Proof.Machine.execAcci unit s
  | .mxNop tile n => Sys2Proof.Machine.execMxNop tile n s
  | .mxWait tile sem k => Sys2Proof.Machine.execMxWait tile sem k s
  | .mxSig tile sem v => Sys2Proof.Machine.execMxSig tile sem v s
  | .mxLoop tile count => Sys2Proof.Machine.execMxLoop tile count s
  | .mxEndloop tile => Sys2Proof.Machine.execMxEndloop tile s
  | .mxCfgLoad tile slot line => Sys2Proof.Machine.execMxCfgLoad tile slot line s
  | .mxRun tile slot => Sys2Proof.Machine.execMxRun tile slot s
  | .mxPassEnd tile => Sys2Proof.Machine.execMxPassEnd tile s
  | .runDone tile => Sys2Proof.Machine.execRunDone tile s
  | .sramUe tile word bits => Sys2Proof.Machine.execSramUe tile word bits s
  | .vnop tile f => Sys2Proof.Machine.execVnop tile f s
  | .vsetvl tile f => Sys2Proof.Machine.execVsetvl tile f s
  | .vsetctl tile f => Sys2Proof.Machine.execVsetctl tile f s
  | .vseta tile f => Sys2Proof.Machine.execVseta tile f s
  | .vadda tile f => Sys2Proof.Machine.execVadda tile f s
  | .vrdfl tile f => Sys2Proof.Machine.execVrdfl tile f s
  | .vclrfl tile f => Sys2Proof.Machine.execVclrfl tile f s
  | .vld tile f => Sys2Proof.Machine.execVld tile f s
  | .vlds tile f => Sys2Proof.Machine.execVlds tile f s
  | .tld tile f => Sys2Proof.Machine.execTld tile f s
  | .vst tile f => Sys2Proof.Machine.execVst tile f s
  | .vsts tile f => Sys2Proof.Machine.execVsts tile f s
  | .tst tile f => Sys2Proof.Machine.execTst tile f s
  | .vadd tile f => Sys2Proof.Machine.execVadd tile f s
  | .vsub tile f => Sys2Proof.Machine.execVsub tile f s
  | .vmul tile f => Sys2Proof.Machine.execVmul tile f s
  | .vfma tile f => Sys2Proof.Machine.execVfma tile f s
  | .vmin tile f => Sys2Proof.Machine.execVmin tile f s
  | .vmax tile f => Sys2Proof.Machine.execVmax tile f s
  | .vcmp tile f => Sys2Proof.Machine.execVcmp tile f s
  | .vsel tile f => Sys2Proof.Machine.execVsel tile f s
  | .vand tile f => Sys2Proof.Machine.execVand tile f s
  | .vor tile f => Sys2Proof.Machine.execVor tile f s
  | .vxor tile f => Sys2Proof.Machine.execVxor tile f s
  | .vidx tile f => Sys2Proof.Machine.execVidx tile f s
  | .vmov tile f => Sys2Proof.Machine.execVmov tile f s
  | .vcvt tile f => Sys2Proof.Machine.execVcvt tile f s
  | .vmxp tile f => Sys2Proof.Machine.execVmxp tile f s
  | .vrcp tile f => Sys2Proof.Machine.execVrcp tile f s
  | .vrsq tile f => Sys2Proof.Machine.execVrsq tile f s
  | .vexp2 tile f => Sys2Proof.Machine.execVexp2 tile f s
  | .vlog2 tile f => Sys2Proof.Machine.execVlog2 tile f s
  | .vperm tile f => Sys2Proof.Machine.execVperm tile f s
  | .vred tile f => Sys2Proof.Machine.execVred tile f s
  | .trow tile f => Sys2Proof.Machine.execTrow tile f s
  | .tcol tile f => Sys2Proof.Machine.execTcol tile f s
  | .vwait tile f => Sys2Proof.Machine.execVwait tile f s
  | .vsig tile f => Sys2Proof.Machine.execVsig tile f s
  | .veLoop tile f => Sys2Proof.Machine.execVeLoop tile f s
  | .veEndloop tile f => Sys2Proof.Machine.execVeEndloop tile f s
  | .cwSoftmax tile argLine => Sys2Proof.Machine.execCwSoftmax tile argLine s
  | .cwLnorm tile argLine => Sys2Proof.Machine.execCwLnorm tile argLine s
  | .cwRmsnorm tile argLine => Sys2Proof.Machine.execCwRmsnorm tile argLine s
  | .engineRoutineDone tile => Sys2Proof.Machine.execEngineRoutineDone tile s
  | .semaphoreWaitRelease tile who held => Sys2Proof.Machine.execSemaphoreWaitRelease tile who held s
  | .dmaStart w tile ch v => Sys2Proof.Machine.execDmaStart w tile ch v s
  | .programHeld tile ch => Sys2Proof.Machine.execProgramHeld tile ch s
  | .dmaEnd tile ch => Sys2Proof.Machine.execDmaEnd tile ch s
  | .dmaLoop tile ch count => Sys2Proof.Machine.execDmaLoop tile ch count s
  | .dmaEndloop tile ch => Sys2Proof.Machine.execDmaEndloop tile ch s
  | .dmaWait tile ch sem k => Sys2Proof.Machine.execDmaWait tile ch sem k s
  | .signal tile ch word => Sys2Proof.Machine.execSignal tile ch word s
  | .move tile ch words => Sys2Proof.Machine.execMove tile ch words s
  | .dmaRequestDone tile ch write => Sys2Proof.Machine.execDmaRequestDone tile ch write s
  | .descCreate w slot handle => Sys2Proof.Machine.execDescCreate w slot handle s
  | .descDestroy w slot handle => Sys2Proof.Machine.execDescDestroy w slot handle s
  | .alloc w slot => Sys2Proof.Machine.execAlloc w slot s
  | .free w slot => Sys2Proof.Machine.execFree w slot s
  | .publish w table => Sys2Proof.Machine.execPublish w table s
  | .publishDone table unreachable => Sys2Proof.Machine.execPublishDone table unreachable s
  | .unpublish w table => Sys2Proof.Machine.execUnpublish w table s
  | .svcModeWrite w v => Sys2Proof.Machine.execSvcModeWrite w v s
  | .seqStart w die v => Sys2Proof.Machine.execSeqStart w die v s
  | .seqStop w die v => Sys2Proof.Machine.execSeqStop w die v s
  | .longWordFetch die corrected uncorrectable => Sys2Proof.Machine.execLongWordFetch die corrected uncorrectable s
  | .longWordDelivery die => Sys2Proof.Machine.execLongWordDelivery die s
  | .cnop die => Sys2Proof.Machine.execCnop die s
  | .align die prime => Sys2Proof.Machine.execAlign die prime s
  | .alignRelease tile => Sys2Proof.Machine.execAlignRelease tile s
  | .tokw die counter k => Sys2Proof.Machine.execTokw die counter k s
  | .tokwRelease die => Sys2Proof.Machine.execTokwRelease die s
  | .toks die counter v => Sys2Proof.Machine.execToks die counter v s
  | .toksAdd die => Sys2Proof.Machine.execToksAdd die s
  | .call die routine => Sys2Proof.Machine.execCall die routine s
  | .ret die => Sys2Proof.Machine.execRet die s
  | .ecall die routine argLine => Sys2Proof.Machine.execEcall die routine argLine s
  | .mark die marker => Sys2Proof.Machine.execMark die marker s
  | .switch die entry => Sys2Proof.Machine.execSwitch die entry s
  | .seqEnd die => Sys2Proof.Machine.execSeqEnd die s
  | .seqDrained die => Sys2Proof.Machine.execSeqDrained die s
  | .dstart tile ch => Sys2Proof.Machine.execDstart tile ch s
  | .drun tile ch slot => Sys2Proof.Machine.execDrun tile ch slot s
  | .dmaCfgLoad tile slot line => Sys2Proof.Machine.execDmaCfgLoad tile slot line s
  | .dmaSlotNop tile n => Sys2Proof.Machine.execDmaSlotNop tile n s
  | .dmaSlotWait tile sem k => Sys2Proof.Machine.execDmaSlotWait tile sem k s
  | .dmaSlotSig tile sem v => Sys2Proof.Machine.execDmaSlotSig tile sem v s
  | .dmaSlotLoop tile count => Sys2Proof.Machine.execDmaSlotLoop tile count s
  | .dmaSlotEndloop tile => Sys2Proof.Machine.execDmaSlotEndloop tile s
  | .srlCfgLoad tile slot line => Sys2Proof.Machine.execSrlCfgLoad tile slot line s
  | .srun tile slot => Sys2Proof.Machine.execSrun tile slot s
  | .swr tile stack ch pa n line => Sys2Proof.Machine.execSwr tile stack ch pa n line s
  | .srd tile stack ch pa n line => Sys2Proof.Machine.execSrd tile stack ch pa n line s
  | .swait tile stack ch slot mask => Sys2Proof.Machine.execSwait tile stack ch slot mask s
  | .srlSlotNop tile n => Sys2Proof.Machine.execSrlSlotNop tile n s
  | .srlSlotWait tile sem k => Sys2Proof.Machine.execSrlSlotWait tile sem k s
  | .srlSlotSig tile sem v => Sys2Proof.Machine.execSrlSlotSig tile sem v s
  | .srlSlotLoop tile count => Sys2Proof.Machine.execSrlSlotLoop tile count s
  | .srlSlotEndloop tile => Sys2Proof.Machine.execSrlSlotEndloop tile s
  | .asfPush w tile v => Sys2Proof.Machine.execAsfPush w tile v s
  | .asfWait tile e => Sys2Proof.Machine.execAsfWait tile e s
  | .semRegisterWrite w tile j v => Sys2Proof.Machine.execSemRegisterWrite w tile j v s
  | .imemLoad w die v => Sys2Proof.Machine.execImemLoad w die v s
  | .loadDone die => Sys2Proof.Machine.execLoadDone die s
  | .bankActiveWrite w die v => Sys2Proof.Machine.execBankActiveWrite w die v s
  | .arbitrationPhase die inst requests => Sys2Proof.Machine.execArbitrationPhase die inst requests s
  | .transferEnd die inst => Sys2Proof.Machine.execTransferEnd die inst s
  | .arbPrioWrite w die inst half v => Sys2Proof.Machine.execArbPrioWrite w die inst half v s
  | .cutoff die inst => Sys2Proof.Machine.execCutoff die inst s
  | .offenceExpiry die inst req => Sys2Proof.Machine.execOffenceExpiry die inst req s
  | .isolClear w die inst v => Sys2Proof.Machine.execIsolClear w die inst v s
  | .fabricPacket die edge crcOk dest load => Sys2Proof.Machine.execFabricPacket die edge crcOk dest load s
  | .flitReceive port f => Sys2Proof.Machine.execFlitReceive port f s
  | .nak port ack => Sys2Proof.Machine.execNak port ack s
  | .replayTimeout port => Sys2Proof.Machine.execReplayTimeout port s
  | .eqReport port codes => Sys2Proof.Machine.execEqReport port codes s
  | .packetSend port p => Sys2Proof.Machine.execPacketSend port p s
  | .wr port p => Sys2Proof.Machine.execWr port p s
  | .wrAcc port p => Sys2Proof.Machine.execWrAcc port p s
  | .rdReq port p => Sys2Proof.Machine.execRdReq port p s
  | .rdRsp port p => Sys2Proof.Machine.execRdRsp port p s
  | .sig port p => Sys2Proof.Machine.execSig port p s
  | .fence port p => Sys2Proof.Machine.execFence port p s
  | .fenceRelease port => Sys2Proof.Machine.execFenceRelease port s
  | .descReq port p => Sys2Proof.Machine.execDescReq port p s
  | .descRsp port p => Sys2Proof.Machine.execDescRsp port p s
  | .release port p => Sys2Proof.Machine.execRelease port p s
  | .ping port p => Sys2Proof.Machine.execPing port p s
  | .pong port p => Sys2Proof.Machine.execPong port p s
  | .faultNote port p => Sys2Proof.Machine.execFaultNote port p s
  | .ident port p => Sys2Proof.Machine.execIdent port p s
  | .resetNote port p => Sys2Proof.Machine.execResetNote port p s
  | .completionTimeout port srcId tag => Sys2Proof.Machine.execCompletionTimeout port srcId tag s
  | .vylRetrain w port v => Sys2Proof.Machine.execVylRetrain w port v s
  | .retrainDone port half => Sys2Proof.Machine.execRetrainDone port half s
  | .retrainTimeout port => Sys2Proof.Machine.execRetrainTimeout port s
  | .laneLockLoss port lane => Sys2Proof.Machine.execLaneLockLoss port lane s
  | .portRetry port => Sys2Proof.Machine.execPortRetry port s
  | .syncCounterWrite w counter v => Sys2Proof.Machine.execSyncCounterWrite w counter v s
  | .watchArm w watch v => Sys2Proof.Machine.execWatchArm w watch v s
  | .routeWrite w d v => Sys2Proof.Machine.execRouteWrite w d v s
  | .memrd dpa => Sys2Proof.Machine.execMemrd dpa s
  | .memwr dpa data poison => Sys2Proof.Machine.execMemwr dpa data poison s
  | .memwrptl dpa data poison => Sys2Proof.Machine.execMemwrptl dpa data poison s
  | .getEventRecords max => Sys2Proof.Machine.execGetEventRecords max s
  | .clearEventRecords all handles => Sys2Proof.Machine.execClearEventRecords all handles s
  | .getEventInterruptPolicy => Sys2Proof.Machine.execGetEventInterruptPolicy s
  | .setEventInterruptPolicy policy => Sys2Proof.Machine.execSetEventInterruptPolicy policy s
  | .getFwInfo => Sys2Proof.Machine.execGetFwInfo s
  | .transferFw act slot img => Sys2Proof.Machine.execTransferFw act slot img s
  | .activateFw slot online => Sys2Proof.Machine.execActivateFw slot online s
  | .getTimestamp => Sys2Proof.Machine.execGetTimestamp s
  | .setTimestamp t => Sys2Proof.Machine.execSetTimestamp t s
  | .getSupportedLogs => Sys2Proof.Machine.execGetSupportedLogs s
  | .getLog offset len => Sys2Proof.Machine.execGetLog offset len s
  | .identifyMemoryDevice => Sys2Proof.Machine.execIdentifyMemoryDevice s
  | .getHealthInfo => Sys2Proof.Machine.execGetHealthInfo s
  | .getPoisonList dpa len => Sys2Proof.Machine.execGetPoisonList dpa len s
  | .injectPoison dpa => Sys2Proof.Machine.execInjectPoison dpa s
  | .clearPoison dpa data => Sys2Proof.Machine.execClearPoison dpa data s
  | .getScanMediaCapabilities dpa len => Sys2Proof.Machine.execGetScanMediaCapabilities dpa len s
  | .scanMedia dpa len => Sys2Proof.Machine.execScanMedia dpa len s
  | .scanMediaDone => Sys2Proof.Machine.execScanMediaDone s
  | .getScanMediaResults => Sys2Proof.Machine.execGetScanMediaResults s
  | .getReserved => Sys2Proof.Machine.execGetReserved s
  | .getStackLog stack index count => Sys2Proof.Machine.execGetStackLog stack index count s
  | .getFaultRecord => Sys2Proof.Machine.execGetFaultRecord s
  | .functionLevelReset => Sys2Proof.Machine.execFunctionLevelReset s
  | .hotReset => Sys2Proof.Machine.execHotReset s
  | .perstAssert => Sys2Proof.Machine.execPerstAssert s
  | .perstDeassert b => Sys2Proof.Machine.execPerstDeassert b s
  | .stackTrained stack res => Sys2Proof.Machine.execStackTrained stack res s
  | .memoryActive => Sys2Proof.Machine.execMemoryActive s
  | .arbRaise => Sys2Proof.Machine.execArbRaise s
  | .secArbWrite w v => Sys2Proof.Machine.execSecArbWrite w v s
  | .ownerCommit w v sigOk => Sys2Proof.Machine.execOwnerCommit w v sigOk s
  | .spdmRequest r => Sys2Proof.Machine.execSpdmRequest r s
  | .cdatRequest => Sys2Proof.Machine.execCdatRequest s
  | .ledgerTick => Sys2Proof.Machine.execLedgerTick s
  | .railReport die rail mA mV => Sys2Proof.Machine.execRailReport die rail mA mV s
  | .calibration die => Sys2Proof.Machine.execCalibration die s
  | .ledgClassWrite w v => Sys2Proof.Machine.execLedgClassWrite w v s
  | .ledgCeiling w v => Sys2Proof.Machine.execLedgCeiling w v s
  | .planSubmit w => Sys2Proof.Machine.execPlanSubmit w s
  | .planCancel w => Sys2Proof.Machine.execPlanCancel w s
  | .planEnd => Sys2Proof.Machine.execPlanEnd s
  | .planOverrun => Sys2Proof.Machine.execPlanOverrun s
  | .faultEntry die cause => Sys2Proof.Machine.execFaultEntry die cause s
  | .secondaryFault die cause => Sys2Proof.Machine.execSecondaryFault die cause s
  | .faultRecord => Sys2Proof.Machine.execFaultRecord s
  | .jobReset w v => Sys2Proof.Machine.execJobReset w v s
  | .resetDone => Sys2Proof.Machine.execResetDone s
  | .checkpointFence w v => Sys2Proof.Machine.execCheckpointFence w v s
  | .fenceDone => Sys2Proof.Machine.execFenceDone s
  | .fenceReleaseWrite w v => Sys2Proof.Machine.execFenceReleaseWrite w v s
  | .wdogKick w die v => Sys2Proof.Machine.execWdogKick w die v s
  | .wdogExpired die => Sys2Proof.Machine.execWdogExpired die s
  | .fltAssert w die v => Sys2Proof.Machine.execFltAssert w die v s
  | .recclr w die v => Sys2Proof.Machine.execRecclr w die v s
  | .mainInputRemoval why => Sys2Proof.Machine.execMainInputRemoval why s
  | .mainInputApplied b => Sys2Proof.Machine.execMainInputApplied b s
  | .auxInputChange on => Sys2Proof.Machine.execAuxInputChange on s
  | .junctionProtection die reading => Sys2Proof.Machine.execJunctionProtection die reading s
  | .sidebandSensorReport mainMv mainMa auxMv coolant junctions => Sys2Proof.Machine.execSidebandSensorReport mainMv mainMa auxMv coolant junctions s
  | .sidebandRequest r => Sys2Proof.Machine.execSidebandRequest r s
  | .windowPeriodElapsed stack ch => Sys2Proof.Machine.execWindowPeriodElapsed stack ch s
  | .srlAccessCompletion tile => Sys2Proof.Machine.execSrlAccessCompletion tile s
  | .cxlLinkUp width rate flit256 => Sys2Proof.Machine.execCxlLinkUp width rate flit256 s
  | .coreRestartDone die copyOk => Sys2Proof.Machine.execCoreRestartDone die copyOk s

end Sys2Proof.Machine
end

