-- ==== Sys2Proof/WellFormed.lean ====
section
/-! DEFINITION. Which commands are well formed: every operand lies in the range that the manual gives it on the largest member
(R8, R11, R36, R45, R46). Whether the member at hand has the object is a question of the state. -/
namespace Sys2Proof

/-- A writer: the host or the Uzoid core of one of at most eight dies. -/
def writerOk : Writer → Bool
  | .host => true
  | .uzoid d => decide (d < 8)

/-- A page of the aperture (R45). -/
def pageOkay (p : Page) : Bool := p.die < 8 && p.blk < 32 && p.inst < 256

/-- A unit of a channel (R164). -/
def cmdAtOk (a : CmdAt) : Bool := a.stack < 20 && a.ch < 32 && a.bank < 16

/-- A request: an address of the part and 1 to 32 sectors within one row (R72). -/
def reqOk (r : Req) : Bool := r.pa < 2 ^ 41 && 1 ≤ r.nsec && r.nsec ≤ 32

/-- A port, or 16 + die: the place of a packet that a die sends to itself (R423). -/
def endOk (port : Nat) : Bool := port < 12 || (16 ≤ port && port < 24)

/-- A packet of the package fabric (R394): a payload of 64 B to 4 KiB, a mark per 64 B. -/
def fabOk (p : FabLoad) : Bool :=
  p.src < 8 && 64 ≤ p.payload.length && p.payload.length ≤ 4096 && p.poison.length = (p.payload.length + 63) / 64

/-- A packet's type and virtual channel (R416, R417). -/
def pktOk (p : Pkt) : Bool := p.typ < 16 && p.vc < 4

/-- A well-formed command. -/
def Instr.wf : Instr → Bool
  | .registerWrite w off size _ => writerOk w && off < 2 ^ 30 && (size = 1 || size = 2 || size = 4 || size = 8)
  | .w1cClear w off _ | .bwWrite w off _ => writerOk w && off < 2 ^ 28
  | .ctrlReset w p | .ctrlFreeze w p _ | .ctrlEnable w p _ => writerOk w && pageOkay p
  | .islandUngateDone tile | .mxNop tile _ | .mxWait tile _ _ | .mxSig tile _ _ | .mxLoop tile _ | .mxEndloop tile
  | .mxCfgLoad tile _ _ | .mxRun tile _ | .mxPassEnd tile | .runDone tile | .vnop tile _ | .vsetvl tile _ | .vsetctl tile _
  | .vseta tile _ | .vadda tile _ | .vrdfl tile _ | .vclrfl tile _ | .vld tile _ | .vlds tile _ | .tld tile _ | .vst tile _
  | .vsts tile _ | .tst tile _ | .vadd tile _ | .vsub tile _ | .vmul tile _ | .vfma tile _ | .vmin tile _ | .vmax tile _
  | .vcmp tile _ | .vsel tile _ | .vand tile _ | .vor tile _ | .vxor tile _ | .vidx tile _ | .vmov tile _ | .vcvt tile _
  | .vmxp tile _ | .vrcp tile _ | .vrsq tile _ | .vexp2 tile _ | .vlog2 tile _ | .vperm tile _ | .vred tile _ | .trow tile _
  | .tcol tile _ | .vwait tile _ | .vsig tile _ | .veLoop tile _ | .veEndloop tile _ | .engineRoutineDone tile
  | .semaphoreWaitRelease tile _ _ | .alignRelease tile | .dstart tile _ | .drun tile _ _ | .dmaCfgLoad tile _ _
  | .dmaSlotNop tile _ | .dmaSlotWait tile _ _ | .dmaSlotSig tile _ _ | .dmaSlotLoop tile _ | .dmaSlotEndloop tile
  | .srlCfgLoad tile _ _ | .srun tile _ | .swr tile _ _ _ _ _ | .srd tile _ _ _ _ _ | .swait tile _ _ _ _ | .srlSlotNop tile _
  | .srlSlotWait tile _ _ | .srlSlotSig tile _ _ | .srlSlotLoop tile _ | .srlSlotEndloop tile | .asfWait tile _
  | .srlAccessCompletion tile => tile < 512
  | .bwCommit | .memrd _ | .memwr _ _ _ | .memwrptl _ _ _ | .getEventRecords _ | .clearEventRecords _ _
  | .getEventInterruptPolicy | .setEventInterruptPolicy _ | .getFwInfo | .transferFw _ _ _ | .activateFw _ _ | .getTimestamp
  | .setTimestamp _ | .getSupportedLogs | .getLog _ _ | .identifyMemoryDevice | .getHealthInfo | .getPoisonList _ _
  | .injectPoison _ | .clearPoison _ _ | .getScanMediaCapabilities _ _ | .scanMedia _ _ | .scanMediaDone | .getScanMediaResults
  | .getReserved | .getFaultRecord | .functionLevelReset | .hotReset | .perstAssert | .perstDeassert _ | .memoryActive
  | .arbRaise | .spdmRequest _ | .cdatRequest | .ledgerTick | .planEnd | .planOverrun | .faultRecord | .resetDone | .fenceDone
  | .mainInputRemoval _ | .mainInputApplied _ | .auxInputChange _ | .sidebandSensorReport _ _ _ _ _ | .sidebandRequest _
  | .cxlLinkUp _ _ _ => true
  | .msixMessage vec => vec < 64
  | .dramRequest r => reqOk r
  | .dramCommandIssue stack ch _ _ | .parityWriteback stack ch _ | .parityIdleTimeout stack ch | .refreshDue stack ch
  | .refreshBurst stack ch | .burstDone stack ch | .windowWaitExpiry stack ch | .windowDone stack ch _ | .modeProc stack ch
  | .modeMem stack ch | .breather stack ch | .breatherEnd stack ch | .windowPeriodElapsed stack ch => stack < 20 && ch < 32
  | .rowIdleClose stack ch bank | .rowDecodeDone stack ch bank => stack < 20 && ch < 32 && bank < 16
  | .srReady x => x.stack < 20
  | .parityRebuildDone stack | .flushDone stack | .tempSample stack _ | .rateCool stack | .warnRearm stack | .srHeld stack
  | .reformatDone stack | .fallowCopyRow stack | .fallowDone stack | .tedderVisit stack _ | .scrubLate stack
  | .trainDone stack _ | .laneCeClear stack | .getStackLog stack _ _ | .stackTrained stack _ => stack < 20
  | .pcflush w stack _ | .srEnter w stack _ | .srExit w stack _ | .eccStrength w stack _ | .scrubPeriodWrite w stack _
  | .calTest w stack _ | .calStart w stack _ | .calAbort w stack _ => writerOk w && stack < 20
  | .fallowRow w stack entry _ => writerOk w && stack < 20 && entry < 256
  | .fallowBank w stack n _ => writerOk w && stack < 20 && n < 2
  | .skylarkStep stack ch wire _ _ _ | .marginMeasure stack ch wire _ => stack < 20 && ch < 32 && wire < 64
  | .chmodeWrite w stack ch _ => writerOk w && stack < 20 && ch < 32
  | .programWrite at_ off _ | .swathCommandWrite at_ off _ | .sRegisterWrite at_ off _ | .operandWrite at_ off _ _ => cmdAtOk at_ && off < 512
  | .swathLaunch at_ _ | .unitStatusRead at_ => cmdAtOk at_
  | .operandRead at_ slot | .resultSlotRead at_ slot => cmdAtOk at_ && slot < 8
  | .broadcastWrite at_ mirror off _ _ => cmdAtOk at_ && mirror < 3 && off < 512
  | .broadcastRead at_ mirror slot => cmdAtOk at_ && mirror < 3 && slot < 8
  | .swathStart unit | .swathRowCommit unit | .swathLimit unit | .sorrelCorrectionDone unit | .srlNop unit _ | .ld unit _ _
  | .st unit _ | .sst unit _ | .mov unit _ | .sbc unit _ | .sins unit _ | .rdfl unit _ | .add unit _ | .sub unit _
  | .mul unit _ | .fma unit _ | .min unit _ | .max unit _ | .cmp unit _ | .sel unit _ | .rsq unit _ | .cvt unit _ | .red unit _
  | .post unit _ | .seed unit _ | .wsend unit _ | .wrecv unit _ | .wradd unit _ | .wrTimeout unit | .adamw unit _
  | .sgdm unit _ | .accum unit _ | .shadow unit _ | .acci unit => unit < 10240
  | .wrAccArrival port p | .packetSend port p | .wr port p | .wrAcc port p | .rdReq port p | .rdRsp port p | .sig port p
  | .fence port p | .descReq port p | .descRsp port p | .release port p | .ping port p | .pong port p | .faultNote port p
  | .ident port p | .resetNote port p => endOk port && pktOk p
  | .sramUe tile word bits => tile < 512 && word < 196608 && (bits = 1 || bits = 2)
  | .cwSoftmax tile argLine | .cwLnorm tile argLine | .cwRmsnorm tile argLine => tile < 512 && argLine < 65536
  | .dmaStart w tile ch _ => writerOk w && tile < 512 && ch < 4
  | .programHeld tile ch | .dmaEnd tile ch | .dmaLoop tile ch _ | .dmaEndloop tile ch | .dmaWait tile ch _ _
  | .signal tile ch _ | .move tile ch _ | .dmaRequestDone tile ch _ => tile < 512 && ch < 4
  | .descCreate w slot handle | .descDestroy w slot handle => writerOk w && slot < 9 && handle < 4096
  | .alloc w slot | .free w slot => writerOk w && slot < 9
  | .publish w table | .unpublish w table => writerOk w && table < 32
  | .publishDone table _ => table < 32
  | .svcModeWrite w _ | .secArbWrite w _ | .ownerCommit w _ _ | .ledgClassWrite w _ | .ledgCeiling w _ | .planSubmit w
  | .planCancel w | .jobReset w _ | .checkpointFence w _ | .fenceReleaseWrite w _ => writerOk w
  | .seqStart w die _ | .seqStop w die _ | .imemLoad w die _ | .bankActiveWrite w die _ | .wdogKick w die _
  | .fltAssert w die _ | .recclr w die _ => writerOk w && die < 8
  | .longWordFetch die corrected _ => die < 8 && corrected ≤ 6
  | .longWordDelivery die | .cnop die | .align die _ | .tokw die _ _ | .tokwRelease die | .toks die _ _
  | .toksAdd die | .call die _ | .ret die | .ecall die _ _ | .mark die _ | .switch die _ | .seqEnd die | .seqDrained die
  | .loadDone die | .calibration die | .wdogExpired die | .junctionProtection die _ | .coreRestartDone die _ => die < 8
  | .asfPush w tile _ => writerOk w && tile < 512
  | .semRegisterWrite w tile j _ => writerOk w && tile < 512 && j < 8
  | .arbitrationPhase die inst _ | .transferEnd die inst | .cutoff die inst => die < 8 && inst < 255
  | .arbPrioWrite w die inst half _ => writerOk w && die < 8 && inst < 255 && half < 2
  | .offenceExpiry die inst req => die < 8 && inst < 255 && req < 20
  | .isolClear w die inst _ => writerOk w && die < 8 && inst < 255
  | .fabricPacket die edge _ dest p => die < 8 && edge < 4 && dest < 8 && fabOk p
  | .flitReceive port _ | .nak port _ | .replayTimeout port | .eqReport port _ | .fenceRelease port
  | .completionTimeout port _ _ | .retrainDone port _ | .retrainTimeout port | .portRetry port => endOk port
  | .vylRetrain w port _ => writerOk w && endOk port
  | .laneLockLoss port lane => endOk port && lane < 8
  | .syncCounterWrite w counter _ => writerOk w && counter < 4096
  | .watchArm w watch _ => writerOk w && watch < 8
  | .routeWrite w d _ => writerOk w && d.all (· < 64)
  | .railReport die rail _ _ => die < 8 && rail < 5
  | .faultEntry die cause | .secondaryFault die cause => die < 8 && cause < 8

end Sys2Proof
end

