-- ==== Sys2Proof/Safety.lean ====
section
/-! DEFINITION. What claims count as a safe step, the canonical form of the state's memories and register file, and what no
step takes back. -/
namespace Sys2Proof.Machine

/-- A command completes: it answers a next state. -/
def completes (i : Instr) (s : State) : Prop := ∃ t, exec i s = .next t

/-- The part's memories and its register file are in canonical form, so that equal contents are equal data: keys strictly
rising, and no entry equal to what an unlisted address (a register: its reset value) reads as. -/
structure State.Canonical (s : State) : Prop where
  regs : rising s.regs = true
  regsSet : ∀ p ∈ s.regs, p.2 ≠ resetReg s.member p.1
  mem : Memory.wf s.mem = true
  imem : Memory.wf s.imem = true
  lib : Memory.wf s.lib = true
  tiles : ∀ p ∈ s.tiles, Memory.wf p.2.sram = true
  uzoids : ∀ p ∈ s.uzoids, Memory.wf p.2.iram = true ∧ Memory.wf p.2.dram = true

/-! ## The parts of the state -/

/-- A set of fields of the state, one bit for each. -/
abbrev Parts := Nat

namespace Parts
/-- `State.regs`. -/
abbrev regs : Parts := 0x1
/-- `State.disabled`. -/
abbrev disabled : Parts := 0x2
/-- `State.enabled`. -/
abbrev enabled : Parts := 0x4
/-- `State.vecSent`. -/
abbrev vecSent : Parts := 0x8
/-- `State.vecMask`. -/
abbrev vecMask : Parts := 0x10
/-- `State.vecPend`. -/
abbrev vecPend : Parts := 0x20
/-- `State.vecTable`. -/
abbrev vecTable : Parts := 0x40
/-- `State.funcMask`. -/
abbrev funcMask : Parts := 0x80
/-- `State.mem`. -/
abbrev mem : Parts := 0x100
/-- `State.poison`. -/
abbrev poison : Parts := 0x200
/-- `State.flips`. -/
abbrev flips : Parts := 0x400
/-- `State.slotErrs`. -/
abbrev slotErrs : Parts := 0x800
/-- `State.chans`. -/
abbrev chans : Parts := 0x1000
/-- `State.stackTab`. -/
abbrev stackTab : Parts := 0x2000
/-- `State.units`. -/
abbrev units : Parts := 0x4000
/-- `State.tiles`. -/
abbrev tiles : Parts := 0x8000
/-- `State.seqs`. -/
abbrev seqs : Parts := 0x10000
/-- `State.imem`. -/
abbrev imem : Parts := 0x20000
/-- `State.lib`. -/
abbrev lib : Parts := 0x40000
/-- `State.routines`. -/
abbrev routines : Parts := 0x80000
/-- `State.descs`. -/
abbrev descs : Parts := 0x100000
/-- `State.allocs`. -/
abbrev allocs : Parts := 0x200000
/-- `State.otabs`. -/
abbrev otabs : Parts := 0x400000
/-- `State.descQ`. -/
abbrev descQ : Parts := 0x800000
/-- `State.allocQ`. -/
abbrev allocQ : Parts := 0x1000000
/-- `State.fetches`. -/
abbrev fetches : Parts := 0x2000000
/-- `State.nextFetch`. -/
abbrev nextFetch : Parts := 0x4000000
/-- `State.arbs`. -/
abbrev arbs : Parts := 0x8000000
/-- `State.edges`. -/
abbrev edges : Parts := 0x10000000
/-- `State.ports`. -/
abbrev ports : Parts := 0x20000000
/-- `State.sync`. -/
abbrev sync : Parts := 0x40000000
/-- `State.outReqs`. -/
abbrev outReqs : Parts := 0x80000000
/-- `State.inPkts`. -/
abbrev inPkts : Parts := 0x100000000
/-- `State.nextIn`. -/
abbrev nextIn : Parts := 0x200000000
/-- `State.egress`. -/
abbrev egress : Parts := 0x400000000
/-- `State.cxl`. -/
abbrev cxl : Parts := 0x800000000
/-- `State.armed`. -/
abbrev armed : Parts := 0x1000000000
/-- `State.running`. -/
abbrev running : Parts := 0x2000000000
/-- `State.ledger`. -/
abbrev ledger : Parts := 0x4000000000
/-- `State.causes`. -/
abbrev causes : Parts := 0x8000000000
/-- `State.entries`. -/
abbrev entries : Parts := 0x10000000000
/-- `State.entry`. -/
abbrev entry : Parts := 0x20000000000
/-- `State.history`. -/
abbrev history : Parts := 0x40000000000
/-- `State.clearDesc`. -/
abbrev clearDesc : Parts := 0x80000000000
/-- `State.fenceFlushed`. -/
abbrev fenceFlushed : Parts := 0x100000000000
/-- `State.kicks`. -/
abbrev kicks : Parts := 0x200000000000
/-- `State.uzoids`. -/
abbrev uzoids : Parts := 0x400000000000
/-- `State.restarting`. -/
abbrev restarting : Parts := 0x800000000000
/-- `State.bwq`. -/
abbrev bwq : Parts := 0x1000000000000
/-- `State.flash`. -/
abbrev flash : Parts := 0x2000000000000
/-- `State.board`. -/
abbrev board : Parts := 0x4000000000000
/-- `State.us`. -/
abbrev us : Parts := 0x8000000000000
/-- `State.drawn`. -/
abbrev drawn : Parts := 0x10000000000000
/-- `State.out`. -/
abbrev out : Parts := 0x20000000000000
end Parts

/-- The states agree in every field that is not in the set (the queue and the member apart: `Kept` says those). -/
structure Only (p : Parts) (s t : State) : Prop where
  regs : Nat.land p Parts.regs = 0 → t.regs = s.regs
  disabled : Nat.land p Parts.disabled = 0 → t.disabled = s.disabled
  enabled : Nat.land p Parts.enabled = 0 → t.enabled = s.enabled
  vecSent : Nat.land p Parts.vecSent = 0 → t.vecSent = s.vecSent
  vecMask : Nat.land p Parts.vecMask = 0 → t.vecMask = s.vecMask
  vecPend : Nat.land p Parts.vecPend = 0 → t.vecPend = s.vecPend
  vecTable : Nat.land p Parts.vecTable = 0 → t.vecTable = s.vecTable
  funcMask : Nat.land p Parts.funcMask = 0 → t.funcMask = s.funcMask
  mem : Nat.land p Parts.mem = 0 → t.mem = s.mem
  poison : Nat.land p Parts.poison = 0 → t.poison = s.poison
  flips : Nat.land p Parts.flips = 0 → t.flips = s.flips
  slotErrs : Nat.land p Parts.slotErrs = 0 → t.slotErrs = s.slotErrs
  chans : Nat.land p Parts.chans = 0 → t.chans = s.chans
  stackTab : Nat.land p Parts.stackTab = 0 → t.stackTab = s.stackTab
  units : Nat.land p Parts.units = 0 → t.units = s.units
  tiles : Nat.land p Parts.tiles = 0 → t.tiles = s.tiles
  seqs : Nat.land p Parts.seqs = 0 → t.seqs = s.seqs
  imem : Nat.land p Parts.imem = 0 → t.imem = s.imem
  lib : Nat.land p Parts.lib = 0 → t.lib = s.lib
  routines : Nat.land p Parts.routines = 0 → t.routines = s.routines
  descs : Nat.land p Parts.descs = 0 → t.descs = s.descs
  allocs : Nat.land p Parts.allocs = 0 → t.allocs = s.allocs
  otabs : Nat.land p Parts.otabs = 0 → t.otabs = s.otabs
  descQ : Nat.land p Parts.descQ = 0 → t.descQ = s.descQ
  allocQ : Nat.land p Parts.allocQ = 0 → t.allocQ = s.allocQ
  fetches : Nat.land p Parts.fetches = 0 → t.fetches = s.fetches
  nextFetch : Nat.land p Parts.nextFetch = 0 → t.nextFetch = s.nextFetch
  arbs : Nat.land p Parts.arbs = 0 → t.arbs = s.arbs
  edges : Nat.land p Parts.edges = 0 → t.edges = s.edges
  ports : Nat.land p Parts.ports = 0 → t.ports = s.ports
  sync : Nat.land p Parts.sync = 0 → t.sync = s.sync
  outReqs : Nat.land p Parts.outReqs = 0 → t.outReqs = s.outReqs
  inPkts : Nat.land p Parts.inPkts = 0 → t.inPkts = s.inPkts
  nextIn : Nat.land p Parts.nextIn = 0 → t.nextIn = s.nextIn
  egress : Nat.land p Parts.egress = 0 → t.egress = s.egress
  cxl : Nat.land p Parts.cxl = 0 → t.cxl = s.cxl
  armed : Nat.land p Parts.armed = 0 → t.armed = s.armed
  running : Nat.land p Parts.running = 0 → t.running = s.running
  ledger : Nat.land p Parts.ledger = 0 → t.ledger = s.ledger
  causes : Nat.land p Parts.causes = 0 → t.causes = s.causes
  entries : Nat.land p Parts.entries = 0 → t.entries = s.entries
  entry : Nat.land p Parts.entry = 0 → t.entry = s.entry
  history : Nat.land p Parts.history = 0 → t.history = s.history
  clearDesc : Nat.land p Parts.clearDesc = 0 → t.clearDesc = s.clearDesc
  fenceFlushed : Nat.land p Parts.fenceFlushed = 0 → t.fenceFlushed = s.fenceFlushed
  kicks : Nat.land p Parts.kicks = 0 → t.kicks = s.kicks
  uzoids : Nat.land p Parts.uzoids = 0 → t.uzoids = s.uzoids
  restarting : Nat.land p Parts.restarting = 0 → t.restarting = s.restarting
  bwq : Nat.land p Parts.bwq = 0 → t.bwq = s.bwq
  flash : Nat.land p Parts.flash = 0 → t.flash = s.flash
  board : Nat.land p Parts.board = 0 → t.board = s.board
  us : Nat.land p Parts.us = 0 → t.us = s.us
  drawn : Nat.land p Parts.drawn = 0 → t.drawn = s.drawn
  out : Nat.land p Parts.out = 0 → t.out = s.out

/-- The fields that a command may change. -/
def footprint : Instr → Parts
  | .registerWrite _ _ _ _ =>
    Parts.regs ||| Parts.disabled ||| Parts.vecSent ||| Parts.vecMask ||| Parts.vecPend ||| Parts.vecTable ||| Parts.funcMask
    ||| Parts.mem ||| Parts.poison ||| Parts.flips ||| Parts.slotErrs ||| Parts.chans ||| Parts.stackTab ||| Parts.units
    ||| Parts.tiles ||| Parts.seqs ||| Parts.descs ||| Parts.allocs ||| Parts.otabs ||| Parts.descQ ||| Parts.allocQ
    ||| Parts.fetches ||| Parts.nextFetch ||| Parts.arbs ||| Parts.ports ||| Parts.sync ||| Parts.inPkts ||| Parts.nextIn
    ||| Parts.egress ||| Parts.cxl ||| Parts.armed ||| Parts.running ||| Parts.ledger ||| Parts.causes ||| Parts.clearDesc
    ||| Parts.fenceFlushed ||| Parts.kicks ||| Parts.bwq ||| Parts.drawn ||| Parts.out
  | .w1cClear _ _ _ | .ctrlReset _ _ | .ctrlFreeze _ _ _ | .ctrlEnable _ _ _ | .bwWrite _ _ _ =>
    Parts.regs ||| Parts.disabled ||| Parts.vecSent ||| Parts.vecPend ||| Parts.mem ||| Parts.poison ||| Parts.flips
    ||| Parts.slotErrs ||| Parts.chans ||| Parts.stackTab ||| Parts.units ||| Parts.tiles ||| Parts.seqs ||| Parts.descs
    ||| Parts.allocs ||| Parts.otabs ||| Parts.descQ ||| Parts.allocQ ||| Parts.fetches ||| Parts.nextFetch ||| Parts.arbs
    ||| Parts.ports ||| Parts.sync ||| Parts.inPkts ||| Parts.nextIn ||| Parts.egress ||| Parts.cxl ||| Parts.armed
    ||| Parts.running ||| Parts.ledger ||| Parts.causes ||| Parts.clearDesc ||| Parts.fenceFlushed ||| Parts.kicks
    ||| Parts.bwq ||| Parts.drawn ||| Parts.out
  | .islandUngateDone _ | .mxWait _ _ _ | .dmaSlotWait _ _ _ | .srlSlotWait _ _ _ =>
    Parts.tiles
  | .bwCommit =>
    Parts.regs ||| Parts.vecSent ||| Parts.mem ||| Parts.poison ||| Parts.flips ||| Parts.slotErrs ||| Parts.chans
    ||| Parts.stackTab ||| Parts.cxl ||| Parts.ledger ||| Parts.bwq ||| Parts.flash ||| Parts.drawn
  | .msixMessage _ =>
    Parts.vecSent ||| Parts.vecPend ||| Parts.out
  | .dramRequest _ | .chmodeWrite _ _ _ _ | .modeProc _ _ | .programWrite _ _ _ | .swathCommandWrite _ _ _ | .swathLaunch _ _
  | .sRegisterWrite _ _ _ | .operandWrite _ _ _ _ | .operandRead _ _ | .resultSlotRead _ _ | .unitStatusRead _
  | .broadcastWrite _ _ _ _ _ | .broadcastRead _ _ _ | .swathStart _ | .srun _ _ | .swr _ _ _ _ _ _ | .srd _ _ _ _ _ _
  | .swait _ _ _ _ _ | .asfPush _ _ _ | .memrd _ | .memwr _ _ _ | .memwrptl _ _ _ | .srlAccessCompletion _ =>
    Parts.regs ||| Parts.chans ||| Parts.units ||| Parts.tiles ||| Parts.seqs ||| Parts.nextIn ||| Parts.cxl ||| Parts.ledger
    ||| Parts.causes ||| Parts.drawn ||| Parts.out
  | .dramCommandIssue _ _ _ _ | .rowDecodeDone _ _ _ =>
    Parts.regs ||| Parts.vecSent ||| Parts.mem ||| Parts.poison ||| Parts.flips ||| Parts.slotErrs ||| Parts.chans
    ||| Parts.stackTab ||| Parts.tiles ||| Parts.fetches ||| Parts.inPkts ||| Parts.egress ||| Parts.cxl ||| Parts.ledger
    ||| Parts.causes ||| Parts.out
  | .rowIdleClose _ _ _ =>
    Parts.chans
  | .parityRebuildDone _ | .flushDone _ | .fallowCopyRow _ =>
    Parts.regs ||| Parts.vecSent ||| Parts.mem ||| Parts.poison ||| Parts.flips ||| Parts.slotErrs ||| Parts.chans
    ||| Parts.stackTab ||| Parts.cxl ||| Parts.ledger
  | .parityWriteback _ _ _ | .parityIdleTimeout _ _ =>
    Parts.regs ||| Parts.vecSent ||| Parts.flips ||| Parts.slotErrs ||| Parts.chans ||| Parts.stackTab ||| Parts.cxl
    ||| Parts.ledger
  | .pcflush _ _ _ | .rateCool _ | .scrubLate _ | .svcModeWrite _ _ | .asfWait _ _ | .semRegisterWrite _ _ _ _
  | .bankActiveWrite _ _ _ | .eqReport _ _ | .retrainTimeout _ | .laneLockLoss _ _ | .watchArm _ _ _ | .routeWrite _ _ _
  | .ledgClassWrite _ _ | .recclr _ _ _ | .cxlLinkUp _ _ _ =>
    Parts.regs
  | .refreshDue _ _ | .breatherEnd _ _ =>
    Parts.regs ||| Parts.chans ||| Parts.units
  | .refreshBurst _ _ | .srHeld _ =>
    Parts.regs ||| Parts.chans ||| Parts.stackTab ||| Parts.ledger
  | .burstDone _ _ | .modeMem _ _ =>
    Parts.regs ||| Parts.chans ||| Parts.stackTab
  | .tempSample _ _ =>
    Parts.regs ||| Parts.vecSent ||| Parts.stackTab ||| Parts.units ||| Parts.cxl ||| Parts.ledger ||| Parts.causes
    ||| Parts.out
  | .warnRearm _ =>
    Parts.regs ||| Parts.stackTab ||| Parts.ledger
  | .srEnter _ _ _ | .srExit _ _ _ | .fallowDone _ | .scrubPeriodWrite _ _ _ | .trainDone _ _ | .skylarkStep _ _ _ _ _ _
  | .marginMeasure _ _ _ _ | .laneCeClear _ =>
    Parts.regs ||| Parts.stackTab
  | .srReady _ | .stackTrained _ _ =>
    Parts.regs ||| Parts.mem ||| Parts.poison ||| Parts.flips ||| Parts.slotErrs ||| Parts.chans ||| Parts.stackTab
    ||| Parts.ledger
  | .eccStrength _ _ _ | .fallowRow _ _ _ _ | .fallowBank _ _ _ _ | .arbRaise | .secArbWrite _ _ | .ownerCommit _ _ _
  | .ledgCeiling _ _ =>
    Parts.regs ||| Parts.bwq
  | .reformatDone _ | .windowWaitExpiry _ _ | .breather _ _ | .windowPeriodElapsed _ _ =>
    Parts.regs ||| Parts.chans
  | .tedderVisit _ _ =>
    Parts.regs ||| Parts.vecSent ||| Parts.mem ||| Parts.poison ||| Parts.flips ||| Parts.slotErrs ||| Parts.chans
    ||| Parts.stackTab ||| Parts.tiles ||| Parts.cxl ||| Parts.ledger ||| Parts.causes ||| Parts.drawn
  | .calTest _ _ _ | .calStart _ _ _ | .calAbort _ _ _ =>
    Parts.regs ||| Parts.chans ||| Parts.stackTab ||| Parts.out
  | .windowDone _ _ _ =>
    Parts.regs ||| Parts.stackTab ||| Parts.causes
  | .swathRowCommit _ =>
    Parts.regs ||| Parts.vecSent ||| Parts.poison ||| Parts.flips ||| Parts.slotErrs ||| Parts.chans ||| Parts.stackTab
    ||| Parts.units ||| Parts.tiles ||| Parts.seqs ||| Parts.inPkts ||| Parts.nextIn ||| Parts.egress ||| Parts.cxl
    ||| Parts.ledger ||| Parts.causes ||| Parts.drawn ||| Parts.out
  | .swathLimit _ | .srlNop _ _ | .mov _ _ | .sbc _ _ | .sins _ _ | .rdfl _ _ | .post _ _ | .seed _ _ | .wsend _ _ | .wrecv _ _ =>
    Parts.units
  | .sorrelCorrectionDone _ | .st _ _ | .sst _ _ =>
    Parts.regs ||| Parts.vecSent ||| Parts.mem ||| Parts.poison ||| Parts.flips ||| Parts.slotErrs ||| Parts.chans
    ||| Parts.stackTab ||| Parts.units ||| Parts.cxl ||| Parts.ledger
  | .wrAccArrival _ _ =>
    Parts.regs ||| Parts.poison ||| Parts.chans ||| Parts.stackTab ||| Parts.units ||| Parts.tiles ||| Parts.seqs
    ||| Parts.inPkts ||| Parts.nextIn ||| Parts.egress ||| Parts.cxl ||| Parts.ledger ||| Parts.causes ||| Parts.drawn
    ||| Parts.out
  | .ld _ _ _ =>
    Parts.flips ||| Parts.units ||| Parts.ledger
  | .add _ _ | .sub _ _ | .mul _ _ | .fma _ _ | .min _ _ | .max _ _ | .cmp _ _ | .sel _ _ | .rsq _ _ | .cvt _ _ | .red _ _
  | .wradd _ _ | .wrTimeout _ | .shadow _ _ =>
    Parts.units ||| Parts.causes
  | .adamw _ _ | .sgdm _ _ | .accum _ _ | .acci _ =>
    Parts.regs ||| Parts.vecSent ||| Parts.mem ||| Parts.poison ||| Parts.flips ||| Parts.slotErrs ||| Parts.chans
    ||| Parts.stackTab ||| Parts.units ||| Parts.cxl ||| Parts.ledger ||| Parts.causes
  | .mxNop _ _ | .mxSig _ _ _ | .mxLoop _ _ | .mxEndloop _ | .engineRoutineDone _ | .semaphoreWaitRelease _ _ _
  | .longWordDelivery _ | .alignRelease _ | .dmaSlotNop _ _ | .dmaSlotSig _ _ _ | .dmaSlotLoop _ _ | .dmaSlotEndloop _
  | .srlSlotNop _ _ | .srlSlotSig _ _ _ | .srlSlotLoop _ _ | .srlSlotEndloop _ =>
    Parts.regs ||| Parts.tiles ||| Parts.seqs ||| Parts.causes ||| Parts.drawn
  | .mxCfgLoad _ _ _ | .vnop _ _ | .vsetvl _ _ | .vsetctl _ _ | .vseta _ _ | .vadda _ _ | .vrdfl _ _ | .vclrfl _ _ | .vld _ _
  | .vlds _ _ | .tld _ _ | .vst _ _ | .vsts _ _ | .tst _ _ | .vadd _ _ | .vsub _ _ | .vmul _ _ | .vfma _ _ | .vmin _ _
  | .vmax _ _ | .vcmp _ _ | .vsel _ _ | .vand _ _ | .vor _ _ | .vxor _ _ | .vidx _ _ | .vmov _ _ | .vcvt _ _ | .vmxp _ _
  | .vrcp _ _ | .vrsq _ _ | .vexp2 _ _ | .vlog2 _ _ | .vperm _ _ | .vred _ _ | .trow _ _ | .tcol _ _ | .vsig _ _ | .veLoop _ _
  | .veEndloop _ _ | .dmaCfgLoad _ _ _ | .srlCfgLoad _ _ _ =>
    Parts.regs ||| Parts.tiles ||| Parts.seqs ||| Parts.ledger ||| Parts.causes ||| Parts.drawn
  | .mxRun _ _ =>
    Parts.regs ||| Parts.vecSent ||| Parts.mem ||| Parts.poison ||| Parts.flips ||| Parts.slotErrs ||| Parts.chans
    ||| Parts.stackTab ||| Parts.tiles ||| Parts.seqs ||| Parts.allocs ||| Parts.cxl ||| Parts.ledger ||| Parts.causes
    ||| Parts.drawn
  | .mxPassEnd _ | .cwSoftmax _ _ | .cwLnorm _ _ | .cwRmsnorm _ _ =>
    Parts.regs ||| Parts.tiles ||| Parts.ledger ||| Parts.causes ||| Parts.drawn
  | .runDone _ =>
    Parts.regs ||| Parts.tiles ||| Parts.allocs
  | .sramUe _ _ _ =>
    Parts.regs ||| Parts.tiles
  | .vwait _ _ =>
    Parts.tiles ||| Parts.ledger
  | .dmaStart _ _ _ _ | .dstart _ _ | .drun _ _ _ =>
    Parts.regs ||| Parts.poison ||| Parts.chans ||| Parts.units ||| Parts.tiles ||| Parts.seqs ||| Parts.nextIn
    ||| Parts.egress ||| Parts.cxl ||| Parts.ledger ||| Parts.causes ||| Parts.drawn ||| Parts.out
  | .programHeld _ _ | .dmaEnd _ _ | .dmaLoop _ _ _ | .dmaEndloop _ _ | .dmaWait _ _ _ _ =>
    Parts.regs ||| Parts.poison ||| Parts.chans ||| Parts.units ||| Parts.tiles ||| Parts.seqs ||| Parts.allocs
    ||| Parts.nextIn ||| Parts.egress ||| Parts.cxl ||| Parts.ledger ||| Parts.causes ||| Parts.drawn ||| Parts.out
  | .signal _ _ _ =>
    Parts.regs ||| Parts.poison ||| Parts.chans ||| Parts.units ||| Parts.tiles ||| Parts.seqs ||| Parts.allocs ||| Parts.sync
    ||| Parts.nextIn ||| Parts.egress ||| Parts.cxl ||| Parts.ledger ||| Parts.causes ||| Parts.drawn ||| Parts.out
  | .move _ _ _ | .dmaRequestDone _ _ _ =>
    Parts.regs ||| Parts.vecSent ||| Parts.mem ||| Parts.poison ||| Parts.flips ||| Parts.slotErrs ||| Parts.chans
    ||| Parts.stackTab ||| Parts.units ||| Parts.tiles ||| Parts.seqs ||| Parts.allocs ||| Parts.sync ||| Parts.nextIn
    ||| Parts.egress ||| Parts.cxl ||| Parts.ledger ||| Parts.causes ||| Parts.drawn ||| Parts.out
  | .descCreate _ _ _ | .descDestroy _ _ _ =>
    Parts.regs ||| Parts.poison ||| Parts.flips ||| Parts.descs ||| Parts.allocs ||| Parts.descQ ||| Parts.cxl
  | .alloc _ _ | .free _ _ =>
    Parts.regs ||| Parts.allocs ||| Parts.allocQ
  | .publish _ _ =>
    Parts.regs ||| Parts.vecSent ||| Parts.mem ||| Parts.poison ||| Parts.flips ||| Parts.slotErrs ||| Parts.chans
    ||| Parts.stackTab ||| Parts.otabs ||| Parts.fetches ||| Parts.nextFetch ||| Parts.egress ||| Parts.cxl ||| Parts.ledger
    ||| Parts.causes
  | .publishDone _ _ =>
    Parts.regs ||| Parts.vecSent ||| Parts.mem ||| Parts.poison ||| Parts.flips ||| Parts.slotErrs ||| Parts.chans
    ||| Parts.stackTab ||| Parts.descs ||| Parts.otabs ||| Parts.fetches ||| Parts.nextFetch ||| Parts.egress ||| Parts.cxl
    ||| Parts.ledger ||| Parts.causes
  | .unpublish _ _ =>
    Parts.regs ||| Parts.descs ||| Parts.otabs ||| Parts.egress
  | .seqStart _ _ _ =>
    Parts.regs ||| Parts.seqs ||| Parts.armed ||| Parts.running ||| Parts.drawn
  | .seqStop _ _ _ | .cnop _ | .tokw _ _ _ | .tokwRelease _ | .toks _ _ _ | .call _ _ | .ret _ | .ecall _ _ _ | .switch _ _
  | .seqEnd _ =>
    Parts.regs ||| Parts.seqs ||| Parts.drawn
  | .longWordFetch _ _ _ =>
    Parts.regs ||| Parts.seqs ||| Parts.causes ||| Parts.drawn
  | .align _ _ =>
    Parts.seqs
  | .toksAdd _ =>
    Parts.regs ||| Parts.seqs ||| Parts.sync
  | .mark _ _ =>
    Parts.regs ||| Parts.seqs ||| Parts.running ||| Parts.drawn
  | .seqDrained _ =>
    Parts.regs ||| Parts.tiles ||| Parts.running
  | .imemLoad _ _ _ =>
    Parts.regs ||| Parts.vecSent ||| Parts.mem ||| Parts.poison ||| Parts.flips ||| Parts.slotErrs ||| Parts.chans
    ||| Parts.stackTab ||| Parts.seqs ||| Parts.fetches ||| Parts.nextFetch ||| Parts.egress ||| Parts.cxl ||| Parts.ledger
  | .loadDone _ =>
    Parts.regs ||| Parts.vecSent ||| Parts.mem ||| Parts.poison ||| Parts.flips ||| Parts.slotErrs ||| Parts.chans
    ||| Parts.stackTab ||| Parts.seqs ||| Parts.imem ||| Parts.fetches ||| Parts.nextFetch ||| Parts.egress ||| Parts.cxl
    ||| Parts.ledger ||| Parts.causes ||| Parts.drawn
  | .arbitrationPhase _ _ _ | .transferEnd _ _ | .arbPrioWrite _ _ _ _ _ | .offenceExpiry _ _ _ =>
    Parts.regs ||| Parts.arbs
  | .cutoff _ _ =>
    Parts.regs ||| Parts.arbs ||| Parts.causes
  | .isolClear _ _ _ _ =>
    Parts.regs ||| Parts.vecSent ||| Parts.vecPend ||| Parts.chans ||| Parts.units ||| Parts.tiles ||| Parts.seqs
    ||| Parts.arbs ||| Parts.nextIn ||| Parts.cxl ||| Parts.ledger ||| Parts.causes ||| Parts.drawn ||| Parts.out
  | .fabricPacket _ _ _ _ _ =>
    Parts.regs ||| Parts.edges ||| Parts.ledger ||| Parts.causes ||| Parts.out
  | .flitReceive _ _ | .nak _ _ | .replayTimeout _ =>
    Parts.regs ||| Parts.ports ||| Parts.ledger ||| Parts.causes ||| Parts.out
  | .packetSend _ _ =>
    Parts.regs ||| Parts.ports ||| Parts.outReqs ||| Parts.egress ||| Parts.ledger ||| Parts.causes ||| Parts.out
  | .wr _ _ | .wrAcc _ _ | .rdReq _ _ | .rdRsp _ _ | .sig _ _ | .fence _ _ | .fenceRelease _ | .descReq _ _ | .descRsp _ _
  | .release _ _ | .ping _ _ | .pong _ _ | .faultNote _ _ | .ident _ _ | .resetNote _ _ =>
    Parts.regs ||| Parts.poison ||| Parts.chans ||| Parts.stackTab ||| Parts.units ||| Parts.tiles ||| Parts.seqs
    ||| Parts.descs ||| Parts.otabs ||| Parts.ports ||| Parts.sync ||| Parts.outReqs ||| Parts.inPkts ||| Parts.nextIn
    ||| Parts.egress ||| Parts.cxl ||| Parts.ledger ||| Parts.causes ||| Parts.drawn ||| Parts.out
  | .completionTimeout _ _ _ =>
    Parts.regs ||| Parts.outReqs ||| Parts.causes
  | .vylRetrain _ _ _ | .portRetry _ =>
    Parts.regs ||| Parts.ports
  | .retrainDone _ _ =>
    Parts.regs ||| Parts.ports ||| Parts.egress
  | .syncCounterWrite _ _ _ =>
    Parts.regs ||| Parts.sync
  | .getEventRecords _ | .clearEventRecords _ _ | .getEventInterruptPolicy | .setEventInterruptPolicy _ | .getFwInfo
  | .transferFw _ _ _ | .getTimestamp | .setTimestamp _ | .getSupportedLogs | .getLog _ _ | .identifyMemoryDevice
  | .getHealthInfo | .getPoisonList _ _ | .scanMedia _ _ | .getScanMediaResults | .getReserved | .getStackLog _ _ _
  | .getFaultRecord =>
    Parts.regs ||| Parts.vecSent ||| Parts.cxl ||| Parts.out
  | .activateFw _ _ =>
    Parts.regs ||| Parts.vecSent ||| Parts.cxl ||| Parts.flash ||| Parts.out
  | .injectPoison _ | .clearPoison _ _ | .scanMediaDone =>
    Parts.regs ||| Parts.vecSent ||| Parts.mem ||| Parts.poison ||| Parts.flips ||| Parts.slotErrs ||| Parts.chans
    ||| Parts.stackTab ||| Parts.cxl ||| Parts.ledger ||| Parts.out
  | .getScanMediaCapabilities _ _ =>
    Parts.regs ||| Parts.vecSent ||| Parts.cxl ||| Parts.drawn ||| Parts.out
  | .functionLevelReset | .hotReset =>
    Parts.regs ||| Parts.vecSent ||| Parts.vecMask ||| Parts.vecPend ||| Parts.vecTable ||| Parts.funcMask ||| Parts.chans
    ||| Parts.cxl ||| Parts.out
  | .perstAssert | .mainInputRemoval _ | .junctionProtection _ _ =>
    Parts.regs ||| Parts.disabled ||| Parts.enabled ||| Parts.vecSent ||| Parts.vecMask ||| Parts.vecPend ||| Parts.vecTable
    ||| Parts.funcMask ||| Parts.mem ||| Parts.poison ||| Parts.flips ||| Parts.slotErrs ||| Parts.chans ||| Parts.stackTab
    ||| Parts.units ||| Parts.tiles ||| Parts.seqs ||| Parts.imem ||| Parts.lib ||| Parts.routines ||| Parts.descs
    ||| Parts.allocs ||| Parts.otabs ||| Parts.descQ ||| Parts.allocQ ||| Parts.fetches ||| Parts.nextFetch ||| Parts.arbs
    ||| Parts.edges ||| Parts.ports ||| Parts.sync ||| Parts.outReqs ||| Parts.inPkts ||| Parts.nextIn ||| Parts.egress
    ||| Parts.cxl ||| Parts.armed ||| Parts.running ||| Parts.ledger ||| Parts.causes ||| Parts.entries ||| Parts.entry
    ||| Parts.history ||| Parts.clearDesc ||| Parts.fenceFlushed ||| Parts.kicks ||| Parts.uzoids ||| Parts.restarting
    ||| Parts.bwq ||| Parts.flash ||| Parts.board ||| Parts.us ||| Parts.drawn ||| Parts.out
  | .perstDeassert _ =>
    Parts.regs ||| Parts.enabled ||| Parts.stackTab ||| Parts.tiles ||| Parts.imem ||| Parts.lib ||| Parts.routines
    ||| Parts.ports ||| Parts.cxl ||| Parts.kicks ||| Parts.uzoids ||| Parts.board ||| Parts.drawn
  | .memoryActive =>
    Parts.regs ||| Parts.board
  | .spdmRequest _ | .cdatRequest | .sidebandRequest _ =>
    Parts.out
  | .ledgerTick =>
    Parts.regs ||| Parts.vecSent ||| Parts.mem ||| Parts.poison ||| Parts.flips ||| Parts.slotErrs ||| Parts.chans
    ||| Parts.stackTab ||| Parts.units ||| Parts.tiles ||| Parts.seqs ||| Parts.descs ||| Parts.allocs ||| Parts.otabs
    ||| Parts.descQ ||| Parts.allocQ ||| Parts.fetches ||| Parts.nextFetch ||| Parts.ports ||| Parts.sync ||| Parts.outReqs
    ||| Parts.inPkts ||| Parts.nextIn ||| Parts.egress ||| Parts.cxl ||| Parts.armed ||| Parts.ledger ||| Parts.causes
    ||| Parts.us ||| Parts.drawn ||| Parts.out
  | .railReport _ _ _ _ =>
    Parts.ledger
  | .calibration _ =>
    Parts.regs ||| Parts.ledger
  | .planSubmit _ | .planCancel _ =>
    Parts.regs ||| Parts.vecSent ||| Parts.mem ||| Parts.poison ||| Parts.flips ||| Parts.slotErrs ||| Parts.chans
    ||| Parts.stackTab ||| Parts.units ||| Parts.fetches ||| Parts.nextFetch ||| Parts.egress ||| Parts.cxl ||| Parts.armed
    ||| Parts.ledger ||| Parts.causes ||| Parts.drawn
  | .planEnd =>
    Parts.regs ||| Parts.running ||| Parts.ledger
  | .planOverrun | .fltAssert _ _ _ =>
    Parts.regs ||| Parts.causes
  | .faultEntry _ _ =>
    Parts.regs ||| Parts.vecSent ||| Parts.chans ||| Parts.units ||| Parts.tiles ||| Parts.seqs ||| Parts.inPkts
    ||| Parts.nextIn ||| Parts.egress ||| Parts.cxl ||| Parts.running ||| Parts.ledger ||| Parts.causes ||| Parts.entries
    ||| Parts.entry ||| Parts.drawn ||| Parts.out
  | .secondaryFault _ _ =>
    Parts.regs ||| Parts.causes ||| Parts.entry ||| Parts.history
  | .faultRecord =>
    Parts.regs ||| Parts.entry ||| Parts.history
  | .jobReset _ _ =>
    Parts.regs ||| Parts.chans ||| Parts.units ||| Parts.tiles ||| Parts.seqs ||| Parts.inPkts ||| Parts.nextIn
    ||| Parts.egress ||| Parts.cxl ||| Parts.running ||| Parts.ledger ||| Parts.causes ||| Parts.clearDesc ||| Parts.drawn
    ||| Parts.out
  | .resetDone =>
    Parts.regs ||| Parts.vecSent ||| Parts.vecPend ||| Parts.chans ||| Parts.units ||| Parts.tiles ||| Parts.seqs
    ||| Parts.descs ||| Parts.allocs ||| Parts.otabs ||| Parts.descQ ||| Parts.allocQ ||| Parts.fetches ||| Parts.arbs
    ||| Parts.ports ||| Parts.sync ||| Parts.outReqs ||| Parts.inPkts ||| Parts.nextIn ||| Parts.egress ||| Parts.cxl
    ||| Parts.armed ||| Parts.running ||| Parts.ledger ||| Parts.causes ||| Parts.clearDesc ||| Parts.drawn ||| Parts.out
  | .checkpointFence _ _ | .fenceDone | .fenceReleaseWrite _ _ =>
    Parts.regs ||| Parts.seqs ||| Parts.fenceFlushed
  | .wdogKick _ _ _ =>
    Parts.regs ||| Parts.kicks
  | .wdogExpired _ =>
    Parts.regs ||| Parts.cxl ||| Parts.causes ||| Parts.restarting ||| Parts.board
  | .mainInputApplied _ =>
    Parts.regs ||| Parts.enabled ||| Parts.stackTab ||| Parts.tiles ||| Parts.imem ||| Parts.lib ||| Parts.routines
    ||| Parts.ports ||| Parts.cxl ||| Parts.kicks ||| Parts.uzoids ||| Parts.board ||| Parts.us ||| Parts.drawn ||| Parts.out
  | .auxInputChange _ =>
    Parts.board
  | .sidebandSensorReport _ _ _ _ _ =>
    Parts.board ||| Parts.out
  | .coreRestartDone _ _ =>
    Parts.regs ||| Parts.vecSent ||| Parts.mem ||| Parts.poison ||| Parts.flips ||| Parts.slotErrs ||| Parts.chans
    ||| Parts.stackTab ||| Parts.units ||| Parts.fetches ||| Parts.nextFetch ||| Parts.egress ||| Parts.cxl ||| Parts.armed
    ||| Parts.ledger ||| Parts.causes ||| Parts.kicks ||| Parts.uzoids ||| Parts.restarting ||| Parts.drawn

/-- What every command keeps: the part stays the member it is, the queue of waiting commands is not touched, outputs sent
stay sent, free values drawn stay drawn, the bounded-write log of the flash only grows (R511: firmware appends to it), the memories
keep their canonical form, and no field outside a set of fields changes. -/
structure Kept (p : Parts) (s t : State) : Prop where
  member : t.member = s.member
  pending : t.pending = s.pending
  drawn : s.drawn ≤ t.drawn
  out : s.out <+: t.out
  log : s.flash.log <+: t.flash.log
  canonical : s.Canonical → t.Canonical
  only : Only p s t

/-- Nothing but registers changes, and no register outside a list. -/
def onlyRegs (ks : List Nat) (s t : State) : Prop :=
  t = { s with regs := t.regs } ∧ ∀ k, k ∉ ks → t.reg k = s.reg k

/-- No register outside a list changes. -/
def keepsRegs (ks : List Nat) (s t : State) : Prop := ∀ k, k ∉ ks → t.reg k = s.reg k

/-- Every byte of DRAM reads as before, but those at the addresses of a run. -/
def keepsMemBut (a n : Nat) (s t : State) : Prop := ∀ b, (b < a ∨ a + n ≤ b) → mget t.mem b = mget s.mem b

/-- Every byte of DRAM reads as before. -/
def keepsMem (s t : State) : Prop := ∀ b, mget t.mem b = mget s.mem b

/-- No unit but one changes. -/
def keepsUnitsBut (u : Nat) (s t : State) : Prop := ∀ j, j ≠ u → t.unit j = s.unit j

/-- No tile but one changes. -/
def keepsTilesBut (k : Nat) (s t : State) : Prop := ∀ j, j ≠ k → t.tile j = s.tile j

/-- No stack but one changes. -/
def keepsStacksBut (st : Nat) (s t : State) : Prop := ∀ j, j ≠ st → t.stack j = s.stack j

/-- No channel but one changes. -/
def keepsChansBut (st ch : Nat) (s t : State) : Prop := ∀ x y, x * 32 + y ≠ st * 32 + ch → t.chan x y = s.chan x y

/-- No sequencer but one changes. -/
def keepsSeqsBut (d : Nat) (s t : State) : Prop := ∀ j, j ≠ d → t.seq j = s.seq j

/-- The byte of a unit's 2 KiB command space at an offset (R164). -/
def unitByte (u : Unit) (j : Nat) : Byte := (readSlot u (j / 64)).1.getD (j % 64) 0

/-- The byte at a place after a run of bytes is stored at an offset: the enabled new byte, or the old one. -/
def overlaid (off : Nat) (data : List (Option Byte)) (j : Nat) (old : Byte) : Byte :=
  ((if off ≤ j then data.getD (j - off) none else none).getD old)

/-- The unit's next instruction: the word at a place of its program, with its opcode and fields. -/
def atWord (s : State) (i : Nat) (k : SCtx) (at_ op : Nat) (f : SrlF) : Prop :=
  srlCtx s i = some k ∧ ∃ w, nextWord k = some (at_, w) ∧ wOp w.toNat = op ∧ wF w = f

/-- A running swath past the word at a place: the next word of the body, or the next chunk (R189). -/
def SCtx.past (k : SCtx) (at_ : Nat) : Running :=
  if (bodyWords k.u k.r.sw k.cls).any (fun p => at_ < p.1) then { k.r with pos := at_ + 1 - k.r.sw.progStart }
  else { k.r with pos := 0, chunk := k.r.chunk + 1 }

/-- The part address of a chunk of the row that a unit runs. -/
def SCtx.addr (k : SCtx) (c : Nat) : Nat := k.rid.sec * 64 + c * 32

/-- The row that a unit runs holds no media error. -/
def SCtx.sound (k : SCtx) (s : State) : Prop := ∀ x, k.rid.sec ≤ x → x < k.rid.sec + 32 → tget [] s.flips x = []

/-- The number of the stream's entry that issues next. -/
def Stream.place (x : Stream) : Nat := x.gone + x.pc

/-- The stream of an engine of a tile. -/
def engOf (s : State) (k : Nat) (e : Eng) : Stream := (s.tile k).stream e

/-- The engine has gone on by one entry that issued for `n` tc, and nothing but its tile changed, or the fault that a badly
structured stream raises. -/
def issued (k : Nat) (e : Eng) (n : Nat) (s t : State) : Prop :=
  (engOf t k e).place = (engOf s k e).place + 1 ∧ (engOf t k e).clk = (engOf s k e).clk + n ∧ keepsTilesBut k s t

/-- No result of the vector engine is still to come, no VRDFL is still to sample, and no register is poisoned. -/
def VE.calm (v : VE) (clk : Nat) : Prop := (∀ r, tget 0 v.ready r ≤ clk) ∧ v.rdfl = [] ∧ v.poison = [] ∧ v.fpend = []

/-- The elements of a register after an instruction that writes `n` elements of `w` bytes, and every other lane as before. -/
def VE.wrote (v x : VE) (d w n : Nat) (g : Nat → Nat) : Prop :=
  (∀ e, e < n → x.el d w e = g e % 2 ^ (8 * w))
  ∧ ∀ r l, l < 64 → (r ≠ d ∨ n * w ≤ 4 * l) → x.lane r l = v.lane r l

/-- A packet that a port hands to its receiver in this part: the port is up, the part is not stopped, no FENCE or wait for a
RESET_NOTE holds it, it is well formed, and its destination is here (R415, R416, R421, R426, R433). -/
def reaches (s : State) (port : Nat) (p : Pkt) : Prop :=
  hasPort s port = true ∧ portUp s port = true ∧ halted s = false ∧ (s.port port).discard = false
  ∧ (p.vc = 0 → (s.port port).fence = none) ∧ pktWellFormed p = true ∧ routeOf s p.srcId p.dest = .self

/-- A mailbox command has completed with a return code and payload words: MBOX shows it, and vector 1 may signal it (R448, R454). -/
def mboxed (op rc : Nat) (words : List Nat) (s t : State) : Prop :=
  t.out = s.out ++ [.mbox rc words] ∧ getF t pgCxl F.CXL_MBOX_LAST_OPCODE = op ∧ getF t pgCxl F.CXL_MBOX_LAST_RC = rc
  ∧ t.cxl.mboxDone = true ∧ 1 ∉ t.vecSent

end Sys2Proof.Machine
end

