-- ==== Sys2Proof/Certificates/Slice0/Obligations.lean ====
section
/-! DEFINITION. The statements about the model: what commands do, when they complete, what they leave alone, and what every step
keeps. Each docstring names the rules that the statement formalises; where a clause rests on a choice of the model, it says so. -/
open Sys2Proof Sys2Proof.Machine

/-- A step performs the command at the front of the queue with the queue's rest; on an empty queue the block idles
(DESIGN CHOICE, log 1). -/
def Obligations.StepRunsFront : Prop :=
  (∀ (c : Instr) (rest : List Instr) (s : State), step { s with pending := c :: rest } = exec c { s with pending := rest })
  ∧ ∀ s : State, s.pending = [] → step s = .next s

/-- After reset the part's memories and registers are in canonical form, the queue is empty, and nothing is listed: every
register reads its Reset column. -/
def Obligations.ResetInvariant : Prop :=
  State.reset.Canonical ∧ State.reset.pending = []
  ∧ (∀ k, State.reset.reg k = resetReg .zh8c k)
  ∧ ∀ a, mget State.reset.mem a = 0

/-- Every step keeps the canonical form of the register file and of all memories, keeps the member, takes one command from the
queue, and takes back no output, no drawn free value and no record of the bounded-write log. -/
def Obligations.StepKeepsInvariant : Prop :=
  ∀ s t : State, step s = .next t →
    (s.Canonical → t.Canonical) ∧ t.member = s.member ∧ t.pending = s.pending.tail
    ∧ s.drawn ≤ t.drawn ∧ s.out <+: t.out ∧ s.flash.log <+: t.flash.log

/-- The frame of every command: a field of the state that is not in the command's footprint does not change (DRAM contents,
tile memories, instruction memories, units, streams, tables, links, faults, flash and all the others). -/
def Obligations.CommandsKeepTheirFootprint : Prop :=
  ∀ (c : Instr) (s t : State), exec c s = .next t → Only (footprint c) s t

/-- Reset values that the field tables state: PART.CONFIG per member (R63), the header of a SEQ page (R56), and a field of each of
the DCTL (R99), STK (R102), ECC (R134), CAL (R155), SRL (R185), SEQ (R356), ARB (R400), VYL (R436), SYNC (R438), PLAN (R477),
PWR (R478) and FLT (R489) pages. -/
def Obligations.ResetRegisters : Prop :=
  (∀ s : State, s.regs = [] →
    getF s pgPart F.PART_CONFIG_CDIES = s.member.dies ∧ getF s pgPart F.PART_CONFIG_STACKS = s.member.stackCount
    ∧ getF s pgPart F.PART_CONFIG_PORTS = s.member.ports)
  ∧ (∀ d, d < 8 →
      getF State.reset (pgSeq d) F.HDR_ID_BLOCK = 2 ∧ getF State.reset (pgSeq d) F.HDR_ID_DIE = d
      ∧ getF State.reset (pgSeq d) F.HDR_CTRL_FREEZE = 0 ∧ getF State.reset (pgSeq d) F.SEQ_QUIET_TC = 1024
      ∧ getF State.reset (pgPwr d) F.PWR_RAIL_SCALE 0 = 4096 ∧ getF State.reset (pgFlt d) F.FLT_WDOG_TIMEOUT_MS = 100)
  ∧ (∀ st, st < 20 →
      getF State.reset (pgStk .zh8c st) F.STK_TEMPCFG_WARN = 736 ∧ getF State.reset (pgStk .zh8c st) F.STK_TEMPCFG_TRIP = 776
      ∧ getF State.reset (pgEcc .zh8c st) F.ECC_CFG_SCRUB_PERIOD_H = 24 ∧ getF State.reset (pgCal .zh8c st) F.CAL_SKYCFG_ENABLE = 1)
  ∧ (∀ st ch, st < 20 → ch < 32 →
      getF State.reset (pgDctl .zh8c st ch) F.DCTL_REFCFG_MEM_DEFER = 4 ∧ getF State.reset (pgDctl .zh8c st ch) F.DCTL_CHMODE_STATE = 0
      ∧ getF State.reset (pgSrl .zh8c st ch) F.SRL_SWATH_MAX_NS = 8000 ∧ getF State.reset (pgSrl .zh8c st ch) F.SRL_COL_GAP_SET = 1)
  ∧ (∀ p, p < 12 → getF State.reset (pgVyl .zh8c p) F.VYL_CFG_REPLAY_TMO_NS = 2000)
  ∧ getF State.reset pgSync F.SYNC_TIMEOUT_CMP_US = 1000 ∧ getF State.reset pgPlan F.PLAN_CFG_MARGIN_PCT = 3
  ∧ getF State.reset pgLedg F.LEDG_THRESH_RECOVER_PCT = 5

/-- Accesses that the access rules turn away (R47, R49 to R52, R55, R56): a write of an unassigned page, and a read of one, which
answers 0, records 0x0001 on the PART page; a summary page and the pages of a gated island (CTRL apart) take nothing; a wrong width
or alignment, a reserved offset, and a register that is RO throughout record the low byte 02, 01 and 03 with the offset as tag. A
read of a wrong width or alignment answers 0 and records 02, and one of a gated page answers 0 where the register does not keep
reading. REGISTER_WRITE of a RW register stores the value and changes no other register; W1C_CLEAR clears the bits written as 1, and
ERR_FIRST becomes empty when ERR_STATUS becomes zero (R52, R62); both on every assigned page with a header that is not gated. Beside
the registers only the record of messages sent and pending may change, since the interrupt conditions may. Of the OWN page only the
host and the lead core write registers (R306): another core's write changes nothing. -/
def Obligations.DroppedAndStoredRegisterWrites : Prop :=
  (∀ (w : Writer) (off size : Nat) (v : W64) (s : State), off < 2 ^ 28 →
    (isSummary s.member (pageOf off) = true → exec (.registerWrite w off size (some v)) s = .next s)
    ∧ (isSummary s.member (pageOf off) = false → assigned s.member (pageOf off) = false →
        exec (.registerWrite w off size (some v)) s = .next (recordErr s pgPart 0x0001 off)
        ∧ exec (.registerWrite w off size none) s = .next ((recordErr s pgPart 0x0001 off).emit (.regRead off 0)))
    ∧ (assigned s.member (pageOf off) = true → isSummary s.member (pageOf off) = false → isWindow (pageOf off) = false →
        pageGated s (pageOf off) = true →
        (off % 4096 / 8 ≠ 2 → exec (.registerWrite w off size (some v)) s = .next s)
        ∧ (off / 8 * 8 % 4096 ∉ [0x00, 0x08, 0x10, 0x18, 0x50, 0x58] →
            exec (.registerWrite w off size none) s = .next (s.emit (.regRead off 0))))
    ∧ (assigned s.member (pageOf off) = true → isSummary s.member (pageOf off) = false → isWindow (pageOf off) = false →
        pageGated s (pageOf off) = false →
        ((¬(size = 8 ∧ off % 8 = 0) ∧ ¬(size = 4 ∧ off % 4 = 0)) →
          exec (.registerWrite w off size (some v)) s =
            .next (recordErr s (pgBase (pageOf off)) ((pageOf off).blk * 256 + 2) off)
          ∧ exec (.registerWrite w off size none) s =
            .next ((recordErr s (pgBase (pageOf off)) ((pageOf off).blk * 256 + 2) off).emit (.regRead off 0)))
        ∧ (size = 8 → off % 8 = 0 → exec (.registerWrite w off size none) s = .next (s.emit (.regRead off (readReg s off))))
        ∧ (size = 8 → off % 8 = 0 → regFields (pageOf off) (off % 4096) = [] →
            exec (.registerWrite w off size (some v)) s =
              .next (recordErr s (pgBase (pageOf off)) ((pageOf off).blk * 256 + 1) off))
        ∧ (size = 8 → off % 8 = 0 → regFields (pageOf off) (off % 4096) ≠ [] →
            (∀ f ∈ regFields (pageOf off) (off % 4096), f.acc = .ro) →
            exec (.registerWrite w off size (some v)) s =
              .next (recordErr s (pgBase (pageOf off)) ((pageOf off).blk * 256 + 3) off))))
  ∧ (∀ (w : Writer) (p : Page) (v : W64) (s : State),
    assigned s.member p = true → isSummary s.member p = false → isWindow p = false → pageGated s p = false →
    ((p.blk = 0x1A → leadWriter w = true) →
      (∃ t, exec (.registerWrite w (pgBase p + 0x48) 8 (some v)) s = .next t
        ∧ t.reg (pgBase p + 0x48) = v ∧ keepsRegs [pgBase p + 0x48] s t ∧ Only (Parts.regs ||| Parts.vecSent ||| Parts.vecPend) s t)
      ∧ (∃ t, exec (.registerWrite w (pgBase p + 0x2C) 4 (some v)) s = .next t
        ∧ fld (t.reg (pgBase p + 0x28)) 32 32 = fld v 0 32 ∧ fld (t.reg (pgBase p + 0x28)) 0 32 = fld (s.reg (pgBase p + 0x28)) 0 32
        ∧ keepsRegs [pgBase p + 0x28] s t ∧ Only (Parts.regs ||| Parts.vecSent ||| Parts.vecPend) s t)
      ∧ (∃ t, exec (.w1cClear w (pgBase p + 0x40) v) s = .next t
        ∧ t.reg (pgBase p + 0x40) = s.reg (pgBase p + 0x40) &&& ~~~ v
        ∧ keepsRegs [pgBase p + 0x40] s t ∧ Only (Parts.regs ||| Parts.vecSent ||| Parts.vecPend) s t)
      ∧ ∃ t, exec (.w1cClear w (pgBase p + 0x20) v) s = .next t
        ∧ t.reg (pgBase p + 0x20) = s.reg (pgBase p + 0x20) &&& ~~~ v
        ∧ (s.reg (pgBase p + 0x20) &&& ~~~ v = 0 → t.reg (pgBase p + 0x30) = 0)
        ∧ (s.reg (pgBase p + 0x20) &&& ~~~ v ≠ 0 → t.reg (pgBase p + 0x30) = s.reg (pgBase p + 0x30))
        ∧ keepsRegs [pgBase p + 0x20, pgBase p + 0x30] s t ∧ Only (Parts.regs ||| Parts.vecSent ||| Parts.vecPend) s t)
    ∧ (p.blk = 0x1A → leadWriter w = false → exec (.registerWrite w (pgBase p + 0x48) 8 (some v)) s = .next s))

/-- An error records as R62 says: its ERR_STATUS bit is set, ERR_COUNT.ERRORS rises and saturates, CODE and TAG are captured
while VALID is 0 and kept otherwise, and no other register of the part changes. A refusal raises ERR_COUNT.REFUSALS alone. ERR_FIRST
becomes empty when a write leaves ERR_STATUS zero, and keeps otherwise; commands come one at a time, so an error that arrives with such a
write is recorded after it. Of the OWN page only the host and the lead core write registers (R306). -/
def Obligations.ErrorsRecord : Prop :=
  ∀ (s : State) (page code tag : Nat), page % 4096 = 0 → code % 256 < 64 → tag < 2 ^ 32 →
    let t := recordErr s page code tag
    bitOf (t.reg (page + 0x20)) (code % 256) = true
    ∧ (∀ n, n ≠ code % 256 → bitOf (t.reg (page + 0x20)) n = bitOf (s.reg (page + 0x20)) n)
    ∧ getF t page F.HDR_ERR_COUNT_ERRORS = min (getF s page F.HDR_ERR_COUNT_ERRORS + 1) (2 ^ 32 - 1)
    ∧ (getF s page F.HDR_ERR_FIRST_VALID = 0 → getF t page F.HDR_ERR_FIRST_VALID = 1
        ∧ getF t page F.HDR_ERR_FIRST_CODE = code % 2 ^ 16 ∧ getF t page F.HDR_ERR_FIRST_TAG = tag)
    ∧ (getF s page F.HDR_ERR_FIRST_VALID = 1 → t.reg (page + 0x30) = s.reg (page + 0x30))
    ∧ onlyRegs [page + 0x20, page + 0x30, page + 0x38] s t
    ∧ getF (refusal s page) page F.HDR_ERR_COUNT_REFUSALS = min (getF s page F.HDR_ERR_COUNT_REFUSALS + 1) (2 ^ 32 - 1)
    ∧ getF (refusal s page) page F.HDR_ERR_COUNT_ERRORS = getF s page F.HDR_ERR_COUNT_ERRORS
    ∧ onlyRegs [page + 0x38] s (refusal s page)
    ∧ (∀ (w : Writer) (p : Page) (v : W64), assigned s.member p = true → isSummary s.member p = false → isWindow p = false →
        pageGated s p = false → (p.blk = 0x1A → leadWriter w = true) →
        ∃ u, exec (.w1cClear w (pgBase p + 0x20) v) s = .next u ∧ u.reg (pgBase p + 0x20) = s.reg (pgBase p + 0x20) &&& ~~~ v
          ∧ u.reg (pgBase p + 0x30) = if s.reg (pgBase p + 0x20) &&& ~~~ v = 0 then 0 else s.reg (pgBase p + 0x30))

/-- CTRL_RESET of a part-scope block clears ERR_STATUS, ERR_FIRST and EVT_STATUS, and no other register (R57). CTRL_FREEZE is
ignored where FREEZE_IMPL is 0 (R58) and sets the bit where it is 1. CTRL_ENABLE = 0 of a part-scope page is dropped with low byte
05 (R528), and of a page of a tile's island it disables that page; ISLAND_UNGATE_DONE ends a tile's zeroing and changes nothing else
(R227). MSIX_MESSAGE (R65, R66): a vector whose condition holds and for which no message has been sent gets its message, sent where
neither its own mask nor the function mask holds it back, and pending otherwise; it counts as sent from then on, and otherwise
nothing happens. Vectors 3, 31 and 59 to 63 are never sent. A write of its entry in BAR2 that clears the mask sends a pending
message (the addresses of BAR2 and of the function mask are the model's, log 46). -/
def Obligations.CtrlAndInterrupts : Prop :=
  (∀ (w : Writer) (p : Page) (on : Bool) (tile : Nat) (s : State),
    (assigned s.member p = true → isSummary s.member p = false → isWindow p = false → s.enabled = true →
      pageEnabled s (pgBase p) = true →
      (jobScope p.blk = false →
        (∃ t, exec (.ctrlReset w p) s = .next t
          ∧ t.reg (pgBase p + 0x20) = 0 ∧ t.reg (pgBase p + 0x30) = 0 ∧ t.reg (pgBase p + 0x40) = 0
          ∧ keepsRegs [pgBase p + 0x20, pgBase p + 0x30, pgBase p + 0x40] s t
          ∧ Only (Parts.regs ||| Parts.vecSent ||| Parts.vecPend) s t)
        ∧ exec (.ctrlFreeze w p on) s = .next s
        ∧ exec (.ctrlEnable w p false) s = .next (recordErr s (pgBase p) (p.blk * 256 + 5) (pgBase p + 0x10)))
      ∧ ((p.blk = 0x02 ∨ p.blk = 0x08) → pageGated s p = false →
          ∃ t, exec (.ctrlFreeze w p on) s = .next t
            ∧ getF t (pgBase p) F.HDR_CTRL_FREEZE = b2n on ∧ onlyRegs [pgBase p + 0x10] s t)
      ∧ ((p.blk = 0x03 ∨ p.blk = 0x04 ∨ p.blk = 0x05) → pageGated s p = false →
          ∃ t, exec (.ctrlEnable w p false) s = .next t ∧ pageEnabled t (pgBase p) = false
            ∧ t.reg (pgBase p + 0x20) = 0 ∧ t.reg (pgBase p + 0x40) = 0))
    ∧ (hasTile s tile = true →
        ∃ t, exec (.islandUngateDone tile) s = .next t ∧ (t.tile tile).zeroing = false
          ∧ t.tile tile = { s.tile tile with zeroing := false } ∧ keepsTilesBut tile s t ∧ Only Parts.tiles s t))
  ∧ (∀ (v : Nat) (s : State), v < 64 →
    (vecCond s v = true → v ∉ s.vecSent → s.funcMask = false → v ∉ s.vecMask →
      ∃ t, exec (.msixMessage v) s = .next t ∧ t.out = s.out ++ [.msix v] ∧ v ∈ t.vecSent
        ∧ Only (Parts.vecSent ||| Parts.out) s t)
    ∧ (vecCond s v = true → v ∉ s.vecSent → (s.funcMask = true ∨ v ∈ s.vecMask) →
      ∃ t, exec (.msixMessage v) s = .next t ∧ v ∈ t.vecPend ∧ v ∈ t.vecSent
        ∧ Only (Parts.vecSent ||| Parts.vecPend) s t)
    ∧ ((vecCond s v = false ∨ v ∈ s.vecSent) → exec (.msixMessage v) s = .next s)
    ∧ ((v = 3 ∨ v = 31 ∨ 59 ≤ v) → exec (.msixMessage v) s = .next s)
    ∧ ((v = 0) → (vecCond s v = true ↔ getF s (pgFlt 0) F.FLT_FSTAT_FAULTED = 1))
    ∧ (s.vecPend = [v] → s.funcMask = false →
      ∃ t, exec (.registerWrite .host (2 ^ 28 + 16 * v + 12) 4 (some 0)) s = .next t
        ∧ t.out = s.out ++ [.msix v] ∧ t.vecPend = [] ∧ v ∉ t.vecMask ∧ Only (Parts.vecMask ||| Parts.vecPend ||| Parts.out) s t))

/-- DRAM_REQUEST (R72, R73, R174): a request within one row joins the queue of its bank column in memory mode where there is room;
where there is none, or the stack serves no requests, or an earlier request of the bank column still waits, it is held at the intake in
order; out of memory mode it is parked, up to 64 of them, and the CXL page counts a parked CXL request (R454); the ones past that are
held at the intake. Nothing but the channel changes (and that count). A request of a requester that the intake's arbiter has
isolated waits, whatever the mode (R392). -/
def Obligations.DramRequestsQueueOrPark : Prop :=
  ∀ (r : Req) (s : State), 0 < r.nsec → r.nsec ≤ 32 - r.pa / 64 % 32 → backed s.member r.pa = true →
    backed s.member (r.pa + r.nsec * 64 - 1) = true →
    let st := paStack r.pa
    let ch := paCh r.pa
    let b := paBank r.pa
    let c := s.chan st ch
    let answers (c' : Channel) : Prop :=
      ∃ t, exec (.dramRequest r) s = .next t ∧ t.chan st ch = c' ∧ keepsChansBut st ch s t ∧ Only Parts.chans s t
    let first : Prop := ∀ x ∈ c.blocked, awaitsBank s r x = false
    let memory : Prop := intakeIsolated s st ch r.src = false ∧ r.src / 4096 ≠ 1 ∧ ¬(st = 0 ∧ paRow r.pa = 0 ∧ r.src = 0x2000)
    let others : Prop := r.src ≠ chOwner s st ch ∧ (r.src = 0x2000 → paRow r.pa = 0 → 0x2000 ∉ c.prevOwners)
    (intakeIsolated s st ch r.src = true → answers { c with stalled := c.stalled ++ [.inl r] })
    ∧ (memory → first → chState s st ch = 0 → stackOpen s st = true → (c.bank b).queue.length < 16 →
      (∀ x ∈ c.parked, paBank x.pa ≠ b) →
      ∃ t, exec (.dramRequest r) s = .next t
        ∧ (t.chan st ch).bank b = { c.bank b with queue := (c.bank b).queue ++ [r] }
        ∧ (∀ k, k ≠ b → (t.chan st ch).bank k = c.bank k) ∧ keepsChansBut st ch s t ∧ Only Parts.chans s t)
    ∧ (memory → chState s st ch = 0 →
        (stackOpen s st = false ∨ 16 ≤ (c.bank b).queue.length ∨ (∃ x ∈ c.parked, paBank x.pa = b)
          ∨ (∃ x ∈ c.blocked, awaitsBank s r x = true)) →
        answers { c with blocked := c.blocked ++ [r] })
    ∧ (memory → others → first → chState s st ch ≠ 0 → c.parked.length < 64 →
      ∃ t, exec (.dramRequest r) s = .next t ∧ t.chan st ch = { c with parked := c.parked ++ [r] }
        ∧ getF t pgCxl F.CXL_PARK_COUNT
          = (if r.src = 0x2000 then min (getF s pgCxl F.CXL_PARK_COUNT + 1) (2 ^ 32 - 1) else getF s pgCxl F.CXL_PARK_COUNT)
        ∧ keepsChansBut st ch s t ∧ keepsRegs [pgCxl + 0xB0] s t ∧ Only (Parts.regs ||| Parts.chans) s t
        ∧ (r.src ≠ 0x2000 → Only Parts.chans s t))
    ∧ (memory → others → chState s st ch ≠ 0 → (64 ≤ c.parked.length ∨ ∃ x ∈ c.blocked, awaitsBank s r x = true) →
        answers { c with blocked := c.blocked ++ [r] })

/-- DRAM_COMMAND_ISSUE (R74 to R77): with one request ready, the oldest of its bank column and none at the bypass limit, the next
command it needs is issued: an activate of its row where no row is open, and a precharge where another row is. DRAM_COMMAND_ISSUE,
the data command (R74, R105, R115): a write stores its enabled bytes, and no other byte of DRAM changes; a CXL read answers the
stored bytes and the poison of its sectors, and changes no byte; poison in what a Uzoid core reads bites (R125). The sectors hold no
media error. -/
def Obligations.DramCommands : Prop :=
  (∀ (st ch b : Nat) (r : Req) (q : List Req) (s : State), hasBank s st ch b = true →
    srState s st ≤ 1 → reformatting s st = false → bursting s st ch = false →
    ((s.chan st ch).bank b).corr = none → ((s.chan st ch).bank b).queue = r :: q →
    (∀ x ∈ r :: q, x.bypass < zero256 (getF s (pgDctl s.member st ch) F.DCTL_PAGECFG_AGE_CAP)) →
    (((s.chan st ch).bank b).openRow = none →
      ∃ t, exec (.dramCommandIssue st ch [(b, 0)] []) s = .next t
        ∧ (t.chan st ch).bank b = { (s.chan st ch).bank b with openRow := some (paRow r.pa) }
        ∧ (t.chan st ch).rot = b ∧ keepsChansBut st ch s t ∧ Only (Parts.chans ||| Parts.ledger) s t)
    ∧ (∀ row, ((s.chan st ch).bank b).openRow = some row → row ≠ paRow r.pa →
      ∃ t, exec (.dramCommandIssue st ch [(b, 0)] []) s = .next t
        ∧ (t.chan st ch).bank b = { (s.chan st ch).bank b with openRow := none }
        ∧ (t.chan st ch).rot = b ∧ keepsChansBut st ch s t ∧ Only Parts.chans s t))
  ∧ (∀ (st ch b : Nat) (r : Req) (q : List Req) (s : State), hasBank s st ch b = true →
    srState s st ≤ 1 → reformatting s st = false → bursting s st ch = false →
    ((s.chan st ch).bank b).corr = none → ((s.chan st ch).bank b).queue = r :: q →
    (∀ x ∈ r :: q, x.bypass < zero256 (getF s (pgDctl s.member st ch) F.DCTL_PAGECFG_AGE_CAP)) →
    ((s.chan st ch).bank b).openRow = some (paRow r.pa) → inHole s r.pa = false → r.pa % 64 = 0 →
    paStack r.pa = st → paCh r.pa = ch → paBank r.pa = b →
    (∀ k ∈ reqSecs r, tget [] s.flips k = []) →
    (r.write = true → r.data.length = r.nsec * 64 →
      ∃ t, exec (.dramCommandIssue st ch [(b, 0)] []) s = .next t
        ∧ (∀ i, i < r.nsec * 64 → mget t.mem (r.pa + i) = ((r.data.getD i none).getD (mget s.mem (r.pa + i))))
        ∧ keepsMemBut r.pa (r.nsec * 64) s t
        ∧ q <+: ((t.chan st ch).bank b).queue)
    ∧ (r.write = false → r.src = 0x2000 → r.tag < 2 ^ 64 → releaseIsolated s r.tag = false →
      ∃ t, exec (.dramCommandIssue st ch [(b, 0)] []) s = .next t
        ∧ t.out = s.out ++ [.cxlRead r.tag (mread s.mem r.pa (r.nsec * 64)) ((reqSecs r).any (fun k => s.poison.contains k))]
        ∧ t.mem = s.mem ∧ q <+: ((t.chan st ch).bank b).queue)
    ∧ (∀ d, hasDie s d = true → r.write = false → r.src = 0x3000 + d → r.tag < 2 ^ 64 →
      ∃ t, exec (.dramCommandIssue st ch [(b, 0)] []) s = .next t ∧ t.mem = s.mem
        ∧ t.causes = if (reqSecs r).any (fun k => s.poison.contains k) then s.causes ++ [⟨1, d, 0x01, 0, 0x1810, 0⟩] else s.causes))

/-- ROW_IDLE_CLOSE (R77) closes the row and changes nothing else; a bank column that a decode holds stays as it is (R109).
ROW_DECODE_DONE (R109, R110, R111): the bank column is free again. Where the row still fails, its slot stands in the parity cache
and its parity row waits for no rebuild: with a codeword within the strength whose changed sectors pass their check, the row is
rewritten whole (no media error is left in it; where the changes undo the errors no byte changes) and one correction is counted;
with no such codeword its failing sectors are poisoned and one failure is counted. -/
def Obligations.RowsCloseAndDecode : Prop :=
  (∀ (st ch b : Nat) (s : State), hasBank s st ch b = true →
    (((s.chan st ch).bank b).corr = none →
      ∃ t, exec (.rowIdleClose st ch b) s = .next t
        ∧ (t.chan st ch).bank b = { (s.chan st ch).bank b with openRow := none }
        ∧ (∀ j, j ≠ b → (t.chan st ch).bank j = (s.chan st ch).bank j)
        ∧ keepsChansBut st ch s t ∧ Only Parts.chans s t)
    ∧ (((s.chan st ch).bank b).corr ≠ none → exec (.rowIdleClose st ch b) s = .next s))
  ∧ (∀ (st ch b : Nat) (r : Req) (s : State), hasBank s st ch b = true → ((s.chan st ch).bank b).corr = some r →
    paStack r.pa = st → paCh r.pa = ch → paBank r.pa = b →
    (∃ t, exec (.rowDecodeDone st ch b) s = .next t ∧ ((t.chan st ch).bank b).corr = none)
    ∧ (r.write = false → failMask s (rowAt r.pa) ≠ 0 → cached s (rowAt r.pa) = true → uncovered s (rowAt r.pa) = false →
        (∀ data par, rsDecode rowField (corrects (strength s st)) 1408 (rowBits (rowFlips s (rowAt r.pa)))
            (tget [] s.slotErrs ((rowAt r.pa).pa / 2048)) = some (data, par) →
          changesPass (s.addRowBits (rowAt r.pa) data) (rowAt r.pa) data = true →
          ∃ t, exec (.rowDecodeDone st ch b) s = .next t
            ∧ (∀ k, (rowAt r.pa).sec ≤ k → k < (rowAt r.pa).sec + 32 → tget [] t.flips k = [])
            ∧ getF t (pgEcc s.member st) F.ECC_COUNT_CORRECTED
                = min (getF s (pgEcc s.member st) F.ECC_COUNT_CORRECTED + 1) (2 ^ 32 - 1)
            ∧ hasEvent t (pgEcc s.member st) 0 = true
            ∧ (rowFlips (s.addRowBits (rowAt r.pa) data) (rowAt r.pa) = [] → t.mem = s.mem))
        ∧ (rsDecode rowField (corrects (strength s st)) 1408 (rowBits (rowFlips s (rowAt r.pa)))
            (tget [] s.slotErrs ((rowAt r.pa).pa / 2048)) = none →
          ∃ t, exec (.rowDecodeDone st ch b) s = .next t
            ∧ (∀ k, (rowAt r.pa).sec ≤ k → k < (rowAt r.pa).sec + 32 →
                tget [] t.flips k = [] ∧ (secClass s k = 2 → k ∈ t.poison))
            ∧ getF t (pgEcc s.member st) F.ECC_COUNT_UNCORRECTABLE
                = min (getF s (pgEcc s.member st) F.ECC_COUNT_UNCORRECTABLE + 1) (2 ^ 32 - 1)
            ∧ hasEvent t (pgEcc s.member st) 1 = true)))

/-- PARITY_WRITEBACK, PARITY_IDLE_TIMEOUT, PCFLUSH and FLUSH_DONE (R118, R120, R121): a line is written back, in memory mode with
every dirty line of the same parity row; an idle channel writes all its lines back; a flush leaves no channel of the stack a dirty
line. No byte and no poison mark of the data changes; the parity rows, the cache, the energy account and the records of a spare slot
that fails its check do (where no sector of the spare slot holds a media error, the first three alone). PARITY_REBUILD_DONE (R112):
the oldest queued rebuild leaves the queue, its parity row holds no media error, and REBUILD.DONE and event 3 say so. -/
def Obligations.ParityRows : Prop :=
  (∀ (w : Writer) (st ch n : Nat) (l : Line) (v : W64) (s : State), hasCh s st ch = true →
    ((s.chan st ch).lines[n]? = some l → mayWriteback s st ch l.bank = true →
      ∃ t, exec (.parityWriteback st ch n) s = .next t
        ∧ (chState s st ch = 0 → (t.chan st ch).lines = (s.chan st ch).lines.filter
            (fun x => !(x.bank = l.bank && parityRow (strength s st) x.row = parityRow (strength s st) l.row)))
        ∧ (chState s st ch ≠ 0 → (t.chan st ch).lines = (s.chan st ch).lines.filter (· ≠ l))
        ∧ keepsChansBut st ch s t
        ∧ Only (Parts.regs ||| Parts.vecSent ||| Parts.flips ||| Parts.slotErrs ||| Parts.chans ||| Parts.stackTab ||| Parts.cxl
            ||| Parts.ledger) s t
        ∧ ((∀ k, k < 32 → tget [] s.flips (paOf st (parityRow (strength s st) l.row) ch l.bank / 64 + k) = []) →
            Only (Parts.flips ||| Parts.chans ||| Parts.ledger) s t))
    ∧ (queued s st ch = 0 → (∀ b, mayWriteback s st ch b = true) →
        ∃ t, exec (.parityIdleTimeout st ch) s = .next t ∧ (t.chan st ch).lines = []
          ∧ keepsChansBut st ch s t
          ∧ Only (Parts.regs ||| Parts.vecSent ||| Parts.flips ||| Parts.slotErrs ||| Parts.chans ||| Parts.stackTab ||| Parts.cxl
              ||| Parts.ledger) s t)
    ∧ (bitOf v 0 = true → ∃ t, exec (.pcflush w st v) s = .next t
        ∧ getF t (pgEcc s.member st) F.ECC_PCSTAT_FLUSHING = 1 ∧ onlyRegs [pgEcc s.member st + 0xB0] s t)
    ∧ (getF s (pgEcc s.member st) F.ECC_PCSTAT_FLUSHING = 1 → (s.stack st).oldStrength = none →
        ∃ t, exec (.flushDone st) s = .next t ∧ getF t (pgEcc s.member st) F.ECC_PCSTAT_FLUSHING = 0
          ∧ (∀ c, c < 32 → (t.chan st c).lines = [])
          ∧ Only (Parts.regs ||| Parts.vecSent ||| Parts.flips ||| Parts.slotErrs ||| Parts.chans ||| Parts.stackTab ||| Parts.cxl
              ||| Parts.ledger) s t))
  ∧ (∀ (st ch b row : Nat) (l : List (Nat × Nat × Nat)) (s : State), hasStack s st = true →
    (s.stack st).rebuild = (ch, b, row) :: l → chState s st ch = 0 → stackOpen s st = true → bursting s st ch = false →
    ((s.chan st ch).bank b).corr = none →
    ∃ t, exec (.parityRebuildDone st) s = .next t ∧ (t.stack st).rebuild = l
      ∧ getF t (pgEcc s.member st) F.ECC_REBUILD_DONE = min (getF s (pgEcc s.member st) F.ECC_REBUILD_DONE + 1) (2 ^ 32 - 1)
      ∧ hasEvent t (pgEcc s.member st) 3 = true
      ∧ (∀ k, paOf st row ch b / 64 ≤ k → k < paOf st row ch b / 64 + 32 → tget [] t.flips k = []))

/-- REFRESH_DUE (R85 to R87, R96): a memory-mode channel with nothing queued begins a burst that issues the refresh at once, and so
does one whose MEM_DEFER is 0, with event 2; with requests waiting the refresh is owed, at most 8, and a burst is forced where OWED
reaches MEM_DEFER, with event 2. A refresh that falls due during a burst is owed, or joins the burst of 8 that has not issued yet. A
processor-mode channel owes one more; at 8 every running swath of the channel is told to pause (R176) and event 3 is set; no refresh
falls due while the stack is HELD. REFRESH_BURST and BURST_DONE (R86, R89): a burst closes every row, issues all owed refreshes and
the one that fell due as it began, counts them and a burst of two or more; when it has issued them and no window runs, its end lets
the channel accept activates again. -/
def Obligations.Refreshes : Prop :=
  (∀ (st ch : Nat) (s : State), hasCh s st ch = true →
    (srState s st = 2 → exec (.refreshDue st ch) s = .next s)
    ∧ (srState s st ≠ 2 → bursting s st ch = true → ¬(owed s st ch = 8 ∧ (s.chan st ch).refreshed = false) →
        ∃ t, exec (.refreshDue st ch) s = .next t ∧ owed t st ch = min (owed s st ch + 1) 8
          ∧ onlyRegs [pgDctl s.member st ch + 0xA8, pgDctl s.member st ch + 0x40] s t)
    ∧ (srState s st ≠ 2 → bursting s st ch = true → owed s st ch = 8 → (s.chan st ch).refreshed = false →
        ∃ t, exec (.refreshDue st ch) s = .next t ∧ t.chan st ch = { s.chan st ch with dueNow := true }
          ∧ keepsChansBut st ch s t ∧ Only Parts.chans s t)
    ∧ (srState s st ≠ 2 → bursting s st ch = false → chState s st ch = 0 →
        (queued s st ch = 0 ∧ (s.chan st ch).toRelease = 0 ∨ getF s (pgDctl s.member st ch) F.DCTL_REFCFG_MEM_DEFER = 0) →
        ∃ t, exec (.refreshDue st ch) s = .next t ∧ owed t st ch = owed s st ch ∧ bursting t st ch = true
          ∧ (t.chan st ch).dueNow = true ∧ (t.chan st ch).refreshed = false
          ∧ (¬(queued s st ch = 0 ∧ (s.chan st ch).toRelease = 0) → hasEvent t (pgDctl s.member st ch) 2 = true)
          ∧ keepsRegs [pgDctl s.member st ch + 0xA8, pgDctl s.member st ch + 0x40] s t ∧ keepsChansBut st ch s t
          ∧ Only (Parts.regs ||| Parts.chans) s t)
    ∧ (srState s st ≠ 2 → bursting s st ch = false → chState s st ch = 0 →
        ¬(queued s st ch = 0 ∧ (s.chan st ch).toRelease = 0) → getF s (pgDctl s.member st ch) F.DCTL_REFCFG_MEM_DEFER ≠ 0 →
        ∃ t, exec (.refreshDue st ch) s = .next t ∧ owed t st ch = min (owed s st ch + 1) 8
          ∧ bursting t st ch = decide (getF s (pgDctl s.member st ch) F.DCTL_REFCFG_MEM_DEFER ≤ min (owed s st ch + 1) 8)
          ∧ (getF s (pgDctl s.member st ch) F.DCTL_REFCFG_MEM_DEFER ≤ min (owed s st ch + 1) 8 →
              hasEvent t (pgDctl s.member st ch) 2 = true)
          ∧ keepsRegs [pgDctl s.member st ch + 0xA8, pgDctl s.member st ch + 0x40] s t ∧ keepsChansBut st ch s t
          ∧ Only (Parts.regs ||| Parts.chans) s t)
    ∧ (srState s st ≠ 2 → bursting s st ch = false → chState s st ch = 2 → (s.chan st ch).breath = false → owed s st ch < 7 →
        ∃ t, exec (.refreshDue st ch) s = .next t ∧ owed t st ch = owed s st ch + 1
          ∧ onlyRegs [pgDctl s.member st ch + 0xA8] s t)
    ∧ (srState s st ≠ 2 → bursting s st ch = false → chState s st ch = 2 → (s.chan st ch).breath = false → owed s st ch = 7 →
        ∃ t, exec (.refreshDue st ch) s = .next t ∧ owed t st ch = 8 ∧ hasEvent t (pgDctl s.member st ch) 3 = true
          ∧ (∀ b r, b < 16 → (s.unit (unitOf st ch b)).run = some r → r.paused = false → r.cause = 0 →
              (t.unit (unitOf st ch b)).run = some { r with cause := 3 })
          ∧ Only (Parts.regs ||| Parts.units) s t))
  ∧ (∀ (st ch : Nat) (s : State), hasCh s st ch = true → bursting s st ch = true →
    ((s.chan st ch).refreshed = false →
      ∃ t, exec (.refreshBurst st ch) s = .next t ∧ owed t st ch = 0 ∧ bursting t st ch = true
        ∧ (∀ b, b < 16 → ((t.chan st ch).bank b).openRow = none) ∧ (t.chan st ch).refreshed = true
        ∧ getF t (pgDctl s.member st ch) F.DCTL_REFCOUNT_REFRESHES
            = min (getF s (pgDctl s.member st ch) F.DCTL_REFCOUNT_REFRESHES + (owed s st ch + b2n (s.chan st ch).dueNow)) (2 ^ 32 - 1)
        ∧ (2 ≤ owed s st ch + b2n (s.chan st ch).dueNow → getF t (pgDctl s.member st ch) F.DCTL_REFCOUNT_BURSTS
            = min (getF s (pgDctl s.member st ch) F.DCTL_REFCOUNT_BURSTS + 1) (2 ^ 32 - 1))
        ∧ keepsChansBut st ch s t ∧ keepsStacksBut st s t
        ∧ Only (Parts.regs ||| Parts.chans ||| Parts.stackTab ||| Parts.ledger) s t)
    ∧ ((s.chan st ch).refreshed = true → getF s (pgDctl s.member st ch) F.DCTL_REFSTAT_WINDOW = 0 → owed s st ch = 0 →
        (s.chan st ch).breath = false → srState s st ≠ 1 →
        ∃ t, exec (.burstDone st ch) s = .next t ∧ bursting t st ch = false
          ∧ onlyRegs [pgDctl s.member st ch + 0xA8] s t))

/-- TEMP_SAMPLE (R90 to R92): CUR is the hottest of the 17 readings and PEAK follows it; at 83.0 °C (664) the stack leaves the cool
rate; the first sample at TRIP raises fault cause 6 with code 0x0713. RATE_COOL gives the cool rate back to a stack that has read
80 °C or less throughout, and WARN_REARM arms the warning again. -/
def Obligations.StackTemperature : Prop :=
  ∀ (st : Nat) (l : List Nat) (s : State), hasStack s st = true → l.length = 17 → l.foldl Nat.max 0 ≤ 4095 →
    (∃ t, exec (.tempSample st l) s = .next t
      ∧ getF t (pgStk s.member st) F.STK_TEMP_CUR = l.foldl Nat.max 0
      ∧ getF t (pgStk s.member st) F.STK_TEMP_PEAK = max (l.foldl Nat.max 0) (getF s (pgStk s.member st) F.STK_TEMP_PEAK)
      ∧ (t.stack st).coolRun = decide (l.foldl Nat.max 0 ≤ 640)
      ∧ (664 ≤ l.foldl Nat.max 0 → getF t (pgStk s.member st) F.STK_TEMP_HOT = 1)
      ∧ (l.foldl Nat.max 0 < 664 →
          getF t (pgStk s.member st) F.STK_TEMP_HOT = getF s (pgStk s.member st) F.STK_TEMP_HOT)
      ∧ (getF s (pgStk s.member st) F.STK_TEMPCFG_TRIP ≤ l.foldl Nat.max 0 →
          getF s (pgStk s.member st) F.STK_TEMP_CUR < getF s (pgStk s.member st) F.STK_TEMPCFG_TRIP →
          hasEvent t (pgStk s.member st) 5 = true
          ∧ ∃ c ∈ t.causes, c.cause = 6 ∧ c.blk = 0x07 ∧ c.code = 0x0713 ∧ c.die = s.member.stackDie st))
    ∧ (stackHot s st = true → (s.stack st).coolRun = true →
        ∃ t, exec (.rateCool st) s = .next t ∧ stackHot t st = false ∧ hasEvent t (pgStk s.member st) 2 = true
          ∧ (∀ ch, ch < 32 → getF t (pgDctl s.member st ch) F.DCTL_REFSTAT_HOT = 0) ∧ Only Parts.regs s t)
    ∧ ((s.stack st).warnArmed = false → (s.stack st).warnRun = true →
        ∃ t, exec (.warnRearm st) s = .next t ∧ (t.stack st).warnArmed = true ∧ keepsStacksBut st s t)

/-- SR_ENTER and SR_EXIT (R94, R95, R97): entry of an ACTIVE stack all of whose channels are in memory mode takes KEEP, forces the
core dies that hold parity rows into KEEP_EFF and reads ENTERING, and where every request of the stack is performed the flush of its
parity caches starts; EXIT of a HELD stack reads EXITING. Both bits record 0x0711, a channel out of memory mode 0x0710, and a stack
in another state 0x0705. SR_HELD and SR_READY (R94, R95, R97): the stack reads HELD once its channels are idle and no line is dirty,
with the entry counted; a dirty line is flushed first. On the way out the rows in core dies that are not kept read zeros (a row that
a spare row serves lies in core die 15), every other byte of DRAM reads as before, and the stack reads ACTIVE. -/
def Obligations.SelfRefresh : Prop :=
  (∀ (w : Writer) (st : Nat) (v : W64) (s : State), hasStack s st = true →
    (bitOf v 16 = true → bitOf v 17 = false → srState s st = 0 → allMemory s st = true →
      ∃ t, exec (.srEnter w st v) s = .next t ∧ srState t st = 1
        ∧ getF t (pgStk s.member st) F.STK_SRCTL_KEEP = fld v 0 16
        ∧ (strength s st ≠ 2 → fld v 0 15 ≠ 0 → getF t (pgStk s.member st) F.STK_SRCTL_KEEP_EFF = fld v 0 16 ||| 0x8000)
        ∧ (strength s st = 2 → fld v 0 14 ≠ 0 → getF t (pgStk s.member st) F.STK_SRCTL_KEEP_EFF = fld v 0 16 ||| 0xC000)
        ∧ (fld v 0 14 = 0 → fld v 14 1 = 0 → getF t (pgStk s.member st) F.STK_SRCTL_KEEP_EFF = fld v 0 16)
        ∧ (stackIdle s st = true → (s.stack st).flushed = false → dirtyMax s st ≠ 0 → flushing t st = true)
        ∧ keepsRegs [pgStk s.member st + 0x98, pgEcc s.member st + 0xB0] s t ∧ keepsStacksBut st s t
        ∧ Only (Parts.regs ||| Parts.stackTab) s t)
    ∧ (bitOf v 16 = true → bitOf v 17 = true →
        exec (.srEnter w st v) s = .next (recordErr s (pgStk s.member st) 0x0711 0))
    ∧ (bitOf v 16 = true → bitOf v 17 = false → srState s st = 0 → allMemory s st = false →
        exec (.srEnter w st v) s = .next (recordErr s (pgStk s.member st) 0x0710 0))
    ∧ (bitOf v 16 = false → bitOf v 17 = true → srState s st = 2 →
        ∃ t, exec (.srExit w st v) s = .next t ∧ srState t st = 3
          ∧ getF t (pgStk s.member st) F.STK_SRCTL_KEEP_EFF = getF s (pgStk s.member st) F.STK_SRCTL_KEEP_EFF
          ∧ keepsRegs [pgStk s.member st + 0x98, pgStk s.member st + 0xA0] s t ∧ keepsStacksBut st s t
          ∧ Only (Parts.regs ||| Parts.stackTab) s t)
    ∧ (bitOf v 16 = false → bitOf v 17 = true → srState s st ≠ 2 →
        exec (.srExit w st v) s = .next (recordErr s (pgStk s.member st) 0x0705 (pgStk s.member st + 0x98))))
  ∧ (∀ (st : Nat) (tsv : List (Nat × Option (Nat × Nat))) (s : State), hasStack s st = true →
    (srState s st = 1 → stackIdle s st = true → flushing s st = false →
      (dirtyMax s st = 0 →
        ∃ t, exec (.srHeld st) s = .next t ∧ srState t st = 2 ∧ hasEvent t (pgStk s.member st) 3 = true
          ∧ getF t (pgStk s.member st) F.STK_SRSTAT_ENTRIES
              = min (getF s (pgStk s.member st) F.STK_SRSTAT_ENTRIES + 1) (2 ^ 32 - 1)
          ∧ (∀ ch, ch < 32 → (t.chan st ch).lines = [] ∧ owed t st ch = 0)
          ∧ keepsMem s t)
      ∧ (dirtyMax s st ≠ 0 → (s.stack st).flushed = false →
        ∃ t, exec (.srHeld st) s = .next t ∧ srState t st = 1 ∧ flushing t st = true
          ∧ keepsRegs [pgEcc s.member st + 0xB0] s t ∧ keepsStacksBut st s t ∧ Only (Parts.regs ||| Parts.stackTab) s t))
    ∧ ((srState s st = 3 ∨ srState s st = 4) →
        ∃ t, exec (.srReady ⟨st, tsv⟩) s = .next t ∧ srState t st = 0 ∧ hasEvent t (pgStk s.member st) 4 = true
          ∧ (t.stack st).passOn = true
          ∧ (∀ a, a / 2 ^ 36 = st →
              bit (getF s (pgStk s.member st) F.STK_SRCTL_KEEP_EFF) (rowDie s st (paCh a) (paBank a) (paRow a)) = false →
              mget t.mem a = 0)
          ∧ (∀ a, (a / 2 ^ 36 ≠ st ∨
                bit (getF s (pgStk s.member st) F.STK_SRCTL_KEEP_EFF) (rowDie s st (paCh a) (paBank a) (paRow a)) = true) →
              mget t.mem a = mget s.mem a)))

/-- ECC_STRENGTH, FALLOW_ROW and FALLOW_BANK (R53, R108, R131, R132): an accepted write waits for its commit behind the others, with
the time it arrived, and changes nothing else; a write of the strength in force has no effect; strength code 3 records 0x0910, and
an entry that is already valid records 0x0904; zero written to an entry that is not in use has no effect. REFORMAT_DONE,
FALLOW_COPY_ROW and FALLOW_DONE (R108, R133): a reformat's end clears REFORMAT and sets event 7; a copy goes on row by row and
COPY_LEFT counts down (the rows of a bank column, and the spare rows in use of it); at zero the next waiting copy begins, or the map
is idle again, with event 6. TEDDER_VISIT, SCRUB_LATE and SCRUB_PERIOD_WRITE (R127, R128, R134): a visit that has fallen due and
finds its slots moves the position on by one; where the channel of the position is out of memory mode the position is remembered as
skipped and its row is not read; a visit that is not due yet, or finds no slots, waits; an overrun sets BEHIND and event 5; a write
of ECC_CFG stores its fields, and a new period spreads the visits to come from now on. -/
def Obligations.RowCodeSettings : Prop :=
  (∀ (w : Writer) (st n : Nat) (v : W64) (s : State), hasStack s st = true → getF s pgSec F.SEC_KEY_STATE ≠ 2 →
    (fld v 0 2 = committedStrength s st → fld v 0 2 ≠ 3 → exec (.eccStrength w st v) s = .next s)
    ∧ (fld v 0 2 = 3 → exec (.eccStrength w st v) s = .next (recordErr s (pgEcc s.member st) 0x0910 0))
    ∧ (fld v 0 2 ≠ 3 → fld v 0 2 ≠ committedStrength s st → bwPending s (pgEcc s.member st + 0x80) = false → bwLeft s 3 st 0 ≠ 0 →
        allMemory s st = true → srState s st = 0 → (s.stack st).copies = [] → reformatting s st = false →
        allocInHole s st (fld v 0 2) = false →
        ∃ t, exec (.eccStrength w st v) s = .next t
          ∧ t.bwq = s.bwq ++ [⟨pgEcc s.member st + 0x80, 3, st, 0, BitVec.ofNat 64 (fld v 0 2), writerNo w, s.us, []⟩]
          ∧ Only Parts.bwq s t)
    ∧ (n < 256 → bitOf (bwVal s (pgEcc s.member st + 0x800 + 8 * n)) 63 = true →
        exec (.fallowRow w st n v) s = .next (recordErr s (pgEcc s.member st) 0x0904 (pgEcc s.member st + 0x800 + 8 * n)))
    ∧ (n < 256 → bitOf (bwVal s (pgEcc s.member st + 0x800 + 8 * n)) 63 = false → exec (.fallowRow w st n 0) s = .next s)
    ∧ (n < 2 → bitOf (bwVal s (pgEcc s.member st + 0x100 + 8 * n)) 63 = false → exec (.fallowBank w st n 0) s = .next s)
    ∧ (n < 256 → bitOf (bwVal s (pgEcc s.member st + 0x800 + 8 * n)) 63 = false → bitOf v 63 = true → fld v 25 6 ≠ 63 →
        (∀ e ∈ fallowEntries s st, 256 ≤ e.1) → allMemory s st = true → srState s st = 0 → (s.stack st).copies = [] →
        bwPending s (pgEcc s.member st + 0x800 + 8 * n) = false → bwLeft s 4 st n ≠ 0 →
        ∃ t, exec (.fallowRow w st n v) s = .next t
          ∧ t.bwq = s.bwq ++ [⟨pgEcc s.member st + 0x800 + 8 * n, 4, st, n, v &&& 0x800000007FFFFFFF#64, writerNo w, s.us, []⟩]
          ∧ Only Parts.bwq s t)
    ∧ (n < 2 → bitOf (bwVal s (pgEcc s.member st + 0x100 + 8 * n)) 63 = false → bitOf v 63 = true →
        (∀ e ∈ fallowEntries s st, e.1 < 256) → allMemory s st = true → srState s st = 0 → (s.stack st).copies = [] →
        bwPending s (pgEcc s.member st + 0x100 + 8 * n) = false → bwLeft s 5 st n ≠ 0 →
        ∃ t, exec (.fallowBank w st n v) s = .next t
          ∧ t.bwq = s.bwq ++ [⟨pgEcc s.member st + 0x100 + 8 * n, 5, st, n, v &&& 0x80000000000001FF#64, writerNo w, s.us, []⟩]
          ∧ Only Parts.bwq s t))
  ∧ (∀ (st n : Nat) (l : List Nat) (s : State), hasStack s st = true →
    (reformatting s st = true → (s.stack st).oldStrength = none →
      ∃ t, exec (.reformatDone st) s = .next t ∧ reformatting t st = false ∧ hasEvent t (pgEcc s.member st) 7 = true
        ∧ keepsMem s t)
    ∧ ((s.stack st).copies = n :: l → getF s (pgEcc s.member st) F.ECC_FALLOWSTAT_COPY_LEFT ≠ 0 →
        (∀ c, c < 32 → bursting s st c = false ∧ ∀ b, b < 16 → ((s.chan st c).bank b).corr = none) →
        ∃ t, exec (.fallowCopyRow st) s = .next t ∧ (t.stack st).copies = n :: l
          ∧ getF t (pgEcc s.member st) F.ECC_FALLOWSTAT_COPY_LEFT
              = getF s (pgEcc s.member st) F.ECC_FALLOWSTAT_COPY_LEFT - 1
          ∧ (t.stack st).copyRow = (s.stack st).copyRow + 1)
    ∧ ((s.stack st).copies = n :: l → getF s (pgEcc s.member st) F.ECC_FALLOWSTAT_COPY_LEFT = 0 →
        ∃ t, exec (.fallowDone st) s = .next t ∧ (t.stack st).copies = l ∧ hasEvent t (pgEcc s.member st) 6 = true
          ∧ (l = [] → getF t (pgEcc s.member st) F.ECC_FALLOWSTAT_BUSY = 0)
          ∧ (∀ m r, l = m :: r → m < 512 → (s.stack st).redirected.length < 1000 → getF t (pgEcc s.member st) F.ECC_FALLOWSTAT_BUSY = 1
              ∧ getF t (pgEcc s.member st) F.ECC_FALLOWSTAT_ENTRY = m
              ∧ getF t (pgEcc s.member st) F.ECC_FALLOWSTAT_COPY_LEFT = (if m < 256 then 1 else
                  65536 + (spareUse t st (fallowBankOf (bwVal s (pgEcc s.member st + 0x100 + 8 * (m - 256))))).length))
          ∧ keepsRegs [pgEcc s.member st + 0x40, pgEcc s.member st + 0xF8] s t ∧ Only (Parts.regs ||| Parts.stackTab) s t))
  ∧ (∀ (w : Writer) (st p : Nat) (v : W64) (s : State), hasStack s st = true →
    getF s (pgEcc s.member st) F.ECC_CFG_SCRUB_PERIOD_H ≠ 0 → (s.stack st).passOn = true →
    p = getF s (pgEcc s.member st) F.ECC_SCRUBPOS_POSITION →
    (stackOpen s st = true → (s.stack st).skipped = [] → (s.stack st).passEnd = false → p < 2 ^ 25 - 1 →
      (visitDue s st p ≤ s.us → (chState s st (p / 16 % 32) = 0 → tedderSlots s (tedderRow st p) = true) →
        ∃ t, exec (.tedderVisit st []) s = .next t
          ∧ getF t (pgEcc s.member st) F.ECC_SCRUBPOS_POSITION = p + 1
          ∧ (chState s st (p / 16 % 32) = 0 → (t.stack st).skipped = [])
          ∧ (chState s st (p / 16 % 32) ≠ 0 →
              (t.stack st).skipped = [p] ∧ keepsRegs [pgEcc s.member st + 0xA0] s t ∧ Only (Parts.regs ||| Parts.stackTab) s t))
      ∧ (s.us < visitDue s st p ∨ chState s st (p / 16 % 32) = 0 ∧ tedderSlots s (tedderRow st p) = false →
          exec (.tedderVisit st []) s = .next s))
    ∧ (getF s (pgEcc s.member st) F.ECC_SCRUBSTAT_BEHIND = 0 →
        (s.stack st).passFrom + getF s (pgEcc s.member st) F.ECC_CFG_SCRUB_PERIOD_H * 3600000000 ≤ s.us →
        ∃ t, exec (.scrubLate st) s = .next t ∧ getF t (pgEcc s.member st) F.ECC_SCRUBSTAT_BEHIND = 1
          ∧ hasEvent t (pgEcc s.member st) 5 = true
          ∧ onlyRegs [pgEcc s.member st + 0xA8, pgEcc s.member st + 0x40] s t)
    ∧ (s.running = none →
        ∃ t, exec (.scrubPeriodWrite w st v) s = .next t
          ∧ getF t (pgEcc s.member st) F.ECC_CFG_SCRUB_PERIOD_H = fld v 0 8
          ∧ getF t (pgEcc s.member st) F.ECC_CFG_PLAN_ALLOW = fld v 8 4
          ∧ getF t (pgEcc s.member st) F.ECC_CFG_HIGH_CE = fld v 16 8
          ∧ (fld v 0 8 ≠ getF s (pgEcc s.member st) F.ECC_CFG_SCRUB_PERIOD_H →
              (t.stack st).dueAt = p ∧ (t.stack st).dueUs = max s.us (s.stack st).passFrom)
          ∧ keepsRegs [pgEcc s.member st + 0x88] s t ∧ keepsStacksBut st s t ∧ Only (Parts.regs ||| Parts.stackTab) s t))

/-- CAL_TEST, CAL_START, CAL_ABORT and TRAIN_DONE (R138, R140, R155): TEST is entered with every channel in memory mode and the stack
ACTIVE or HELD, and refused with 0x0A11 otherwise; START in TEST with a valid sweep set-up reads BUSY; a write that leaves TEST or
starts again while BUSY records 0x0A10; a START with an invalid sweep, or for a core die without power, records 0x0A14 and starts nothing;
the generator drives the pattern; ABORT marks the running helper; its end clears BUSY and leaves result 3 where it was
aborted, 2 where a wire failed, 1 otherwise, and a sweep whose points all pass logs the whole range on every wire (that RESULT reads 0
while a helper runs is the model's choice, log 51). -/
def Obligations.TrainingHelpers : Prop :=
  ∀ (w : Writer) (st done : Nat) (v : W64) (runs : List WireRun) (s : State), hasStack s st = true →
    (bitOf v 0 = true → bitOf v 16 = false → bitOf v 17 = false → fld v 9 2 ≠ 3 → allMemory s st = true →
      (srState s st = 0 ∨ srState s st = 2) →
      ∃ t, exec (.calTest w st v) s = .next t ∧ inTest t st = true
        ∧ getF t (pgCal s.member st) F.CAL_TRCTL_CHANNEL = fld v 1 5 ∧ onlyRegs [pgCal s.member st + 0x80] s t)
    ∧ (bitOf v 0 = true → bitOf v 16 = false → bitOf v 17 = false → fld v 9 2 ≠ 3 → inTest s st = false →
        (allMemory s st = false ∨ (srState s st ≠ 0 ∧ srState s st ≠ 2)) →
        exec (.calTest w st v) s = .next (recordErr s (pgCal s.member st) 0x0A11 0))
    ∧ (bitOf v 0 = true → bitOf v 16 = true → bitOf v 17 = false → fld v 9 2 ≠ 3 → inTest s st = true →
        getF s (pgCal s.member st) F.CAL_TRSTAT_BUSY = 0 → sweepOk s st = true →
        (fld v 7 2 = 2 → fld v 11 4 ∈ poweredDies s st) →
        ∃ t, exec (.calStart w st v) s = .next t ∧ getF t (pgCal s.member st) F.CAL_TRSTAT_BUSY = 1
          ∧ getF t (pgCal s.member st) F.CAL_TRSTAT_RESULT = 0 ∧ inTest t st = true
          ∧ (bitOf v 6 = true → (t.stack st).cmp = [])
          ∧ (fld v 9 2 = 0 → t.out = s.out ++ [.helper st (if bitOf v 6 then 2 ^ 32 - 1 else 2 ^ fld v 1 5) ((List.range 8).map (fun k =>
              s.reg (pgCal s.member st + 0x400 + getF s (pgCal s.member st) F.CAL_PATSEL_PATTERN * 64 + k * 8)))])
          ∧ keepsRegs [pgCal s.member st + 0x80, pgCal s.member st + 0x88] s t ∧ keepsStacksBut st s t
          ∧ Only (Parts.regs ||| Parts.stackTab ||| Parts.out) s t)
    ∧ (bitOf v 0 = true → bitOf v 16 = true → fld v 9 2 ≠ 3 → inTest s st = true →
        getF s (pgCal s.member st) F.CAL_TRSTAT_BUSY = 0 →
        (sweepOk s st = false ∨ fld v 7 2 = 2 ∧ fld v 11 4 ∉ poweredDies s st) →
        ∃ t, exec (.calStart w st v) s = .next t ∧ getF t (pgCal s.member st) F.CAL_TRSTAT_BUSY = 0
          ∧ bitOf (t.reg (pgCal s.member st + 0x20)) 0x14 = true ∧ t.stack st = s.stack st ∧ t.out = s.out)
    ∧ (fld v 9 2 ≠ 3 → getF s (pgCal s.member st) F.CAL_TRSTAT_BUSY = 1 →
        (bitOf v 16 = true ∨ bitOf v 0 = false) →
        exec (.calStart w st v) s = .next (recordErr s (pgCal s.member st) 0x0A10 0))
    ∧ (bitOf v 0 = true → bitOf v 16 = false → bitOf v 17 = true → fld v 9 2 ≠ 3 → inTest s st = true →
        getF s (pgCal s.member st) F.CAL_TRSTAT_BUSY = 1 →
        ∃ t, exec (.calAbort w st v) s = .next t ∧ t.stack st = { s.stack st with aborting := true }
          ∧ getF t (pgCal s.member st) F.CAL_TRSTAT_BUSY = 1
          ∧ keepsRegs [pgCal s.member st + 0x80] s t ∧ keepsStacksBut st s t ∧ Only (Parts.regs ||| Parts.stackTab) s t)
    ∧ (getF s (pgCal s.member st) F.CAL_TRSTAT_BUSY = 1 → getF s (pgCal s.member st) F.CAL_TRCTL_ALL = 1 →
        getF s (pgCal s.member st) F.CAL_TRCTL_MODE ≠ 2 →
        ∃ t, exec (.trainDone st ⟨done, runs⟩) s = .next t ∧ getF t (pgCal s.member st) F.CAL_TRSTAT_BUSY = 0
          ∧ hasEvent t (pgCal s.member st) 0 = true ∧ (t.stack st).aborting = false
          ∧ getF t (pgCal s.member st) F.CAL_TRSTAT_RESULT =
              (if (s.stack st).aborting then 3
                else if (List.range 2048).any (fun x => (((runs.find? (·.wire = x)).map (·.points)).getD []).getD 0 0 ≠ 0) then 2 else 1)
          ∧ keepsRegs [pgCal s.member st + 0x88, pgCal s.member st + 0x40] s t ∧ keepsStacksBut st s t
          ∧ Only (Parts.regs ||| Parts.stackTab) s t)
    ∧ (getF s (pgCal s.member st) F.CAL_TRSTAT_BUSY = 1 → getF s (pgCal s.member st) F.CAL_TRCTL_ALL = 0 →
        getF s (pgCal s.member st) F.CAL_TRCTL_MODE = 2 → (s.stack st).aborting = false → (∀ x ∈ runs, ∀ n ∈ x.points, n = 0) →
        ∃ t, exec (.trainDone st ⟨done, runs⟩) s = .next t ∧ getF t (pgCal s.member st) F.CAL_TRSTAT_RESULT = 1
          ∧ ∀ x, x < 64 → tget (0, 0, false) (t.stack st).sweep (getF s (pgCal s.member st) F.CAL_TRCTL_CHANNEL * 64 + x)
              = ((sweepCodes s st).getD 0 0, (sweepCodes s st).getLastD 0, true))

/-- SKYLARK_STEP (R145, R146): the disagreements that the shadows have counted add up; STEP_US after the last comparison, where one
side counts more than twice the other and at least 16, the delay of the direction moves one code away from it, the step is counted
and the counts are cleared, and with no such side only the counts are cleared. What is compared for a write is what has arrived from
the base die. Where Skylark does not run nothing changes. MARGIN_MEASURE and LANE_CE_CLEAR (R147 to R149): a measurement is the
smaller of the two shadows' distances, at most 32, and is kept with the wire; one below MARGIN_MIN sets event 3 and requests a
training window; nothing is measured where Skylark does not run. The hourly clear leaves every wire's correction count 0 and its
codes as they were. WINDOW_WAIT_EXPIRY, WINDOW_DONE and WINDOW_PERIOD_ELAPSED (R150 to R153): the wait's end begins a burst in
memory mode; a window that found a pass window on every wire applies the centre of each, sets events 2 and 6 and closes; a wire with
none records 0x0A13 and asks for a fault; the period's end lets the channel be granted again. -/
def Obligations.SkylarkAndWindows : Prop :=
  (∀ (st ch wire : Nat) (below above : List Nat) (s : State), hasCh s st ch = true → wire < 64 →
    (skylarkRuns s st = false → ∀ wr, exec (.skylarkStep st ch wire wr below above) s = .next s)
    ∧ (skylarkRuns s st = true →
      let x := wireOf s st ch wire
      let off := getF s (pgCal s.member st) F.CAL_SKYCFG_OFFSET
      let due (last : Nat) : Prop := max 1 (getF s (pgCal s.member st) F.CAL_SKYCFG_STEP_US) ≤ s.us - last
      let only (t : State) : Prop := (∀ c w, c * 64 + w ≠ ch * 64 + wire → wireOf t st c w = wireOf s st c w)
        ∧ keepsRegs [pgCal s.member st + 0xB8] s t ∧ keepsStacksBut st s t ∧ Only (Parts.regs ||| Parts.stackTab) s t
      let steps (t : State) (n : Nat) : Prop :=
        getF t (pgCal s.member st) F.CAL_SKYSTAT_STEPS = min (getF s (pgCal s.member st) F.CAL_SKYSTAT_STEPS + n) (2 ^ 32 - 1)
      let b := x.rdBelow + below.getD off 0
      let a := x.rdAbove + above.getD off 0
      (¬due x.rdUs → ∃ t, exec (.skylarkStep st ch wire false below above) s = .next t
        ∧ wireOf t st ch wire = { x with rdBelow := b, rdAbove := a } ∧ steps t 0 ∧ only t)
      ∧ (due x.rdUs → 2 * a < b → 16 ≤ b → x.readDly < 127 → ∃ t, exec (.skylarkStep st ch wire false below above) s = .next t
        ∧ wireOf t st ch wire = { x with
            rdBelow := 0, rdAbove := 0, rdUs := s.us, readDly := x.readDly + 1, steps := min (x.steps + 1) 65535 }
        ∧ steps t 1 ∧ only t)
      ∧ (due x.rdUs → 2 * b < a → 16 ≤ a → 0 < x.readDly → x.readDly ≤ 127 →
        ∃ t, exec (.skylarkStep st ch wire false below above) s = .next t
        ∧ wireOf t st ch wire = { x with
            rdBelow := 0, rdAbove := 0, rdUs := s.us, readDly := x.readDly - 1, steps := min (x.steps + 1) 65535 }
        ∧ steps t 1 ∧ only t)
      ∧ (due x.rdUs → (b ≤ 2 * a ∧ a ≤ 2 * b ∨ b < 16 ∧ a < 16) → ∃ t, exec (.skylarkStep st ch wire false below above) s = .next t
        ∧ wireOf t st ch wire = { x with rdBelow := 0, rdAbove := 0, rdUs := s.us } ∧ steps t 0 ∧ only t)
      ∧ (due x.wrUs → 2 * x.wrAbove < x.wrBelow → 16 ≤ x.wrBelow → x.writeDly < 127 →
        ∃ t, exec (.skylarkStep st ch wire true below above) s = .next t
        ∧ wireOf t st ch wire = { x with
            baseBelow := x.baseBelow + below.getD off 0, baseAbove := x.baseAbove + above.getD off 0
            wrBelow := 0, wrAbove := 0, wrUs := s.us, writeDly := x.writeDly + 1, steps := min (x.steps + 1) 65535 }
        ∧ steps t 1 ∧ only t)))
  ∧ (∀ (st ch wire below above : Nat) (s : State), hasCh s st ch = true → wire < 64 →
    (skylarkRuns s st = true →
      ∃ t, exec (.marginMeasure st ch wire ⟨below, above⟩) s = .next t
        ∧ wireOf t st ch wire = { wireOf s st ch wire with margin := min (min below above) 32, measured := true }
        ∧ (∀ c w, c * 64 + w ≠ ch * 64 + wire → wireOf t st c w = wireOf s st c w)
        ∧ (min (min below above) 32 < getF s (pgCal s.member st) F.CAL_SKYCFG_MARGIN_MIN →
            hasEvent t (pgCal s.member st) 3 = true
            ∧ getF t (pgDctl s.member st ch) F.DCTL_TRAINWIN_PENDING = 1)
        ∧ keepsStacksBut st s t ∧ Only (Parts.regs ||| Parts.stackTab) s t)
    ∧ (skylarkRuns s st = false → exec (.marginMeasure st ch wire ⟨below, above⟩) s = .next s)
    ∧ (∃ t, exec (.laneCeClear st) s = .next t
        ∧ (∀ c w, wireOf t st c w = { wireOf s st c w with laneCe := 0 })
        ∧ keepsStacksBut st s t ∧ Only Parts.stackTab s t))
  ∧ (∀ (st ch wire lo hi : Nat) (s : State), hasCh s st ch = true → wire < 64 →
    (chState s st ch = 0 → windowReady s st ch = true → bursting s st ch = false →
      ∃ t, exec (.windowWaitExpiry st ch) s = .next t ∧ bursting t st ch = true
        ∧ (t.chan st ch).refreshed = false ∧ (t.chan st ch).carry = true
        ∧ keepsRegs [pgDctl s.member st ch + 0xA8] s t ∧ keepsChansBut st ch s t ∧ Only (Parts.regs ||| Parts.chans) s t)
    ∧ (getF s (pgDctl s.member st ch) F.DCTL_REFSTAT_WINDOW = 1 →
        (wireOf s st ch wire).readDly - 8 < lo → lo ≤ hi → hi < (wireOf s st ch wire).readDly + 8 → hi < 127 →
        2 * getF s (pgCal s.member st) F.CAL_SKYCFG_MARGIN_MIN ≤ hi - lo + 1 →
        (wireOf s st ch wire).writeDly = (wireOf s st ch wire).readDly →
        ∃ t, exec (.windowDone st ch [⟨wire, some (lo, hi), some (lo, hi)⟩]) s = .next t
          ∧ (wireOf t st ch wire).readDly = (lo + hi) / 2 ∧ (wireOf t st ch wire).writeDly = (lo + hi) / 2
          ∧ getF t (pgDctl s.member st ch) F.DCTL_REFSTAT_WINDOW = 0
          ∧ hasEvent t (pgCal s.member st) 2 = true ∧ hasEvent t (pgDctl s.member st ch) 6 = true
          ∧ Only (Parts.regs ||| Parts.stackTab) s t)
    ∧ (getF s (pgDctl s.member st ch) F.DCTL_REFSTAT_WINDOW = 1 →
        ∃ t, exec (.windowDone st ch [⟨wire, none, none⟩]) s = .next t
          ∧ wireOf t st ch wire = wireOf s st ch wire ∧ bitOf (t.reg (pgCal s.member st + 0x20)) 0x13 = true
          ∧ hasEvent t (pgCal s.member st) 5 = true
          ∧ t.causes = s.causes ++ [⟨7, s.member.stackDie st, 0x0A, s.member.localStack st, 0x0A13, ch + wire * 32⟩])
    ∧ (bursting s st ch = true ∨ chState s st ch = 2 → (s.chan st ch).breath = false →
        ∃ t, exec (.windowPeriodElapsed st ch) s = .next t
          ∧ t.chan st ch = { s.chan st ch with windowHold := false } ∧ keepsChansBut st ch s t ∧ Only Parts.chans s t))

/-- CHMODE_WRITE, MODE_PROC and MODE_MEM (R99, R159 to R161, R187): a write of mode 1 with a valid owner begins the entry of a
memory-mode channel; the entry ends in PROCESSOR with every row closed and the Windrow FIFOs of the channel empty; the exit ends in
MEMORY once every unit is at rest and no request is parked; it stays while the bank queue of the oldest parked request is full. A
write in transition records 0x0605, a reserved mode 0x0610, a bad owner 0x0611. BREATHER, BREATHER_END and WR_ACC_ARRIVAL (R159,
R175, R184): a breather begins in PROCESSOR where one is due and no swath runs, is counted, and when its work is done the channel
returns to PROCESSOR and its paused swaths may resume; a WR_ACC piece on a channel that Vylith owns becomes an accumulate swath of
the addressed unit, and anywhere else records 0x0814. -/
def Obligations.ChannelModesAndBreathers : Prop :=
  (∀ (w : Writer) (st ch : Nat) (v : W64) (s : State), hasCh s st ch = true →
    (chState s st ch = 0 → fld v 0 2 = 1 → validOwner s (fld v 16 16) = true →
      pgSrl s.member st ch ∉ s.disabled →
      ∃ t, exec (.chmodeWrite w st ch v) s = .next t ∧ chState t st ch = 1 ∧ chOwner t st ch = fld v 16 16
        ∧ getF t (pgDctl s.member st ch) F.DCTL_CHMODE_REQ_MODE = 1
        ∧ getF t (pgDctl s.member st ch) F.DCTL_CHMODE_OWNER = fld v 16 16
        ∧ keepsRegs [pgDctl s.member st ch + 0x80] s t ∧ keepsChansBut st ch s t ∧ Only (Parts.regs ||| Parts.chans) s t)
    ∧ ((chState s st ch = 1 ∨ chState s st ch = 4) →
        exec (.chmodeWrite w st ch v) s =
          .next (recordErr s (pgDctl s.member st ch) 0x0605 (pgDctl s.member st ch + 0x80)))
    ∧ (chState s st ch ≠ 1 → chState s st ch ≠ 4 → 2 ≤ fld v 0 2 →
        exec (.chmodeWrite w st ch v) s = .next (recordErr s (pgDctl s.member st ch) 0x0610 0))
    ∧ (chState s st ch ≠ 1 → chState s st ch ≠ 4 → fld v 0 2 = 1 → validOwner s (fld v 16 16) = false →
        exec (.chmodeWrite w st ch v) s = .next (recordErr s (pgDctl s.member st ch) 0x0611 0))
    ∧ (chState s st ch = 1 → queued s st ch = 0 → bursting s st ch = false → stackOpen s st = true →
        getF s (pgDctl s.member st ch) F.DCTL_REFSTAT_WINDOW = 0 → (s.chan st ch).intake = [] →
        ∃ t, exec (.modeProc st ch) s = .next t ∧ chState t st ch = 2 ∧ hasEvent t (pgDctl s.member st ch) 0 = true
          ∧ (∀ b, b < 16 → ((t.chan st ch).bank b).openRow = none
              ∧ t.unit (unitOf st ch b) = { s.unit (unitOf st ch b) with fifoUp := [], fifoDn := [] })
          ∧ keepsRegs [pgDctl s.member st ch + 0x80, pgDctl s.member st ch + 0x40] s t ∧ keepsChansBut st ch s t
          ∧ Only (Parts.regs ||| Parts.chans ||| Parts.units) s t)
    ∧ (chState s st ch = 4 → (s.chan st ch).breath = false → (∀ b, b < 16 → atRest (s.unit (unitOf st ch b)) = true) →
        ((s.chan st ch).parked = [] →
          ∃ t, exec (.modeMem st ch) s = .next t ∧ chState t st ch = 0 ∧ hasEvent t (pgDctl s.member st ch) 1 = true
            ∧ chOwner t st ch = 0 ∧ keepsChansBut st ch s t ∧ Only (Parts.regs ||| Parts.chans ||| Parts.stackTab) s t)
        ∧ (∀ r l, (s.chan st ch).parked = r :: l → hasRoom s r = false →
          ∃ t, exec (.modeMem st ch) s = .next t ∧ chState t st ch = 4 ∧ (t.chan st ch).parked = r :: l
            ∧ keepsChansBut st ch s t ∧ Only Parts.chans s t)))
  ∧ (∀ (st ch port : Nat) (p : Pkt) (s : State),
    (hasCh s st ch = true → chState s st ch = 2 → breatherDue s st ch = true →
      (∀ b, b < 16 → unitRuns (s.unit (unitOf st ch b)) = false) →
      ∃ t, exec (.breather st ch) s = .next t ∧ chState t st ch = 3 ∧ (t.chan st ch).breath = true
        ∧ getF t (pgSrl s.member st ch) F.SRL_BREATHER_COUNT
            = min (getF s (pgSrl s.member st ch) F.SRL_BREATHER_COUNT + 1) (2 ^ F.SRL_BREATHER_COUNT.wid - 1)
        ∧ keepsChansBut st ch s t ∧ Only (Parts.regs ||| Parts.chans) s t)
    ∧ (hasCh s st ch = true → (s.chan st ch).breath = true → (s.chan st ch).toRelease = 0 → queued s st ch = 0 →
        owed s st ch = 0 → bursting s st ch = false →
        ∃ t, exec (.breatherEnd st ch) s = .next t ∧ (t.chan st ch).breath = false
          ∧ (chState s st ch = 3 → chState t st ch = 2) ∧ (chState s st ch ≠ 3 → chState t st ch = chState s st ch)
          ∧ (∀ b r, b < 16 → (s.unit (unitOf st ch b)).run = some r →
              (t.unit (unitOf st ch b)).run = some { r with ready := true })
          ∧ keepsChansBut st ch s t)
    ∧ (hasPort s port = true → backed s.member p.pa = true → inHole s p.pa = false → inSystem p.pa = false → halted s = false →
        (chState s (paStack p.pa) (paCh p.pa) = 2 → chOwner s (paStack p.pa) (paCh p.pa) = 0x5000 →
          ∃ t sw j, exec (.wrAccArrival port p) s = .next t
            ∧ t.unit (unitOf (paStack p.pa) (paCh p.pa) (paBank p.pa)) =
                { s.unit (unitOf (paStack p.pa) (paCh p.pa) (paBank p.pa)) with
                  queue := (s.unit (unitOf (paStack p.pa) (paCh p.pa) (paBank p.pa))).queue ++ [sw] }
            ∧ sw.acc = some j ∧ sw.rowFirst = paRow p.pa ∧ sw.rowCount = 1 ∧ j.dst = paByte p.pa ∧ j.bytes = p.payload
            ∧ j.afmt = p.afmt ∧ keepsUnitsBut (unitOf (paStack p.pa) (paCh p.pa) (paBank p.pa)) s t
            ∧ Only (Parts.units ||| Parts.inPkts ||| Parts.nextIn) s t)
        ∧ (chState s (paStack p.pa) (paCh p.pa) = 0 →
          ∃ t, exec (.wrAccArrival port p) s = .next t
            ∧ bitOf (t.reg (pgSrl s.member (paStack p.pa) (paCh p.pa) + 0x20)) 0x14 = true ∧ t.units = s.units)))

/-- PROGRAM_WRITE, SWATH_COMMAND_WRITE, S_REGISTER_WRITE and OPERAND_WRITE (R164, R166): a write of the owner, to a unit that runs
nothing, stores its enabled bytes in the unit's program, swath command, S registers or operand registers and changes nothing else of
any unit; an operand chunk written whole takes the mark of its write. SWATH_LAUNCH (R161, R166, R169, R170): a write of word 7 with
bit 0 set queues the swath of words 0 and 1 and its result slot reads QUEUED; a command out of range is refused: its slot reads
REFUSED with the code, and event 1 is set; in EXITING it reads CANCELLED. With bit 0 clear the write launches nothing. -/
def Obligations.CommandWindow : Prop :=
  (∀ (a : CmdAt) (off : Nat) (data : List (Option Byte)) (pz : List Bool) (s : State),
    hasBank s a.stack a.ch a.bank = true → (chState s a.stack a.ch = 2 ∨ chState s a.stack a.ch = 3) →
    a.src = chOwner s a.stack a.ch → (s.chan a.stack a.ch).held = [] →
    (a.src / 4096 = 2 → releaseIsolated s 0 = false ∧ a.stack ≠ 0) → intakeIsolated s a.stack a.ch a.src = false →
    (s.unit (unitOf a.stack a.ch a.bank)).run = none →
    let u := unitOf a.stack a.ch a.bank
    let frame (t : State) : Prop := keepsUnitsBut u s t ∧ (∀ x y, t.chan x y = s.chan x y)
      ∧ (a.src / 4096 ≠ 2 → t.regs = s.regs)
      ∧ Only (Parts.regs ||| Parts.chans ||| Parts.units ||| Parts.tiles ||| Parts.out) s t
    (off + data.length ≤ 256 →
      ∃ t, exec (.programWrite a off data) s = .next t ∧ t.unit u = { s.unit u with prog := (t.unit u).prog }
        ∧ (∀ j, j < 256 → unitByte (t.unit u) j = overlaid off data j (unitByte (s.unit u) j)) ∧ frame t)
    ∧ (off + data.length ≤ 56 →
      ∃ t, exec (.swathCommandWrite a off data) s = .next t
        ∧ t.unit u = { s.unit u with cmd0 := (t.unit u).cmd0, cmd1 := (t.unit u).cmd1 }
        ∧ (∀ j, j < 16 → unitByte (t.unit u) (256 + j) = overlaid off data j (unitByte (s.unit u) (256 + j))) ∧ frame t)
    ∧ (off + data.length ≤ 64 →
      ∃ t, exec (.sRegisterWrite a off data) s = .next t ∧ t.unit u = { s.unit u with s := (t.unit u).s }
        ∧ (∀ j, j < 32 → unitByte (t.unit u) (384 + j) = overlaid off data j (unitByte (s.unit u) (384 + j))) ∧ frame t)
    ∧ (off + data.length ≤ 512 →
      ∃ t, exec (.operandWrite a off data pz) s = .next t ∧ t.unit u = { s.unit u with v := (t.unit u).v }
        ∧ (∀ j, j < 512 → unitByte (t.unit u) (512 + j) = overlaid off data j (unitByte (s.unit u) (512 + j)))
        ∧ (∀ r, r < 16 → (∀ j, j < 32 → off ≤ r * 32 + j ∧ (data.getD (r * 32 + j - off) none).isSome = true) →
            (tget {} (t.unit u).v r).poison = pz.getD (r - off / 32) false)
        ∧ frame t))
  ∧ (∀ (a : CmdAt) (word7 : W64) (s : State),
    hasBank s a.stack a.ch a.bank = true → a.src = chOwner s a.stack a.ch → (s.chan a.stack a.ch).held = [] →
    (chState s a.stack a.ch = 2 ∨ chState s a.stack a.ch = 3 ∨ chState s a.stack a.ch = 4) →
    (a.src / 4096 = 2 → releaseIsolated s 0 = false ∧ a.stack ≠ 0) → intakeIsolated s a.stack a.ch a.src = false →
    let u := unitOf a.stack a.ch a.bank
    let g := pgSrl s.member a.stack a.ch
    let sw := swathOf (s.unit u).cmd0 (s.unit u).cmd1
    (bitOf word7 0 = false →
      ∃ t, exec (.swathLaunch a word7) s = .next t ∧ (∀ j, t.unit j = s.unit j)
        ∧ Only (Parts.regs ||| Parts.chans ||| Parts.units ||| Parts.tiles ||| Parts.out) s t)
    ∧ (bitOf word7 0 = true → chState s a.stack a.ch ≠ 4 → (s.unit u).run = none →
        ((s.unit u).queue.filter (·.acc.isNone)).length < 2 → ((s.unit u).slot sw.slot).state ≠ 1 →
        (launchCode s a.stack (s.unit u) sw = 0 →
          ∃ t, exec (.swathLaunch a word7) s = .next t
            ∧ t.unit u = { (s.unit u).setSlot sw.slot { state := 1, tag := sw.tag } with queue := (s.unit u).queue ++ [sw] }
            ∧ keepsUnitsBut u s t ∧ Only (Parts.regs ||| Parts.chans ||| Parts.units ||| Parts.tiles ||| Parts.out) s t)
        ∧ (∀ c, launchCode s a.stack (s.unit u) sw = c → c ≠ 0 →
          ∃ t, exec (.swathLaunch a word7) s = .next t
            ∧ t.unit u = (s.unit u).setSlot sw.slot { state := 3, code := c, tag := sw.tag }
            ∧ hasEvent t g 1 = true
            ∧ getF t g F.HDR_ERR_COUNT_REFUSALS = min (getF s g F.HDR_ERR_COUNT_REFUSALS + 1) (2 ^ 32 - 1)
            ∧ keepsUnitsBut u s t))
    ∧ (bitOf word7 0 = true → chState s a.stack a.ch = 4 → ((s.unit u).slot sw.slot).state ≠ 1 →
        ∃ t, exec (.swathLaunch a word7) s = .next t ∧ ((t.unit u).slot sw.slot).state = 4
          ∧ ((t.unit u).slot sw.slot).tag = sw.tag ∧ (t.unit u).queue = (s.unit u).queue ∧ hasEvent t g 6 = true))

/-- OPERAND_READ, RESULT_SLOT_READ, UNIT_STATUS_READ and BROADCAST_READ (R164, R165, R167, R168): a read of the owner, a tile,
returns the registers, the slot, the status word or the summary of the 16 units to that tile's sequencer slot, and changes no unit.
BROADCAST_WRITE (R165): a write of the owner to the operand mirror reaches the operand registers of all 16 units, which run nothing;
to the result mirror it records 0x0812 and changes no unit. -/
def Obligations.CommandReadsAndBroadcasts : Prop :=
  (∀ (a : CmdAt) (k mirror : Nat) (s : State),
    hasBank s a.stack a.ch a.bank = true → (chState s a.stack a.ch = 2 ∨ chState s a.stack a.ch = 3) →
    a.src = chOwner s a.stack a.ch → a.src / 4096 = 1 → (s.chan a.stack a.ch).held = [] →
    intakeIsolated s a.stack a.ch a.src = false → k < 8 → mirror < 3 →
    let u := s.unit (unitOf a.stack a.ch a.bank)
    let gives (t : State) (d : List Byte) (p : List Bool) : Prop :=
      t.tile (a.src % 4096) = { s.tile (a.src % 4096) with srlBack := (s.tile (a.src % 4096)).srlBack ++ [(0, d, p)] }
      ∧ keepsTilesBut (a.src % 4096) s t ∧ (∀ x y, t.chan x y = s.chan x y) ∧ Only (Parts.chans ||| Parts.tiles) s t
    (∃ t, exec (.operandRead a k) s = .next t
      ∧ gives t (chunkBytes (tget {} u.v (2 * k)) ++ chunkBytes (tget {} u.v (2 * k + 1)))
          [(tget {} u.v (2 * k)).poison, (tget {} u.v (2 * k + 1)).poison])
    ∧ (∃ t, exec (.resultSlotRead a k) s = .next t
      ∧ gives t (chunkBytes (u.slot k).data ++ leBytes 32 (slotStatus (u.slot k))) [(u.slot k).data.poison, false])
    ∧ (∃ t, exec (.unitStatusRead a) s = .next t ∧ gives t (leBytes 64 (unitStatus u)) [false, false])
    ∧ (∃ t, exec (.broadcastRead a mirror k) s = .next t ∧ gives t (slotSummary s a.stack a.ch k) [false, false]))
  ∧ (∀ (a : CmdAt) (off : Nat) (data : List (Option Byte)) (pz : List Bool) (s : State),
    hasBank s a.stack a.ch a.bank = true → (chState s a.stack a.ch = 2 ∨ chState s a.stack a.ch = 3) →
    a.src = chOwner s a.stack a.ch → (s.chan a.stack a.ch).held = [] → off + data.length ≤ 512 → data ≠ [] →
    (a.src / 4096 = 2 → releaseIsolated s 0 = false ∧ a.stack ≠ 0) → intakeIsolated s a.stack a.ch a.src = false →
    ((∀ b, b < 16 → (s.unit (unitOf a.stack a.ch b)).run = none) →
      ∃ t, exec (.broadcastWrite a 1 off data pz) s = .next t
        ∧ (∀ b, b < 16 → t.unit (unitOf a.stack a.ch b)
            = { s.unit (unitOf a.stack a.ch b) with v := (t.unit (unitOf a.stack a.ch b)).v })
        ∧ (∀ b j, b < 16 → j < 512 → unitByte (t.unit (unitOf a.stack a.ch b)) (512 + j)
            = overlaid off data j (unitByte (s.unit (unitOf a.stack a.ch b)) (512 + j)))
        ∧ (∀ j, j / 16 ≠ a.stack * 32 + a.ch → t.unit j = s.unit j)
        ∧ Only (Parts.regs ||| Parts.chans ||| Parts.units ||| Parts.tiles ||| Parts.nextIn ||| Parts.out) s t)
    ∧ ∃ t, exec (.broadcastWrite a 2 off data pz) s = .next t
        ∧ bitOf (t.reg (pgSrl s.member a.stack a.ch + 0x20)) 0x12 = true ∧ t.units = s.units)

/-- SWATH_START and SWATH_LIMIT (R172, R173, R176): where the channel is in PROCESSOR, no breather is due and FREEZE is 0, the
oldest queued swath starts with the S3 of the moment and clear flags; a paused swath resumes; where a breather is due the start is
held; a running swath at its limit takes cause 2. SWATH_ROW_COMMIT (R167, R171, R176, R214) of a row that stored nothing: the swath
goes on with its next row; after its last it posts READY with the POST register and its tag and the unit is free; a preemption cause
pauses it and is counted. A row that stored and finds no free line of the parity cache waits (R120). And SORREL_CORRECTION_DONE
(R113) ends the stop. -/
def Obligations.SwathsRun : Prop :=
  (∀ (i : Nat) (s : State), hasUnit s i = true → (s.chan (unitStack i) (unitCh i)).held = [] →
    (∀ sw q, (s.unit i).run = none → (s.unit i).queue = sw :: q → sw.acc = none →
      chState s (unitStack i) (unitCh i) = 2 →
      (breatherCond s (unitStack i) (unitCh i) sw.cool = false → srlFrozen s (unitStack i) (unitCh i) = false →
        ∃ t r, exec (.swathStart i) s = .next t ∧ (t.unit i).run = some r ∧ r.sw = sw ∧ r.rowIdx = 0 ∧ r.chunk = sw.colFirst
          ∧ r.s3 = tget 0 (s.unit i).s 3 ∧ r.paused = false ∧ r.cause = 0 ∧ r.cool = sw.cool ∧ (t.unit i).queue = q
          ∧ (t.unit i).flags = 0 ∧ (t.unit i).v = (s.unit i).v ∧ keepsUnitsBut i s t
          ∧ Only (Parts.chans ||| Parts.units ||| Parts.ledger) s t)
      ∧ (breatherCond s (unitStack i) (unitCh i) sw.cool = true →
        ∃ t, exec (.swathStart i) s = .next t ∧ t.unit i = { s.unit i with heldStart := true }
          ∧ keepsUnitsBut i s t ∧ Only Parts.units s t))
    ∧ (∀ r, (s.unit i).run = some r → r.paused = true → chState s (unitStack i) (unitCh i) = 2 →
        breatherCond s (unitStack i) (unitCh i) r.cool = false → srlFrozen s (unitStack i) (unitCh i) = false →
        ∃ t x, exec (.swathStart i) s = .next t ∧ (t.unit i).run = some x ∧ x.sw = r.sw ∧ x.rowIdx = r.rowIdx
          ∧ x.paused = false ∧ x.preempts = r.preempts ∧ x.chunk = r.sw.colFirst ∧ keepsUnitsBut i s t)
    ∧ (∀ r, (s.unit i).run = some r → r.paused = false → r.cause = 0 →
        ∃ t, exec (.swathLimit i) s = .next t ∧ t.unit i = { s.unit i with run := some { r with cause := 2 } }
          ∧ keepsUnitsBut i s t ∧ Only Parts.units s t))
  ∧ (∀ (i : Nat) (r : Running) (s : State), hasUnit s i = true → (s.unit i).run = some r →
    (∀ k, (s.unit i).corr = some k →
      ∃ t, exec (.sorrelCorrectionDone i) s = .next t ∧ (t.unit i).corr = none ∧ (t.unit i).run = (s.unit i).run)
    ∧ ((s.unit i).corr = none → r.paused = false → r.stop = false → r.stored = [] → r.sw.acc = none → (s.unit i).wipe = false →
        r.sw.colFirst + r.sw.colCount ≤ r.chunk → (s.chan (unitStack i) (unitCh i)).held = [] →
        (r.rowIdx + 1 < r.sw.rowCount → r.cause = 0 → srlFrozen s (unitStack i) (unitCh i) = false →
          ∃ t, exec (.swathRowCommit i) s = .next t
            ∧ (t.unit i).run = some { r with
                rowIdx := r.rowIdx + 1, chunk := r.sw.colFirst, pos := 0, grp := [], stored := [], cleanStored := [] }
            ∧ keepsUnitsBut i s t ∧ Only (Parts.units ||| Parts.ledger) s t)
        ∧ (r.sw.rowCount ≤ r.rowIdx + 1 →
          ∃ t, exec (.swathRowCommit i) s = .next t ∧ (t.unit i).run = none
            ∧ (t.unit i).slot r.sw.slot =
                { data := (s.unit i).post, state := 2, preempts := min r.preempts 255, code := 0, tag := r.sw.tag }
            ∧ getF t (pgSrl s.member (unitStack i) (unitCh i)) F.SRL_SWATHS_POSTED
                = min (getF s (pgSrl s.member (unitStack i) (unitCh i)) F.SRL_SWATHS_POSTED + 1) (2 ^ 32 - 1)
            ∧ keepsUnitsBut i s t ∧ Only (Parts.regs ||| Parts.chans ||| Parts.units) s t)
        ∧ (r.rowIdx + 1 < r.sw.rowCount → r.cause ≠ 0 → r.cause < 4 → chState s (unitStack i) (unitCh i) = 2 →
          ∃ t x, exec (.swathRowCommit i) s = .next t ∧ (t.unit i).run = some x ∧ x.paused = true ∧ x.rowIdx = r.rowIdx + 1
            ∧ x.preempts = r.preempts + 1
            ∧ hasEvent t (pgSrl s.member (unitStack i) (unitCh i)) 0 = true
            ∧ getF t (pgSrl s.member (unitStack i) (unitCh i)) F.SRL_PREEMPT_LAST_CAUSE = r.cause
            ∧ keepsUnitsBut i s t))
    ∧ (r.stored ≠ [] → cacheFull s (unitStack i) (unitCh i) = true →
        cached s ⟨unitStack i, unitCh i, unitBank i, swathRow r.sw r.rowIdx⟩ = false →
        exec (.swathRowCommit i) s = .next s))

/-- NOP, MOV, SBC, SINS, RDFL, POST and SEED (R195, R212): the destination takes the copy (with its mark), the broadcast half of an
S register, the byte put into its lane, or the flags; POST and the generator take their sources. Nothing else changes but the place
in the program. A word whose chunk condition is false does nothing, a word illegal in form raises ILLEGAL and does nothing else, and
a word runs only where the unit stands at it (R191, R196): said of ADD, LD, WSEND and MOV. -/
def Obligations.SorrelRegisterWords : Prop :=
  (∀ (i at_ : Nat) (k : SCtx) (f : SrlF) (s : State), hasUnit s i = true → chunkCond k f.cnd.toNat k.r.chunk = true →
    let u := { s.unit i with run := some (k.past at_) }
    let sets (t : State) (c : Chunk) : Prop :=
      t.unit i = { u with v := tset {} u.v f.d.toNat c } ∧ keepsUnitsBut i s t ∧ Only Parts.units s t
    let sreg := (tget 0 (s.unit i).s (f.a.toNat % 4))
    (atWord s i k at_ 0x00 f → ∃ t, exec (.srlNop i f) s = .next t ∧ t.unit i = u ∧ keepsUnitsBut i s t ∧ Only Parts.units s t)
    ∧ (atWord s i k at_ 0x04 f → ∃ t, exec (.mov i f) s = .next t ∧ sets t (tget {} (s.unit i).v f.a.toNat))
    ∧ (atWord s i k at_ 0x05 f → ∃ t, exec (.sbc i f) s = .next t
        ∧ sets t (fromLanes 4 (List.replicate 8 (fld sreg (if f.m.getLsbD 0 then 32 else 0) 32)) false))
    ∧ (atWord s i k at_ 0x06 f → ∃ t, exec (.sins i f) s = .next t
        ∧ sets t (fromLanes 8 ((lanes 8 (tget {} (s.unit i).v f.d.toNat)).set (f.m.toNat % 4) sreg.toNat)
            (tget {} (s.unit i).v f.d.toNat).poison))
    ∧ (atWord s i k at_ 0x07 f → ∃ t, exec (.rdfl i f) s = .next t
        ∧ sets t (fromLanes 4 ((s.unit i).flags :: List.replicate 7 0) false))
    ∧ (atWord s i k at_ 0x13 f → ∃ t, exec (.post i f) s = .next t
        ∧ t.unit i = { u with post := tget {} (s.unit i).v f.a.toNat } ∧ keepsUnitsBut i s t ∧ Only Parts.units s t)
    ∧ (atWord s i k at_ 0x14 f → ∃ t, exec (.seed i f) s = .next t
        ∧ t.unit i = { u with rng := (if sreg ^^^ BitVec.ofNat 64 (2 ^ 48 * i) = 0 then 1
            else sreg ^^^ BitVec.ofNat 64 (2 ^ 48 * i)) }
        ∧ keepsUnitsBut i s t ∧ Only Parts.units s t))
  ∧ (∀ (i at_ : Nat) (k : SCtx) (f : SrlF) (s : State), hasUnit s i = true →
    let skips (t : State) : Prop := t.unit i = { s.unit i with run := some (k.past at_) } ∧ keepsUnitsBut i s t
    (chunkCond k f.cnd.toNat k.r.chunk = false →
      (atWord s i k at_ 0x08 f → ∃ t, exec (.add i f) s = .next t ∧ skips t ∧ Only Parts.units s t)
      ∧ (atWord s i k at_ 0x01 f → ∃ t, exec (.ld i f []) s = .next t ∧ skips t ∧ Only Parts.units s t)
      ∧ (atWord s i k at_ 0x18 f → ∃ t, exec (.wsend i f) s = .next t ∧ skips t ∧ Only Parts.units s t)
      ∧ (atWord s i k at_ 0x04 f → ∃ t, exec (.mov i f) s = .next t ∧ skips t ∧ Only Parts.units s t))
    ∧ (atWord s i k at_ 0x08 f → chunkCond k f.cnd.toNat k.r.chunk = true → arithType (f.m.toNat % 8) = false →
        ∃ t, exec (.add i f) s = .next t
          ∧ t.unit i = { s.unit i with run := some (k.past at_), flags := (s.unit i).flags ||| 4 } ∧ keepsUnitsBut i s t)
    ∧ (srlCtx s i = none → exec (.add i f) s = .next s ∧ exec (.st i f) s = .next s ∧ exec (.adamw i f) s = .next s)
    ∧ (atWord s i k at_ 0x09 f → exec (.add i f) s = .next s ∧ exec (.ld i f []) s = .next s))

/-- ADD, SUB, MUL, FMA, MIN, MAX, CMP, SEL, RSQ, RED and CVT (R195 to R198, R213) on sources that carry no poison: each lane of the
destination is the operation's rounded result, the flags that the lanes computed are raised, and nothing else changes but the place
in the program. A conversion to a wider type takes part C of the source, one to a narrower type writes part C of the destination and
leaves its other lanes, and a stochastic one draws once for each element. -/
def Obligations.SorrelLaneInstructions : Prop :=
  ∀ (i at_ : Nat) (k : SCtx) (f : SrlF) (s : State), hasUnit s i = true → chunkCond k f.cnd.toNat k.r.chunk = true →
    (tget {} (s.unit i).v f.a.toNat).poison = false → (tget {} (s.unit i).v f.b.toNat).poison = false →
    (tget {} (s.unit i).v f.c.toNat).poison = false →
    let ty := f.m.toNat % 8
    let n := tyBytes ty
    let lane (r j : Nat) : Nat := (lanes n (tget {} (s.unit i).v r)).getD j 0
    let gives (t : State) (m : Nat) (g : Nat → Nat × NFlags) : Prop :=
      t.unit i = { s.unit i with
        run := some (k.past at_)
        v := tset {} (s.unit i).v f.d.toNat (fromLanes m ((List.range (32 / m)).map (fun j => (g j).1)) false)
        flags := (s.unit i).flags ||| (List.range (32 / m)).foldl (fun x j => x ||| (g j).2) 0 }
      ∧ keepsUnitsBut i s t ∧ Only Parts.units s t
    let two (op : AOp) (t : State) : Prop := gives t n (fun j => laneOp op ty (lane f.a.toNat j) (lane f.b.toNat j) 0)
    (atWord s i k at_ 0x08 f → arithType ty = true → ∃ t, exec (.add i f) s = .next t ∧ two .add t)
    ∧ (atWord s i k at_ 0x09 f → arithType ty = true → ∃ t, exec (.sub i f) s = .next t ∧ two .sub t)
    ∧ (atWord s i k at_ 0x0A f → arithType ty = true → ∃ t, exec (.mul i f) s = .next t ∧ two .mul t)
    ∧ (atWord s i k at_ 0x0B f → ty < 3 → ∃ t, exec (.fma i f) s = .next t
        ∧ gives t n (fun j => laneOp .fma ty (lane f.a.toNat j) (lane f.b.toNat j) (lane f.c.toNat j)))
    ∧ (atWord s i k at_ 0x0C f → arithType ty = true → ∃ t, exec (.min i f) s = .next t ∧ two .min t)
    ∧ (atWord s i k at_ 0x0D f → arithType ty = true → ∃ t, exec (.max i f) s = .next t ∧ two .max t)
    ∧ (atWord s i k at_ 0x0E f → arithType ty = true → f.m.toNat / 8 ≠ 7 → ∃ t, exec (.cmp i f) s = .next t
        ∧ gives t n (fun j =>
            (if laneCmp (f.m.toNat / 8) ty (lane f.a.toNat j) (lane f.b.toNat j) then 2 ^ (8 * n) - 1 else 0, 0)))
    ∧ (atWord s i k at_ 0x0F f → arithType ty = true → ∃ t, exec (.sel i f) s = .next t
        ∧ gives t n (fun j => (if lane f.c.toNat j ≠ 0 then lane f.a.toNat j else lane f.b.toNat j, 0)))
    ∧ (atWord s i k at_ 0x10 f → ∃ t, exec (.rsq i f) s = .next t
        ∧ gives t 4 (fun j => approxRsq ((lanes 4 (tget {} (s.unit i).v f.a.toNat)).getD j 0)))
    ∧ (atWord s i k at_ 0x12 f → arithType ty = true → f.m.toNat / 8 % 4 ≠ 3 → ∃ t, exec (.red i f) s = .next t
        ∧ gives t n (fun j => if j = 0 then
            ((redLanes (f.m.toNat / 8 % 4) ty (lanes n (tget {} (s.unit i).v f.a.toNat))).1.getD 0 0,
             (redLanes (f.m.toNat / 8 % 4) ty (lanes n (tget {} (s.unit i).v f.a.toNat))).2) else (0, 0)))
    ∧ (atWord s i k at_ 0x11 f → ty ≠ 7 → f.b.toNat % 8 ≠ 7 → f.m.toNat / 8 % 4 ≠ 3 →
        let w := tyBytes (f.b.toNat % 8)
        let per := 32 / max w n
        let at0 := f.c.toNat % 4 % (max w n / min w n) * per
        let stoch : Bool := (f.m.toNat / 8 % 4 = 2 || (f.m.toNat / 8 % 4 = 0 && bitOf k.r.s3 50)) && !isInt ty
        let gen (j : Nat) : W64 := (List.range j).foldl (fun g _ => (draw16 g).2) (cvtAct.genOf (s.unit i) i)
        let conv (j : Nat) : Nat × NFlags :=
          toElem ty (if stoch then .st (draw16 (gen j)).1 else .ne) (bitOf k.r.s3 46)
            (elemVal (f.b.toNat % 8) ((lanes w (tget {} (s.unit i).v f.a.toNat)).getD (j + (if w < n then at0 else 0)) 0))
        let old := tget {} (s.unit i).v f.d.toNat
        let out (j : Nat) : Nat :=
          if n < w then (if at0 ≤ j ∧ j < at0 + per then (conv (j - at0)).1 else (lanes n old).getD j 0) else (conv j).1
        ∃ t, exec (.cvt i f) s = .next t
          ∧ t.unit i = { s.unit i with
              run := some (k.past at_)
              v := tset {} (s.unit i).v f.d.toNat (fromLanes n ((List.range (32 / n)).map out) (decide (n < w) && old.poison))
              flags := (s.unit i).flags ||| (List.range per).foldl (fun x j => x ||| (conv j).2) 0
              rng := if stoch then gen per else (s.unit i).rng }
          ∧ keepsUnitsBut i s t ∧ Only Parts.units s t)

/-- LD, ST, SST and ACCUM (R195, R200, R201, R208, R209) on a row without media errors: a load gives the stored chunk, and +0 beyond
the row; a store changes the 32 bytes of its chunk and no other byte of DRAM, and nothing beyond the row; SST stores the chunk of the
element region or of the scale region, as M or the row's class selects it; ACCUM adds eight elements of the part of its source to a
chunk in FP32. -/
def Obligations.SorrelRowAccesses : Prop :=
  ∀ (i at_ : Nat) (k : SCtx) (f : SrlF) (whole : Bool) (s : State), hasUnit s i = true →
    chunkCond k f.cnd.toNat k.r.chunk = true → k.sound s →
    let c : Int := (k.r.chunk : Int) + sgn 6 f.m.toNat
    let stores (t : State) (c : Nat) (d : Chunk) : Prop :=
      mread t.mem (k.addr c) 32 = chunkBytes d ∧ keepsMemBut (k.addr c) 32 s t ∧ keepsUnitsBut i s t
    (atWord s i k at_ 0x01 f →
      (0 ≤ c → c ≤ 63 → k.sec c.toNat ∉ s.poison →
        ∃ t, exec (.ld i f []) s = .next t
          ∧ t.unit i = { s.unit i with
              run := some (k.past at_)
              v := tset {} (s.unit i).v f.d.toNat (chunkOf (mread s.mem (k.addr c.toNat) 32) false) }
          ∧ keepsUnitsBut i s t ∧ Only (Parts.units ||| Parts.ledger) s t)
      ∧ ((c < 0 ∨ 63 < c) →
        ∃ t, exec (.ld i f []) s = .next t
          ∧ t.unit i = { s.unit i with run := some (k.past at_), v := tset {} (s.unit i).v f.d.toNat {} }
          ∧ keepsUnitsBut i s t ∧ Only Parts.units s t))
    ∧ (atWord s i k at_ 0x02 f → storeRole k at_ = some whole →
      (0 ≤ c → c ≤ 63 → ∃ t, exec (.st i f) s = .next t ∧ stores t c.toNat (tget {} (s.unit i).v f.a.toNat))
      ∧ ((c < 0 ∨ 63 < c) → ∃ t, exec (.st i f) s = .next t
          ∧ t.unit i = { s.unit i with run := some (k.past at_) } ∧ keepsUnitsBut i s t ∧ Only Parts.units s t))
    ∧ (atWord s i k at_ 0x03 f → storeRole k at_ = some whole → f.m.toNat % 4 ≠ 3 → (f.m.toNat % 4 = 2 → k.cls ≠ 0) →
        k.r.chunk < 64 →
        ∃ t, exec (.sst i f) s = .next t
          ∧ stores t k.r.chunk (tget {} (s.unit i).stage
              (k.r.chunk + (if f.m.toNat % 4 = 1 ∨ (f.m.toNat % 4 = 2 ∧ k.cls = 2) then 64 else 0))))
    ∧ (atWord s i k at_ 0x03 f → storeRole k at_ = some whole → f.m.toNat % 4 = 2 → k.cls = 0 →
        ∃ t, exec (.sst i f) s = .next t
          ∧ t.unit i = { s.unit i with run := some (k.past at_), flags := (s.unit i).flags ||| 4 } ∧ keepsMem s t)
    ∧ (atWord s i k at_ 0x22 f → storeRole k at_ = some whole → f.m.toNat % 8 < 5 →
      let c : Int := (k.r.chunk : Int) + sgn 4 f.b.toNat
      let ty := f.m.toNat % 8
      let n := tyBytes ty
      (0 ≤ c → c ≤ 63 → k.sec c.toNat ∉ s.poison → (tget {} (s.unit i).v f.a.toNat).poison = false →
        ∃ t, exec (.accum i f) s = .next t
          ∧ stores t c.toNat (fromLanes 4 ((List.range 8).map (fun j => (laneOp .add 0
              ((lanes 4 (chunkOf (mread s.mem (k.addr c.toNat) 32) false)).getD j 0)
              (widenF32 ty ((lanes n (tget {} (s.unit i).v f.a.toNat)).getD (f.c.toNat % 4 % (4 / n) * 8 + j) 0)) 0).1)) false))
      ∧ ((c < 0 ∨ 63 < c) →
        ∃ t, exec (.accum i f) s = .next t
          ∧ t.unit i = { s.unit i with run := some (k.past at_) } ∧ keepsUnitsBut i s t ∧ Only Parts.units s t))

/-- WSEND, WRECV, WRADD and WR_TIMEOUT (R215 to R218), in either direction: a send over a joined hop puts the chunk behind the others
in the neighbour's FIFO where it has room and the hop's arbiter lets it pass, waits otherwise, and over an unjoined hop sends nothing;
a receive takes the oldest chunk, waits for one, and reads +0 over an unjoined hop; the time limit ends a wait with TIMEOUT raised
and, in a receive, a poisoned zero received. -/
def Obligations.WindrowInstructions : Prop :=
  ∀ (i at_ : Nat) (k : SCtx) (f : SrlF) (s : State), hasUnit s i = true → chunkCond k f.cnd.toNat k.r.chunk = true →
    let st := unitStack i
    let p := i % 512
    let below := (p + 511) % 512
    let down : Bool := decide (f.c.toNat % 2 = 1)
    let fifo (u : Machine.Unit) : List Chunk := if down then u.fifoDn else u.fifoUp
    let withFifo (u : Machine.Unit) (l : List Chunk) : Machine.Unit := if down then { u with fifoDn := l } else { u with fifoUp := l }
    let past := { s.unit i with run := some (k.past at_) }
    let sum (ty : Nat) (c : Chunk) : Chunk := fromLanes (tyBytes ty) ((List.range (32 / tyBytes ty)).map (fun j =>
      (laneOp .add ty ((lanes (tyBytes ty) (tget {} (s.unit i).v f.a.toNat)).getD j 0) ((lanes (tyBytes ty) c).getD j 0) 0).1)) false
    (atWord s i k at_ 0x18 f →
      let hop := if down then below else p
      let far := st * 512 + (if down then below else (p + 1) % 512)
      (hopJoined s st hop = false → ∃ t, exec (.wsend i f) s = .next t ∧ t.unit i = past ∧ keepsUnitsBut i s t ∧ Only Parts.units s t)
      ∧ (hopJoined s st hop = true → hopTaken s st hop (b2n down) = false → (fifo (s.unit far)).length < 4 →
          ∃ t, exec (.wsend i f) s = .next t
            ∧ t.unit far = withFifo (s.unit far) (fifo (s.unit far) ++ [tget {} (s.unit i).v f.a.toNat])
            ∧ t.unit i = past ∧ (∀ j, j ≠ i → j ≠ far → t.unit j = s.unit j) ∧ Only Parts.units s t)
      ∧ (hopJoined s st hop = true → (hopTaken s st hop (b2n down) = true ∨ 4 ≤ (fifo (s.unit far)).length) →
          exec (.wsend i f) s = .next s
          ∧ ∃ t, exec (.wrTimeout i) s = .next t ∧ t.unit i = { past with flags := (s.unit i).flags ||| 8 }
            ∧ keepsUnitsBut i s t ∧ Only Parts.units s t))
    ∧ (let hop := if down then p else below
      (atWord s i k at_ 0x19 f →
        (∀ c l, hopJoined s st hop = true → fifo (s.unit i) = c :: l →
          ∃ t, exec (.wrecv i f) s = .next t
            ∧ t.unit i = { withFifo past l with v := tset {} (s.unit i).v f.d.toNat c } ∧ keepsUnitsBut i s t ∧ Only Parts.units s t)
        ∧ (hopJoined s st hop = false →
          ∃ t, exec (.wrecv i f) s = .next t
            ∧ t.unit i = { past with v := tset {} (s.unit i).v f.d.toNat {} } ∧ keepsUnitsBut i s t ∧ Only Parts.units s t)
        ∧ (hopJoined s st hop = true → fifo (s.unit i) = [] →
          exec (.wrecv i f) s = .next s
          ∧ ∃ t, exec (.wrTimeout i) s = .next t
            ∧ t.unit i = { past with v := tset {} (s.unit i).v f.d.toNat ⟨0, true⟩, flags := (s.unit i).flags ||| 8 }
            ∧ keepsUnitsBut i s t ∧ Only Parts.units s t))
      ∧ (atWord s i k at_ 0x1A f → f.m.toNat % 8 < 3 →
        let others (t : State) : Prop := (t.unit i).run = some (k.past at_) ∧ keepsUnitsBut i s t
          ∧ ∀ r, r ≠ f.d.toNat → tget {} (t.unit i).v r = tget {} (s.unit i).v r
        (∀ c l, hopJoined s st hop = true → fifo (s.unit i) = c :: l → c.poison = false →
          (tget {} (s.unit i).v f.a.toNat).poison = false →
          ∃ t, exec (.wradd i f) s = .next t ∧ fifo (t.unit i) = l
            ∧ tget {} (t.unit i).v f.d.toNat = sum (f.m.toNat % 8) c ∧ others t)
        ∧ (hopJoined s st hop = false → (tget {} (s.unit i).v f.a.toNat).poison = false →
          ∃ t, exec (.wradd i f) s = .next t ∧ fifo (t.unit i) = fifo (s.unit i)
            ∧ tget {} (t.unit i).v f.d.toNat = sum (f.m.toNat % 8) {} ∧ others t)
        ∧ (hopJoined s st hop = true → fifo (s.unit i) = [] →
          exec (.wradd i f) s = .next s
          ∧ ∃ t, exec (.wrTimeout i) s = .next t ∧ (tget {} (t.unit i).v f.d.toNat).poison = true
            ∧ (t.unit i).flags.testBit 3 = true ∧ keepsUnitsBut i s t
            ∧ (∀ r, r ≠ f.d.toNat → tget {} (t.unit i).v r = tget {} (s.unit i).v r))))

/-- ADAMW, SGDM, SHADOW and ACCI (R204 to R207, R210) on a row without media errors or poison: a macro reads each chunk of its group
and, on the last, writes the new parameters and moments and no other byte of DRAM (the variances only ADAMW), and on a group that is
not whole in the column range it writes nothing and raises ILLEGAL; SHADOW stages 32
rounded elements; one ACCI adds the payload elements of its chunk in FP32. -/
def Obligations.SorrelMacros : Prop :=
  ∀ (i at_ : Nat) (k : SCtx) (f : SrlF) (whole : Bool) (s : State), hasUnit s i = true → k.sound s →
    (∀ x, k.rid.sec ≤ x → x < k.rid.sec + 32 → x ∉ s.poison) →
    let c := k.r.chunk
    let old (j : Nat) : Nat → Nat := fun l => (lanes 4 (tget {} (tset {} k.r.grp 15 (chunkOf (mread s.mem (k.addr c) 32) false)) j)).getD l 0
    let res (step : SCtx → SrlF → Nat → Nat → Nat → Nat → (Nat × Nat × Nat) × NFlags) (q l : Nat) : Nat × Nat × Nat :=
      (step k f (old q l) (old (4 + q) l) (old (8 + q) l) (old (12 + q) l)).1
    let chunk (g : Nat → Nat) : List Byte := chunkBytes (fromLanes 4 ((List.range 8).map g) false)
    let ready (op : Nat) : Prop := atWord s i k at_ op f ∧ storeRole k at_ = some whole ∧ k.glog = 4 ∧ f.d.toNat ≤ 12 ∧ c < 64
      ∧ f.m.getLsbD 0 = false
    (ready 0x20 → macroRange k = true → chunkCond k f.cnd.toNat c = true → c % 16 ≠ 15 →
      ∃ t, exec (.adamw i f) s = .next t ∧ keepsMem s t ∧ (t.unit i).v = (s.unit i).v ∧ (t.unit i).flags = (s.unit i).flags
        ∧ ∃ r, (t.unit i).run = some r ∧ tget {} r.grp (c % 16) = chunkOf (mread s.mem (k.addr c) 32) false)
    ∧ (atWord s i k at_ 0x20 f → f.d.toNat ≤ 12 → macroRange k = false → chunkCond k f.cnd.toNat c = true →
      ∃ t, exec (.adamw i f) s = .next t ∧ keepsMem s t ∧ (t.unit i).v = (s.unit i).v
        ∧ (t.unit i).flags = (s.unit i).flags ||| 4)
    ∧ (c % 16 = 15 → macroActs k f = true → (∀ j, (tget {} k.r.grp j).poison = false) →
        (ready 0x20 → ∃ t, exec (.adamw i f) s = .next t
          ∧ (∀ q, q < 4 →
              mread t.mem (k.addr (c - 15 + q)) 32 = chunk (fun l => (res adamwStep q l).1)
              ∧ mread t.mem (k.addr (c - 15 + 4 + q)) 32 = chunk (fun l => (res adamwStep q l).2.1)
              ∧ mread t.mem (k.addr (c - 15 + 8 + q)) 32 = chunk (fun l => (res adamwStep q l).2.2))
          ∧ keepsMemBut (k.addr (c - 15)) 384 s t ∧ keepsUnitsBut i s t)
        ∧ (ready 0x21 → ∃ t, exec (.sgdm i f) s = .next t
          ∧ (∀ q, q < 4 →
              mread t.mem (k.addr (c - 15 + q)) 32 = chunk (fun l => (res sgdmStep q l).1)
              ∧ mread t.mem (k.addr (c - 15 + 4 + q)) 32 = chunk (fun l => (res sgdmStep q l).2.1))
          ∧ keepsMemBut (k.addr (c - 15)) 256 s t ∧ keepsUnitsBut i s t))
    ∧ (atWord s i k at_ 0x23 f → chunkCond k f.cnd.toNat c = true → f.a.toNat ≤ 12 → f.m.getLsbD 1 = true →
        (∀ j, (tget {} (s.unit i).v j).poison = false) →
        let xs := (List.range 4).flatMap (fun j => lanes 4 (tget {} (s.unit i).v (f.a.toNat + j)))
        ∃ t, exec (.shadow i f) s = .next t ∧ keepsUnitsBut i s t ∧ Only Parts.units s t
          ∧ (t.unit i).v = (s.unit i).v ∧ (t.unit i).run = some (k.past at_)
          ∧ tget {} (t.unit i).stage
              (((k.row + 65536 - fld k.r.s3 13 16) % 65536 % fld k.r.s3 3 5 * (64 / k.grp) + c / k.grp) % 64)
            = fromLanes 1 (xs.map (fun x => if mxBad xs then 0 else
                match mxScale (if f.m.getLsbD 0 then 15 else 8) xs with
                | none => 0
                | some e => (encodeF (if f.m.getLsbD 0 then fmtE5M2 else fmtE4M3) .ne true (scaleDown x e)).1)) false)
    ∧ (∀ r j x, acciNext (s.unit i) = some (r, j, x) → k = ⟨i, s.unit i, r⟩ → bitOf r.s3 51 = false → j.afmt = 0 →
        j.bytes.length = 4 → j.poison.getD 0 false = false → j.dst < 2048 → j.dst % 4 = 0 → r.pos = 0 →
        ∃ t, exec (.acci i) s = .next t
          ∧ mread t.mem (k.addr x) 32 = chunkBytes (fromLanes 4 ((lanes 4 (chunkOf (mread s.mem (k.addr x) 32) false)).set
              (j.dst % 32 / 4) (laneOp .add 0 ((lanes 4 (chunkOf (mread s.mem (k.addr x) 32) false)).getD (j.dst % 32 / 4) 0)
                (widenF32 0 (leNat j.bytes)) 0).1) false)
          ∧ x = j.dst / 32 ∧ keepsMemBut (k.addr x) 32 s t ∧ keepsUnitsBut i s t)

/-- NOP, WAIT, SIG, LOOP and ENDLOOP of the MX, DMA and SRL slots (R333, R334, R338, R345): a NOP takes its tc, 0 counting as 1; a
WAIT holds the stream; a SIG with nothing to wait for adds to the semaphore modulo 2^16, and otherwise waits; a LOOP opens a loop of
its count, ENDLOOP begins the next round or closes it; a fifth open loop, or an ENDLOOP without a loop, stops the engine with
0x0212. CFG.LOAD of the MX, DMA and SRL slots (R338, R364): 16 lines of SRAM become the 64 words of the LCB slot, and no other word
of it or of another slot changes (lines that some instruction is still writing give undefined words, R344); a poisoned line leaves
zeros and records 0x0412; lines beyond the SRAM are an illegal instruction, 0x0211. ASF_PUSH, ASF_WAIT and SEM_REGISTER_WRITE (R250,
R345, R377, R378): a push of the host or of the tile's own core joins the FIFO where it has room; where it is full the host's
records 0x0410 and is dropped, the core's waits; a push of another core is ignored; an engine that lacks entries sets event 0; a
semaphore register takes the value written. -/
def Obligations.SlotControl : Prop :=
  (∀ (k : Nat) (e : Eng) (w : W64) (s : State), hasTile s k = true → e ≠ .ve → nextSlot s k e = some w →
    let x := engOf s k e
    let sem := if e = .dma then fld w 16 5 else fld w 0 5
    let val := if e = .dma then fld w 0 16 else fld w 16 16
    let nop : Instr := match e with
      | .mx => .mxNop k (fld w 0 8) | .dma => .dmaSlotNop k (fld w 0 8) | _ => .srlSlotNop k (fld w 0 8)
    let wait : Instr := match e with
      | .mx => .mxWait k (BitVec.ofNat 5 sem) (BitVec.ofNat 16 val) | .dma => .dmaSlotWait k (BitVec.ofNat 5 sem) (BitVec.ofNat 16 val)
      | _ => .srlSlotWait k (BitVec.ofNat 5 sem) (BitVec.ofNat 16 val)
    let sig : Instr := match e with
      | .mx => .mxSig k (BitVec.ofNat 5 sem) (BitVec.ofNat 16 val) | .dma => .dmaSlotSig k (BitVec.ofNat 5 sem) (BitVec.ofNat 16 val)
      | _ => .srlSlotSig k (BitVec.ofNat 5 sem) (BitVec.ofNat 16 val)
    let loop : Instr := match e with
      | .mx => .mxLoop k (BitVec.ofNat 32 (fld w 0 32)) | .dma => .dmaSlotLoop k (BitVec.ofNat 24 (fld w 0 24))
      | _ => .srlSlotLoop k (BitVec.ofNat 32 (fld w 0 32))
    let endloop : Instr := match e with | .mx => .mxEndloop k | .dma => .dmaSlotEndloop k | _ => .srlSlotEndloop k
    let count := loopCount e w
    (slotOp e w = 0 → ∃ t, exec nop s = .next t ∧ issued k e (if fld w 0 8 = 0 then 1 else fld w 0 8) s t)
    ∧ (slotOp e w = 0x38 →
        ∃ t, exec wait s = .next t ∧ engOf t k e = { x with wait := some (sem, val) } ∧ keepsTilesBut k s t ∧ Only Parts.tiles s t)
    ∧ (slotOp e w = 0x39 → (∀ g ∈ x.sigs, g.2.2 ≠ []) →
        (pendingWork (s.tile k) e = [] →
          ∃ t, exec sig s = .next t ∧ semVal t k sem = (semVal s k sem + val) % 65536
            ∧ (∀ j, j < 32 → j ≠ sem → semVal t k j = semVal s k j) ∧ (engOf t k e).sigs = x.sigs ∧ issued k e 1 s t)
        ∧ (pendingWork (s.tile k) e ≠ [] →
          ∃ t, exec sig s = .next t ∧ (∀ j, j < 32 → semVal t k j = semVal s k j)
            ∧ (engOf t k e).sigs = x.sigs ++ [(sem, val, pendingWork (s.tile k) e)] ∧ issued k e 1 s t))
    ∧ (slotOp e w = 0x3A →
        (count ≠ 0 → x.loops.length < 4 →
          ∃ t, exec loop s = .next t ∧ (engOf t k e).loops.map (·.2) = count :: x.loops.map (·.2) ∧ issued k e 1 s t)
        ∧ (∀ n, count = 0 → x.loops.length < 4 → matchEnd e (x.buf.drop x.pc) x.pc 0 = some n → x.skip = false →
          ∃ t, exec loop s = .next t ∧ (engOf t k e).place = x.gone + n ∧ keepsTilesBut k s t)
        ∧ (4 ≤ x.loops.length →
          ∃ t, exec loop s = .next t ∧ (engOf t k e).stopped = true ∧ bitOf (t.reg (pgSeq (k / 64) + 0x20)) 0x12 = true
            ∧ ∃ c ∈ t.causes, c.cause = 7 ∧ c.code = 0x0212))
    ∧ (slotOp e w = 0x3B →
        (∀ start left l, x.loops = (start, left) :: l →
          (2 ≤ left → ∃ t, exec endloop s = .next t ∧ (engOf t k e).place = x.gone + start + 1
            ∧ (engOf t k e).loops = (start, left - 1) :: l ∧ keepsTilesBut k s t)
          ∧ (left ≤ 1 → ∃ t, exec endloop s = .next t ∧ (engOf t k e).loops.map (·.2) = l.map (·.2) ∧ issued k e 0 s t))
        ∧ (x.loops = [] → ∃ t, exec endloop s = .next t ∧ (engOf t k e).stopped = true
            ∧ bitOf (t.reg (pgSeq (k / 64) + 0x20)) 0x12 = true)))
  ∧ (∀ (k : Nat) (e : Eng) (slot : BitVec 3) (line : BitVec 16) (w : W64) (s : State), hasTile s k = true → e ≠ .ve →
    nextSlot s k e = some w →
    (slotOp e w = if e = .dma then 3 else 1) → fld w (if e = .dma then 20 else 48) 3 = slot.toNat → fld w 0 16 = line.toNat →
    let load : Instr := match e with
      | .mx => .mxCfgLoad k slot line | .dma => .dmaCfgLoad k slot line | _ => .srlCfgLoad k slot line
    (line.toNat + 15 ≤ 49151 →
      ∃ t, exec load s = .next t ∧ issued k e 16 s t
        ∧ ((s.tile k).pzRun (line.toNat * 32) 512 = false → earlyLines s k (engNo e) = [] →
            lcbWords t k slot.toNat = leWords (mread (s.tile k).sram (line.toNat * 32) 512))
        ∧ ((s.tile k).pzRun (line.toNat * 32) 512 = true →
            lcbWords t k slot.toNat = List.replicate 64 0 ∧ bitOf (t.reg (pgLcb k slot.toNat + 0x20)) 0x12 = true
            ∧ hasEvent t (pgLcb k slot.toNat) 1 = true)
        ∧ (∀ j, j < 8 → j ≠ slot.toNat → lcbWords t k j = lcbWords s k j)
        ∧ (t.tile k).sram = (s.tile k).sram)
    ∧ (49151 < line.toNat + 15 →
        ∃ t, exec load s = .next t ∧ issued k e 1 s t ∧ bitOf (t.reg (pgSeq (k / 64) + 0x20)) 0x11 = true
          ∧ (∀ j, j < 8 → lcbWords t k j = lcbWords s k j)))
  ∧ (∀ (w : Writer) (k j : Nat) (e : Eng) (v : W64) (s : State), hasTile s k = true →
    (tileWriter w k = true → (s.tile k).gated = false → (s.tile k).asf.length < 256 → (s.tile k).run = none → (s.tile k).srun = none →
      ∃ t, exec (.asfPush w k v) s = .next t ∧ t.tile k = { s.tile k with asf := (s.tile k).asf ++ [v] }
        ∧ keepsTilesBut k s t ∧ Only Parts.tiles s t)
    ∧ ((s.tile k).gated = false → 256 ≤ (s.tile k).asf.length →
        exec (.asfPush .host k v) s = .next (recordErr s (pgLcb k 0) 0x0410 0)
        ∧ ∃ t, exec (.asfPush (.uzoid (k / 64)) k v) s = .next t
            ∧ t.tile k = { s.tile k with asfHeld := (s.tile k).asfHeld ++ [v] } ∧ keepsTilesBut k s t ∧ Only Parts.tiles s t)
    ∧ (tileWriter w k = false → exec (.asfPush w k v) s = .next s)
    ∧ (asfLacks (s.tile k) e = true → tileRuns s k = true →
        ∃ t, exec (.asfWait k e) s = .next t ∧ hasEvent t (pgLcb k 0) 0 = true ∧ onlyRegs [pgLcb k 0 + 0x40] s t)
    ∧ (j < 8 → tileOff s k = false →
        ∃ t, exec (.semRegisterWrite w k j v) s = .next t ∧ t.reg (pgTile k + 0x100 + j * 8) = v
          ∧ (∀ m, m < 4 → semVal t k (4 * j + m) = fld v (16 * m) 16) ∧ onlyRegs [pgTile k + 0x100 + j * 8] s t))

/-- MX.RUN, MX_PASS_END and RUN_DONE (R233, R239, R240, R248, R366, R370, R373): a run whose checks pass latches its slot and begins
with its first pass to come; a failed check writes its code and slot, counts and sets event 1; the end of a pass leaves in every
accumulator cell the sum of its products, counted as a pass, and the next pass is the run's next, or after the last the engine is
free for the next run while the lines are written; the last line written frees the slot and sets event 0. The slot's load, the lines
and the accumulators are complete (R344), the descriptor fetch and the operands carry no poison. SRAM_UE (R224): a double-bit error
marks the 64 B unit poisoned and no other, records 0x0310 with its line, and counts it; no byte changes. A single-bit error is
corrected: it is counted, event 2 is set, and nothing else changes. -/
def Obligations.MatrixRunsAndSram : Prop :=
  (∀ (k : Nat) (slot : BitVec 3) (w : W64) (s : State), hasTile s k = true →
    (nextSlot s k .mx = some w → slotOp .mx w = 2 → fld w 48 3 = slot.toNat → (s.tile k).run = none →
      (∀ x ∈ (s.tile k).soon, x.thing = slotThing slot.toNat → x.live s k 0 = false) →
      mxIllegal (lcbWords s k slot.toNat) = false →
      (descFetch s (((List.range 9).filter (lUses (lcbWords s k slot.toNat))).map (lHandle (lcbWords s k slot.toNat)))).1 = false →
      (mxCheck s k (lcbWords s k slot.toNat) = 0 → lTotal (lcbWords s k slot.toNat) ≠ 0 →
        ∃ t r, exec (.mxRun k slot) s = .next t ∧ (t.tile k).run = some r ∧ r.slot = slot.toNat
          ∧ r.words = lcbWords s k slot.toNat ∧ r.iter = 0 ∧ r.total = lTotal (lcbWords s k slot.toNat)
          ∧ (lStreams (lcbWords s k slot.toNat) = [] → r.started = true)
          ∧ (t.tile k).lcbLatched = (s.tile k).lcbLatched ++ [slot.toNat] ∧ issued k .mx 0 s t)
      ∧ (∀ c, mxCheck s k (lcbWords s k slot.toNat) = c → c ≠ 0 →
        ∃ t, exec (.mxRun k slot) s = .next t ∧ getF t (pgTile k) F.TILE_MXRESULT_CODE = c
          ∧ getF t (pgTile k) F.TILE_MXRESULT_SLOT = slot.toNat ∧ hasEvent t (pgTile k) 1 = true
          ∧ (t.tile k).run = none ∧ issued k .mx 1 s t))
    ∧ (∀ r, (s.tile k).run = some r →
        r.started = true → r.iter < r.total → halted s = false → tileOff s k = false → (s.tile k).mx.stopped = false →
        (s.tile k).spoison = [] → (s.tile k).accPoison = [] → earlyLines s k 0 = [] →
        badTerms r.words (fun x => lValue r.words k r.iter x r.popped) r.descs = [] →
        let l := r.words
        let d (o : Nat) : List W64 := r.descs.getD o []
        let val (o j : Nat) : Int := selValue (fun x => lValue l k r.iter x r.popped) (lSel l o j)
        let el (o : Nat) (i j : Int) : Nat := (feed (s.tile k) k (d o) false [val o 0 + i, val o 1 + j, val o 2]).v
        let J := (lK l + 31) / 32
        ∃ t, exec (.mxPassEnd k) s = .next t
          ∧ (r.iter + 1 < r.total → ∃ r', (t.tile k).run = some r' ∧ r'.iter = r.iter + 1 ∧ r'.words = l
              ∧ (t.tile k).ended = (s.tile k).ended)
          ∧ (r.iter + 1 = r.total → (t.tile k).run = none ∧ ∃ r', (t.tile k).ended = (s.tile k).ended ++ [r'] ∧ r'.no = r.no)
          ∧ (∀ m n, m < 128 → n < 64 → (passModes l r.iter).1 = 0 →
              tget 0 (t.tile k).acc (accKey (getF s (pgTile k) F.TILE_TSTAT_ACC_ACTIVE) m n)
                = BitVec.ofNat 32 (cellRun (lA l) (lB l) (lSat l) 0
                    ((List.range (lK l)).map (fun (x : Nat) => el 0 m x)) ((List.range (lK l)).map (fun (x : Nat) => el 2 n x))
                    (if isMx (lA l) then (List.range J).map (fun (x : Nat) => el 1 m x) else [])
                    (if isMx (lB l) then (List.range J).map (fun (x : Nat) => el 3 n x) else [])).1)
          ∧ getF t (pgTile k) F.TILE_PASSES_PASSES
              = min (getF s (pgTile k) F.TILE_PASSES_PASSES + 1) (2 ^ F.TILE_PASSES_PASSES.wid - 1)
          ∧ ((passModes l r.iter).2 ≠ 0 → (t.tile k).sram = (s.tile k).sram
              ∧ getF t (pgTile k) F.TILE_TSTAT_ACC_HELD = 1)
          ∧ ((passModes l r.iter).2 = 0 → getF s (pgTile k) F.TILE_TSTAT_ACC_ACTIVE ≤ 1 →
              getF t (pgTile k) F.TILE_TSTAT_ACC_ACTIVE = 1 - getF s (pgTile k) F.TILE_TSTAT_ACC_ACTIVE
              ∧ getF t (pgTile k) F.TILE_TSTAT_ACC_HELD = 0)
          ∧ keepsTilesBut k s t)
    ∧ (∀ r l, (s.tile k).ended = r :: l → halted s = false →
        ∃ t, exec (.runDone k) s = .next t ∧ (t.tile k).ended = l ∧ (t.tile k).run = (s.tile k).run
          ∧ (t.tile k).lcbLatched = (s.tile k).lcbLatched.erase r.slot ∧ hasEvent t (pgTile k) 0 = true
          ∧ (t.tile k).acc = (s.tile k).acc ∧ (t.tile k).sram = (s.tile k).sram ∧ keepsTilesBut k s t
          ∧ Only (Parts.regs ||| Parts.tiles ||| Parts.allocs) s t)
    ∧ ((s.tile k).ended = [] → halted s = false →
        ∃ t, exec (.runDone k) s = .next t ∧ (t.tile k).drainBusy = false ∧ (t.tile k).acc = (s.tile k).acc
          ∧ (t.tile k).sram = (s.tile k).sram ∧ keepsTilesBut k s t ∧ Only Parts.tiles s t))
  ∧ (∀ (k word : Nat) (s : State), hasTile s k = true → word < sramBytes / 8 → tileOff s k = false →
    (∃ t, exec (.sramUe k word 2) s = .next t ∧ (t.tile k).pz (word * 8) = true
      ∧ (∀ a, a / 64 ≠ word / 8 → (t.tile k).pz a = (s.tile k).pz a)
      ∧ t.tile k = { s.tile k with spoison := (t.tile k).spoison }
      ∧ bitOf (t.reg (pgTile k + 0x20)) 0x10 = true ∧ hasEvent t (pgTile k) 3 = true
      ∧ getF t (pgTile k) F.TILE_SRAMLAST_LINE = word / 4
      ∧ getF t (pgTile k) F.TILE_SRAMECC_UNCORRECTABLE
          = min (getF s (pgTile k) F.TILE_SRAMECC_UNCORRECTABLE + 1) (2 ^ F.TILE_SRAMECC_UNCORRECTABLE.wid - 1)
      ∧ keepsTilesBut k s t ∧ Only (Parts.regs ||| Parts.tiles) s t)
    ∧ ∃ t, exec (.sramUe k word 1) s = .next t ∧ hasEvent t (pgTile k) 2 = true
      ∧ getF t (pgTile k) F.TILE_SRAMECC_CORRECTED
          = min (getF s (pgTile k) F.TILE_SRAMECC_CORRECTED + 1) (2 ^ F.TILE_SRAMECC_CORRECTED.wid - 1)
      ∧ onlyRegs [pgTile k + 0x40, pgTile k + 0xA0] s t)

/-- VNOP, VSETVL, VSETCTL, VSETA, VADDA, VRDFL, VCLRFL, VWAIT, VSIG, LOOP and ENDLOOP of the vector engine (R254, R255, R257, R258, R267,
R333, R345): the register each writes, and that the stream goes on; an illegal value writes nothing and sets ILLEGAL; a count of 0
passes the loop over, and a fifth open loop or an ENDLOOP of none stops the engine with 0x0212 and an assertion. -/
def Obligations.VectorControlInstructions : Prop :=
  ∀ (k : Nat) (f : VReg) (s : State), hasTile s k = true →
    let v := (s.tile k).ve
    let clk := (s.tile k).ves.clk + surelyPassed (s.us - (s.tile k).ves.us)
    let x := (s.tile k).ves
    let done (n : Nat) (t : State) : Prop := (engOf t k .ve).place = (engOf s k .ve).place + 1 ∧ (engOf t k .ve).clk = clk + n
      ∧ keepsTilesBut k s t
    let next (op : Nat) : Prop := nextSlot s k .ve = some (vregWord op f)
    let imm := f.imm.toNat
    let sem := imm % 32
    let val := imm / 65536 % 65536
    let misformed (t : State) : Prop := (t.tile k).ves.stopped = true ∧ bitOf (t.reg (pgSeq (k / 64) + 0x20)) 0x12 = true
      ∧ ∃ c ∈ t.causes, c.cause = 7 ∧ c.code = 0x0212
    v.calm clk →
    (next 0x00 → ∃ t, exec (.vnop k f) s = .next t ∧ done (if imm % 256 = 0 then 1 else imm % 256) t)
    ∧ (next 0x01 →
        (1 ≤ imm % 128 → imm % 128 ≤ 64 →
          ∃ t, exec (.vsetvl k f) s = .next t ∧ (t.tile k).ve.vl = imm % 128 ∧ (t.tile k).ve.v = v.v ∧ done 1 t)
        ∧ ((imm % 128 = 0 ∨ 64 < imm % 128) →
          ∃ t, exec (.vsetvl k f) s = .next t ∧ (t.tile k).ve.vl = v.vl ∧ (t.tile k).ve.v = v.v
            ∧ (t.tile k).ve.flagsAt (clk + 1) = Nat.lor v.flags 16 ∧ done 1 t))
    ∧ (next 0x02 → ∃ t, exec (.vsetctl k f) s = .next t ∧ (t.tile k).ve.vctl = f.imm &&& 7 ∧ (t.tile k).ve.v = v.v
        ∧ done 1 t)
    ∧ (next 0x03 → imm % 2 ^ 24 % 32 = 0 →
        ∃ t, exec (.vseta k f) s = .next t ∧ tget 0 (t.tile k).ve.a (f.vd.toNat % 4) = imm % 2 ^ 24
          ∧ (∀ j, j ≠ f.vd.toNat % 4 → tget 0 (t.tile k).ve.a j = tget 0 v.a j) ∧ done 1 t)
    ∧ (next 0x04 → imm % 2 ^ 24 % 32 = 0 →
        ∃ t, exec (.vadda k f) s = .next t
          ∧ tget 0 (t.tile k).ve.a (f.vd.toNat % 4) = (tget 0 v.a (f.vd.toNat % 4) + imm % 2 ^ 24) % 2 ^ 24
          ∧ (∀ j, j ≠ f.vd.toNat % 4 → tget 0 (t.tile k).ve.a j = tget 0 v.a j) ∧ done 1 t)
    ∧ (imm % 2 ^ 24 % 32 ≠ 0 →
        let illegal (t : State) : Prop := (t.tile k).ve.a = v.a ∧ (t.tile k).ve.v = v.v
          ∧ (t.tile k).ve.flagsAt (clk + 1) = Nat.lor v.flags 16 ∧ done 1 t
        (next 0x03 → ∃ t, exec (.vseta k f) s = .next t ∧ illegal t)
        ∧ (next 0x04 → ∃ t, exec (.vadda k f) s = .next t ∧ illegal t))
    ∧ (next 0x05 → ∃ t, exec (.vrdfl k f) s = .next t ∧ (t.tile k).ve.rdfl = [(clk + 3, f.vd.toNat)]
        ∧ (∀ l, l < 64 → (t.tile k).ve.lane f.vd.toNat l = 0)
        ∧ (∀ r l, l < 64 → r ≠ f.vd.toNat → (t.tile k).ve.lane r l = v.lane r l) ∧ done 1 t)
    ∧ (next 0x06 → ∃ t, exec (.vclrfl k f) s = .next t
        ∧ (t.tile k).ve.flagsAt (clk + 1) = v.flags - Nat.land v.flags (imm % 32) ∧ (t.tile k).ve.v = v.v ∧ done 1 t)
    ∧ (next 0x38 → ∃ t, exec (.vwait k f) s = .next t ∧ (t.tile k).ves = { x with clk := clk, us := s.us, wait := some (sem, val) } ∧ keepsTilesBut k s t)
    ∧ (next 0x39 → (∀ g ∈ x.sigs, g.2.2 ≠ []) →
        ∃ t, exec (.vsig k f) s = .next t ∧ semVal t k sem = (semVal s k sem + val) % 65536
          ∧ (∀ j, j < 32 → j ≠ sem → semVal t k j = semVal s k j) ∧ done 1 t)
    ∧ (next 0x3A →
        (imm ≠ 0 → x.loops.length < 4 →
          ∃ t, exec (.veLoop k f) s = .next t ∧ (t.tile k).ves.loops.map (·.2) = imm :: x.loops.map (·.2) ∧ done 1 t)
        ∧ (∀ n, imm = 0 → x.loops.length < 4 → matchEnd .ve (x.buf.drop x.pc) x.pc 0 = some n → x.skip = false →
          ∃ t, exec (.veLoop k f) s = .next t ∧ (t.tile k).ves.place = x.gone + n ∧ keepsTilesBut k s t)
        ∧ (4 ≤ x.loops.length → ∃ t, exec (.veLoop k f) s = .next t ∧ misformed t))
    ∧ (next 0x3B →
        (∀ start left l, x.loops = (start, left) :: l →
          (2 ≤ left → ∃ t, exec (.veEndloop k f) s = .next t ∧ (t.tile k).ves.place = x.gone + start + 1
            ∧ (t.tile k).ves.loops = (start, left - 1) :: l ∧ keepsTilesBut k s t)
          ∧ (left ≤ 1 → ∃ t, exec (.veEndloop k f) s = .next t ∧ (t.tile k).ves.loops.map (·.2) = l.map (·.2)
            ∧ done 0 t))
        ∧ (x.loops = [] → ∃ t, exec (.veEndloop k f) s = .next t ∧ misformed t))

/-- VADD, VSUB, VMUL, VFMA, VMIN, VMAX, VCMP, VSEL, VAND, VOR, VXOR, VIDX, VMOV, VRCP, VRSQ, VEXP2 and VLOG2 (R253 to R257, R260 to R262)
on an engine with no result to come and no poison: each active element of the destination is the operation's result and every other
lane keeps its value; the SRAM does not change; a type that the row does not name is an illegal instruction. -/
def Obligations.VectorArithmetic : Prop :=
  ∀ (k : Nat) (f : VReg) (s : State), hasTile s k = true → (s.tile k).ve.calm ((s.tile k).ves.clk + surelyPassed (s.us - (s.tile k).ves.us)) → (s.tile k).ve.vl ≤ 64 →
    let clk := (s.tile k).ves.clk + surelyPassed (s.us - (s.tile k).ves.us)
    let done (n : Nat) (t : State) : Prop := (engOf t k .ve).place = (engOf s k .ve).place + 1 ∧ (engOf t k .ve).clk = clk + n
      ∧ keepsTilesBut k s t
    let v := (s.tile k).ve
    let ty := f.ty.toNat
    let w := tyBytes ty
    let a (w e : Nat) : Nat := v.el f.va.toNat w e
    let b (w e : Nat) : Nat := veB v f w e
    let next (op : Nat) : Prop := nextSlot s k .ve = some (vregWord op f)
    let gives (t : State) (w issue : Nat) (g : Nat → Nat) : Prop :=
      v.wrote (t.tile k).ve f.vd.toNat w (v.vl * 4 / w) g ∧ (t.tile k).ve.vl = v.vl ∧ (t.tile k).ve.a = v.a
      ∧ (t.tile k).sram = (s.tile k).sram ∧ done issue t
    let two (op : AOp) (t : State) : Prop := gives t w 1 (fun e => (laneOp op ty (a w e) (b w e) (v.el f.vc.toNat w e)).1)
    let approx (g : Nat → Nat × Nat) (e : Nat) : Nat :=
      if ty = 0 then (g (a w e)).1 else (roundNE (fmtOf ty) (f32 (g (roundNE fmtF32 (decodeF (fmtOf ty) (a w e))).1).1)).1
    let bad (t : State) (issue comp : Nat) : Prop :=
      (t.tile k).ve.v = v.v ∧ (t.tile k).ve.flagsAt (clk + comp) = Nat.lor v.flags 16 ∧ done issue t
    (next 0x10 → (isF ty = true ∨ ty = 5) → ∃ t, exec (.vadd k f) s = .next t ∧ two .add t)
    ∧ (next 0x11 → (isF ty = true ∨ ty = 5) → ∃ t, exec (.vsub k f) s = .next t ∧ two .sub t)
    ∧ (next 0x12 → (isF ty = true ∨ ty = 5) → ∃ t, exec (.vmul k f) s = .next t ∧ two .mul t)
    ∧ (next 0x13 → isF ty = true → ∃ t, exec (.vfma k f) s = .next t ∧ two .fma t)
    ∧ (next 0x14 → (isF ty = true ∨ ty = 5) → ∃ t, exec (.vmin k f) s = .next t ∧ two .min t)
    ∧ (next 0x15 → (isF ty = true ∨ ty = 5) → ∃ t, exec (.vmax k f) s = .next t ∧ two .max t)
    ∧ (next 0x16 → (isF ty = true ∨ ty = 5) → f.imm.toNat % 8 ≠ 7 → ∃ t, exec (.vcmp k f) s = .next t
        ∧ gives t w 1 (fun e => if laneCmp (f.imm.toNat % 8) ty (a w e) (b w e) then 2 ^ (8 * w) - 1 else 0))
    ∧ (next 0x17 → (isF ty = true ∨ ty = 5) → ∃ t, exec (.vsel k f) s = .next t
        ∧ gives t w 1 (fun e => if v.el f.vc.toNat w e ≠ 0 then a w e else b w e))
    ∧ (next 0x18 → ∃ t, exec (.vand k f) s = .next t ∧ gives t 4 1 (fun e => Nat.land (v.lane f.va.toNat e) (b 4 e)))
    ∧ (next 0x19 → ∃ t, exec (.vor k f) s = .next t ∧ gives t 4 1 (fun e => Nat.lor (v.lane f.va.toNat e) (b 4 e)))
    ∧ (next 0x1A → ∃ t, exec (.vxor k f) s = .next t ∧ gives t 4 1 (fun e => Nat.xor (v.lane f.va.toNat e) (b 4 e)))
    ∧ (next 0x1C → ∃ t, exec (.vidx k f) s = .next t ∧ gives t 4 1 (fun e => e + f.imm.toNat))
    ∧ (next 0x1D → ∃ t, exec (.vmov k f) s = .next t ∧ gives t 4 1 (fun e => v.lane f.va.toNat e))
    ∧ (next 0x28 → isF ty = true → ∃ t, exec (.vrcp k f) s = .next t ∧ gives t w 1 (approx approxRcp))
    ∧ (next 0x29 → isF ty = true → ∃ t, exec (.vrsq k f) s = .next t ∧ gives t w 1 (approx approxRsq))
    ∧ (next 0x2A → isF ty = true → ∃ t, exec (.vexp2 k f) s = .next t ∧ gives t w 2 (approx approxExp2))
    ∧ (next 0x2B → isF ty = true → ∃ t, exec (.vlog2 k f) s = .next t ∧ gives t w 2 (approx approxLog2))
    ∧ (isF ty = false → ty ≠ 5 → (next 0x10 → ∃ t, exec (.vadd k f) s = .next t ∧ bad t 1 4)
        ∧ (next 0x16 → ∃ t, exec (.vcmp k f) s = .next t ∧ bad t 1 4)
        ∧ (next 0x28 → ∃ t, exec (.vrcp k f) s = .next t ∧ bad t 1 10))

/-- VCVT, VMXP, VPERM, VRED, TROW and TCOL (R263 to R266) on an engine with no result to come and no poison: conversions of types of one
size element by element, of two sizes through the selected half or quarter, an MX block pair packed with its two scale bytes, the permuted lanes (+0 from beyond VL), and the reductions
over the active lanes, whose unused result lanes read +0. -/
def Obligations.VectorReductions : Prop :=
  ∀ (k : Nat) (f : VReg) (s : State), hasTile s k = true → (s.tile k).ve.calm ((s.tile k).ves.clk + surelyPassed (s.us - (s.tile k).ves.us)) → (s.tile k).ve.vl ≤ 64 →
    let clk := (s.tile k).ves.clk + surelyPassed (s.us - (s.tile k).ves.us)
    let done (n : Nat) (t : State) : Prop := (engOf t k .ve).place = (engOf s k .ve).place + 1 ∧ (engOf t k .ve).clk = clk + n
      ∧ keepsTilesBut k s t
    let v := (s.tile k).ve
    let ty := f.ty.toNat
    let imm := f.imm.toNat
    let d := f.vd.toNat
    let next (op : Nat) : Prop := nextSlot s k .ve = some (vregWord op f)
    let gives (t : State) (w n issue : Nat) (g : Nat → Nat) : Prop :=
      v.wrote (t.tile k).ve d w n g ∧ (t.tile k).sram = (s.tile k).sram ∧ done issue t
    let row (r : Nat) : Nat := (veReduce (imm / 16 % 8) ty 6 ((List.range v.vl).map (v.lane r))).1
    (next 0x20 → ty ≠ 7 → imm % 8 ≠ 7 → imm / 8 % 4 = 1 → tyBytes ty = tyBytes (imm % 8) →
      ∃ t, exec (.vcvt k f) s = .next t
        ∧ gives t (tyBytes ty) (v.vl * 4 / tyBytes ty) 1 (fun e =>
            (toElem (imm % 8) .ne (v.vctl.getLsbD 0) (elemVal ty (v.el f.va.toNat (tyBytes ty) e))).1))
    ∧ (next 0x20 → ty ≠ 7 → imm % 8 ≠ 7 → imm / 8 % 4 = 1 → tyBytes ty ≠ tyBytes (imm % 8) →
      let wa := tyBytes ty
      let wb := tyBytes (imm % 8)
      let src := if wa < wb then partAt wa (imm / 32 % 4) 0 / wa else 0
      let dst := if wb < wa then partAt wb (imm / 32 % 4) 0 / wb else 0
      ∃ t, exec (.vcvt k f) s = .next t ∧ (t.tile k).sram = (s.tile k).sram ∧ done 1 t
        ∧ (∀ e, e < v.vl → (dst + e) * wb / 4 < v.vl → (t.tile k).ve.el d wb (dst + e) =
            (toElem (imm % 8) .ne (v.vctl.getLsbD 0) (elemVal ty (v.el f.va.toNat wa (src + e)))).1 % 2 ^ (8 * wb))
        ∧ (∀ r l, l < 64 → (r ≠ d ∨ v.vl ≤ l) → (t.tile k).ve.lane r l = v.lane r l))
    ∧ (next 0x21 → ty = 0 → imm / 8 % 4 = 1 → d ≠ f.vc.toNat →
        ∃ t, exec (.vmxp k f) s = .next t ∧ done 1 t ∧ (t.tile k).sram = (s.tile k).sram
          ∧ (∀ j, j < 2 → (t.tile k).ve.el f.vc.toNat 1 (2 * (imm / 32 % 4) + j) =
              (blockScale (imm % 2) ((List.range 32).map (fun l => v.lane f.va.toNat (32 * j + l)))).1)
          ∧ (∀ e, e < 64 → (t.tile k).ve.el d 1 (64 * (imm / 32 % 4) + e) =
              match (blockScale (imm % 2) ((List.range 32).map (fun l => v.lane f.va.toNat (32 * (e / 32) + l)))).2 with
              | some x => (encodeF (mxFmt (imm % 2)) .ne true (scaleDown (v.lane f.va.toNat e) x)).1
              | none => 0))
    ∧ (next 0x30 → ∃ t, exec (.vperm k f) s = .next t
        ∧ gives t 4 v.vl 1 (fun e => if veB v f 4 e < v.vl then v.lane f.va.toNat (veB v f 4 e) else 0))
    ∧ (redOk f = true →
        (next 0x31 → ∃ t, exec (.vred k f) s = .next t ∧ gives t 4 64 1 (fun e => if e = 0 then row f.va.toNat else 0))
        ∧ ((f.va.toNat = 0 ∨ f.va.toNat = 16) →
          (next 0x32 → ∃ t, exec (.trow k f) s = .next t
            ∧ gives t 4 64 (redCount f) (fun e => if e < redCount f then row (f.va.toNat + e) else 0))
          ∧ (next 0x33 → ∃ t, exec (.tcol k f) s = .next t
            ∧ gives t 4 v.vl ((redCount f + 1) / 2) (fun n => (veReduce (imm / 16 % 8) ty 4
                ((List.range (redCount f)).map (fun r => v.lane (f.va.toNat + r) n))).1))))

/-- VLD, VLDS, TLD, VST, VSTS and TST (R256 to R258, R271, R272) on lines inside the SRAM, with no write of them still landing: a load brings the
32 B lines into the active lanes, a store writes the active lanes and no other byte of the SRAM; the address register moves on where
the form says so; an offset that is no multiple of 32 is an illegal instruction. -/
def Obligations.VectorMemory : Prop :=
  ∀ (k : Nat) (f : VMem) (s : State), hasTile s k = true → (s.tile k).ve.calm ((s.tile k).ves.clk + surelyPassed (s.us - (s.tile k).ves.us)) → (s.tile k).ve.vl ≤ 64 →
    (s.tile k).ve.lines = [] → (s.tile k).spoison = [] → earlyLines s k 1 = [] →
    let clk := (s.tile k).ves.clk + surelyPassed (s.us - (s.tile k).ves.us)
    let done (n : Nat) (t : State) : Prop := (engOf t k .ve).place = (engOf s k .ve).place + 1 ∧ (engOf t k .ve).clk = clk + n
      ∧ keepsTilesBut k s t
    let v := (s.tile k).ve
    let ea := veEa v f
    let sd := f.stride.toNat * 32
    let d := f.vd.toNat
    let next (op : Nat) : Prop := nextSlot s k .ve = some (vmemWord op f)
    let moved (t : State) : Prop :=
      (∀ j, j ≠ f.ar.toNat → tget 0 (t.tile k).ve.a j = tget 0 v.a j)
      ∧ (f.inc = false → tget 0 (t.tile k).ve.a f.ar.toNat = tget 0 v.a f.ar.toNat)
      ∧ (f.inc = true → tget 0 (t.tile k).ve.a f.ar.toNat
          = unsgn 24 (Int.ofNat (tget 0 v.a f.ar.toNat) + sgn 12 f.step.toNat * 32))
    let word (at_ : Nat) : Nat := leNat (mread (s.tile k).sram at_ 4)
    let loads (t : State) (rows issue : Nat) (at_ : Nat → Nat → Nat) : Prop :=
      (∀ r n, r < rows → n < v.vl → (t.tile k).ve.lane (d + r) n = word (at_ r n))
      ∧ (∀ r n, n < 64 → (r < d ∨ d + rows ≤ r ∨ v.vl ≤ n) → (t.tile k).ve.lane r n = v.lane r n)
      ∧ (t.tile k).sram = (s.tile k).sram ∧ moved t ∧ done issue t
    let stores (t : State) (rows issue : Nat) (at_ : Nat → Nat → Nat) : Prop :=
      (∀ r n, r < rows → n < v.vl → leNat (mread (t.tile k).sram (at_ r n) 4) = v.lane (d + r) n)
      ∧ (∀ b, (∀ r n, r < rows → n < v.vl → (b < at_ r n ∨ at_ r n + 4 ≤ b)) → mget (t.tile k).sram b = mget (s.tile k).sram b)
      ∧ (t.tile k).ve.v = v.v ∧ moved t ∧ done issue t
    let flat (_ n : Nat) : Nat := ea + 4 * n
    let strided (_ n : Nat) : Nat := ea + n / 8 * sd + n % 8 * 4
    let tiled (r n : Nat) : Nat := ea + r * sd + 4 * n
    let load8 := bankLoad (((List.range 8).filter (fun i => 8 * i < v.vl)).map (fun i => ea + i * sd))
    (f.off.toNat % 32 = 0 →
      (ea + 256 ≤ sramBytes →
        (next 0x08 → ∃ t, exec (.vld k f) s = .next t ∧ loads t 1 1 flat)
        ∧ (next 0x0C → ∃ t, exec (.vst k f) s = .next t ∧ stores t 1 1 flat))
      ∧ (ea + 7 * sd + 32 ≤ sramBytes →
        (next 0x09 → ∃ t, exec (.vlds k f) s = .next t ∧ loads t 1 load8 strided)
        ∧ (next 0x0D → 0 < sd → ∃ t, exec (.vsts k f) s = .next t ∧ stores t 1 load8 strided))
      ∧ (ea + 15 * sd + 256 ≤ sramBytes → (d = 0 ∨ d = 16) →
        (next 0x0A → ∃ t, exec (.tld k f) s = .next t ∧ loads t 16 16 tiled)
        ∧ (next 0x0E → 256 ≤ sd → ∃ t, exec (.tst k f) s = .next t ∧ stores t 16 16 tiled)))
    ∧ (f.off.toNat % 32 ≠ 0 →
        (next 0x08 → ∃ t, exec (.vld k f) s = .next t ∧ (t.tile k).ve.v = v.v ∧ (t.tile k).sram = (s.tile k).sram
          ∧ (t.tile k).ve.flagsAt (clk + 8) = Nat.lor v.flags 16 ∧ done 1 t)
        ∧ (next 0x0C → ∃ t, exec (.vst k f) s = .next t ∧ (t.tile k).sram = (s.tile k).sram
          ∧ (t.tile k).ve.flagsAt (clk + 6) = Nat.lor v.flags 16 ∧ done 1 t))

/-- CW.SOFTMAX, CW.LNORM, CW.RMSNORM, ENGINE_ROUTINE_DONE and SEMAPHORE_WAIT_RELEASE (R274 to R276, R345, R349): a refused call writes
no row and keeps its status; one row of FP32, with no optional block, becomes the routine's outputs; the end writes the status word
and leaves VL 64; a wait whose semaphore has reached its value lets the stream go on. -/
def Obligations.EngineRoutines : Prop :=
  ∀ (k line held : Nat) (e : Eng) (s : State), hasTile s k = true →
    let v := s.tile k
    let arg := cwArg v line
    let runs (which : Nat) (c : Instr) (y : List Nat → List Nat) : Prop := nextCall s k = some (which, line) → v.spoison = [] → v.storePz = false → earlyLines s k 1 = [] →
      (cwStatus (decide (which = 1)) arg ≠ 1 →
        ∃ t, exec c s = .next t ∧ (t.tile k).ves.routine = some (line, cwStatus (decide (which = 1)) arg, 0)
          ∧ (t.tile k).sram = v.sram ∧ keepsTilesBut k s t)
      ∧ (cwStatus (decide (which = 1)) arg = 1 → arg.R = 1 → arg.inType = 0 → arg.outType = 0 →
          absent arg.mask = true → absent arg.stats = true → absent arg.flags = true → absent arg.gamma = true →
          absent arg.beta = true → arg.input + 4 * arg.L ≤ sramBytes → arg.output + 4 * arg.L ≤ sramBytes →
          ∃ t, exec c s = .next t ∧ (t.tile k).ves.routine = some (line, 1, 1)
            ∧ (∀ j, j < arg.L → leNat (mread (t.tile k).sram (arg.output + 4 * j) 4) =
                (y ((List.range arg.L).map (fun i => leNat (mread v.sram (arg.input + 4 * i) 4)))).getD j 0 % 2 ^ 32)
            ∧ (∀ b, (b < arg.output ∨ arg.output + 4 * arg.L ≤ b) → mget (t.tile k).sram b = mget v.sram b)
            ∧ keepsTilesBut k s t)
    let ones (n : Nat) := List.replicate n 0x3F800000
    let zeros (n : Nat) := List.replicate n 0
    runs 1 (.cwSoftmax k line) (fun l => (softmaxRow arg.scale (l.map some)).ys)
    ∧ runs 2 (.cwLnorm k line) (fun l => (normRow true arg.scale l (ones l.length) (zeros l.length)).ys)
    ∧ runs 3 (.cwRmsnorm k line) (fun l => (normRow false arg.scale l (ones l.length) (zeros l.length)).ys)
    ∧ (∀ st rows, tileRuns s k = true → v.ves.routine = some (line, st, rows) → line * 32 + 56 ≤ sramBytes →
        st < 2 ^ 32 → rows < 2 ^ 32 →
        ∃ t, exec (.engineRoutineDone k) s = .next t ∧ (t.tile k).ves.routine = none ∧ (t.tile k).ve.vl = 64
          ∧ (t.tile k).ve.poison = [] ∧ (t.tile k).ves.place = v.ves.place + 1
          ∧ leNat (mread (t.tile k).sram (line * 32 + 48) 8) = st + rows * 2 ^ 32
          ∧ (∀ b, (b < line * 32 + 48 ∨ line * 32 + 56 ≤ b) → mget (t.tile k).sram b = mget v.sram b) ∧ keepsTilesBut k s t)
    ∧ (∀ sem n, (engOf s k e).wait = some (sem, n) → tileRuns s k = true →
        (n ≤ semVal s k sem →
          ∃ t, exec (.semaphoreWaitRelease k (.engine e) held) s = .next t ∧ (engOf t k e).wait = none
            ∧ issued k e (1 + held) s t)
        ∧ (semVal s k sem < n → exec (.semaphoreWaitRelease k (.engine e) held) s = .next s))

/-- DMA_START, PROGRAM_HELD, END, LOOP, ENDLOOP, WAIT and SIGNAL of a DMA channel (R308, R309, R317 to R320): START of an idle channel
reads FETCH; a program in SRAM that passes its structure check is held and runs, and one that fails is refused with its code; a
program in DRAM is fetched row by row, and held once the words up to its first END are back; END
counts the program and reads IDLE once no write is outstanding, DRAIN before that; a LOOP opens its rounds, ENDLOOP counts them; a
WAIT waits; a SIGNAL adds to a semaphore or a sync counter, or sends a fence and a signal to a part. -/
def Obligations.DmaPrograms : Prop :=
  ∀ (w : Writer) (k c : Nat) (v : W64) (s : State), hasTile s k = true → c < 4 →
    let p := pgDma k
    let x := dch s k c
    let word := chWord s k c
    let ready (op : Nat) : Prop := chReady s k c = true ∧ fld word 0 8 = op
    let moved (t : State) : Prop := chPc t k c = (chPc s k c + 1) % 256
    (bitOf v 0 = true → chSt s k c = 0 → p ∉ s.disabled → (s.tile k).gated = false →
      ∃ t, exec (.dmaStart w k c v) s = .next t ∧ chSt t k c = 1 ∧ chPc t k c = 0
        ∧ (dch t k c).sram = decide (getF s p F.DMA_CH_PROG_SRAM c = 1)
        ∧ (getF s p F.DMA_CH_PROG_SRAM c = 0 → (dch t k c).src = getF s p F.DMA_CH_PROG_ADDR c / 64 * 64
          ∧ (x.wtodo = [] → x.rtodo = [] → (dch t k c).reads ++ (dch t k c).rtodo =
              x.reads ++ [{ progRead ((dch t k c).src) 2048 with tag := x.nextTag % 65536 }]))
        ∧ (getF s p F.DMA_CH_PROG_SRAM c = 1 → (dch t k c).src = getF s p F.DMA_CH_PROG_ADDR c % 2 ^ 24 / 32 * 32
          ∧ keepsTilesBut k s t ∧ Only (Parts.regs ||| Parts.tiles) s t))
    ∧ (bitOf v 0 = true → chSt s k c ≠ 0 → (s.tile k).gated = false →
        exec (.dmaStart w k c v) s = .next (recordErr s p 0x0505 (p + 0x108 + c * 0x40)))
    ∧ (chSt s k c = 1 → dmaRuns s k = true → x.sram = true → x.src + 2048 ≤ sramBytes → (s.tile k).spoison = [] →
        earlyLines s k 2 = [] →
        (∀ n, structCheck (leWords (mread (s.tile k).sram x.src 2048)) 256 0 0 = .ok n →
          ∃ t, exec (.programHeld k c) s = .next t ∧ chSt t k c = 2
            ∧ (dch t k c).prog = (leWords (mread (s.tile k).sram x.src 2048)).take n ∧ keepsTilesBut k s t)
        ∧ (∀ code pc, structCheck (leWords (mread (s.tile k).sram x.src 2048)) 256 0 0 = .error (code, pc) → pc < 256 →
          x.writes = [] →
          ∃ t, exec (.programHeld k c) s = .next t ∧ chSt t k c = 0 ∧ getF t p F.DMA_CH_RESULT_CODE c = code
            ∧ getF t p F.DMA_CH_RESULT_PC c = pc ∧ hasEvent t p (4 + c) = true ∧ keepsTilesBut k s t))
    ∧ (∀ q rest b, chSt s k c = 1 → dmaRuns s k = true → x.sram = false → x.reads = q :: rest → q.role = 3 →
        x.rback.find? (·.1 = q.tag) = some b → b.2.2.any id = false → x.fetched.any (·.2) = false →
        let words := x.fetched.map (·.1) ++ leWords b.2.1
        (∀ n, structCheck words 256 0 0 = .ok n → ∃ t, exec (.programHeld k c) s = .next t ∧ chSt t k c = 2
          ∧ (dch t k c).prog = words.take n ∧ (dch t k c).reads = rest ∧ keepsTilesBut k s t)
        ∧ (fetchesOn words = true → ∃ t, exec (.programHeld k c) s = .next t ∧ chSt t k c = 1
          ∧ (dch t k c).fetched.map (·.1) = words))
    ∧ (ready 0x01 → word &&& 0xFFFFFFFFFFFFFF00 = 0 →
        (x.writes = [] → ∃ t, exec (.dmaEnd k c) s = .next t ∧ chSt t k c = 0 ∧ chPc t k c = 0 ∧ hasEvent t p c = true
          ∧ getF t p F.DMA_CH_COUNT_PROGRAMS c = min (getF s p F.DMA_CH_COUNT_PROGRAMS c + 1) (2 ^ 32 - 1)
          ∧ (dch t k c).prog = [] ∧ (t.tile k).sram = (s.tile k).sram ∧ keepsTilesBut k s t)
        ∧ (x.writes ≠ [] → ∃ t, exec (.dmaEnd k c) s = .next t ∧ chSt t k c = 5 ∧ hasEvent t p c = true))
    ∧ (∀ count : Word, ready 0x02 → word &&& 0xFFFF00000000FF00 = 0 → fld word 16 32 = count.toNat →
        (count ≠ 0 → ∃ t, exec (.dmaLoop k c count) s = .next t
          ∧ (dch t k c).loops = ⟨chPc s k c + 1, count.toNat, 0⟩ :: x.loops ∧ moved t ∧ keepsTilesBut k s t)
        ∧ (count = 0 → ∃ t, exec (.dmaLoop k c count) s = .next t
          ∧ chPc t k c = afterLoop x.prog 256 (chPc s k c) 0 % 256 ∧ (dch t k c).loops = x.loops ∧ keepsTilesBut k s t))
    ∧ (∀ l r, ready 0x03 → word &&& 0xFFFFFFFFFFFFFF00 = 0 → x.loops = l :: r →
        (l.iter + 1 < l.count → ∃ t, exec (.dmaEndloop k c) s = .next t
          ∧ (dch t k c).loops = { l with iter := l.iter + 1 } :: r ∧ chPc t k c = l.start % 256 ∧ keepsTilesBut k s t)
        ∧ (l.count ≤ l.iter + 1 → ∃ t, exec (.dmaEndloop k c) s = .next t ∧ (dch t k c).loops = r ∧ moved t ∧ keepsTilesBut k s t))
    ∧ (∀ (sem : BitVec 5) (n : BitVec 16), ready 0x04 → word &&& 0xFFFFFFFF0000E000 = 0 → fld word 8 5 = sem.toNat →
        fld word 16 16 = n.toNat →
        ∃ t, exec (.dmaWait k c sem n) s = .next t ∧ chSt t k c = 3 ∧ (dch t k c).wait = some (sem.toNat, n.toNat)
          ∧ keepsTilesBut k s t ∧ Only (Parts.regs ||| Parts.tiles) s t)
    ∧ (ready 0x05 → word &&& 0x0000FFE000000000 = 0 →
        (fld word 8 2 = 0 → x.writes = [] → ∃ t, exec (.signal k c word) s = .next t
          ∧ semVal t k (fld word 16 5) = (semVal s k (fld word 16 5) + fld word 48 16) % 65536 ∧ moved t)
        ∧ (fld word 8 2 = 2 → x.writes = [] → ∃ t, exec (.signal k c word) s = .next t
          ∧ syncVal t (fld word 16 12) = (syncVal s (fld word 16 12) + fld word 48 16) % 2 ^ 32 ∧ moved t)
        ∧ (fld word 8 2 = 3 → getF s pgSync F.SYNC_ROUTE_VALID (fld word 10 6) = 1 → svcGlobal s = true →
          ∃ t, exec (.signal k c word) s = .next t
            ∧ t.egress.map (fun q => q.2.typ) = s.egress.map (fun q => q.2.typ) ++ [6, 6, 5] ∧ moved t)
        ∧ (fld word 8 2 = 0 → x.writes ≠ [] → ∃ t, exec (.signal k c word) s = .next t ∧ chSt t k c = 4
          ∧ (dch t k c).sig = some word))

/-- MOVE and DMA_REQUEST_DONE (R310, R312, R315, R317, R321): a MOVE with a reserved bit set or that fails a check is refused with its
code; an identical MOVE does nothing but count; a gather or a scatter reads its index elements first; any other MOVE issues its reads;
and no byte of SRAM or DRAM changes until they return. The oldest read, once its data is back, writes its piece's bytes and no other
byte of the destination; a read whose data is not back holds those behind it; a returned write is outstanding no longer, and the last
of a program that has ended leaves the channel IDLE. Where no sector of the system region is poisoned or failing (R291). -/
def Obligations.DmaMoves : Prop :=
  ∀ (k c : Nat) (s : State), hasTile s k = true → c < 4 →
    let p := pgDma k
    let x := dch s k c
    let w := (x.prog.drop (chPc s k c)).take 13
    let ready : Prop := chReady s k c = true ∧ fld (chWord s k c) 0 8 = 0x10
    let clean : Prop := (∀ h i, secClass s (descSec h i) = 0) ∧ ∀ n e, secClass s (ownSec n e) = 0
    let ds := s.desc (mHandle w 0)
    let dd := s.desc (mHandle w 1)
    (ready → fld (chWord s k c) 10 2 ≠ 0 → x.writes = [] →
      ∃ t, exec (.move k c w) s = .next t ∧ chSt t k c = 0 ∧ getF t p F.DMA_CH_RESULT_CODE c = 0x0540)
    ∧ (ready → clean → fld (chWord s k c) 10 2 = 0 →
      (∀ code, moveCheck s w x = code → code ≠ 0 → x.writes = [] →
        ∃ t, exec (.move k c w) s = .next t ∧ chSt t k c = 0 ∧ getF t p F.DMA_CH_RESULT_CODE c = code
          ∧ hasEvent t p (4 + c) = true ∧ (∀ j, (t.tile j).sram = (s.tile j).sram) ∧ t.mem = s.mem)
      ∧ (moveCheck s w x = 0 → identicalMove w x ds dd = true →
        ∃ t, exec (.move k c w) s = .next t ∧ chPc t k c = (chPc s k c + 13) % 256
          ∧ getF t p F.DMA_CH_COUNT_NOOPS c = min (getF s p F.DMA_CH_COUNT_NOOPS c + 1) (2 ^ 32 - 1)
          ∧ (∀ j, t.tile j = s.tile j) ∧ Only Parts.regs s t)
      ∧ (moveCheck s w x = 0 → identicalMove w x ds dd = false → mForm w = 0 →
          sidesMeet ds dd (mElems s w x ds dd []).1 = false →
        let l := moveReads 0 (dWidth ds) (dWidth dd) (dFill ds) (dAccum dd)
          (segsOf (dWidth ds) (dWidth dd) (dNarrow ds) (dNarrow dd) (mElems s w x ds dd []).1)
        ∃ t, exec (.move k c w) s = .next t
          ∧ (dch t k c).rtodo.length + (dch t k c).reads.length = l.length
          ∧ (l = [] → chPc t k c = (chPc s k c + 13) % 256 ∧ (dch t k c).move = none)
          ∧ (l ≠ [] → chPc t k c = chPc s k c ∧ (dch t k c).move.isSome = true)
          ∧ (∀ j, (t.tile j).sram = (s.tile j).sram) ∧ t.mem = s.mem)
      ∧ (moveCheck s w x = 0 → mForm w ≠ 0 →
        let di := s.desc (mHandle w 2)
        let l := moveReads 1 32 32 0 false (segsOf 32 32 (dNarrow di) false
          ((idxPlaces s w (dRank ds) di).filter (fun e => match e.src with | .at_ _ => true | _ => false)))
        l ≠ [] →
        ∃ t, exec (.move k c w) s = .next t ∧ chPc t k c = chPc s k c
          ∧ (dch t k c).rtodo.length + (dch t k c).reads.length = l.length
          ∧ (dch t k c).move = some ⟨w, [ds, dd, di],
              List.replicate (mE w (dRank ds - 1)) (sgn 32 (dFill di % 2 ^ 32), false), false⟩
          ∧ (∀ j, (t.tile j).sram = (s.tile j).sram) ∧ t.mem = s.mem))
    ∧ (∀ r rest q b, x.reads = r :: rest → r.role = 0 → r.pieces = [q] → x.rback.find? (·.1 = r.tag) = some b →
        dmaRuns s k = true → x.wtodo = [] → x.writes.length < 16 → x.ctl.acc = false → x.asm.bytes = [] →
        (∀ m, x.move = some m → m.begun = true) →
        q.fill = none → q.last = true → q.dst.kind = 0 → 0 < q.n → q.off % 8 = 0 → q.n % 8 = 0 →
        q.dst.addr % 8 = 0 → q.dst.addr % 16384 + q.n ≤ 16384 →
        q.dst.addr / 8 + q.n / 8 ≤ sramBytes → q.off / 8 + q.n / 8 ≤ b.2.1.length →
        ∃ t, exec (.dmaRequestDone k c false) s = .next t
          ∧ mread (t.tile q.dst.who).sram (q.dst.addr / 8) (q.n / 8) = (b.2.1.drop (q.off / 8)).take (q.n / 8)
          ∧ (∀ a, (a < q.dst.addr / 8 ∨ q.dst.addr / 8 + q.n / 8 ≤ a) →
              mget (t.tile q.dst.who).sram a = mget (s.tile q.dst.who).sram a)
          ∧ (∀ j, j ≠ q.dst.who → (t.tile j).sram = (s.tile j).sram) ∧ t.mem = s.mem
          ∧ (dch t k c).writes = x.writes ++ [x.nextTag % 65536])
    ∧ (∀ r rest, x.reads = r :: rest → x.rback.find? (·.1 = r.tag) = none → exec (.dmaRequestDone k c false) s = .next s)
    ∧ (∀ tag rest, x.wback = tag :: rest → x.wtodo = [] →
        ∃ t, exec (.dmaRequestDone k c true) s = .next t ∧ (dch t k c).wback = rest ∧ (dch t k c).writes = x.writes.erase tag
          ∧ (x.writes = [tag] → x.reads = [] → x.rtodo = [] → x.sig = none → x.move = none → chSt s k c = 5 → chSt t k c = 0)
          ∧ (∀ j, (t.tile j).sram = (s.tile j).sram) ∧ t.mem = s.mem)

/-- DSTART, DRUN, SWR, SRD, SWAIT, SRUN and SRL_ACCESS_COMPLETION (R336, R337, R374, R375): an engine's instruction starts the channel or
sends the command access and goes on; DSTART waits for an idle channel; SWAIT holds the stream until a poll says that every unit of
the mask has ended, and the answer to an earlier SWAIT releases nothing; a write reaches the owner's open command window and a read
returns its slots; a returned read lands in its SRAM lines; a field out of range is an illegal instruction, 0x0211. -/
def Obligations.EngineSlotWork : Prop :=
  ∀ (k : Nat) (w : W64) (s : State), hasTile s k = true →
    let x := s.tile k
    let c := fld w 16 2
    let st := fld w 51 5
    let ch := fld w 46 5
    let n := if fld w 32 5 = 0 then 32 else fld w 32 5
    let line := fld w 0 16
    let slot0 := fld w 37 9 % 32
    let u := unitOf st ch (fld w 37 9 / 32)
    let swr : Instr := .swr k (BitVec.ofNat 5 st) (BitVec.ofNat 5 ch) (BitVec.ofNat 9 (fld w 37 9)) (BitVec.ofNat 5 (fld w 32 5))
      (BitVec.ofNat 16 line)
    let srd : Instr := .srd k (BitVec.ofNat 5 st) (BitVec.ofNat 5 ch) (BitVec.ofNat 9 (fld w 37 9)) (BitVec.ofNat 5 (fld w 32 5))
      (BitVec.ofNat 16 line)
    let went (t : State) : Prop := (t.tile k).dmas.place = x.dmas.place + 1 ∧ (t.tile k).dmas.clk = x.dmas.clk + 1
    let ready (e slot : Nat) : Prop := x.soon.any (fun y => y.thing = slotThing slot && y.live s k e) = false
    let swait : Instr := .swait k (BitVec.ofNat 5 st) (BitVec.ofNat 5 ch) (BitVec.ofNat 3 (fld w 43 3)) (BitVec.ofNat 16 line)
    (nextSlot s k .dma = some w → slotOp .dma w = 1 →
      (chSt s k c = 0 → pgDma k ∉ s.disabled →
        ∃ t, exec (.dstart k (BitVec.ofNat 2 c)) s = .next t ∧ chSt t k c = 1 ∧ (t.tile k).drun = x.drun ++ [(c, 8)]
          ∧ went t ∧ (getF s (pgDma k) F.DMA_CH_PROG_SRAM c = 1 → issued k .dma 1 s t))
      ∧ (chSt s k c ≠ 0 → exec (.dstart k (BitVec.ofNat 2 c)) s = .next s))
    ∧ (nextSlot s k .dma = some w → slotOp .dma w = 2 → chSt s k c = 0 → pgDma k ∉ s.disabled →
        let slot := fld w 20 3
        let l := lcbWords s k slot
        ready 2 slot →
        lClass l = 2 → lNlev l = 0 → lKsplit l = false → fld (lw l 0) 8 6 = 0 →
        (dprog l k).2 % (if (dprog l k).1 then 32 else 64) = 0 →
        ∃ t, exec (.drun k (BitVec.ofNat 2 c) (BitVec.ofNat 3 slot)) s = .next t ∧ chSt t k c = 1
          ∧ (dch t k c).src = (dprog l k).2 ∧ (dch t k c).sram = (dprog l k).1 ∧ (t.tile k).drun = x.drun ++ [(c, slot)]
          ∧ went t ∧ ((dprog l k).1 = true → issued k .dma 1 s t))
    ∧ (nextSlot s k .srl = some w → slotOp .srl w = 3 →
        (srlBad s w = false → x.srlOut.length < 32 → earlyLines s k 3 = [] → intakeIsolated s st ch (0x1000 + k) = false →
          ((chState s st ch = 2 ∨ chState s st ch = 3) → chOwner s st ch = 0x1000 + k → (s.chan st ch).held = [] →
            8 ≤ slot0 → slot0 + n ≤ 16 → (s.unit u).run = none →
            ∃ t, exec swr s = .next t
              ∧ (t.tile k).srlBack = x.srlBack ++ [(forWrite + 2 ^ 20 * (x.srlSeq + 1), [], [])]
              ∧ (∀ j, j < n → readSlot (t.unit u) (slot0 + j) = (mread x.sram ((line + 2 * j) * 32) 64,
                  [x.pz ((line + 2 * j) * 32), x.pz ((line + 2 * j) * 32 + 32)]))
              ∧ keepsUnitsBut u s t ∧ (t.tile k).srlOut = x.srlOut ++ [x.srlSeq + 1] ∧ (t.tile k).srlSeq = x.srlSeq + 1
              ∧ issued k .srl (2 * n) s t)
          ∧ (chState s st ch = 0 → (srlPieces (fld w 37 9) n).length = 1 →
            ∃ t, exec swr s = .next t ∧ (t.tile k).srlOut = x.srlOut ++ [x.srlSeq + 1] ∧ (t.tile k).srlSeq = x.srlSeq + 1
              ∧ bitOf (t.reg (pgSrl s.member st ch + 0x20)) 0x11 = true ∧ issued k .srl (2 * n) s t))
        ∧ (srlBad s w = false → 32 ≤ x.srlOut.eraseDups.length → exec swr s = .next s)
        ∧ (srlBad s w = true → ∃ t, exec swr s = .next t ∧ bitOf (t.reg (pgSeq (k / 64) + 0x20)) 0x11 = true ∧ issued k .srl 1 s t))
    ∧ (nextSlot s k .srl = some w → slotOp .srl w = 4 → srlBad s w = false → x.srlOut.length < 32 →
        intakeIsolated s st ch (0x1000 + k) = false →
        (chState s st ch = 2 ∨ chState s st ch = 3) → chOwner s st ch = 0x1000 + k → (s.chan st ch).held = [] →
        slot0 + n ≤ 24 →
        ∃ t, exec srd s = .next t ∧ (t.tile k).srlOut = x.srlOut ++ [x.srlSeq + 1]
          ∧ (t.tile k).srlBack = x.srlBack ++ [(line + 2 ^ 20 * (x.srlSeq + 1),
              (List.range n).flatMap (fun j => (readSlot (s.unit u) (slot0 + j)).1),
              (List.range n).flatMap (fun j => (readSlot (s.unit u) (slot0 + j)).2))]
          ∧ (∀ j, t.unit j = s.unit j) ∧ issued k .srl 1 s t)
    ∧ (nextSlot s k .srl = some w → slotOp .srl w = 5 → st < s.member.stackCount → x.srlOut.length < 32 →
        ∃ t, exec swait s = .next t ∧ (t.tile k).srl.swait = some (st, ch, fld w 43 3, line)
          ∧ (t.tile k).srlOut = x.srlOut ++ [x.srlSeq + 1] ∧ (t.tile k).srl.place = x.srl.place)
    ∧ (∀ q, nextSlot s k .srl = some w → slotOp .srl w = 2 → ready 3 (fld w 48 3) →
        lClass (lcbWords s k (fld w 48 3)) = 3 → lNlev (lcbWords s k (fld w 48 3)) ≠ 7 → lKsplit (lcbWords s k (fld w 48 3)) = false →
        (lTotal (lcbWords s k (fld w 48 3)) = 0 →
          ∃ t, exec (.srun k (BitVec.ofNat 3 (fld w 48 3))) s = .next t ∧ (t.tile k).srun = none ∧ issued k .srl 1 s t)
        ∧ (lTotal (lcbWords s k (fld w 48 3)) = 1 → lStreams (lcbWords s k (fld w 48 3)) = [] → x.srlOut.length < 32 →
          x.srl.loops = [] →
          (srunLaunch s k (lcbWords s k (fld w 48 3)) (fun j => lValue (lcbWords s k (fld w 48 3)) k 0 j [])).1 = some q →
          ∃ t, exec (.srun k (BitVec.ofNat 3 (fld w 48 3))) s = .next t ∧ (t.tile k).srun = none
            ∧ (t.tile k).srlOut = x.srlOut ++ [x.srlSeq + 1]
            ∧ getF t (pgLcb k 0) F.LCB_ITER_SRL_LAUNCHES = 1 ∧ (t.tile k).srl.place = x.srl.place + 1))
    ∧ (∀ tag data marks rest, x.srlBack = (tag, data, marks) :: rest → x.srun = none →
        (tag % 2 ^ 20 < forPoll → tag % 2 ^ 20 * 32 + data.length ≤ sramBytes →
          ∃ t, exec (.srlAccessCompletion k) s = .next t ∧ (t.tile k).srlBack = rest
            ∧ (t.tile k).srlOut = x.srlOut.erase (tag / 2 ^ 20)
            ∧ mread (t.tile k).sram (tag % 2 ^ 20 * 32) data.length = data
            ∧ (∀ b, (b < tag % 2 ^ 20 * 32 ∨ tag % 2 ^ 20 * 32 + data.length ≤ b) → mget (t.tile k).sram b = mget x.sram b))
        ∧ (tag % 2 ^ 20 = forPoll → ∀ a b d mask, x.srl.swait = some (a, b, d, mask) → x.srl.swaitFrom < tag / 2 ^ 20 →
            let ended := Nat.lor (leNat (data.take 2)) (leNat ((data.drop 4).take 2))
            (Nat.land mask ended = mask → ∃ t, exec (.srlAccessCompletion k) s = .next t ∧ (t.tile k).srl.swait = none
              ∧ (t.tile k).srl.place = x.srl.place + 1 ∧ (t.tile k).sram = x.sram)
            ∧ (Nat.land mask ended ≠ mask → ∃ t, exec (.srlAccessCompletion k) s = .next t
              ∧ (t.tile k).srl.swait = x.srl.swait ∧ (t.tile k).srl.place = x.srl.place ∧ (t.tile k).srlBack = rest))
        ∧ (tag % 2 ^ 20 = forPoll → tag / 2 ^ 20 ≤ x.srl.swaitFrom →
          ∃ t, exec (.srlAccessCompletion k) s = .next t ∧ (t.tile k).srl.swait = x.srl.swait
            ∧ (t.tile k).srl.place = x.srl.place ∧ (t.tile k).srlBack = rest))

/-- DESC_CREATE, DESC_DESTROY, ALLOC and FREE (R284 to R289, R304, R305): a descriptor that passes its checks becomes valid, with a new
generation, and its allocation counts one reference; destroying it gives the reference up; a range becomes an allocation, and an
unreferenced one is freed. Each writes its slot's result, a failed check its code and nothing else; one that meets
others waiting waits behind them, BUSY reading 1; a writer that the slot does not belong to, or whose slot is busy, records the low byte
05. -/
def Obligations.DescriptorsAndAllocations : Prop :=
  ∀ (w : Writer) (slot h : Nat) (s : State), slot < 9 → h < 4096 → slotOfWriter w = slot →
    let d := stageWords s slot
    let res (t : State) (code : Nat) : Prop :=
      getF t pgDesc F.DESC_RESULT_CODE slot = code ∧ getF t pgDesc F.DESC_RESULT_DONE slot = 1
      ∧ getF t pgDesc F.DESC_RESULT_HANDLE slot = h
    let id := getF s pgAlloc F.ALLOC_REQ0_ID slot
    let base := getF s pgAlloc F.ALLOC_REQ1_BASE slot
    let size := getF s pgAlloc F.ALLOC_REQ2_SIZE slot
    let kind := getF s pgAlloc F.ALLOC_REQ0_KIND slot
    let tile := getF s pgAlloc F.ALLOC_REQ0_TILE slot
    let ares (t : State) (code : Nat) : Prop :=
      getF t pgAlloc F.ALLOC_ARESULT_CODE slot = code ∧ getF t pgAlloc F.ALLOC_ARESULT_DONE slot = 1
      ∧ getF t pgAlloc F.ALLOC_ARESULT_ID slot = id ∧ hasEvent t pgAlloc 0 = true
    let free : Prop := getF s pgDesc F.DESC_RESULT_BUSY slot = 0 ∧ s.descQ = []
    let queued (c : Instr) (op : Nat) : Prop := getF s pgDesc F.DESC_RESULT_BUSY slot = 0 → s.descQ ≠ [] →
      ∃ t, exec c s = .next t ∧ t.descQ = s.descQ ++ [(slot, op, h)] ∧ getF t pgDesc F.DESC_RESULT_BUSY slot = 1
        ∧ getF t pgDesc F.DESC_RESULT_DONE slot = 0 ∧ Only (Parts.regs ||| Parts.descQ) s t
    queued (.descCreate w slot h) 0 ∧ queued (.descDestroy w slot h) 1
    ∧ (getF s pgDesc F.DESC_RESULT_BUSY slot = 1 →
        exec (.descCreate w slot h) s = .next (recordErr s pgDesc 0x1105 (pgDesc + 0x100 + slot * 16))
        ∧ exec (.descDestroy w slot h) s = .next (recordErr s pgDesc 0x1105 (pgDesc + 0x100 + slot * 16)))
    ∧ (free → createCheck s h d = 0 →
      ∃ t, exec (.descCreate w slot h) s = .next t ∧ dValid (t.desc h) = true ∧ dPinned (t.desc h) = false
        ∧ dGen (t.desc h) = (dGen (s.desc h) + 1) % 65536 ∧ descW (t.desc h) 1 = descW d 1 ∧ descW (t.desc h) 2 = descW d 2
        ∧ dType (t.desc h) = dType d ∧ dRank (t.desc h) = dRank d
        ∧ (∀ j, j ≠ h → t.desc j = s.desc j)
        ∧ (dKind d ≠ 2 → (t.alloc (dAlloc d)).refs = (s.alloc (dAlloc d)).refs + 1)
        ∧ (∀ j, (dKind d = 2 ∨ j ≠ dAlloc d) → t.alloc j = s.alloc j)
        ∧ res t 0 ∧ hasEvent t pgDesc 0 = true)
    ∧ (∀ c, free → createCheck s h d = c → c ≠ 0 →
        ∃ t, exec (.descCreate w slot h) s = .next t ∧ res t c ∧ t.descs = s.descs ∧ t.allocs = s.allocs
          ∧ getF t pgDesc F.HDR_ERR_COUNT_REFUSALS = min (getF s pgDesc F.HDR_ERR_COUNT_REFUSALS + 1) (2 ^ 32 - 1))
    ∧ (free → dValid (s.desc h) = true → dPinned (s.desc h) = false →
        ∃ t, exec (.descDestroy w slot h) s = .next t ∧ dValid (t.desc h) = false ∧ dGen (t.desc h) = dGen (s.desc h)
          ∧ (∀ j, j ≠ h → t.desc j = s.desc j)
          ∧ (dKind (s.desc h) ≠ 2 → (t.alloc (dAlloc (s.desc h))).refs = (s.alloc (dAlloc (s.desc h))).refs - 1)
          ∧ res t 0 ∧ hasEvent t pgDesc 1 = true)
    ∧ (free → dValid (s.desc h) = false → ∃ t, exec (.descDestroy w slot h) s = .next t ∧ res t 0x1141 ∧ t.descs = s.descs)
    ∧ (free → dValid (s.desc h) = true → dPinned (s.desc h) = true →
        ∃ t, exec (.descDestroy w slot h) s = .next t ∧ res t 0x114E ∧ t.descs = s.descs)
    ∧ (∀ j, j < 9 → j ≠ slot →
        exec (.descCreate w j h) s = .next (recordErr s pgDesc 0x1105 (pgDesc + 0x100 + j * 16))
        ∧ exec (.descDestroy w j h) s = .next (recordErr s pgDesc 0x1105 (pgDesc + 0x100 + j * 16))
        ∧ (getF s pgAlloc F.ALLOC_REQ0_OP j = 0 →
            exec (.alloc w j) s = .next (recordErr s pgAlloc 0x1205 (pgAlloc + 0x118 + j * 32)))
        ∧ (getF s pgAlloc F.ALLOC_REQ0_OP j = 1 →
            exec (.free w j) s = .next (recordErr s pgAlloc 0x1205 (pgAlloc + 0x118 + j * 32))))
    ∧ (s.allocQ = [] → getF s pgAlloc F.ALLOC_REQ0_OP slot = 0 →
        ((s.alloc id).valid = false → rangeBad s kind tile base size = false → overlaps s kind tile base size = false →
          ∃ t, exec (.alloc w slot) s = .next t ∧ (t.alloc id).valid = true ∧ (t.alloc id).base = base ∧ (t.alloc id).size = size
            ∧ (t.alloc id).kind = kind ∧ (t.alloc id).refs = 0 ∧ (∀ j, j ≠ id → t.alloc j = s.alloc j) ∧ ares t 0)
        ∧ ((s.alloc id).valid = true → ∃ t, exec (.alloc w slot) s = .next t ∧ ares t 0x1240 ∧ t.allocs = s.allocs)
        ∧ ((s.alloc id).valid = false → rangeBad s kind tile base size = true →
          ∃ t, exec (.alloc w slot) s = .next t ∧ ares t 0x1242 ∧ t.allocs = s.allocs)
        ∧ ((s.alloc id).valid = false → rangeBad s kind tile base size = false → overlaps s kind tile base size = true →
          ∃ t, exec (.alloc w slot) s = .next t ∧ ares t 0x1243 ∧ t.allocs = s.allocs))
    ∧ (∀ c, s.allocQ ≠ [] → ((getF s pgAlloc F.ALLOC_REQ0_OP slot = 0 ∧ c = Instr.alloc w slot)
          ∨ (getF s pgAlloc F.ALLOC_REQ0_OP slot = 1 ∧ c = Instr.free w slot)) →
        ∃ t, exec c s = .next t ∧ t.allocQ = s.allocQ ++ [slot] ∧ getF t pgAlloc F.ALLOC_ARESULT_BUSY slot = 1
          ∧ Only (Parts.regs ||| Parts.allocQ) s t)
    ∧ (s.allocQ = [] → getF s pgAlloc F.ALLOC_REQ0_OP slot = 1 →
        ((s.alloc id).valid = true → (s.alloc id).refs = 0 →
          ∃ t, exec (.free w slot) s = .next t ∧ (t.alloc id).valid = false ∧ (∀ j, j ≠ id → t.alloc j = s.alloc j) ∧ ares t 0)
        ∧ ((s.alloc id).valid = true → (s.alloc id).refs ≠ 0 →
          ∃ t, exec (.free w slot) s = .next t ∧ ares t 0x1244 ∧ t.allocs = s.allocs)
        ∧ ((s.alloc id).valid = false → ∃ t, exec (.free w slot) s = .next t ∧ ares t 0x1241 ∧ t.allocs = s.allocs))

/-- PUBLISH, PUBLISH_DONE, UNPUBLISH and SVC_MODE_WRITE (R294, R296 to R298): an EMPTY table with a good header is PUBLISHING, takes
its staged entries from memory and asks its peers, and where memory cannot serve the fetch now it waits for it; one whose checks all
pass is PUBLISHED, its local descriptors pinned; a failed check returns it to EMPTY with the code; an unpublished table is
UNPUBLISHING; the service mode takes the bit written, unless a table is being published. What UNPUBLISH does to a table that is not
PUBLISHED is the model's choice (log 34). -/
def Obligations.OwnerTables : Prop :=
  ∀ (w : Writer) (n : Nat) (v : W64) (s : State), n < 32 → leadWriter w = true → getF s pgOwn F.OWN_SEL_TABLE = n →
    let x := s.otab n
    let secs := sectorsOf x.src.toNat (8 * x.count)
    let entries := leWords (mread s.mem x.src.toNat (8 * x.count))
    (x.state = 0 → headerOk s x = true → (∀ f ∈ s.fetches, f.user ≠ 1 + n) →
        (∀ k ∈ secs, soundSec s k = true ∧ fetchClear s 0x3000 k = true ∧ tget [] s.flips k = [] ∧ s.poison.contains k = false) →
        (∀ e ∈ entries, ePresent e = true → ePart e = partNo s → fitsEntry x (s.desc (eHandle e)) = true) →
      ∃ t, exec (.publish w n) s = .next t ∧ (t.otab n).state = 1 ∧ (t.otab n).entries = entries ∧ (t.otab n).code = 0 ∧ (t.otab n).endCode = 0
        ∧ t.egress.length = s.egress.length + (entries.filter (fun e => ePresent e && ePart e ≠ partNo s)).length
        ∧ (∀ j, j ≠ n → t.otab j = s.otab j) ∧ (t.otab n).fetching = false
        ∧ Only (Parts.otabs ||| Parts.egress ||| Parts.poison ||| Parts.flips ||| Parts.fetches ||| Parts.nextFetch) s t)
    ∧ (∀ k ∈ secs, x.state = 0 → headerOk s x = true → (∀ f ∈ s.fetches, f.user ≠ 1 + n) → soundSec s k = true →
        fetchClear s 0x3000 k = false →
        ∃ t, exec (.publish w n) s = .next t ∧ (t.otab n).state = 1 ∧ (t.otab n).fetching = true ∧ (t.otab n).entries = [])
    ∧ (x.state = 0 → headerOk s x = false →
        ∃ t, exec (.publish w n) s = .next t ∧ (t.otab n).state = 1 ∧ (t.otab n).endCode = 0x1A41 ∧ Only Parts.otabs s t)
    ∧ (x.state ≠ 0 → ∃ t, exec (.publish w n) s = .next t ∧ (t.otab n).state = x.state ∧ (t.otab n).code = 0x1A40
        ∧ (t.otab n).entries = x.entries)
    ∧ (x.state = 1 → x.fetching = false → x.endCode ≠ 0 →
        ∃ t, exec (.publishDone n false) s = .next t ∧ (t.otab n).state = 0 ∧ (t.otab n).code = x.endCode ∧ (t.otab n).failed = x.endAt
          ∧ hasEvent t pgOwn 1 = true ∧ t.descs = s.descs)
    ∧ (x.state = 1 → x.fetching = false → x.endCode = 0 → x.waiting = [] →
        (∀ e ∈ localEntries s x, fitsEntry x (s.desc (eHandle e.2)) = true) → remoteEntries s x = [] →
        (∀ e ∈ localEntries s x, ∀ g ∈ localEntries s x, sameShape (s.desc (eHandle e.2)) (s.desc (eHandle g.2)) = true) →
        haloClash s n = none →
        ∃ t, exec (.publishDone n false) s = .next t ∧ (t.otab n).state = 2 ∧ (t.otab n).code = 0 ∧ hasEvent t pgOwn 0 = true
          ∧ (∀ e ∈ localEntries s x, dPinned (t.desc (eHandle e.2)) = true)
          ∧ getF t pgOwn F.OWN_STAT_PUBLISHED = min (getF s pgOwn F.OWN_STAT_PUBLISHED + 1) (2 ^ 32 - 1))
    ∧ (∀ i l, x.state = 1 → x.fetching = false → x.endCode = 0 → x.waiting = i :: l →
        exec (.publishDone n false) s = .next s
        ∧ ∃ t, exec (.publishDone n true) s = .next t ∧ (t.otab n).state = 0 ∧ (t.otab n).code = 0x1A47
          ∧ (t.otab n).failed = i ∧ hasEvent t pgOwn 1 = true)
    ∧ (x.state = 2 → remoteNamers s n = 0 →
        ∃ t, exec (.unpublish w n) s = .next t ∧ (t.otab n).state = 3 ∧ (t.otab n).entries = []
          ∧ (∀ j, j ≠ n → t.otab j = s.otab j))
    ∧ (x.state = 2 → remoteNamers s n ≠ 0 →
        ∃ t, exec (.unpublish w n) s = .next t ∧ (t.otab n).state = 2 ∧ (t.otab n).code = 0x1A43)
    ∧ ((x.state = 1 ∨ x.state = 3) → exec (.unpublish w n) s = .next (recordErr s pgOwn 0x1A05 (pgOwn + 0x138)))
    ∧ (x.state = 0 → exec (.unpublish w n) s = .next s)
    ∧ ((bitOf v 0 = false ∨ ∀ j, j < 32 → (s.otab j).state ≠ 1) →
        ∃ t, exec (.svcModeWrite w v) s = .next t ∧ svcGlobal t = bitOf v 0 ∧ onlyRegs [pgOwn + 0x80] s t)
    ∧ (bitOf v 0 = true → x.state = 1 → exec (.svcModeWrite w v) s = .next (recordErr s pgOwn 0x1A05 (pgOwn + 0x80)))

/-- SEQ_START, SEQ_STOP, SEQ_DRAINED, LONG_WORD_FETCH, LONG_WORD_DELIVERY and ALIGN_RELEASE (R325, R326, R328, R331, R339, R354, R356):
a start is allowed only where every engine served is empty, and fetches from the entry address; a long word fetched is counted and
goes to the FIFO of each die served, or waits for its CTL operation; an uncorrectable one bites and is not taken (R351); at the cut the fetch ends; a long word delivered leaves the FIFO
and its entries reach every tile of the die; when all is drained PHASE reads END, or CUT. -/
def Obligations.SequencerRuns : Prop :=
  ∀ (w : Writer) (d : Nat) (v : W64) (s : State), hasDie s d = true →
    let q := pgSeq d
    let x := s.seq d
    (bitOf v 0 = true → startAllowed s d = true →
      ∃ t, exec (.seqStart w d v) s = .next t ∧ phase t d = 1 ∧ seqPc t d = getF s q F.SEQ_ENTRY_ADDR ∧ inLib t d = false
        ∧ getF t q F.SEQ_WORDS_COUNT = 0 ∧ hasEvent t q 0 = true ∧ (t.seq d).calls = [] ∧ (t.seq d).cur = none ∧ keepsSeqsBut d s t)
    ∧ (bitOf v 0 = true → startAllowed s d = false → exec (.seqStart w d v) s = .next (seqErr s d 0x0205 (q + 0x80) 0 0))
    ∧ (bitOf v 1 = true → 1 ≤ phase s d → phase s d ≤ 3 →
        ∃ t, exec (.seqStop w d v) s = .next t ∧ phase t d = 4 ∧ (t.seq d).cur = none ∧ (t.seq d).fifo = x.fifo ∧ keepsSeqsBut d s t)
    ∧ (phase s d = 4 → halted s = false → allDrained s d = true →
        (x.cutting = false → ∃ t, exec (.seqDrained d) s = .next t ∧ phase t d = 6 ∧ hasEvent t q 1 = true)
        ∧ (x.cutting = true → ∃ t, exec (.seqDrained d) s = .next t ∧ phase t d = 5 ∧ hasEvent t q 3 = true))
    ∧ (phase s d = 1 → x.cur = none → fetchHeld s d = false → halted s = false → servedDies s d ≠ [] →
        (∀ e ∈ servedDies s d, (s.seq e).fifo.length < 16) →
        ∀ ce, (atCut s d = true → ∃ t, exec (.longWordFetch d ce false) s = .next t ∧ phase t d = 4 ∧ (t.seq d).cutting = true
          ∧ getF t q F.SEQ_CUT_HIT = 1 ∧ hasEvent t q 2 = true)
        ∧ (∀ lw n, atCut s d = false → inLib s d = false →
          decodeWord (fun i => mget s.imem (2 ^ 20 * d + bankOf s d * 2 ^ 19 + i)) (seqPc s d * 2) = (lw, n) →
          (seqPc s d * 2 + n ≤ 2 ^ 19 →
            (∃ t, exec (.longWordFetch d ce false) s = .next t ∧ phase t d = 1
              ∧ seqPc t d = seqPc s d + n / 2
              ∧ getF t q F.SEQ_WORDS_COUNT = min (getF s q F.SEQ_WORDS_COUNT + 1) (2 ^ F.SEQ_WORDS_COUNT.wid - 1)
              ∧ (lw.ctl ≠ none → (t.seq d).cur = some lw ∧ ∀ e, (t.seq e).fifo = (s.seq e).fifo)
              ∧ (lw.ctl = none → (t.seq d).cur = none ∧ ∀ e ∈ servedDies s d, (t.seq e).fifo = (s.seq e).fifo ++ [lw])
              ∧ getF t (pgImem d) F.IMEM_ECC_CORRECTED
                  = min (getF s (pgImem d) F.IMEM_ECC_CORRECTED + ce) (2 ^ F.IMEM_ECC_CORRECTED.wid - 1))
            ∧ ∃ t, exec (.longWordFetch d ce true) s = .next t ∧ seqPc t d = seqPc s d ∧ (t.seq d).cur = none
              ∧ (∀ e, (t.seq e).fifo = (s.seq e).fifo)
              ∧ bitOf (t.reg (q + 0x20)) 0x15 = true ∧ bitOf (t.reg (pgImem d + 0x20)) 0x11 = true
              ∧ t.causes = s.causes ++ [⟨1, d, 0x02, 0, 0x0215, 0⟩])
          ∧ (2 ^ 19 < seqPc s d * 2 + n →
            ∃ t, exec (.longWordFetch d ce false) s = .next t ∧ phase t d = 4 ∧ bitOf (t.reg (q + 0x20)) 0x14 = true)))
    ∧ (∀ lw rest, x.fifo = lw :: rest → halted s = false → tilesHaveRoom s d lw = true →
        ∃ t, exec (.longWordDelivery d) s = .next t ∧ (t.seq d).fifo = rest
          ∧ (∀ k e, k / 64 = d → (engOf t k e).given = (engOf s k e).given + (entriesOf lw e).length)
          ∧ (∀ k, k / 64 ≠ d → t.tile k = s.tile k))
    ∧ (∀ lw rest, x.fifo = lw :: rest → tilesHaveRoom s d lw = false → exec (.longWordDelivery d) s = .next s)
    ∧ (∀ k, hasTile s k = true → tileRuns s k = true →
        (alignReady s k = true → ∃ t, exec (.alignRelease k) s = .next t
          ∧ (∀ e, (engOf t k e).place = (engOf s k e).place + 1) ∧ keepsTilesBut k s t)
        ∧ (alignReady s k = false → exec (.alignRelease k) s = .next s))

/-- The CTL operations CNOP, ALIGN, TOKW, TOKS, CALL, RET, ECALL, MARK, SWITCH and END, with TOKW_RELEASE and TOKS_ADD (R327, R330,
R331, R339, R346 to R349, R353, R354): what each does to its sequencer, and that its word's slots go to the dies served; an
unassigned operation, which TOKW, TOKS, CALL and RET are on dies 1 to 7, acts as CNOP and records 0x0210; a CALL without a routine, a
RET without a call or a SWITCH in the library ends the fetch with 0x0213.
TOKW_RELEASE and TOKS_ADD (R346, R347): a hold ends once the counter has reached its value, and its word's slots go on; the oldest
add lands when every tile has drained what it was given before. -/
def Obligations.ControlOperationsAndTokens : Prop :=
  (∀ (w : LongWord) (c : Word) (d : Nat) (s : State), hasDie s d = true → phase s d = 1 → halted s = false →
    (s.seq d).cur = some w → w.ctl = some c →
    let x := s.seq d
    let imm := c.toNat
    let given (t : State) (y : LongWord) : Prop := ∀ e ∈ servedDies s d, (t.seq e).fifo = (s.seq e).fifo ++ [y]
    let bare : LongWord := { w with ctl := none }
    let err (t : State) (n : Nat) : Prop := bitOf (t.reg (pgSeq d + 0x20)) n = true
    (ctlOp c = 0 → ∃ t, exec (.cnop d) s = .next t ∧ (t.seq d).cur = none ∧ given t bare ∧ phase t d = 1 ∧ Only Parts.seqs s t)
    ∧ ((9 < ctlOp c ∨ (d ≠ 0 ∧ 2 ≤ ctlOp c ∧ ctlOp c ≤ 5)) →
        ∃ t, exec (.cnop d) s = .next t ∧ (t.seq d).cur = none ∧ given t bare ∧ err t 0x10)
    ∧ (ctlOp c = 1 → ∃ t, exec (.align d (BitVec.ofNat 7 imm)) s = .next t ∧ (t.seq d).cur = none ∧ given t w ∧ Only Parts.seqs s t)
    ∧ (ctlOp c = 2 → d = 0 →
        ∃ t, exec (.tokw d (BitVec.ofNat 12 (imm / 4096)) (BitVec.ofNat 12 imm)) s = .next t ∧ phase t d = 2
          ∧ (t.seq d).tokw = some (imm / 4096 % 4096, imm % 4096) ∧ (t.seq d).cur = some w ∧ (t.seq d).fifo = x.fifo)
    ∧ (ctlOp c = 3 → d = 0 →
        ∃ t, exec (.toks d (BitVec.ofNat 12 (imm / 4096)) (BitVec.ofNat 12 imm)) s = .next t
          ∧ (t.seq d).toks = x.toks ++ [(imm / 4096 % 4096, imm % 4096, givenBefore s)] ∧ (t.seq d).cur = none ∧ given t bare)
    ∧ (ctlOp c = 4 → d = 0 →
        (getF s pgLib F.LIB_ENTRY_VALID (imm % 256) = 1 → x.calls.length < 4 →
          ∃ t, exec (.call d (BitVec.ofNat 8 imm)) s = .next t ∧ (t.seq d).calls = (seqPc s d, inLib s d) :: x.calls
            ∧ seqPc t d = getF s pgLib F.LIB_ENTRY_OFFSET (imm % 256) % 2 ^ F.SEQ_STAT_PC.wid ∧ inLib t d = true ∧ phase t d = 1
            ∧ given t bare)
        ∧ ((getF s pgLib F.LIB_ENTRY_VALID (imm % 256) = 0 ∨ 4 ≤ x.calls.length) →
          ∃ t, exec (.call d (BitVec.ofNat 8 imm)) s = .next t ∧ phase t d = 4 ∧ err t 0x13 ∧ given t bare))
    ∧ (ctlOp c = 5 → d = 0 →
        (∀ pc lib l, x.calls = (pc, lib) :: l →
          ∃ t, exec (.ret d) s = .next t ∧ (t.seq d).calls = l ∧ (pc ≤ 2 ^ 18 → seqPc t d = pc) ∧ inLib t d = lib
            ∧ phase t d = 1 ∧ given t bare)
        ∧ (x.calls = [] → ∃ t, exec (.ret d) s = .next t ∧ phase t d = 4 ∧ err t 0x13 ∧ given t bare))
    ∧ (ctlOp c = 6 →
        (1 ≤ imm / 65536 % 256 → imm / 65536 % 256 ≤ 3 →
          ∃ t, exec (.ecall d (BitVec.ofNat 8 (imm / 65536)) (BitVec.ofNat 16 imm)) s = .next t ∧ (t.seq d).cur = none ∧ given t w
            ∧ getF t pgLib F.LIB_CALLS_ECALL = min (getF s pgLib F.LIB_CALLS_ECALL + 1) (2 ^ F.LIB_CALLS_ECALL.wid - 1))
        ∧ ((imm / 65536 % 256 = 0 ∨ 3 < imm / 65536 % 256) →
          ∃ t, exec (.ecall d (BitVec.ofNat 8 (imm / 65536)) (BitVec.ofNat 16 imm)) s = .next t ∧ err t 0x16 ∧ given t bare))
    ∧ (ctlOp c = 7 →
        ∃ t, exec (.mark d (BitVec.ofNat 16 imm)) s = .next t ∧ (t.seq d).cur = none ∧ given t bare ∧ phase t d = 1
          ∧ (t.seq d).sawMark = (x.sawMark || decide (getF s (pgSeq d) F.SEQ_CUT_MODE = 2
              ∧ getF s (pgSeq d) F.SEQ_CUT_MARKER = imm % 65536)))
    ∧ (ctlOp c = 8 → inLib s d = false →
        (otherBankFree s d = true →
          ∃ t, exec (.switch d (BitVec.ofNat 18 imm)) s = .next t ∧ phase t d = 1 ∧ bankOf t d = 1 - bankOf s d
            ∧ seqPc t d = imm % 2 ^ 18 ∧ hasEvent t (pgImem d) 2 = true ∧ given t bare)
        ∧ (otherBankFree s d = false →
          ∃ t, exec (.switch d (BitVec.ofNat 18 imm)) s = .next t ∧ phase t d = 3 ∧ bankOf t d = bankOf s d
            ∧ (t.seq d).switchTo = some (imm % 2 ^ 18) ∧ given t bare))
    ∧ (ctlOp c = 8 → inLib s d = true →
        ∃ t, exec (.switch d (BitVec.ofNat 18 imm)) s = .next t ∧ phase t d = 4 ∧ bankOf t d = bankOf s d ∧ err t 0x13 ∧ given t bare)
    ∧ (ctlOp c = 9 → ∃ t, exec (.seqEnd d) s = .next t ∧ phase t d = 4 ∧ (t.seq d).cur = none ∧ given t bare))
  ∧ (∀ (w : LongWord) (c k d : Nat) (need : List Nat) (l : List (Nat × Nat × List Nat)) (s : State), hasDie s d = true → halted s = false →
    ((s.seq d).tokw = some (c, k) → (s.seq d).cur = some w →
      (k ≤ syncVal s c → ∃ t, exec (.tokwRelease d) s = .next t ∧ (t.seq d).tokw = none ∧ (t.seq d).cur = none ∧ phase t d = 1
        ∧ (∀ e ∈ servedDies s d, (t.seq e).fifo = (s.seq e).fifo ++ [{ w with ctl := none }]))
      ∧ (syncVal s c < k → exec (.tokwRelease d) s = .next s))
    ∧ ((s.seq d).toks = (c, k, need) :: l →
      ((∀ j, j < s.member.tiles → tileDrained s need j = true) →
        ∃ t, exec (.toksAdd d) s = .next t ∧ (t.seq d).toks = l ∧ syncVal t c = (syncVal s c + k) % 2 ^ 32
          ∧ (∀ j, j ≠ c → syncVal t j = syncVal s j) ∧ Only (Parts.regs ||| Parts.seqs ||| Parts.sync) s t)
      ∧ (∀ j, j < s.member.tiles → tileDrained s need j = false → exec (.toksAdd d) s = .next s)))

/-- IMEM_LOAD, LOAD_DONE and BANK_ACTIVE_WRITE (R351 to R353): a load with a good source and place reads BUSY and fetches its source,
at once where memory can serve it; its end waits for the fetch and leaves the fetched bytes in the bank at the offset and nowhere else,
with their CRC-32, or takes nothing where poison bites; refused loads read their code; the active bank changes only in IDLE or END, and
0x1605 says otherwise. -/
def Obligations.InstructionMemoryLoads : Prop :=
  ∀ (w : Writer) (d : Nat) (v : W64) (s : State), hasDie s d = true →
    let p := pgImem d
    let src := getF s p F.IMEM_LOADSRC_PA
    let off := getF s p F.IMEM_LOADDST_OFFSET
    let len := getF s p F.IMEM_LOADDST_LEN
    let bank := getF s p F.IMEM_LOADDST_BANK
    let good : Prop := src % 64 = 0 ∧ off % 64 = 0 ∧ len % 64 = 0 ∧ len ≠ 0 ∧ off + len ≤ 2 ^ 19
      ∧ ∀ i, i < len / 64 → backed s.member (src + i * 64) = true ∧ inHole s (src + i * 64) = false
    (bitOf v 0 = true → (bank ≠ bankOf s d ∨ seqIdle s d = true) →
      (good → (s.seq d).load = none →
        ∃ t, exec (.imemLoad w d v) s = .next t ∧ (t.seq d).load = some (src, bank, off, len)
          ∧ ((∀ k ∈ sectorsOf src len, fetchClear s (0x3000 + d) k = true ∧ tget [] s.flips k = [] ∧ k ∉ s.poison) →
            (∀ f ∈ s.fetches, f.user ≠ 64 + d) →
            getF t p F.IMEM_LOADSTAT_BUSY = 1 ∧ getF t p F.IMEM_LOADSTAT_DONE = 0 ∧ keepsSeqsBut d s t
            ∧ t.fetches = s.fetches ++ [⟨64 + d, src, len, s.nextFetch, 0, [(src, mread s.mem src len, [false])]⟩]
            ∧ Only (Parts.regs ||| Parts.seqs ||| Parts.fetches ||| Parts.nextFetch) s t))
      ∧ (good → (s.seq d).load ≠ none →
        ∃ t, exec (.imemLoad w d v) s = .next t ∧ getF t p F.IMEM_LOADSTAT_CODE = 0x1642 ∧ hasEvent t p 1 = true ∧ t.seqs = s.seqs)
      ∧ (src % 64 ≠ 0 →
        ∃ t, exec (.imemLoad w d v) s = .next t ∧ getF t p F.IMEM_LOADSTAT_CODE = 0x1641 ∧ hasEvent t p 1 = true ∧ t.seqs = s.seqs))
    ∧ (bitOf v 0 = true → bank = bankOf s d → seqIdle s d = false →
        ∃ t, exec (.imemLoad w d v) s = .next t ∧ getF t p F.IMEM_LOADSTAT_CODE = 0x1640 ∧ t.seqs = s.seqs)
    ∧ (∀ a b o n f, (s.seq d).load = some (a, b, o, n) →
        s.fetches.find? (fun f => f.user = 64 + d && f.pa = a && f.n = n) = some f →
        (f.left ≠ 0 → exec (.loadDone d) s = .next s)
        ∧ (∀ data marks, f.left = 0 → a % 64 = 0 → f.got = [(a, data, marks)] → data.length = n →
          (marks.any id = false → ∃ t, exec (.loadDone d) s = .next t
            ∧ mread t.imem (2 ^ 20 * d + 2 ^ 19 * b + o) n = data
            ∧ (∀ j, (j < 2 ^ 20 * d + 2 ^ 19 * b + o ∨ 2 ^ 20 * d + 2 ^ 19 * b + o + n ≤ j) → mget t.imem j = mget s.imem j)
            ∧ getF t p F.IMEM_LOADSTAT_DONE = 1 ∧ getF t p F.IMEM_LOADSTAT_BUSY = 0 ∧ hasEvent t p 0 = true
            ∧ getF t p F.IMEM_LOADSTAT_CRC = crc32 data % 2 ^ 32 ∧ (t.seq d).load = none ∧ t.mem = s.mem)
          ∧ (marks.any id = true → ∃ t, exec (.loadDone d) s = .next t ∧ t.imem = s.imem
            ∧ bitOf (t.reg (p + 0x20)) 0x10 = true ∧ t.causes = s.causes ++ [⟨1, d, 0x16, 0, 0x1610, 0⟩])))
    ∧ (seqIdle s d = true → ∃ t, exec (.bankActiveWrite w d v) s = .next t ∧ bankOf t d = b2n (bitOf v 0)
        ∧ keepsRegs [p + 0x80, pgSeq d + 0x98] s t ∧ Only Parts.regs s t)
    ∧ (seqIdle s d = false → exec (.bankActiveWrite w d v) s = .next (recordErr s p 0x1605 (p + 0x80)))

/-- ARBITRATION_PHASE and TRANSFER_END (R384 to R387): a phase grants one of the requesters it samples that is present and not
isolated: one at the pass limit first, else one of the highest priority; it takes the grant at once where none is held, and else
waits for the end of the running transfer, to which the grant then passes; a second phase in the same transfer grants nothing.
FABRIC_PACKET (R394 to R396): over an edge that is up and on its route, a good packet counts its bytes at both ends, ends the run of
retries and comes in with its payload; a bad one waits at the sender and is sent again, up to seven times in a row, and the eighth
records 0x0C10 and asserts a fault; a packet that cannot come over the edge changes nothing. -/
def Obligations.ArbitersAndFabric : Prop :=
  (∀ (d i : Nat) (s : State), hasArb s d i = true →
    let g := pgArb d i
    let a := s.arb d i
    let granted (t : State) : Prop :=
      getF t g F.ARB_COUNT_GRANTS = min (getF s g F.ARB_COUNT_GRANTS + 1) (2 ^ 32 - 1) ∧ Only (Parts.regs ||| Parts.arbs) s t
    (∀ x requests, x < arbReqs s.member i → arbPresent s.member d i x = true → x ∈ requests → isolated s d i x = false → a.next = none →
      (holder s d i = none → a.limit = [] → (∀ r, tget 0 a.pass r < passMax s d i) →
        ∃ t r, exec (.arbitrationPhase d i requests) s = .next t ∧ holder t d i = some r ∧ r ∈ requests ∧ arbPresent s.member d i r = true ∧ isolated s d i r = false
          ∧ (∀ y ∈ requests, y < arbReqs s.member i → arbPresent s.member d i y = true → isolated s d i y = false → arbPrio s d i y ≤ arbPrio s d i r) ∧ granted t)
      ∧ (∀ l, holder s d i = none → a.limit = x :: l → passMax s d i ≤ tget 0 a.pass x →
        ∃ t, exec (.arbitrationPhase d i requests) s = .next t ∧ holder t d i = some x ∧ tget 0 (t.arb d i).pass x = 0 ∧ granted t)
      ∧ (∀ h, holder s d i = some h →
        ∃ t r, exec (.arbitrationPhase d i requests) s = .next t ∧ holder t d i = some h ∧ (t.arb d i).next = some r ∧ r ∈ requests
          ∧ arbPresent s.member d i r = true ∧ isolated s d i r = false ∧ granted t))
    ∧ (∀ requests, a.next ≠ none → exec (.arbitrationPhase d i requests) s = .next s)
    ∧ (∀ h r, holder s d i = some h → a.next = some r → r < 20 →
      ∃ t, exec (.transferEnd d i) s = .next t ∧ holder t d i = some r ∧ t.arb d i = { a with next := none }
        ∧ Only (Parts.regs ||| Parts.arbs) s t)
    ∧ (∀ h, holder s d i = some h → a.next = none →
      ∃ t, exec (.transferEnd d i) s = .next t ∧ holder t d i = none ∧ onlyRegs [g + 0x88] s t)
    ∧ (holder s d i = none → exec (.transferEnd d i) s = .next s))
  ∧ (∀ (d e p : Nat) (q : FabPkt) (s : State), hasDie s d = true → s.member.edgePeer d e = some p →
    let rx := pgFab d e
    let tx := pgFab p (farEdge e)
    let x := tget {} s.edges (d * 4 + e)
    let n := x.fails + 1
    let comes := fabComes s p (farEdge e) x.held q
    (getF s rx F.FAB_EDGE_STATE = 2 → comes = true →
      (∃ t, exec (.fabricPacket d e true q.dest q.toFabLoad) s = .next t
        ∧ getF t rx F.FAB_BYTES_IN = min (getF s rx F.FAB_BYTES_IN + q.payload.length) (2 ^ 64 - 1)
        ∧ getF t tx F.FAB_BYTES_OUT = min (getF s tx F.FAB_BYTES_OUT + q.payload.length) (2 ^ 64 - 1)
        ∧ tget {} t.edges (d * 4 + e) = {} ∧ keepsRegs [rx + 0x90, tx + 0x88] s t ∧ t.out = s.out ++ [.fabric d q]
        ∧ Only (Parts.regs ||| Parts.edges ||| Parts.ledger ||| Parts.out) s t)
      ∧ (n < 8 → ∃ t, exec (.fabricPacket d e false q.dest q.toFabLoad) s = .next t
          ∧ getF t tx F.FAB_RETRY_RETRIES = min (getF s tx F.FAB_RETRY_RETRIES + 1) (2 ^ 32 - 1) ∧ hasEvent t tx 0 = true
          ∧ tget {} t.edges (d * 4 + e) = ⟨n, some q⟩ ∧ t.out = s.out ++ [.fabricResend d e] ∧ t.causes = s.causes)
      ∧ (n = 8 → ∃ t, exec (.fabricPacket d e false q.dest q.toFabLoad) s = .next t ∧ bitOf (t.reg (tx + 0x20)) 0x10 = true
          ∧ hasEvent t tx 1 = true ∧ t.out = s.out ∧ t.causes = s.causes ++ [⟨7, p, 0x0C, farEdge e, 0x0C10, q.dest⟩]))
    ∧ ((getF s rx F.FAB_EDGE_STATE ≠ 2 ∨ comes = false) → ∀ ok, exec (.fabricPacket d e ok q.dest q.toFabLoad) s = .next s)
    ∧ (comes = true → s.member.routeEdge p q.dest = some (farEdge e) ∧ 64 ≤ q.payload.length ∧ q.payload.length ≤ 4096
        ∧ (∀ h, x.held = some h → h = q)))

/-- ARB_PRIO_WRITE, CUTOFF, OFFENCE_EXPIRY and ISOL_CLEAR (R388, R389, R391, R392): a priority register takes the value written, except
at a merge point of the Windrow, where it is read-only; a waiter that outranks the holder preempts it, which is counted; a holder cut
off at HOLD_MAX commits an offence, and the third in the window isolates it, a fault cause at a critical arbiter; an offence leaves
the window; a requester cleared in ISOL is no longer isolated and has no offences, and
what waited at a channel's intake goes on. -/
def Obligations.ArbitersPoliceHolders : Prop :=
  ∀ (w : Writer) (d i half h r : Nat) (v : W64) (s : State), hasArb s d i = true → half < 2 → r < arbReqs s.member i →
    let g := pgArb d i
    let k := g + 0x100 + half * 8
    let keep : W64 := if half = 0 then 0x7777777777777777 else 0x7777
    let u := s.setReg k (v &&& keep)
    let cut := tget [] (s.arb d i).offences h
    (arbKind i ≠ 4 → s.running = none → holder s d i = none →
      ∃ t, exec (.arbPrioWrite w d i half v) s = .next t ∧ t.reg k = v &&& keep ∧ onlyRegs [k] s t)
    ∧ (arbKind i = 4 → exec (.arbPrioWrite w d i half v) s = .next (recordErr s g 0x0B03 k))
    ∧ (arbKind i ≠ 4 → holder s d i = some h → bit (getF s g F.ARB_HOLD_WAITING) r = true → isolated s d i r = false →
        arbPrio u d i h < arbPrio u d i r →
      ∃ t, exec (.arbPrioWrite w d i half v) s = .next t ∧ t.reg k = v &&& keep ∧ hasEvent t g 0 = true
        ∧ getF t g F.ARB_COUNT_PREEMPTS = min (getF s g F.ARB_COUNT_PREEMPTS + 1) (2 ^ 32 - 1))
    ∧ (holder s d i = none → exec (.cutoff d i) s = .next s)
    ∧ (holder s d i = some h → h < 20 →
      ∃ t, exec (.cutoff d i) s = .next t ∧ bitOf (t.reg (g + 0x20)) 0x10 = true ∧ hasEvent t g 1 = true
        ∧ getF t g F.ARB_HOLDSTAT_CUTOFFS = min (getF s g F.ARB_HOLDSTAT_CUTOFFS + 1) (2 ^ 32 - 1)
        ∧ tget [] (t.arb d i).offences h = cut ++ [s.us]
        ∧ (cut.length < 2 → getF t g F.ARB_ISOL = getF s g F.ARB_ISOL ∧ t.causes = s.causes)
        ∧ (2 ≤ cut.length → isolated s d i h = false →
            isolated t d i h = true ∧ hasEvent t g 2 = true ∧ bitOf (t.reg (g + 0x20)) 0x11 = true
            ∧ t.causes = s.causes ++ (if getF s g F.ARB_CFG_CRITICAL = 1 then [⟨3, d, 0x0B, i, 0x0B11, h + 256⟩] else [])))
    ∧ (∃ t, exec (.offenceExpiry d i r) s = .next t
        ∧ tget [] (t.arb d i).offences r = (tget [] (s.arb d i).offences r).drop 1
        ∧ fld (t.reg (g + 0xB0)) (2 * r) 2 = min 3 ((tget [] (s.arb d i).offences r).length - 1)
        ∧ keepsRegs [g + 0xB0] s t ∧ Only (Parts.regs ||| Parts.arbs) s t)
    ∧ ∃ t, exec (.isolClear w d i v) s = .next t
        ∧ (∀ y, y < 20 → isolated t d i y = (isolated s d i y && !bitOf v y))
        ∧ (∀ y, y < 20 → isolated s d i y = true → bitOf v y = true → tget [] (t.arb d i).offences y = [])
        ∧ (arbKind i ≠ 0 → arbKind i ≠ 3 →
          Only (Parts.regs ||| Parts.arbs ||| Parts.vecSent ||| Parts.vecPend ||| Parts.out) s t)
        ∧ (∀ st, arbKind i = 0 → (s.member.dieStacks d)[i / 32]? = some st → (∀ y, y < 20 → isolated s d i y = true → bitOf v y = true) →
          (t.chan st (i % 32)).stalled = [])

/-- FLIT_RECEIVE, NAK, REPLAY_TIMEOUT, EQ_REPORT and LANE_LOCK_LOSS (R408 to R412, R434): a codeword that the FEC cannot correct is
discarded and answered with a NAK; the next flit in order moves the receive sequence on, others do not; an acknowledgement frees the
replay buffer up to its flit; a NAK or a timeout resends from the oldest flit not acknowledged, and REPLAY_MAX failures in a row
stop the port; margins are shown, and a low one raises event 3; a lane that loses lock reads so. VYL_RETRAIN, RETRAIN_DONE,
RETRAIN_TIMEOUT and PORT_RETRY (R434, R435): a retrain of a port that is down, with nothing running, begins training at the width of
CFG.HALF, and of a port that is up is refused with 0x0D05; training done at one width on both sides brings the port up with fresh
sequence numbers and sends IDENT; a failed one reads FAILED, or DOWN where firmware tried by itself. -/
def Obligations.VylithLinks : Prop :=
  (∀ (port ack lane : Nat) (f : FlitRx) (codes : W64) (s : State), hasPort s port = true →
    let g := pgVyl s.member port
    let x := s.port port
    (portCarries s port = true →
      (flitDecode f = none →
        ∃ t, exec (.flitReceive port f) s = .next t ∧ (t.port port).discarding = true ∧ (t.port port).rxSeq = x.rxSeq
          ∧ getF t g F.VYL_FEC_UNCORRECTABLE = min (getF s g F.VYL_FEC_UNCORRECTABLE + 1) (2 ^ 32 - 1)
          ∧ t.out = s.out ++ [.flitNak port (lastRx s port)])
      ∧ (∀ ctl fixed, flitDecode f = some (ctl, fixed) → bit ctl 37 = false →
        let kind := bits ctl 0 2
        let seq := bits ctl 5 12
        let acked := bits ctl 17 12
        ∃ t, exec (.flitReceive port f) s = .next t
          ∧ ((kind = 1 ∨ kind = 2) → seq = x.rxSeq → (t.port port).rxSeq = (x.rxSeq + 1) % 4096
              ∧ (t.port port).discarding = false
              ∧ getF t g F.VYL_RXFLITS = min (getF s g F.VYL_RXFLITS + 1) (2 ^ 64 - 1))
          ∧ ((kind = 1 ∨ kind = 2) → seq ≠ x.rxSeq → (t.port port).rxSeq = x.rxSeq
              ∧ getF t g F.VYL_RXFLITS = getF s g F.VYL_RXFLITS)
          ∧ (acked ∈ x.replay → (t.port port).replay = (x.replay.dropWhile (· ≠ acked)).drop 1 ∧ (t.port port).failRun = 0)
          ∧ (acked ∉ x.replay → (t.port port).replay = x.replay)
          ∧ (fixed ≠ [] → getF t g F.VYL_FEC_CORRECTED
              = min (getF s g F.VYL_FEC_CORRECTED + 1) (2 ^ F.VYL_FEC_CORRECTED.wid - 1))
          ∧ t.out = s.out))
    ∧ (portCarries s port = false → exec (.flitReceive port f) s = .next s ∧ exec (.nak port ack) s = .next s)
    ∧ (∀ a l, x.replay = a :: l → x.replaying = false → x.failRun < replayMax s port →
        (portCarries s port = true → ack ∉ x.replay →
          ∃ t, exec (.nak port ack) s = .next t ∧ hasEvent t g 2 = true ∧ (t.port port).replaying = true
            ∧ (t.port port).replay = x.replay ∧ t.out = s.out ++ [.flitResend port a])
        ∧ (portUp s port = true →
          ∃ t, exec (.replayTimeout port) s = .next t ∧ hasEvent t g 2 = true ∧ (t.port port).replaying = true
            ∧ getF t g F.VYL_REPLAY_REPLAYS = min (getF s g F.VYL_REPLAY_REPLAYS + 1) (2 ^ 32 - 1)
            ∧ (t.port port).replay = x.replay ∧ t.out = s.out ++ [.flitResend port a]))
    ∧ (∀ a l, x.replay = a :: l → x.replaying = true → replayMax s port ≤ x.failRun + 1 → portUp s port = true →
        ∃ t, exec (.replayTimeout port) s = .next t ∧ portState t port = 4 ∧ hasEvent t g 1 = true
          ∧ bitOf (t.reg (g + 0x20)) 0x10 = true ∧ t.out = s.out
          ∧ t.causes = s.causes ++ [⟨2, s.member.portDie port, 0x0D, port, 0x0D10, 0⟩])
    ∧ (portUp s port = true →
        ∃ t, exec (.eqReport port codes) s = .next t ∧ t.reg (g + 0xC0) = codes ∧ t.reg (g + 0xB8) = 0
          ∧ (∀ l, l < 8 → bit (lanesOf s port) l = true → fld codes (8 * l) 8 < getF s g F.VYL_CFG_EQ_MIN → hasEvent t g 3 = true)
          ∧ onlyRegs [g + 0xB8, g + 0xC0, g + 0x40] s t)
    ∧ (lane < 8 → portUp s port = true → bit (getF s g F.VYL_PSTAT_LANES_LOCKED) lane = true →
        ∃ t, exec (.laneLockLoss port lane) s = .next t
          ∧ getF t g F.VYL_PSTAT_LANES_LOCKED = getF s g F.VYL_PSTAT_LANES_LOCKED - 2 ^ lane
          ∧ portState t port = portState s port ∧ onlyRegs [g + 0x80] s t))
  ∧ (∀ (w : Writer) (port far : Nat) (v : W64) (s : State), hasPort s port = true →
    let g := pgVyl s.member port
    let x := s.port port
    let fresh (t : State) : Prop := (t.port port).rxSeq = 0 ∧ (t.port port).txSeq = 0 ∧ (t.port port).replay = []
      ∧ (t.port port).used = [] ∧ hasEvent t g 0 = true
      ∧ ∃ q, t.egress = s.egress ++ [(32 + port, q)] ∧ q.typ = 7 ∧ q.mgmtOp = 7
    (bitOf v 0 = true → (portState s port = 0 ∨ portState s port = 4) → (phase s 0 = 0 ∨ phase s 0 = 6) →
        (∀ k c, k < s.member.tiles → c < 4 → chSt s k c = 0) →
        ∃ t, exec (.vylRetrain w port v) s = .next t ∧ portState t port = 1 ∧ (t.port port).half = getF s g F.VYL_CFG_HALF
          ∧ Only (Parts.regs ||| Parts.ports) s t)
    ∧ (bitOf v 0 = true → portUp s port = true → exec (.vylRetrain w port v) s = .next (recordErr s g 0x0D05 (g + 0x90)))
    ∧ (portState s port = 1 → (x.half = 0 ∨ x.half = 3) → (far = 0 ∨ far = 3) →
        ∃ t, exec (.retrainDone port far) s = .next t ∧ portState t port = 2 ∧ getF t g F.VYL_PSTAT_LANES_LOCKED = 0xFF ∧ fresh t)
    ∧ (portState s port = 1 → (x.half = 1 ∨ x.half = 2) → (far = 1 ∨ far = 2) →
        ∃ t, exec (.retrainDone port far) s = .next t ∧ portState t port = 3
          ∧ getF t g F.VYL_PSTAT_LANES_LOCKED = (if x.half = 2 then 0xF0 else 0x0F) ∧ fresh t)
    ∧ (portState s port = 1 →
        ∃ t, exec (.retrainTimeout port) s = .next t ∧ portState t port = (if x.half = 3 then 0 else 4) ∧ onlyRegs [g + 0x80] s t)
    ∧ (portState s port = 0 → s.enabled = true →
        ∃ t, exec (.portRetry port) s = .next t ∧ portState t port = 1 ∧ (t.port port).half = 3
          ∧ Only (Parts.regs ||| Parts.ports) s t))

/-- PACKET_SEND and COMPLETION_TIMEOUT (R413, R418, R421, R423, R431): the packet at the head of a die's egress leaves by the port its
route names where the port has credit and replay room, with a request of this part recorded until its completion; two requests of one
source for contiguous bytes leave as one packet; a virtual channel that the egress arbiter has isolated sends nothing; a packet for this part goes through the die's loopback; one without a route is
discarded with 0x0D11; a request without its completion in time is given up with 0x0D13. -/
def Obligations.PacketsLeave : Prop :=
  ∀ (port die srcId tag : Nat) (p q : Pkt) (rest : List (Nat × Pkt)) (s : State), die < 32 → hasDie s die = true →
    (halted s = false ∨ p.vc = 3) →
    let g := pgVyl s.member port
    let x := s.port port
    let alone : Prop := rest = [] ∨ (p.typ ≠ 1 ∧ p.typ ≠ 2)
    let open_ : Prop := egressIsolated s port p.vc = false
    let clean (p : Pkt) : Prop := p.poison.any id = false ∨ getF s g F.VYL_CFG_POISON_FORWARD = 1
    (hasPort s port = true → s.egress = (die, p) :: rest → alone → routeOf s p.srcId p.dest = .out port →
        portCarries s port = true → open_ → clean p → wireRoom s port p = true → (getF s g F.VYL_CFG_DATELINE = 1 → p.cls = 1) →
        ∃ t, exec (.packetSend port p) s = .next t ∧ t.egress = rest ∧ t.out = s.out ++ [.packet port p]
          ∧ (t.port port).txSeq = (x.txSeq + flitsOf p) % 4096
          ∧ (t.port port).replay = x.replay ++ (List.range (flitsOf p)).map (fun i => (x.txSeq + i) % 4096)
          ∧ getF t g F.VYL_TXFLITS = min (getF s g F.VYL_TXFLITS + flitsOf p) (2 ^ 64 - 1)
          ∧ (p.src = partNo s → callsAnswer p.typ = true →
              t.outReqs = s.outReqs ++ [⟨p.srcId, p.tag, port, p.typ, s.us, [(p.tag, p.len)]⟩])
          ∧ ((p.src ≠ partNo s ∨ callsAnswer p.typ = false) → t.outReqs = s.outReqs))
    ∧ (hasPort s port = true → s.egress = (die, p) :: rest → alone → routeOf s p.srcId p.dest = .out port →
        egressIsolated s port p.vc = true → ∀ w, w.vc = p.vc → exec (.packetSend port w) s = .next s)
    ∧ (hasPort s port = true → s.egress = [(die, p), (die, q)] → p.typ = 1 → q.typ = 1 → p.src = partNo s → q.src = p.src →
        q.srcId = p.srcId → p.srcId < 4096 → q.dest = p.dest → q.pa = p.pa + p.len → p.len + q.len ≤ 4096 → p.vc = 0 →
        routeOf s p.srcId p.dest = .out port → portCarries s port = true → open_ → clean (joinPayload p q) →
        wireRoom s port (joinPayload p q) = true → getF s g F.VYL_CFG_DATELINE = 0 →
        ∃ t, exec (.packetSend port (joinPayload p q)) s = .next t ∧ t.egress = []
          ∧ t.out = s.out ++ [.packet port (joinPayload p q)]
          ∧ t.outReqs = s.outReqs ++ [⟨p.srcId, p.tag, port, 1, s.us, [(p.tag, p.len), (q.tag, q.len)]⟩])
    ∧ (s.egress = (die, p) :: rest → alone → routeOf s p.srcId p.dest = .self →
        ∃ t, exec (.packetSend (16 + die) p) s = .next t ∧ t.egress = rest ∧ t.out = s.out
          ∧ (t.port (16 + die)).loop = (s.port (16 + die)).loop ++ [p])
    ∧ (∀ y, hasPort s port = true → s.egress = (die, p) :: rest → alone → routeOf s p.srcId p.dest = .none_ y →
        ∃ t, exec (.packetSend port p) s = .next t ∧ t.egress = rest ∧ t.out = s.out
          ∧ t.causes = s.causes ++ [⟨7, die, 0x0D, ((s.member.diePorts die).head?).getD 0, 0x0D11, p.dest + y * 256⟩])
    ∧ (∀ r, hasPort s port = true →
        s.outReqs.find? (fun r => r.port = port && r.srcId = srcId && r.tag = tag
          && getF s pgSync F.SYNC_TIMEOUT_CMP_US ≤ s.us - r.since) = some r →
        ∃ t, exec (.completionTimeout port srcId tag) s = .next t ∧ t.outReqs = s.outReqs.erase r ∧ hasEvent t g 6 = true
          ∧ bitOf (t.reg (g + 0x20)) 0x13 = true
          ∧ t.causes = s.causes ++ [⟨7, s.member.portDie port, 0x0D, port, 0x0D13, srcId⟩]
          ∧ Only (Parts.regs ||| Parts.outReqs ||| Parts.causes) s t)

/-- WR, WR_ACC, RD_REQ and RD_RSP (R415, R417 to R420, R430): a well-formed packet that waits for nothing leaves the ingress. A write or
a read of one row whose bytes peers may use is in performance, with its whole request in the bank queue of a channel in memory mode,
or parked where the channel is another owner's; an accumulating write queues a swath at the unit of each row it touches where the
channel is the ingress's, and is refused with status 1 where it is not; a completion ends its request and reaches the DMA channel that
made it; a request for another part is forwarded with one more hop; bytes that peers may not use are answered with status 3. A packet
that has to wait is held at its port. -/
def Obligations.PacketsMoveData : Prop :=
  ∀ (port : Nat) (p : Pkt) (s : State), hasPort s port = true → portUp s port = true → halted s = false →
    (s.port port).discard = false →
    let st := paStack p.pa
    let ch := paCh p.pa
    let c := s.chan st ch
    let die := s.member.portDie port
    let waits := pktWaits s port (s.port port).held p
    let held : State := s.updPort port (fun x => { x with held := x.held ++ [p] })
    let opened (t : State) (typ : Nat) : Prop := t.nextIn = s.nextIn + 1
      ∧ t.inPkts = s.inPkts ++ [⟨s.nextIn, p.src, p.srcId, p.tag, port, typ, p.pa, p.len, 1, [], 0⟩]
    let usable : Prop := outsideOf s p.pa p.len = false ∧ p.pa % 2048 + p.len ≤ 2048
    let readReq : Req := { src := ingressSrc port 0, pa := p.pa / 64 * 64, nsec := (sectorsOf p.pa p.len).length, write := false,
                           data := [], poison := [], tag := s.nextIn, bypass := 0 }
    let writeReq (marks : List Bool) : Req := sectorReq (ingressSrc port 0) s.nextIn p.pa (p.payload.map some) marks
    let there (t : State) (r : Req) : Prop :=
      (chState s st ch = 0 → ((t.chan st ch).bank (paBank p.pa)).queue = (c.bank (paBank p.pa)).queue ++ [r])
      ∧ (chState s st ch ≠ 0 → (t.chan st ch).parked = c.parked ++ [r])
    let mine (a : Nat) : Prop := (chState s (paStack a) (paCh a) = 2 ∨ chState s (paStack a) (paCh a) = 3)
      ∧ chOwner s (paStack a) (paCh a) = 0x5000
    (waits = true → (p.typ = 1 → exec (.wr port p) s = .next held) ∧ (p.typ = 2 → exec (.wrAcc port p) s = .next held)
      ∧ (p.typ = 3 → exec (.rdReq port p) s = .next held) ∧ (p.typ = 4 → exec (.rdRsp port p) s = .next held))
    ∧ (waits = false → pktWellFormed p = true → routeOf s p.srcId p.dest = .self →
      (p.typ = 1 → usable → (chState s st ch = 0 ∨ chOwner s st ch ≠ ingressSrc port 0) →
        ∃ t marks, exec (.wr port p) s = .next t ∧ opened t 1 ∧ there t (writeReq marks)
          ∧ (p.poison.any id = false → marks.any id = false))
      ∧ (p.typ = 3 → usable → (chState s st ch = 0 ∨ chOwner s st ch ≠ ingressSrc port 0) →
        ∃ t, exec (.rdReq port p) s = .next t ∧ opened t 3 ∧ there t readReq)
      ∧ (p.typ = 1 → outsideOf s p.pa p.len = true →
        ∃ t q, exec (.wr port p) s = .next t ∧ t.egress = s.egress ++ [(die, q)] ∧ q.typ = 4 ∧ q.status = 3 ∧ q.tag = p.tag
          ∧ q.dest = p.src ∧ t.inPkts = s.inPkts)
      ∧ (p.typ = 3 → outsideOf s p.pa p.len = true →
        ∃ t q, exec (.rdReq port p) s = .next t ∧ t.egress = s.egress ++ [(die, q)] ∧ q.typ = 4 ∧ q.status = 3 ∧ q.tag = p.tag
          ∧ q.dest = p.src ∧ q.payload = List.replicate p.len 0 ∧ t.inPkts = s.inPkts)
      ∧ (p.typ = 2 → (∀ k, k < (accPieces p).2.2 → outsideOf s (p.pa + 2048 * k) (accPieces p).1 = false
            ∧ inHole s (p.pa + 2048 * k) = false ∧ mine (p.pa + 2048 * k)) →
        ∃ t, exec (.wrAcc port p) s = .next t ∧ t.nextIn = s.nextIn + 1
          ∧ t.inPkts = s.inPkts ++ [⟨s.nextIn, p.src, p.srcId, p.tag, port, 2, p.pa, p.len, (accPieces p).2.2, [], 0⟩]
          ∧ (∀ k, k < (accPieces p).2.2 →
            let a := p.pa + 2048 * k
            ∃ z j, z ∈ (t.unit (unitOf (paStack a) (paCh a) (paBank a))).queue ∧ z.rowFirst = paRow a ∧ z.acc = some j
              ∧ j.dst = paByte a ∧ j.afmt = p.afmt ∧ j.bytes = (p.payload.drop (k * (accPieces p).2.1)).take (accPieces p).2.1
              ∧ j.packet = s.nextIn))
      ∧ (p.typ = 2 → p.piece = 0 → outsideOf s p.pa (accDst p.afmt p.len) = false → inHole s p.pa = false → chState s st ch = 0 →
        (∀ q ∈ s.inPkts, q.id ≠ s.nextIn) →
        ∃ t q, exec (.wrAcc port p) s = .next t ∧ t.egress = s.egress ++ [(die, q)] ∧ q.typ = 4 ∧ q.status = 1 ∧ q.tag = p.tag
          ∧ q.dest = p.src ∧ t.units = s.units)
      ∧ (∀ r, p.typ = 4 → s.outReqs.find? (fun r => r.srcId = p.srcId && r.tag = p.tag) = some r → r.srcId < 4096 →
          let x := (s.tile (r.srcId / 4)).ch (r.srcId % 4)
          let y (t : State) := (t.tile (r.srcId / 4)).ch (r.srcId % 4)
          let n := (r.parts.map (·.2)).sum
          ((r.typ = 1 ∨ r.typ = 2) →
            ∃ t, exec (.rdRsp port p) s = .next t ∧ t.outReqs = s.outReqs.erase r ∧ (y t).wback = x.wback ++ r.parts.map (·.1))
          ∧ (r.typ = 3 → p.payload ≠ [] →
            ∃ t, exec (.rdRsp port p) s = .next t ∧ t.outReqs = s.outReqs.erase r ∧ (y t).rback = x.rback ++
              [(r.tag, p.payload, (List.range ((n + 63) / 64)).map (fun u => p.poison.getD u false))])
          ∧ (r.typ = 3 → p.payload = [] →
            ∃ t, exec (.rdRsp port p) s = .next t ∧ t.outReqs = s.outReqs.erase r ∧ (y t).rback = x.rback ++
              [(r.tag, List.replicate n 0, List.replicate ((n + 63) / 64) true)])
          ∧ (p.len = 0 → p.status ≠ 0 → ∃ t, exec (.rdRsp port p) s = .next t ∧ hasEvent t (pgVyl s.member port) 4 = true
              ∧ bitOf (t.reg (pgVyl s.member port + 0x20)) 0x12 = true)))
    ∧ (∀ y, waits = false → pktWellFormed p = true → routeOf s p.srcId p.dest = .out y → p.hops < 15 → p.typ = 1 →
        ∃ t k, exec (.wr port p) s = .next t
          ∧ t.egress = s.egress ++ [(die, { p with hops := p.hops + 1, cls := k })] ∧ t.inPkts = s.inPkts)

/-- SIG, FENCE and FENCE_RELEASE (R426, R427): a signal adds its value to its counter modulo 2^32 and is answered; the header of a
fence on the REQ channel holds that channel, and with the one on ACC the fence waits for the packets in performance; when they have
completed the fence lets the channel go and is counted. SYNC_COUNTER_WRITE, WATCH_ARM and ROUTE_WRITE (R422, R427, R428, R438): a
counter takes the value written, and an armed watch whose target it reaches fires and is disarmed; a watch written armed waits, or
fires at once; a routing entry or the part number takes the value written, but in service mode (0x1305) and with ports that the part
has not (0x1311). -/
def Obligations.SignalsFencesAndCounters : Prop :=
  (∀ (port : Nat) (p : Pkt) (s : State),
    let x := s.port port
    let k := (p.src, p.srcId, p.fenceNo)
    (reaches s port p → x.held = [] → p.typ = 5 →
      ∃ t q, exec (.sig port p) s = .next t
        ∧ syncVal t (p.counter % 4096) = (syncVal s (p.counter % 4096) + p.value) % 2 ^ 32
        ∧ (∀ j, j ≠ p.counter % 4096 → syncVal t j = syncVal s j)
        ∧ getF t pgSync F.SYNC_SIGCOUNT_SIG_IN = min (getF s pgSync F.SYNC_SIGCOUNT_SIG_IN + 1) (2 ^ 32 - 1)
        ∧ t.egress = s.egress ++ [(s.member.portDie port, q)] ∧ q.typ = 4 ∧ q.status = 0 ∧ q.tag = p.tag ∧ q.dest = p.src)
    ∧ (reaches s port p → x.held = [] → p.typ = 6 → p.vc = 0 →
      ∃ t, exec (.fence port p) s = .next t ∧ (t.port port).fence = some k
        ∧ (k ∉ x.fenceAcc → (t.port port).fenceWait = x.fenceWait)
        ∧ (k ∈ x.fenceAcc → x.fenceWait = none →
            (t.port port).fenceWait = some ((s.inPkts.filter (·.port = port)).map (·.id)))
        ∧ Only (Parts.ports ||| Parts.out) s t)
    ∧ (reaches s port p → x.held = [] → p.typ = 6 → p.vc = 2 →
      ∃ t, exec (.fence port p) s = .next t ∧ (t.port port).fenceAcc = x.fenceAcc ++ [k] ∧ (t.port port).fence = x.fence
        ∧ Only (Parts.ports ||| Parts.out) s t)
    ∧ (∀ f ids, hasPort s port = true → x.fence = some f → x.fenceWait = some ids → halted s = false →
      ((∀ q ∈ s.inPkts, q.id ∉ ids) → x.held = [] →
        ∃ t, exec (.fenceRelease port) s = .next t
          ∧ t.port port = { x with fence := none, fenceWait := none, fenceAcc := x.fenceAcc.erase f }
          ∧ getF t pgSync F.SYNC_SIGCOUNT_FENCE_IN = min (getF s pgSync F.SYNC_SIGCOUNT_FENCE_IN + 1) (2 ^ 32 - 1)
          ∧ Only (Parts.regs ||| Parts.ports) s t)
      ∧ ((∃ q ∈ s.inPkts, q.id ∈ ids) → exec (.fenceRelease port) s = .next s)))
  ∧ (∀ (w : Writer) (c i : Nat) (v : W64) (s : State), c < 4096 → i < 8 →
    let fired (t : State) : Prop := hasEvent t pgSync i = true ∧ getF t pgSync F.SYNC_WATCH_ARMED i = 0
    (∃ t, exec (.syncCounterWrite w c v) s = .next t ∧ syncVal t c = fld v 0 32 ∧ (∀ j, j ≠ c → syncVal t j = syncVal s j)
      ∧ (getF s pgSync F.SYNC_WATCH_ARMED i = 1 → getF s pgSync F.SYNC_WATCH_COUNTER i = c →
          getF s pgSync F.SYNC_WATCH_TARGET i ≤ fld v 0 32 → fired t)
      ∧ Only (Parts.regs ||| Parts.sync) s t)
    ∧ (∃ t, exec (.watchArm w i v) s = .next t ∧ getF t pgSync F.SYNC_WATCH_COUNTER i = fld v 0 12
      ∧ getF t pgSync F.SYNC_WATCH_TARGET i = fld v 32 32
      ∧ (bitOf v 12 = true → fld v 32 32 ≤ syncVal s (fld v 0 12) → fired t)
      ∧ (bitOf v 12 = true → syncVal s (fld v 0 12) < fld v 32 32 → getF t pgSync F.SYNC_WATCH_ARMED i = 1)
      ∧ (bitOf v 12 = false → getF t pgSync F.SYNC_WATCH_ARMED i = 0) ∧ Only Parts.regs s t)
    ∧ (∀ d, d < 64 → getF s pgOwn F.OWN_SVC_MODE = 0 →
      (fld v 0 4 < s.member.ports → fld v 4 4 < s.member.ports →
        ∃ t, exec (.routeWrite w (some d) v) s = .next t ∧ getF t pgSync F.SYNC_ROUTE_PORT_A d = fld v 0 4
          ∧ getF t pgSync F.SYNC_ROUTE_PORT_B d = fld v 4 4 ∧ getF t pgSync F.SYNC_ROUTE_SELF d = fld v 8 1
          ∧ getF t pgSync F.SYNC_ROUTE_VALID d = fld v 9 1 ∧ onlyRegs [pgSync + 0x400 + d * 8] s t)
      ∧ ((s.member.ports ≤ fld v 0 4 ∨ s.member.ports ≤ fld v 4 4) →
        exec (.routeWrite w (some d) v) s = .next (recordErr s pgSync 0x1311 0))
      ∧ ∃ t, exec (.routeWrite w none v) s = .next t ∧ partNo t = fld v 0 6 ∧ onlyRegs [pgSync + 0x80] s t)
    ∧ (getF s pgOwn F.OWN_SVC_MODE = 1 → ∀ d, d < 64 →
        exec (.routeWrite w (some d) v) s = .next (recordErr s pgSync 0x1305 (pgSync + 0x400 + d * 8))))

/-- DESC_REQ, DESC_RSP, RELEASE, PING, PONG, FAULT_NOTE, IDENT and RESET_NOTE (R294 to R296, R417, R433, R435): each management packet has
its effect at the receiver: a descriptor is exported and sent back, or answered; an export is given up; a ping is answered with
its payload; a pong has no effect; a neighbour's fault sets event 5; the neighbour's part and port are shown; the wait for the
neighbour's reset ends. -/
def Obligations.ManagementPackets : Prop :=
  ∀ (port : Nat) (p : Pkt) (s : State), p.typ = 7 → (s.port port).held = [] →
    let g := pgVyl s.member port
    let h := leNat (p.payload.take 8) % 4096
    let n := fld ((leWords p.payload).getD 16 0) 16 5
    let answered (t : State) (op : Nat) (q : Pkt) : Prop :=
      t.egress = s.egress ++ [(0, q)] ∧ q.typ = 7 ∧ q.mgmtOp = op ∧ q.tag = p.tag ∧ q.dest = p.src
    (reaches s port p →
      (p.mgmtOp = 1 → dValid (s.desc h) = true → dKind (s.desc h) = 0 → dLocalOnly (s.desc h) = false →
        ∃ t q, exec (.descReq port p) s = .next t ∧ answered t 2 q
          ∧ bits (descW (t.desc h) 13) 0 16 = (bits (descW (s.desc h) 13) 0 16 + 1) % 65536 ∧ (∀ j, j ≠ h → t.desc j = s.desc j))
      ∧ (p.mgmtOp = 1 → (dValid (s.desc h) = false ∨ dLocalOnly (s.desc h) = true) →
        ∃ t q, exec (.descReq port p) s = .next t ∧ answered t 2 q ∧ t.descs = s.descs)
      ∧ (p.mgmtOp = 2 → (s.otab n).state = 1 → p.tag ∈ (s.otab n).waiting →
          ePart ((s.otab n).entries.getD p.tag 0) = p.src →
        ∃ t, exec (.descRsp port p) s = .next t ∧ (t.otab n).waiting = (s.otab n).waiting.filter (· ≠ p.tag)
          ∧ (t.otab n).remote = (s.otab n).remote ++ [(p.tag, (leWords p.payload).take 16)]
          ∧ (∀ j, j ≠ n → t.otab j = s.otab j))
      ∧ (p.mgmtOp = 3 → dValid (s.desc h) = true →
        ∃ t, exec (.release port p) s = .next t
          ∧ bits (descW (t.desc h) 13) 0 16 = bits (descW (s.desc h) 13) 0 16 - 1 ∧ (∀ j, j ≠ h → t.desc j = s.desc j))
      ∧ (p.mgmtOp = 4 → ∃ t q, exec (.ping port p) s = .next t ∧ answered t 5 q ∧ q.payload = p.payload)
      ∧ (p.mgmtOp = 5 → exec (.pong port p) s = .next (s.emit (.credit port p.vc p.cls (flitsOf p))))
      ∧ (p.mgmtOp = 6 → ∃ t, exec (.faultNote port p) s = .next t ∧ hasEvent t g 5 = true ∧ keepsRegs [g + 0x40] s t
          ∧ Only (Parts.regs ||| Parts.out) s t))
    ∧ (hasPort s port = true → portUp s port = true → pktWellFormed p = true →
      (p.mgmtOp = 7 → ∃ t, exec (.ident port p) s = .next t ∧ getF t g F.VYL_PSTAT_PEER_PART = p.src % 64
          ∧ getF t g F.VYL_PSTAT_PEER_PORT = leNat (p.payload.take 1) % 16 ∧ getF t g F.VYL_PSTAT_PEER_VALID = 1
          ∧ portState t port = portState s port ∧ keepsRegs [g + 0x80] s t ∧ Only (Parts.regs ||| Parts.out) s t)
      ∧ (p.mgmtOp = 8 → ∃ t, exec (.resetNote port p) s = .next t ∧ t.port port = { s.port port with discard := false }
          ∧ Only (Parts.ports ||| Parts.out) s t))

/-- MEMRD, MEMWR and MEMWRPTL (R440, R442, R444, R447, R452): a request within the HDM span, to a stack in service and a channel in
memory mode with room, joins the queue of its bank column; a poisoned write is counted; before Memory_Active, and outside the span,
a read is answered at once with zeros marked poisoned and a write completes without effect, recorded as 0x0E10 and 0x0E14; the
completion of a stack that the release arbiter has isolated waits. CXL_LINK_UP, FUNCTION_LEVEL_RESET, HOT_RESET, CDAT_REQUEST and
SPDM_REQUEST (R439, R441, R453, R455, R505): a trained link shows its width and rate; a reset clears the mailbox and event state of
the CXL core, masks its vectors, and touches no memory, and a hot reset takes the link down; CDAT names the data rows of each stack;
SPDM answers its version and signs a challenge where the part key stands. -/
def Obligations.CxlPort : Prop :=
  (∀ (dpa : Nat) (data : List Byte) (bytes : List (Option Byte)) (bad : Bool) (s : State), dpa < 2 ^ 63 →
    let a := dpaToPa (dpa / 64 * 64)
    let c := s.chan (paStack a) (paCh a)
    let ready : Prop := dpa < s.member.hdmSpan ∧ memActive s = true ∧ stackActive s (paStack a) = true
      ∧ intakeIsolated s (paStack a) (paCh a) 0x2000 = false ∧ chState s (paStack a) (paCh a) = 0 ∧ (c.bank (paBank a)).queue.length < 16
      ∧ (∀ x ∈ c.parked, paBank x.pa ≠ paBank a) ∧ (∀ x ∈ c.blocked, paBank x.pa ≠ paBank a)
    let req (write poison : Bool) (d : List (Option Byte)) : Req :=
      { src := 0x2000, pa := a, nsec := 1, write := write, data := d, poison := [poison], tag := dpa, bypass := 0 }
    let queuedTo (t : State) (r : Req) : Prop :=
      ((t.chan (paStack a) (paCh a)).bank (paBank a)).queue = (c.bank (paBank a)).queue ++ [r]
      ∧ keepsChansBut (paStack a) (paCh a) s t ∧ Only (Parts.regs ||| Parts.chans) s t
    let away (t : State) (code : Nat) : Prop := bitOf (t.reg (pgCxl + 0x20)) code = true ∧ t.chans = s.chans ∧ t.mem = s.mem
    (ready →
      (∃ t, exec (.memrd dpa) s = .next t ∧ queuedTo t (req false false []))
      ∧ (∃ t, exec (.memwr dpa data bad) s = .next t
          ∧ queuedTo t (req true bad ((List.range 64).map (fun i => some (data.getD i 0))))
          ∧ getF t pgCxl F.CXL_POISON_IN = (if bad then min (getF s pgCxl F.CXL_POISON_IN + 1) (2 ^ 32 - 1)
              else getF s pgCxl F.CXL_POISON_IN)
          ∧ (bad = true → hasEvent t pgCxl 4 = true))
      ∧ ∃ t, exec (.memwrptl dpa bytes bad) s = .next t
          ∧ queuedTo t (req true bad ((List.range 64).map (fun i => bytes.getD i none)))
          ∧ (bad = true → hasEvent t pgCxl 4 = true))
    ∧ (∀ code, ((code = 0x14 ∧ s.member.hdmSpan ≤ dpa) ∨ (code = 0x10 ∧ dpa < s.member.hdmSpan ∧ memActive s = false)) →
      (releaseIsolated s dpa = true → ∃ t, exec (.memrd dpa) s = .next t ∧ away t code ∧ t.out = s.out
        ∧ t.cxl.unsent = s.cxl.unsent ++ [(false, dpa, List.replicate 64 0, true)])
      ∧ (releaseIsolated s dpa = false →
      (∃ t, exec (.memrd dpa) s = .next t ∧ t.out = s.out ++ [.cxlRead dpa (List.replicate 64 0) true] ∧ away t code
        ∧ hasEvent t pgCxl 3 = true)
      ∧ (∃ t, exec (.memwr dpa data bad) s = .next t ∧ t.out = s.out ++ [.cxlWrite dpa] ∧ away t code)
      ∧ ∃ t, exec (.memwrptl dpa bytes bad) s = .next t ∧ t.out = s.out ++ [.cxlWrite dpa] ∧ away t code)))
  ∧ (∀ (width rate : Nat) (s : State), s.cxl.configReady = true →
    let cleared (t : State) : Prop := t.cxl.events = [] ∧ t.cxl.scan = none ∧ t.cxl.scanFound = [] ∧ t.cxl.mboxDone = false
      ∧ t.cxl.unsent = [] ∧ t.vecMask = List.range 64 ∧ t.vecPend = [] ∧ t.vecTable = [] ∧ t.funcMask = false ∧ t.cxl.slots = s.cxl.slots
    ((width = 4 ∨ width = 8 ∨ width = 16) → rate < 4 →
      ∃ t, exec (.cxlLinkUp width rate (rate == 3)) s = .next t ∧ getF t pgCxl F.CXL_LINK_STATE = 2
        ∧ getF t pgCxl F.CXL_LINK_WIDTH = width ∧ getF t pgCxl F.CXL_LINK_RATE = rate
        ∧ getF t pgCxl F.CXL_LINK_FLIT256 = b2n (rate == 3) ∧ hasEvent t pgCxl 0 = true
        ∧ onlyRegs [pgCxl + 0x80, pgCxl + 0x40] s t)
    ∧ (∃ t, exec .functionLevelReset s = .next t ∧ cleared t ∧ hasEvent t pgCxl 5 = true ∧ (s.chans = [] → t.chans = [])
        ∧ Only (Parts.regs ||| Parts.vecSent ||| Parts.vecMask ||| Parts.vecPend ||| Parts.vecTable ||| Parts.funcMask ||| Parts.chans
          ||| Parts.cxl) s t)
    ∧ (∃ t, exec .hotReset s = .next t ∧ cleared t ∧ getF t pgCxl F.CXL_LINK_STATE = 0 ∧ getF t pgCxl F.CXL_LINK_WIDTH = 0
        ∧ (getF s pgCxl F.CXL_LINK_STATE = 2 → hasEvent t pgCxl 1 = true)
        ∧ Only (Parts.regs ||| Parts.vecSent ||| Parts.vecMask ||| Parts.vecPend ||| Parts.vecTable ||| Parts.funcMask ||| Parts.chans
          ||| Parts.cxl) s t)
    ∧ (∃ t, exec .cdatRequest s = .next t ∧ t.out = s.out ++ [.cdat (cdatEntries s)] ∧ Only Parts.out s t)
    ∧ (∃ t, exec (.spdmRequest .getVersion) s = .next t ∧ t.out = s.out ++ [.spdm 0x04 false [0x12]] ∧ Only Parts.out s t)
    ∧ (getF s pgSec F.SEC_KEY_STATE = 1 →
        ∃ t, exec (.spdmRequest .challenge) s = .next t
          ∧ t.out = s.out ++ [.spdm 0x03 true (Config.sha384 0 s.flash.chain)] ∧ Only Parts.out s t)
    ∧ (getF s pgSec F.SEC_KEY_STATE = 2 →
        ∃ t, exec (.spdmRequest .challenge) s = .next t ∧ t.out = s.out ++ [.spdm 0x7F false [0x05]] ∧ Only Parts.out s t))

/-- The mailbox commands that read or set the part's records (R440, R441, R448, R449, R499): events and their policy, firmware slots, the
timestamp, logs, identity, health, reserved ranges, a stack's log and the fault record. Each completes with a return code and its
payload; record sizes and return codes of the standard are the model's (PRESUMED, log 31). While the lead core restarts, or stays stopped,
every command is answered Busy. -/
def Obligations.MailboxReports : Prop :=
  ∀ (mx offset len st index count : Nat) (handles : List Nat) (x : W64) (s : State), s.cxl.configReady = true →
    let frame (t : State) : Prop := Only (Parts.regs ||| Parts.vecSent ||| Parts.cxl ||| Parts.out) s t
      ∧ getF t pgCxl F.CXL_MBOX_COMMANDS = min (getF s pgCxl F.CXL_MBOX_COMMANDS + 1) (2 ^ 32 - 1)
      ∧ keepsRegs [pgCxl + 0xC0] s t
    let l := s.cxl.events.take (min mx 31)
    (leadDown s = true → ∃ t, exec .getTimestamp s = .next t ∧ mboxed 0x0300 6 [] s t ∧ frame t)
    ∧ (leadDown s = false → inRecovery s = true →
      ∃ t, exec .getTimestamp s = .next t ∧ mboxed 0x0300 6 [] s t ∧ frame t)
    ∧ (leadDown s = false →
      (∃ t, exec .getFwInfo s = .next t ∧ frame t
        ∧ mboxed 0x0200 0 [2, (runningSlot s).elim 0 (· + 1), s.flash.activated + 1,
            (slotImage s 0).elim 0 (fun i => i.version.toNat), (slotImage s 1).elim 0 (fun i => i.version.toNat), 0] s t))
    ∧ (leadDown s = false → inRecovery s = false →
      (∃ t, exec (.getEventRecords mx) s = .next t ∧ frame t ∧ t.cxl.events = s.cxl.events
        ∧ mboxed 0x0100 0 (b2n (decide (l.length < s.cxl.events.length)) ::
            l.flatMap (fun r => [r.handle, r.kind, r.arg, b2n r.corrected, r.us])) s t)
      ∧ (∃ t, exec (.clearEventRecords true handles) s = .next t ∧ frame t ∧ t.cxl.events = [] ∧ mboxed 0x0101 0 [] s t)
      ∧ ((∀ h ∈ handles, ∃ r ∈ s.cxl.events, r.handle = h) →
          ∃ t, exec (.clearEventRecords false handles) s = .next t ∧ frame t ∧ mboxed 0x0101 0 [] s t
            ∧ t.cxl.events = s.cxl.events.filter (fun r => !handles.contains r.handle))
      ∧ (∃ t, exec .getEventInterruptPolicy s = .next t ∧ frame t ∧ mboxed 0x0102 0 [s.cxl.policy.toNat] s t)
      ∧ (∃ t, exec (.setEventInterruptPolicy x) s = .next t ∧ frame t ∧ mboxed 0x0103 0 [] s t ∧ t.cxl.policy = x)
      ∧ (∃ t, exec .getTimestamp s = .next t ∧ frame t ∧ mboxed 0x0300 0 [timestamp s] s t)
      ∧ (∃ t, exec (.setTimestamp x) s = .next t ∧ frame t ∧ mboxed 0x0301 0 [] s t ∧ (x ≠ 0 → timestamp t = x.toNat))
      ∧ (∃ t, exec .getSupportedLogs s = .next t ∧ frame t ∧ mboxed 0x0400 0 [1, effectsLog.length] s t)
      ∧ (offset + len ≤ effectsLog.length →
          ∃ t, exec (.getLog offset len) s = .next t ∧ frame t ∧ mboxed 0x0401 0 ((effectsLog.drop offset).take len) s t)
      ∧ (∃ t, exec .identifyMemoryDevice s = .next t ∧ frame t
          ∧ mboxed 0x4000 0 [s.member.hdmSpan / 2 ^ 28, s.member.hdmSpan / 2 ^ 28, 0] s t)
      ∧ (∃ t, exec .getHealthInfo s = .next t ∧ frame t
          ∧ mboxed 0x4200 0
              [((List.range s.member.stackCount).map (fun k => getF s (pgStk s.member k) F.STK_TEMP_CUR)).foldl max 0, 0] s t)
      ∧ (∃ t, exec .getScanMediaResults s = .next t ∧ frame t
          ∧ mboxed 0x4305 0 (b2n (decide (127 < s.cxl.scanFound.length)) ::
              (s.cxl.scanFound.take 127).flatMap (fun r => r.map BitVec.toNat)) s t)
      ∧ (∃ t, exec .getReserved s = .next t ∧ frame t ∧ mboxed 0xC000 0 ((reserved s).flatMap (fun p => [p.1, p.2])) s t)
      ∧ (st < s.member.stackCount → index < 1024 → 1 ≤ count → count ≤ 128 →
          ∃ t, exec (.getStackLog st index count) s = .next t ∧ frame t
            ∧ mboxed 0xC001 0 ((List.range count).flatMap (fun i => (List.range 4).map (fun j =>
                ((tget [] (s.stack st).log ((index + i) % 1024)).getD j 0).toNat))) s t)
      ∧ ∃ t, exec .getFaultRecord s = .next t ∧ frame t
          ∧ mboxed 0xC002 0 ((List.range 8).map (fun k => getF s (pgFlt 0) F.FLT_REC k)) s t)

/-- INJECT_POISON, CLEAR_POISON, GET_POISON_LIST, GET_SCAN_MEDIA_CAPABILITIES, SCAN_MEDIA and SCAN_MEDIA_DONE (R448, R450): a line
is poisoned, or written with the data and free of poison, and no other byte changes; the list names poisoned sectors that were
injected or logged; a scan begins in the background, and its end is signalled. TRANSFER_FW and ACTIVATE_FW (R497, R499): a transfer
goes to the slot that neither runs nor is activated; started, continued and aborted it holds that slot; its end verifies the image,
which then fills the slot with event 6, or leaves it invalid with 0x1410; an activation names a valid slot for the next boot. -/
def Obligations.MailboxMediaAndFirmware : Prop :=
  (∀ (dpa len : Nat) (data : List Byte) (s : State), s.cxl.configReady = true →
    let a := dpaToPa dpa
    let good : Prop := inSpan s dpa 64 = true ∧ dpa % 64 = 0 ∧ inHole s a = false ∧ stackActive s (paStack a) = true
    let l := poisonList s dpa len
    (leadDown s = false → inRecovery s = false →
      (good → tget [] s.flips (a / 64) = [] →
        ∃ t, exec (.injectPoison dpa) s = .next t ∧ mboxed 0x4301 0 [] s t ∧ a / 64 ∈ t.poison ∧ a / 64 ∈ t.cxl.injected ∧ keepsMem s t)
      ∧ (good → data.length = 64 →
        ∃ t, exec (.clearPoison dpa data) s = .next t ∧ mboxed 0x4302 0 [] s t ∧ a / 64 ∉ t.poison ∧ mread t.mem a 64 = data
          ∧ tget [] t.flips (a / 64) = [] ∧ keepsMemBut a 64 s t)
      ∧ (dpa % 64 ≠ 0 → ∃ t, exec (.injectPoison dpa) s = .next t ∧ mboxed 0x4301 2 [] s t ∧ t.poison = s.poison ∧ t.mem = s.mem)
      ∧ (inSpan s dpa len = true →
        (∃ t, exec (.getPoisonList dpa len) s = .next t
          ∧ mboxed 0x4300 0 (b2n (decide (254 < l.length)) ::
              (l.take 254).flatMap (fun p => [p.1 * 64 - 2 ^ 31, 64, if p.2 then 3 else 2])) s t
          ∧ Only (Parts.regs ||| Parts.vecSent ||| Parts.cxl ||| Parts.out) s t)
        ∧ (∃ t y, exec (.getScanMediaCapabilities dpa len) s = .next t ∧ mboxed 0x4303 0 [y] s t
          ∧ Only (Parts.regs ||| Parts.vecSent ||| Parts.cxl ||| Parts.drawn ||| Parts.out) s t)
        ∧ (len ≠ 0 → s.cxl.scan = none →
          ∃ t, exec (.scanMedia dpa len) s = .next t ∧ mboxed 0x4304 1 [] s t ∧ t.cxl.scan = some (dpa, len)
            ∧ Only (Parts.regs ||| Parts.vecSent ||| Parts.cxl ||| Parts.out) s t)))
    ∧ (∀ r, s.cxl.scan = some r →
        ∃ t, exec .scanMediaDone s = .next t ∧ t.cxl.scan = none ∧ t.cxl.mboxDone = true ∧ 1 ∉ t.vecSent))
  ∧ (∀ (slot : Nat) (img : FwImage) (s : State), s.cxl.configReady = true → leadDown s = false → 1 ≤ slot → slot ≤ 2 →
    let k := slot - 1
    let idle : Prop := runningSlot s ≠ some k ∧ s.flash.activated ≠ k
    (idle →
      (s.cxl.transfer = none →
        (∃ t, exec (.transferFw .initiate slot img) s = .next t ∧ mboxed 0x0201 0 [] s t ∧ t.cxl.transfer = some k ∧ slotImage t k = none)
        ∧ (imageFails s img = none →
          ∃ t, exec (.transferFw .full slot img) s = .next t ∧ mboxed 0x0201 0 [] s t ∧ t.cxl.transfer = none ∧ slotImage t k = some img
            ∧ hasEvent t pgSec 6 = true))
      ∧ (s.cxl.transfer = some k →
        (∃ t, exec (.transferFw .continue_ slot img) s = .next t ∧ mboxed 0x0201 0 [] s t ∧ t.cxl.transfer = some k)
        ∧ (∃ t, exec (.transferFw .abort_ slot img) s = .next t ∧ mboxed 0x0201 0 [] s t ∧ t.cxl.transfer = none)
        ∧ (imageFails s img = none →
          ∃ t, exec (.transferFw .end_ slot img) s = .next t ∧ mboxed 0x0201 0 [] s t ∧ t.cxl.transfer = none ∧ slotImage t k = some img
            ∧ slotImage t (1 - k) = slotImage s (1 - k) ∧ hasEvent t pgSec 6 = true)
        ∧ (imageFails s img ≠ none →
          ∃ t, exec (.transferFw .end_ slot img) s = .next t ∧ mboxed 0x0201 2 [] s t ∧ t.cxl.transfer = none ∧ slotImage t k = none
            ∧ bitOf (t.reg (pgSec + 0x20)) 0x10 = true)))
    ∧ (slotImage s k ≠ none →
        ∃ t, exec (.activateFw slot false) s = .next t ∧ mboxed 0x0202 0 [] s t ∧ t.flash = { s.flash with activated := k }))

/-- PERST_ASSERT and PERST_DEASSERT (R96, R131, R350, R453, R484, R493, R495, R504): PERST# loses everything but the flash, the
module's inputs and the DRAM of stacks held in self-refresh; its end boots the activated slot's image, which starts the core of each
die, writes the routine stores of the tiles, redirects the rows of the stored Fallow entries and begins the training of each die's
first stack, or stops in RECOVERY where no slot verifies. STACK_TRAINED and MEMORY_ACTIVE (R139 to R144, R452, R493): a stack whose
turn it is takes the codes that its windows give and passes where no wire, bundle of a powered core die or check rejects it: it
reports 1 and is zeroed, unless it boots held with its contents; else it reports 2 with what was rejected first and records 0x0A12.
It then leaves TEST, and the next stack of its die begins. A held stack that keeps nothing is taken out of self-refresh first.
Memory_Active rises when every stack has trained. That firmware takes the centre of a window, and what is rejected first, are the
model's choices (log entry 51). -/
def Obligations.BootAndTraining : Prop :=
  (∀ (b : BootIn) (img : FwImage) (s : State),
    let k := s.flash.activated
    (s.board.mainOn = true →
      ∃ t, exec .perstAssert s = .next t ∧ t.board.perst = true ∧ t.flash = s.flash ∧ t.cxl.slots = s.cxl.slots
        ∧ (∀ a, mget t.mem a = if a / 2 ^ 36 ∈ heldStacks s then mget s.mem a else 0)
        ∧ (∀ st ∈ heldStacks s, srState t st = 2
            ∧ getF t (pgStk s.member st) F.STK_SRCTL_KEEP_EFF = getF s (pgStk s.member st) F.STK_SRCTL_KEEP_EFF)
        ∧ (heldStacks s = [] → t.regs = []) ∧ t.enabled = false ∧ t.tiles = [] ∧ t.seqs = [] ∧ t.descs = [] ∧ t.allocs = []
        ∧ t.egress = [] ∧ t.bwq = [] ∧ t.fetches = [] ∧ t.descQ = [] ∧ t.allocQ = [] ∧ t.uzoids = [] ∧ t.routines = [])
    ∧ (s.board.mainOn = false → exec .perstAssert s = .next { s with board := { s.board with perst := true } })
    ∧ (s.board.perst = true → s.board.mainOn = true → k ≤ 1 →
        slotImage s k = some img → imageFails s img = none → b.slotOk = true → b.storeOk = true → b.keyOk = true → b.copyFail = none →
        ∃ t, exec (.perstDeassert b) s = .next t ∧ t.board.perst = false ∧ t.enabled = true ∧ t.cxl.configReady = true
          ∧ getF t pgSec F.SEC_BOOT_STATE = 3 ∧ getF t pgSec F.SEC_BOOT_SLOT = k ∧ getF t pgSec F.SEC_KEY_STATE = 1
          ∧ getF t pgSec F.SEC_FW_VERSION = img.version.toNat ∧ (∀ j, j < s.member.tiles → (t.tile j).gated = false)
          ∧ (∀ j, j < s.member.tiles → (t.tile j).store = img.routines.take (2 ^ 14))
          ∧ (∀ d, d < s.member.dies → tget {} t.uzoids d = startCore { copy := img.core } ∧ tget 0 t.kicks d = s.us)
          ∧ (∀ d st, d < s.member.dies → nextToTrain s d = some st → getF t (pgCal s.member st) F.CAL_TRCTL_TEST = 1)
          ∧ (∀ st n, st < s.member.stackCount →
              (n ∈ (t.stack st).redirected ↔ ∃ v, (n, v) ∈ fallowEntries s st ∧ bitOf v 63 = true))
          ∧ (∀ p, p < s.member.ports → portState t p = 1) ∧ t.mem = s.mem ∧ t.flash = s.flash)
    ∧ (s.board.perst = true → s.board.mainOn = true → slotImage s 0 = none → slotImage s 1 = none → k ≤ 1 →
        ∃ t, exec (.perstDeassert b) s = .next t ∧ t.board.perst = false ∧ t.enabled = s.enabled ∧ t.cxl.configReady = true
          ∧ getF t pgSec F.SEC_BOOT_STATE = 5 ∧ getF t pgSec F.SEC_BOOT_FAIL_CODE = 0x1410 ∧ getF t pgSec F.SEC_BOOT_FALLBACK = 1
          ∧ hasEvent t pgSec 1 = true ∧ bitOf (t.reg (pgSec + 0x20)) 0x10 = true ∧ t.mem = s.mem)
    ∧ (s.board.perst = true → s.board.mainOn = false →
        exec (.perstDeassert b) s = .next { s with board := { s.board with perst := false } })
    ∧ (s.board.perst = false → exec (.perstDeassert b) s = .next s))
  ∧ (∀ (st : Nat) (r : TrainOut) (s : State), hasStack s st = true → getF s pgSec F.SEC_BOOT_STATE = 3 →
    let c := pgCal s.member st
    let x := s.stack st
    let keep := getF s (pgStk s.member st) F.STK_SRCTL_KEEP_EFF
    let checks := r.check.filter (· < 2048)
    let wires := wireTraining s st r
    let tsv := tsvTraining wires.2 st (poweredDies s st) r.tsv
    let fresh : Prop := x.trained = false ∧ x.trainFailed = false ∧ x.coded = false
      ∧ nextToTrain s (s.member.stackDie st) = some st ∧ (srState s st = 0 ∨ srState s st = 2)
    -- no request waits at an intake of the stack
    let clear : Prop := ∀ ch, ch < 32 → (s.chan st ch).blocked = []
    -- the stack has left TEST, and the next of its die is in it
    let leaves (t : State) : Prop := getF t c F.CAL_TRCTL_TEST = 0
      ∧ ∀ k, nextToTrain t (s.member.stackDie st) = some k → getF t (pgCal s.member k) F.CAL_TRCTL_TEST = 1
    -- its codes are those that the windows give
    let coded (t y : State) : Prop := (t.stack st).wires = (y.stack st).wires ∧ (t.stack st).tsv = (y.stack st).tsv
      ∧ (t.stack st).cmdDly = (y.stack st).cmdDly
    let zeroed (t : State) : Prop := (∀ a, mget t.mem a = if a / 2 ^ 36 = st then 0 else mget s.mem a)
      ∧ (∀ n, n / 2 ^ 30 = st → t.poison.contains n = false)
    let test := (List.range s.member.stackCount).map (fun k => pgCal s.member k + 0x80)
    let passes (t : State) : Prop := (t.stack st).trained = true ∧ getF t c F.CAL_TRSTAT_RESULT = 1
      ∧ keepsRegs ((c + 0x88) :: test) s t ∧ keepsStacksBut st s t
    let fails (ch w : Nat) (t : State) : Prop := (t.stack st).trainFailed = true ∧ (t.stack st).trained = false
      ∧ getF t c F.CAL_TRSTAT_RESULT = 2 ∧ getF t c F.CAL_TRSTAT_FAIL_CHANNEL = ch ∧ getF t c F.CAL_TRSTAT_FAIL_WIRE = w
      ∧ bitOf (t.reg (c + 0x20)) 0x12 = true ∧ keepsStacksBut st s t
    (fresh → clear → (srState s st = 0 ∨ keep ≠ 0) → firstRejected wires.1 tsv.1 checks = none →
      ∃ t, exec (.stackTrained st r) s = .next t ∧ passes t ∧ leaves t ∧ coded t tsv.2
        ∧ (x.bootHeld = false → zeroed t ∧ (t.stack st).passOn = true)
        ∧ (x.bootHeld = true → t.mem = s.mem ∧ t.poison = s.poison))
    ∧ (∀ ch w, fresh → clear → (srState s st = 0 ∨ keep ≠ 0) → firstRejected wires.1 tsv.1 checks = some (ch, w) →
      ∃ t, exec (.stackTrained st r) s = .next t ∧ fails ch w t ∧ leaves t ∧ coded t tsv.2)
    -- a held stack that keeps nothing: its wires, then the way out of self-refresh, then its check
    ∧ (fresh → clear → srState s st = 2 → keep = 0 → firstRejected wires.1 [] [] = none →
      ∃ t, exec (.stackTrained st r) s = .next t ∧ (t.stack st).coded = true ∧ (t.stack st).trained = false ∧ srState t st = 3
        ∧ leaves t ∧ coded t wires.2 ∧ t.mem = s.mem)
    ∧ (∀ ch w, fresh → clear → srState s st = 2 → keep = 0 → firstRejected wires.1 [] [] = some (ch, w) →
      ∃ t, exec (.stackTrained st r) s = .next t ∧ fails ch w t ∧ leaves t)
    ∧ (x.trained = false → x.trainFailed = false → x.coded = true → srState s st = 0 → clear → checks = [] →
      ∃ t, exec (.stackTrained st r) s = .next t ∧ passes t ∧ leaves t ∧ (x.bootHeld = true → t.mem = s.mem))
    ∧ ((x.trained = true ∨ x.trainFailed = true ∨ (x.coded = false ∧ nextToTrain s (s.member.stackDie st) ≠ some st)) →
      exec (.stackTrained st r) s = .next s)
    ∧ ((∀ j, j < s.member.stackCount → (s.stack j).trainFailed = false ∧ ((s.stack j).trained = true ∨ srState s j = 2)) →
      ∃ t, exec .memoryActive s = .next t ∧ memActive t = true ∧ getF t pgSec F.SEC_BOOT_STATE = 4 ∧ hasEvent t pgCxl 2 = true
        ∧ hasEvent t pgSec 0 = true ∧ t.board.sinceBoot = s.us ∧ Only (Parts.regs ||| Parts.board) s t)
    ∧ (x.trainFailed = true → exec .memoryActive s = .next s))

/-- BW_WRITE, SEC_ARB_WRITE, ARB_RAISE, OWNER_COMMIT, LEDG_CEILING and BW_COMMIT (R53, R498, R504, R506 to R511): a bounded write waits with its
writer and time; it is dropped with 0x1411 where the part key has failed, the low byte 05 where an earlier one of the register waits,
04 where no change is left, and the setting's own code where its value is refused; the oldest that has waited 10 ms is committed, uses
one change and is logged. -/
def Obligations.BoundedWrites : Prop :=
  ∀ (w : Writer) (v : W64) (ok : Bool) (s : State),
    let k := pgSec + 0x90
    let next := BitVec.ofNat 64 (arbVersion s + 1)
    let waits (x : BwPend) (t : State) : Prop := t = { s with bwq := s.bwq ++ [x] }
    let clear (off id : Nat) : Prop := getF s pgSec F.SEC_KEY_STATE ≠ 2 ∧ bwPending s off = false ∧ bwLeft s id 0 0 ≠ 0
    let hash := secWords s F.SEC_OWNER_STAGE
    let open_ : Prop := pageGated s (pageOf k) = false
    (fld v 0 7 = arbVersion s + 1 →
      (clear k 6 →
        (∃ t, exec (.secArbWrite w v) s = .next t ∧ waits ⟨k, 6, 0, 0, BitVec.ofNat 64 (fld v 0 7), writerNo w, s.us, []⟩ t)
        ∧ (open_ → ∃ t, exec (.bwWrite w k v) s = .next t ∧ waits ⟨k, 6, 0, 0, BitVec.ofNat 64 (fld v 0 7), writerNo w, s.us, []⟩ t))
      ∧ (getF s pgSec F.SEC_KEY_STATE = 2 → exec (.secArbWrite w v) s = .next (recordErr s pgSec 0x1411 0))
      ∧ (getF s pgSec F.SEC_KEY_STATE ≠ 2 → bwPending s k = true → exec (.secArbWrite w v) s = .next (recordErr s pgSec 0x1405 k))
      ∧ (getF s pgSec F.SEC_KEY_STATE ≠ 2 → bwPending s k = false → bwLeft s 6 0 0 = 0 →
          exec (.secArbWrite w v) s = .next (recordErr s pgSec 0x1404 k)))
    ∧ (fld v 0 7 ≠ arbVersion s + 1 → clear k 6 → exec (.secArbWrite w v) s = .next (recordErr s pgSec 0x1412 0))
    ∧ (clear k 6 → leadDown s = false → memActive s = true → 60000000 ≤ elapsed s s.board.sinceBoot → arbVersion s < getF s pgSec F.SEC_FW_SVN →
        ∃ t, exec .arbRaise s = .next t ∧ waits ⟨k, 6, 0, 0, next, 1, s.us, []⟩ t)
    ∧ (clear (pgSec + 0xA0) 2 → bitOf v 0 = true → hash ≠ ownerHash s →
      ((ownerSet s = false ∨ ok = true) →
        ∃ t, exec (.ownerCommit w v ok) s = .next t ∧ waits ⟨pgSec + 0xA0, 2, 0, 0, 0, writerNo w, s.us, hash⟩ t)
      ∧ (ownerSet s = true → ok = false → exec (.ownerCommit w v ok) s = .next (recordErr s pgSec 0x1413 0)))
    ∧ (clear (pgLedg + 0x88) 1 → BitVec.ofNat 64 (fld v 0 2) ≠ bwVal s (pgLedg + 0x88) →
        ∃ t, exec (.ledgCeiling w v) s = .next t
          ∧ waits ⟨pgLedg + 0x88, 1, 0, 0, BitVec.ofNat 64 (fld v 0 2), writerNo w, s.us, []⟩ t)
    ∧ (∀ p rest, s.bwq = p :: rest →
      (10000 ≤ elapsed s p.us → (p.id = 1 ∨ p.id = 2 ∨ p.id = 6) →
        ∃ t, exec .bwCommit s = .next t ∧ t.bwq = rest ∧ (∃ l, t.flash.log = s.flash.log ++ [l])
          ∧ bwUsed t p.id p.stack p.entry = bwUsed s p.id p.stack p.entry + 1 ∧ hasEvent t pgSec 2 = true
          ∧ (p.id ≠ 2 → bwVal t p.off = p.value) ∧ (p.id = 2 → t.flash.owner = p.hash ∧ hasEvent t pgSec 3 = true)
          ∧ (p.id = 6 → hasEvent t pgSec 4 = true))
      ∧ (elapsed s p.us < 10000 → exec .bwCommit s = .next s))

/-- MAIN_INPUT_REMOVAL, MAIN_INPUT_APPLIED, AUX_INPUT_CHANGE, JUNCTION_PROTECTION, SIDEBAND_SENSOR_REPORT and SIDEBAND_REQUEST (R484, R519 to
R522, R526): without main power the part loses everything but its flash and PWR_OK falls; with it PWR_OK rises and part time begins; a
junction at 120 °C takes main power away; the sideband, which needs auxiliary power, reports the readings and the module's record. -/
def Obligations.ModuleInputs : Prop :=
  ∀ (why : Removal) (b : BootIn) (on : Bool) (die reading mv ma aux cool : Nat) (js : List Nat) (s : State),
    let off (t : State) : Prop := t.board.mainOn = false ∧ t.mem = [] ∧ t.regs = [] ∧ t.us = 0 ∧ t.flash = s.flash
      ∧ t.out = s.out ++ [.pwrOk false] ++ (if s.board.auxOn then [.pldmEvent 3] else [])
    (s.board.mainOn = true → ∃ t, exec (.mainInputRemoval why) s = .next t ∧ off t ∧ (why = .pwrdis → t.board.pwrdis = true))
    ∧ (s.board.mainOn = false → s.board.perst = true →
        ∃ t, exec (.mainInputApplied b) s = .next t ∧ t.board.mainOn = true ∧ t.board.pwrdis = false ∧ t.us = 0
          ∧ t.out = s.out ++ [.pwrOk true] ∧ Only (Parts.board ||| Parts.us ||| Parts.out) s t)
    ∧ (s.board.mainOn = true → exec (.mainInputApplied b) s = .next s)
    ∧ exec (.auxInputChange on) s = .next { s with board := { s.board with auxOn := on } }
    ∧ (hasDie s die = true → 120 ≤ reading → s.board.mainOn = true →
        ∃ t, exec (.junctionProtection die reading) s = .next t ∧ off t ∧ die ∈ t.board.protectedBy)
    ∧ (hasDie s die = true → reading < 120 → exec (.junctionProtection die reading) s = .next s)
    ∧ (s.board.auxOn = true →
      (∃ t, exec (.sidebandSensorReport mv ma aux cool js) s = .next t
        ∧ t.out = s.out ++ [.sensors (sensorValues s mv ma aux cool js)] ∧ t.board.readings = sensorValues s mv ma aux cool js
        ∧ Only (Parts.board ||| Parts.out) s t)
      ∧ (∃ t, exec (.sidebandRequest .monitoring) s = .next t ∧ t.out = s.out ++ [.sensors s.board.readings] ∧ Only Parts.out s t)
      ∧ (∃ t, exec (.sidebandRequest .fru) s = .next t
        ∧ t.out = s.out ++ [.fru (memberNo s.member) s.flash.serial (getF s pgSec F.SEC_FW_VERSION)] ∧ Only Parts.out s t))
    ∧ (s.board.auxOn = false → exec (.sidebandSensorReport mv ma aux cool js) s = .next s
        ∧ ∀ r, exec (.sidebandRequest r) s = .next s)

/-- LEDGER_TICK (R290, R294, R305, R458, R461, R463): each microsecond the account gains the class power, loses the energy of the
microsecond in whole µJ, the rest being carried over, and never exceeds its depth (its register holds it in 64 bits); at zero or
less hard throttling begins, and it ends at the recovery level. Then the oldest descriptor command and allocation request that wait
are performed and a table that is UNPUBLISHING reads EMPTY: that these happen at the tick is the model's choice (log entry 3). Under
PERST# part time alone runs, and without main power nothing does (DEDUCED, log 20). RAIL_REPORT, CALIBRATION and LEDG_CLASS_WRITE
(R460, R462, R478): a report adds to its rail's measured energy; a calibration shows measured and estimated power, rescales every
rail and starts both sums anew; a class up to the ceiling takes effect at once, with the balance clipped to its depth, or waits for
the end of the plan; one above it records 0x0F10. -/
def Obligations.LedgerAndCalibration : Prop :=
  (∀ s : State,
    let held : Prop := ∃ p, (s.port p).held ≠ []
    let tables : Prop := ∃ n, n < 32 ∧ ((s.otab n).state = 1 ∨ (s.otab n).state = 3)
    let plan : Prop := ∃ f ∈ s.fetches, f.user = 0
    (s.board.mainOn = true → s.board.perst = false →
      let u := staticEnergy (forEach (planClock { s with us := s.us + 1 }) (List.range s.member.stackCount) clearing)
      let e := s.ledger.restFj + u.ledger.tickFj
      let b := sgn 64 (unsgn 64 (min (depthNow s : Int) (balance s + (classW s.member (classNow s) : Nat) - ((e / 10 ^ 9 : Nat) : Int))))
      let x := tick s
      exec .ledgerTick s = .next (blockTick x) ∧ x.us = s.us + 1 ∧ balance x = b ∧ x.ledger.restFj = e % 10 ^ 9 ∧ x.ledger.tickFj = 0
        ∧ (hardNow s = false → b ≤ 0 → hardNow x = true ∧ hasEvent x pgLedg 0 = true ∧ getF x pgLedg F.LEDG_TIGHT_TDIV_MAX = 4)
        ∧ (hardNow s = false → 0 < b → hardNow x = false)
        ∧ (hardNow s = true → hardNow x = decide (b * 100 < (depthNow s * getF s pgLedg F.LEDG_THRESH_RECOVER_PCT : Nat)))
        ∧ Only (Parts.regs ||| Parts.ledger ||| Parts.us ||| Parts.drawn) s x
        -- what waits in the blocks goes on
        ∧ (¬held → ¬tables → ¬plan → s.descQ = [] → s.allocQ = [] → exec .ledgerTick s = .next x)
        ∧ (∀ slot op h l, ¬held → ¬tables → ¬plan → s.descQ = (slot, op, h) :: l → s.allocQ = [] →
            exec .ledgerTick s = .next (descDo { x with descQ := l } slot op h))
        ∧ (∀ slot l, ¬held → ¬tables → ¬plan → s.descQ = [] → s.allocQ = slot :: l →
            exec .ledgerTick s = .next (allocDo { x with allocQ := l } slot))
        ∧ (∀ n, n < 32 → (s.otab n).state = 3 → (∀ j, j < 32 → (s.otab j).state ≠ 1) → ¬held → ¬plan → s.descQ = [] → s.allocQ = [] →
            ∃ t, exec .ledgerTick s = .next t ∧ (t.otab n).state = 0 ∧ hasEvent t pgOwn 2 = true
              ∧ Only (Parts.regs ||| Parts.ledger ||| Parts.us ||| Parts.drawn ||| Parts.otabs) s t))
    ∧ (s.board.mainOn = true → s.board.perst = true → exec .ledgerTick s = .next { s with us := s.us + 1 })
    ∧ (s.board.mainOn = false → exec .ledgerTick s = .next s))
  ∧ (∀ (w : Writer) (d r mA mV : Nat) (v : W64) (s : State), hasDie s d = true → r < rails s.member d →
    let p := pgPwr d
    let k := d * 8 + r
    let meas := tget 0 s.ledger.railMeas k
    let est := tget 0 s.ledger.railEst k
    let c := fld v 0 2
    (∃ t, exec (.railReport d r mA mV) s = .next t ∧ tget 0 t.ledger.railMeas k = meas + mA * mV * 10 ^ 6
      ∧ (∀ j, j ≠ k → tget 0 t.ledger.railMeas j = tget 0 s.ledger.railMeas j) ∧ Only Parts.ledger s t)
    ∧ (∃ t, exec (.calibration d) s = .next t
      ∧ getF t p F.PWR_RAIL_SCALE r = min (newScale (getF s p F.PWR_RAIL_SCALE r) meas est) 65535
      ∧ getF t p F.PWR_RAIL_MEASURED_W r = min (meas / 10 ^ 13) 65535 ∧ getF t p F.PWR_RAIL_ESTIMATED_W r = min (est / 10 ^ 13) 65535
      ∧ tget 0 t.ledger.railMeas k = 0 ∧ tget 0 t.ledger.railEst k = 0
      ∧ getF t p F.PWR_CALSTAT_CALS = min (getF s p F.PWR_CALSTAT_CALS + 1) (2 ^ 32 - 1)
      ∧ Only (Parts.regs ||| Parts.ledger) s t)
    ∧ (c ≤ fld (bwVal s (pgLedg + 0x88)) 0 2 →
      (s.armed = none → s.running = none → c ≠ classNow s → (-(2 ^ 62) : Int) ≤ balance s →
        ∃ t, exec (.ledgClassWrite w v) s = .next t ∧ classNow t = c ∧ balance t = min (balance s) (classDepth s.member c : Int)
          ∧ getF t pgLedg F.LEDG_CLASS_PEND_VALID = 0 ∧ hasEvent t pgLedg 4 = true ∧ Only Parts.regs s t)
      ∧ ((s.armed ≠ none ∨ s.running ≠ none) →
        ∃ t, exec (.ledgClassWrite w v) s = .next t ∧ classNow t = classNow s ∧ getF t pgLedg F.LEDG_CLASS_PENDING = c
          ∧ getF t pgLedg F.LEDG_CLASS_PEND_VALID = 1 ∧ hasEvent t pgLedg 2 = true ∧ balance t = balance s ∧ Only Parts.regs s t))
    ∧ (fld (bwVal s (pgLedg + 0x88)) 0 2 < c → exec (.ledgClassWrite w v) s = .next (recordErr s pgLedg 0x0F10 0)))

/-- PLAN_SUBMIT and PLAN_CANCEL (R42, R465 to R470, R477), for a plan of one FIXED item: with a sound header and item in DRAM, a
deadline within PLAN_CFG that the item's duration meets, and energy in the account for it, the plan is armed and its worst case
shown; where memory cannot serve the fetch now, or the lead core is down, RESULT.BUSY reads 1 and the command waits; a second plan
is refused with 0x1045; a cancel withdraws the armed plan. PLAN_END and PLAN_OVERRUN (R471, R473): a running plan whose end has
happened leaves PLAN_LAST with status 1 and its slack, or 2 where the clock has passed the deadline; one that reaches its deadline
before its end records 0x1010 and is fault cause 4. -/
def Obligations.Plans : Prop :=
  (∀ (w : Writer) (s : State), faulted s = false →
    let src := getF s pgPlan F.PLAN_SRC
    let h := leWords (mread s.mem src 64)
    let x := leWords (mread s.mem (src + 64) 32)
    let id := fld (h.getD 0 0) 16 16
    let deadline := fld (h.getD 1 0) 0 40
    let ps := Nat.max 1 (fld (x.getD 3 0) 32 16) * fld (x.getD 1 0) 0 40 * 1000
    let fj := Nat.max (fld (x.getD 3 0) 0 32 * 10 ^ 9) (fld (h.getD 2 0) 0 48 * 10 ^ 9)
    let sound (k : Nat) : Prop := tget [] s.flips k = [] ∧ k ∉ s.poison ∧ fetchClear s 0x3000 k = true
    let up : Prop := leadDown s = false
    (up → s.armed = none → src % 64 = 0 → planPlace s src 64 = true → planPlace s (src + 64) 32 = true → sound (src / 64) →
      sound (src / 64 + 1) → planHeaderOk h = true → fld (h.getD 0 0) 0 11 = 1 → itemOk s 0 x = true → fld (x.getD 0 0) 0 4 = 5 →
      deadline ≠ 0 → deadline ≤ getF s pgPlan F.PLAN_CFG_MAX_DEADLINE_MS * 10 ^ 6 → ps ≤ deadline * 1000 →
      (fld (x.getD 0 0) 32 32 = 0 ∨ ps ≤ fld (x.getD 0 0) 32 32 * 1000) →
      (predUj s (fld (x.getD 3 0) 0 32 * 10 ^ 9) ps : Int) ≤ planB0 s + (planPower s * ps / 10 ^ 6 : Nat) →
      ∃ t p, exec (.planSubmit w) s = .next t ∧ t.armed = some p ∧ p.id = id ∧ p.deadline = deadline ∧ p.pred = predUj s fj ps
        ∧ getF t pgPlan F.PLAN_RESULT_CODE = 0 ∧ getF t pgPlan F.PLAN_RESULT_DONE = 1 ∧ getF t pgPlan F.PLAN_RESULT_PLAN_ID = id
        ∧ getF t pgPlan F.PLAN_SLOTS_ARMED = 1 ∧ getF t pgPlan F.PLAN_SLOTS_ARMED_ID = id
        ∧ getF t pgPlan F.PLAN_WORST_NS = ceilDiv ps 1000 % 2 ^ 40 ∧ hasEvent t pgPlan 0 = true
        ∧ getF t pgPlan F.PLAN_COUNT_ACCEPTED = min (getF s pgPlan F.PLAN_COUNT_ACCEPTED + 1) (2 ^ 32 - 1)
        ∧ Only (Parts.regs ||| Parts.armed ||| Parts.fetches ||| Parts.nextFetch) s t)
    ∧ (up → s.armed = none → src % 64 = 0 → planPlace s src 64 = true → fetchClear s 0x3000 (src / 64) = false →
      ∃ t, exec (.planSubmit w) s = .next t ∧ t.armed = none ∧ getF t pgPlan F.PLAN_RESULT_BUSY = 1
        ∧ getF t pgPlan F.PLAN_RESULT_DONE = 0 ∧ getF t pgPlan F.PLAN_CMD_OP = 0 ∧ ∃ f ∈ t.fetches, f.user = 0 ∧ f.pa = src ∧ f.n = 64)
    ∧ (leadDown s = true →
      ∃ t, exec (.planSubmit w) s = .next t ∧ getF t pgPlan F.PLAN_RESULT_BUSY = 1 ∧ getF t pgPlan F.PLAN_RESULT_DONE = 0
        ∧ onlyRegs [pgPlan + 0x88, pgPlan + 0x90] s t)
    ∧ (up → s.armed ≠ none →
      ∃ t, exec (.planSubmit w) s = .next t ∧ t.armed = s.armed ∧ getF t pgPlan F.PLAN_RESULT_CODE = 0x1045
        ∧ getF t pgPlan F.PLAN_RESULT_DONE = 1 ∧ hasEvent t pgPlan 1 = true
        ∧ Only (Parts.regs ||| Parts.fetches) s t)
    ∧ (∀ p, up → s.armed = some p →
      ∃ t, exec (.planCancel w) s = .next t ∧ t.armed = none ∧ t.running = s.running ∧ getF t pgPlan F.PLAN_SLOTS_ARMED = 0
        ∧ getF t pgPlan F.PLAN_RESULT_CODE = 0 ∧ getF t pgPlan F.PLAN_RESULT_DONE = 1
        ∧ getF t pgPlan F.PLAN_RESULT_PLAN_ID = p.id % 2 ^ 16))
  ∧ (∀ (p : Plan) (s : State), s.running = some p →
    let clock := getF s pgPlan F.PLAN_CLOCK_NS
    (p.ended = true →
      ∃ t, exec .planEnd s = .next t ∧ t.running = none ∧ t.armed = s.armed ∧ hasEvent t pgPlan 3 = true
        ∧ getF t pgPlan F.PLAN_LAST_STATUS = (if clock ≤ p.deadline then 1 else 2)
        ∧ getF t pgPlan F.PLAN_LAST_SLACK_NS = (p.deadline - clock) % 2 ^ 40
        ∧ getF t pgPlan F.PLAN_SLOTS_RUN_STATE = 0 ∧ getF t pgPlan F.PLAN_CLOCK_NS = 0)
    ∧ (p.ended = false → exec .planEnd s = .next s)
    ∧ (p.deadline ≤ clock → getF s pgPlan F.PLAN_SLOTS_RUN_STATE = 1 → p.ended = false → (∀ c ∈ s.causes, c.cause ≠ 4) →
      ∃ t, exec .planOverrun s = .next t ∧ t.causes = s.causes ++ [⟨4, 0, 0x10, 0, 0x1010, p.id⟩]
        ∧ bitOf (t.reg (pgPlan + 0x20)) 0x10 = true ∧ t.running = s.running ∧ Only (Parts.regs ||| Parts.causes) s t)
    ∧ ((clock < p.deadline ∨ p.ended = true) → exec .planOverrun s = .next s))

/-- FAULT_ENTRY, SECONDARY_FAULT and FAULT_RECORD (R479 to R481, R485): the first cause that reaches die 0 puts every die into
FAULTED, ends the running plan and starts a record; a later one is counted in the record and recorded as 0x1813; the record then
shows in FLT_REC and joins the history. JOB_RESET and RESET_DONE (R433, R483): the reset is shown on every die while it runs, and a
second one is refused; once every channel is back in memory mode it clears the work of the job, leaves DRAM and the flash as they
were, and the part runs again. -/
def Obligations.FaultsAndJobResets : Prop :=
  (∀ (d cause : Nat) (s : State), hasDie s d = true →
    let g := pgFlt 0
    (∀ c, pendingCause s d cause = some c → halted s = false →
      ∃ t, exec (.faultEntry d cause) s = .next t ∧ t.entry = some (faultWords s c s.entries) ∧ t.entries = s.entries + 1
        ∧ (∀ e, e < s.member.dies → getF t (pgFlt e) F.FLT_FSTAT_FAULTED = 1 ∧ hasEvent t (pgFlt e) 0 = true
            ∧ getF t (pgFlt e) F.FLT_FSTAT_ENTRIES = min (getF s (pgFlt e) F.FLT_FSTAT_ENTRIES + 1) (2 ^ 32 - 1))
        ∧ t.running = none
        ∧ ∃ l, t.out = l ++ (if s.board.auxOn then [.pldmEvent 0] else []))
    ∧ ((pendingCause s d cause = none ∨ halted s = true) → exec (.faultEntry d cause) s = .next s)
    ∧ (∀ c l, pendingCause s d cause = some c → faulted s = true → resetting s = false → s.entry = some l →
      ∃ t, exec (.secondaryFault d cause) s = .next t ∧ t.causes = s.causes.erase c ∧ t.entry = some (addSecondary cause l)
        ∧ t.entries = s.entries ∧ bitOf (t.reg (g + 0x20)) 0x13 = true ∧ faulted t = true
        ∧ getF t g F.FLT_FSTAT_SECONDARY = min (getF s g F.FLT_FSTAT_SECONDARY + 1) (2 ^ 16 - 1))
    ∧ (∀ c, pendingCause s d cause = some c → faulted s = true → resetting s = false → s.entry = none →
      let l := addSecondary cause ((List.range 8).map (fun k => BitVec.ofNat 64 (getF s g F.FLT_REC k)))
      ∃ t, exec (.secondaryFault d cause) s = .next t ∧ t.causes = s.causes.erase c ∧ t.entry = none
        ∧ (∀ k, k < 8 → getF t g F.FLT_REC k = (l.getD k 0).toNat) ∧ tget [] t.history ((s.entries - 1) % 256) = l
        ∧ bitOf (t.reg (g + 0x20)) 0x13 = true ∧ faulted t = true)
    ∧ ((pendingCause s d cause = none ∨ faulted s = false ∨ resetting s = true) → exec (.secondaryFault d cause) s = .next s)
    ∧ (∀ l, s.entry = some l → l.length = 8 →
      ∃ t, exec .faultRecord s = .next t ∧ t.entry = none ∧ (∀ k, k < 8 → getF t g F.FLT_REC k = (l.getD k 0).toNat)
        ∧ tget [] t.history ((s.entries - 1) % 256) = l
        ∧ (∀ j, j ≠ (s.entries - 1) % 256 → tget [] t.history j = tget [] s.history j)
        ∧ Only (Parts.regs ||| Parts.entry ||| Parts.history) s t)
    ∧ (s.entry = none → exec .faultRecord s = .next s))
  ∧ (∀ (w : Writer) (v : W64) (s : State), bitOf v 0 = true →
    (resetting s = false → faulted s = true →
      ∃ t, exec (.jobReset w v) s = .next t ∧ t.clearDesc = bitOf v 1 ∧ faulted t = true
        ∧ (∀ e, e < s.member.dies → getF t (pgFlt e) F.FLT_FSTAT_RESETTING = 1)
        ∧ ((∀ st ch, (s.chan st ch).held = []) →
            Only (Parts.regs ||| Parts.clearDesc ||| Parts.chans) s t ∧ ∀ st ch, t.chan st ch = s.chan st ch))
    ∧ (resetting s = false → faulted s = false →
      ∃ t, exec (.jobReset w v) s = .next t ∧ t.clearDesc = bitOf v 1 ∧ resetting t = true ∧ t.running = none)
    ∧ (resetting s = true → exec (.jobReset w v) s = .next (refusal s (pgFlt 0)))
    ∧ (resetting s = true → allStopped s = true →
      ∃ t, exec .resetDone s = .next t ∧ t.clearDesc = false ∧ t.mem = s.mem ∧ t.poison = s.poison ∧ t.imem = s.imem
        ∧ t.flash = s.flash ∧ t.history = s.history)
    -- what an isolated requester holds back goes on at the end of the reset; with nothing of the kind, all is at rest
    ∧ (resetting s = true → allStopped s = true → (∀ st ch, (s.chan st ch).stalled = []) → s.cxl.unsent = [] →
      ∃ t, exec .resetDone s = .next t ∧ halted t = false ∧ hasEvent t (pgFlt 0) 1 = true ∧ t.units = [] ∧ t.sync = [] ∧ t.otabs = []
        ∧ t.armed = none ∧ t.running = none ∧ t.inPkts = [] ∧ t.outReqs = [] ∧ t.descQ = [] ∧ t.allocQ = [] ∧ t.clearDesc = false
        ∧ (∀ k, (t.tile k).sram = [] ∧ (t.tile k).run = none ∧ (t.tile k).zeroing = !(t.tile k).gated
            ∧ (t.tile k).store = (s.tile k).store ∧ (t.tile k).mx = emptied (t.tile k).mx ∧ (t.tile k).ves = emptied (t.tile k).ves))
    ∧ ((resetting s = false ∨ allStopped s = false) → exec .resetDone s = .next s))

/-- CHECKPOINT_FENCE, FENCE_DONE and FENCE_RELEASE_WRITE (R121, R488): GO holds the lead's fetch and reads FENCE_STATE 1; once the
part has drained the parity caches are flushed, and when no flush runs any more the fence ends with result 1, or holds in state 2
until its release; in FAULTED it flushes the caches alone, and one that FAULTED interrupts ends with result 2; a second GO is
refused. WDOG_KICK, WDOG_EXPIRED, CORE_RESTART_DONE and RECCLR (R486, R489, R499, R500): a kick restarts the watchdog's time; one
not kicked for its timeout is fault cause 5 and restarts its core; the restarted core runs on its copy, and the lead's then takes
the planner command that waited, or it stops with 0x1415 where its copy fails; a record is cleared outside FAULTED only. -/
def Obligations.FencesAndWatchdogs : Prop :=
  (∀ (w : Writer) (v : W64) (s : State),
    let g := pgFlt 0
    let go := getF s g F.FLT_FENCE_GO = 1
    let pcs := (List.range s.member.stackCount).map (fun st => pgEcc s.member st + 0xB0)
    let begun (t : State) : Prop := fenceState t = 1 ∧ getF t g F.FLT_FENCE_RESULT = 0 ∧ getF t g F.FLT_FENCE_HOLD = b2n (bitOf v 1)
    let held (t : State) : Prop := t.seq 0 = { s.seq 0 with fenceHold := true } ∧ keepsSeqsBut 0 s t
    -- the flushes have begun: every stack with dirty lines reads FLUSHING
    let flushes (t : State) : Prop := t.fenceFlushed = true
      ∧ ∀ st, st < s.member.stackCount → flushing t st = (flushing s st || decide (dirtyMax s st ≠ 0))
    (bitOf v 0 = true → bitOf v 2 = false → fenceState s = 0 → s.fenceFlushed = false →
      (faulted s = false → fenceDrained s = false →
        ∃ t, exec (.checkpointFence w v) s = .next t ∧ begun t ∧ held t ∧ t.fenceFlushed = false
          ∧ keepsRegs [g + 0x80, g + 0x90] s t ∧ Only (Parts.regs ||| Parts.seqs) s t)
      ∧ (faulted s = false → fenceDrained s = true →
        ∃ t, exec (.checkpointFence w v) s = .next t ∧ begun t ∧ held t ∧ flushes t
          ∧ keepsRegs ([g + 0x80, g + 0x90] ++ pcs) s t ∧ Only (Parts.regs ||| Parts.seqs ||| Parts.fenceFlushed) s t)
      ∧ (faulted s = true →
        ∃ t, exec (.checkpointFence w v) s = .next t ∧ begun t ∧ flushes t
          ∧ keepsRegs ([g + 0x80, g + 0x90] ++ pcs) s t ∧ Only (Parts.regs ||| Parts.fenceFlushed) s t))
    ∧ (bitOf v 0 = true → fenceState s = 1 → exec (.checkpointFence w v) s = .next (refusal s g))
    ∧ (fenceState s = 1 → s.fenceFlushed = true → (∀ st, st < s.member.stackCount → flushing s st = false) → (go → faulted s = false) →
      ∃ t, exec .fenceDone s = .next t ∧ getF t g F.FLT_FENCE_RESULT = 1 ∧ hasEvent t g 2 = true
        ∧ fenceState t = (if getF s g F.FLT_FENCE_HOLD = 1 then 2 else 0)
        ∧ (t.seq 0).fenceHold = decide (getF s g F.FLT_FENCE_HOLD = 1 ∧ go) ∧ t.fenceFlushed = false
        ∧ keepsRegs [g + 0x80, g + 0x90, g + 0x40] s t ∧ Only (Parts.regs ||| Parts.seqs ||| Parts.fenceFlushed) s t)
    ∧ (fenceState s = 1 → s.fenceFlushed = true → (∀ st, st < s.member.stackCount → flushing s st = false) → go → faulted s = true →
      ∃ t, exec .fenceDone s = .next t ∧ getF t g F.FLT_FENCE_RESULT = 2 ∧ fenceState t = 0 ∧ (t.seq 0).fenceHold = false
        ∧ keepsRegs [g + 0x80, g + 0x90] s t)
    ∧ (fenceState s = 1 → s.fenceFlushed = false → go → faulted s = false → fenceDrained s = false → exec .fenceDone s = .next s)
    ∧ (∀ st, fenceState s = 1 → s.fenceFlushed = true → st < s.member.stackCount → flushing s st = true → exec .fenceDone s = .next s)
    ∧ (∀ st, fenceState s = 1 → s.fenceFlushed = false → go → faulted s = false → fenceDrained s = true → st < s.member.stackCount →
        dirtyMax s st ≠ 0 → ∃ t, exec .fenceDone s = .next t ∧ fenceState t = 1 ∧ flushes t)
    ∧ (bitOf v 2 = true → bitOf v 0 = false → fenceState s = 2 →
      ∃ t, exec (.fenceReleaseWrite w v) s = .next t ∧ fenceState t = 0 ∧ t.seq 0 = { s.seq 0 with fenceHold := false }
        ∧ keepsSeqsBut 0 s t ∧ keepsRegs [g + 0x80] s t ∧ Only (Parts.regs ||| Parts.seqs) s t))
  ∧ (∀ (w : Writer) (d : Nat) (v : W64) (s : State), hasDie s d = true →
    let g := pgFlt d
    (∃ t, exec (.wdogKick w d v) s = .next t ∧ getF t g F.FLT_WDOG_TIMEOUT_MS = fld v 0 16
      ∧ tget 0 t.kicks d = (if bitOf v 16 then s.us else tget 0 s.kicks d) ∧ keepsRegs [g + 0x98] s t
      ∧ Only (Parts.regs ||| Parts.kicks) s t)
    ∧ (d ∉ s.restarting → d + 8 ∉ s.restarting →
        Nat.max 1 (getF s g F.FLT_WDOG_TIMEOUT_MS) * 1000 ≤ elapsed s (tget 0 s.kicks d) →
      ∃ t, exec (.wdogExpired d) s = .next t ∧ d ∈ t.restarting ∧ t.causes = s.causes ++ [⟨5, d, 0x01, 0, 0x1811, 0⟩]
        ∧ getF t g F.FLT_WDOG_EXPIRIES = min (getF s g F.FLT_WDOG_EXPIRIES + 1) (2 ^ 32 - 1) ∧ hasEvent t g 3 = true
        ∧ t.cxl.transfer = none ∧ t.board.sinceBoot = s.us)
    ∧ (elapsed s (tget 0 s.kicks d) < Nat.max 1 (getF s g F.FLT_WDOG_TIMEOUT_MS) * 1000 → exec (.wdogExpired d) s = .next s)
    ∧ (d ∈ s.restarting →
      ((d ≠ 0 ∨ getF s pgPlan F.PLAN_RESULT_BUSY = 0) →
        ∃ t, exec (.coreRestartDone d true) s = .next t ∧ d ∉ t.restarting ∧ tget 0 t.kicks d = s.us ∧ t.causes = s.causes
          ∧ tget {} t.uzoids d = startCore (tget {} s.uzoids d)
          ∧ (∀ j, j ≠ d → tget {} t.uzoids j = tget {} s.uzoids j)
          ∧ Only (Parts.restarting ||| Parts.kicks ||| Parts.uzoids) s t)
      ∧ (d = 0 → getF s pgPlan F.PLAN_RESULT_BUSY = 1 →
          exec (.coreRestartDone d true) s
            = .next (planCmd (coreStarts { s with restarting := setPut s.restarting d false } d) (getF s pgPlan F.PLAN_CMD_OP)))
      ∧ ∃ t, exec (.coreRestartDone d false) s = .next t ∧ d ∉ t.restarting ∧ d + 8 ∈ t.restarting
        ∧ bitOf (t.reg (pgSec + 0x20)) 0x15 = true ∧ t.causes = s.causes ++ [⟨7, d, 0x14, 0, 0x1415, d⟩])
    ∧ (bitOf v 0 = true →
      (faulted s = false → ∃ t, exec (.recclr w d v) s = .next t ∧ (∀ k, k < 8 → getF t g F.FLT_REC k = 0)
        ∧ keepsRegs ((List.range 8).map (fun k => g + 0x100 + k * 8)) s t ∧ Only Parts.regs s t)
      ∧ (faulted s = true → exec (.recclr w d v) s = .next (recordErr s g 0x1805 (g + 0x140)))))

/-- FLT_ASSERT (R487): a write by the die's Uzoid core raises cause 7 with the written code; a write by any other writer, the host's among
them, is dropped with 0x1805. (A written code of 0 stands for 0x1812, R490; the instance and tag are those of the recorded error, R485.) -/
def Obligations.CoreAssertions : Prop :=
  ∀ (w : Writer) (d : Nat) (v : W64) (s : State), hasDie s d = true →
    let code := if fld v 0 16 = 0 then 0x1812 else fld v 0 16
    (∃ t, exec (.fltAssert (.uzoid d) d v) s = .next t ∧ Only Parts.causes s t
      ∧ t.causes = s.causes ++ [⟨7, d, code / 256, (firstOf s d code).1, code, (firstOf s d code).2⟩])
    ∧ (w ≠ .uzoid d → exec (.fltAssert w d v) s = .next (recordErr s (pgFlt d) 0x1805 (pgFlt d + 0xA0)))
end

