-- ==== Sys2Proof/Laws/Bits.lean ====
section
/-! SUPPORT. Laws of the bit fields: what a field reads after it, or another field, is written. -/
namespace Sys2Proof.Machine

theorem b2n_lt (b : Bool) : b2n b < 2 := by cases b <;> decide

@[simp] theorem b2n_eq_one (b : Bool) : b2n b = 1 ↔ b = true := by cases b <;> decide
@[simp] theorem b2n_eq_zero (b : Bool) : b2n b = 0 ↔ b = false := by cases b <;> decide

theorem fld_lt (v : W64) (lo wid : Nat) : fld v lo wid < 2 ^ wid := Nat.mod_lt _ (Nat.two_pow_pos wid)

theorem fld_testBit (v : W64) (lo wid i : Nat) : (fld v lo wid).testBit i = (decide (i < wid) && v.getLsbD (lo + i)) := by
  unfold fld bits
  rw [Nat.testBit_mod_two_pow, Nat.testBit_div_two_pow, Nat.add_comm i lo]
  rfl

theorem withFld_getLsbD (v : W64) (lo wid x i : Nat) (hw : wid ≤ 64) :
    (withFld v lo wid x).getLsbD i =
      (decide (i < 64) && if lo ≤ i ∧ i < lo + wid then x.testBit (i - lo) else v.getLsbD i) := by
  unfold withFld
  simp only [BitVec.getLsbD_or, BitVec.getLsbD_and, BitVec.getLsbD_not, BitVec.getLsbD_shiftLeft, BitVec.getLsbD_ushiftRight,
    BitVec.getLsbD_allOnes, BitVec.getLsbD_ofNat, Nat.testBit_mod_two_pow]
  by_cases hi : i < 64
  · by_cases h1 : lo ≤ i
    · by_cases h2 : i < lo + wid
      · have a1 : 64 - wid + (i - lo) < 64 := by omega
        have a2 : i - lo < wid := by omega
        have a3 : i - lo < 64 := by omega
        have a4 : ¬ i < lo := by omega
        simp [hi, h1, h2, a1, a2, a3, a4]
      · have a1 : ¬ 64 - wid + (i - lo) < 64 := by omega
        have a2 : ¬ i - lo < wid := by omega
        simp [hi, h2, a1, a2]
    · have a4 : i < lo := by omega
      simp [hi, h1, a4]
  · have e : v.getLsbD i = false := BitVec.getLsbD_of_ge v i (by omega)
    simp [hi, e]

/-- A field reads what was written to it, cut to its width. -/
theorem fld_withFld_same (v : W64) (lo wid x : Nat) (h : lo + wid ≤ 64) : fld (withFld v lo wid x) lo wid = x % 2 ^ wid := by
  apply Nat.eq_of_testBit_eq
  intro i
  rw [fld_testBit, withFld_getLsbD _ _ _ _ _ (by omega), Nat.testBit_mod_two_pow]
  by_cases hi : i < wid
  · have a1 : lo + i < 64 := by omega
    simp [hi, a1]
  · simp [hi]

/-- A field keeps its value when a field that shares no bit with it is written. -/
theorem fld_withFld_disjoint (v : W64) (lo wid x lo' wid' : Nat) (hw : wid ≤ 64) (h : lo' + wid' ≤ lo ∨ lo + wid ≤ lo') :
    fld (withFld v lo wid x) lo' wid' = fld v lo' wid' := by
  apply Nat.eq_of_testBit_eq
  intro i
  rw [fld_testBit, fld_testBit, withFld_getLsbD _ _ _ _ _ hw]
  by_cases hi : i < wid'
  · have a1 : ¬ (lo ≤ lo' + i ∧ lo' + i < lo + wid) := by omega
    rw [if_neg a1]
    by_cases h2 : lo' + i < 64
    · simp [h2]
    · simp [h2, BitVec.getLsbD_of_ge v (lo' + i) (by omega)]
  · simp [hi]

theorem getLsbD_two_pow (n i : Nat) (h : n < 64) : (BitVec.ofNat 64 (2 ^ n)).getLsbD i = decide (i = n) := by
  rw [BitVec.getLsbD_ofNat, Nat.testBit_two_pow]
  by_cases hi : i = n
  · subst hi; simp [h]
  · have : ¬ n = i := fun e => hi e.symm
    simp [hi, this]

theorem bitOf_setBit_same (v : W64) (n : Nat) (h : n < 64) : bitOf (setBit v n) n = true := by
  unfold bitOf setBit; rw [BitVec.getLsbD_or, getLsbD_two_pow n n h]; simp

theorem bitOf_setBit_ne (v : W64) (n k : Nat) (h : n < 64) (hk : k ≠ n) : bitOf (setBit v n) k = bitOf v k := by
  unfold bitOf setBit; rw [BitVec.getLsbD_or, getLsbD_two_pow n k h]; simp [hk]

theorem bitOf_clrBit_same (v : W64) (n : Nat) (h : n < 64) : bitOf (clrBit v n) n = false := by
  unfold bitOf clrBit; rw [BitVec.getLsbD_and, BitVec.getLsbD_not, getLsbD_two_pow n n h]; simp

theorem bitOf_clrBit_ne (v : W64) (n k : Nat) (h : n < 64) (hk : k ≠ n) : bitOf (clrBit v n) k = bitOf v k := by
  unfold bitOf clrBit
  rw [BitVec.getLsbD_and, BitVec.getLsbD_not, getLsbD_two_pow n k h]
  by_cases h2 : k < 64
  · simp [hk, h2]
  · simp [hk, h2, BitVec.getLsbD_of_ge v k (by omega)]

theorem leBytes_length (n v : Nat) : (leBytes n v).length = n := by
  induction n generalizing v with
  | zero => rfl
  | succ n ih => simp [leBytes, ih]

/-- The bytes of a number hold the number, cut to their width. -/
theorem leNat_leBytes (n v : Nat) : leNat (leBytes n v) = v % 256 ^ n := by
  induction n generalizing v with
  | zero => simp [leBytes, leNat, Nat.mod_one]
  | succ n ih =>
    simp only [leBytes, leNat, ih, BitVec.toNat_ofNat]
    have e : 256 ^ (n + 1) = 256 * 256 ^ n := Nat.pow_succ'
    rw [e, Nat.mod_mul]

end Sys2Proof.Machine
end

