-- ==== Sys2Proof/Laws/Tbl.lean ====
section
/-! SUPPORT. Laws of the sparse tables: what is read after a write, and that every operation keeps the canonical form. -/
namespace Sys2Proof.Machine

section tables
variable {V : Type}

theorem tget_cons (d : V) (a : Nat) (b : V) (r : List (Nat × V)) (k : Nat) :
    tget d ((a, b) :: r) k = if a = k then b else tget d r k := rfl

theorem tget_tins_same (d : V) (k : Nat) (v : V) (t : List (Nat × V)) (h : ∀ p ∈ t, p.1 ≠ k) :
    tget d (tins k v t) k = v := by
  induction t with
  | nil => simp [tins, tget]
  | cons p r ih =>
    obtain ⟨a, b⟩ := p
    have ha : a ≠ k := h (a, b) (by simp)
    have hr : ∀ p ∈ r, p.1 ≠ k := fun p hp => h p (by simp [hp])
    simp only [tins]
    split
    · simp [tget]
    · simp [tget, ha, ih hr]

theorem tget_tins_ne (d : V) (k j : Nat) (v : V) (t : List (Nat × V)) (h : j ≠ k) :
    tget d (tins k v t) j = tget d t j := by
  induction t with
  | nil => simp [tins, tget, Ne.symm h]
  | cons p r ih =>
    obtain ⟨a, b⟩ := p
    simp only [tins]
    split
    · simp [tget, Ne.symm h]
    · simp only [tget, ih]

theorem tget_filter_true (d : V) (t : List (Nat × V)) (q : Nat × V → Bool) (j : Nat)
    (h : ∀ p ∈ t, p.1 = j → q p = true) : tget d (t.filter q) j = tget d t j := by
  induction t with
  | nil => rfl
  | cons p r ih =>
    obtain ⟨a, b⟩ := p
    have hr := ih (fun p hp => h p (by simp [hp]))
    by_cases hq : q (a, b) = true
    · simp only [List.filter_cons, hq, if_true, tget, hr]
    · have hne : a ≠ j := fun e => hq (h (a, b) (by simp) e)
      simp only [List.filter_cons, hq, tget, hne, if_false]
      simpa using hr

theorem tget_filter_false (d : V) (t : List (Nat × V)) (q : Nat × V → Bool) (j : Nat)
    (h : ∀ p ∈ t, p.1 = j → q p = false) : tget d (t.filter q) j = d := by
  induction t with
  | nil => rfl
  | cons p r ih =>
    obtain ⟨a, b⟩ := p
    have hr := ih (fun p hp => h p (by simp [hp]))
    by_cases hq : q (a, b) = true
    · have hne : a ≠ j := fun e => by simp [h (a, b) (by simp) e] at hq
      simp only [List.filter_cons, hq, if_true, tget, hne, if_false, hr]
    · simp only [List.filter_cons, hq]
      simpa using hr

theorem tget_terase_same (d : V) (k : Nat) (t : List (Nat × V)) : tget d (terase k t) k = d :=
  tget_filter_false d t _ k (by simp)

theorem tget_terase_ne (d : V) (k j : Nat) (t : List (Nat × V)) (h : j ≠ k) :
    tget d (terase k t) j = tget d t j :=
  tget_filter_true d t _ j (by intro p _ e; simp [e, h])

theorem mem_terase (k : Nat) (t : List (Nat × V)) (p : Nat × V) : p ∈ terase k t ↔ p ∈ t ∧ p.1 ≠ k := by
  simp [terase]

/-- A table read at the key that was set. -/
@[simp] theorem tget_tset_same [DecidableEq V] (d : V) (t : List (Nat × V)) (k : Nat) (v : V) :
    tget d (tset d t k v) k = v := by
  unfold tset
  split
  · rename_i h; rw [tget_terase_same, h]
  · exact tget_tins_same d k v _ (fun p hp => ((mem_terase k t p).1 hp).2)

/-- A table read at another key, whatever default the writer takes. -/
theorem tget_tset_ne [DecidableEq V] (d d' : V) (t : List (Nat × V)) (k j : Nat) (v : V) (h : j ≠ k) :
    tget d (tset d' t k v) j = tget d t j := by
  unfold tset
  split
  · exact tget_terase_ne d k j t h
  · rw [tget_tins_ne _ _ _ _ _ h, tget_terase_ne _ _ _ _ h]

@[simp] theorem tget_tupd_same [DecidableEq V] (d : V) (t : List (Nat × V)) (k : Nat) (f : V → V) :
    tget d (tupd d t k f) k = f (tget d t k) := by simp [tupd]

theorem tget_tupd_ne [DecidableEq V] (d d' : V) (t : List (Nat × V)) (k j : Nat) (f : V → V) (h : j ≠ k) :
    tget d (tupd d' t k f) j = tget d t j := tget_tset_ne d d' t k j _ h

theorem tget_tclr_in (d : V) (t : List (Nat × V)) (k n j : Nat) (h : k ≤ j) (h' : j < k + n) : tget d (tclr t k n) j = d := by
  apply tget_filter_false; intro p _ e; simp; omega

theorem tget_tclr_out (d : V) (t : List (Nat × V)) (k n j : Nat) (h : j < k ∨ k + n ≤ j) : tget d (tclr t k n) j = tget d t j := by
  apply tget_filter_true; intro p _ e; simp; omega

theorem tget_tsetAll_out [DecidableEq V] (d : V) (l : List V) (t : List (Nat × V)) (k j : Nat) (h : j < k ∨ k + l.length ≤ j) :
    tget d (tsetAll d t k l) j = tget d t j := by
  induction l generalizing t k with
  | nil => rfl
  | cons v r ih =>
    simp only [List.length_cons] at h
    simp only [tsetAll]
    rw [ih _ _ (by omega), tget_tset_ne _ _ _ _ _ _ (by omega)]

theorem tget_tsetAll_in [DecidableEq V] (d : V) (l : List V) (t : List (Nat × V)) (k i : Nat) (h : i < l.length) :
    tget d (tsetAll d t k l) (k + i) = l.getD i d := by
  induction l generalizing t k i with
  | nil => simp at h
  | cons v r ih =>
    simp only [tsetAll]
    cases i with
    | zero => rw [tget_tsetAll_out _ _ _ _ _ (by omega)]; simp
    | succ i =>
      have : k + (i + 1) = (k + 1) + i := by omega
      rw [this, ih _ _ _ (by simpa using h)]; simp

/-! ## Canonical form -/

/-- A key bound: every key of the table is greater. -/
theorem rising_cons {a : Nat} {b : V} {r : List (Nat × V)} :
    rising ((a, b) :: r) = true ↔ (∀ p ∈ r, a < p.1) ∧ rising r = true := by
  induction r generalizing a b with
  | nil => simp [rising]
  | cons p r ih =>
    obtain ⟨c, e⟩ := p
    have h := @ih c e
    have e2 : rising ((a, b) :: (c, e) :: r) = (decide (a < c) && rising ((c, e) :: r)) := rfl
    rw [e2, Bool.and_eq_true, decide_eq_true_eq]
    constructor
    · rintro ⟨h1, h2⟩
      refine ⟨?_, h2⟩
      intro p hp
      rcases List.mem_cons.1 hp with rfl | hp
      · exact h1
      · exact Nat.lt_trans h1 ((h.1 h2).1 p hp)
    · rintro ⟨h1, h2⟩
      exact ⟨h1 (c, e) (by simp), h2⟩

theorem rising_filter (t : List (Nat × V)) (q : Nat × V → Bool) (h : rising t = true) : rising (t.filter q) = true := by
  induction t with
  | nil => rfl
  | cons p r ih =>
    obtain ⟨a, b⟩ := p
    obtain ⟨h1, h2⟩ := rising_cons.1 h
    rw [List.filter_cons]
    split
    · exact rising_cons.2 ⟨fun p hp => h1 p (List.mem_filter.1 hp).1, ih h2⟩
    · exact ih h2

theorem mem_tins {k : Nat} {v : V} {t : List (Nat × V)} {p : Nat × V} : p ∈ tins k v t ↔ p = (k, v) ∨ p ∈ t := by
  induction t with
  | nil => simp [tins]
  | cons q r ih =>
    obtain ⟨a, b⟩ := q
    simp only [tins]
    split
    · simp
    · simp only [List.mem_cons, ih]; constructor
      · rintro (h | h | h) <;> simp [h]
      · rintro (h | h | h) <;> simp [h]

theorem rising_tins (k : Nat) (v : V) (t : List (Nat × V)) (h : rising t = true) (hk : ∀ p ∈ t, p.1 ≠ k) :
    rising (tins k v t) = true := by
  induction t with
  | nil => rfl
  | cons q r ih =>
    obtain ⟨a, b⟩ := q
    obtain ⟨h1, h2⟩ := rising_cons.1 h
    have hak : a ≠ k := hk (a, b) (by simp)
    simp only [tins]
    split
    · rename_i hlt
      refine rising_cons.2 ⟨?_, h⟩
      intro p hp
      rcases List.mem_cons.1 hp with rfl | hp
      · exact hlt
      · exact Nat.lt_trans hlt (h1 p hp)
    · rename_i hge
      refine rising_cons.2 ⟨?_, ih h2 (fun p hp => hk p (by simp [hp]))⟩
      intro p hp
      rcases mem_tins.1 hp with rfl | hp
      · simp only; omega
      · exact h1 p hp

theorem rising_map (t : List (Nat × V)) {W : Type} (g : Nat × V → Nat × W) (hg : ∀ p, (g p).1 = p.1) (h : rising t = true) :
    rising (t.map g) = true := by
  induction t with
  | nil => rfl
  | cons q r ih =>
    obtain ⟨a, b⟩ := q
    obtain ⟨h1, h2⟩ := rising_cons.1 h
    rw [List.map_cons]
    have e : g (a, b) = (a, (g (a, b)).2) := Prod.ext (hg (a, b)) rfl
    rw [e]
    refine rising_cons.2 ⟨?_, ih h2⟩
    intro p hp
    obtain ⟨q, hq, rfl⟩ := List.mem_map.1 hp
    rw [hg]; exact h1 q hq

theorem rising_terase (k : Nat) (t : List (Nat × V)) (h : rising t = true) : rising (terase k t) = true := rising_filter t _ h

theorem rising_tset [DecidableEq V] (d : V) (t : List (Nat × V)) (k : Nat) (v : V) (h : rising t = true) :
    rising (tset d t k v) = true := by
  unfold tset
  split
  · exact rising_terase k t h
  · exact rising_tins k v _ (rising_terase k t h) (fun p hp => ((mem_terase k t p).1 hp).2)

/-- What a table lists after a key is set. -/
theorem mem_tset [DecidableEq V] {d : V} {t : List (Nat × V)} {k : Nat} {v : V} {p : Nat × V} :
    p ∈ tset d t k v ↔ (p = (k, v) ∧ v ≠ d) ∨ (p ∈ t ∧ p.1 ≠ k) := by
  unfold tset
  split
  · rename_i h; simp [mem_terase, h]
  · rename_i h; rw [mem_tins, mem_terase]; simp [h]

theorem twf_iff [DecidableEq V] (d : V) (t : List (Nat × V)) :
    twf d t = true ↔ rising t = true ∧ ∀ p ∈ t, p.2 ≠ d := by
  simp [twf]

theorem twf_nil [DecidableEq V] (d : V) : twf d [] = true := rfl

theorem twf_tset [DecidableEq V] (d : V) (t : List (Nat × V)) (k : Nat) (v : V) (h : twf d t = true) :
    twf d (tset d t k v) = true := by
  rw [twf_iff] at *
  refine ⟨rising_tset d t k v h.1, ?_⟩
  intro p hp
  rcases mem_tset.1 hp with ⟨rfl, hv⟩ | ⟨hp, -⟩
  · exact hv
  · exact h.2 p hp

theorem twf_filter [DecidableEq V] (d : V) (t : List (Nat × V)) (q : Nat × V → Bool) (h : twf d t = true) :
    twf d (t.filter q) = true := by
  rw [twf_iff] at *
  exact ⟨rising_filter t q h.1, fun p hp => h.2 p (List.mem_filter.1 hp).1⟩

theorem twf_tsetAll [DecidableEq V] (d : V) (l : List V) (t : List (Nat × V)) (k : Nat) (h : twf d t = true) :
    twf d (tsetAll d t k l) = true := by
  induction l generalizing t k with
  | nil => exact h
  | cons v r ih => exact ih _ _ (twf_tset d t k v h)

/-- Two canonical tables that read alike at every key are the same list. -/
theorem twf_ext [DecidableEq V] (d : V) (t u : List (Nat × V)) (ht : twf d t = true) (hu : twf d u = true)
    (h : ∀ k, tget d t k = tget d u k) : t = u := by
  have low : ∀ (t : List (Nat × V)) (k : Nat), (∀ p ∈ t, k < p.1) → tget d t k = d := by
    intro t k hk
    induction t with
    | nil => rfl
    | cons p r ih =>
      obtain ⟨a, b⟩ := p
      have : k < a := hk (a, b) (by simp)
      rw [tget_cons, if_neg (by omega)]
      exact ih (fun p hp => hk p (by simp [hp]))
  induction t generalizing u with
  | nil =>
    cases u with
    | nil => rfl
    | cons p r =>
      obtain ⟨a, b⟩ := p
      have h1 := h a
      rw [tget_cons, if_pos rfl] at h1
      exact absurd h1.symm (((twf_iff d _).1 hu).2 (a, b) (by simp))
  | cons p r ih =>
    obtain ⟨a, b⟩ := p
    have hb : b ≠ d := ((twf_iff d _).1 ht).2 (a, b) (by simp)
    have ht1 := rising_cons.1 ((twf_iff d _).1 ht).1
    cases u with
    | nil => have h1 := h a; rw [tget_cons, if_pos rfl] at h1; exact absurd h1 hb
    | cons q w =>
      obtain ⟨c, e⟩ := q
      have he : e ≠ d := ((twf_iff d _).1 hu).2 (c, e) (by simp)
      have hu1 := rising_cons.1 ((twf_iff d _).1 hu).1
      have hac : a = c := by
        rcases Nat.lt_trichotomy a c with hlt | heq | hgt
        · have h1 := h a
          rw [tget_cons, if_pos rfl, tget_cons, if_neg (by omega), low w a (fun p hp => Nat.lt_trans hlt (hu1.1 p hp))] at h1
          exact absurd h1 hb
        · exact heq
        · have h1 := h c
          rw [tget_cons, if_neg (by omega), tget_cons, if_pos rfl, low r c (fun p hp => Nat.lt_trans hgt (ht1.1 p hp))] at h1
          exact absurd h1.symm he
      subst hac
      have hbe : b = e := by have h1 := h a; rwa [tget_cons, if_pos rfl, tget_cons, if_pos rfl] at h1
      subst hbe
      have hr : r = w := by
        apply ih
        · exact (twf_iff d _).2 ⟨ht1.2, fun p hp => ((twf_iff d _).1 ht).2 p (by simp [hp])⟩
        · exact (twf_iff d _).2 ⟨hu1.2, fun p hp => ((twf_iff d _).1 hu).2 p (by simp [hp])⟩
        · intro k
          by_cases hk : a = k
          · subst hk; rw [low r a ht1.1, low w a hu1.1]
          · have h1 := h k; rwa [tget_cons, if_neg hk, tget_cons, if_neg hk] at h1
      rw [hr]

end tables

/-! ## Memories -/

theorem mset_wf (m : List Host.Cell) (a : Nat) (b : Byte) (h : Memory.wf m = true) : Memory.wf (mset m a b) = true :=
  twf_tset _ m a b h

theorem mwrite_wf (m : List Host.Cell) (a : Nat) (l : List Byte) (h : Memory.wf m = true) : Memory.wf (mwrite m a l) = true :=
  twf_tsetAll _ l m a h

theorem mwriteOpt_wf (m : List Host.Cell) (a : Nat) (l : List (Option Byte)) (h : Memory.wf m = true) :
    Memory.wf (mwriteOpt m a l) = true := by
  induction l generalizing m a with
  | nil => exact h
  | cons x r ih =>
    cases x with
    | none => exact ih _ _ h
    | some b => exact ih _ _ (mset_wf m a b h)

theorem tclr_wf (m : List Host.Cell) (a n : Nat) (h : Memory.wf m = true) : Memory.wf (tclr m a n) = true :=
  twf_filter _ m _ h

theorem mget_mset_same (m : List Host.Cell) (a : Nat) (b : Byte) : mget (mset m a b) a = b := tget_tset_same _ m a b

theorem mget_mset_ne (m : List Host.Cell) (a j : Nat) (b : Byte) (h : j ≠ a) : mget (mset m a b) j = mget m j :=
  tget_tset_ne _ _ m a j b h

theorem mget_mwrite_out (m : List Host.Cell) (a j : Nat) (l : List Byte) (h : j < a ∨ a + l.length ≤ j) :
    mget (mwrite m a l) j = mget m j := tget_tsetAll_out _ l m a j h

theorem mget_mwrite_in (m : List Host.Cell) (a i : Nat) (l : List Byte) (h : i < l.length) :
    mget (mwrite m a l) (a + i) = l.getD i 0 := tget_tsetAll_in _ l m a i h

theorem mget_mwriteOpt_out (m : List Host.Cell) (a j : Nat) (l : List (Option Byte)) (h : j < a ∨ a + l.length ≤ j) :
    mget (mwriteOpt m a l) j = mget m j := by
  induction l generalizing m a with
  | nil => rfl
  | cons x r ih =>
    simp only [List.length_cons] at h
    cases x with
    | none => exact ih _ _ (by omega)
    | some b => rw [mwriteOpt, ih _ _ (by omega), mget_mset_ne _ _ _ _ (by omega)]

/-- A run of enabled bytes: an enabled byte is written, another stays. -/
theorem mget_mwriteOpt_in (m : List Host.Cell) (a i : Nat) (l : List (Option Byte)) (h : i < l.length) :
    mget (mwriteOpt m a l) (a + i) = (l.getD i none).getD (mget m (a + i)) := by
  induction l generalizing m a i with
  | nil => simp at h
  | cons x r ih =>
    cases i with
    | zero =>
      cases x with
      | none => rw [mwriteOpt, mget_mwriteOpt_out _ _ _ _ (by omega)]; simp
      | some b => rw [mwriteOpt, mget_mwriteOpt_out _ _ _ _ (by omega)]; simp [mget_mset_same]
    | succ i =>
      have e : a + (i + 1) = (a + 1) + i := by omega
      cases x with
      | none => rw [mwriteOpt, e, ih _ _ _ (by simpa using h)]; simp
      | some b =>
        rw [mwriteOpt, e, ih _ _ _ (by simpa using h), mget_mset_ne _ _ _ _ (by omega)]; simp

/-- Reading a run that was just written gives its bytes. -/
theorem mread_mwrite (m : List Host.Cell) (a : Nat) (l : List Byte) : mread (mwrite m a l) a l.length = l := by
  unfold mread tgetAll
  apply List.ext_getElem
  · simp
  · intro i h1 h2
    simp only [List.getElem_map, List.getElem_range]
    have := mget_mwrite_in m a i l h2
    simp only [mget] at this
    rw [this]; simp [List.getD, h2]

end Sys2Proof.Machine
end

