-- ==== Sys2Proof/Laws/Reg.lean ====
section
/-! SUPPORT. Laws of the register file: what a register and a field read after a write. -/
namespace Sys2Proof.Machine

@[simp] theorem reg_setReg_same (s : State) (k : Nat) (v : W64) : (s.setReg k v).reg k = v := tget_tset_same _ _ _ _

theorem reg_setReg_ne (s : State) (k j : Nat) (v : W64) (h : j ≠ k) : (s.setReg k v).reg j = s.reg j :=
  tget_tset_ne _ _ _ _ _ _ h

/-- The state after a register write differs in the register file alone. -/
theorem setReg_eq (s : State) (k : Nat) (v : W64) : s.setReg k v = { s with regs := (s.setReg k v).regs } := rfl

/-- The state after a field write differs in the register file alone. -/
theorem setF_eq (s : State) (page : Nat) (f : RegF) (x i : Nat) : setF s page f x i = { s with regs := (setF s page f x i).regs } := rfl

theorem getF_setReg_ne (s : State) (k : Nat) (v : W64) (page : Nat) (f : RegF) (i : Nat) (h : f.at page i ≠ k) :
    getF (s.setReg k v) page f i = getF s page f i := by unfold getF; rw [reg_setReg_ne _ _ _ _ h]

/-- A field reads what was written to it, cut to its width. -/
theorem getF_setF_same (s : State) (page : Nat) (f : RegF) (x i : Nat) (h : f.lo + f.wid ≤ 64) :
    getF (setF s page f x i) page f i = x % 2 ^ f.wid := by
  unfold getF setF; rw [reg_setReg_same, fld_withFld_same _ _ _ _ h]

/-- A field reads what it read before a field of another register, or one that shares no bit with it, was written. -/
theorem getF_setF_ne (s : State) (page : Nat) (f : RegF) (x i : Nat) (page' : Nat) (f' : RegF) (i' : Nat)
    (h : f'.at page' i' ≠ f.at page i ∨ (f.wid ≤ 64 ∧ (f'.lo + f'.wid ≤ f.lo ∨ f.lo + f.wid ≤ f'.lo))) :
    getF (setF s page f x i) page' f' i' = getF s page' f' i' := by
  by_cases e : f'.at page' i' = f.at page i
  · rcases h with h | ⟨hw, h⟩
    · exact absurd e h
    · unfold getF setF; rw [e, reg_setReg_same, fld_withFld_disjoint _ _ _ _ _ _ hw h]
  · unfold setF; exact getF_setReg_ne _ _ _ _ _ _ e

/-- A field is as wide as its table says. -/
theorem getF_lt (s : State) (page : Nat) (f : RegF) (i : Nat) : getF s page f i < 2 ^ f.wid := fld_lt _ _ _

theorem reg_setF_ne (s : State) (page : Nat) (f : RegF) (x i j : Nat) (h : j ≠ f.at page i) :
    (setF s page f x i).reg j = s.reg j := reg_setReg_ne _ _ _ _ h

/-- Setting a field leaves every other register. -/
theorem reg_setB_ne (s : State) (page : Nat) (f : RegF) (x : Bool) (i j : Nat) (h : j ≠ f.at page i) :
    (setB s page f x i).reg j = s.reg j := reg_setReg_ne _ _ _ _ h

theorem getF_setB_same (s : State) (page : Nat) (f : RegF) (x : Bool) (i : Nat) (h : f.lo + f.wid ≤ 64) (hw : 1 ≤ f.wid) :
    getF (setB s page f x i) page f i = b2n x := by
  unfold setB; rw [getF_setF_same _ _ _ _ _ h]
  apply Nat.mod_eq_of_lt
  exact Nat.lt_of_lt_of_le (b2n_lt x) (by simpa using Nat.pow_le_pow_right (n := 2) (by decide) hw)

/-- A saturating counter (R52). -/
theorem getF_bumpF_same (s : State) (page : Nat) (f : RegF) (n i : Nat) (h : f.lo + f.wid ≤ 64) :
    getF (bumpF s page f n i) page f i = min (getF s page f i + n) (2 ^ f.wid - 1) := by
  unfold bumpF; rw [getF_setF_same _ _ _ _ _ h]
  apply Nat.mod_eq_of_lt
  have := Nat.two_pow_pos f.wid
  omega

/-- A wrapping counter. -/
theorem getF_wrapF_same (s : State) (page : Nat) (f : RegF) (n i : Nat) (h : f.lo + f.wid ≤ 64) :
    getF (wrapF s page f n i) page f i = (getF s page f i + n) % 2 ^ f.wid := by
  unfold wrapF; rw [getF_setF_same _ _ _ _ _ h]

/-- An event bit is set, and every other register stays (R60). -/
theorem hasEvent_event (s : State) (page n : Nat) (h : n < 64) : hasEvent (event s page n) page n = true := by
  unfold hasEvent event; rw [reg_setReg_same]; exact bitOf_setBit_same _ _ h

theorem reg_event_ne (s : State) (page n j : Nat) (h : j ≠ page + 0x40) : (event s page n).reg j = s.reg j :=
  reg_setReg_ne _ _ _ _ h

/-- A W1C write clears the bits written as ones (R52). -/
theorem reg_w1c_same (s : State) (k : Nat) (v : W64) : (w1c s k v).reg k = s.reg k &&& ~~~ v := by
  unfold w1c
  simp only
  split
  · rw [reg_setReg_ne _ _ _ _ (by omega), reg_setReg_same]
  · rw [reg_setReg_same]

end Sys2Proof.Machine
end

