-- ==== Sys2Proof/Laws/State.lean ====
section
/-! SUPPORT. One lemma per field of `State` and per update, and per named read and update: an update leaves every other field
and every read of another part as they were. -/
namespace Sys2Proof.Machine

theorem regsOnly_ite {s a b : State} {c : Prop} {_ : Decidable c} (ha : a = { s with regs := a.regs })
    (hb : b = { s with regs := b.regs }) : (if c then a else b) = { s with regs := (if c then a else b).regs } := by
  split <;> assumption

theorem recordErr_eq (s : State) (page code tag : Nat) :
    recordErr s page code tag = { s with regs := (recordErr s page code tag).regs } := by
  unfold recordErr; exact regsOnly_ite rfl rfl

theorem w1c_eq (s : State) (k : Nat) (v : W64) : w1c s k v = { s with regs := (w1c s k v).regs } := by
  unfold w1c; exact regsOnly_ite rfl rfl

@[simp] theorem setReg_pending (s : State) (k0 : Nat) (v : W64) : (s.setReg k0 v).pending = s.pending := rfl
@[simp] theorem setReg_member (s : State) (k0 : Nat) (v : W64) : (s.setReg k0 v).member = s.member := rfl
@[simp] theorem setReg_disabled (s : State) (k0 : Nat) (v : W64) : (s.setReg k0 v).disabled = s.disabled := rfl
@[simp] theorem setReg_enabled (s : State) (k0 : Nat) (v : W64) : (s.setReg k0 v).enabled = s.enabled := rfl
@[simp] theorem setReg_vecSent (s : State) (k0 : Nat) (v : W64) : (s.setReg k0 v).vecSent = s.vecSent := rfl
@[simp] theorem setReg_vecMask (s : State) (k0 : Nat) (v : W64) : (s.setReg k0 v).vecMask = s.vecMask := rfl
@[simp] theorem setReg_vecPend (s : State) (k0 : Nat) (v : W64) : (s.setReg k0 v).vecPend = s.vecPend := rfl
@[simp] theorem setReg_vecTable (s : State) (k0 : Nat) (v : W64) : (s.setReg k0 v).vecTable = s.vecTable := rfl
@[simp] theorem setReg_funcMask (s : State) (k0 : Nat) (v : W64) : (s.setReg k0 v).funcMask = s.funcMask := rfl
@[simp] theorem setReg_mem (s : State) (k0 : Nat) (v : W64) : (s.setReg k0 v).mem = s.mem := rfl
@[simp] theorem setReg_poison (s : State) (k0 : Nat) (v : W64) : (s.setReg k0 v).poison = s.poison := rfl
@[simp] theorem setReg_flips (s : State) (k0 : Nat) (v : W64) : (s.setReg k0 v).flips = s.flips := rfl
@[simp] theorem setReg_slotErrs (s : State) (k0 : Nat) (v : W64) : (s.setReg k0 v).slotErrs = s.slotErrs := rfl
@[simp] theorem setReg_chans (s : State) (k0 : Nat) (v : W64) : (s.setReg k0 v).chans = s.chans := rfl
@[simp] theorem setReg_stackTab (s : State) (k0 : Nat) (v : W64) : (s.setReg k0 v).stackTab = s.stackTab := rfl
@[simp] theorem setReg_units (s : State) (k0 : Nat) (v : W64) : (s.setReg k0 v).units = s.units := rfl
@[simp] theorem setReg_tiles (s : State) (k0 : Nat) (v : W64) : (s.setReg k0 v).tiles = s.tiles := rfl
@[simp] theorem setReg_seqs (s : State) (k0 : Nat) (v : W64) : (s.setReg k0 v).seqs = s.seqs := rfl
@[simp] theorem setReg_imem (s : State) (k0 : Nat) (v : W64) : (s.setReg k0 v).imem = s.imem := rfl
@[simp] theorem setReg_lib (s : State) (k0 : Nat) (v : W64) : (s.setReg k0 v).lib = s.lib := rfl
@[simp] theorem setReg_routines (s : State) (k0 : Nat) (v : W64) : (s.setReg k0 v).routines = s.routines := rfl
@[simp] theorem setReg_descs (s : State) (k0 : Nat) (v : W64) : (s.setReg k0 v).descs = s.descs := rfl
@[simp] theorem setReg_allocs (s : State) (k0 : Nat) (v : W64) : (s.setReg k0 v).allocs = s.allocs := rfl
@[simp] theorem setReg_otabs (s : State) (k0 : Nat) (v : W64) : (s.setReg k0 v).otabs = s.otabs := rfl
@[simp] theorem setReg_descQ (s : State) (k0 : Nat) (v : W64) : (s.setReg k0 v).descQ = s.descQ := rfl
@[simp] theorem setReg_allocQ (s : State) (k0 : Nat) (v : W64) : (s.setReg k0 v).allocQ = s.allocQ := rfl
@[simp] theorem setReg_fetches (s : State) (k0 : Nat) (v : W64) : (s.setReg k0 v).fetches = s.fetches := rfl
@[simp] theorem setReg_nextFetch (s : State) (k0 : Nat) (v : W64) : (s.setReg k0 v).nextFetch = s.nextFetch := rfl
@[simp] theorem setReg_arbs (s : State) (k0 : Nat) (v : W64) : (s.setReg k0 v).arbs = s.arbs := rfl
@[simp] theorem setReg_edges (s : State) (k0 : Nat) (v : W64) : (s.setReg k0 v).edges = s.edges := rfl
@[simp] theorem setReg_ports (s : State) (k0 : Nat) (v : W64) : (s.setReg k0 v).ports = s.ports := rfl
@[simp] theorem setReg_sync (s : State) (k0 : Nat) (v : W64) : (s.setReg k0 v).sync = s.sync := rfl
@[simp] theorem setReg_outReqs (s : State) (k0 : Nat) (v : W64) : (s.setReg k0 v).outReqs = s.outReqs := rfl
@[simp] theorem setReg_inPkts (s : State) (k0 : Nat) (v : W64) : (s.setReg k0 v).inPkts = s.inPkts := rfl
@[simp] theorem setReg_nextIn (s : State) (k0 : Nat) (v : W64) : (s.setReg k0 v).nextIn = s.nextIn := rfl
@[simp] theorem setReg_egress (s : State) (k0 : Nat) (v : W64) : (s.setReg k0 v).egress = s.egress := rfl
@[simp] theorem setReg_cxl (s : State) (k0 : Nat) (v : W64) : (s.setReg k0 v).cxl = s.cxl := rfl
@[simp] theorem setReg_armed (s : State) (k0 : Nat) (v : W64) : (s.setReg k0 v).armed = s.armed := rfl
@[simp] theorem setReg_running (s : State) (k0 : Nat) (v : W64) : (s.setReg k0 v).running = s.running := rfl
@[simp] theorem setReg_ledger (s : State) (k0 : Nat) (v : W64) : (s.setReg k0 v).ledger = s.ledger := rfl
@[simp] theorem setReg_causes (s : State) (k0 : Nat) (v : W64) : (s.setReg k0 v).causes = s.causes := rfl
@[simp] theorem setReg_entries (s : State) (k0 : Nat) (v : W64) : (s.setReg k0 v).entries = s.entries := rfl
@[simp] theorem setReg_entry (s : State) (k0 : Nat) (v : W64) : (s.setReg k0 v).entry = s.entry := rfl
@[simp] theorem setReg_history (s : State) (k0 : Nat) (v : W64) : (s.setReg k0 v).history = s.history := rfl
@[simp] theorem setReg_clearDesc (s : State) (k0 : Nat) (v : W64) : (s.setReg k0 v).clearDesc = s.clearDesc := rfl
@[simp] theorem setReg_fenceFlushed (s : State) (k0 : Nat) (v : W64) : (s.setReg k0 v).fenceFlushed = s.fenceFlushed := rfl
@[simp] theorem setReg_kicks (s : State) (k0 : Nat) (v : W64) : (s.setReg k0 v).kicks = s.kicks := rfl
@[simp] theorem setReg_uzoids (s : State) (k0 : Nat) (v : W64) : (s.setReg k0 v).uzoids = s.uzoids := rfl
@[simp] theorem setReg_restarting (s : State) (k0 : Nat) (v : W64) : (s.setReg k0 v).restarting = s.restarting := rfl
@[simp] theorem setReg_bwq (s : State) (k0 : Nat) (v : W64) : (s.setReg k0 v).bwq = s.bwq := rfl
@[simp] theorem setReg_flash (s : State) (k0 : Nat) (v : W64) : (s.setReg k0 v).flash = s.flash := rfl
@[simp] theorem setReg_board (s : State) (k0 : Nat) (v : W64) : (s.setReg k0 v).board = s.board := rfl
@[simp] theorem setReg_us (s : State) (k0 : Nat) (v : W64) : (s.setReg k0 v).us = s.us := rfl
@[simp] theorem setReg_drawn (s : State) (k0 : Nat) (v : W64) : (s.setReg k0 v).drawn = s.drawn := rfl
@[simp] theorem setReg_out (s : State) (k0 : Nat) (v : W64) : (s.setReg k0 v).out = s.out := rfl
@[simp] theorem setReg_chan (s : State) (k0 : Nat) (v : W64) (st ch : Nat) : (s.setReg k0 v).chan st ch = s.chan st ch := rfl
@[simp] theorem setReg_stack (s : State) (k0 : Nat) (v : W64) (st : Nat) : (s.setReg k0 v).stack st = s.stack st := rfl
@[simp] theorem setReg_unit (s : State) (k0 : Nat) (v : W64) (u : Nat) : (s.setReg k0 v).unit u = s.unit u := rfl
@[simp] theorem setReg_tile (s : State) (k0 : Nat) (v : W64) (t : Nat) : (s.setReg k0 v).tile t = s.tile t := rfl
@[simp] theorem setReg_seq (s : State) (k0 : Nat) (v : W64) (d : Nat) : (s.setReg k0 v).seq d = s.seq d := rfl
@[simp] theorem setReg_arb (s : State) (k0 : Nat) (v : W64) (d i : Nat) : (s.setReg k0 v).arb d i = s.arb d i := rfl
@[simp] theorem setReg_port (s : State) (k0 : Nat) (v : W64) (p : Nat) : (s.setReg k0 v).port p = s.port p := rfl
@[simp] theorem setReg_desc (s : State) (k0 : Nat) (v : W64) (h : Nat) : (s.setReg k0 v).desc h = s.desc h := rfl
@[simp] theorem setReg_alloc (s : State) (k0 : Nat) (v : W64) (i : Nat) : (s.setReg k0 v).alloc i = s.alloc i := rfl
@[simp] theorem setReg_otab (s : State) (k0 : Nat) (v : W64) (i : Nat) : (s.setReg k0 v).otab i = s.otab i := rfl
@[simp] theorem setF_pending (s : State) (pg0 : Nat) (f : RegF) (x i0 : Nat) : (setF s pg0 f x i0).pending = s.pending := rfl
@[simp] theorem setF_member (s : State) (pg0 : Nat) (f : RegF) (x i0 : Nat) : (setF s pg0 f x i0).member = s.member := rfl
@[simp] theorem setF_disabled (s : State) (pg0 : Nat) (f : RegF) (x i0 : Nat) : (setF s pg0 f x i0).disabled = s.disabled := rfl
@[simp] theorem setF_enabled (s : State) (pg0 : Nat) (f : RegF) (x i0 : Nat) : (setF s pg0 f x i0).enabled = s.enabled := rfl
@[simp] theorem setF_vecSent (s : State) (pg0 : Nat) (f : RegF) (x i0 : Nat) : (setF s pg0 f x i0).vecSent = s.vecSent := rfl
@[simp] theorem setF_vecMask (s : State) (pg0 : Nat) (f : RegF) (x i0 : Nat) : (setF s pg0 f x i0).vecMask = s.vecMask := rfl
@[simp] theorem setF_vecPend (s : State) (pg0 : Nat) (f : RegF) (x i0 : Nat) : (setF s pg0 f x i0).vecPend = s.vecPend := rfl
@[simp] theorem setF_vecTable (s : State) (pg0 : Nat) (f : RegF) (x i0 : Nat) : (setF s pg0 f x i0).vecTable = s.vecTable := rfl
@[simp] theorem setF_funcMask (s : State) (pg0 : Nat) (f : RegF) (x i0 : Nat) : (setF s pg0 f x i0).funcMask = s.funcMask := rfl
@[simp] theorem setF_mem (s : State) (pg0 : Nat) (f : RegF) (x i0 : Nat) : (setF s pg0 f x i0).mem = s.mem := rfl
@[simp] theorem setF_poison (s : State) (pg0 : Nat) (f : RegF) (x i0 : Nat) : (setF s pg0 f x i0).poison = s.poison := rfl
@[simp] theorem setF_flips (s : State) (pg0 : Nat) (f : RegF) (x i0 : Nat) : (setF s pg0 f x i0).flips = s.flips := rfl
@[simp] theorem setF_slotErrs (s : State) (pg0 : Nat) (f : RegF) (x i0 : Nat) : (setF s pg0 f x i0).slotErrs = s.slotErrs := rfl
@[simp] theorem setF_chans (s : State) (pg0 : Nat) (f : RegF) (x i0 : Nat) : (setF s pg0 f x i0).chans = s.chans := rfl
@[simp] theorem setF_stackTab (s : State) (pg0 : Nat) (f : RegF) (x i0 : Nat) : (setF s pg0 f x i0).stackTab = s.stackTab := rfl
@[simp] theorem setF_units (s : State) (pg0 : Nat) (f : RegF) (x i0 : Nat) : (setF s pg0 f x i0).units = s.units := rfl
@[simp] theorem setF_tiles (s : State) (pg0 : Nat) (f : RegF) (x i0 : Nat) : (setF s pg0 f x i0).tiles = s.tiles := rfl
@[simp] theorem setF_seqs (s : State) (pg0 : Nat) (f : RegF) (x i0 : Nat) : (setF s pg0 f x i0).seqs = s.seqs := rfl
@[simp] theorem setF_imem (s : State) (pg0 : Nat) (f : RegF) (x i0 : Nat) : (setF s pg0 f x i0).imem = s.imem := rfl
@[simp] theorem setF_lib (s : State) (pg0 : Nat) (f : RegF) (x i0 : Nat) : (setF s pg0 f x i0).lib = s.lib := rfl
@[simp] theorem setF_routines (s : State) (pg0 : Nat) (f : RegF) (x i0 : Nat) : (setF s pg0 f x i0).routines = s.routines := rfl
@[simp] theorem setF_descs (s : State) (pg0 : Nat) (f : RegF) (x i0 : Nat) : (setF s pg0 f x i0).descs = s.descs := rfl
@[simp] theorem setF_allocs (s : State) (pg0 : Nat) (f : RegF) (x i0 : Nat) : (setF s pg0 f x i0).allocs = s.allocs := rfl
@[simp] theorem setF_otabs (s : State) (pg0 : Nat) (f : RegF) (x i0 : Nat) : (setF s pg0 f x i0).otabs = s.otabs := rfl
@[simp] theorem setF_descQ (s : State) (pg0 : Nat) (f : RegF) (x i0 : Nat) : (setF s pg0 f x i0).descQ = s.descQ := rfl
@[simp] theorem setF_allocQ (s : State) (pg0 : Nat) (f : RegF) (x i0 : Nat) : (setF s pg0 f x i0).allocQ = s.allocQ := rfl
@[simp] theorem setF_fetches (s : State) (pg0 : Nat) (f : RegF) (x i0 : Nat) : (setF s pg0 f x i0).fetches = s.fetches := rfl
@[simp] theorem setF_nextFetch (s : State) (pg0 : Nat) (f : RegF) (x i0 : Nat) : (setF s pg0 f x i0).nextFetch = s.nextFetch := rfl
@[simp] theorem setF_arbs (s : State) (pg0 : Nat) (f : RegF) (x i0 : Nat) : (setF s pg0 f x i0).arbs = s.arbs := rfl
@[simp] theorem setF_edges (s : State) (pg0 : Nat) (f : RegF) (x i0 : Nat) : (setF s pg0 f x i0).edges = s.edges := rfl
@[simp] theorem setF_ports (s : State) (pg0 : Nat) (f : RegF) (x i0 : Nat) : (setF s pg0 f x i0).ports = s.ports := rfl
@[simp] theorem setF_sync (s : State) (pg0 : Nat) (f : RegF) (x i0 : Nat) : (setF s pg0 f x i0).sync = s.sync := rfl
@[simp] theorem setF_outReqs (s : State) (pg0 : Nat) (f : RegF) (x i0 : Nat) : (setF s pg0 f x i0).outReqs = s.outReqs := rfl
@[simp] theorem setF_inPkts (s : State) (pg0 : Nat) (f : RegF) (x i0 : Nat) : (setF s pg0 f x i0).inPkts = s.inPkts := rfl
@[simp] theorem setF_nextIn (s : State) (pg0 : Nat) (f : RegF) (x i0 : Nat) : (setF s pg0 f x i0).nextIn = s.nextIn := rfl
@[simp] theorem setF_egress (s : State) (pg0 : Nat) (f : RegF) (x i0 : Nat) : (setF s pg0 f x i0).egress = s.egress := rfl
@[simp] theorem setF_cxl (s : State) (pg0 : Nat) (f : RegF) (x i0 : Nat) : (setF s pg0 f x i0).cxl = s.cxl := rfl
@[simp] theorem setF_armed (s : State) (pg0 : Nat) (f : RegF) (x i0 : Nat) : (setF s pg0 f x i0).armed = s.armed := rfl
@[simp] theorem setF_running (s : State) (pg0 : Nat) (f : RegF) (x i0 : Nat) : (setF s pg0 f x i0).running = s.running := rfl
@[simp] theorem setF_ledger (s : State) (pg0 : Nat) (f : RegF) (x i0 : Nat) : (setF s pg0 f x i0).ledger = s.ledger := rfl
@[simp] theorem setF_causes (s : State) (pg0 : Nat) (f : RegF) (x i0 : Nat) : (setF s pg0 f x i0).causes = s.causes := rfl
@[simp] theorem setF_entries (s : State) (pg0 : Nat) (f : RegF) (x i0 : Nat) : (setF s pg0 f x i0).entries = s.entries := rfl
@[simp] theorem setF_entry (s : State) (pg0 : Nat) (f : RegF) (x i0 : Nat) : (setF s pg0 f x i0).entry = s.entry := rfl
@[simp] theorem setF_history (s : State) (pg0 : Nat) (f : RegF) (x i0 : Nat) : (setF s pg0 f x i0).history = s.history := rfl
@[simp] theorem setF_clearDesc (s : State) (pg0 : Nat) (f : RegF) (x i0 : Nat) : (setF s pg0 f x i0).clearDesc = s.clearDesc := rfl
@[simp] theorem setF_fenceFlushed (s : State) (pg0 : Nat) (f : RegF) (x i0 : Nat) : (setF s pg0 f x i0).fenceFlushed = s.fenceFlushed := rfl
@[simp] theorem setF_kicks (s : State) (pg0 : Nat) (f : RegF) (x i0 : Nat) : (setF s pg0 f x i0).kicks = s.kicks := rfl
@[simp] theorem setF_uzoids (s : State) (pg0 : Nat) (f : RegF) (x i0 : Nat) : (setF s pg0 f x i0).uzoids = s.uzoids := rfl
@[simp] theorem setF_restarting (s : State) (pg0 : Nat) (f : RegF) (x i0 : Nat) : (setF s pg0 f x i0).restarting = s.restarting := rfl
@[simp] theorem setF_bwq (s : State) (pg0 : Nat) (f : RegF) (x i0 : Nat) : (setF s pg0 f x i0).bwq = s.bwq := rfl
@[simp] theorem setF_flash (s : State) (pg0 : Nat) (f : RegF) (x i0 : Nat) : (setF s pg0 f x i0).flash = s.flash := rfl
@[simp] theorem setF_board (s : State) (pg0 : Nat) (f : RegF) (x i0 : Nat) : (setF s pg0 f x i0).board = s.board := rfl
@[simp] theorem setF_us (s : State) (pg0 : Nat) (f : RegF) (x i0 : Nat) : (setF s pg0 f x i0).us = s.us := rfl
@[simp] theorem setF_drawn (s : State) (pg0 : Nat) (f : RegF) (x i0 : Nat) : (setF s pg0 f x i0).drawn = s.drawn := rfl
@[simp] theorem setF_out (s : State) (pg0 : Nat) (f : RegF) (x i0 : Nat) : (setF s pg0 f x i0).out = s.out := rfl
@[simp] theorem setF_chan (s : State) (pg0 : Nat) (f : RegF) (x i0 : Nat) (st ch : Nat) : (setF s pg0 f x i0).chan st ch = s.chan st ch := rfl
@[simp] theorem setF_stack (s : State) (pg0 : Nat) (f : RegF) (x i0 : Nat) (st : Nat) : (setF s pg0 f x i0).stack st = s.stack st := rfl
@[simp] theorem setF_unit (s : State) (pg0 : Nat) (f : RegF) (x i0 : Nat) (u : Nat) : (setF s pg0 f x i0).unit u = s.unit u := rfl
@[simp] theorem setF_tile (s : State) (pg0 : Nat) (f : RegF) (x i0 : Nat) (t : Nat) : (setF s pg0 f x i0).tile t = s.tile t := rfl
@[simp] theorem setF_seq (s : State) (pg0 : Nat) (f : RegF) (x i0 : Nat) (d : Nat) : (setF s pg0 f x i0).seq d = s.seq d := rfl
@[simp] theorem setF_arb (s : State) (pg0 : Nat) (f : RegF) (x i0 : Nat) (d i : Nat) : (setF s pg0 f x i0).arb d i = s.arb d i := rfl
@[simp] theorem setF_port (s : State) (pg0 : Nat) (f : RegF) (x i0 : Nat) (p : Nat) : (setF s pg0 f x i0).port p = s.port p := rfl
@[simp] theorem setF_desc (s : State) (pg0 : Nat) (f : RegF) (x i0 : Nat) (h : Nat) : (setF s pg0 f x i0).desc h = s.desc h := rfl
@[simp] theorem setF_alloc (s : State) (pg0 : Nat) (f : RegF) (x i0 : Nat) (i : Nat) : (setF s pg0 f x i0).alloc i = s.alloc i := rfl
@[simp] theorem setF_otab (s : State) (pg0 : Nat) (f : RegF) (x i0 : Nat) (i : Nat) : (setF s pg0 f x i0).otab i = s.otab i := rfl
@[simp] theorem setB_pending (s : State) (pg0 : Nat) (f : RegF) (x : Bool) (i0 : Nat) : (setB s pg0 f x i0).pending = s.pending := rfl
@[simp] theorem setB_member (s : State) (pg0 : Nat) (f : RegF) (x : Bool) (i0 : Nat) : (setB s pg0 f x i0).member = s.member := rfl
@[simp] theorem setB_disabled (s : State) (pg0 : Nat) (f : RegF) (x : Bool) (i0 : Nat) : (setB s pg0 f x i0).disabled = s.disabled := rfl
@[simp] theorem setB_enabled (s : State) (pg0 : Nat) (f : RegF) (x : Bool) (i0 : Nat) : (setB s pg0 f x i0).enabled = s.enabled := rfl
@[simp] theorem setB_vecSent (s : State) (pg0 : Nat) (f : RegF) (x : Bool) (i0 : Nat) : (setB s pg0 f x i0).vecSent = s.vecSent := rfl
@[simp] theorem setB_vecMask (s : State) (pg0 : Nat) (f : RegF) (x : Bool) (i0 : Nat) : (setB s pg0 f x i0).vecMask = s.vecMask := rfl
@[simp] theorem setB_vecPend (s : State) (pg0 : Nat) (f : RegF) (x : Bool) (i0 : Nat) : (setB s pg0 f x i0).vecPend = s.vecPend := rfl
@[simp] theorem setB_vecTable (s : State) (pg0 : Nat) (f : RegF) (x : Bool) (i0 : Nat) : (setB s pg0 f x i0).vecTable = s.vecTable := rfl
@[simp] theorem setB_funcMask (s : State) (pg0 : Nat) (f : RegF) (x : Bool) (i0 : Nat) : (setB s pg0 f x i0).funcMask = s.funcMask := rfl
@[simp] theorem setB_mem (s : State) (pg0 : Nat) (f : RegF) (x : Bool) (i0 : Nat) : (setB s pg0 f x i0).mem = s.mem := rfl
@[simp] theorem setB_poison (s : State) (pg0 : Nat) (f : RegF) (x : Bool) (i0 : Nat) : (setB s pg0 f x i0).poison = s.poison := rfl
@[simp] theorem setB_flips (s : State) (pg0 : Nat) (f : RegF) (x : Bool) (i0 : Nat) : (setB s pg0 f x i0).flips = s.flips := rfl
@[simp] theorem setB_slotErrs (s : State) (pg0 : Nat) (f : RegF) (x : Bool) (i0 : Nat) : (setB s pg0 f x i0).slotErrs = s.slotErrs := rfl
@[simp] theorem setB_chans (s : State) (pg0 : Nat) (f : RegF) (x : Bool) (i0 : Nat) : (setB s pg0 f x i0).chans = s.chans := rfl
@[simp] theorem setB_stackTab (s : State) (pg0 : Nat) (f : RegF) (x : Bool) (i0 : Nat) : (setB s pg0 f x i0).stackTab = s.stackTab := rfl
@[simp] theorem setB_units (s : State) (pg0 : Nat) (f : RegF) (x : Bool) (i0 : Nat) : (setB s pg0 f x i0).units = s.units := rfl
@[simp] theorem setB_tiles (s : State) (pg0 : Nat) (f : RegF) (x : Bool) (i0 : Nat) : (setB s pg0 f x i0).tiles = s.tiles := rfl
@[simp] theorem setB_seqs (s : State) (pg0 : Nat) (f : RegF) (x : Bool) (i0 : Nat) : (setB s pg0 f x i0).seqs = s.seqs := rfl
@[simp] theorem setB_imem (s : State) (pg0 : Nat) (f : RegF) (x : Bool) (i0 : Nat) : (setB s pg0 f x i0).imem = s.imem := rfl
@[simp] theorem setB_lib (s : State) (pg0 : Nat) (f : RegF) (x : Bool) (i0 : Nat) : (setB s pg0 f x i0).lib = s.lib := rfl
@[simp] theorem setB_routines (s : State) (pg0 : Nat) (f : RegF) (x : Bool) (i0 : Nat) : (setB s pg0 f x i0).routines = s.routines := rfl
@[simp] theorem setB_descs (s : State) (pg0 : Nat) (f : RegF) (x : Bool) (i0 : Nat) : (setB s pg0 f x i0).descs = s.descs := rfl
@[simp] theorem setB_allocs (s : State) (pg0 : Nat) (f : RegF) (x : Bool) (i0 : Nat) : (setB s pg0 f x i0).allocs = s.allocs := rfl
@[simp] theorem setB_otabs (s : State) (pg0 : Nat) (f : RegF) (x : Bool) (i0 : Nat) : (setB s pg0 f x i0).otabs = s.otabs := rfl
@[simp] theorem setB_descQ (s : State) (pg0 : Nat) (f : RegF) (x : Bool) (i0 : Nat) : (setB s pg0 f x i0).descQ = s.descQ := rfl
@[simp] theorem setB_allocQ (s : State) (pg0 : Nat) (f : RegF) (x : Bool) (i0 : Nat) : (setB s pg0 f x i0).allocQ = s.allocQ := rfl
@[simp] theorem setB_fetches (s : State) (pg0 : Nat) (f : RegF) (x : Bool) (i0 : Nat) : (setB s pg0 f x i0).fetches = s.fetches := rfl
@[simp] theorem setB_nextFetch (s : State) (pg0 : Nat) (f : RegF) (x : Bool) (i0 : Nat) : (setB s pg0 f x i0).nextFetch = s.nextFetch := rfl
@[simp] theorem setB_arbs (s : State) (pg0 : Nat) (f : RegF) (x : Bool) (i0 : Nat) : (setB s pg0 f x i0).arbs = s.arbs := rfl
@[simp] theorem setB_edges (s : State) (pg0 : Nat) (f : RegF) (x : Bool) (i0 : Nat) : (setB s pg0 f x i0).edges = s.edges := rfl
@[simp] theorem setB_ports (s : State) (pg0 : Nat) (f : RegF) (x : Bool) (i0 : Nat) : (setB s pg0 f x i0).ports = s.ports := rfl
@[simp] theorem setB_sync (s : State) (pg0 : Nat) (f : RegF) (x : Bool) (i0 : Nat) : (setB s pg0 f x i0).sync = s.sync := rfl
@[simp] theorem setB_outReqs (s : State) (pg0 : Nat) (f : RegF) (x : Bool) (i0 : Nat) : (setB s pg0 f x i0).outReqs = s.outReqs := rfl
@[simp] theorem setB_inPkts (s : State) (pg0 : Nat) (f : RegF) (x : Bool) (i0 : Nat) : (setB s pg0 f x i0).inPkts = s.inPkts := rfl
@[simp] theorem setB_nextIn (s : State) (pg0 : Nat) (f : RegF) (x : Bool) (i0 : Nat) : (setB s pg0 f x i0).nextIn = s.nextIn := rfl
@[simp] theorem setB_egress (s : State) (pg0 : Nat) (f : RegF) (x : Bool) (i0 : Nat) : (setB s pg0 f x i0).egress = s.egress := rfl
@[simp] theorem setB_cxl (s : State) (pg0 : Nat) (f : RegF) (x : Bool) (i0 : Nat) : (setB s pg0 f x i0).cxl = s.cxl := rfl
@[simp] theorem setB_armed (s : State) (pg0 : Nat) (f : RegF) (x : Bool) (i0 : Nat) : (setB s pg0 f x i0).armed = s.armed := rfl
@[simp] theorem setB_running (s : State) (pg0 : Nat) (f : RegF) (x : Bool) (i0 : Nat) : (setB s pg0 f x i0).running = s.running := rfl
@[simp] theorem setB_ledger (s : State) (pg0 : Nat) (f : RegF) (x : Bool) (i0 : Nat) : (setB s pg0 f x i0).ledger = s.ledger := rfl
@[simp] theorem setB_causes (s : State) (pg0 : Nat) (f : RegF) (x : Bool) (i0 : Nat) : (setB s pg0 f x i0).causes = s.causes := rfl
@[simp] theorem setB_entries (s : State) (pg0 : Nat) (f : RegF) (x : Bool) (i0 : Nat) : (setB s pg0 f x i0).entries = s.entries := rfl
@[simp] theorem setB_entry (s : State) (pg0 : Nat) (f : RegF) (x : Bool) (i0 : Nat) : (setB s pg0 f x i0).entry = s.entry := rfl
@[simp] theorem setB_history (s : State) (pg0 : Nat) (f : RegF) (x : Bool) (i0 : Nat) : (setB s pg0 f x i0).history = s.history := rfl
@[simp] theorem setB_clearDesc (s : State) (pg0 : Nat) (f : RegF) (x : Bool) (i0 : Nat) : (setB s pg0 f x i0).clearDesc = s.clearDesc := rfl
@[simp] theorem setB_fenceFlushed (s : State) (pg0 : Nat) (f : RegF) (x : Bool) (i0 : Nat) : (setB s pg0 f x i0).fenceFlushed = s.fenceFlushed := rfl
@[simp] theorem setB_kicks (s : State) (pg0 : Nat) (f : RegF) (x : Bool) (i0 : Nat) : (setB s pg0 f x i0).kicks = s.kicks := rfl
@[simp] theorem setB_uzoids (s : State) (pg0 : Nat) (f : RegF) (x : Bool) (i0 : Nat) : (setB s pg0 f x i0).uzoids = s.uzoids := rfl
@[simp] theorem setB_restarting (s : State) (pg0 : Nat) (f : RegF) (x : Bool) (i0 : Nat) : (setB s pg0 f x i0).restarting = s.restarting := rfl
@[simp] theorem setB_bwq (s : State) (pg0 : Nat) (f : RegF) (x : Bool) (i0 : Nat) : (setB s pg0 f x i0).bwq = s.bwq := rfl
@[simp] theorem setB_flash (s : State) (pg0 : Nat) (f : RegF) (x : Bool) (i0 : Nat) : (setB s pg0 f x i0).flash = s.flash := rfl
@[simp] theorem setB_board (s : State) (pg0 : Nat) (f : RegF) (x : Bool) (i0 : Nat) : (setB s pg0 f x i0).board = s.board := rfl
@[simp] theorem setB_us (s : State) (pg0 : Nat) (f : RegF) (x : Bool) (i0 : Nat) : (setB s pg0 f x i0).us = s.us := rfl
@[simp] theorem setB_drawn (s : State) (pg0 : Nat) (f : RegF) (x : Bool) (i0 : Nat) : (setB s pg0 f x i0).drawn = s.drawn := rfl
@[simp] theorem setB_out (s : State) (pg0 : Nat) (f : RegF) (x : Bool) (i0 : Nat) : (setB s pg0 f x i0).out = s.out := rfl
@[simp] theorem setB_chan (s : State) (pg0 : Nat) (f : RegF) (x : Bool) (i0 : Nat) (st ch : Nat) : (setB s pg0 f x i0).chan st ch = s.chan st ch := rfl
@[simp] theorem setB_stack (s : State) (pg0 : Nat) (f : RegF) (x : Bool) (i0 : Nat) (st : Nat) : (setB s pg0 f x i0).stack st = s.stack st := rfl
@[simp] theorem setB_unit (s : State) (pg0 : Nat) (f : RegF) (x : Bool) (i0 : Nat) (u : Nat) : (setB s pg0 f x i0).unit u = s.unit u := rfl
@[simp] theorem setB_tile (s : State) (pg0 : Nat) (f : RegF) (x : Bool) (i0 : Nat) (t : Nat) : (setB s pg0 f x i0).tile t = s.tile t := rfl
@[simp] theorem setB_seq (s : State) (pg0 : Nat) (f : RegF) (x : Bool) (i0 : Nat) (d : Nat) : (setB s pg0 f x i0).seq d = s.seq d := rfl
@[simp] theorem setB_arb (s : State) (pg0 : Nat) (f : RegF) (x : Bool) (i0 : Nat) (d i : Nat) : (setB s pg0 f x i0).arb d i = s.arb d i := rfl
@[simp] theorem setB_port (s : State) (pg0 : Nat) (f : RegF) (x : Bool) (i0 : Nat) (p : Nat) : (setB s pg0 f x i0).port p = s.port p := rfl
@[simp] theorem setB_desc (s : State) (pg0 : Nat) (f : RegF) (x : Bool) (i0 : Nat) (h : Nat) : (setB s pg0 f x i0).desc h = s.desc h := rfl
@[simp] theorem setB_alloc (s : State) (pg0 : Nat) (f : RegF) (x : Bool) (i0 : Nat) (i : Nat) : (setB s pg0 f x i0).alloc i = s.alloc i := rfl
@[simp] theorem setB_otab (s : State) (pg0 : Nat) (f : RegF) (x : Bool) (i0 : Nat) (i : Nat) : (setB s pg0 f x i0).otab i = s.otab i := rfl
@[simp] theorem bumpF_pending (s : State) (pg0 : Nat) (f : RegF) (n i0 : Nat) : (bumpF s pg0 f n i0).pending = s.pending := rfl
@[simp] theorem bumpF_member (s : State) (pg0 : Nat) (f : RegF) (n i0 : Nat) : (bumpF s pg0 f n i0).member = s.member := rfl
@[simp] theorem bumpF_disabled (s : State) (pg0 : Nat) (f : RegF) (n i0 : Nat) : (bumpF s pg0 f n i0).disabled = s.disabled := rfl
@[simp] theorem bumpF_enabled (s : State) (pg0 : Nat) (f : RegF) (n i0 : Nat) : (bumpF s pg0 f n i0).enabled = s.enabled := rfl
@[simp] theorem bumpF_vecSent (s : State) (pg0 : Nat) (f : RegF) (n i0 : Nat) : (bumpF s pg0 f n i0).vecSent = s.vecSent := rfl
@[simp] theorem bumpF_vecMask (s : State) (pg0 : Nat) (f : RegF) (n i0 : Nat) : (bumpF s pg0 f n i0).vecMask = s.vecMask := rfl
@[simp] theorem bumpF_vecPend (s : State) (pg0 : Nat) (f : RegF) (n i0 : Nat) : (bumpF s pg0 f n i0).vecPend = s.vecPend := rfl
@[simp] theorem bumpF_vecTable (s : State) (pg0 : Nat) (f : RegF) (n i0 : Nat) : (bumpF s pg0 f n i0).vecTable = s.vecTable := rfl
@[simp] theorem bumpF_funcMask (s : State) (pg0 : Nat) (f : RegF) (n i0 : Nat) : (bumpF s pg0 f n i0).funcMask = s.funcMask := rfl
@[simp] theorem bumpF_mem (s : State) (pg0 : Nat) (f : RegF) (n i0 : Nat) : (bumpF s pg0 f n i0).mem = s.mem := rfl
@[simp] theorem bumpF_poison (s : State) (pg0 : Nat) (f : RegF) (n i0 : Nat) : (bumpF s pg0 f n i0).poison = s.poison := rfl
@[simp] theorem bumpF_flips (s : State) (pg0 : Nat) (f : RegF) (n i0 : Nat) : (bumpF s pg0 f n i0).flips = s.flips := rfl
@[simp] theorem bumpF_slotErrs (s : State) (pg0 : Nat) (f : RegF) (n i0 : Nat) : (bumpF s pg0 f n i0).slotErrs = s.slotErrs := rfl
@[simp] theorem bumpF_chans (s : State) (pg0 : Nat) (f : RegF) (n i0 : Nat) : (bumpF s pg0 f n i0).chans = s.chans := rfl
@[simp] theorem bumpF_stackTab (s : State) (pg0 : Nat) (f : RegF) (n i0 : Nat) : (bumpF s pg0 f n i0).stackTab = s.stackTab := rfl
@[simp] theorem bumpF_units (s : State) (pg0 : Nat) (f : RegF) (n i0 : Nat) : (bumpF s pg0 f n i0).units = s.units := rfl
@[simp] theorem bumpF_tiles (s : State) (pg0 : Nat) (f : RegF) (n i0 : Nat) : (bumpF s pg0 f n i0).tiles = s.tiles := rfl
@[simp] theorem bumpF_seqs (s : State) (pg0 : Nat) (f : RegF) (n i0 : Nat) : (bumpF s pg0 f n i0).seqs = s.seqs := rfl
@[simp] theorem bumpF_imem (s : State) (pg0 : Nat) (f : RegF) (n i0 : Nat) : (bumpF s pg0 f n i0).imem = s.imem := rfl
@[simp] theorem bumpF_lib (s : State) (pg0 : Nat) (f : RegF) (n i0 : Nat) : (bumpF s pg0 f n i0).lib = s.lib := rfl
@[simp] theorem bumpF_routines (s : State) (pg0 : Nat) (f : RegF) (n i0 : Nat) : (bumpF s pg0 f n i0).routines = s.routines := rfl
@[simp] theorem bumpF_descs (s : State) (pg0 : Nat) (f : RegF) (n i0 : Nat) : (bumpF s pg0 f n i0).descs = s.descs := rfl
@[simp] theorem bumpF_allocs (s : State) (pg0 : Nat) (f : RegF) (n i0 : Nat) : (bumpF s pg0 f n i0).allocs = s.allocs := rfl
@[simp] theorem bumpF_otabs (s : State) (pg0 : Nat) (f : RegF) (n i0 : Nat) : (bumpF s pg0 f n i0).otabs = s.otabs := rfl
@[simp] theorem bumpF_descQ (s : State) (pg0 : Nat) (f : RegF) (n i0 : Nat) : (bumpF s pg0 f n i0).descQ = s.descQ := rfl
@[simp] theorem bumpF_allocQ (s : State) (pg0 : Nat) (f : RegF) (n i0 : Nat) : (bumpF s pg0 f n i0).allocQ = s.allocQ := rfl
@[simp] theorem bumpF_fetches (s : State) (pg0 : Nat) (f : RegF) (n i0 : Nat) : (bumpF s pg0 f n i0).fetches = s.fetches := rfl
@[simp] theorem bumpF_nextFetch (s : State) (pg0 : Nat) (f : RegF) (n i0 : Nat) : (bumpF s pg0 f n i0).nextFetch = s.nextFetch := rfl
@[simp] theorem bumpF_arbs (s : State) (pg0 : Nat) (f : RegF) (n i0 : Nat) : (bumpF s pg0 f n i0).arbs = s.arbs := rfl
@[simp] theorem bumpF_edges (s : State) (pg0 : Nat) (f : RegF) (n i0 : Nat) : (bumpF s pg0 f n i0).edges = s.edges := rfl
@[simp] theorem bumpF_ports (s : State) (pg0 : Nat) (f : RegF) (n i0 : Nat) : (bumpF s pg0 f n i0).ports = s.ports := rfl
@[simp] theorem bumpF_sync (s : State) (pg0 : Nat) (f : RegF) (n i0 : Nat) : (bumpF s pg0 f n i0).sync = s.sync := rfl
@[simp] theorem bumpF_outReqs (s : State) (pg0 : Nat) (f : RegF) (n i0 : Nat) : (bumpF s pg0 f n i0).outReqs = s.outReqs := rfl
@[simp] theorem bumpF_inPkts (s : State) (pg0 : Nat) (f : RegF) (n i0 : Nat) : (bumpF s pg0 f n i0).inPkts = s.inPkts := rfl
@[simp] theorem bumpF_nextIn (s : State) (pg0 : Nat) (f : RegF) (n i0 : Nat) : (bumpF s pg0 f n i0).nextIn = s.nextIn := rfl
@[simp] theorem bumpF_egress (s : State) (pg0 : Nat) (f : RegF) (n i0 : Nat) : (bumpF s pg0 f n i0).egress = s.egress := rfl
@[simp] theorem bumpF_cxl (s : State) (pg0 : Nat) (f : RegF) (n i0 : Nat) : (bumpF s pg0 f n i0).cxl = s.cxl := rfl
@[simp] theorem bumpF_armed (s : State) (pg0 : Nat) (f : RegF) (n i0 : Nat) : (bumpF s pg0 f n i0).armed = s.armed := rfl
@[simp] theorem bumpF_running (s : State) (pg0 : Nat) (f : RegF) (n i0 : Nat) : (bumpF s pg0 f n i0).running = s.running := rfl
@[simp] theorem bumpF_ledger (s : State) (pg0 : Nat) (f : RegF) (n i0 : Nat) : (bumpF s pg0 f n i0).ledger = s.ledger := rfl
@[simp] theorem bumpF_causes (s : State) (pg0 : Nat) (f : RegF) (n i0 : Nat) : (bumpF s pg0 f n i0).causes = s.causes := rfl
@[simp] theorem bumpF_entries (s : State) (pg0 : Nat) (f : RegF) (n i0 : Nat) : (bumpF s pg0 f n i0).entries = s.entries := rfl
@[simp] theorem bumpF_entry (s : State) (pg0 : Nat) (f : RegF) (n i0 : Nat) : (bumpF s pg0 f n i0).entry = s.entry := rfl
@[simp] theorem bumpF_history (s : State) (pg0 : Nat) (f : RegF) (n i0 : Nat) : (bumpF s pg0 f n i0).history = s.history := rfl
@[simp] theorem bumpF_clearDesc (s : State) (pg0 : Nat) (f : RegF) (n i0 : Nat) : (bumpF s pg0 f n i0).clearDesc = s.clearDesc := rfl
@[simp] theorem bumpF_fenceFlushed (s : State) (pg0 : Nat) (f : RegF) (n i0 : Nat) : (bumpF s pg0 f n i0).fenceFlushed = s.fenceFlushed := rfl
@[simp] theorem bumpF_kicks (s : State) (pg0 : Nat) (f : RegF) (n i0 : Nat) : (bumpF s pg0 f n i0).kicks = s.kicks := rfl
@[simp] theorem bumpF_uzoids (s : State) (pg0 : Nat) (f : RegF) (n i0 : Nat) : (bumpF s pg0 f n i0).uzoids = s.uzoids := rfl
@[simp] theorem bumpF_restarting (s : State) (pg0 : Nat) (f : RegF) (n i0 : Nat) : (bumpF s pg0 f n i0).restarting = s.restarting := rfl
@[simp] theorem bumpF_bwq (s : State) (pg0 : Nat) (f : RegF) (n i0 : Nat) : (bumpF s pg0 f n i0).bwq = s.bwq := rfl
@[simp] theorem bumpF_flash (s : State) (pg0 : Nat) (f : RegF) (n i0 : Nat) : (bumpF s pg0 f n i0).flash = s.flash := rfl
@[simp] theorem bumpF_board (s : State) (pg0 : Nat) (f : RegF) (n i0 : Nat) : (bumpF s pg0 f n i0).board = s.board := rfl
@[simp] theorem bumpF_us (s : State) (pg0 : Nat) (f : RegF) (n i0 : Nat) : (bumpF s pg0 f n i0).us = s.us := rfl
@[simp] theorem bumpF_drawn (s : State) (pg0 : Nat) (f : RegF) (n i0 : Nat) : (bumpF s pg0 f n i0).drawn = s.drawn := rfl
@[simp] theorem bumpF_out (s : State) (pg0 : Nat) (f : RegF) (n i0 : Nat) : (bumpF s pg0 f n i0).out = s.out := rfl
@[simp] theorem bumpF_chan (s : State) (pg0 : Nat) (f : RegF) (n i0 : Nat) (st ch : Nat) : (bumpF s pg0 f n i0).chan st ch = s.chan st ch := rfl
@[simp] theorem bumpF_stack (s : State) (pg0 : Nat) (f : RegF) (n i0 : Nat) (st : Nat) : (bumpF s pg0 f n i0).stack st = s.stack st := rfl
@[simp] theorem bumpF_unit (s : State) (pg0 : Nat) (f : RegF) (n i0 : Nat) (u : Nat) : (bumpF s pg0 f n i0).unit u = s.unit u := rfl
@[simp] theorem bumpF_tile (s : State) (pg0 : Nat) (f : RegF) (n i0 : Nat) (t : Nat) : (bumpF s pg0 f n i0).tile t = s.tile t := rfl
@[simp] theorem bumpF_seq (s : State) (pg0 : Nat) (f : RegF) (n i0 : Nat) (d : Nat) : (bumpF s pg0 f n i0).seq d = s.seq d := rfl
@[simp] theorem bumpF_arb (s : State) (pg0 : Nat) (f : RegF) (n i0 : Nat) (d i : Nat) : (bumpF s pg0 f n i0).arb d i = s.arb d i := rfl
@[simp] theorem bumpF_port (s : State) (pg0 : Nat) (f : RegF) (n i0 : Nat) (p : Nat) : (bumpF s pg0 f n i0).port p = s.port p := rfl
@[simp] theorem bumpF_desc (s : State) (pg0 : Nat) (f : RegF) (n i0 : Nat) (h : Nat) : (bumpF s pg0 f n i0).desc h = s.desc h := rfl
@[simp] theorem bumpF_alloc (s : State) (pg0 : Nat) (f : RegF) (n i0 : Nat) (i : Nat) : (bumpF s pg0 f n i0).alloc i = s.alloc i := rfl
@[simp] theorem bumpF_otab (s : State) (pg0 : Nat) (f : RegF) (n i0 : Nat) (i : Nat) : (bumpF s pg0 f n i0).otab i = s.otab i := rfl
@[simp] theorem wrapF_pending (s : State) (pg0 : Nat) (f : RegF) (n i0 : Nat) : (wrapF s pg0 f n i0).pending = s.pending := rfl
@[simp] theorem wrapF_member (s : State) (pg0 : Nat) (f : RegF) (n i0 : Nat) : (wrapF s pg0 f n i0).member = s.member := rfl
@[simp] theorem wrapF_disabled (s : State) (pg0 : Nat) (f : RegF) (n i0 : Nat) : (wrapF s pg0 f n i0).disabled = s.disabled := rfl
@[simp] theorem wrapF_enabled (s : State) (pg0 : Nat) (f : RegF) (n i0 : Nat) : (wrapF s pg0 f n i0).enabled = s.enabled := rfl
@[simp] theorem wrapF_vecSent (s : State) (pg0 : Nat) (f : RegF) (n i0 : Nat) : (wrapF s pg0 f n i0).vecSent = s.vecSent := rfl
@[simp] theorem wrapF_vecMask (s : State) (pg0 : Nat) (f : RegF) (n i0 : Nat) : (wrapF s pg0 f n i0).vecMask = s.vecMask := rfl
@[simp] theorem wrapF_vecPend (s : State) (pg0 : Nat) (f : RegF) (n i0 : Nat) : (wrapF s pg0 f n i0).vecPend = s.vecPend := rfl
@[simp] theorem wrapF_vecTable (s : State) (pg0 : Nat) (f : RegF) (n i0 : Nat) : (wrapF s pg0 f n i0).vecTable = s.vecTable := rfl
@[simp] theorem wrapF_funcMask (s : State) (pg0 : Nat) (f : RegF) (n i0 : Nat) : (wrapF s pg0 f n i0).funcMask = s.funcMask := rfl
@[simp] theorem wrapF_mem (s : State) (pg0 : Nat) (f : RegF) (n i0 : Nat) : (wrapF s pg0 f n i0).mem = s.mem := rfl
@[simp] theorem wrapF_poison (s : State) (pg0 : Nat) (f : RegF) (n i0 : Nat) : (wrapF s pg0 f n i0).poison = s.poison := rfl
@[simp] theorem wrapF_flips (s : State) (pg0 : Nat) (f : RegF) (n i0 : Nat) : (wrapF s pg0 f n i0).flips = s.flips := rfl
@[simp] theorem wrapF_slotErrs (s : State) (pg0 : Nat) (f : RegF) (n i0 : Nat) : (wrapF s pg0 f n i0).slotErrs = s.slotErrs := rfl
@[simp] theorem wrapF_chans (s : State) (pg0 : Nat) (f : RegF) (n i0 : Nat) : (wrapF s pg0 f n i0).chans = s.chans := rfl
@[simp] theorem wrapF_stackTab (s : State) (pg0 : Nat) (f : RegF) (n i0 : Nat) : (wrapF s pg0 f n i0).stackTab = s.stackTab := rfl
@[simp] theorem wrapF_units (s : State) (pg0 : Nat) (f : RegF) (n i0 : Nat) : (wrapF s pg0 f n i0).units = s.units := rfl
@[simp] theorem wrapF_tiles (s : State) (pg0 : Nat) (f : RegF) (n i0 : Nat) : (wrapF s pg0 f n i0).tiles = s.tiles := rfl
@[simp] theorem wrapF_seqs (s : State) (pg0 : Nat) (f : RegF) (n i0 : Nat) : (wrapF s pg0 f n i0).seqs = s.seqs := rfl
@[simp] theorem wrapF_imem (s : State) (pg0 : Nat) (f : RegF) (n i0 : Nat) : (wrapF s pg0 f n i0).imem = s.imem := rfl
@[simp] theorem wrapF_lib (s : State) (pg0 : Nat) (f : RegF) (n i0 : Nat) : (wrapF s pg0 f n i0).lib = s.lib := rfl
@[simp] theorem wrapF_routines (s : State) (pg0 : Nat) (f : RegF) (n i0 : Nat) : (wrapF s pg0 f n i0).routines = s.routines := rfl
@[simp] theorem wrapF_descs (s : State) (pg0 : Nat) (f : RegF) (n i0 : Nat) : (wrapF s pg0 f n i0).descs = s.descs := rfl
@[simp] theorem wrapF_allocs (s : State) (pg0 : Nat) (f : RegF) (n i0 : Nat) : (wrapF s pg0 f n i0).allocs = s.allocs := rfl
@[simp] theorem wrapF_otabs (s : State) (pg0 : Nat) (f : RegF) (n i0 : Nat) : (wrapF s pg0 f n i0).otabs = s.otabs := rfl
@[simp] theorem wrapF_descQ (s : State) (pg0 : Nat) (f : RegF) (n i0 : Nat) : (wrapF s pg0 f n i0).descQ = s.descQ := rfl
@[simp] theorem wrapF_allocQ (s : State) (pg0 : Nat) (f : RegF) (n i0 : Nat) : (wrapF s pg0 f n i0).allocQ = s.allocQ := rfl
@[simp] theorem wrapF_fetches (s : State) (pg0 : Nat) (f : RegF) (n i0 : Nat) : (wrapF s pg0 f n i0).fetches = s.fetches := rfl
@[simp] theorem wrapF_nextFetch (s : State) (pg0 : Nat) (f : RegF) (n i0 : Nat) : (wrapF s pg0 f n i0).nextFetch = s.nextFetch := rfl
@[simp] theorem wrapF_arbs (s : State) (pg0 : Nat) (f : RegF) (n i0 : Nat) : (wrapF s pg0 f n i0).arbs = s.arbs := rfl
@[simp] theorem wrapF_edges (s : State) (pg0 : Nat) (f : RegF) (n i0 : Nat) : (wrapF s pg0 f n i0).edges = s.edges := rfl
@[simp] theorem wrapF_ports (s : State) (pg0 : Nat) (f : RegF) (n i0 : Nat) : (wrapF s pg0 f n i0).ports = s.ports := rfl
@[simp] theorem wrapF_sync (s : State) (pg0 : Nat) (f : RegF) (n i0 : Nat) : (wrapF s pg0 f n i0).sync = s.sync := rfl
@[simp] theorem wrapF_outReqs (s : State) (pg0 : Nat) (f : RegF) (n i0 : Nat) : (wrapF s pg0 f n i0).outReqs = s.outReqs := rfl
@[simp] theorem wrapF_inPkts (s : State) (pg0 : Nat) (f : RegF) (n i0 : Nat) : (wrapF s pg0 f n i0).inPkts = s.inPkts := rfl
@[simp] theorem wrapF_nextIn (s : State) (pg0 : Nat) (f : RegF) (n i0 : Nat) : (wrapF s pg0 f n i0).nextIn = s.nextIn := rfl
@[simp] theorem wrapF_egress (s : State) (pg0 : Nat) (f : RegF) (n i0 : Nat) : (wrapF s pg0 f n i0).egress = s.egress := rfl
@[simp] theorem wrapF_cxl (s : State) (pg0 : Nat) (f : RegF) (n i0 : Nat) : (wrapF s pg0 f n i0).cxl = s.cxl := rfl
@[simp] theorem wrapF_armed (s : State) (pg0 : Nat) (f : RegF) (n i0 : Nat) : (wrapF s pg0 f n i0).armed = s.armed := rfl
@[simp] theorem wrapF_running (s : State) (pg0 : Nat) (f : RegF) (n i0 : Nat) : (wrapF s pg0 f n i0).running = s.running := rfl
@[simp] theorem wrapF_ledger (s : State) (pg0 : Nat) (f : RegF) (n i0 : Nat) : (wrapF s pg0 f n i0).ledger = s.ledger := rfl
@[simp] theorem wrapF_causes (s : State) (pg0 : Nat) (f : RegF) (n i0 : Nat) : (wrapF s pg0 f n i0).causes = s.causes := rfl
@[simp] theorem wrapF_entries (s : State) (pg0 : Nat) (f : RegF) (n i0 : Nat) : (wrapF s pg0 f n i0).entries = s.entries := rfl
@[simp] theorem wrapF_entry (s : State) (pg0 : Nat) (f : RegF) (n i0 : Nat) : (wrapF s pg0 f n i0).entry = s.entry := rfl
@[simp] theorem wrapF_history (s : State) (pg0 : Nat) (f : RegF) (n i0 : Nat) : (wrapF s pg0 f n i0).history = s.history := rfl
@[simp] theorem wrapF_clearDesc (s : State) (pg0 : Nat) (f : RegF) (n i0 : Nat) : (wrapF s pg0 f n i0).clearDesc = s.clearDesc := rfl
@[simp] theorem wrapF_fenceFlushed (s : State) (pg0 : Nat) (f : RegF) (n i0 : Nat) : (wrapF s pg0 f n i0).fenceFlushed = s.fenceFlushed := rfl
@[simp] theorem wrapF_kicks (s : State) (pg0 : Nat) (f : RegF) (n i0 : Nat) : (wrapF s pg0 f n i0).kicks = s.kicks := rfl
@[simp] theorem wrapF_uzoids (s : State) (pg0 : Nat) (f : RegF) (n i0 : Nat) : (wrapF s pg0 f n i0).uzoids = s.uzoids := rfl
@[simp] theorem wrapF_restarting (s : State) (pg0 : Nat) (f : RegF) (n i0 : Nat) : (wrapF s pg0 f n i0).restarting = s.restarting := rfl
@[simp] theorem wrapF_bwq (s : State) (pg0 : Nat) (f : RegF) (n i0 : Nat) : (wrapF s pg0 f n i0).bwq = s.bwq := rfl
@[simp] theorem wrapF_flash (s : State) (pg0 : Nat) (f : RegF) (n i0 : Nat) : (wrapF s pg0 f n i0).flash = s.flash := rfl
@[simp] theorem wrapF_board (s : State) (pg0 : Nat) (f : RegF) (n i0 : Nat) : (wrapF s pg0 f n i0).board = s.board := rfl
@[simp] theorem wrapF_us (s : State) (pg0 : Nat) (f : RegF) (n i0 : Nat) : (wrapF s pg0 f n i0).us = s.us := rfl
@[simp] theorem wrapF_drawn (s : State) (pg0 : Nat) (f : RegF) (n i0 : Nat) : (wrapF s pg0 f n i0).drawn = s.drawn := rfl
@[simp] theorem wrapF_out (s : State) (pg0 : Nat) (f : RegF) (n i0 : Nat) : (wrapF s pg0 f n i0).out = s.out := rfl
@[simp] theorem wrapF_chan (s : State) (pg0 : Nat) (f : RegF) (n i0 : Nat) (st ch : Nat) : (wrapF s pg0 f n i0).chan st ch = s.chan st ch := rfl
@[simp] theorem wrapF_stack (s : State) (pg0 : Nat) (f : RegF) (n i0 : Nat) (st : Nat) : (wrapF s pg0 f n i0).stack st = s.stack st := rfl
@[simp] theorem wrapF_unit (s : State) (pg0 : Nat) (f : RegF) (n i0 : Nat) (u : Nat) : (wrapF s pg0 f n i0).unit u = s.unit u := rfl
@[simp] theorem wrapF_tile (s : State) (pg0 : Nat) (f : RegF) (n i0 : Nat) (t : Nat) : (wrapF s pg0 f n i0).tile t = s.tile t := rfl
@[simp] theorem wrapF_seq (s : State) (pg0 : Nat) (f : RegF) (n i0 : Nat) (d : Nat) : (wrapF s pg0 f n i0).seq d = s.seq d := rfl
@[simp] theorem wrapF_arb (s : State) (pg0 : Nat) (f : RegF) (n i0 : Nat) (d i : Nat) : (wrapF s pg0 f n i0).arb d i = s.arb d i := rfl
@[simp] theorem wrapF_port (s : State) (pg0 : Nat) (f : RegF) (n i0 : Nat) (p : Nat) : (wrapF s pg0 f n i0).port p = s.port p := rfl
@[simp] theorem wrapF_desc (s : State) (pg0 : Nat) (f : RegF) (n i0 : Nat) (h : Nat) : (wrapF s pg0 f n i0).desc h = s.desc h := rfl
@[simp] theorem wrapF_alloc (s : State) (pg0 : Nat) (f : RegF) (n i0 : Nat) (i : Nat) : (wrapF s pg0 f n i0).alloc i = s.alloc i := rfl
@[simp] theorem wrapF_otab (s : State) (pg0 : Nat) (f : RegF) (n i0 : Nat) (i : Nat) : (wrapF s pg0 f n i0).otab i = s.otab i := rfl
@[simp] theorem maxF_pending (s : State) (pg0 : Nat) (f : RegF) (x i0 : Nat) : (maxF s pg0 f x i0).pending = s.pending := rfl
@[simp] theorem maxF_member (s : State) (pg0 : Nat) (f : RegF) (x i0 : Nat) : (maxF s pg0 f x i0).member = s.member := rfl
@[simp] theorem maxF_disabled (s : State) (pg0 : Nat) (f : RegF) (x i0 : Nat) : (maxF s pg0 f x i0).disabled = s.disabled := rfl
@[simp] theorem maxF_enabled (s : State) (pg0 : Nat) (f : RegF) (x i0 : Nat) : (maxF s pg0 f x i0).enabled = s.enabled := rfl
@[simp] theorem maxF_vecSent (s : State) (pg0 : Nat) (f : RegF) (x i0 : Nat) : (maxF s pg0 f x i0).vecSent = s.vecSent := rfl
@[simp] theorem maxF_vecMask (s : State) (pg0 : Nat) (f : RegF) (x i0 : Nat) : (maxF s pg0 f x i0).vecMask = s.vecMask := rfl
@[simp] theorem maxF_vecPend (s : State) (pg0 : Nat) (f : RegF) (x i0 : Nat) : (maxF s pg0 f x i0).vecPend = s.vecPend := rfl
@[simp] theorem maxF_vecTable (s : State) (pg0 : Nat) (f : RegF) (x i0 : Nat) : (maxF s pg0 f x i0).vecTable = s.vecTable := rfl
@[simp] theorem maxF_funcMask (s : State) (pg0 : Nat) (f : RegF) (x i0 : Nat) : (maxF s pg0 f x i0).funcMask = s.funcMask := rfl
@[simp] theorem maxF_mem (s : State) (pg0 : Nat) (f : RegF) (x i0 : Nat) : (maxF s pg0 f x i0).mem = s.mem := rfl
@[simp] theorem maxF_poison (s : State) (pg0 : Nat) (f : RegF) (x i0 : Nat) : (maxF s pg0 f x i0).poison = s.poison := rfl
@[simp] theorem maxF_flips (s : State) (pg0 : Nat) (f : RegF) (x i0 : Nat) : (maxF s pg0 f x i0).flips = s.flips := rfl
@[simp] theorem maxF_slotErrs (s : State) (pg0 : Nat) (f : RegF) (x i0 : Nat) : (maxF s pg0 f x i0).slotErrs = s.slotErrs := rfl
@[simp] theorem maxF_chans (s : State) (pg0 : Nat) (f : RegF) (x i0 : Nat) : (maxF s pg0 f x i0).chans = s.chans := rfl
@[simp] theorem maxF_stackTab (s : State) (pg0 : Nat) (f : RegF) (x i0 : Nat) : (maxF s pg0 f x i0).stackTab = s.stackTab := rfl
@[simp] theorem maxF_units (s : State) (pg0 : Nat) (f : RegF) (x i0 : Nat) : (maxF s pg0 f x i0).units = s.units := rfl
@[simp] theorem maxF_tiles (s : State) (pg0 : Nat) (f : RegF) (x i0 : Nat) : (maxF s pg0 f x i0).tiles = s.tiles := rfl
@[simp] theorem maxF_seqs (s : State) (pg0 : Nat) (f : RegF) (x i0 : Nat) : (maxF s pg0 f x i0).seqs = s.seqs := rfl
@[simp] theorem maxF_imem (s : State) (pg0 : Nat) (f : RegF) (x i0 : Nat) : (maxF s pg0 f x i0).imem = s.imem := rfl
@[simp] theorem maxF_lib (s : State) (pg0 : Nat) (f : RegF) (x i0 : Nat) : (maxF s pg0 f x i0).lib = s.lib := rfl
@[simp] theorem maxF_routines (s : State) (pg0 : Nat) (f : RegF) (x i0 : Nat) : (maxF s pg0 f x i0).routines = s.routines := rfl
@[simp] theorem maxF_descs (s : State) (pg0 : Nat) (f : RegF) (x i0 : Nat) : (maxF s pg0 f x i0).descs = s.descs := rfl
@[simp] theorem maxF_allocs (s : State) (pg0 : Nat) (f : RegF) (x i0 : Nat) : (maxF s pg0 f x i0).allocs = s.allocs := rfl
@[simp] theorem maxF_otabs (s : State) (pg0 : Nat) (f : RegF) (x i0 : Nat) : (maxF s pg0 f x i0).otabs = s.otabs := rfl
@[simp] theorem maxF_descQ (s : State) (pg0 : Nat) (f : RegF) (x i0 : Nat) : (maxF s pg0 f x i0).descQ = s.descQ := rfl
@[simp] theorem maxF_allocQ (s : State) (pg0 : Nat) (f : RegF) (x i0 : Nat) : (maxF s pg0 f x i0).allocQ = s.allocQ := rfl
@[simp] theorem maxF_fetches (s : State) (pg0 : Nat) (f : RegF) (x i0 : Nat) : (maxF s pg0 f x i0).fetches = s.fetches := rfl
@[simp] theorem maxF_nextFetch (s : State) (pg0 : Nat) (f : RegF) (x i0 : Nat) : (maxF s pg0 f x i0).nextFetch = s.nextFetch := rfl
@[simp] theorem maxF_arbs (s : State) (pg0 : Nat) (f : RegF) (x i0 : Nat) : (maxF s pg0 f x i0).arbs = s.arbs := rfl
@[simp] theorem maxF_edges (s : State) (pg0 : Nat) (f : RegF) (x i0 : Nat) : (maxF s pg0 f x i0).edges = s.edges := rfl
@[simp] theorem maxF_ports (s : State) (pg0 : Nat) (f : RegF) (x i0 : Nat) : (maxF s pg0 f x i0).ports = s.ports := rfl
@[simp] theorem maxF_sync (s : State) (pg0 : Nat) (f : RegF) (x i0 : Nat) : (maxF s pg0 f x i0).sync = s.sync := rfl
@[simp] theorem maxF_outReqs (s : State) (pg0 : Nat) (f : RegF) (x i0 : Nat) : (maxF s pg0 f x i0).outReqs = s.outReqs := rfl
@[simp] theorem maxF_inPkts (s : State) (pg0 : Nat) (f : RegF) (x i0 : Nat) : (maxF s pg0 f x i0).inPkts = s.inPkts := rfl
@[simp] theorem maxF_nextIn (s : State) (pg0 : Nat) (f : RegF) (x i0 : Nat) : (maxF s pg0 f x i0).nextIn = s.nextIn := rfl
@[simp] theorem maxF_egress (s : State) (pg0 : Nat) (f : RegF) (x i0 : Nat) : (maxF s pg0 f x i0).egress = s.egress := rfl
@[simp] theorem maxF_cxl (s : State) (pg0 : Nat) (f : RegF) (x i0 : Nat) : (maxF s pg0 f x i0).cxl = s.cxl := rfl
@[simp] theorem maxF_armed (s : State) (pg0 : Nat) (f : RegF) (x i0 : Nat) : (maxF s pg0 f x i0).armed = s.armed := rfl
@[simp] theorem maxF_running (s : State) (pg0 : Nat) (f : RegF) (x i0 : Nat) : (maxF s pg0 f x i0).running = s.running := rfl
@[simp] theorem maxF_ledger (s : State) (pg0 : Nat) (f : RegF) (x i0 : Nat) : (maxF s pg0 f x i0).ledger = s.ledger := rfl
@[simp] theorem maxF_causes (s : State) (pg0 : Nat) (f : RegF) (x i0 : Nat) : (maxF s pg0 f x i0).causes = s.causes := rfl
@[simp] theorem maxF_entries (s : State) (pg0 : Nat) (f : RegF) (x i0 : Nat) : (maxF s pg0 f x i0).entries = s.entries := rfl
@[simp] theorem maxF_entry (s : State) (pg0 : Nat) (f : RegF) (x i0 : Nat) : (maxF s pg0 f x i0).entry = s.entry := rfl
@[simp] theorem maxF_history (s : State) (pg0 : Nat) (f : RegF) (x i0 : Nat) : (maxF s pg0 f x i0).history = s.history := rfl
@[simp] theorem maxF_clearDesc (s : State) (pg0 : Nat) (f : RegF) (x i0 : Nat) : (maxF s pg0 f x i0).clearDesc = s.clearDesc := rfl
@[simp] theorem maxF_fenceFlushed (s : State) (pg0 : Nat) (f : RegF) (x i0 : Nat) : (maxF s pg0 f x i0).fenceFlushed = s.fenceFlushed := rfl
@[simp] theorem maxF_kicks (s : State) (pg0 : Nat) (f : RegF) (x i0 : Nat) : (maxF s pg0 f x i0).kicks = s.kicks := rfl
@[simp] theorem maxF_uzoids (s : State) (pg0 : Nat) (f : RegF) (x i0 : Nat) : (maxF s pg0 f x i0).uzoids = s.uzoids := rfl
@[simp] theorem maxF_restarting (s : State) (pg0 : Nat) (f : RegF) (x i0 : Nat) : (maxF s pg0 f x i0).restarting = s.restarting := rfl
@[simp] theorem maxF_bwq (s : State) (pg0 : Nat) (f : RegF) (x i0 : Nat) : (maxF s pg0 f x i0).bwq = s.bwq := rfl
@[simp] theorem maxF_flash (s : State) (pg0 : Nat) (f : RegF) (x i0 : Nat) : (maxF s pg0 f x i0).flash = s.flash := rfl
@[simp] theorem maxF_board (s : State) (pg0 : Nat) (f : RegF) (x i0 : Nat) : (maxF s pg0 f x i0).board = s.board := rfl
@[simp] theorem maxF_us (s : State) (pg0 : Nat) (f : RegF) (x i0 : Nat) : (maxF s pg0 f x i0).us = s.us := rfl
@[simp] theorem maxF_drawn (s : State) (pg0 : Nat) (f : RegF) (x i0 : Nat) : (maxF s pg0 f x i0).drawn = s.drawn := rfl
@[simp] theorem maxF_out (s : State) (pg0 : Nat) (f : RegF) (x i0 : Nat) : (maxF s pg0 f x i0).out = s.out := rfl
@[simp] theorem maxF_chan (s : State) (pg0 : Nat) (f : RegF) (x i0 : Nat) (st ch : Nat) : (maxF s pg0 f x i0).chan st ch = s.chan st ch := rfl
@[simp] theorem maxF_stack (s : State) (pg0 : Nat) (f : RegF) (x i0 : Nat) (st : Nat) : (maxF s pg0 f x i0).stack st = s.stack st := rfl
@[simp] theorem maxF_unit (s : State) (pg0 : Nat) (f : RegF) (x i0 : Nat) (u : Nat) : (maxF s pg0 f x i0).unit u = s.unit u := rfl
@[simp] theorem maxF_tile (s : State) (pg0 : Nat) (f : RegF) (x i0 : Nat) (t : Nat) : (maxF s pg0 f x i0).tile t = s.tile t := rfl
@[simp] theorem maxF_seq (s : State) (pg0 : Nat) (f : RegF) (x i0 : Nat) (d : Nat) : (maxF s pg0 f x i0).seq d = s.seq d := rfl
@[simp] theorem maxF_arb (s : State) (pg0 : Nat) (f : RegF) (x i0 : Nat) (d i : Nat) : (maxF s pg0 f x i0).arb d i = s.arb d i := rfl
@[simp] theorem maxF_port (s : State) (pg0 : Nat) (f : RegF) (x i0 : Nat) (p : Nat) : (maxF s pg0 f x i0).port p = s.port p := rfl
@[simp] theorem maxF_desc (s : State) (pg0 : Nat) (f : RegF) (x i0 : Nat) (h : Nat) : (maxF s pg0 f x i0).desc h = s.desc h := rfl
@[simp] theorem maxF_alloc (s : State) (pg0 : Nat) (f : RegF) (x i0 : Nat) (i : Nat) : (maxF s pg0 f x i0).alloc i = s.alloc i := rfl
@[simp] theorem maxF_otab (s : State) (pg0 : Nat) (f : RegF) (x i0 : Nat) (i : Nat) : (maxF s pg0 f x i0).otab i = s.otab i := rfl
@[simp] theorem event_pending (s : State) (pg0 n : Nat) : (event s pg0 n).pending = s.pending := rfl
@[simp] theorem event_member (s : State) (pg0 n : Nat) : (event s pg0 n).member = s.member := rfl
@[simp] theorem event_disabled (s : State) (pg0 n : Nat) : (event s pg0 n).disabled = s.disabled := rfl
@[simp] theorem event_enabled (s : State) (pg0 n : Nat) : (event s pg0 n).enabled = s.enabled := rfl
@[simp] theorem event_vecSent (s : State) (pg0 n : Nat) : (event s pg0 n).vecSent = s.vecSent := rfl
@[simp] theorem event_vecMask (s : State) (pg0 n : Nat) : (event s pg0 n).vecMask = s.vecMask := rfl
@[simp] theorem event_vecPend (s : State) (pg0 n : Nat) : (event s pg0 n).vecPend = s.vecPend := rfl
@[simp] theorem event_vecTable (s : State) (pg0 n : Nat) : (event s pg0 n).vecTable = s.vecTable := rfl
@[simp] theorem event_funcMask (s : State) (pg0 n : Nat) : (event s pg0 n).funcMask = s.funcMask := rfl
@[simp] theorem event_mem (s : State) (pg0 n : Nat) : (event s pg0 n).mem = s.mem := rfl
@[simp] theorem event_poison (s : State) (pg0 n : Nat) : (event s pg0 n).poison = s.poison := rfl
@[simp] theorem event_flips (s : State) (pg0 n : Nat) : (event s pg0 n).flips = s.flips := rfl
@[simp] theorem event_slotErrs (s : State) (pg0 n : Nat) : (event s pg0 n).slotErrs = s.slotErrs := rfl
@[simp] theorem event_chans (s : State) (pg0 n : Nat) : (event s pg0 n).chans = s.chans := rfl
@[simp] theorem event_stackTab (s : State) (pg0 n : Nat) : (event s pg0 n).stackTab = s.stackTab := rfl
@[simp] theorem event_units (s : State) (pg0 n : Nat) : (event s pg0 n).units = s.units := rfl
@[simp] theorem event_tiles (s : State) (pg0 n : Nat) : (event s pg0 n).tiles = s.tiles := rfl
@[simp] theorem event_seqs (s : State) (pg0 n : Nat) : (event s pg0 n).seqs = s.seqs := rfl
@[simp] theorem event_imem (s : State) (pg0 n : Nat) : (event s pg0 n).imem = s.imem := rfl
@[simp] theorem event_lib (s : State) (pg0 n : Nat) : (event s pg0 n).lib = s.lib := rfl
@[simp] theorem event_routines (s : State) (pg0 n : Nat) : (event s pg0 n).routines = s.routines := rfl
@[simp] theorem event_descs (s : State) (pg0 n : Nat) : (event s pg0 n).descs = s.descs := rfl
@[simp] theorem event_allocs (s : State) (pg0 n : Nat) : (event s pg0 n).allocs = s.allocs := rfl
@[simp] theorem event_otabs (s : State) (pg0 n : Nat) : (event s pg0 n).otabs = s.otabs := rfl
@[simp] theorem event_descQ (s : State) (pg0 n : Nat) : (event s pg0 n).descQ = s.descQ := rfl
@[simp] theorem event_allocQ (s : State) (pg0 n : Nat) : (event s pg0 n).allocQ = s.allocQ := rfl
@[simp] theorem event_fetches (s : State) (pg0 n : Nat) : (event s pg0 n).fetches = s.fetches := rfl
@[simp] theorem event_nextFetch (s : State) (pg0 n : Nat) : (event s pg0 n).nextFetch = s.nextFetch := rfl
@[simp] theorem event_arbs (s : State) (pg0 n : Nat) : (event s pg0 n).arbs = s.arbs := rfl
@[simp] theorem event_edges (s : State) (pg0 n : Nat) : (event s pg0 n).edges = s.edges := rfl
@[simp] theorem event_ports (s : State) (pg0 n : Nat) : (event s pg0 n).ports = s.ports := rfl
@[simp] theorem event_sync (s : State) (pg0 n : Nat) : (event s pg0 n).sync = s.sync := rfl
@[simp] theorem event_outReqs (s : State) (pg0 n : Nat) : (event s pg0 n).outReqs = s.outReqs := rfl
@[simp] theorem event_inPkts (s : State) (pg0 n : Nat) : (event s pg0 n).inPkts = s.inPkts := rfl
@[simp] theorem event_nextIn (s : State) (pg0 n : Nat) : (event s pg0 n).nextIn = s.nextIn := rfl
@[simp] theorem event_egress (s : State) (pg0 n : Nat) : (event s pg0 n).egress = s.egress := rfl
@[simp] theorem event_cxl (s : State) (pg0 n : Nat) : (event s pg0 n).cxl = s.cxl := rfl
@[simp] theorem event_armed (s : State) (pg0 n : Nat) : (event s pg0 n).armed = s.armed := rfl
@[simp] theorem event_running (s : State) (pg0 n : Nat) : (event s pg0 n).running = s.running := rfl
@[simp] theorem event_ledger (s : State) (pg0 n : Nat) : (event s pg0 n).ledger = s.ledger := rfl
@[simp] theorem event_causes (s : State) (pg0 n : Nat) : (event s pg0 n).causes = s.causes := rfl
@[simp] theorem event_entries (s : State) (pg0 n : Nat) : (event s pg0 n).entries = s.entries := rfl
@[simp] theorem event_entry (s : State) (pg0 n : Nat) : (event s pg0 n).entry = s.entry := rfl
@[simp] theorem event_history (s : State) (pg0 n : Nat) : (event s pg0 n).history = s.history := rfl
@[simp] theorem event_clearDesc (s : State) (pg0 n : Nat) : (event s pg0 n).clearDesc = s.clearDesc := rfl
@[simp] theorem event_fenceFlushed (s : State) (pg0 n : Nat) : (event s pg0 n).fenceFlushed = s.fenceFlushed := rfl
@[simp] theorem event_kicks (s : State) (pg0 n : Nat) : (event s pg0 n).kicks = s.kicks := rfl
@[simp] theorem event_uzoids (s : State) (pg0 n : Nat) : (event s pg0 n).uzoids = s.uzoids := rfl
@[simp] theorem event_restarting (s : State) (pg0 n : Nat) : (event s pg0 n).restarting = s.restarting := rfl
@[simp] theorem event_bwq (s : State) (pg0 n : Nat) : (event s pg0 n).bwq = s.bwq := rfl
@[simp] theorem event_flash (s : State) (pg0 n : Nat) : (event s pg0 n).flash = s.flash := rfl
@[simp] theorem event_board (s : State) (pg0 n : Nat) : (event s pg0 n).board = s.board := rfl
@[simp] theorem event_us (s : State) (pg0 n : Nat) : (event s pg0 n).us = s.us := rfl
@[simp] theorem event_drawn (s : State) (pg0 n : Nat) : (event s pg0 n).drawn = s.drawn := rfl
@[simp] theorem event_out (s : State) (pg0 n : Nat) : (event s pg0 n).out = s.out := rfl
@[simp] theorem event_chan (s : State) (pg0 n : Nat) (st ch : Nat) : (event s pg0 n).chan st ch = s.chan st ch := rfl
@[simp] theorem event_stack (s : State) (pg0 n : Nat) (st : Nat) : (event s pg0 n).stack st = s.stack st := rfl
@[simp] theorem event_unit (s : State) (pg0 n : Nat) (u : Nat) : (event s pg0 n).unit u = s.unit u := rfl
@[simp] theorem event_tile (s : State) (pg0 n : Nat) (t : Nat) : (event s pg0 n).tile t = s.tile t := rfl
@[simp] theorem event_seq (s : State) (pg0 n : Nat) (d : Nat) : (event s pg0 n).seq d = s.seq d := rfl
@[simp] theorem event_arb (s : State) (pg0 n : Nat) (d i : Nat) : (event s pg0 n).arb d i = s.arb d i := rfl
@[simp] theorem event_port (s : State) (pg0 n : Nat) (p : Nat) : (event s pg0 n).port p = s.port p := rfl
@[simp] theorem event_desc (s : State) (pg0 n : Nat) (h : Nat) : (event s pg0 n).desc h = s.desc h := rfl
@[simp] theorem event_alloc (s : State) (pg0 n : Nat) (i : Nat) : (event s pg0 n).alloc i = s.alloc i := rfl
@[simp] theorem event_otab (s : State) (pg0 n : Nat) (i : Nat) : (event s pg0 n).otab i = s.otab i := rfl
@[simp] theorem refusal_pending (s : State) (pg0 : Nat) : (refusal s pg0).pending = s.pending := rfl
@[simp] theorem refusal_member (s : State) (pg0 : Nat) : (refusal s pg0).member = s.member := rfl
@[simp] theorem refusal_disabled (s : State) (pg0 : Nat) : (refusal s pg0).disabled = s.disabled := rfl
@[simp] theorem refusal_enabled (s : State) (pg0 : Nat) : (refusal s pg0).enabled = s.enabled := rfl
@[simp] theorem refusal_vecSent (s : State) (pg0 : Nat) : (refusal s pg0).vecSent = s.vecSent := rfl
@[simp] theorem refusal_vecMask (s : State) (pg0 : Nat) : (refusal s pg0).vecMask = s.vecMask := rfl
@[simp] theorem refusal_vecPend (s : State) (pg0 : Nat) : (refusal s pg0).vecPend = s.vecPend := rfl
@[simp] theorem refusal_vecTable (s : State) (pg0 : Nat) : (refusal s pg0).vecTable = s.vecTable := rfl
@[simp] theorem refusal_funcMask (s : State) (pg0 : Nat) : (refusal s pg0).funcMask = s.funcMask := rfl
@[simp] theorem refusal_mem (s : State) (pg0 : Nat) : (refusal s pg0).mem = s.mem := rfl
@[simp] theorem refusal_poison (s : State) (pg0 : Nat) : (refusal s pg0).poison = s.poison := rfl
@[simp] theorem refusal_flips (s : State) (pg0 : Nat) : (refusal s pg0).flips = s.flips := rfl
@[simp] theorem refusal_slotErrs (s : State) (pg0 : Nat) : (refusal s pg0).slotErrs = s.slotErrs := rfl
@[simp] theorem refusal_chans (s : State) (pg0 : Nat) : (refusal s pg0).chans = s.chans := rfl
@[simp] theorem refusal_stackTab (s : State) (pg0 : Nat) : (refusal s pg0).stackTab = s.stackTab := rfl
@[simp] theorem refusal_units (s : State) (pg0 : Nat) : (refusal s pg0).units = s.units := rfl
@[simp] theorem refusal_tiles (s : State) (pg0 : Nat) : (refusal s pg0).tiles = s.tiles := rfl
@[simp] theorem refusal_seqs (s : State) (pg0 : Nat) : (refusal s pg0).seqs = s.seqs := rfl
@[simp] theorem refusal_imem (s : State) (pg0 : Nat) : (refusal s pg0).imem = s.imem := rfl
@[simp] theorem refusal_lib (s : State) (pg0 : Nat) : (refusal s pg0).lib = s.lib := rfl
@[simp] theorem refusal_routines (s : State) (pg0 : Nat) : (refusal s pg0).routines = s.routines := rfl
@[simp] theorem refusal_descs (s : State) (pg0 : Nat) : (refusal s pg0).descs = s.descs := rfl
@[simp] theorem refusal_allocs (s : State) (pg0 : Nat) : (refusal s pg0).allocs = s.allocs := rfl
@[simp] theorem refusal_otabs (s : State) (pg0 : Nat) : (refusal s pg0).otabs = s.otabs := rfl
@[simp] theorem refusal_descQ (s : State) (pg0 : Nat) : (refusal s pg0).descQ = s.descQ := rfl
@[simp] theorem refusal_allocQ (s : State) (pg0 : Nat) : (refusal s pg0).allocQ = s.allocQ := rfl
@[simp] theorem refusal_fetches (s : State) (pg0 : Nat) : (refusal s pg0).fetches = s.fetches := rfl
@[simp] theorem refusal_nextFetch (s : State) (pg0 : Nat) : (refusal s pg0).nextFetch = s.nextFetch := rfl
@[simp] theorem refusal_arbs (s : State) (pg0 : Nat) : (refusal s pg0).arbs = s.arbs := rfl
@[simp] theorem refusal_edges (s : State) (pg0 : Nat) : (refusal s pg0).edges = s.edges := rfl
@[simp] theorem refusal_ports (s : State) (pg0 : Nat) : (refusal s pg0).ports = s.ports := rfl
@[simp] theorem refusal_sync (s : State) (pg0 : Nat) : (refusal s pg0).sync = s.sync := rfl
@[simp] theorem refusal_outReqs (s : State) (pg0 : Nat) : (refusal s pg0).outReqs = s.outReqs := rfl
@[simp] theorem refusal_inPkts (s : State) (pg0 : Nat) : (refusal s pg0).inPkts = s.inPkts := rfl
@[simp] theorem refusal_nextIn (s : State) (pg0 : Nat) : (refusal s pg0).nextIn = s.nextIn := rfl
@[simp] theorem refusal_egress (s : State) (pg0 : Nat) : (refusal s pg0).egress = s.egress := rfl
@[simp] theorem refusal_cxl (s : State) (pg0 : Nat) : (refusal s pg0).cxl = s.cxl := rfl
@[simp] theorem refusal_armed (s : State) (pg0 : Nat) : (refusal s pg0).armed = s.armed := rfl
@[simp] theorem refusal_running (s : State) (pg0 : Nat) : (refusal s pg0).running = s.running := rfl
@[simp] theorem refusal_ledger (s : State) (pg0 : Nat) : (refusal s pg0).ledger = s.ledger := rfl
@[simp] theorem refusal_causes (s : State) (pg0 : Nat) : (refusal s pg0).causes = s.causes := rfl
@[simp] theorem refusal_entries (s : State) (pg0 : Nat) : (refusal s pg0).entries = s.entries := rfl
@[simp] theorem refusal_entry (s : State) (pg0 : Nat) : (refusal s pg0).entry = s.entry := rfl
@[simp] theorem refusal_history (s : State) (pg0 : Nat) : (refusal s pg0).history = s.history := rfl
@[simp] theorem refusal_clearDesc (s : State) (pg0 : Nat) : (refusal s pg0).clearDesc = s.clearDesc := rfl
@[simp] theorem refusal_fenceFlushed (s : State) (pg0 : Nat) : (refusal s pg0).fenceFlushed = s.fenceFlushed := rfl
@[simp] theorem refusal_kicks (s : State) (pg0 : Nat) : (refusal s pg0).kicks = s.kicks := rfl
@[simp] theorem refusal_uzoids (s : State) (pg0 : Nat) : (refusal s pg0).uzoids = s.uzoids := rfl
@[simp] theorem refusal_restarting (s : State) (pg0 : Nat) : (refusal s pg0).restarting = s.restarting := rfl
@[simp] theorem refusal_bwq (s : State) (pg0 : Nat) : (refusal s pg0).bwq = s.bwq := rfl
@[simp] theorem refusal_flash (s : State) (pg0 : Nat) : (refusal s pg0).flash = s.flash := rfl
@[simp] theorem refusal_board (s : State) (pg0 : Nat) : (refusal s pg0).board = s.board := rfl
@[simp] theorem refusal_us (s : State) (pg0 : Nat) : (refusal s pg0).us = s.us := rfl
@[simp] theorem refusal_drawn (s : State) (pg0 : Nat) : (refusal s pg0).drawn = s.drawn := rfl
@[simp] theorem refusal_out (s : State) (pg0 : Nat) : (refusal s pg0).out = s.out := rfl
@[simp] theorem refusal_chan (s : State) (pg0 : Nat) (st ch : Nat) : (refusal s pg0).chan st ch = s.chan st ch := rfl
@[simp] theorem refusal_stack (s : State) (pg0 : Nat) (st : Nat) : (refusal s pg0).stack st = s.stack st := rfl
@[simp] theorem refusal_unit (s : State) (pg0 : Nat) (u : Nat) : (refusal s pg0).unit u = s.unit u := rfl
@[simp] theorem refusal_tile (s : State) (pg0 : Nat) (t : Nat) : (refusal s pg0).tile t = s.tile t := rfl
@[simp] theorem refusal_seq (s : State) (pg0 : Nat) (d : Nat) : (refusal s pg0).seq d = s.seq d := rfl
@[simp] theorem refusal_arb (s : State) (pg0 : Nat) (d i : Nat) : (refusal s pg0).arb d i = s.arb d i := rfl
@[simp] theorem refusal_port (s : State) (pg0 : Nat) (p : Nat) : (refusal s pg0).port p = s.port p := rfl
@[simp] theorem refusal_desc (s : State) (pg0 : Nat) (h : Nat) : (refusal s pg0).desc h = s.desc h := rfl
@[simp] theorem refusal_alloc (s : State) (pg0 : Nat) (i : Nat) : (refusal s pg0).alloc i = s.alloc i := rfl
@[simp] theorem refusal_otab (s : State) (pg0 : Nat) (i : Nat) : (refusal s pg0).otab i = s.otab i := rfl
@[simp] theorem recordErr_pending (s : State) (pg0 code tag : Nat) : (recordErr s pg0 code tag).pending = s.pending := by rw [recordErr_eq]
@[simp] theorem recordErr_member (s : State) (pg0 code tag : Nat) : (recordErr s pg0 code tag).member = s.member := by rw [recordErr_eq]
@[simp] theorem recordErr_disabled (s : State) (pg0 code tag : Nat) : (recordErr s pg0 code tag).disabled = s.disabled := by rw [recordErr_eq]
@[simp] theorem recordErr_enabled (s : State) (pg0 code tag : Nat) : (recordErr s pg0 code tag).enabled = s.enabled := by rw [recordErr_eq]
@[simp] theorem recordErr_vecSent (s : State) (pg0 code tag : Nat) : (recordErr s pg0 code tag).vecSent = s.vecSent := by rw [recordErr_eq]
@[simp] theorem recordErr_vecMask (s : State) (pg0 code tag : Nat) : (recordErr s pg0 code tag).vecMask = s.vecMask := by rw [recordErr_eq]
@[simp] theorem recordErr_vecPend (s : State) (pg0 code tag : Nat) : (recordErr s pg0 code tag).vecPend = s.vecPend := by rw [recordErr_eq]
@[simp] theorem recordErr_vecTable (s : State) (pg0 code tag : Nat) : (recordErr s pg0 code tag).vecTable = s.vecTable := by rw [recordErr_eq]
@[simp] theorem recordErr_funcMask (s : State) (pg0 code tag : Nat) : (recordErr s pg0 code tag).funcMask = s.funcMask := by rw [recordErr_eq]
@[simp] theorem recordErr_mem (s : State) (pg0 code tag : Nat) : (recordErr s pg0 code tag).mem = s.mem := by rw [recordErr_eq]
@[simp] theorem recordErr_poison (s : State) (pg0 code tag : Nat) : (recordErr s pg0 code tag).poison = s.poison := by rw [recordErr_eq]
@[simp] theorem recordErr_flips (s : State) (pg0 code tag : Nat) : (recordErr s pg0 code tag).flips = s.flips := by rw [recordErr_eq]
@[simp] theorem recordErr_slotErrs (s : State) (pg0 code tag : Nat) : (recordErr s pg0 code tag).slotErrs = s.slotErrs := by rw [recordErr_eq]
@[simp] theorem recordErr_chans (s : State) (pg0 code tag : Nat) : (recordErr s pg0 code tag).chans = s.chans := by rw [recordErr_eq]
@[simp] theorem recordErr_stackTab (s : State) (pg0 code tag : Nat) : (recordErr s pg0 code tag).stackTab = s.stackTab := by rw [recordErr_eq]
@[simp] theorem recordErr_units (s : State) (pg0 code tag : Nat) : (recordErr s pg0 code tag).units = s.units := by rw [recordErr_eq]
@[simp] theorem recordErr_tiles (s : State) (pg0 code tag : Nat) : (recordErr s pg0 code tag).tiles = s.tiles := by rw [recordErr_eq]
@[simp] theorem recordErr_seqs (s : State) (pg0 code tag : Nat) : (recordErr s pg0 code tag).seqs = s.seqs := by rw [recordErr_eq]
@[simp] theorem recordErr_imem (s : State) (pg0 code tag : Nat) : (recordErr s pg0 code tag).imem = s.imem := by rw [recordErr_eq]
@[simp] theorem recordErr_lib (s : State) (pg0 code tag : Nat) : (recordErr s pg0 code tag).lib = s.lib := by rw [recordErr_eq]
@[simp] theorem recordErr_routines (s : State) (pg0 code tag : Nat) : (recordErr s pg0 code tag).routines = s.routines := by rw [recordErr_eq]
@[simp] theorem recordErr_descs (s : State) (pg0 code tag : Nat) : (recordErr s pg0 code tag).descs = s.descs := by rw [recordErr_eq]
@[simp] theorem recordErr_allocs (s : State) (pg0 code tag : Nat) : (recordErr s pg0 code tag).allocs = s.allocs := by rw [recordErr_eq]
@[simp] theorem recordErr_otabs (s : State) (pg0 code tag : Nat) : (recordErr s pg0 code tag).otabs = s.otabs := by rw [recordErr_eq]
@[simp] theorem recordErr_descQ (s : State) (pg0 code tag : Nat) : (recordErr s pg0 code tag).descQ = s.descQ := by rw [recordErr_eq]
@[simp] theorem recordErr_allocQ (s : State) (pg0 code tag : Nat) : (recordErr s pg0 code tag).allocQ = s.allocQ := by rw [recordErr_eq]
@[simp] theorem recordErr_fetches (s : State) (pg0 code tag : Nat) : (recordErr s pg0 code tag).fetches = s.fetches := by rw [recordErr_eq]
@[simp] theorem recordErr_nextFetch (s : State) (pg0 code tag : Nat) : (recordErr s pg0 code tag).nextFetch = s.nextFetch := by rw [recordErr_eq]
@[simp] theorem recordErr_arbs (s : State) (pg0 code tag : Nat) : (recordErr s pg0 code tag).arbs = s.arbs := by rw [recordErr_eq]
@[simp] theorem recordErr_edges (s : State) (pg0 code tag : Nat) : (recordErr s pg0 code tag).edges = s.edges := by rw [recordErr_eq]
@[simp] theorem recordErr_ports (s : State) (pg0 code tag : Nat) : (recordErr s pg0 code tag).ports = s.ports := by rw [recordErr_eq]
@[simp] theorem recordErr_sync (s : State) (pg0 code tag : Nat) : (recordErr s pg0 code tag).sync = s.sync := by rw [recordErr_eq]
@[simp] theorem recordErr_outReqs (s : State) (pg0 code tag : Nat) : (recordErr s pg0 code tag).outReqs = s.outReqs := by rw [recordErr_eq]
@[simp] theorem recordErr_inPkts (s : State) (pg0 code tag : Nat) : (recordErr s pg0 code tag).inPkts = s.inPkts := by rw [recordErr_eq]
@[simp] theorem recordErr_nextIn (s : State) (pg0 code tag : Nat) : (recordErr s pg0 code tag).nextIn = s.nextIn := by rw [recordErr_eq]
@[simp] theorem recordErr_egress (s : State) (pg0 code tag : Nat) : (recordErr s pg0 code tag).egress = s.egress := by rw [recordErr_eq]
@[simp] theorem recordErr_cxl (s : State) (pg0 code tag : Nat) : (recordErr s pg0 code tag).cxl = s.cxl := by rw [recordErr_eq]
@[simp] theorem recordErr_armed (s : State) (pg0 code tag : Nat) : (recordErr s pg0 code tag).armed = s.armed := by rw [recordErr_eq]
@[simp] theorem recordErr_running (s : State) (pg0 code tag : Nat) : (recordErr s pg0 code tag).running = s.running := by rw [recordErr_eq]
@[simp] theorem recordErr_ledger (s : State) (pg0 code tag : Nat) : (recordErr s pg0 code tag).ledger = s.ledger := by rw [recordErr_eq]
@[simp] theorem recordErr_causes (s : State) (pg0 code tag : Nat) : (recordErr s pg0 code tag).causes = s.causes := by rw [recordErr_eq]
@[simp] theorem recordErr_entries (s : State) (pg0 code tag : Nat) : (recordErr s pg0 code tag).entries = s.entries := by rw [recordErr_eq]
@[simp] theorem recordErr_entry (s : State) (pg0 code tag : Nat) : (recordErr s pg0 code tag).entry = s.entry := by rw [recordErr_eq]
@[simp] theorem recordErr_history (s : State) (pg0 code tag : Nat) : (recordErr s pg0 code tag).history = s.history := by rw [recordErr_eq]
@[simp] theorem recordErr_clearDesc (s : State) (pg0 code tag : Nat) : (recordErr s pg0 code tag).clearDesc = s.clearDesc := by rw [recordErr_eq]
@[simp] theorem recordErr_fenceFlushed (s : State) (pg0 code tag : Nat) : (recordErr s pg0 code tag).fenceFlushed = s.fenceFlushed := by rw [recordErr_eq]
@[simp] theorem recordErr_kicks (s : State) (pg0 code tag : Nat) : (recordErr s pg0 code tag).kicks = s.kicks := by rw [recordErr_eq]
@[simp] theorem recordErr_uzoids (s : State) (pg0 code tag : Nat) : (recordErr s pg0 code tag).uzoids = s.uzoids := by rw [recordErr_eq]
@[simp] theorem recordErr_restarting (s : State) (pg0 code tag : Nat) : (recordErr s pg0 code tag).restarting = s.restarting := by rw [recordErr_eq]
@[simp] theorem recordErr_bwq (s : State) (pg0 code tag : Nat) : (recordErr s pg0 code tag).bwq = s.bwq := by rw [recordErr_eq]
@[simp] theorem recordErr_flash (s : State) (pg0 code tag : Nat) : (recordErr s pg0 code tag).flash = s.flash := by rw [recordErr_eq]
@[simp] theorem recordErr_board (s : State) (pg0 code tag : Nat) : (recordErr s pg0 code tag).board = s.board := by rw [recordErr_eq]
@[simp] theorem recordErr_us (s : State) (pg0 code tag : Nat) : (recordErr s pg0 code tag).us = s.us := by rw [recordErr_eq]
@[simp] theorem recordErr_drawn (s : State) (pg0 code tag : Nat) : (recordErr s pg0 code tag).drawn = s.drawn := by rw [recordErr_eq]
@[simp] theorem recordErr_out (s : State) (pg0 code tag : Nat) : (recordErr s pg0 code tag).out = s.out := by rw [recordErr_eq]
@[simp] theorem recordErr_chan (s : State) (pg0 code tag : Nat) (st ch : Nat) : (recordErr s pg0 code tag).chan st ch = s.chan st ch := by rw [recordErr_eq]; rfl
@[simp] theorem recordErr_stack (s : State) (pg0 code tag : Nat) (st : Nat) : (recordErr s pg0 code tag).stack st = s.stack st := by rw [recordErr_eq]; rfl
@[simp] theorem recordErr_unit (s : State) (pg0 code tag : Nat) (u : Nat) : (recordErr s pg0 code tag).unit u = s.unit u := by rw [recordErr_eq]; rfl
@[simp] theorem recordErr_tile (s : State) (pg0 code tag : Nat) (t : Nat) : (recordErr s pg0 code tag).tile t = s.tile t := by rw [recordErr_eq]; rfl
@[simp] theorem recordErr_seq (s : State) (pg0 code tag : Nat) (d : Nat) : (recordErr s pg0 code tag).seq d = s.seq d := by rw [recordErr_eq]; rfl
@[simp] theorem recordErr_arb (s : State) (pg0 code tag : Nat) (d i : Nat) : (recordErr s pg0 code tag).arb d i = s.arb d i := by rw [recordErr_eq]; rfl
@[simp] theorem recordErr_port (s : State) (pg0 code tag : Nat) (p : Nat) : (recordErr s pg0 code tag).port p = s.port p := by rw [recordErr_eq]; rfl
@[simp] theorem recordErr_desc (s : State) (pg0 code tag : Nat) (h : Nat) : (recordErr s pg0 code tag).desc h = s.desc h := by rw [recordErr_eq]; rfl
@[simp] theorem recordErr_alloc (s : State) (pg0 code tag : Nat) (i : Nat) : (recordErr s pg0 code tag).alloc i = s.alloc i := by rw [recordErr_eq]; rfl
@[simp] theorem recordErr_otab (s : State) (pg0 code tag : Nat) (i : Nat) : (recordErr s pg0 code tag).otab i = s.otab i := by rw [recordErr_eq]; rfl
@[simp] theorem w1c_pending (s : State) (k0 : Nat) (v : W64) : (w1c s k0 v).pending = s.pending := by rw [w1c_eq]
@[simp] theorem w1c_member (s : State) (k0 : Nat) (v : W64) : (w1c s k0 v).member = s.member := by rw [w1c_eq]
@[simp] theorem w1c_disabled (s : State) (k0 : Nat) (v : W64) : (w1c s k0 v).disabled = s.disabled := by rw [w1c_eq]
@[simp] theorem w1c_enabled (s : State) (k0 : Nat) (v : W64) : (w1c s k0 v).enabled = s.enabled := by rw [w1c_eq]
@[simp] theorem w1c_vecSent (s : State) (k0 : Nat) (v : W64) : (w1c s k0 v).vecSent = s.vecSent := by rw [w1c_eq]
@[simp] theorem w1c_vecMask (s : State) (k0 : Nat) (v : W64) : (w1c s k0 v).vecMask = s.vecMask := by rw [w1c_eq]
@[simp] theorem w1c_vecPend (s : State) (k0 : Nat) (v : W64) : (w1c s k0 v).vecPend = s.vecPend := by rw [w1c_eq]
@[simp] theorem w1c_vecTable (s : State) (k0 : Nat) (v : W64) : (w1c s k0 v).vecTable = s.vecTable := by rw [w1c_eq]
@[simp] theorem w1c_funcMask (s : State) (k0 : Nat) (v : W64) : (w1c s k0 v).funcMask = s.funcMask := by rw [w1c_eq]
@[simp] theorem w1c_mem (s : State) (k0 : Nat) (v : W64) : (w1c s k0 v).mem = s.mem := by rw [w1c_eq]
@[simp] theorem w1c_poison (s : State) (k0 : Nat) (v : W64) : (w1c s k0 v).poison = s.poison := by rw [w1c_eq]
@[simp] theorem w1c_flips (s : State) (k0 : Nat) (v : W64) : (w1c s k0 v).flips = s.flips := by rw [w1c_eq]
@[simp] theorem w1c_slotErrs (s : State) (k0 : Nat) (v : W64) : (w1c s k0 v).slotErrs = s.slotErrs := by rw [w1c_eq]
@[simp] theorem w1c_chans (s : State) (k0 : Nat) (v : W64) : (w1c s k0 v).chans = s.chans := by rw [w1c_eq]
@[simp] theorem w1c_stackTab (s : State) (k0 : Nat) (v : W64) : (w1c s k0 v).stackTab = s.stackTab := by rw [w1c_eq]
@[simp] theorem w1c_units (s : State) (k0 : Nat) (v : W64) : (w1c s k0 v).units = s.units := by rw [w1c_eq]
@[simp] theorem w1c_tiles (s : State) (k0 : Nat) (v : W64) : (w1c s k0 v).tiles = s.tiles := by rw [w1c_eq]
@[simp] theorem w1c_seqs (s : State) (k0 : Nat) (v : W64) : (w1c s k0 v).seqs = s.seqs := by rw [w1c_eq]
@[simp] theorem w1c_imem (s : State) (k0 : Nat) (v : W64) : (w1c s k0 v).imem = s.imem := by rw [w1c_eq]
@[simp] theorem w1c_lib (s : State) (k0 : Nat) (v : W64) : (w1c s k0 v).lib = s.lib := by rw [w1c_eq]
@[simp] theorem w1c_routines (s : State) (k0 : Nat) (v : W64) : (w1c s k0 v).routines = s.routines := by rw [w1c_eq]
@[simp] theorem w1c_descs (s : State) (k0 : Nat) (v : W64) : (w1c s k0 v).descs = s.descs := by rw [w1c_eq]
@[simp] theorem w1c_allocs (s : State) (k0 : Nat) (v : W64) : (w1c s k0 v).allocs = s.allocs := by rw [w1c_eq]
@[simp] theorem w1c_otabs (s : State) (k0 : Nat) (v : W64) : (w1c s k0 v).otabs = s.otabs := by rw [w1c_eq]
@[simp] theorem w1c_descQ (s : State) (k0 : Nat) (v : W64) : (w1c s k0 v).descQ = s.descQ := by rw [w1c_eq]
@[simp] theorem w1c_allocQ (s : State) (k0 : Nat) (v : W64) : (w1c s k0 v).allocQ = s.allocQ := by rw [w1c_eq]
@[simp] theorem w1c_fetches (s : State) (k0 : Nat) (v : W64) : (w1c s k0 v).fetches = s.fetches := by rw [w1c_eq]
@[simp] theorem w1c_nextFetch (s : State) (k0 : Nat) (v : W64) : (w1c s k0 v).nextFetch = s.nextFetch := by rw [w1c_eq]
@[simp] theorem w1c_arbs (s : State) (k0 : Nat) (v : W64) : (w1c s k0 v).arbs = s.arbs := by rw [w1c_eq]
@[simp] theorem w1c_edges (s : State) (k0 : Nat) (v : W64) : (w1c s k0 v).edges = s.edges := by rw [w1c_eq]
@[simp] theorem w1c_ports (s : State) (k0 : Nat) (v : W64) : (w1c s k0 v).ports = s.ports := by rw [w1c_eq]
@[simp] theorem w1c_sync (s : State) (k0 : Nat) (v : W64) : (w1c s k0 v).sync = s.sync := by rw [w1c_eq]
@[simp] theorem w1c_outReqs (s : State) (k0 : Nat) (v : W64) : (w1c s k0 v).outReqs = s.outReqs := by rw [w1c_eq]
@[simp] theorem w1c_inPkts (s : State) (k0 : Nat) (v : W64) : (w1c s k0 v).inPkts = s.inPkts := by rw [w1c_eq]
@[simp] theorem w1c_nextIn (s : State) (k0 : Nat) (v : W64) : (w1c s k0 v).nextIn = s.nextIn := by rw [w1c_eq]
@[simp] theorem w1c_egress (s : State) (k0 : Nat) (v : W64) : (w1c s k0 v).egress = s.egress := by rw [w1c_eq]
@[simp] theorem w1c_cxl (s : State) (k0 : Nat) (v : W64) : (w1c s k0 v).cxl = s.cxl := by rw [w1c_eq]
@[simp] theorem w1c_armed (s : State) (k0 : Nat) (v : W64) : (w1c s k0 v).armed = s.armed := by rw [w1c_eq]
@[simp] theorem w1c_running (s : State) (k0 : Nat) (v : W64) : (w1c s k0 v).running = s.running := by rw [w1c_eq]
@[simp] theorem w1c_ledger (s : State) (k0 : Nat) (v : W64) : (w1c s k0 v).ledger = s.ledger := by rw [w1c_eq]
@[simp] theorem w1c_causes (s : State) (k0 : Nat) (v : W64) : (w1c s k0 v).causes = s.causes := by rw [w1c_eq]
@[simp] theorem w1c_entries (s : State) (k0 : Nat) (v : W64) : (w1c s k0 v).entries = s.entries := by rw [w1c_eq]
@[simp] theorem w1c_entry (s : State) (k0 : Nat) (v : W64) : (w1c s k0 v).entry = s.entry := by rw [w1c_eq]
@[simp] theorem w1c_history (s : State) (k0 : Nat) (v : W64) : (w1c s k0 v).history = s.history := by rw [w1c_eq]
@[simp] theorem w1c_clearDesc (s : State) (k0 : Nat) (v : W64) : (w1c s k0 v).clearDesc = s.clearDesc := by rw [w1c_eq]
@[simp] theorem w1c_fenceFlushed (s : State) (k0 : Nat) (v : W64) : (w1c s k0 v).fenceFlushed = s.fenceFlushed := by rw [w1c_eq]
@[simp] theorem w1c_kicks (s : State) (k0 : Nat) (v : W64) : (w1c s k0 v).kicks = s.kicks := by rw [w1c_eq]
@[simp] theorem w1c_uzoids (s : State) (k0 : Nat) (v : W64) : (w1c s k0 v).uzoids = s.uzoids := by rw [w1c_eq]
@[simp] theorem w1c_restarting (s : State) (k0 : Nat) (v : W64) : (w1c s k0 v).restarting = s.restarting := by rw [w1c_eq]
@[simp] theorem w1c_bwq (s : State) (k0 : Nat) (v : W64) : (w1c s k0 v).bwq = s.bwq := by rw [w1c_eq]
@[simp] theorem w1c_flash (s : State) (k0 : Nat) (v : W64) : (w1c s k0 v).flash = s.flash := by rw [w1c_eq]
@[simp] theorem w1c_board (s : State) (k0 : Nat) (v : W64) : (w1c s k0 v).board = s.board := by rw [w1c_eq]
@[simp] theorem w1c_us (s : State) (k0 : Nat) (v : W64) : (w1c s k0 v).us = s.us := by rw [w1c_eq]
@[simp] theorem w1c_drawn (s : State) (k0 : Nat) (v : W64) : (w1c s k0 v).drawn = s.drawn := by rw [w1c_eq]
@[simp] theorem w1c_out (s : State) (k0 : Nat) (v : W64) : (w1c s k0 v).out = s.out := by rw [w1c_eq]
@[simp] theorem w1c_chan (s : State) (k0 : Nat) (v : W64) (st ch : Nat) : (w1c s k0 v).chan st ch = s.chan st ch := by rw [w1c_eq]; rfl
@[simp] theorem w1c_stack (s : State) (k0 : Nat) (v : W64) (st : Nat) : (w1c s k0 v).stack st = s.stack st := by rw [w1c_eq]; rfl
@[simp] theorem w1c_unit (s : State) (k0 : Nat) (v : W64) (u : Nat) : (w1c s k0 v).unit u = s.unit u := by rw [w1c_eq]; rfl
@[simp] theorem w1c_tile (s : State) (k0 : Nat) (v : W64) (t : Nat) : (w1c s k0 v).tile t = s.tile t := by rw [w1c_eq]; rfl
@[simp] theorem w1c_seq (s : State) (k0 : Nat) (v : W64) (d : Nat) : (w1c s k0 v).seq d = s.seq d := by rw [w1c_eq]; rfl
@[simp] theorem w1c_arb (s : State) (k0 : Nat) (v : W64) (d i : Nat) : (w1c s k0 v).arb d i = s.arb d i := by rw [w1c_eq]; rfl
@[simp] theorem w1c_port (s : State) (k0 : Nat) (v : W64) (p : Nat) : (w1c s k0 v).port p = s.port p := by rw [w1c_eq]; rfl
@[simp] theorem w1c_desc (s : State) (k0 : Nat) (v : W64) (h : Nat) : (w1c s k0 v).desc h = s.desc h := by rw [w1c_eq]; rfl
@[simp] theorem w1c_alloc (s : State) (k0 : Nat) (v : W64) (i : Nat) : (w1c s k0 v).alloc i = s.alloc i := by rw [w1c_eq]; rfl
@[simp] theorem w1c_otab (s : State) (k0 : Nat) (v : W64) (i : Nat) : (w1c s k0 v).otab i = s.otab i := by rw [w1c_eq]; rfl
@[simp] theorem storeRW_pending (s : State) (k0 : Nat) (v : W64) : (storeRW s k0 v).pending = s.pending := rfl
@[simp] theorem storeRW_member (s : State) (k0 : Nat) (v : W64) : (storeRW s k0 v).member = s.member := rfl
@[simp] theorem storeRW_disabled (s : State) (k0 : Nat) (v : W64) : (storeRW s k0 v).disabled = s.disabled := rfl
@[simp] theorem storeRW_enabled (s : State) (k0 : Nat) (v : W64) : (storeRW s k0 v).enabled = s.enabled := rfl
@[simp] theorem storeRW_vecSent (s : State) (k0 : Nat) (v : W64) : (storeRW s k0 v).vecSent = s.vecSent := rfl
@[simp] theorem storeRW_vecMask (s : State) (k0 : Nat) (v : W64) : (storeRW s k0 v).vecMask = s.vecMask := rfl
@[simp] theorem storeRW_vecPend (s : State) (k0 : Nat) (v : W64) : (storeRW s k0 v).vecPend = s.vecPend := rfl
@[simp] theorem storeRW_vecTable (s : State) (k0 : Nat) (v : W64) : (storeRW s k0 v).vecTable = s.vecTable := rfl
@[simp] theorem storeRW_funcMask (s : State) (k0 : Nat) (v : W64) : (storeRW s k0 v).funcMask = s.funcMask := rfl
@[simp] theorem storeRW_mem (s : State) (k0 : Nat) (v : W64) : (storeRW s k0 v).mem = s.mem := rfl
@[simp] theorem storeRW_poison (s : State) (k0 : Nat) (v : W64) : (storeRW s k0 v).poison = s.poison := rfl
@[simp] theorem storeRW_flips (s : State) (k0 : Nat) (v : W64) : (storeRW s k0 v).flips = s.flips := rfl
@[simp] theorem storeRW_slotErrs (s : State) (k0 : Nat) (v : W64) : (storeRW s k0 v).slotErrs = s.slotErrs := rfl
@[simp] theorem storeRW_chans (s : State) (k0 : Nat) (v : W64) : (storeRW s k0 v).chans = s.chans := rfl
@[simp] theorem storeRW_stackTab (s : State) (k0 : Nat) (v : W64) : (storeRW s k0 v).stackTab = s.stackTab := rfl
@[simp] theorem storeRW_units (s : State) (k0 : Nat) (v : W64) : (storeRW s k0 v).units = s.units := rfl
@[simp] theorem storeRW_tiles (s : State) (k0 : Nat) (v : W64) : (storeRW s k0 v).tiles = s.tiles := rfl
@[simp] theorem storeRW_seqs (s : State) (k0 : Nat) (v : W64) : (storeRW s k0 v).seqs = s.seqs := rfl
@[simp] theorem storeRW_imem (s : State) (k0 : Nat) (v : W64) : (storeRW s k0 v).imem = s.imem := rfl
@[simp] theorem storeRW_lib (s : State) (k0 : Nat) (v : W64) : (storeRW s k0 v).lib = s.lib := rfl
@[simp] theorem storeRW_routines (s : State) (k0 : Nat) (v : W64) : (storeRW s k0 v).routines = s.routines := rfl
@[simp] theorem storeRW_descs (s : State) (k0 : Nat) (v : W64) : (storeRW s k0 v).descs = s.descs := rfl
@[simp] theorem storeRW_allocs (s : State) (k0 : Nat) (v : W64) : (storeRW s k0 v).allocs = s.allocs := rfl
@[simp] theorem storeRW_otabs (s : State) (k0 : Nat) (v : W64) : (storeRW s k0 v).otabs = s.otabs := rfl
@[simp] theorem storeRW_descQ (s : State) (k0 : Nat) (v : W64) : (storeRW s k0 v).descQ = s.descQ := rfl
@[simp] theorem storeRW_allocQ (s : State) (k0 : Nat) (v : W64) : (storeRW s k0 v).allocQ = s.allocQ := rfl
@[simp] theorem storeRW_fetches (s : State) (k0 : Nat) (v : W64) : (storeRW s k0 v).fetches = s.fetches := rfl
@[simp] theorem storeRW_nextFetch (s : State) (k0 : Nat) (v : W64) : (storeRW s k0 v).nextFetch = s.nextFetch := rfl
@[simp] theorem storeRW_arbs (s : State) (k0 : Nat) (v : W64) : (storeRW s k0 v).arbs = s.arbs := rfl
@[simp] theorem storeRW_edges (s : State) (k0 : Nat) (v : W64) : (storeRW s k0 v).edges = s.edges := rfl
@[simp] theorem storeRW_ports (s : State) (k0 : Nat) (v : W64) : (storeRW s k0 v).ports = s.ports := rfl
@[simp] theorem storeRW_sync (s : State) (k0 : Nat) (v : W64) : (storeRW s k0 v).sync = s.sync := rfl
@[simp] theorem storeRW_outReqs (s : State) (k0 : Nat) (v : W64) : (storeRW s k0 v).outReqs = s.outReqs := rfl
@[simp] theorem storeRW_inPkts (s : State) (k0 : Nat) (v : W64) : (storeRW s k0 v).inPkts = s.inPkts := rfl
@[simp] theorem storeRW_nextIn (s : State) (k0 : Nat) (v : W64) : (storeRW s k0 v).nextIn = s.nextIn := rfl
@[simp] theorem storeRW_egress (s : State) (k0 : Nat) (v : W64) : (storeRW s k0 v).egress = s.egress := rfl
@[simp] theorem storeRW_cxl (s : State) (k0 : Nat) (v : W64) : (storeRW s k0 v).cxl = s.cxl := rfl
@[simp] theorem storeRW_armed (s : State) (k0 : Nat) (v : W64) : (storeRW s k0 v).armed = s.armed := rfl
@[simp] theorem storeRW_running (s : State) (k0 : Nat) (v : W64) : (storeRW s k0 v).running = s.running := rfl
@[simp] theorem storeRW_ledger (s : State) (k0 : Nat) (v : W64) : (storeRW s k0 v).ledger = s.ledger := rfl
@[simp] theorem storeRW_causes (s : State) (k0 : Nat) (v : W64) : (storeRW s k0 v).causes = s.causes := rfl
@[simp] theorem storeRW_entries (s : State) (k0 : Nat) (v : W64) : (storeRW s k0 v).entries = s.entries := rfl
@[simp] theorem storeRW_entry (s : State) (k0 : Nat) (v : W64) : (storeRW s k0 v).entry = s.entry := rfl
@[simp] theorem storeRW_history (s : State) (k0 : Nat) (v : W64) : (storeRW s k0 v).history = s.history := rfl
@[simp] theorem storeRW_clearDesc (s : State) (k0 : Nat) (v : W64) : (storeRW s k0 v).clearDesc = s.clearDesc := rfl
@[simp] theorem storeRW_fenceFlushed (s : State) (k0 : Nat) (v : W64) : (storeRW s k0 v).fenceFlushed = s.fenceFlushed := rfl
@[simp] theorem storeRW_kicks (s : State) (k0 : Nat) (v : W64) : (storeRW s k0 v).kicks = s.kicks := rfl
@[simp] theorem storeRW_uzoids (s : State) (k0 : Nat) (v : W64) : (storeRW s k0 v).uzoids = s.uzoids := rfl
@[simp] theorem storeRW_restarting (s : State) (k0 : Nat) (v : W64) : (storeRW s k0 v).restarting = s.restarting := rfl
@[simp] theorem storeRW_bwq (s : State) (k0 : Nat) (v : W64) : (storeRW s k0 v).bwq = s.bwq := rfl
@[simp] theorem storeRW_flash (s : State) (k0 : Nat) (v : W64) : (storeRW s k0 v).flash = s.flash := rfl
@[simp] theorem storeRW_board (s : State) (k0 : Nat) (v : W64) : (storeRW s k0 v).board = s.board := rfl
@[simp] theorem storeRW_us (s : State) (k0 : Nat) (v : W64) : (storeRW s k0 v).us = s.us := rfl
@[simp] theorem storeRW_drawn (s : State) (k0 : Nat) (v : W64) : (storeRW s k0 v).drawn = s.drawn := rfl
@[simp] theorem storeRW_out (s : State) (k0 : Nat) (v : W64) : (storeRW s k0 v).out = s.out := rfl
@[simp] theorem storeRW_chan (s : State) (k0 : Nat) (v : W64) (st ch : Nat) : (storeRW s k0 v).chan st ch = s.chan st ch := rfl
@[simp] theorem storeRW_stack (s : State) (k0 : Nat) (v : W64) (st : Nat) : (storeRW s k0 v).stack st = s.stack st := rfl
@[simp] theorem storeRW_unit (s : State) (k0 : Nat) (v : W64) (u : Nat) : (storeRW s k0 v).unit u = s.unit u := rfl
@[simp] theorem storeRW_tile (s : State) (k0 : Nat) (v : W64) (t : Nat) : (storeRW s k0 v).tile t = s.tile t := rfl
@[simp] theorem storeRW_seq (s : State) (k0 : Nat) (v : W64) (d : Nat) : (storeRW s k0 v).seq d = s.seq d := rfl
@[simp] theorem storeRW_arb (s : State) (k0 : Nat) (v : W64) (d i : Nat) : (storeRW s k0 v).arb d i = s.arb d i := rfl
@[simp] theorem storeRW_port (s : State) (k0 : Nat) (v : W64) (p : Nat) : (storeRW s k0 v).port p = s.port p := rfl
@[simp] theorem storeRW_desc (s : State) (k0 : Nat) (v : W64) (h : Nat) : (storeRW s k0 v).desc h = s.desc h := rfl
@[simp] theorem storeRW_alloc (s : State) (k0 : Nat) (v : W64) (i : Nat) : (storeRW s k0 v).alloc i = s.alloc i := rfl
@[simp] theorem storeRW_otab (s : State) (k0 : Nat) (v : W64) (i : Nat) : (storeRW s k0 v).otab i = s.otab i := rfl
@[simp] theorem charge_pending (s : State) (pg0 n k0 : Nat) : (charge s pg0 n k0).pending = s.pending := rfl
@[simp] theorem charge_member (s : State) (pg0 n k0 : Nat) : (charge s pg0 n k0).member = s.member := rfl
@[simp] theorem charge_regs (s : State) (pg0 n k0 : Nat) : (charge s pg0 n k0).regs = s.regs := rfl
@[simp] theorem charge_disabled (s : State) (pg0 n k0 : Nat) : (charge s pg0 n k0).disabled = s.disabled := rfl
@[simp] theorem charge_enabled (s : State) (pg0 n k0 : Nat) : (charge s pg0 n k0).enabled = s.enabled := rfl
@[simp] theorem charge_vecSent (s : State) (pg0 n k0 : Nat) : (charge s pg0 n k0).vecSent = s.vecSent := rfl
@[simp] theorem charge_vecMask (s : State) (pg0 n k0 : Nat) : (charge s pg0 n k0).vecMask = s.vecMask := rfl
@[simp] theorem charge_vecPend (s : State) (pg0 n k0 : Nat) : (charge s pg0 n k0).vecPend = s.vecPend := rfl
@[simp] theorem charge_vecTable (s : State) (pg0 n k0 : Nat) : (charge s pg0 n k0).vecTable = s.vecTable := rfl
@[simp] theorem charge_funcMask (s : State) (pg0 n k0 : Nat) : (charge s pg0 n k0).funcMask = s.funcMask := rfl
@[simp] theorem charge_mem (s : State) (pg0 n k0 : Nat) : (charge s pg0 n k0).mem = s.mem := rfl
@[simp] theorem charge_poison (s : State) (pg0 n k0 : Nat) : (charge s pg0 n k0).poison = s.poison := rfl
@[simp] theorem charge_flips (s : State) (pg0 n k0 : Nat) : (charge s pg0 n k0).flips = s.flips := rfl
@[simp] theorem charge_slotErrs (s : State) (pg0 n k0 : Nat) : (charge s pg0 n k0).slotErrs = s.slotErrs := rfl
@[simp] theorem charge_chans (s : State) (pg0 n k0 : Nat) : (charge s pg0 n k0).chans = s.chans := rfl
@[simp] theorem charge_stackTab (s : State) (pg0 n k0 : Nat) : (charge s pg0 n k0).stackTab = s.stackTab := rfl
@[simp] theorem charge_units (s : State) (pg0 n k0 : Nat) : (charge s pg0 n k0).units = s.units := rfl
@[simp] theorem charge_tiles (s : State) (pg0 n k0 : Nat) : (charge s pg0 n k0).tiles = s.tiles := rfl
@[simp] theorem charge_seqs (s : State) (pg0 n k0 : Nat) : (charge s pg0 n k0).seqs = s.seqs := rfl
@[simp] theorem charge_imem (s : State) (pg0 n k0 : Nat) : (charge s pg0 n k0).imem = s.imem := rfl
@[simp] theorem charge_lib (s : State) (pg0 n k0 : Nat) : (charge s pg0 n k0).lib = s.lib := rfl
@[simp] theorem charge_routines (s : State) (pg0 n k0 : Nat) : (charge s pg0 n k0).routines = s.routines := rfl
@[simp] theorem charge_descs (s : State) (pg0 n k0 : Nat) : (charge s pg0 n k0).descs = s.descs := rfl
@[simp] theorem charge_allocs (s : State) (pg0 n k0 : Nat) : (charge s pg0 n k0).allocs = s.allocs := rfl
@[simp] theorem charge_otabs (s : State) (pg0 n k0 : Nat) : (charge s pg0 n k0).otabs = s.otabs := rfl
@[simp] theorem charge_descQ (s : State) (pg0 n k0 : Nat) : (charge s pg0 n k0).descQ = s.descQ := rfl
@[simp] theorem charge_allocQ (s : State) (pg0 n k0 : Nat) : (charge s pg0 n k0).allocQ = s.allocQ := rfl
@[simp] theorem charge_fetches (s : State) (pg0 n k0 : Nat) : (charge s pg0 n k0).fetches = s.fetches := rfl
@[simp] theorem charge_nextFetch (s : State) (pg0 n k0 : Nat) : (charge s pg0 n k0).nextFetch = s.nextFetch := rfl
@[simp] theorem charge_arbs (s : State) (pg0 n k0 : Nat) : (charge s pg0 n k0).arbs = s.arbs := rfl
@[simp] theorem charge_edges (s : State) (pg0 n k0 : Nat) : (charge s pg0 n k0).edges = s.edges := rfl
@[simp] theorem charge_ports (s : State) (pg0 n k0 : Nat) : (charge s pg0 n k0).ports = s.ports := rfl
@[simp] theorem charge_sync (s : State) (pg0 n k0 : Nat) : (charge s pg0 n k0).sync = s.sync := rfl
@[simp] theorem charge_outReqs (s : State) (pg0 n k0 : Nat) : (charge s pg0 n k0).outReqs = s.outReqs := rfl
@[simp] theorem charge_inPkts (s : State) (pg0 n k0 : Nat) : (charge s pg0 n k0).inPkts = s.inPkts := rfl
@[simp] theorem charge_nextIn (s : State) (pg0 n k0 : Nat) : (charge s pg0 n k0).nextIn = s.nextIn := rfl
@[simp] theorem charge_egress (s : State) (pg0 n k0 : Nat) : (charge s pg0 n k0).egress = s.egress := rfl
@[simp] theorem charge_cxl (s : State) (pg0 n k0 : Nat) : (charge s pg0 n k0).cxl = s.cxl := rfl
@[simp] theorem charge_armed (s : State) (pg0 n k0 : Nat) : (charge s pg0 n k0).armed = s.armed := rfl
@[simp] theorem charge_running (s : State) (pg0 n k0 : Nat) : (charge s pg0 n k0).running = s.running := rfl
@[simp] theorem charge_causes (s : State) (pg0 n k0 : Nat) : (charge s pg0 n k0).causes = s.causes := rfl
@[simp] theorem charge_entries (s : State) (pg0 n k0 : Nat) : (charge s pg0 n k0).entries = s.entries := rfl
@[simp] theorem charge_entry (s : State) (pg0 n k0 : Nat) : (charge s pg0 n k0).entry = s.entry := rfl
@[simp] theorem charge_history (s : State) (pg0 n k0 : Nat) : (charge s pg0 n k0).history = s.history := rfl
@[simp] theorem charge_clearDesc (s : State) (pg0 n k0 : Nat) : (charge s pg0 n k0).clearDesc = s.clearDesc := rfl
@[simp] theorem charge_fenceFlushed (s : State) (pg0 n k0 : Nat) : (charge s pg0 n k0).fenceFlushed = s.fenceFlushed := rfl
@[simp] theorem charge_kicks (s : State) (pg0 n k0 : Nat) : (charge s pg0 n k0).kicks = s.kicks := rfl
@[simp] theorem charge_uzoids (s : State) (pg0 n k0 : Nat) : (charge s pg0 n k0).uzoids = s.uzoids := rfl
@[simp] theorem charge_restarting (s : State) (pg0 n k0 : Nat) : (charge s pg0 n k0).restarting = s.restarting := rfl
@[simp] theorem charge_bwq (s : State) (pg0 n k0 : Nat) : (charge s pg0 n k0).bwq = s.bwq := rfl
@[simp] theorem charge_flash (s : State) (pg0 n k0 : Nat) : (charge s pg0 n k0).flash = s.flash := rfl
@[simp] theorem charge_board (s : State) (pg0 n k0 : Nat) : (charge s pg0 n k0).board = s.board := rfl
@[simp] theorem charge_us (s : State) (pg0 n k0 : Nat) : (charge s pg0 n k0).us = s.us := rfl
@[simp] theorem charge_drawn (s : State) (pg0 n k0 : Nat) : (charge s pg0 n k0).drawn = s.drawn := rfl
@[simp] theorem charge_out (s : State) (pg0 n k0 : Nat) : (charge s pg0 n k0).out = s.out := rfl
@[simp] theorem charge_reg (s : State) (pg0 n k0 : Nat) (k : Nat) : (charge s pg0 n k0).reg k = s.reg k := rfl
@[simp] theorem charge_chan (s : State) (pg0 n k0 : Nat) (st ch : Nat) : (charge s pg0 n k0).chan st ch = s.chan st ch := rfl
@[simp] theorem charge_stack (s : State) (pg0 n k0 : Nat) (st : Nat) : (charge s pg0 n k0).stack st = s.stack st := rfl
@[simp] theorem charge_unit (s : State) (pg0 n k0 : Nat) (u : Nat) : (charge s pg0 n k0).unit u = s.unit u := rfl
@[simp] theorem charge_tile (s : State) (pg0 n k0 : Nat) (t : Nat) : (charge s pg0 n k0).tile t = s.tile t := rfl
@[simp] theorem charge_seq (s : State) (pg0 n k0 : Nat) (d : Nat) : (charge s pg0 n k0).seq d = s.seq d := rfl
@[simp] theorem charge_arb (s : State) (pg0 n k0 : Nat) (d i : Nat) : (charge s pg0 n k0).arb d i = s.arb d i := rfl
@[simp] theorem charge_port (s : State) (pg0 n k0 : Nat) (p : Nat) : (charge s pg0 n k0).port p = s.port p := rfl
@[simp] theorem charge_desc (s : State) (pg0 n k0 : Nat) (h : Nat) : (charge s pg0 n k0).desc h = s.desc h := rfl
@[simp] theorem charge_alloc (s : State) (pg0 n k0 : Nat) (i : Nat) : (charge s pg0 n k0).alloc i = s.alloc i := rfl
@[simp] theorem charge_otab (s : State) (pg0 n k0 : Nat) (i : Nat) : (charge s pg0 n k0).otab i = s.otab i := rfl
@[simp] theorem charge_getF (s : State) (pg0 n k0 : Nat) (q : Nat) (g : RegF) (j : Nat) : getF (charge s pg0 n k0) q g j = getF s q g j := rfl
@[simp] theorem charge_hasEvent (s : State) (pg0 n k0 : Nat) (q j : Nat) : hasEvent (charge s pg0 n k0) q j = hasEvent s q j := rfl
@[simp] theorem updChan_pending (s : State) (st0 ch0 : Nat) (f : Channel → Channel) : (s.updChan st0 ch0 f).pending = s.pending := rfl
@[simp] theorem updChan_member (s : State) (st0 ch0 : Nat) (f : Channel → Channel) : (s.updChan st0 ch0 f).member = s.member := rfl
@[simp] theorem updChan_regs (s : State) (st0 ch0 : Nat) (f : Channel → Channel) : (s.updChan st0 ch0 f).regs = s.regs := rfl
@[simp] theorem updChan_disabled (s : State) (st0 ch0 : Nat) (f : Channel → Channel) : (s.updChan st0 ch0 f).disabled = s.disabled := rfl
@[simp] theorem updChan_enabled (s : State) (st0 ch0 : Nat) (f : Channel → Channel) : (s.updChan st0 ch0 f).enabled = s.enabled := rfl
@[simp] theorem updChan_vecSent (s : State) (st0 ch0 : Nat) (f : Channel → Channel) : (s.updChan st0 ch0 f).vecSent = s.vecSent := rfl
@[simp] theorem updChan_vecMask (s : State) (st0 ch0 : Nat) (f : Channel → Channel) : (s.updChan st0 ch0 f).vecMask = s.vecMask := rfl
@[simp] theorem updChan_vecPend (s : State) (st0 ch0 : Nat) (f : Channel → Channel) : (s.updChan st0 ch0 f).vecPend = s.vecPend := rfl
@[simp] theorem updChan_vecTable (s : State) (st0 ch0 : Nat) (f : Channel → Channel) : (s.updChan st0 ch0 f).vecTable = s.vecTable := rfl
@[simp] theorem updChan_funcMask (s : State) (st0 ch0 : Nat) (f : Channel → Channel) : (s.updChan st0 ch0 f).funcMask = s.funcMask := rfl
@[simp] theorem updChan_mem (s : State) (st0 ch0 : Nat) (f : Channel → Channel) : (s.updChan st0 ch0 f).mem = s.mem := rfl
@[simp] theorem updChan_poison (s : State) (st0 ch0 : Nat) (f : Channel → Channel) : (s.updChan st0 ch0 f).poison = s.poison := rfl
@[simp] theorem updChan_flips (s : State) (st0 ch0 : Nat) (f : Channel → Channel) : (s.updChan st0 ch0 f).flips = s.flips := rfl
@[simp] theorem updChan_slotErrs (s : State) (st0 ch0 : Nat) (f : Channel → Channel) : (s.updChan st0 ch0 f).slotErrs = s.slotErrs := rfl
@[simp] theorem updChan_stackTab (s : State) (st0 ch0 : Nat) (f : Channel → Channel) : (s.updChan st0 ch0 f).stackTab = s.stackTab := rfl
@[simp] theorem updChan_units (s : State) (st0 ch0 : Nat) (f : Channel → Channel) : (s.updChan st0 ch0 f).units = s.units := rfl
@[simp] theorem updChan_tiles (s : State) (st0 ch0 : Nat) (f : Channel → Channel) : (s.updChan st0 ch0 f).tiles = s.tiles := rfl
@[simp] theorem updChan_seqs (s : State) (st0 ch0 : Nat) (f : Channel → Channel) : (s.updChan st0 ch0 f).seqs = s.seqs := rfl
@[simp] theorem updChan_imem (s : State) (st0 ch0 : Nat) (f : Channel → Channel) : (s.updChan st0 ch0 f).imem = s.imem := rfl
@[simp] theorem updChan_lib (s : State) (st0 ch0 : Nat) (f : Channel → Channel) : (s.updChan st0 ch0 f).lib = s.lib := rfl
@[simp] theorem updChan_routines (s : State) (st0 ch0 : Nat) (f : Channel → Channel) : (s.updChan st0 ch0 f).routines = s.routines := rfl
@[simp] theorem updChan_descs (s : State) (st0 ch0 : Nat) (f : Channel → Channel) : (s.updChan st0 ch0 f).descs = s.descs := rfl
@[simp] theorem updChan_allocs (s : State) (st0 ch0 : Nat) (f : Channel → Channel) : (s.updChan st0 ch0 f).allocs = s.allocs := rfl
@[simp] theorem updChan_otabs (s : State) (st0 ch0 : Nat) (f : Channel → Channel) : (s.updChan st0 ch0 f).otabs = s.otabs := rfl
@[simp] theorem updChan_descQ (s : State) (st0 ch0 : Nat) (f : Channel → Channel) : (s.updChan st0 ch0 f).descQ = s.descQ := rfl
@[simp] theorem updChan_allocQ (s : State) (st0 ch0 : Nat) (f : Channel → Channel) : (s.updChan st0 ch0 f).allocQ = s.allocQ := rfl
@[simp] theorem updChan_fetches (s : State) (st0 ch0 : Nat) (f : Channel → Channel) : (s.updChan st0 ch0 f).fetches = s.fetches := rfl
@[simp] theorem updChan_nextFetch (s : State) (st0 ch0 : Nat) (f : Channel → Channel) : (s.updChan st0 ch0 f).nextFetch = s.nextFetch := rfl
@[simp] theorem updChan_arbs (s : State) (st0 ch0 : Nat) (f : Channel → Channel) : (s.updChan st0 ch0 f).arbs = s.arbs := rfl
@[simp] theorem updChan_edges (s : State) (st0 ch0 : Nat) (f : Channel → Channel) : (s.updChan st0 ch0 f).edges = s.edges := rfl
@[simp] theorem updChan_ports (s : State) (st0 ch0 : Nat) (f : Channel → Channel) : (s.updChan st0 ch0 f).ports = s.ports := rfl
@[simp] theorem updChan_sync (s : State) (st0 ch0 : Nat) (f : Channel → Channel) : (s.updChan st0 ch0 f).sync = s.sync := rfl
@[simp] theorem updChan_outReqs (s : State) (st0 ch0 : Nat) (f : Channel → Channel) : (s.updChan st0 ch0 f).outReqs = s.outReqs := rfl
@[simp] theorem updChan_inPkts (s : State) (st0 ch0 : Nat) (f : Channel → Channel) : (s.updChan st0 ch0 f).inPkts = s.inPkts := rfl
@[simp] theorem updChan_nextIn (s : State) (st0 ch0 : Nat) (f : Channel → Channel) : (s.updChan st0 ch0 f).nextIn = s.nextIn := rfl
@[simp] theorem updChan_egress (s : State) (st0 ch0 : Nat) (f : Channel → Channel) : (s.updChan st0 ch0 f).egress = s.egress := rfl
@[simp] theorem updChan_cxl (s : State) (st0 ch0 : Nat) (f : Channel → Channel) : (s.updChan st0 ch0 f).cxl = s.cxl := rfl
@[simp] theorem updChan_armed (s : State) (st0 ch0 : Nat) (f : Channel → Channel) : (s.updChan st0 ch0 f).armed = s.armed := rfl
@[simp] theorem updChan_running (s : State) (st0 ch0 : Nat) (f : Channel → Channel) : (s.updChan st0 ch0 f).running = s.running := rfl
@[simp] theorem updChan_ledger (s : State) (st0 ch0 : Nat) (f : Channel → Channel) : (s.updChan st0 ch0 f).ledger = s.ledger := rfl
@[simp] theorem updChan_causes (s : State) (st0 ch0 : Nat) (f : Channel → Channel) : (s.updChan st0 ch0 f).causes = s.causes := rfl
@[simp] theorem updChan_entries (s : State) (st0 ch0 : Nat) (f : Channel → Channel) : (s.updChan st0 ch0 f).entries = s.entries := rfl
@[simp] theorem updChan_entry (s : State) (st0 ch0 : Nat) (f : Channel → Channel) : (s.updChan st0 ch0 f).entry = s.entry := rfl
@[simp] theorem updChan_history (s : State) (st0 ch0 : Nat) (f : Channel → Channel) : (s.updChan st0 ch0 f).history = s.history := rfl
@[simp] theorem updChan_clearDesc (s : State) (st0 ch0 : Nat) (f : Channel → Channel) : (s.updChan st0 ch0 f).clearDesc = s.clearDesc := rfl
@[simp] theorem updChan_fenceFlushed (s : State) (st0 ch0 : Nat) (f : Channel → Channel) : (s.updChan st0 ch0 f).fenceFlushed = s.fenceFlushed := rfl
@[simp] theorem updChan_kicks (s : State) (st0 ch0 : Nat) (f : Channel → Channel) : (s.updChan st0 ch0 f).kicks = s.kicks := rfl
@[simp] theorem updChan_uzoids (s : State) (st0 ch0 : Nat) (f : Channel → Channel) : (s.updChan st0 ch0 f).uzoids = s.uzoids := rfl
@[simp] theorem updChan_restarting (s : State) (st0 ch0 : Nat) (f : Channel → Channel) : (s.updChan st0 ch0 f).restarting = s.restarting := rfl
@[simp] theorem updChan_bwq (s : State) (st0 ch0 : Nat) (f : Channel → Channel) : (s.updChan st0 ch0 f).bwq = s.bwq := rfl
@[simp] theorem updChan_flash (s : State) (st0 ch0 : Nat) (f : Channel → Channel) : (s.updChan st0 ch0 f).flash = s.flash := rfl
@[simp] theorem updChan_board (s : State) (st0 ch0 : Nat) (f : Channel → Channel) : (s.updChan st0 ch0 f).board = s.board := rfl
@[simp] theorem updChan_us (s : State) (st0 ch0 : Nat) (f : Channel → Channel) : (s.updChan st0 ch0 f).us = s.us := rfl
@[simp] theorem updChan_drawn (s : State) (st0 ch0 : Nat) (f : Channel → Channel) : (s.updChan st0 ch0 f).drawn = s.drawn := rfl
@[simp] theorem updChan_out (s : State) (st0 ch0 : Nat) (f : Channel → Channel) : (s.updChan st0 ch0 f).out = s.out := rfl
@[simp] theorem updChan_reg (s : State) (st0 ch0 : Nat) (f : Channel → Channel) (k : Nat) : (s.updChan st0 ch0 f).reg k = s.reg k := rfl
@[simp] theorem updChan_stack (s : State) (st0 ch0 : Nat) (f : Channel → Channel) (st : Nat) : (s.updChan st0 ch0 f).stack st = s.stack st := rfl
@[simp] theorem updChan_unit (s : State) (st0 ch0 : Nat) (f : Channel → Channel) (u : Nat) : (s.updChan st0 ch0 f).unit u = s.unit u := rfl
@[simp] theorem updChan_tile (s : State) (st0 ch0 : Nat) (f : Channel → Channel) (t : Nat) : (s.updChan st0 ch0 f).tile t = s.tile t := rfl
@[simp] theorem updChan_seq (s : State) (st0 ch0 : Nat) (f : Channel → Channel) (d : Nat) : (s.updChan st0 ch0 f).seq d = s.seq d := rfl
@[simp] theorem updChan_arb (s : State) (st0 ch0 : Nat) (f : Channel → Channel) (d i : Nat) : (s.updChan st0 ch0 f).arb d i = s.arb d i := rfl
@[simp] theorem updChan_port (s : State) (st0 ch0 : Nat) (f : Channel → Channel) (p : Nat) : (s.updChan st0 ch0 f).port p = s.port p := rfl
@[simp] theorem updChan_desc (s : State) (st0 ch0 : Nat) (f : Channel → Channel) (h : Nat) : (s.updChan st0 ch0 f).desc h = s.desc h := rfl
@[simp] theorem updChan_alloc (s : State) (st0 ch0 : Nat) (f : Channel → Channel) (i : Nat) : (s.updChan st0 ch0 f).alloc i = s.alloc i := rfl
@[simp] theorem updChan_otab (s : State) (st0 ch0 : Nat) (f : Channel → Channel) (i : Nat) : (s.updChan st0 ch0 f).otab i = s.otab i := rfl
@[simp] theorem updChan_getF (s : State) (st0 ch0 : Nat) (f : Channel → Channel) (q : Nat) (g : RegF) (j : Nat) : getF (s.updChan st0 ch0 f) q g j = getF s q g j := rfl
@[simp] theorem updChan_hasEvent (s : State) (st0 ch0 : Nat) (f : Channel → Channel) (q j : Nat) : hasEvent (s.updChan st0 ch0 f) q j = hasEvent s q j := rfl
@[simp] theorem updBank_pending (s : State) (st0 ch0 b0 : Nat) (f : Bank → Bank) : (s.updBank st0 ch0 b0 f).pending = s.pending := rfl
@[simp] theorem updBank_member (s : State) (st0 ch0 b0 : Nat) (f : Bank → Bank) : (s.updBank st0 ch0 b0 f).member = s.member := rfl
@[simp] theorem updBank_regs (s : State) (st0 ch0 b0 : Nat) (f : Bank → Bank) : (s.updBank st0 ch0 b0 f).regs = s.regs := rfl
@[simp] theorem updBank_disabled (s : State) (st0 ch0 b0 : Nat) (f : Bank → Bank) : (s.updBank st0 ch0 b0 f).disabled = s.disabled := rfl
@[simp] theorem updBank_enabled (s : State) (st0 ch0 b0 : Nat) (f : Bank → Bank) : (s.updBank st0 ch0 b0 f).enabled = s.enabled := rfl
@[simp] theorem updBank_vecSent (s : State) (st0 ch0 b0 : Nat) (f : Bank → Bank) : (s.updBank st0 ch0 b0 f).vecSent = s.vecSent := rfl
@[simp] theorem updBank_vecMask (s : State) (st0 ch0 b0 : Nat) (f : Bank → Bank) : (s.updBank st0 ch0 b0 f).vecMask = s.vecMask := rfl
@[simp] theorem updBank_vecPend (s : State) (st0 ch0 b0 : Nat) (f : Bank → Bank) : (s.updBank st0 ch0 b0 f).vecPend = s.vecPend := rfl
@[simp] theorem updBank_vecTable (s : State) (st0 ch0 b0 : Nat) (f : Bank → Bank) : (s.updBank st0 ch0 b0 f).vecTable = s.vecTable := rfl
@[simp] theorem updBank_funcMask (s : State) (st0 ch0 b0 : Nat) (f : Bank → Bank) : (s.updBank st0 ch0 b0 f).funcMask = s.funcMask := rfl
@[simp] theorem updBank_mem (s : State) (st0 ch0 b0 : Nat) (f : Bank → Bank) : (s.updBank st0 ch0 b0 f).mem = s.mem := rfl
@[simp] theorem updBank_poison (s : State) (st0 ch0 b0 : Nat) (f : Bank → Bank) : (s.updBank st0 ch0 b0 f).poison = s.poison := rfl
@[simp] theorem updBank_flips (s : State) (st0 ch0 b0 : Nat) (f : Bank → Bank) : (s.updBank st0 ch0 b0 f).flips = s.flips := rfl
@[simp] theorem updBank_slotErrs (s : State) (st0 ch0 b0 : Nat) (f : Bank → Bank) : (s.updBank st0 ch0 b0 f).slotErrs = s.slotErrs := rfl
@[simp] theorem updBank_stackTab (s : State) (st0 ch0 b0 : Nat) (f : Bank → Bank) : (s.updBank st0 ch0 b0 f).stackTab = s.stackTab := rfl
@[simp] theorem updBank_units (s : State) (st0 ch0 b0 : Nat) (f : Bank → Bank) : (s.updBank st0 ch0 b0 f).units = s.units := rfl
@[simp] theorem updBank_tiles (s : State) (st0 ch0 b0 : Nat) (f : Bank → Bank) : (s.updBank st0 ch0 b0 f).tiles = s.tiles := rfl
@[simp] theorem updBank_seqs (s : State) (st0 ch0 b0 : Nat) (f : Bank → Bank) : (s.updBank st0 ch0 b0 f).seqs = s.seqs := rfl
@[simp] theorem updBank_imem (s : State) (st0 ch0 b0 : Nat) (f : Bank → Bank) : (s.updBank st0 ch0 b0 f).imem = s.imem := rfl
@[simp] theorem updBank_lib (s : State) (st0 ch0 b0 : Nat) (f : Bank → Bank) : (s.updBank st0 ch0 b0 f).lib = s.lib := rfl
@[simp] theorem updBank_routines (s : State) (st0 ch0 b0 : Nat) (f : Bank → Bank) : (s.updBank st0 ch0 b0 f).routines = s.routines := rfl
@[simp] theorem updBank_descs (s : State) (st0 ch0 b0 : Nat) (f : Bank → Bank) : (s.updBank st0 ch0 b0 f).descs = s.descs := rfl
@[simp] theorem updBank_allocs (s : State) (st0 ch0 b0 : Nat) (f : Bank → Bank) : (s.updBank st0 ch0 b0 f).allocs = s.allocs := rfl
@[simp] theorem updBank_otabs (s : State) (st0 ch0 b0 : Nat) (f : Bank → Bank) : (s.updBank st0 ch0 b0 f).otabs = s.otabs := rfl
@[simp] theorem updBank_descQ (s : State) (st0 ch0 b0 : Nat) (f : Bank → Bank) : (s.updBank st0 ch0 b0 f).descQ = s.descQ := rfl
@[simp] theorem updBank_allocQ (s : State) (st0 ch0 b0 : Nat) (f : Bank → Bank) : (s.updBank st0 ch0 b0 f).allocQ = s.allocQ := rfl
@[simp] theorem updBank_fetches (s : State) (st0 ch0 b0 : Nat) (f : Bank → Bank) : (s.updBank st0 ch0 b0 f).fetches = s.fetches := rfl
@[simp] theorem updBank_nextFetch (s : State) (st0 ch0 b0 : Nat) (f : Bank → Bank) : (s.updBank st0 ch0 b0 f).nextFetch = s.nextFetch := rfl
@[simp] theorem updBank_arbs (s : State) (st0 ch0 b0 : Nat) (f : Bank → Bank) : (s.updBank st0 ch0 b0 f).arbs = s.arbs := rfl
@[simp] theorem updBank_edges (s : State) (st0 ch0 b0 : Nat) (f : Bank → Bank) : (s.updBank st0 ch0 b0 f).edges = s.edges := rfl
@[simp] theorem updBank_ports (s : State) (st0 ch0 b0 : Nat) (f : Bank → Bank) : (s.updBank st0 ch0 b0 f).ports = s.ports := rfl
@[simp] theorem updBank_sync (s : State) (st0 ch0 b0 : Nat) (f : Bank → Bank) : (s.updBank st0 ch0 b0 f).sync = s.sync := rfl
@[simp] theorem updBank_outReqs (s : State) (st0 ch0 b0 : Nat) (f : Bank → Bank) : (s.updBank st0 ch0 b0 f).outReqs = s.outReqs := rfl
@[simp] theorem updBank_inPkts (s : State) (st0 ch0 b0 : Nat) (f : Bank → Bank) : (s.updBank st0 ch0 b0 f).inPkts = s.inPkts := rfl
@[simp] theorem updBank_nextIn (s : State) (st0 ch0 b0 : Nat) (f : Bank → Bank) : (s.updBank st0 ch0 b0 f).nextIn = s.nextIn := rfl
@[simp] theorem updBank_egress (s : State) (st0 ch0 b0 : Nat) (f : Bank → Bank) : (s.updBank st0 ch0 b0 f).egress = s.egress := rfl
@[simp] theorem updBank_cxl (s : State) (st0 ch0 b0 : Nat) (f : Bank → Bank) : (s.updBank st0 ch0 b0 f).cxl = s.cxl := rfl
@[simp] theorem updBank_armed (s : State) (st0 ch0 b0 : Nat) (f : Bank → Bank) : (s.updBank st0 ch0 b0 f).armed = s.armed := rfl
@[simp] theorem updBank_running (s : State) (st0 ch0 b0 : Nat) (f : Bank → Bank) : (s.updBank st0 ch0 b0 f).running = s.running := rfl
@[simp] theorem updBank_ledger (s : State) (st0 ch0 b0 : Nat) (f : Bank → Bank) : (s.updBank st0 ch0 b0 f).ledger = s.ledger := rfl
@[simp] theorem updBank_causes (s : State) (st0 ch0 b0 : Nat) (f : Bank → Bank) : (s.updBank st0 ch0 b0 f).causes = s.causes := rfl
@[simp] theorem updBank_entries (s : State) (st0 ch0 b0 : Nat) (f : Bank → Bank) : (s.updBank st0 ch0 b0 f).entries = s.entries := rfl
@[simp] theorem updBank_entry (s : State) (st0 ch0 b0 : Nat) (f : Bank → Bank) : (s.updBank st0 ch0 b0 f).entry = s.entry := rfl
@[simp] theorem updBank_history (s : State) (st0 ch0 b0 : Nat) (f : Bank → Bank) : (s.updBank st0 ch0 b0 f).history = s.history := rfl
@[simp] theorem updBank_clearDesc (s : State) (st0 ch0 b0 : Nat) (f : Bank → Bank) : (s.updBank st0 ch0 b0 f).clearDesc = s.clearDesc := rfl
@[simp] theorem updBank_fenceFlushed (s : State) (st0 ch0 b0 : Nat) (f : Bank → Bank) : (s.updBank st0 ch0 b0 f).fenceFlushed = s.fenceFlushed := rfl
@[simp] theorem updBank_kicks (s : State) (st0 ch0 b0 : Nat) (f : Bank → Bank) : (s.updBank st0 ch0 b0 f).kicks = s.kicks := rfl
@[simp] theorem updBank_uzoids (s : State) (st0 ch0 b0 : Nat) (f : Bank → Bank) : (s.updBank st0 ch0 b0 f).uzoids = s.uzoids := rfl
@[simp] theorem updBank_restarting (s : State) (st0 ch0 b0 : Nat) (f : Bank → Bank) : (s.updBank st0 ch0 b0 f).restarting = s.restarting := rfl
@[simp] theorem updBank_bwq (s : State) (st0 ch0 b0 : Nat) (f : Bank → Bank) : (s.updBank st0 ch0 b0 f).bwq = s.bwq := rfl
@[simp] theorem updBank_flash (s : State) (st0 ch0 b0 : Nat) (f : Bank → Bank) : (s.updBank st0 ch0 b0 f).flash = s.flash := rfl
@[simp] theorem updBank_board (s : State) (st0 ch0 b0 : Nat) (f : Bank → Bank) : (s.updBank st0 ch0 b0 f).board = s.board := rfl
@[simp] theorem updBank_us (s : State) (st0 ch0 b0 : Nat) (f : Bank → Bank) : (s.updBank st0 ch0 b0 f).us = s.us := rfl
@[simp] theorem updBank_drawn (s : State) (st0 ch0 b0 : Nat) (f : Bank → Bank) : (s.updBank st0 ch0 b0 f).drawn = s.drawn := rfl
@[simp] theorem updBank_out (s : State) (st0 ch0 b0 : Nat) (f : Bank → Bank) : (s.updBank st0 ch0 b0 f).out = s.out := rfl
@[simp] theorem updBank_reg (s : State) (st0 ch0 b0 : Nat) (f : Bank → Bank) (k : Nat) : (s.updBank st0 ch0 b0 f).reg k = s.reg k := rfl
@[simp] theorem updBank_stack (s : State) (st0 ch0 b0 : Nat) (f : Bank → Bank) (st : Nat) : (s.updBank st0 ch0 b0 f).stack st = s.stack st := rfl
@[simp] theorem updBank_unit (s : State) (st0 ch0 b0 : Nat) (f : Bank → Bank) (u : Nat) : (s.updBank st0 ch0 b0 f).unit u = s.unit u := rfl
@[simp] theorem updBank_tile (s : State) (st0 ch0 b0 : Nat) (f : Bank → Bank) (t : Nat) : (s.updBank st0 ch0 b0 f).tile t = s.tile t := rfl
@[simp] theorem updBank_seq (s : State) (st0 ch0 b0 : Nat) (f : Bank → Bank) (d : Nat) : (s.updBank st0 ch0 b0 f).seq d = s.seq d := rfl
@[simp] theorem updBank_arb (s : State) (st0 ch0 b0 : Nat) (f : Bank → Bank) (d i : Nat) : (s.updBank st0 ch0 b0 f).arb d i = s.arb d i := rfl
@[simp] theorem updBank_port (s : State) (st0 ch0 b0 : Nat) (f : Bank → Bank) (p : Nat) : (s.updBank st0 ch0 b0 f).port p = s.port p := rfl
@[simp] theorem updBank_desc (s : State) (st0 ch0 b0 : Nat) (f : Bank → Bank) (h : Nat) : (s.updBank st0 ch0 b0 f).desc h = s.desc h := rfl
@[simp] theorem updBank_alloc (s : State) (st0 ch0 b0 : Nat) (f : Bank → Bank) (i : Nat) : (s.updBank st0 ch0 b0 f).alloc i = s.alloc i := rfl
@[simp] theorem updBank_otab (s : State) (st0 ch0 b0 : Nat) (f : Bank → Bank) (i : Nat) : (s.updBank st0 ch0 b0 f).otab i = s.otab i := rfl
@[simp] theorem updBank_getF (s : State) (st0 ch0 b0 : Nat) (f : Bank → Bank) (q : Nat) (g : RegF) (j : Nat) : getF (s.updBank st0 ch0 b0 f) q g j = getF s q g j := rfl
@[simp] theorem updBank_hasEvent (s : State) (st0 ch0 b0 : Nat) (f : Bank → Bank) (q j : Nat) : hasEvent (s.updBank st0 ch0 b0 f) q j = hasEvent s q j := rfl
@[simp] theorem updStack_pending (s : State) (st0 : Nat) (f : Stack → Stack) : (s.updStack st0 f).pending = s.pending := rfl
@[simp] theorem updStack_member (s : State) (st0 : Nat) (f : Stack → Stack) : (s.updStack st0 f).member = s.member := rfl
@[simp] theorem updStack_regs (s : State) (st0 : Nat) (f : Stack → Stack) : (s.updStack st0 f).regs = s.regs := rfl
@[simp] theorem updStack_disabled (s : State) (st0 : Nat) (f : Stack → Stack) : (s.updStack st0 f).disabled = s.disabled := rfl
@[simp] theorem updStack_enabled (s : State) (st0 : Nat) (f : Stack → Stack) : (s.updStack st0 f).enabled = s.enabled := rfl
@[simp] theorem updStack_vecSent (s : State) (st0 : Nat) (f : Stack → Stack) : (s.updStack st0 f).vecSent = s.vecSent := rfl
@[simp] theorem updStack_vecMask (s : State) (st0 : Nat) (f : Stack → Stack) : (s.updStack st0 f).vecMask = s.vecMask := rfl
@[simp] theorem updStack_vecPend (s : State) (st0 : Nat) (f : Stack → Stack) : (s.updStack st0 f).vecPend = s.vecPend := rfl
@[simp] theorem updStack_vecTable (s : State) (st0 : Nat) (f : Stack → Stack) : (s.updStack st0 f).vecTable = s.vecTable := rfl
@[simp] theorem updStack_funcMask (s : State) (st0 : Nat) (f : Stack → Stack) : (s.updStack st0 f).funcMask = s.funcMask := rfl
@[simp] theorem updStack_mem (s : State) (st0 : Nat) (f : Stack → Stack) : (s.updStack st0 f).mem = s.mem := rfl
@[simp] theorem updStack_poison (s : State) (st0 : Nat) (f : Stack → Stack) : (s.updStack st0 f).poison = s.poison := rfl
@[simp] theorem updStack_flips (s : State) (st0 : Nat) (f : Stack → Stack) : (s.updStack st0 f).flips = s.flips := rfl
@[simp] theorem updStack_slotErrs (s : State) (st0 : Nat) (f : Stack → Stack) : (s.updStack st0 f).slotErrs = s.slotErrs := rfl
@[simp] theorem updStack_chans (s : State) (st0 : Nat) (f : Stack → Stack) : (s.updStack st0 f).chans = s.chans := rfl
@[simp] theorem updStack_units (s : State) (st0 : Nat) (f : Stack → Stack) : (s.updStack st0 f).units = s.units := rfl
@[simp] theorem updStack_tiles (s : State) (st0 : Nat) (f : Stack → Stack) : (s.updStack st0 f).tiles = s.tiles := rfl
@[simp] theorem updStack_seqs (s : State) (st0 : Nat) (f : Stack → Stack) : (s.updStack st0 f).seqs = s.seqs := rfl
@[simp] theorem updStack_imem (s : State) (st0 : Nat) (f : Stack → Stack) : (s.updStack st0 f).imem = s.imem := rfl
@[simp] theorem updStack_lib (s : State) (st0 : Nat) (f : Stack → Stack) : (s.updStack st0 f).lib = s.lib := rfl
@[simp] theorem updStack_routines (s : State) (st0 : Nat) (f : Stack → Stack) : (s.updStack st0 f).routines = s.routines := rfl
@[simp] theorem updStack_descs (s : State) (st0 : Nat) (f : Stack → Stack) : (s.updStack st0 f).descs = s.descs := rfl
@[simp] theorem updStack_allocs (s : State) (st0 : Nat) (f : Stack → Stack) : (s.updStack st0 f).allocs = s.allocs := rfl
@[simp] theorem updStack_otabs (s : State) (st0 : Nat) (f : Stack → Stack) : (s.updStack st0 f).otabs = s.otabs := rfl
@[simp] theorem updStack_descQ (s : State) (st0 : Nat) (f : Stack → Stack) : (s.updStack st0 f).descQ = s.descQ := rfl
@[simp] theorem updStack_allocQ (s : State) (st0 : Nat) (f : Stack → Stack) : (s.updStack st0 f).allocQ = s.allocQ := rfl
@[simp] theorem updStack_fetches (s : State) (st0 : Nat) (f : Stack → Stack) : (s.updStack st0 f).fetches = s.fetches := rfl
@[simp] theorem updStack_nextFetch (s : State) (st0 : Nat) (f : Stack → Stack) : (s.updStack st0 f).nextFetch = s.nextFetch := rfl
@[simp] theorem updStack_arbs (s : State) (st0 : Nat) (f : Stack → Stack) : (s.updStack st0 f).arbs = s.arbs := rfl
@[simp] theorem updStack_edges (s : State) (st0 : Nat) (f : Stack → Stack) : (s.updStack st0 f).edges = s.edges := rfl
@[simp] theorem updStack_ports (s : State) (st0 : Nat) (f : Stack → Stack) : (s.updStack st0 f).ports = s.ports := rfl
@[simp] theorem updStack_sync (s : State) (st0 : Nat) (f : Stack → Stack) : (s.updStack st0 f).sync = s.sync := rfl
@[simp] theorem updStack_outReqs (s : State) (st0 : Nat) (f : Stack → Stack) : (s.updStack st0 f).outReqs = s.outReqs := rfl
@[simp] theorem updStack_inPkts (s : State) (st0 : Nat) (f : Stack → Stack) : (s.updStack st0 f).inPkts = s.inPkts := rfl
@[simp] theorem updStack_nextIn (s : State) (st0 : Nat) (f : Stack → Stack) : (s.updStack st0 f).nextIn = s.nextIn := rfl
@[simp] theorem updStack_egress (s : State) (st0 : Nat) (f : Stack → Stack) : (s.updStack st0 f).egress = s.egress := rfl
@[simp] theorem updStack_cxl (s : State) (st0 : Nat) (f : Stack → Stack) : (s.updStack st0 f).cxl = s.cxl := rfl
@[simp] theorem updStack_armed (s : State) (st0 : Nat) (f : Stack → Stack) : (s.updStack st0 f).armed = s.armed := rfl
@[simp] theorem updStack_running (s : State) (st0 : Nat) (f : Stack → Stack) : (s.updStack st0 f).running = s.running := rfl
@[simp] theorem updStack_ledger (s : State) (st0 : Nat) (f : Stack → Stack) : (s.updStack st0 f).ledger = s.ledger := rfl
@[simp] theorem updStack_causes (s : State) (st0 : Nat) (f : Stack → Stack) : (s.updStack st0 f).causes = s.causes := rfl
@[simp] theorem updStack_entries (s : State) (st0 : Nat) (f : Stack → Stack) : (s.updStack st0 f).entries = s.entries := rfl
@[simp] theorem updStack_entry (s : State) (st0 : Nat) (f : Stack → Stack) : (s.updStack st0 f).entry = s.entry := rfl
@[simp] theorem updStack_history (s : State) (st0 : Nat) (f : Stack → Stack) : (s.updStack st0 f).history = s.history := rfl
@[simp] theorem updStack_clearDesc (s : State) (st0 : Nat) (f : Stack → Stack) : (s.updStack st0 f).clearDesc = s.clearDesc := rfl
@[simp] theorem updStack_fenceFlushed (s : State) (st0 : Nat) (f : Stack → Stack) : (s.updStack st0 f).fenceFlushed = s.fenceFlushed := rfl
@[simp] theorem updStack_kicks (s : State) (st0 : Nat) (f : Stack → Stack) : (s.updStack st0 f).kicks = s.kicks := rfl
@[simp] theorem updStack_uzoids (s : State) (st0 : Nat) (f : Stack → Stack) : (s.updStack st0 f).uzoids = s.uzoids := rfl
@[simp] theorem updStack_restarting (s : State) (st0 : Nat) (f : Stack → Stack) : (s.updStack st0 f).restarting = s.restarting := rfl
@[simp] theorem updStack_bwq (s : State) (st0 : Nat) (f : Stack → Stack) : (s.updStack st0 f).bwq = s.bwq := rfl
@[simp] theorem updStack_flash (s : State) (st0 : Nat) (f : Stack → Stack) : (s.updStack st0 f).flash = s.flash := rfl
@[simp] theorem updStack_board (s : State) (st0 : Nat) (f : Stack → Stack) : (s.updStack st0 f).board = s.board := rfl
@[simp] theorem updStack_us (s : State) (st0 : Nat) (f : Stack → Stack) : (s.updStack st0 f).us = s.us := rfl
@[simp] theorem updStack_drawn (s : State) (st0 : Nat) (f : Stack → Stack) : (s.updStack st0 f).drawn = s.drawn := rfl
@[simp] theorem updStack_out (s : State) (st0 : Nat) (f : Stack → Stack) : (s.updStack st0 f).out = s.out := rfl
@[simp] theorem updStack_reg (s : State) (st0 : Nat) (f : Stack → Stack) (k : Nat) : (s.updStack st0 f).reg k = s.reg k := rfl
@[simp] theorem updStack_chan (s : State) (st0 : Nat) (f : Stack → Stack) (st ch : Nat) : (s.updStack st0 f).chan st ch = s.chan st ch := rfl
@[simp] theorem updStack_unit (s : State) (st0 : Nat) (f : Stack → Stack) (u : Nat) : (s.updStack st0 f).unit u = s.unit u := rfl
@[simp] theorem updStack_tile (s : State) (st0 : Nat) (f : Stack → Stack) (t : Nat) : (s.updStack st0 f).tile t = s.tile t := rfl
@[simp] theorem updStack_seq (s : State) (st0 : Nat) (f : Stack → Stack) (d : Nat) : (s.updStack st0 f).seq d = s.seq d := rfl
@[simp] theorem updStack_arb (s : State) (st0 : Nat) (f : Stack → Stack) (d i : Nat) : (s.updStack st0 f).arb d i = s.arb d i := rfl
@[simp] theorem updStack_port (s : State) (st0 : Nat) (f : Stack → Stack) (p : Nat) : (s.updStack st0 f).port p = s.port p := rfl
@[simp] theorem updStack_desc (s : State) (st0 : Nat) (f : Stack → Stack) (h : Nat) : (s.updStack st0 f).desc h = s.desc h := rfl
@[simp] theorem updStack_alloc (s : State) (st0 : Nat) (f : Stack → Stack) (i : Nat) : (s.updStack st0 f).alloc i = s.alloc i := rfl
@[simp] theorem updStack_otab (s : State) (st0 : Nat) (f : Stack → Stack) (i : Nat) : (s.updStack st0 f).otab i = s.otab i := rfl
@[simp] theorem updStack_getF (s : State) (st0 : Nat) (f : Stack → Stack) (q : Nat) (g : RegF) (j : Nat) : getF (s.updStack st0 f) q g j = getF s q g j := rfl
@[simp] theorem updStack_hasEvent (s : State) (st0 : Nat) (f : Stack → Stack) (q j : Nat) : hasEvent (s.updStack st0 f) q j = hasEvent s q j := rfl
@[simp] theorem updUnit_pending (s : State) (u0 : Nat) (f : Unit → Unit) : (s.updUnit u0 f).pending = s.pending := rfl
@[simp] theorem updUnit_member (s : State) (u0 : Nat) (f : Unit → Unit) : (s.updUnit u0 f).member = s.member := rfl
@[simp] theorem updUnit_regs (s : State) (u0 : Nat) (f : Unit → Unit) : (s.updUnit u0 f).regs = s.regs := rfl
@[simp] theorem updUnit_disabled (s : State) (u0 : Nat) (f : Unit → Unit) : (s.updUnit u0 f).disabled = s.disabled := rfl
@[simp] theorem updUnit_enabled (s : State) (u0 : Nat) (f : Unit → Unit) : (s.updUnit u0 f).enabled = s.enabled := rfl
@[simp] theorem updUnit_vecSent (s : State) (u0 : Nat) (f : Unit → Unit) : (s.updUnit u0 f).vecSent = s.vecSent := rfl
@[simp] theorem updUnit_vecMask (s : State) (u0 : Nat) (f : Unit → Unit) : (s.updUnit u0 f).vecMask = s.vecMask := rfl
@[simp] theorem updUnit_vecPend (s : State) (u0 : Nat) (f : Unit → Unit) : (s.updUnit u0 f).vecPend = s.vecPend := rfl
@[simp] theorem updUnit_vecTable (s : State) (u0 : Nat) (f : Unit → Unit) : (s.updUnit u0 f).vecTable = s.vecTable := rfl
@[simp] theorem updUnit_funcMask (s : State) (u0 : Nat) (f : Unit → Unit) : (s.updUnit u0 f).funcMask = s.funcMask := rfl
@[simp] theorem updUnit_mem (s : State) (u0 : Nat) (f : Unit → Unit) : (s.updUnit u0 f).mem = s.mem := rfl
@[simp] theorem updUnit_poison (s : State) (u0 : Nat) (f : Unit → Unit) : (s.updUnit u0 f).poison = s.poison := rfl
@[simp] theorem updUnit_flips (s : State) (u0 : Nat) (f : Unit → Unit) : (s.updUnit u0 f).flips = s.flips := rfl
@[simp] theorem updUnit_slotErrs (s : State) (u0 : Nat) (f : Unit → Unit) : (s.updUnit u0 f).slotErrs = s.slotErrs := rfl
@[simp] theorem updUnit_chans (s : State) (u0 : Nat) (f : Unit → Unit) : (s.updUnit u0 f).chans = s.chans := rfl
@[simp] theorem updUnit_stackTab (s : State) (u0 : Nat) (f : Unit → Unit) : (s.updUnit u0 f).stackTab = s.stackTab := rfl
@[simp] theorem updUnit_tiles (s : State) (u0 : Nat) (f : Unit → Unit) : (s.updUnit u0 f).tiles = s.tiles := rfl
@[simp] theorem updUnit_seqs (s : State) (u0 : Nat) (f : Unit → Unit) : (s.updUnit u0 f).seqs = s.seqs := rfl
@[simp] theorem updUnit_imem (s : State) (u0 : Nat) (f : Unit → Unit) : (s.updUnit u0 f).imem = s.imem := rfl
@[simp] theorem updUnit_lib (s : State) (u0 : Nat) (f : Unit → Unit) : (s.updUnit u0 f).lib = s.lib := rfl
@[simp] theorem updUnit_routines (s : State) (u0 : Nat) (f : Unit → Unit) : (s.updUnit u0 f).routines = s.routines := rfl
@[simp] theorem updUnit_descs (s : State) (u0 : Nat) (f : Unit → Unit) : (s.updUnit u0 f).descs = s.descs := rfl
@[simp] theorem updUnit_allocs (s : State) (u0 : Nat) (f : Unit → Unit) : (s.updUnit u0 f).allocs = s.allocs := rfl
@[simp] theorem updUnit_otabs (s : State) (u0 : Nat) (f : Unit → Unit) : (s.updUnit u0 f).otabs = s.otabs := rfl
@[simp] theorem updUnit_descQ (s : State) (u0 : Nat) (f : Unit → Unit) : (s.updUnit u0 f).descQ = s.descQ := rfl
@[simp] theorem updUnit_allocQ (s : State) (u0 : Nat) (f : Unit → Unit) : (s.updUnit u0 f).allocQ = s.allocQ := rfl
@[simp] theorem updUnit_fetches (s : State) (u0 : Nat) (f : Unit → Unit) : (s.updUnit u0 f).fetches = s.fetches := rfl
@[simp] theorem updUnit_nextFetch (s : State) (u0 : Nat) (f : Unit → Unit) : (s.updUnit u0 f).nextFetch = s.nextFetch := rfl
@[simp] theorem updUnit_arbs (s : State) (u0 : Nat) (f : Unit → Unit) : (s.updUnit u0 f).arbs = s.arbs := rfl
@[simp] theorem updUnit_edges (s : State) (u0 : Nat) (f : Unit → Unit) : (s.updUnit u0 f).edges = s.edges := rfl
@[simp] theorem updUnit_ports (s : State) (u0 : Nat) (f : Unit → Unit) : (s.updUnit u0 f).ports = s.ports := rfl
@[simp] theorem updUnit_sync (s : State) (u0 : Nat) (f : Unit → Unit) : (s.updUnit u0 f).sync = s.sync := rfl
@[simp] theorem updUnit_outReqs (s : State) (u0 : Nat) (f : Unit → Unit) : (s.updUnit u0 f).outReqs = s.outReqs := rfl
@[simp] theorem updUnit_inPkts (s : State) (u0 : Nat) (f : Unit → Unit) : (s.updUnit u0 f).inPkts = s.inPkts := rfl
@[simp] theorem updUnit_nextIn (s : State) (u0 : Nat) (f : Unit → Unit) : (s.updUnit u0 f).nextIn = s.nextIn := rfl
@[simp] theorem updUnit_egress (s : State) (u0 : Nat) (f : Unit → Unit) : (s.updUnit u0 f).egress = s.egress := rfl
@[simp] theorem updUnit_cxl (s : State) (u0 : Nat) (f : Unit → Unit) : (s.updUnit u0 f).cxl = s.cxl := rfl
@[simp] theorem updUnit_armed (s : State) (u0 : Nat) (f : Unit → Unit) : (s.updUnit u0 f).armed = s.armed := rfl
@[simp] theorem updUnit_running (s : State) (u0 : Nat) (f : Unit → Unit) : (s.updUnit u0 f).running = s.running := rfl
@[simp] theorem updUnit_ledger (s : State) (u0 : Nat) (f : Unit → Unit) : (s.updUnit u0 f).ledger = s.ledger := rfl
@[simp] theorem updUnit_causes (s : State) (u0 : Nat) (f : Unit → Unit) : (s.updUnit u0 f).causes = s.causes := rfl
@[simp] theorem updUnit_entries (s : State) (u0 : Nat) (f : Unit → Unit) : (s.updUnit u0 f).entries = s.entries := rfl
@[simp] theorem updUnit_entry (s : State) (u0 : Nat) (f : Unit → Unit) : (s.updUnit u0 f).entry = s.entry := rfl
@[simp] theorem updUnit_history (s : State) (u0 : Nat) (f : Unit → Unit) : (s.updUnit u0 f).history = s.history := rfl
@[simp] theorem updUnit_clearDesc (s : State) (u0 : Nat) (f : Unit → Unit) : (s.updUnit u0 f).clearDesc = s.clearDesc := rfl
@[simp] theorem updUnit_fenceFlushed (s : State) (u0 : Nat) (f : Unit → Unit) : (s.updUnit u0 f).fenceFlushed = s.fenceFlushed := rfl
@[simp] theorem updUnit_kicks (s : State) (u0 : Nat) (f : Unit → Unit) : (s.updUnit u0 f).kicks = s.kicks := rfl
@[simp] theorem updUnit_uzoids (s : State) (u0 : Nat) (f : Unit → Unit) : (s.updUnit u0 f).uzoids = s.uzoids := rfl
@[simp] theorem updUnit_restarting (s : State) (u0 : Nat) (f : Unit → Unit) : (s.updUnit u0 f).restarting = s.restarting := rfl
@[simp] theorem updUnit_bwq (s : State) (u0 : Nat) (f : Unit → Unit) : (s.updUnit u0 f).bwq = s.bwq := rfl
@[simp] theorem updUnit_flash (s : State) (u0 : Nat) (f : Unit → Unit) : (s.updUnit u0 f).flash = s.flash := rfl
@[simp] theorem updUnit_board (s : State) (u0 : Nat) (f : Unit → Unit) : (s.updUnit u0 f).board = s.board := rfl
@[simp] theorem updUnit_us (s : State) (u0 : Nat) (f : Unit → Unit) : (s.updUnit u0 f).us = s.us := rfl
@[simp] theorem updUnit_drawn (s : State) (u0 : Nat) (f : Unit → Unit) : (s.updUnit u0 f).drawn = s.drawn := rfl
@[simp] theorem updUnit_out (s : State) (u0 : Nat) (f : Unit → Unit) : (s.updUnit u0 f).out = s.out := rfl
@[simp] theorem updUnit_reg (s : State) (u0 : Nat) (f : Unit → Unit) (k : Nat) : (s.updUnit u0 f).reg k = s.reg k := rfl
@[simp] theorem updUnit_chan (s : State) (u0 : Nat) (f : Unit → Unit) (st ch : Nat) : (s.updUnit u0 f).chan st ch = s.chan st ch := rfl
@[simp] theorem updUnit_stack (s : State) (u0 : Nat) (f : Unit → Unit) (st : Nat) : (s.updUnit u0 f).stack st = s.stack st := rfl
@[simp] theorem updUnit_tile (s : State) (u0 : Nat) (f : Unit → Unit) (t : Nat) : (s.updUnit u0 f).tile t = s.tile t := rfl
@[simp] theorem updUnit_seq (s : State) (u0 : Nat) (f : Unit → Unit) (d : Nat) : (s.updUnit u0 f).seq d = s.seq d := rfl
@[simp] theorem updUnit_arb (s : State) (u0 : Nat) (f : Unit → Unit) (d i : Nat) : (s.updUnit u0 f).arb d i = s.arb d i := rfl
@[simp] theorem updUnit_port (s : State) (u0 : Nat) (f : Unit → Unit) (p : Nat) : (s.updUnit u0 f).port p = s.port p := rfl
@[simp] theorem updUnit_desc (s : State) (u0 : Nat) (f : Unit → Unit) (h : Nat) : (s.updUnit u0 f).desc h = s.desc h := rfl
@[simp] theorem updUnit_alloc (s : State) (u0 : Nat) (f : Unit → Unit) (i : Nat) : (s.updUnit u0 f).alloc i = s.alloc i := rfl
@[simp] theorem updUnit_otab (s : State) (u0 : Nat) (f : Unit → Unit) (i : Nat) : (s.updUnit u0 f).otab i = s.otab i := rfl
@[simp] theorem updUnit_getF (s : State) (u0 : Nat) (f : Unit → Unit) (q : Nat) (g : RegF) (j : Nat) : getF (s.updUnit u0 f) q g j = getF s q g j := rfl
@[simp] theorem updUnit_hasEvent (s : State) (u0 : Nat) (f : Unit → Unit) (q j : Nat) : hasEvent (s.updUnit u0 f) q j = hasEvent s q j := rfl
@[simp] theorem updTile_pending (s : State) (t0 : Nat) (f : Tile → Tile) : (s.updTile t0 f).pending = s.pending := rfl
@[simp] theorem updTile_member (s : State) (t0 : Nat) (f : Tile → Tile) : (s.updTile t0 f).member = s.member := rfl
@[simp] theorem updTile_regs (s : State) (t0 : Nat) (f : Tile → Tile) : (s.updTile t0 f).regs = s.regs := rfl
@[simp] theorem updTile_disabled (s : State) (t0 : Nat) (f : Tile → Tile) : (s.updTile t0 f).disabled = s.disabled := rfl
@[simp] theorem updTile_enabled (s : State) (t0 : Nat) (f : Tile → Tile) : (s.updTile t0 f).enabled = s.enabled := rfl
@[simp] theorem updTile_vecSent (s : State) (t0 : Nat) (f : Tile → Tile) : (s.updTile t0 f).vecSent = s.vecSent := rfl
@[simp] theorem updTile_vecMask (s : State) (t0 : Nat) (f : Tile → Tile) : (s.updTile t0 f).vecMask = s.vecMask := rfl
@[simp] theorem updTile_vecPend (s : State) (t0 : Nat) (f : Tile → Tile) : (s.updTile t0 f).vecPend = s.vecPend := rfl
@[simp] theorem updTile_vecTable (s : State) (t0 : Nat) (f : Tile → Tile) : (s.updTile t0 f).vecTable = s.vecTable := rfl
@[simp] theorem updTile_funcMask (s : State) (t0 : Nat) (f : Tile → Tile) : (s.updTile t0 f).funcMask = s.funcMask := rfl
@[simp] theorem updTile_mem (s : State) (t0 : Nat) (f : Tile → Tile) : (s.updTile t0 f).mem = s.mem := rfl
@[simp] theorem updTile_poison (s : State) (t0 : Nat) (f : Tile → Tile) : (s.updTile t0 f).poison = s.poison := rfl
@[simp] theorem updTile_flips (s : State) (t0 : Nat) (f : Tile → Tile) : (s.updTile t0 f).flips = s.flips := rfl
@[simp] theorem updTile_slotErrs (s : State) (t0 : Nat) (f : Tile → Tile) : (s.updTile t0 f).slotErrs = s.slotErrs := rfl
@[simp] theorem updTile_chans (s : State) (t0 : Nat) (f : Tile → Tile) : (s.updTile t0 f).chans = s.chans := rfl
@[simp] theorem updTile_stackTab (s : State) (t0 : Nat) (f : Tile → Tile) : (s.updTile t0 f).stackTab = s.stackTab := rfl
@[simp] theorem updTile_units (s : State) (t0 : Nat) (f : Tile → Tile) : (s.updTile t0 f).units = s.units := rfl
@[simp] theorem updTile_seqs (s : State) (t0 : Nat) (f : Tile → Tile) : (s.updTile t0 f).seqs = s.seqs := rfl
@[simp] theorem updTile_imem (s : State) (t0 : Nat) (f : Tile → Tile) : (s.updTile t0 f).imem = s.imem := rfl
@[simp] theorem updTile_lib (s : State) (t0 : Nat) (f : Tile → Tile) : (s.updTile t0 f).lib = s.lib := rfl
@[simp] theorem updTile_routines (s : State) (t0 : Nat) (f : Tile → Tile) : (s.updTile t0 f).routines = s.routines := rfl
@[simp] theorem updTile_descs (s : State) (t0 : Nat) (f : Tile → Tile) : (s.updTile t0 f).descs = s.descs := rfl
@[simp] theorem updTile_allocs (s : State) (t0 : Nat) (f : Tile → Tile) : (s.updTile t0 f).allocs = s.allocs := rfl
@[simp] theorem updTile_otabs (s : State) (t0 : Nat) (f : Tile → Tile) : (s.updTile t0 f).otabs = s.otabs := rfl
@[simp] theorem updTile_descQ (s : State) (t0 : Nat) (f : Tile → Tile) : (s.updTile t0 f).descQ = s.descQ := rfl
@[simp] theorem updTile_allocQ (s : State) (t0 : Nat) (f : Tile → Tile) : (s.updTile t0 f).allocQ = s.allocQ := rfl
@[simp] theorem updTile_fetches (s : State) (t0 : Nat) (f : Tile → Tile) : (s.updTile t0 f).fetches = s.fetches := rfl
@[simp] theorem updTile_nextFetch (s : State) (t0 : Nat) (f : Tile → Tile) : (s.updTile t0 f).nextFetch = s.nextFetch := rfl
@[simp] theorem updTile_arbs (s : State) (t0 : Nat) (f : Tile → Tile) : (s.updTile t0 f).arbs = s.arbs := rfl
@[simp] theorem updTile_edges (s : State) (t0 : Nat) (f : Tile → Tile) : (s.updTile t0 f).edges = s.edges := rfl
@[simp] theorem updTile_ports (s : State) (t0 : Nat) (f : Tile → Tile) : (s.updTile t0 f).ports = s.ports := rfl
@[simp] theorem updTile_sync (s : State) (t0 : Nat) (f : Tile → Tile) : (s.updTile t0 f).sync = s.sync := rfl
@[simp] theorem updTile_outReqs (s : State) (t0 : Nat) (f : Tile → Tile) : (s.updTile t0 f).outReqs = s.outReqs := rfl
@[simp] theorem updTile_inPkts (s : State) (t0 : Nat) (f : Tile → Tile) : (s.updTile t0 f).inPkts = s.inPkts := rfl
@[simp] theorem updTile_nextIn (s : State) (t0 : Nat) (f : Tile → Tile) : (s.updTile t0 f).nextIn = s.nextIn := rfl
@[simp] theorem updTile_egress (s : State) (t0 : Nat) (f : Tile → Tile) : (s.updTile t0 f).egress = s.egress := rfl
@[simp] theorem updTile_cxl (s : State) (t0 : Nat) (f : Tile → Tile) : (s.updTile t0 f).cxl = s.cxl := rfl
@[simp] theorem updTile_armed (s : State) (t0 : Nat) (f : Tile → Tile) : (s.updTile t0 f).armed = s.armed := rfl
@[simp] theorem updTile_running (s : State) (t0 : Nat) (f : Tile → Tile) : (s.updTile t0 f).running = s.running := rfl
@[simp] theorem updTile_ledger (s : State) (t0 : Nat) (f : Tile → Tile) : (s.updTile t0 f).ledger = s.ledger := rfl
@[simp] theorem updTile_causes (s : State) (t0 : Nat) (f : Tile → Tile) : (s.updTile t0 f).causes = s.causes := rfl
@[simp] theorem updTile_entries (s : State) (t0 : Nat) (f : Tile → Tile) : (s.updTile t0 f).entries = s.entries := rfl
@[simp] theorem updTile_entry (s : State) (t0 : Nat) (f : Tile → Tile) : (s.updTile t0 f).entry = s.entry := rfl
@[simp] theorem updTile_history (s : State) (t0 : Nat) (f : Tile → Tile) : (s.updTile t0 f).history = s.history := rfl
@[simp] theorem updTile_clearDesc (s : State) (t0 : Nat) (f : Tile → Tile) : (s.updTile t0 f).clearDesc = s.clearDesc := rfl
@[simp] theorem updTile_fenceFlushed (s : State) (t0 : Nat) (f : Tile → Tile) : (s.updTile t0 f).fenceFlushed = s.fenceFlushed := rfl
@[simp] theorem updTile_kicks (s : State) (t0 : Nat) (f : Tile → Tile) : (s.updTile t0 f).kicks = s.kicks := rfl
@[simp] theorem updTile_uzoids (s : State) (t0 : Nat) (f : Tile → Tile) : (s.updTile t0 f).uzoids = s.uzoids := rfl
@[simp] theorem updTile_restarting (s : State) (t0 : Nat) (f : Tile → Tile) : (s.updTile t0 f).restarting = s.restarting := rfl
@[simp] theorem updTile_bwq (s : State) (t0 : Nat) (f : Tile → Tile) : (s.updTile t0 f).bwq = s.bwq := rfl
@[simp] theorem updTile_flash (s : State) (t0 : Nat) (f : Tile → Tile) : (s.updTile t0 f).flash = s.flash := rfl
@[simp] theorem updTile_board (s : State) (t0 : Nat) (f : Tile → Tile) : (s.updTile t0 f).board = s.board := rfl
@[simp] theorem updTile_us (s : State) (t0 : Nat) (f : Tile → Tile) : (s.updTile t0 f).us = s.us := rfl
@[simp] theorem updTile_drawn (s : State) (t0 : Nat) (f : Tile → Tile) : (s.updTile t0 f).drawn = s.drawn := rfl
@[simp] theorem updTile_out (s : State) (t0 : Nat) (f : Tile → Tile) : (s.updTile t0 f).out = s.out := rfl
@[simp] theorem updTile_reg (s : State) (t0 : Nat) (f : Tile → Tile) (k : Nat) : (s.updTile t0 f).reg k = s.reg k := rfl
@[simp] theorem updTile_chan (s : State) (t0 : Nat) (f : Tile → Tile) (st ch : Nat) : (s.updTile t0 f).chan st ch = s.chan st ch := rfl
@[simp] theorem updTile_stack (s : State) (t0 : Nat) (f : Tile → Tile) (st : Nat) : (s.updTile t0 f).stack st = s.stack st := rfl
@[simp] theorem updTile_unit (s : State) (t0 : Nat) (f : Tile → Tile) (u : Nat) : (s.updTile t0 f).unit u = s.unit u := rfl
@[simp] theorem updTile_seq (s : State) (t0 : Nat) (f : Tile → Tile) (d : Nat) : (s.updTile t0 f).seq d = s.seq d := rfl
@[simp] theorem updTile_arb (s : State) (t0 : Nat) (f : Tile → Tile) (d i : Nat) : (s.updTile t0 f).arb d i = s.arb d i := rfl
@[simp] theorem updTile_port (s : State) (t0 : Nat) (f : Tile → Tile) (p : Nat) : (s.updTile t0 f).port p = s.port p := rfl
@[simp] theorem updTile_desc (s : State) (t0 : Nat) (f : Tile → Tile) (h : Nat) : (s.updTile t0 f).desc h = s.desc h := rfl
@[simp] theorem updTile_alloc (s : State) (t0 : Nat) (f : Tile → Tile) (i : Nat) : (s.updTile t0 f).alloc i = s.alloc i := rfl
@[simp] theorem updTile_otab (s : State) (t0 : Nat) (f : Tile → Tile) (i : Nat) : (s.updTile t0 f).otab i = s.otab i := rfl
@[simp] theorem updTile_getF (s : State) (t0 : Nat) (f : Tile → Tile) (q : Nat) (g : RegF) (j : Nat) : getF (s.updTile t0 f) q g j = getF s q g j := rfl
@[simp] theorem updTile_hasEvent (s : State) (t0 : Nat) (f : Tile → Tile) (q j : Nat) : hasEvent (s.updTile t0 f) q j = hasEvent s q j := rfl
@[simp] theorem updSeq_pending (s : State) (d0 : Nat) (f : Seq → Seq) : (s.updSeq d0 f).pending = s.pending := rfl
@[simp] theorem updSeq_member (s : State) (d0 : Nat) (f : Seq → Seq) : (s.updSeq d0 f).member = s.member := rfl
@[simp] theorem updSeq_regs (s : State) (d0 : Nat) (f : Seq → Seq) : (s.updSeq d0 f).regs = s.regs := rfl
@[simp] theorem updSeq_disabled (s : State) (d0 : Nat) (f : Seq → Seq) : (s.updSeq d0 f).disabled = s.disabled := rfl
@[simp] theorem updSeq_enabled (s : State) (d0 : Nat) (f : Seq → Seq) : (s.updSeq d0 f).enabled = s.enabled := rfl
@[simp] theorem updSeq_vecSent (s : State) (d0 : Nat) (f : Seq → Seq) : (s.updSeq d0 f).vecSent = s.vecSent := rfl
@[simp] theorem updSeq_vecMask (s : State) (d0 : Nat) (f : Seq → Seq) : (s.updSeq d0 f).vecMask = s.vecMask := rfl
@[simp] theorem updSeq_vecPend (s : State) (d0 : Nat) (f : Seq → Seq) : (s.updSeq d0 f).vecPend = s.vecPend := rfl
@[simp] theorem updSeq_vecTable (s : State) (d0 : Nat) (f : Seq → Seq) : (s.updSeq d0 f).vecTable = s.vecTable := rfl
@[simp] theorem updSeq_funcMask (s : State) (d0 : Nat) (f : Seq → Seq) : (s.updSeq d0 f).funcMask = s.funcMask := rfl
@[simp] theorem updSeq_mem (s : State) (d0 : Nat) (f : Seq → Seq) : (s.updSeq d0 f).mem = s.mem := rfl
@[simp] theorem updSeq_poison (s : State) (d0 : Nat) (f : Seq → Seq) : (s.updSeq d0 f).poison = s.poison := rfl
@[simp] theorem updSeq_flips (s : State) (d0 : Nat) (f : Seq → Seq) : (s.updSeq d0 f).flips = s.flips := rfl
@[simp] theorem updSeq_slotErrs (s : State) (d0 : Nat) (f : Seq → Seq) : (s.updSeq d0 f).slotErrs = s.slotErrs := rfl
@[simp] theorem updSeq_chans (s : State) (d0 : Nat) (f : Seq → Seq) : (s.updSeq d0 f).chans = s.chans := rfl
@[simp] theorem updSeq_stackTab (s : State) (d0 : Nat) (f : Seq → Seq) : (s.updSeq d0 f).stackTab = s.stackTab := rfl
@[simp] theorem updSeq_units (s : State) (d0 : Nat) (f : Seq → Seq) : (s.updSeq d0 f).units = s.units := rfl
@[simp] theorem updSeq_tiles (s : State) (d0 : Nat) (f : Seq → Seq) : (s.updSeq d0 f).tiles = s.tiles := rfl
@[simp] theorem updSeq_imem (s : State) (d0 : Nat) (f : Seq → Seq) : (s.updSeq d0 f).imem = s.imem := rfl
@[simp] theorem updSeq_lib (s : State) (d0 : Nat) (f : Seq → Seq) : (s.updSeq d0 f).lib = s.lib := rfl
@[simp] theorem updSeq_routines (s : State) (d0 : Nat) (f : Seq → Seq) : (s.updSeq d0 f).routines = s.routines := rfl
@[simp] theorem updSeq_descs (s : State) (d0 : Nat) (f : Seq → Seq) : (s.updSeq d0 f).descs = s.descs := rfl
@[simp] theorem updSeq_allocs (s : State) (d0 : Nat) (f : Seq → Seq) : (s.updSeq d0 f).allocs = s.allocs := rfl
@[simp] theorem updSeq_otabs (s : State) (d0 : Nat) (f : Seq → Seq) : (s.updSeq d0 f).otabs = s.otabs := rfl
@[simp] theorem updSeq_descQ (s : State) (d0 : Nat) (f : Seq → Seq) : (s.updSeq d0 f).descQ = s.descQ := rfl
@[simp] theorem updSeq_allocQ (s : State) (d0 : Nat) (f : Seq → Seq) : (s.updSeq d0 f).allocQ = s.allocQ := rfl
@[simp] theorem updSeq_fetches (s : State) (d0 : Nat) (f : Seq → Seq) : (s.updSeq d0 f).fetches = s.fetches := rfl
@[simp] theorem updSeq_nextFetch (s : State) (d0 : Nat) (f : Seq → Seq) : (s.updSeq d0 f).nextFetch = s.nextFetch := rfl
@[simp] theorem updSeq_arbs (s : State) (d0 : Nat) (f : Seq → Seq) : (s.updSeq d0 f).arbs = s.arbs := rfl
@[simp] theorem updSeq_edges (s : State) (d0 : Nat) (f : Seq → Seq) : (s.updSeq d0 f).edges = s.edges := rfl
@[simp] theorem updSeq_ports (s : State) (d0 : Nat) (f : Seq → Seq) : (s.updSeq d0 f).ports = s.ports := rfl
@[simp] theorem updSeq_sync (s : State) (d0 : Nat) (f : Seq → Seq) : (s.updSeq d0 f).sync = s.sync := rfl
@[simp] theorem updSeq_outReqs (s : State) (d0 : Nat) (f : Seq → Seq) : (s.updSeq d0 f).outReqs = s.outReqs := rfl
@[simp] theorem updSeq_inPkts (s : State) (d0 : Nat) (f : Seq → Seq) : (s.updSeq d0 f).inPkts = s.inPkts := rfl
@[simp] theorem updSeq_nextIn (s : State) (d0 : Nat) (f : Seq → Seq) : (s.updSeq d0 f).nextIn = s.nextIn := rfl
@[simp] theorem updSeq_egress (s : State) (d0 : Nat) (f : Seq → Seq) : (s.updSeq d0 f).egress = s.egress := rfl
@[simp] theorem updSeq_cxl (s : State) (d0 : Nat) (f : Seq → Seq) : (s.updSeq d0 f).cxl = s.cxl := rfl
@[simp] theorem updSeq_armed (s : State) (d0 : Nat) (f : Seq → Seq) : (s.updSeq d0 f).armed = s.armed := rfl
@[simp] theorem updSeq_running (s : State) (d0 : Nat) (f : Seq → Seq) : (s.updSeq d0 f).running = s.running := rfl
@[simp] theorem updSeq_ledger (s : State) (d0 : Nat) (f : Seq → Seq) : (s.updSeq d0 f).ledger = s.ledger := rfl
@[simp] theorem updSeq_causes (s : State) (d0 : Nat) (f : Seq → Seq) : (s.updSeq d0 f).causes = s.causes := rfl
@[simp] theorem updSeq_entries (s : State) (d0 : Nat) (f : Seq → Seq) : (s.updSeq d0 f).entries = s.entries := rfl
@[simp] theorem updSeq_entry (s : State) (d0 : Nat) (f : Seq → Seq) : (s.updSeq d0 f).entry = s.entry := rfl
@[simp] theorem updSeq_history (s : State) (d0 : Nat) (f : Seq → Seq) : (s.updSeq d0 f).history = s.history := rfl
@[simp] theorem updSeq_clearDesc (s : State) (d0 : Nat) (f : Seq → Seq) : (s.updSeq d0 f).clearDesc = s.clearDesc := rfl
@[simp] theorem updSeq_fenceFlushed (s : State) (d0 : Nat) (f : Seq → Seq) : (s.updSeq d0 f).fenceFlushed = s.fenceFlushed := rfl
@[simp] theorem updSeq_kicks (s : State) (d0 : Nat) (f : Seq → Seq) : (s.updSeq d0 f).kicks = s.kicks := rfl
@[simp] theorem updSeq_uzoids (s : State) (d0 : Nat) (f : Seq → Seq) : (s.updSeq d0 f).uzoids = s.uzoids := rfl
@[simp] theorem updSeq_restarting (s : State) (d0 : Nat) (f : Seq → Seq) : (s.updSeq d0 f).restarting = s.restarting := rfl
@[simp] theorem updSeq_bwq (s : State) (d0 : Nat) (f : Seq → Seq) : (s.updSeq d0 f).bwq = s.bwq := rfl
@[simp] theorem updSeq_flash (s : State) (d0 : Nat) (f : Seq → Seq) : (s.updSeq d0 f).flash = s.flash := rfl
@[simp] theorem updSeq_board (s : State) (d0 : Nat) (f : Seq → Seq) : (s.updSeq d0 f).board = s.board := rfl
@[simp] theorem updSeq_us (s : State) (d0 : Nat) (f : Seq → Seq) : (s.updSeq d0 f).us = s.us := rfl
@[simp] theorem updSeq_drawn (s : State) (d0 : Nat) (f : Seq → Seq) : (s.updSeq d0 f).drawn = s.drawn := rfl
@[simp] theorem updSeq_out (s : State) (d0 : Nat) (f : Seq → Seq) : (s.updSeq d0 f).out = s.out := rfl
@[simp] theorem updSeq_reg (s : State) (d0 : Nat) (f : Seq → Seq) (k : Nat) : (s.updSeq d0 f).reg k = s.reg k := rfl
@[simp] theorem updSeq_chan (s : State) (d0 : Nat) (f : Seq → Seq) (st ch : Nat) : (s.updSeq d0 f).chan st ch = s.chan st ch := rfl
@[simp] theorem updSeq_stack (s : State) (d0 : Nat) (f : Seq → Seq) (st : Nat) : (s.updSeq d0 f).stack st = s.stack st := rfl
@[simp] theorem updSeq_unit (s : State) (d0 : Nat) (f : Seq → Seq) (u : Nat) : (s.updSeq d0 f).unit u = s.unit u := rfl
@[simp] theorem updSeq_tile (s : State) (d0 : Nat) (f : Seq → Seq) (t : Nat) : (s.updSeq d0 f).tile t = s.tile t := rfl
@[simp] theorem updSeq_arb (s : State) (d0 : Nat) (f : Seq → Seq) (d i : Nat) : (s.updSeq d0 f).arb d i = s.arb d i := rfl
@[simp] theorem updSeq_port (s : State) (d0 : Nat) (f : Seq → Seq) (p : Nat) : (s.updSeq d0 f).port p = s.port p := rfl
@[simp] theorem updSeq_desc (s : State) (d0 : Nat) (f : Seq → Seq) (h : Nat) : (s.updSeq d0 f).desc h = s.desc h := rfl
@[simp] theorem updSeq_alloc (s : State) (d0 : Nat) (f : Seq → Seq) (i : Nat) : (s.updSeq d0 f).alloc i = s.alloc i := rfl
@[simp] theorem updSeq_otab (s : State) (d0 : Nat) (f : Seq → Seq) (i : Nat) : (s.updSeq d0 f).otab i = s.otab i := rfl
@[simp] theorem updSeq_getF (s : State) (d0 : Nat) (f : Seq → Seq) (q : Nat) (g : RegF) (j : Nat) : getF (s.updSeq d0 f) q g j = getF s q g j := rfl
@[simp] theorem updSeq_hasEvent (s : State) (d0 : Nat) (f : Seq → Seq) (q j : Nat) : hasEvent (s.updSeq d0 f) q j = hasEvent s q j := rfl
@[simp] theorem updArb_pending (s : State) (d0 i0 : Nat) (f : Arb → Arb) : (s.updArb d0 i0 f).pending = s.pending := rfl
@[simp] theorem updArb_member (s : State) (d0 i0 : Nat) (f : Arb → Arb) : (s.updArb d0 i0 f).member = s.member := rfl
@[simp] theorem updArb_regs (s : State) (d0 i0 : Nat) (f : Arb → Arb) : (s.updArb d0 i0 f).regs = s.regs := rfl
@[simp] theorem updArb_disabled (s : State) (d0 i0 : Nat) (f : Arb → Arb) : (s.updArb d0 i0 f).disabled = s.disabled := rfl
@[simp] theorem updArb_enabled (s : State) (d0 i0 : Nat) (f : Arb → Arb) : (s.updArb d0 i0 f).enabled = s.enabled := rfl
@[simp] theorem updArb_vecSent (s : State) (d0 i0 : Nat) (f : Arb → Arb) : (s.updArb d0 i0 f).vecSent = s.vecSent := rfl
@[simp] theorem updArb_vecMask (s : State) (d0 i0 : Nat) (f : Arb → Arb) : (s.updArb d0 i0 f).vecMask = s.vecMask := rfl
@[simp] theorem updArb_vecPend (s : State) (d0 i0 : Nat) (f : Arb → Arb) : (s.updArb d0 i0 f).vecPend = s.vecPend := rfl
@[simp] theorem updArb_vecTable (s : State) (d0 i0 : Nat) (f : Arb → Arb) : (s.updArb d0 i0 f).vecTable = s.vecTable := rfl
@[simp] theorem updArb_funcMask (s : State) (d0 i0 : Nat) (f : Arb → Arb) : (s.updArb d0 i0 f).funcMask = s.funcMask := rfl
@[simp] theorem updArb_mem (s : State) (d0 i0 : Nat) (f : Arb → Arb) : (s.updArb d0 i0 f).mem = s.mem := rfl
@[simp] theorem updArb_poison (s : State) (d0 i0 : Nat) (f : Arb → Arb) : (s.updArb d0 i0 f).poison = s.poison := rfl
@[simp] theorem updArb_flips (s : State) (d0 i0 : Nat) (f : Arb → Arb) : (s.updArb d0 i0 f).flips = s.flips := rfl
@[simp] theorem updArb_slotErrs (s : State) (d0 i0 : Nat) (f : Arb → Arb) : (s.updArb d0 i0 f).slotErrs = s.slotErrs := rfl
@[simp] theorem updArb_chans (s : State) (d0 i0 : Nat) (f : Arb → Arb) : (s.updArb d0 i0 f).chans = s.chans := rfl
@[simp] theorem updArb_stackTab (s : State) (d0 i0 : Nat) (f : Arb → Arb) : (s.updArb d0 i0 f).stackTab = s.stackTab := rfl
@[simp] theorem updArb_units (s : State) (d0 i0 : Nat) (f : Arb → Arb) : (s.updArb d0 i0 f).units = s.units := rfl
@[simp] theorem updArb_tiles (s : State) (d0 i0 : Nat) (f : Arb → Arb) : (s.updArb d0 i0 f).tiles = s.tiles := rfl
@[simp] theorem updArb_seqs (s : State) (d0 i0 : Nat) (f : Arb → Arb) : (s.updArb d0 i0 f).seqs = s.seqs := rfl
@[simp] theorem updArb_imem (s : State) (d0 i0 : Nat) (f : Arb → Arb) : (s.updArb d0 i0 f).imem = s.imem := rfl
@[simp] theorem updArb_lib (s : State) (d0 i0 : Nat) (f : Arb → Arb) : (s.updArb d0 i0 f).lib = s.lib := rfl
@[simp] theorem updArb_routines (s : State) (d0 i0 : Nat) (f : Arb → Arb) : (s.updArb d0 i0 f).routines = s.routines := rfl
@[simp] theorem updArb_descs (s : State) (d0 i0 : Nat) (f : Arb → Arb) : (s.updArb d0 i0 f).descs = s.descs := rfl
@[simp] theorem updArb_allocs (s : State) (d0 i0 : Nat) (f : Arb → Arb) : (s.updArb d0 i0 f).allocs = s.allocs := rfl
@[simp] theorem updArb_otabs (s : State) (d0 i0 : Nat) (f : Arb → Arb) : (s.updArb d0 i0 f).otabs = s.otabs := rfl
@[simp] theorem updArb_descQ (s : State) (d0 i0 : Nat) (f : Arb → Arb) : (s.updArb d0 i0 f).descQ = s.descQ := rfl
@[simp] theorem updArb_allocQ (s : State) (d0 i0 : Nat) (f : Arb → Arb) : (s.updArb d0 i0 f).allocQ = s.allocQ := rfl
@[simp] theorem updArb_fetches (s : State) (d0 i0 : Nat) (f : Arb → Arb) : (s.updArb d0 i0 f).fetches = s.fetches := rfl
@[simp] theorem updArb_nextFetch (s : State) (d0 i0 : Nat) (f : Arb → Arb) : (s.updArb d0 i0 f).nextFetch = s.nextFetch := rfl
@[simp] theorem updArb_edges (s : State) (d0 i0 : Nat) (f : Arb → Arb) : (s.updArb d0 i0 f).edges = s.edges := rfl
@[simp] theorem updArb_ports (s : State) (d0 i0 : Nat) (f : Arb → Arb) : (s.updArb d0 i0 f).ports = s.ports := rfl
@[simp] theorem updArb_sync (s : State) (d0 i0 : Nat) (f : Arb → Arb) : (s.updArb d0 i0 f).sync = s.sync := rfl
@[simp] theorem updArb_outReqs (s : State) (d0 i0 : Nat) (f : Arb → Arb) : (s.updArb d0 i0 f).outReqs = s.outReqs := rfl
@[simp] theorem updArb_inPkts (s : State) (d0 i0 : Nat) (f : Arb → Arb) : (s.updArb d0 i0 f).inPkts = s.inPkts := rfl
@[simp] theorem updArb_nextIn (s : State) (d0 i0 : Nat) (f : Arb → Arb) : (s.updArb d0 i0 f).nextIn = s.nextIn := rfl
@[simp] theorem updArb_egress (s : State) (d0 i0 : Nat) (f : Arb → Arb) : (s.updArb d0 i0 f).egress = s.egress := rfl
@[simp] theorem updArb_cxl (s : State) (d0 i0 : Nat) (f : Arb → Arb) : (s.updArb d0 i0 f).cxl = s.cxl := rfl
@[simp] theorem updArb_armed (s : State) (d0 i0 : Nat) (f : Arb → Arb) : (s.updArb d0 i0 f).armed = s.armed := rfl
@[simp] theorem updArb_running (s : State) (d0 i0 : Nat) (f : Arb → Arb) : (s.updArb d0 i0 f).running = s.running := rfl
@[simp] theorem updArb_ledger (s : State) (d0 i0 : Nat) (f : Arb → Arb) : (s.updArb d0 i0 f).ledger = s.ledger := rfl
@[simp] theorem updArb_causes (s : State) (d0 i0 : Nat) (f : Arb → Arb) : (s.updArb d0 i0 f).causes = s.causes := rfl
@[simp] theorem updArb_entries (s : State) (d0 i0 : Nat) (f : Arb → Arb) : (s.updArb d0 i0 f).entries = s.entries := rfl
@[simp] theorem updArb_entry (s : State) (d0 i0 : Nat) (f : Arb → Arb) : (s.updArb d0 i0 f).entry = s.entry := rfl
@[simp] theorem updArb_history (s : State) (d0 i0 : Nat) (f : Arb → Arb) : (s.updArb d0 i0 f).history = s.history := rfl
@[simp] theorem updArb_clearDesc (s : State) (d0 i0 : Nat) (f : Arb → Arb) : (s.updArb d0 i0 f).clearDesc = s.clearDesc := rfl
@[simp] theorem updArb_fenceFlushed (s : State) (d0 i0 : Nat) (f : Arb → Arb) : (s.updArb d0 i0 f).fenceFlushed = s.fenceFlushed := rfl
@[simp] theorem updArb_kicks (s : State) (d0 i0 : Nat) (f : Arb → Arb) : (s.updArb d0 i0 f).kicks = s.kicks := rfl
@[simp] theorem updArb_uzoids (s : State) (d0 i0 : Nat) (f : Arb → Arb) : (s.updArb d0 i0 f).uzoids = s.uzoids := rfl
@[simp] theorem updArb_restarting (s : State) (d0 i0 : Nat) (f : Arb → Arb) : (s.updArb d0 i0 f).restarting = s.restarting := rfl
@[simp] theorem updArb_bwq (s : State) (d0 i0 : Nat) (f : Arb → Arb) : (s.updArb d0 i0 f).bwq = s.bwq := rfl
@[simp] theorem updArb_flash (s : State) (d0 i0 : Nat) (f : Arb → Arb) : (s.updArb d0 i0 f).flash = s.flash := rfl
@[simp] theorem updArb_board (s : State) (d0 i0 : Nat) (f : Arb → Arb) : (s.updArb d0 i0 f).board = s.board := rfl
@[simp] theorem updArb_us (s : State) (d0 i0 : Nat) (f : Arb → Arb) : (s.updArb d0 i0 f).us = s.us := rfl
@[simp] theorem updArb_drawn (s : State) (d0 i0 : Nat) (f : Arb → Arb) : (s.updArb d0 i0 f).drawn = s.drawn := rfl
@[simp] theorem updArb_out (s : State) (d0 i0 : Nat) (f : Arb → Arb) : (s.updArb d0 i0 f).out = s.out := rfl
@[simp] theorem updArb_reg (s : State) (d0 i0 : Nat) (f : Arb → Arb) (k : Nat) : (s.updArb d0 i0 f).reg k = s.reg k := rfl
@[simp] theorem updArb_chan (s : State) (d0 i0 : Nat) (f : Arb → Arb) (st ch : Nat) : (s.updArb d0 i0 f).chan st ch = s.chan st ch := rfl
@[simp] theorem updArb_stack (s : State) (d0 i0 : Nat) (f : Arb → Arb) (st : Nat) : (s.updArb d0 i0 f).stack st = s.stack st := rfl
@[simp] theorem updArb_unit (s : State) (d0 i0 : Nat) (f : Arb → Arb) (u : Nat) : (s.updArb d0 i0 f).unit u = s.unit u := rfl
@[simp] theorem updArb_tile (s : State) (d0 i0 : Nat) (f : Arb → Arb) (t : Nat) : (s.updArb d0 i0 f).tile t = s.tile t := rfl
@[simp] theorem updArb_seq (s : State) (d0 i0 : Nat) (f : Arb → Arb) (d : Nat) : (s.updArb d0 i0 f).seq d = s.seq d := rfl
@[simp] theorem updArb_port (s : State) (d0 i0 : Nat) (f : Arb → Arb) (p : Nat) : (s.updArb d0 i0 f).port p = s.port p := rfl
@[simp] theorem updArb_desc (s : State) (d0 i0 : Nat) (f : Arb → Arb) (h : Nat) : (s.updArb d0 i0 f).desc h = s.desc h := rfl
@[simp] theorem updArb_alloc (s : State) (d0 i0 : Nat) (f : Arb → Arb) (i : Nat) : (s.updArb d0 i0 f).alloc i = s.alloc i := rfl
@[simp] theorem updArb_otab (s : State) (d0 i0 : Nat) (f : Arb → Arb) (i : Nat) : (s.updArb d0 i0 f).otab i = s.otab i := rfl
@[simp] theorem updArb_getF (s : State) (d0 i0 : Nat) (f : Arb → Arb) (q : Nat) (g : RegF) (j : Nat) : getF (s.updArb d0 i0 f) q g j = getF s q g j := rfl
@[simp] theorem updArb_hasEvent (s : State) (d0 i0 : Nat) (f : Arb → Arb) (q j : Nat) : hasEvent (s.updArb d0 i0 f) q j = hasEvent s q j := rfl
@[simp] theorem updPort_pending (s : State) (p0 : Nat) (f : Port → Port) : (s.updPort p0 f).pending = s.pending := rfl
@[simp] theorem updPort_member (s : State) (p0 : Nat) (f : Port → Port) : (s.updPort p0 f).member = s.member := rfl
@[simp] theorem updPort_regs (s : State) (p0 : Nat) (f : Port → Port) : (s.updPort p0 f).regs = s.regs := rfl
@[simp] theorem updPort_disabled (s : State) (p0 : Nat) (f : Port → Port) : (s.updPort p0 f).disabled = s.disabled := rfl
@[simp] theorem updPort_enabled (s : State) (p0 : Nat) (f : Port → Port) : (s.updPort p0 f).enabled = s.enabled := rfl
@[simp] theorem updPort_vecSent (s : State) (p0 : Nat) (f : Port → Port) : (s.updPort p0 f).vecSent = s.vecSent := rfl
@[simp] theorem updPort_vecMask (s : State) (p0 : Nat) (f : Port → Port) : (s.updPort p0 f).vecMask = s.vecMask := rfl
@[simp] theorem updPort_vecPend (s : State) (p0 : Nat) (f : Port → Port) : (s.updPort p0 f).vecPend = s.vecPend := rfl
@[simp] theorem updPort_vecTable (s : State) (p0 : Nat) (f : Port → Port) : (s.updPort p0 f).vecTable = s.vecTable := rfl
@[simp] theorem updPort_funcMask (s : State) (p0 : Nat) (f : Port → Port) : (s.updPort p0 f).funcMask = s.funcMask := rfl
@[simp] theorem updPort_mem (s : State) (p0 : Nat) (f : Port → Port) : (s.updPort p0 f).mem = s.mem := rfl
@[simp] theorem updPort_poison (s : State) (p0 : Nat) (f : Port → Port) : (s.updPort p0 f).poison = s.poison := rfl
@[simp] theorem updPort_flips (s : State) (p0 : Nat) (f : Port → Port) : (s.updPort p0 f).flips = s.flips := rfl
@[simp] theorem updPort_slotErrs (s : State) (p0 : Nat) (f : Port → Port) : (s.updPort p0 f).slotErrs = s.slotErrs := rfl
@[simp] theorem updPort_chans (s : State) (p0 : Nat) (f : Port → Port) : (s.updPort p0 f).chans = s.chans := rfl
@[simp] theorem updPort_stackTab (s : State) (p0 : Nat) (f : Port → Port) : (s.updPort p0 f).stackTab = s.stackTab := rfl
@[simp] theorem updPort_units (s : State) (p0 : Nat) (f : Port → Port) : (s.updPort p0 f).units = s.units := rfl
@[simp] theorem updPort_tiles (s : State) (p0 : Nat) (f : Port → Port) : (s.updPort p0 f).tiles = s.tiles := rfl
@[simp] theorem updPort_seqs (s : State) (p0 : Nat) (f : Port → Port) : (s.updPort p0 f).seqs = s.seqs := rfl
@[simp] theorem updPort_imem (s : State) (p0 : Nat) (f : Port → Port) : (s.updPort p0 f).imem = s.imem := rfl
@[simp] theorem updPort_lib (s : State) (p0 : Nat) (f : Port → Port) : (s.updPort p0 f).lib = s.lib := rfl
@[simp] theorem updPort_routines (s : State) (p0 : Nat) (f : Port → Port) : (s.updPort p0 f).routines = s.routines := rfl
@[simp] theorem updPort_descs (s : State) (p0 : Nat) (f : Port → Port) : (s.updPort p0 f).descs = s.descs := rfl
@[simp] theorem updPort_allocs (s : State) (p0 : Nat) (f : Port → Port) : (s.updPort p0 f).allocs = s.allocs := rfl
@[simp] theorem updPort_otabs (s : State) (p0 : Nat) (f : Port → Port) : (s.updPort p0 f).otabs = s.otabs := rfl
@[simp] theorem updPort_descQ (s : State) (p0 : Nat) (f : Port → Port) : (s.updPort p0 f).descQ = s.descQ := rfl
@[simp] theorem updPort_allocQ (s : State) (p0 : Nat) (f : Port → Port) : (s.updPort p0 f).allocQ = s.allocQ := rfl
@[simp] theorem updPort_fetches (s : State) (p0 : Nat) (f : Port → Port) : (s.updPort p0 f).fetches = s.fetches := rfl
@[simp] theorem updPort_nextFetch (s : State) (p0 : Nat) (f : Port → Port) : (s.updPort p0 f).nextFetch = s.nextFetch := rfl
@[simp] theorem updPort_arbs (s : State) (p0 : Nat) (f : Port → Port) : (s.updPort p0 f).arbs = s.arbs := rfl
@[simp] theorem updPort_edges (s : State) (p0 : Nat) (f : Port → Port) : (s.updPort p0 f).edges = s.edges := rfl
@[simp] theorem updPort_sync (s : State) (p0 : Nat) (f : Port → Port) : (s.updPort p0 f).sync = s.sync := rfl
@[simp] theorem updPort_outReqs (s : State) (p0 : Nat) (f : Port → Port) : (s.updPort p0 f).outReqs = s.outReqs := rfl
@[simp] theorem updPort_inPkts (s : State) (p0 : Nat) (f : Port → Port) : (s.updPort p0 f).inPkts = s.inPkts := rfl
@[simp] theorem updPort_nextIn (s : State) (p0 : Nat) (f : Port → Port) : (s.updPort p0 f).nextIn = s.nextIn := rfl
@[simp] theorem updPort_egress (s : State) (p0 : Nat) (f : Port → Port) : (s.updPort p0 f).egress = s.egress := rfl
@[simp] theorem updPort_cxl (s : State) (p0 : Nat) (f : Port → Port) : (s.updPort p0 f).cxl = s.cxl := rfl
@[simp] theorem updPort_armed (s : State) (p0 : Nat) (f : Port → Port) : (s.updPort p0 f).armed = s.armed := rfl
@[simp] theorem updPort_running (s : State) (p0 : Nat) (f : Port → Port) : (s.updPort p0 f).running = s.running := rfl
@[simp] theorem updPort_ledger (s : State) (p0 : Nat) (f : Port → Port) : (s.updPort p0 f).ledger = s.ledger := rfl
@[simp] theorem updPort_causes (s : State) (p0 : Nat) (f : Port → Port) : (s.updPort p0 f).causes = s.causes := rfl
@[simp] theorem updPort_entries (s : State) (p0 : Nat) (f : Port → Port) : (s.updPort p0 f).entries = s.entries := rfl
@[simp] theorem updPort_entry (s : State) (p0 : Nat) (f : Port → Port) : (s.updPort p0 f).entry = s.entry := rfl
@[simp] theorem updPort_history (s : State) (p0 : Nat) (f : Port → Port) : (s.updPort p0 f).history = s.history := rfl
@[simp] theorem updPort_clearDesc (s : State) (p0 : Nat) (f : Port → Port) : (s.updPort p0 f).clearDesc = s.clearDesc := rfl
@[simp] theorem updPort_fenceFlushed (s : State) (p0 : Nat) (f : Port → Port) : (s.updPort p0 f).fenceFlushed = s.fenceFlushed := rfl
@[simp] theorem updPort_kicks (s : State) (p0 : Nat) (f : Port → Port) : (s.updPort p0 f).kicks = s.kicks := rfl
@[simp] theorem updPort_uzoids (s : State) (p0 : Nat) (f : Port → Port) : (s.updPort p0 f).uzoids = s.uzoids := rfl
@[simp] theorem updPort_restarting (s : State) (p0 : Nat) (f : Port → Port) : (s.updPort p0 f).restarting = s.restarting := rfl
@[simp] theorem updPort_bwq (s : State) (p0 : Nat) (f : Port → Port) : (s.updPort p0 f).bwq = s.bwq := rfl
@[simp] theorem updPort_flash (s : State) (p0 : Nat) (f : Port → Port) : (s.updPort p0 f).flash = s.flash := rfl
@[simp] theorem updPort_board (s : State) (p0 : Nat) (f : Port → Port) : (s.updPort p0 f).board = s.board := rfl
@[simp] theorem updPort_us (s : State) (p0 : Nat) (f : Port → Port) : (s.updPort p0 f).us = s.us := rfl
@[simp] theorem updPort_drawn (s : State) (p0 : Nat) (f : Port → Port) : (s.updPort p0 f).drawn = s.drawn := rfl
@[simp] theorem updPort_out (s : State) (p0 : Nat) (f : Port → Port) : (s.updPort p0 f).out = s.out := rfl
@[simp] theorem updPort_reg (s : State) (p0 : Nat) (f : Port → Port) (k : Nat) : (s.updPort p0 f).reg k = s.reg k := rfl
@[simp] theorem updPort_chan (s : State) (p0 : Nat) (f : Port → Port) (st ch : Nat) : (s.updPort p0 f).chan st ch = s.chan st ch := rfl
@[simp] theorem updPort_stack (s : State) (p0 : Nat) (f : Port → Port) (st : Nat) : (s.updPort p0 f).stack st = s.stack st := rfl
@[simp] theorem updPort_unit (s : State) (p0 : Nat) (f : Port → Port) (u : Nat) : (s.updPort p0 f).unit u = s.unit u := rfl
@[simp] theorem updPort_tile (s : State) (p0 : Nat) (f : Port → Port) (t : Nat) : (s.updPort p0 f).tile t = s.tile t := rfl
@[simp] theorem updPort_seq (s : State) (p0 : Nat) (f : Port → Port) (d : Nat) : (s.updPort p0 f).seq d = s.seq d := rfl
@[simp] theorem updPort_arb (s : State) (p0 : Nat) (f : Port → Port) (d i : Nat) : (s.updPort p0 f).arb d i = s.arb d i := rfl
@[simp] theorem updPort_desc (s : State) (p0 : Nat) (f : Port → Port) (h : Nat) : (s.updPort p0 f).desc h = s.desc h := rfl
@[simp] theorem updPort_alloc (s : State) (p0 : Nat) (f : Port → Port) (i : Nat) : (s.updPort p0 f).alloc i = s.alloc i := rfl
@[simp] theorem updPort_otab (s : State) (p0 : Nat) (f : Port → Port) (i : Nat) : (s.updPort p0 f).otab i = s.otab i := rfl
@[simp] theorem updPort_getF (s : State) (p0 : Nat) (f : Port → Port) (q : Nat) (g : RegF) (j : Nat) : getF (s.updPort p0 f) q g j = getF s q g j := rfl
@[simp] theorem updPort_hasEvent (s : State) (p0 : Nat) (f : Port → Port) (q j : Nat) : hasEvent (s.updPort p0 f) q j = hasEvent s q j := rfl
@[simp] theorem updAlloc_pending (s : State) (i0 : Nat) (f : AllocE → AllocE) : (s.updAlloc i0 f).pending = s.pending := rfl
@[simp] theorem updAlloc_member (s : State) (i0 : Nat) (f : AllocE → AllocE) : (s.updAlloc i0 f).member = s.member := rfl
@[simp] theorem updAlloc_regs (s : State) (i0 : Nat) (f : AllocE → AllocE) : (s.updAlloc i0 f).regs = s.regs := rfl
@[simp] theorem updAlloc_disabled (s : State) (i0 : Nat) (f : AllocE → AllocE) : (s.updAlloc i0 f).disabled = s.disabled := rfl
@[simp] theorem updAlloc_enabled (s : State) (i0 : Nat) (f : AllocE → AllocE) : (s.updAlloc i0 f).enabled = s.enabled := rfl
@[simp] theorem updAlloc_vecSent (s : State) (i0 : Nat) (f : AllocE → AllocE) : (s.updAlloc i0 f).vecSent = s.vecSent := rfl
@[simp] theorem updAlloc_vecMask (s : State) (i0 : Nat) (f : AllocE → AllocE) : (s.updAlloc i0 f).vecMask = s.vecMask := rfl
@[simp] theorem updAlloc_vecPend (s : State) (i0 : Nat) (f : AllocE → AllocE) : (s.updAlloc i0 f).vecPend = s.vecPend := rfl
@[simp] theorem updAlloc_vecTable (s : State) (i0 : Nat) (f : AllocE → AllocE) : (s.updAlloc i0 f).vecTable = s.vecTable := rfl
@[simp] theorem updAlloc_funcMask (s : State) (i0 : Nat) (f : AllocE → AllocE) : (s.updAlloc i0 f).funcMask = s.funcMask := rfl
@[simp] theorem updAlloc_mem (s : State) (i0 : Nat) (f : AllocE → AllocE) : (s.updAlloc i0 f).mem = s.mem := rfl
@[simp] theorem updAlloc_poison (s : State) (i0 : Nat) (f : AllocE → AllocE) : (s.updAlloc i0 f).poison = s.poison := rfl
@[simp] theorem updAlloc_flips (s : State) (i0 : Nat) (f : AllocE → AllocE) : (s.updAlloc i0 f).flips = s.flips := rfl
@[simp] theorem updAlloc_slotErrs (s : State) (i0 : Nat) (f : AllocE → AllocE) : (s.updAlloc i0 f).slotErrs = s.slotErrs := rfl
@[simp] theorem updAlloc_chans (s : State) (i0 : Nat) (f : AllocE → AllocE) : (s.updAlloc i0 f).chans = s.chans := rfl
@[simp] theorem updAlloc_stackTab (s : State) (i0 : Nat) (f : AllocE → AllocE) : (s.updAlloc i0 f).stackTab = s.stackTab := rfl
@[simp] theorem updAlloc_units (s : State) (i0 : Nat) (f : AllocE → AllocE) : (s.updAlloc i0 f).units = s.units := rfl
@[simp] theorem updAlloc_tiles (s : State) (i0 : Nat) (f : AllocE → AllocE) : (s.updAlloc i0 f).tiles = s.tiles := rfl
@[simp] theorem updAlloc_seqs (s : State) (i0 : Nat) (f : AllocE → AllocE) : (s.updAlloc i0 f).seqs = s.seqs := rfl
@[simp] theorem updAlloc_imem (s : State) (i0 : Nat) (f : AllocE → AllocE) : (s.updAlloc i0 f).imem = s.imem := rfl
@[simp] theorem updAlloc_lib (s : State) (i0 : Nat) (f : AllocE → AllocE) : (s.updAlloc i0 f).lib = s.lib := rfl
@[simp] theorem updAlloc_routines (s : State) (i0 : Nat) (f : AllocE → AllocE) : (s.updAlloc i0 f).routines = s.routines := rfl
@[simp] theorem updAlloc_descs (s : State) (i0 : Nat) (f : AllocE → AllocE) : (s.updAlloc i0 f).descs = s.descs := rfl
@[simp] theorem updAlloc_otabs (s : State) (i0 : Nat) (f : AllocE → AllocE) : (s.updAlloc i0 f).otabs = s.otabs := rfl
@[simp] theorem updAlloc_descQ (s : State) (i0 : Nat) (f : AllocE → AllocE) : (s.updAlloc i0 f).descQ = s.descQ := rfl
@[simp] theorem updAlloc_allocQ (s : State) (i0 : Nat) (f : AllocE → AllocE) : (s.updAlloc i0 f).allocQ = s.allocQ := rfl
@[simp] theorem updAlloc_fetches (s : State) (i0 : Nat) (f : AllocE → AllocE) : (s.updAlloc i0 f).fetches = s.fetches := rfl
@[simp] theorem updAlloc_nextFetch (s : State) (i0 : Nat) (f : AllocE → AllocE) : (s.updAlloc i0 f).nextFetch = s.nextFetch := rfl
@[simp] theorem updAlloc_arbs (s : State) (i0 : Nat) (f : AllocE → AllocE) : (s.updAlloc i0 f).arbs = s.arbs := rfl
@[simp] theorem updAlloc_edges (s : State) (i0 : Nat) (f : AllocE → AllocE) : (s.updAlloc i0 f).edges = s.edges := rfl
@[simp] theorem updAlloc_ports (s : State) (i0 : Nat) (f : AllocE → AllocE) : (s.updAlloc i0 f).ports = s.ports := rfl
@[simp] theorem updAlloc_sync (s : State) (i0 : Nat) (f : AllocE → AllocE) : (s.updAlloc i0 f).sync = s.sync := rfl
@[simp] theorem updAlloc_outReqs (s : State) (i0 : Nat) (f : AllocE → AllocE) : (s.updAlloc i0 f).outReqs = s.outReqs := rfl
@[simp] theorem updAlloc_inPkts (s : State) (i0 : Nat) (f : AllocE → AllocE) : (s.updAlloc i0 f).inPkts = s.inPkts := rfl
@[simp] theorem updAlloc_nextIn (s : State) (i0 : Nat) (f : AllocE → AllocE) : (s.updAlloc i0 f).nextIn = s.nextIn := rfl
@[simp] theorem updAlloc_egress (s : State) (i0 : Nat) (f : AllocE → AllocE) : (s.updAlloc i0 f).egress = s.egress := rfl
@[simp] theorem updAlloc_cxl (s : State) (i0 : Nat) (f : AllocE → AllocE) : (s.updAlloc i0 f).cxl = s.cxl := rfl
@[simp] theorem updAlloc_armed (s : State) (i0 : Nat) (f : AllocE → AllocE) : (s.updAlloc i0 f).armed = s.armed := rfl
@[simp] theorem updAlloc_running (s : State) (i0 : Nat) (f : AllocE → AllocE) : (s.updAlloc i0 f).running = s.running := rfl
@[simp] theorem updAlloc_ledger (s : State) (i0 : Nat) (f : AllocE → AllocE) : (s.updAlloc i0 f).ledger = s.ledger := rfl
@[simp] theorem updAlloc_causes (s : State) (i0 : Nat) (f : AllocE → AllocE) : (s.updAlloc i0 f).causes = s.causes := rfl
@[simp] theorem updAlloc_entries (s : State) (i0 : Nat) (f : AllocE → AllocE) : (s.updAlloc i0 f).entries = s.entries := rfl
@[simp] theorem updAlloc_entry (s : State) (i0 : Nat) (f : AllocE → AllocE) : (s.updAlloc i0 f).entry = s.entry := rfl
@[simp] theorem updAlloc_history (s : State) (i0 : Nat) (f : AllocE → AllocE) : (s.updAlloc i0 f).history = s.history := rfl
@[simp] theorem updAlloc_clearDesc (s : State) (i0 : Nat) (f : AllocE → AllocE) : (s.updAlloc i0 f).clearDesc = s.clearDesc := rfl
@[simp] theorem updAlloc_fenceFlushed (s : State) (i0 : Nat) (f : AllocE → AllocE) : (s.updAlloc i0 f).fenceFlushed = s.fenceFlushed := rfl
@[simp] theorem updAlloc_kicks (s : State) (i0 : Nat) (f : AllocE → AllocE) : (s.updAlloc i0 f).kicks = s.kicks := rfl
@[simp] theorem updAlloc_uzoids (s : State) (i0 : Nat) (f : AllocE → AllocE) : (s.updAlloc i0 f).uzoids = s.uzoids := rfl
@[simp] theorem updAlloc_restarting (s : State) (i0 : Nat) (f : AllocE → AllocE) : (s.updAlloc i0 f).restarting = s.restarting := rfl
@[simp] theorem updAlloc_bwq (s : State) (i0 : Nat) (f : AllocE → AllocE) : (s.updAlloc i0 f).bwq = s.bwq := rfl
@[simp] theorem updAlloc_flash (s : State) (i0 : Nat) (f : AllocE → AllocE) : (s.updAlloc i0 f).flash = s.flash := rfl
@[simp] theorem updAlloc_board (s : State) (i0 : Nat) (f : AllocE → AllocE) : (s.updAlloc i0 f).board = s.board := rfl
@[simp] theorem updAlloc_us (s : State) (i0 : Nat) (f : AllocE → AllocE) : (s.updAlloc i0 f).us = s.us := rfl
@[simp] theorem updAlloc_drawn (s : State) (i0 : Nat) (f : AllocE → AllocE) : (s.updAlloc i0 f).drawn = s.drawn := rfl
@[simp] theorem updAlloc_out (s : State) (i0 : Nat) (f : AllocE → AllocE) : (s.updAlloc i0 f).out = s.out := rfl
@[simp] theorem updAlloc_reg (s : State) (i0 : Nat) (f : AllocE → AllocE) (k : Nat) : (s.updAlloc i0 f).reg k = s.reg k := rfl
@[simp] theorem updAlloc_chan (s : State) (i0 : Nat) (f : AllocE → AllocE) (st ch : Nat) : (s.updAlloc i0 f).chan st ch = s.chan st ch := rfl
@[simp] theorem updAlloc_stack (s : State) (i0 : Nat) (f : AllocE → AllocE) (st : Nat) : (s.updAlloc i0 f).stack st = s.stack st := rfl
@[simp] theorem updAlloc_unit (s : State) (i0 : Nat) (f : AllocE → AllocE) (u : Nat) : (s.updAlloc i0 f).unit u = s.unit u := rfl
@[simp] theorem updAlloc_tile (s : State) (i0 : Nat) (f : AllocE → AllocE) (t : Nat) : (s.updAlloc i0 f).tile t = s.tile t := rfl
@[simp] theorem updAlloc_seq (s : State) (i0 : Nat) (f : AllocE → AllocE) (d : Nat) : (s.updAlloc i0 f).seq d = s.seq d := rfl
@[simp] theorem updAlloc_arb (s : State) (i0 : Nat) (f : AllocE → AllocE) (d i : Nat) : (s.updAlloc i0 f).arb d i = s.arb d i := rfl
@[simp] theorem updAlloc_port (s : State) (i0 : Nat) (f : AllocE → AllocE) (p : Nat) : (s.updAlloc i0 f).port p = s.port p := rfl
@[simp] theorem updAlloc_desc (s : State) (i0 : Nat) (f : AllocE → AllocE) (h : Nat) : (s.updAlloc i0 f).desc h = s.desc h := rfl
@[simp] theorem updAlloc_otab (s : State) (i0 : Nat) (f : AllocE → AllocE) (i : Nat) : (s.updAlloc i0 f).otab i = s.otab i := rfl
@[simp] theorem updAlloc_getF (s : State) (i0 : Nat) (f : AllocE → AllocE) (q : Nat) (g : RegF) (j : Nat) : getF (s.updAlloc i0 f) q g j = getF s q g j := rfl
@[simp] theorem updAlloc_hasEvent (s : State) (i0 : Nat) (f : AllocE → AllocE) (q j : Nat) : hasEvent (s.updAlloc i0 f) q j = hasEvent s q j := rfl
@[simp] theorem updOtab_pending (s : State) (i0 : Nat) (f : OTab → OTab) : (s.updOtab i0 f).pending = s.pending := rfl
@[simp] theorem updOtab_member (s : State) (i0 : Nat) (f : OTab → OTab) : (s.updOtab i0 f).member = s.member := rfl
@[simp] theorem updOtab_regs (s : State) (i0 : Nat) (f : OTab → OTab) : (s.updOtab i0 f).regs = s.regs := rfl
@[simp] theorem updOtab_disabled (s : State) (i0 : Nat) (f : OTab → OTab) : (s.updOtab i0 f).disabled = s.disabled := rfl
@[simp] theorem updOtab_enabled (s : State) (i0 : Nat) (f : OTab → OTab) : (s.updOtab i0 f).enabled = s.enabled := rfl
@[simp] theorem updOtab_vecSent (s : State) (i0 : Nat) (f : OTab → OTab) : (s.updOtab i0 f).vecSent = s.vecSent := rfl
@[simp] theorem updOtab_vecMask (s : State) (i0 : Nat) (f : OTab → OTab) : (s.updOtab i0 f).vecMask = s.vecMask := rfl
@[simp] theorem updOtab_vecPend (s : State) (i0 : Nat) (f : OTab → OTab) : (s.updOtab i0 f).vecPend = s.vecPend := rfl
@[simp] theorem updOtab_vecTable (s : State) (i0 : Nat) (f : OTab → OTab) : (s.updOtab i0 f).vecTable = s.vecTable := rfl
@[simp] theorem updOtab_funcMask (s : State) (i0 : Nat) (f : OTab → OTab) : (s.updOtab i0 f).funcMask = s.funcMask := rfl
@[simp] theorem updOtab_mem (s : State) (i0 : Nat) (f : OTab → OTab) : (s.updOtab i0 f).mem = s.mem := rfl
@[simp] theorem updOtab_poison (s : State) (i0 : Nat) (f : OTab → OTab) : (s.updOtab i0 f).poison = s.poison := rfl
@[simp] theorem updOtab_flips (s : State) (i0 : Nat) (f : OTab → OTab) : (s.updOtab i0 f).flips = s.flips := rfl
@[simp] theorem updOtab_slotErrs (s : State) (i0 : Nat) (f : OTab → OTab) : (s.updOtab i0 f).slotErrs = s.slotErrs := rfl
@[simp] theorem updOtab_chans (s : State) (i0 : Nat) (f : OTab → OTab) : (s.updOtab i0 f).chans = s.chans := rfl
@[simp] theorem updOtab_stackTab (s : State) (i0 : Nat) (f : OTab → OTab) : (s.updOtab i0 f).stackTab = s.stackTab := rfl
@[simp] theorem updOtab_units (s : State) (i0 : Nat) (f : OTab → OTab) : (s.updOtab i0 f).units = s.units := rfl
@[simp] theorem updOtab_tiles (s : State) (i0 : Nat) (f : OTab → OTab) : (s.updOtab i0 f).tiles = s.tiles := rfl
@[simp] theorem updOtab_seqs (s : State) (i0 : Nat) (f : OTab → OTab) : (s.updOtab i0 f).seqs = s.seqs := rfl
@[simp] theorem updOtab_imem (s : State) (i0 : Nat) (f : OTab → OTab) : (s.updOtab i0 f).imem = s.imem := rfl
@[simp] theorem updOtab_lib (s : State) (i0 : Nat) (f : OTab → OTab) : (s.updOtab i0 f).lib = s.lib := rfl
@[simp] theorem updOtab_routines (s : State) (i0 : Nat) (f : OTab → OTab) : (s.updOtab i0 f).routines = s.routines := rfl
@[simp] theorem updOtab_descs (s : State) (i0 : Nat) (f : OTab → OTab) : (s.updOtab i0 f).descs = s.descs := rfl
@[simp] theorem updOtab_allocs (s : State) (i0 : Nat) (f : OTab → OTab) : (s.updOtab i0 f).allocs = s.allocs := rfl
@[simp] theorem updOtab_descQ (s : State) (i0 : Nat) (f : OTab → OTab) : (s.updOtab i0 f).descQ = s.descQ := rfl
@[simp] theorem updOtab_allocQ (s : State) (i0 : Nat) (f : OTab → OTab) : (s.updOtab i0 f).allocQ = s.allocQ := rfl
@[simp] theorem updOtab_fetches (s : State) (i0 : Nat) (f : OTab → OTab) : (s.updOtab i0 f).fetches = s.fetches := rfl
@[simp] theorem updOtab_nextFetch (s : State) (i0 : Nat) (f : OTab → OTab) : (s.updOtab i0 f).nextFetch = s.nextFetch := rfl
@[simp] theorem updOtab_arbs (s : State) (i0 : Nat) (f : OTab → OTab) : (s.updOtab i0 f).arbs = s.arbs := rfl
@[simp] theorem updOtab_edges (s : State) (i0 : Nat) (f : OTab → OTab) : (s.updOtab i0 f).edges = s.edges := rfl
@[simp] theorem updOtab_ports (s : State) (i0 : Nat) (f : OTab → OTab) : (s.updOtab i0 f).ports = s.ports := rfl
@[simp] theorem updOtab_sync (s : State) (i0 : Nat) (f : OTab → OTab) : (s.updOtab i0 f).sync = s.sync := rfl
@[simp] theorem updOtab_outReqs (s : State) (i0 : Nat) (f : OTab → OTab) : (s.updOtab i0 f).outReqs = s.outReqs := rfl
@[simp] theorem updOtab_inPkts (s : State) (i0 : Nat) (f : OTab → OTab) : (s.updOtab i0 f).inPkts = s.inPkts := rfl
@[simp] theorem updOtab_nextIn (s : State) (i0 : Nat) (f : OTab → OTab) : (s.updOtab i0 f).nextIn = s.nextIn := rfl
@[simp] theorem updOtab_egress (s : State) (i0 : Nat) (f : OTab → OTab) : (s.updOtab i0 f).egress = s.egress := rfl
@[simp] theorem updOtab_cxl (s : State) (i0 : Nat) (f : OTab → OTab) : (s.updOtab i0 f).cxl = s.cxl := rfl
@[simp] theorem updOtab_armed (s : State) (i0 : Nat) (f : OTab → OTab) : (s.updOtab i0 f).armed = s.armed := rfl
@[simp] theorem updOtab_running (s : State) (i0 : Nat) (f : OTab → OTab) : (s.updOtab i0 f).running = s.running := rfl
@[simp] theorem updOtab_ledger (s : State) (i0 : Nat) (f : OTab → OTab) : (s.updOtab i0 f).ledger = s.ledger := rfl
@[simp] theorem updOtab_causes (s : State) (i0 : Nat) (f : OTab → OTab) : (s.updOtab i0 f).causes = s.causes := rfl
@[simp] theorem updOtab_entries (s : State) (i0 : Nat) (f : OTab → OTab) : (s.updOtab i0 f).entries = s.entries := rfl
@[simp] theorem updOtab_entry (s : State) (i0 : Nat) (f : OTab → OTab) : (s.updOtab i0 f).entry = s.entry := rfl
@[simp] theorem updOtab_history (s : State) (i0 : Nat) (f : OTab → OTab) : (s.updOtab i0 f).history = s.history := rfl
@[simp] theorem updOtab_clearDesc (s : State) (i0 : Nat) (f : OTab → OTab) : (s.updOtab i0 f).clearDesc = s.clearDesc := rfl
@[simp] theorem updOtab_fenceFlushed (s : State) (i0 : Nat) (f : OTab → OTab) : (s.updOtab i0 f).fenceFlushed = s.fenceFlushed := rfl
@[simp] theorem updOtab_kicks (s : State) (i0 : Nat) (f : OTab → OTab) : (s.updOtab i0 f).kicks = s.kicks := rfl
@[simp] theorem updOtab_uzoids (s : State) (i0 : Nat) (f : OTab → OTab) : (s.updOtab i0 f).uzoids = s.uzoids := rfl
@[simp] theorem updOtab_restarting (s : State) (i0 : Nat) (f : OTab → OTab) : (s.updOtab i0 f).restarting = s.restarting := rfl
@[simp] theorem updOtab_bwq (s : State) (i0 : Nat) (f : OTab → OTab) : (s.updOtab i0 f).bwq = s.bwq := rfl
@[simp] theorem updOtab_flash (s : State) (i0 : Nat) (f : OTab → OTab) : (s.updOtab i0 f).flash = s.flash := rfl
@[simp] theorem updOtab_board (s : State) (i0 : Nat) (f : OTab → OTab) : (s.updOtab i0 f).board = s.board := rfl
@[simp] theorem updOtab_us (s : State) (i0 : Nat) (f : OTab → OTab) : (s.updOtab i0 f).us = s.us := rfl
@[simp] theorem updOtab_drawn (s : State) (i0 : Nat) (f : OTab → OTab) : (s.updOtab i0 f).drawn = s.drawn := rfl
@[simp] theorem updOtab_out (s : State) (i0 : Nat) (f : OTab → OTab) : (s.updOtab i0 f).out = s.out := rfl
@[simp] theorem updOtab_reg (s : State) (i0 : Nat) (f : OTab → OTab) (k : Nat) : (s.updOtab i0 f).reg k = s.reg k := rfl
@[simp] theorem updOtab_chan (s : State) (i0 : Nat) (f : OTab → OTab) (st ch : Nat) : (s.updOtab i0 f).chan st ch = s.chan st ch := rfl
@[simp] theorem updOtab_stack (s : State) (i0 : Nat) (f : OTab → OTab) (st : Nat) : (s.updOtab i0 f).stack st = s.stack st := rfl
@[simp] theorem updOtab_unit (s : State) (i0 : Nat) (f : OTab → OTab) (u : Nat) : (s.updOtab i0 f).unit u = s.unit u := rfl
@[simp] theorem updOtab_tile (s : State) (i0 : Nat) (f : OTab → OTab) (t : Nat) : (s.updOtab i0 f).tile t = s.tile t := rfl
@[simp] theorem updOtab_seq (s : State) (i0 : Nat) (f : OTab → OTab) (d : Nat) : (s.updOtab i0 f).seq d = s.seq d := rfl
@[simp] theorem updOtab_arb (s : State) (i0 : Nat) (f : OTab → OTab) (d i : Nat) : (s.updOtab i0 f).arb d i = s.arb d i := rfl
@[simp] theorem updOtab_port (s : State) (i0 : Nat) (f : OTab → OTab) (p : Nat) : (s.updOtab i0 f).port p = s.port p := rfl
@[simp] theorem updOtab_desc (s : State) (i0 : Nat) (f : OTab → OTab) (h : Nat) : (s.updOtab i0 f).desc h = s.desc h := rfl
@[simp] theorem updOtab_alloc (s : State) (i0 : Nat) (f : OTab → OTab) (i : Nat) : (s.updOtab i0 f).alloc i = s.alloc i := rfl
@[simp] theorem updOtab_getF (s : State) (i0 : Nat) (f : OTab → OTab) (q : Nat) (g : RegF) (j : Nat) : getF (s.updOtab i0 f) q g j = getF s q g j := rfl
@[simp] theorem updOtab_hasEvent (s : State) (i0 : Nat) (f : OTab → OTab) (q j : Nat) : hasEvent (s.updOtab i0 f) q j = hasEvent s q j := rfl
@[simp] theorem emit_pending (s : State) (o : Out) : (s.emit o).pending = s.pending := rfl
@[simp] theorem emit_member (s : State) (o : Out) : (s.emit o).member = s.member := rfl
@[simp] theorem emit_regs (s : State) (o : Out) : (s.emit o).regs = s.regs := rfl
@[simp] theorem emit_disabled (s : State) (o : Out) : (s.emit o).disabled = s.disabled := rfl
@[simp] theorem emit_enabled (s : State) (o : Out) : (s.emit o).enabled = s.enabled := rfl
@[simp] theorem emit_vecSent (s : State) (o : Out) : (s.emit o).vecSent = s.vecSent := rfl
@[simp] theorem emit_vecMask (s : State) (o : Out) : (s.emit o).vecMask = s.vecMask := rfl
@[simp] theorem emit_vecPend (s : State) (o : Out) : (s.emit o).vecPend = s.vecPend := rfl
@[simp] theorem emit_vecTable (s : State) (o : Out) : (s.emit o).vecTable = s.vecTable := rfl
@[simp] theorem emit_funcMask (s : State) (o : Out) : (s.emit o).funcMask = s.funcMask := rfl
@[simp] theorem emit_mem (s : State) (o : Out) : (s.emit o).mem = s.mem := rfl
@[simp] theorem emit_poison (s : State) (o : Out) : (s.emit o).poison = s.poison := rfl
@[simp] theorem emit_flips (s : State) (o : Out) : (s.emit o).flips = s.flips := rfl
@[simp] theorem emit_slotErrs (s : State) (o : Out) : (s.emit o).slotErrs = s.slotErrs := rfl
@[simp] theorem emit_chans (s : State) (o : Out) : (s.emit o).chans = s.chans := rfl
@[simp] theorem emit_stackTab (s : State) (o : Out) : (s.emit o).stackTab = s.stackTab := rfl
@[simp] theorem emit_units (s : State) (o : Out) : (s.emit o).units = s.units := rfl
@[simp] theorem emit_tiles (s : State) (o : Out) : (s.emit o).tiles = s.tiles := rfl
@[simp] theorem emit_seqs (s : State) (o : Out) : (s.emit o).seqs = s.seqs := rfl
@[simp] theorem emit_imem (s : State) (o : Out) : (s.emit o).imem = s.imem := rfl
@[simp] theorem emit_lib (s : State) (o : Out) : (s.emit o).lib = s.lib := rfl
@[simp] theorem emit_routines (s : State) (o : Out) : (s.emit o).routines = s.routines := rfl
@[simp] theorem emit_descs (s : State) (o : Out) : (s.emit o).descs = s.descs := rfl
@[simp] theorem emit_allocs (s : State) (o : Out) : (s.emit o).allocs = s.allocs := rfl
@[simp] theorem emit_otabs (s : State) (o : Out) : (s.emit o).otabs = s.otabs := rfl
@[simp] theorem emit_descQ (s : State) (o : Out) : (s.emit o).descQ = s.descQ := rfl
@[simp] theorem emit_allocQ (s : State) (o : Out) : (s.emit o).allocQ = s.allocQ := rfl
@[simp] theorem emit_fetches (s : State) (o : Out) : (s.emit o).fetches = s.fetches := rfl
@[simp] theorem emit_nextFetch (s : State) (o : Out) : (s.emit o).nextFetch = s.nextFetch := rfl
@[simp] theorem emit_arbs (s : State) (o : Out) : (s.emit o).arbs = s.arbs := rfl
@[simp] theorem emit_edges (s : State) (o : Out) : (s.emit o).edges = s.edges := rfl
@[simp] theorem emit_ports (s : State) (o : Out) : (s.emit o).ports = s.ports := rfl
@[simp] theorem emit_sync (s : State) (o : Out) : (s.emit o).sync = s.sync := rfl
@[simp] theorem emit_outReqs (s : State) (o : Out) : (s.emit o).outReqs = s.outReqs := rfl
@[simp] theorem emit_inPkts (s : State) (o : Out) : (s.emit o).inPkts = s.inPkts := rfl
@[simp] theorem emit_nextIn (s : State) (o : Out) : (s.emit o).nextIn = s.nextIn := rfl
@[simp] theorem emit_egress (s : State) (o : Out) : (s.emit o).egress = s.egress := rfl
@[simp] theorem emit_cxl (s : State) (o : Out) : (s.emit o).cxl = s.cxl := rfl
@[simp] theorem emit_armed (s : State) (o : Out) : (s.emit o).armed = s.armed := rfl
@[simp] theorem emit_running (s : State) (o : Out) : (s.emit o).running = s.running := rfl
@[simp] theorem emit_ledger (s : State) (o : Out) : (s.emit o).ledger = s.ledger := rfl
@[simp] theorem emit_causes (s : State) (o : Out) : (s.emit o).causes = s.causes := rfl
@[simp] theorem emit_entries (s : State) (o : Out) : (s.emit o).entries = s.entries := rfl
@[simp] theorem emit_entry (s : State) (o : Out) : (s.emit o).entry = s.entry := rfl
@[simp] theorem emit_history (s : State) (o : Out) : (s.emit o).history = s.history := rfl
@[simp] theorem emit_clearDesc (s : State) (o : Out) : (s.emit o).clearDesc = s.clearDesc := rfl
@[simp] theorem emit_fenceFlushed (s : State) (o : Out) : (s.emit o).fenceFlushed = s.fenceFlushed := rfl
@[simp] theorem emit_kicks (s : State) (o : Out) : (s.emit o).kicks = s.kicks := rfl
@[simp] theorem emit_uzoids (s : State) (o : Out) : (s.emit o).uzoids = s.uzoids := rfl
@[simp] theorem emit_restarting (s : State) (o : Out) : (s.emit o).restarting = s.restarting := rfl
@[simp] theorem emit_bwq (s : State) (o : Out) : (s.emit o).bwq = s.bwq := rfl
@[simp] theorem emit_flash (s : State) (o : Out) : (s.emit o).flash = s.flash := rfl
@[simp] theorem emit_board (s : State) (o : Out) : (s.emit o).board = s.board := rfl
@[simp] theorem emit_us (s : State) (o : Out) : (s.emit o).us = s.us := rfl
@[simp] theorem emit_drawn (s : State) (o : Out) : (s.emit o).drawn = s.drawn := rfl
@[simp] theorem emit_reg (s : State) (o : Out) (k : Nat) : (s.emit o).reg k = s.reg k := rfl
@[simp] theorem emit_chan (s : State) (o : Out) (st ch : Nat) : (s.emit o).chan st ch = s.chan st ch := rfl
@[simp] theorem emit_stack (s : State) (o : Out) (st : Nat) : (s.emit o).stack st = s.stack st := rfl
@[simp] theorem emit_unit (s : State) (o : Out) (u : Nat) : (s.emit o).unit u = s.unit u := rfl
@[simp] theorem emit_tile (s : State) (o : Out) (t : Nat) : (s.emit o).tile t = s.tile t := rfl
@[simp] theorem emit_seq (s : State) (o : Out) (d : Nat) : (s.emit o).seq d = s.seq d := rfl
@[simp] theorem emit_arb (s : State) (o : Out) (d i : Nat) : (s.emit o).arb d i = s.arb d i := rfl
@[simp] theorem emit_port (s : State) (o : Out) (p : Nat) : (s.emit o).port p = s.port p := rfl
@[simp] theorem emit_desc (s : State) (o : Out) (h : Nat) : (s.emit o).desc h = s.desc h := rfl
@[simp] theorem emit_alloc (s : State) (o : Out) (i : Nat) : (s.emit o).alloc i = s.alloc i := rfl
@[simp] theorem emit_otab (s : State) (o : Out) (i : Nat) : (s.emit o).otab i = s.otab i := rfl
@[simp] theorem emit_getF (s : State) (o : Out) (q : Nat) (g : RegF) (j : Nat) : getF (s.emit o) q g j = getF s q g j := rfl
@[simp] theorem emit_hasEvent (s : State) (o : Out) (q j : Nat) : hasEvent (s.emit o) q j = hasEvent s q j := rfl
@[simp] theorem raiseCause_pending (s : State) (c : Cause) : (raiseCause s c).pending = s.pending := rfl
@[simp] theorem raiseCause_member (s : State) (c : Cause) : (raiseCause s c).member = s.member := rfl
@[simp] theorem raiseCause_regs (s : State) (c : Cause) : (raiseCause s c).regs = s.regs := rfl
@[simp] theorem raiseCause_disabled (s : State) (c : Cause) : (raiseCause s c).disabled = s.disabled := rfl
@[simp] theorem raiseCause_enabled (s : State) (c : Cause) : (raiseCause s c).enabled = s.enabled := rfl
@[simp] theorem raiseCause_vecSent (s : State) (c : Cause) : (raiseCause s c).vecSent = s.vecSent := rfl
@[simp] theorem raiseCause_vecMask (s : State) (c : Cause) : (raiseCause s c).vecMask = s.vecMask := rfl
@[simp] theorem raiseCause_vecPend (s : State) (c : Cause) : (raiseCause s c).vecPend = s.vecPend := rfl
@[simp] theorem raiseCause_vecTable (s : State) (c : Cause) : (raiseCause s c).vecTable = s.vecTable := rfl
@[simp] theorem raiseCause_funcMask (s : State) (c : Cause) : (raiseCause s c).funcMask = s.funcMask := rfl
@[simp] theorem raiseCause_mem (s : State) (c : Cause) : (raiseCause s c).mem = s.mem := rfl
@[simp] theorem raiseCause_poison (s : State) (c : Cause) : (raiseCause s c).poison = s.poison := rfl
@[simp] theorem raiseCause_flips (s : State) (c : Cause) : (raiseCause s c).flips = s.flips := rfl
@[simp] theorem raiseCause_slotErrs (s : State) (c : Cause) : (raiseCause s c).slotErrs = s.slotErrs := rfl
@[simp] theorem raiseCause_chans (s : State) (c : Cause) : (raiseCause s c).chans = s.chans := rfl
@[simp] theorem raiseCause_stackTab (s : State) (c : Cause) : (raiseCause s c).stackTab = s.stackTab := rfl
@[simp] theorem raiseCause_units (s : State) (c : Cause) : (raiseCause s c).units = s.units := rfl
@[simp] theorem raiseCause_tiles (s : State) (c : Cause) : (raiseCause s c).tiles = s.tiles := rfl
@[simp] theorem raiseCause_seqs (s : State) (c : Cause) : (raiseCause s c).seqs = s.seqs := rfl
@[simp] theorem raiseCause_imem (s : State) (c : Cause) : (raiseCause s c).imem = s.imem := rfl
@[simp] theorem raiseCause_lib (s : State) (c : Cause) : (raiseCause s c).lib = s.lib := rfl
@[simp] theorem raiseCause_routines (s : State) (c : Cause) : (raiseCause s c).routines = s.routines := rfl
@[simp] theorem raiseCause_descs (s : State) (c : Cause) : (raiseCause s c).descs = s.descs := rfl
@[simp] theorem raiseCause_allocs (s : State) (c : Cause) : (raiseCause s c).allocs = s.allocs := rfl
@[simp] theorem raiseCause_otabs (s : State) (c : Cause) : (raiseCause s c).otabs = s.otabs := rfl
@[simp] theorem raiseCause_descQ (s : State) (c : Cause) : (raiseCause s c).descQ = s.descQ := rfl
@[simp] theorem raiseCause_allocQ (s : State) (c : Cause) : (raiseCause s c).allocQ = s.allocQ := rfl
@[simp] theorem raiseCause_fetches (s : State) (c : Cause) : (raiseCause s c).fetches = s.fetches := rfl
@[simp] theorem raiseCause_nextFetch (s : State) (c : Cause) : (raiseCause s c).nextFetch = s.nextFetch := rfl
@[simp] theorem raiseCause_arbs (s : State) (c : Cause) : (raiseCause s c).arbs = s.arbs := rfl
@[simp] theorem raiseCause_edges (s : State) (c : Cause) : (raiseCause s c).edges = s.edges := rfl
@[simp] theorem raiseCause_ports (s : State) (c : Cause) : (raiseCause s c).ports = s.ports := rfl
@[simp] theorem raiseCause_sync (s : State) (c : Cause) : (raiseCause s c).sync = s.sync := rfl
@[simp] theorem raiseCause_outReqs (s : State) (c : Cause) : (raiseCause s c).outReqs = s.outReqs := rfl
@[simp] theorem raiseCause_inPkts (s : State) (c : Cause) : (raiseCause s c).inPkts = s.inPkts := rfl
@[simp] theorem raiseCause_nextIn (s : State) (c : Cause) : (raiseCause s c).nextIn = s.nextIn := rfl
@[simp] theorem raiseCause_egress (s : State) (c : Cause) : (raiseCause s c).egress = s.egress := rfl
@[simp] theorem raiseCause_cxl (s : State) (c : Cause) : (raiseCause s c).cxl = s.cxl := rfl
@[simp] theorem raiseCause_armed (s : State) (c : Cause) : (raiseCause s c).armed = s.armed := rfl
@[simp] theorem raiseCause_running (s : State) (c : Cause) : (raiseCause s c).running = s.running := rfl
@[simp] theorem raiseCause_ledger (s : State) (c : Cause) : (raiseCause s c).ledger = s.ledger := rfl
@[simp] theorem raiseCause_entries (s : State) (c : Cause) : (raiseCause s c).entries = s.entries := rfl
@[simp] theorem raiseCause_entry (s : State) (c : Cause) : (raiseCause s c).entry = s.entry := rfl
@[simp] theorem raiseCause_history (s : State) (c : Cause) : (raiseCause s c).history = s.history := rfl
@[simp] theorem raiseCause_clearDesc (s : State) (c : Cause) : (raiseCause s c).clearDesc = s.clearDesc := rfl
@[simp] theorem raiseCause_fenceFlushed (s : State) (c : Cause) : (raiseCause s c).fenceFlushed = s.fenceFlushed := rfl
@[simp] theorem raiseCause_kicks (s : State) (c : Cause) : (raiseCause s c).kicks = s.kicks := rfl
@[simp] theorem raiseCause_uzoids (s : State) (c : Cause) : (raiseCause s c).uzoids = s.uzoids := rfl
@[simp] theorem raiseCause_restarting (s : State) (c : Cause) : (raiseCause s c).restarting = s.restarting := rfl
@[simp] theorem raiseCause_bwq (s : State) (c : Cause) : (raiseCause s c).bwq = s.bwq := rfl
@[simp] theorem raiseCause_flash (s : State) (c : Cause) : (raiseCause s c).flash = s.flash := rfl
@[simp] theorem raiseCause_board (s : State) (c : Cause) : (raiseCause s c).board = s.board := rfl
@[simp] theorem raiseCause_us (s : State) (c : Cause) : (raiseCause s c).us = s.us := rfl
@[simp] theorem raiseCause_drawn (s : State) (c : Cause) : (raiseCause s c).drawn = s.drawn := rfl
@[simp] theorem raiseCause_out (s : State) (c : Cause) : (raiseCause s c).out = s.out := rfl
@[simp] theorem raiseCause_reg (s : State) (c : Cause) (k : Nat) : (raiseCause s c).reg k = s.reg k := rfl
@[simp] theorem raiseCause_chan (s : State) (c : Cause) (st ch : Nat) : (raiseCause s c).chan st ch = s.chan st ch := rfl
@[simp] theorem raiseCause_stack (s : State) (c : Cause) (st : Nat) : (raiseCause s c).stack st = s.stack st := rfl
@[simp] theorem raiseCause_unit (s : State) (c : Cause) (u : Nat) : (raiseCause s c).unit u = s.unit u := rfl
@[simp] theorem raiseCause_tile (s : State) (c : Cause) (t : Nat) : (raiseCause s c).tile t = s.tile t := rfl
@[simp] theorem raiseCause_seq (s : State) (c : Cause) (d : Nat) : (raiseCause s c).seq d = s.seq d := rfl
@[simp] theorem raiseCause_arb (s : State) (c : Cause) (d i : Nat) : (raiseCause s c).arb d i = s.arb d i := rfl
@[simp] theorem raiseCause_port (s : State) (c : Cause) (p : Nat) : (raiseCause s c).port p = s.port p := rfl
@[simp] theorem raiseCause_desc (s : State) (c : Cause) (h : Nat) : (raiseCause s c).desc h = s.desc h := rfl
@[simp] theorem raiseCause_alloc (s : State) (c : Cause) (i : Nat) : (raiseCause s c).alloc i = s.alloc i := rfl
@[simp] theorem raiseCause_otab (s : State) (c : Cause) (i : Nat) : (raiseCause s c).otab i = s.otab i := rfl
@[simp] theorem raiseCause_getF (s : State) (c : Cause) (q : Nat) (g : RegF) (j : Nat) : getF (raiseCause s c) q g j = getF s q g j := rfl
@[simp] theorem raiseCause_hasEvent (s : State) (c : Cause) (q j : Nat) : hasEvent (raiseCause s c) q j = hasEvent s q j := rfl
@[simp] theorem wrByte_pending (s : State) (a : Nat) (b : Byte) : (s.wrByte a b).pending = s.pending := rfl
@[simp] theorem wrByte_member (s : State) (a : Nat) (b : Byte) : (s.wrByte a b).member = s.member := rfl
@[simp] theorem wrByte_regs (s : State) (a : Nat) (b : Byte) : (s.wrByte a b).regs = s.regs := rfl
@[simp] theorem wrByte_disabled (s : State) (a : Nat) (b : Byte) : (s.wrByte a b).disabled = s.disabled := rfl
@[simp] theorem wrByte_enabled (s : State) (a : Nat) (b : Byte) : (s.wrByte a b).enabled = s.enabled := rfl
@[simp] theorem wrByte_vecSent (s : State) (a : Nat) (b : Byte) : (s.wrByte a b).vecSent = s.vecSent := rfl
@[simp] theorem wrByte_vecMask (s : State) (a : Nat) (b : Byte) : (s.wrByte a b).vecMask = s.vecMask := rfl
@[simp] theorem wrByte_vecPend (s : State) (a : Nat) (b : Byte) : (s.wrByte a b).vecPend = s.vecPend := rfl
@[simp] theorem wrByte_vecTable (s : State) (a : Nat) (b : Byte) : (s.wrByte a b).vecTable = s.vecTable := rfl
@[simp] theorem wrByte_funcMask (s : State) (a : Nat) (b : Byte) : (s.wrByte a b).funcMask = s.funcMask := rfl
@[simp] theorem wrByte_poison (s : State) (a : Nat) (b : Byte) : (s.wrByte a b).poison = s.poison := rfl
@[simp] theorem wrByte_flips (s : State) (a : Nat) (b : Byte) : (s.wrByte a b).flips = s.flips := rfl
@[simp] theorem wrByte_slotErrs (s : State) (a : Nat) (b : Byte) : (s.wrByte a b).slotErrs = s.slotErrs := rfl
@[simp] theorem wrByte_chans (s : State) (a : Nat) (b : Byte) : (s.wrByte a b).chans = s.chans := rfl
@[simp] theorem wrByte_stackTab (s : State) (a : Nat) (b : Byte) : (s.wrByte a b).stackTab = s.stackTab := rfl
@[simp] theorem wrByte_units (s : State) (a : Nat) (b : Byte) : (s.wrByte a b).units = s.units := rfl
@[simp] theorem wrByte_tiles (s : State) (a : Nat) (b : Byte) : (s.wrByte a b).tiles = s.tiles := rfl
@[simp] theorem wrByte_seqs (s : State) (a : Nat) (b : Byte) : (s.wrByte a b).seqs = s.seqs := rfl
@[simp] theorem wrByte_imem (s : State) (a : Nat) (b : Byte) : (s.wrByte a b).imem = s.imem := rfl
@[simp] theorem wrByte_lib (s : State) (a : Nat) (b : Byte) : (s.wrByte a b).lib = s.lib := rfl
@[simp] theorem wrByte_routines (s : State) (a : Nat) (b : Byte) : (s.wrByte a b).routines = s.routines := rfl
@[simp] theorem wrByte_descs (s : State) (a : Nat) (b : Byte) : (s.wrByte a b).descs = s.descs := rfl
@[simp] theorem wrByte_allocs (s : State) (a : Nat) (b : Byte) : (s.wrByte a b).allocs = s.allocs := rfl
@[simp] theorem wrByte_otabs (s : State) (a : Nat) (b : Byte) : (s.wrByte a b).otabs = s.otabs := rfl
@[simp] theorem wrByte_descQ (s : State) (a : Nat) (b : Byte) : (s.wrByte a b).descQ = s.descQ := rfl
@[simp] theorem wrByte_allocQ (s : State) (a : Nat) (b : Byte) : (s.wrByte a b).allocQ = s.allocQ := rfl
@[simp] theorem wrByte_fetches (s : State) (a : Nat) (b : Byte) : (s.wrByte a b).fetches = s.fetches := rfl
@[simp] theorem wrByte_nextFetch (s : State) (a : Nat) (b : Byte) : (s.wrByte a b).nextFetch = s.nextFetch := rfl
@[simp] theorem wrByte_arbs (s : State) (a : Nat) (b : Byte) : (s.wrByte a b).arbs = s.arbs := rfl
@[simp] theorem wrByte_edges (s : State) (a : Nat) (b : Byte) : (s.wrByte a b).edges = s.edges := rfl
@[simp] theorem wrByte_ports (s : State) (a : Nat) (b : Byte) : (s.wrByte a b).ports = s.ports := rfl
@[simp] theorem wrByte_sync (s : State) (a : Nat) (b : Byte) : (s.wrByte a b).sync = s.sync := rfl
@[simp] theorem wrByte_outReqs (s : State) (a : Nat) (b : Byte) : (s.wrByte a b).outReqs = s.outReqs := rfl
@[simp] theorem wrByte_inPkts (s : State) (a : Nat) (b : Byte) : (s.wrByte a b).inPkts = s.inPkts := rfl
@[simp] theorem wrByte_nextIn (s : State) (a : Nat) (b : Byte) : (s.wrByte a b).nextIn = s.nextIn := rfl
@[simp] theorem wrByte_egress (s : State) (a : Nat) (b : Byte) : (s.wrByte a b).egress = s.egress := rfl
@[simp] theorem wrByte_cxl (s : State) (a : Nat) (b : Byte) : (s.wrByte a b).cxl = s.cxl := rfl
@[simp] theorem wrByte_armed (s : State) (a : Nat) (b : Byte) : (s.wrByte a b).armed = s.armed := rfl
@[simp] theorem wrByte_running (s : State) (a : Nat) (b : Byte) : (s.wrByte a b).running = s.running := rfl
@[simp] theorem wrByte_ledger (s : State) (a : Nat) (b : Byte) : (s.wrByte a b).ledger = s.ledger := rfl
@[simp] theorem wrByte_causes (s : State) (a : Nat) (b : Byte) : (s.wrByte a b).causes = s.causes := rfl
@[simp] theorem wrByte_entries (s : State) (a : Nat) (b : Byte) : (s.wrByte a b).entries = s.entries := rfl
@[simp] theorem wrByte_entry (s : State) (a : Nat) (b : Byte) : (s.wrByte a b).entry = s.entry := rfl
@[simp] theorem wrByte_history (s : State) (a : Nat) (b : Byte) : (s.wrByte a b).history = s.history := rfl
@[simp] theorem wrByte_clearDesc (s : State) (a : Nat) (b : Byte) : (s.wrByte a b).clearDesc = s.clearDesc := rfl
@[simp] theorem wrByte_fenceFlushed (s : State) (a : Nat) (b : Byte) : (s.wrByte a b).fenceFlushed = s.fenceFlushed := rfl
@[simp] theorem wrByte_kicks (s : State) (a : Nat) (b : Byte) : (s.wrByte a b).kicks = s.kicks := rfl
@[simp] theorem wrByte_uzoids (s : State) (a : Nat) (b : Byte) : (s.wrByte a b).uzoids = s.uzoids := rfl
@[simp] theorem wrByte_restarting (s : State) (a : Nat) (b : Byte) : (s.wrByte a b).restarting = s.restarting := rfl
@[simp] theorem wrByte_bwq (s : State) (a : Nat) (b : Byte) : (s.wrByte a b).bwq = s.bwq := rfl
@[simp] theorem wrByte_flash (s : State) (a : Nat) (b : Byte) : (s.wrByte a b).flash = s.flash := rfl
@[simp] theorem wrByte_board (s : State) (a : Nat) (b : Byte) : (s.wrByte a b).board = s.board := rfl
@[simp] theorem wrByte_us (s : State) (a : Nat) (b : Byte) : (s.wrByte a b).us = s.us := rfl
@[simp] theorem wrByte_drawn (s : State) (a : Nat) (b : Byte) : (s.wrByte a b).drawn = s.drawn := rfl
@[simp] theorem wrByte_out (s : State) (a : Nat) (b : Byte) : (s.wrByte a b).out = s.out := rfl
@[simp] theorem wrByte_reg (s : State) (a : Nat) (b : Byte) (k : Nat) : (s.wrByte a b).reg k = s.reg k := rfl
@[simp] theorem wrByte_chan (s : State) (a : Nat) (b : Byte) (st ch : Nat) : (s.wrByte a b).chan st ch = s.chan st ch := rfl
@[simp] theorem wrByte_stack (s : State) (a : Nat) (b : Byte) (st : Nat) : (s.wrByte a b).stack st = s.stack st := rfl
@[simp] theorem wrByte_unit (s : State) (a : Nat) (b : Byte) (u : Nat) : (s.wrByte a b).unit u = s.unit u := rfl
@[simp] theorem wrByte_tile (s : State) (a : Nat) (b : Byte) (t : Nat) : (s.wrByte a b).tile t = s.tile t := rfl
@[simp] theorem wrByte_seq (s : State) (a : Nat) (b : Byte) (d : Nat) : (s.wrByte a b).seq d = s.seq d := rfl
@[simp] theorem wrByte_arb (s : State) (a : Nat) (b : Byte) (d i : Nat) : (s.wrByte a b).arb d i = s.arb d i := rfl
@[simp] theorem wrByte_port (s : State) (a : Nat) (b : Byte) (p : Nat) : (s.wrByte a b).port p = s.port p := rfl
@[simp] theorem wrByte_desc (s : State) (a : Nat) (b : Byte) (h : Nat) : (s.wrByte a b).desc h = s.desc h := rfl
@[simp] theorem wrByte_alloc (s : State) (a : Nat) (b : Byte) (i : Nat) : (s.wrByte a b).alloc i = s.alloc i := rfl
@[simp] theorem wrByte_otab (s : State) (a : Nat) (b : Byte) (i : Nat) : (s.wrByte a b).otab i = s.otab i := rfl
@[simp] theorem wrByte_getF (s : State) (a : Nat) (b : Byte) (q : Nat) (g : RegF) (j : Nat) : getF (s.wrByte a b) q g j = getF s q g j := rfl
@[simp] theorem wrByte_hasEvent (s : State) (a : Nat) (b : Byte) (q j : Nat) : hasEvent (s.wrByte a b) q j = hasEvent s q j := rfl
@[simp] theorem wrMem_pending (s : State) (a : Nat) (l : List Byte) : (s.wrMem a l).pending = s.pending := rfl
@[simp] theorem wrMem_member (s : State) (a : Nat) (l : List Byte) : (s.wrMem a l).member = s.member := rfl
@[simp] theorem wrMem_regs (s : State) (a : Nat) (l : List Byte) : (s.wrMem a l).regs = s.regs := rfl
@[simp] theorem wrMem_disabled (s : State) (a : Nat) (l : List Byte) : (s.wrMem a l).disabled = s.disabled := rfl
@[simp] theorem wrMem_enabled (s : State) (a : Nat) (l : List Byte) : (s.wrMem a l).enabled = s.enabled := rfl
@[simp] theorem wrMem_vecSent (s : State) (a : Nat) (l : List Byte) : (s.wrMem a l).vecSent = s.vecSent := rfl
@[simp] theorem wrMem_vecMask (s : State) (a : Nat) (l : List Byte) : (s.wrMem a l).vecMask = s.vecMask := rfl
@[simp] theorem wrMem_vecPend (s : State) (a : Nat) (l : List Byte) : (s.wrMem a l).vecPend = s.vecPend := rfl
@[simp] theorem wrMem_vecTable (s : State) (a : Nat) (l : List Byte) : (s.wrMem a l).vecTable = s.vecTable := rfl
@[simp] theorem wrMem_funcMask (s : State) (a : Nat) (l : List Byte) : (s.wrMem a l).funcMask = s.funcMask := rfl
@[simp] theorem wrMem_poison (s : State) (a : Nat) (l : List Byte) : (s.wrMem a l).poison = s.poison := rfl
@[simp] theorem wrMem_flips (s : State) (a : Nat) (l : List Byte) : (s.wrMem a l).flips = s.flips := rfl
@[simp] theorem wrMem_slotErrs (s : State) (a : Nat) (l : List Byte) : (s.wrMem a l).slotErrs = s.slotErrs := rfl
@[simp] theorem wrMem_chans (s : State) (a : Nat) (l : List Byte) : (s.wrMem a l).chans = s.chans := rfl
@[simp] theorem wrMem_stackTab (s : State) (a : Nat) (l : List Byte) : (s.wrMem a l).stackTab = s.stackTab := rfl
@[simp] theorem wrMem_units (s : State) (a : Nat) (l : List Byte) : (s.wrMem a l).units = s.units := rfl
@[simp] theorem wrMem_tiles (s : State) (a : Nat) (l : List Byte) : (s.wrMem a l).tiles = s.tiles := rfl
@[simp] theorem wrMem_seqs (s : State) (a : Nat) (l : List Byte) : (s.wrMem a l).seqs = s.seqs := rfl
@[simp] theorem wrMem_imem (s : State) (a : Nat) (l : List Byte) : (s.wrMem a l).imem = s.imem := rfl
@[simp] theorem wrMem_lib (s : State) (a : Nat) (l : List Byte) : (s.wrMem a l).lib = s.lib := rfl
@[simp] theorem wrMem_routines (s : State) (a : Nat) (l : List Byte) : (s.wrMem a l).routines = s.routines := rfl
@[simp] theorem wrMem_descs (s : State) (a : Nat) (l : List Byte) : (s.wrMem a l).descs = s.descs := rfl
@[simp] theorem wrMem_allocs (s : State) (a : Nat) (l : List Byte) : (s.wrMem a l).allocs = s.allocs := rfl
@[simp] theorem wrMem_otabs (s : State) (a : Nat) (l : List Byte) : (s.wrMem a l).otabs = s.otabs := rfl
@[simp] theorem wrMem_descQ (s : State) (a : Nat) (l : List Byte) : (s.wrMem a l).descQ = s.descQ := rfl
@[simp] theorem wrMem_allocQ (s : State) (a : Nat) (l : List Byte) : (s.wrMem a l).allocQ = s.allocQ := rfl
@[simp] theorem wrMem_fetches (s : State) (a : Nat) (l : List Byte) : (s.wrMem a l).fetches = s.fetches := rfl
@[simp] theorem wrMem_nextFetch (s : State) (a : Nat) (l : List Byte) : (s.wrMem a l).nextFetch = s.nextFetch := rfl
@[simp] theorem wrMem_arbs (s : State) (a : Nat) (l : List Byte) : (s.wrMem a l).arbs = s.arbs := rfl
@[simp] theorem wrMem_edges (s : State) (a : Nat) (l : List Byte) : (s.wrMem a l).edges = s.edges := rfl
@[simp] theorem wrMem_ports (s : State) (a : Nat) (l : List Byte) : (s.wrMem a l).ports = s.ports := rfl
@[simp] theorem wrMem_sync (s : State) (a : Nat) (l : List Byte) : (s.wrMem a l).sync = s.sync := rfl
@[simp] theorem wrMem_outReqs (s : State) (a : Nat) (l : List Byte) : (s.wrMem a l).outReqs = s.outReqs := rfl
@[simp] theorem wrMem_inPkts (s : State) (a : Nat) (l : List Byte) : (s.wrMem a l).inPkts = s.inPkts := rfl
@[simp] theorem wrMem_nextIn (s : State) (a : Nat) (l : List Byte) : (s.wrMem a l).nextIn = s.nextIn := rfl
@[simp] theorem wrMem_egress (s : State) (a : Nat) (l : List Byte) : (s.wrMem a l).egress = s.egress := rfl
@[simp] theorem wrMem_cxl (s : State) (a : Nat) (l : List Byte) : (s.wrMem a l).cxl = s.cxl := rfl
@[simp] theorem wrMem_armed (s : State) (a : Nat) (l : List Byte) : (s.wrMem a l).armed = s.armed := rfl
@[simp] theorem wrMem_running (s : State) (a : Nat) (l : List Byte) : (s.wrMem a l).running = s.running := rfl
@[simp] theorem wrMem_ledger (s : State) (a : Nat) (l : List Byte) : (s.wrMem a l).ledger = s.ledger := rfl
@[simp] theorem wrMem_causes (s : State) (a : Nat) (l : List Byte) : (s.wrMem a l).causes = s.causes := rfl
@[simp] theorem wrMem_entries (s : State) (a : Nat) (l : List Byte) : (s.wrMem a l).entries = s.entries := rfl
@[simp] theorem wrMem_entry (s : State) (a : Nat) (l : List Byte) : (s.wrMem a l).entry = s.entry := rfl
@[simp] theorem wrMem_history (s : State) (a : Nat) (l : List Byte) : (s.wrMem a l).history = s.history := rfl
@[simp] theorem wrMem_clearDesc (s : State) (a : Nat) (l : List Byte) : (s.wrMem a l).clearDesc = s.clearDesc := rfl
@[simp] theorem wrMem_fenceFlushed (s : State) (a : Nat) (l : List Byte) : (s.wrMem a l).fenceFlushed = s.fenceFlushed := rfl
@[simp] theorem wrMem_kicks (s : State) (a : Nat) (l : List Byte) : (s.wrMem a l).kicks = s.kicks := rfl
@[simp] theorem wrMem_uzoids (s : State) (a : Nat) (l : List Byte) : (s.wrMem a l).uzoids = s.uzoids := rfl
@[simp] theorem wrMem_restarting (s : State) (a : Nat) (l : List Byte) : (s.wrMem a l).restarting = s.restarting := rfl
@[simp] theorem wrMem_bwq (s : State) (a : Nat) (l : List Byte) : (s.wrMem a l).bwq = s.bwq := rfl
@[simp] theorem wrMem_flash (s : State) (a : Nat) (l : List Byte) : (s.wrMem a l).flash = s.flash := rfl
@[simp] theorem wrMem_board (s : State) (a : Nat) (l : List Byte) : (s.wrMem a l).board = s.board := rfl
@[simp] theorem wrMem_us (s : State) (a : Nat) (l : List Byte) : (s.wrMem a l).us = s.us := rfl
@[simp] theorem wrMem_drawn (s : State) (a : Nat) (l : List Byte) : (s.wrMem a l).drawn = s.drawn := rfl
@[simp] theorem wrMem_out (s : State) (a : Nat) (l : List Byte) : (s.wrMem a l).out = s.out := rfl
@[simp] theorem wrMem_reg (s : State) (a : Nat) (l : List Byte) (k : Nat) : (s.wrMem a l).reg k = s.reg k := rfl
@[simp] theorem wrMem_chan (s : State) (a : Nat) (l : List Byte) (st ch : Nat) : (s.wrMem a l).chan st ch = s.chan st ch := rfl
@[simp] theorem wrMem_stack (s : State) (a : Nat) (l : List Byte) (st : Nat) : (s.wrMem a l).stack st = s.stack st := rfl
@[simp] theorem wrMem_unit (s : State) (a : Nat) (l : List Byte) (u : Nat) : (s.wrMem a l).unit u = s.unit u := rfl
@[simp] theorem wrMem_tile (s : State) (a : Nat) (l : List Byte) (t : Nat) : (s.wrMem a l).tile t = s.tile t := rfl
@[simp] theorem wrMem_seq (s : State) (a : Nat) (l : List Byte) (d : Nat) : (s.wrMem a l).seq d = s.seq d := rfl
@[simp] theorem wrMem_arb (s : State) (a : Nat) (l : List Byte) (d i : Nat) : (s.wrMem a l).arb d i = s.arb d i := rfl
@[simp] theorem wrMem_port (s : State) (a : Nat) (l : List Byte) (p : Nat) : (s.wrMem a l).port p = s.port p := rfl
@[simp] theorem wrMem_desc (s : State) (a : Nat) (l : List Byte) (h : Nat) : (s.wrMem a l).desc h = s.desc h := rfl
@[simp] theorem wrMem_alloc (s : State) (a : Nat) (l : List Byte) (i : Nat) : (s.wrMem a l).alloc i = s.alloc i := rfl
@[simp] theorem wrMem_otab (s : State) (a : Nat) (l : List Byte) (i : Nat) : (s.wrMem a l).otab i = s.otab i := rfl
@[simp] theorem wrMem_getF (s : State) (a : Nat) (l : List Byte) (q : Nat) (g : RegF) (j : Nat) : getF (s.wrMem a l) q g j = getF s q g j := rfl
@[simp] theorem wrMem_hasEvent (s : State) (a : Nat) (l : List Byte) (q j : Nat) : hasEvent (s.wrMem a l) q j = hasEvent s q j := rfl
@[simp] theorem wrMemOpt_pending (s : State) (a : Nat) (l : List (Option Byte)) : (s.wrMemOpt a l).pending = s.pending := rfl
@[simp] theorem wrMemOpt_member (s : State) (a : Nat) (l : List (Option Byte)) : (s.wrMemOpt a l).member = s.member := rfl
@[simp] theorem wrMemOpt_regs (s : State) (a : Nat) (l : List (Option Byte)) : (s.wrMemOpt a l).regs = s.regs := rfl
@[simp] theorem wrMemOpt_disabled (s : State) (a : Nat) (l : List (Option Byte)) : (s.wrMemOpt a l).disabled = s.disabled := rfl
@[simp] theorem wrMemOpt_enabled (s : State) (a : Nat) (l : List (Option Byte)) : (s.wrMemOpt a l).enabled = s.enabled := rfl
@[simp] theorem wrMemOpt_vecSent (s : State) (a : Nat) (l : List (Option Byte)) : (s.wrMemOpt a l).vecSent = s.vecSent := rfl
@[simp] theorem wrMemOpt_vecMask (s : State) (a : Nat) (l : List (Option Byte)) : (s.wrMemOpt a l).vecMask = s.vecMask := rfl
@[simp] theorem wrMemOpt_vecPend (s : State) (a : Nat) (l : List (Option Byte)) : (s.wrMemOpt a l).vecPend = s.vecPend := rfl
@[simp] theorem wrMemOpt_vecTable (s : State) (a : Nat) (l : List (Option Byte)) : (s.wrMemOpt a l).vecTable = s.vecTable := rfl
@[simp] theorem wrMemOpt_funcMask (s : State) (a : Nat) (l : List (Option Byte)) : (s.wrMemOpt a l).funcMask = s.funcMask := rfl
@[simp] theorem wrMemOpt_poison (s : State) (a : Nat) (l : List (Option Byte)) : (s.wrMemOpt a l).poison = s.poison := rfl
@[simp] theorem wrMemOpt_flips (s : State) (a : Nat) (l : List (Option Byte)) : (s.wrMemOpt a l).flips = s.flips := rfl
@[simp] theorem wrMemOpt_slotErrs (s : State) (a : Nat) (l : List (Option Byte)) : (s.wrMemOpt a l).slotErrs = s.slotErrs := rfl
@[simp] theorem wrMemOpt_chans (s : State) (a : Nat) (l : List (Option Byte)) : (s.wrMemOpt a l).chans = s.chans := rfl
@[simp] theorem wrMemOpt_stackTab (s : State) (a : Nat) (l : List (Option Byte)) : (s.wrMemOpt a l).stackTab = s.stackTab := rfl
@[simp] theorem wrMemOpt_units (s : State) (a : Nat) (l : List (Option Byte)) : (s.wrMemOpt a l).units = s.units := rfl
@[simp] theorem wrMemOpt_tiles (s : State) (a : Nat) (l : List (Option Byte)) : (s.wrMemOpt a l).tiles = s.tiles := rfl
@[simp] theorem wrMemOpt_seqs (s : State) (a : Nat) (l : List (Option Byte)) : (s.wrMemOpt a l).seqs = s.seqs := rfl
@[simp] theorem wrMemOpt_imem (s : State) (a : Nat) (l : List (Option Byte)) : (s.wrMemOpt a l).imem = s.imem := rfl
@[simp] theorem wrMemOpt_lib (s : State) (a : Nat) (l : List (Option Byte)) : (s.wrMemOpt a l).lib = s.lib := rfl
@[simp] theorem wrMemOpt_routines (s : State) (a : Nat) (l : List (Option Byte)) : (s.wrMemOpt a l).routines = s.routines := rfl
@[simp] theorem wrMemOpt_descs (s : State) (a : Nat) (l : List (Option Byte)) : (s.wrMemOpt a l).descs = s.descs := rfl
@[simp] theorem wrMemOpt_allocs (s : State) (a : Nat) (l : List (Option Byte)) : (s.wrMemOpt a l).allocs = s.allocs := rfl
@[simp] theorem wrMemOpt_otabs (s : State) (a : Nat) (l : List (Option Byte)) : (s.wrMemOpt a l).otabs = s.otabs := rfl
@[simp] theorem wrMemOpt_descQ (s : State) (a : Nat) (l : List (Option Byte)) : (s.wrMemOpt a l).descQ = s.descQ := rfl
@[simp] theorem wrMemOpt_allocQ (s : State) (a : Nat) (l : List (Option Byte)) : (s.wrMemOpt a l).allocQ = s.allocQ := rfl
@[simp] theorem wrMemOpt_fetches (s : State) (a : Nat) (l : List (Option Byte)) : (s.wrMemOpt a l).fetches = s.fetches := rfl
@[simp] theorem wrMemOpt_nextFetch (s : State) (a : Nat) (l : List (Option Byte)) : (s.wrMemOpt a l).nextFetch = s.nextFetch := rfl
@[simp] theorem wrMemOpt_arbs (s : State) (a : Nat) (l : List (Option Byte)) : (s.wrMemOpt a l).arbs = s.arbs := rfl
@[simp] theorem wrMemOpt_edges (s : State) (a : Nat) (l : List (Option Byte)) : (s.wrMemOpt a l).edges = s.edges := rfl
@[simp] theorem wrMemOpt_ports (s : State) (a : Nat) (l : List (Option Byte)) : (s.wrMemOpt a l).ports = s.ports := rfl
@[simp] theorem wrMemOpt_sync (s : State) (a : Nat) (l : List (Option Byte)) : (s.wrMemOpt a l).sync = s.sync := rfl
@[simp] theorem wrMemOpt_outReqs (s : State) (a : Nat) (l : List (Option Byte)) : (s.wrMemOpt a l).outReqs = s.outReqs := rfl
@[simp] theorem wrMemOpt_inPkts (s : State) (a : Nat) (l : List (Option Byte)) : (s.wrMemOpt a l).inPkts = s.inPkts := rfl
@[simp] theorem wrMemOpt_nextIn (s : State) (a : Nat) (l : List (Option Byte)) : (s.wrMemOpt a l).nextIn = s.nextIn := rfl
@[simp] theorem wrMemOpt_egress (s : State) (a : Nat) (l : List (Option Byte)) : (s.wrMemOpt a l).egress = s.egress := rfl
@[simp] theorem wrMemOpt_cxl (s : State) (a : Nat) (l : List (Option Byte)) : (s.wrMemOpt a l).cxl = s.cxl := rfl
@[simp] theorem wrMemOpt_armed (s : State) (a : Nat) (l : List (Option Byte)) : (s.wrMemOpt a l).armed = s.armed := rfl
@[simp] theorem wrMemOpt_running (s : State) (a : Nat) (l : List (Option Byte)) : (s.wrMemOpt a l).running = s.running := rfl
@[simp] theorem wrMemOpt_ledger (s : State) (a : Nat) (l : List (Option Byte)) : (s.wrMemOpt a l).ledger = s.ledger := rfl
@[simp] theorem wrMemOpt_causes (s : State) (a : Nat) (l : List (Option Byte)) : (s.wrMemOpt a l).causes = s.causes := rfl
@[simp] theorem wrMemOpt_entries (s : State) (a : Nat) (l : List (Option Byte)) : (s.wrMemOpt a l).entries = s.entries := rfl
@[simp] theorem wrMemOpt_entry (s : State) (a : Nat) (l : List (Option Byte)) : (s.wrMemOpt a l).entry = s.entry := rfl
@[simp] theorem wrMemOpt_history (s : State) (a : Nat) (l : List (Option Byte)) : (s.wrMemOpt a l).history = s.history := rfl
@[simp] theorem wrMemOpt_clearDesc (s : State) (a : Nat) (l : List (Option Byte)) : (s.wrMemOpt a l).clearDesc = s.clearDesc := rfl
@[simp] theorem wrMemOpt_fenceFlushed (s : State) (a : Nat) (l : List (Option Byte)) : (s.wrMemOpt a l).fenceFlushed = s.fenceFlushed := rfl
@[simp] theorem wrMemOpt_kicks (s : State) (a : Nat) (l : List (Option Byte)) : (s.wrMemOpt a l).kicks = s.kicks := rfl
@[simp] theorem wrMemOpt_uzoids (s : State) (a : Nat) (l : List (Option Byte)) : (s.wrMemOpt a l).uzoids = s.uzoids := rfl
@[simp] theorem wrMemOpt_restarting (s : State) (a : Nat) (l : List (Option Byte)) : (s.wrMemOpt a l).restarting = s.restarting := rfl
@[simp] theorem wrMemOpt_bwq (s : State) (a : Nat) (l : List (Option Byte)) : (s.wrMemOpt a l).bwq = s.bwq := rfl
@[simp] theorem wrMemOpt_flash (s : State) (a : Nat) (l : List (Option Byte)) : (s.wrMemOpt a l).flash = s.flash := rfl
@[simp] theorem wrMemOpt_board (s : State) (a : Nat) (l : List (Option Byte)) : (s.wrMemOpt a l).board = s.board := rfl
@[simp] theorem wrMemOpt_us (s : State) (a : Nat) (l : List (Option Byte)) : (s.wrMemOpt a l).us = s.us := rfl
@[simp] theorem wrMemOpt_drawn (s : State) (a : Nat) (l : List (Option Byte)) : (s.wrMemOpt a l).drawn = s.drawn := rfl
@[simp] theorem wrMemOpt_out (s : State) (a : Nat) (l : List (Option Byte)) : (s.wrMemOpt a l).out = s.out := rfl
@[simp] theorem wrMemOpt_reg (s : State) (a : Nat) (l : List (Option Byte)) (k : Nat) : (s.wrMemOpt a l).reg k = s.reg k := rfl
@[simp] theorem wrMemOpt_chan (s : State) (a : Nat) (l : List (Option Byte)) (st ch : Nat) : (s.wrMemOpt a l).chan st ch = s.chan st ch := rfl
@[simp] theorem wrMemOpt_stack (s : State) (a : Nat) (l : List (Option Byte)) (st : Nat) : (s.wrMemOpt a l).stack st = s.stack st := rfl
@[simp] theorem wrMemOpt_unit (s : State) (a : Nat) (l : List (Option Byte)) (u : Nat) : (s.wrMemOpt a l).unit u = s.unit u := rfl
@[simp] theorem wrMemOpt_tile (s : State) (a : Nat) (l : List (Option Byte)) (t : Nat) : (s.wrMemOpt a l).tile t = s.tile t := rfl
@[simp] theorem wrMemOpt_seq (s : State) (a : Nat) (l : List (Option Byte)) (d : Nat) : (s.wrMemOpt a l).seq d = s.seq d := rfl
@[simp] theorem wrMemOpt_arb (s : State) (a : Nat) (l : List (Option Byte)) (d i : Nat) : (s.wrMemOpt a l).arb d i = s.arb d i := rfl
@[simp] theorem wrMemOpt_port (s : State) (a : Nat) (l : List (Option Byte)) (p : Nat) : (s.wrMemOpt a l).port p = s.port p := rfl
@[simp] theorem wrMemOpt_desc (s : State) (a : Nat) (l : List (Option Byte)) (h : Nat) : (s.wrMemOpt a l).desc h = s.desc h := rfl
@[simp] theorem wrMemOpt_alloc (s : State) (a : Nat) (l : List (Option Byte)) (i : Nat) : (s.wrMemOpt a l).alloc i = s.alloc i := rfl
@[simp] theorem wrMemOpt_otab (s : State) (a : Nat) (l : List (Option Byte)) (i : Nat) : (s.wrMemOpt a l).otab i = s.otab i := rfl
@[simp] theorem wrMemOpt_getF (s : State) (a : Nat) (l : List (Option Byte)) (q : Nat) (g : RegF) (j : Nat) : getF (s.wrMemOpt a l) q g j = getF s q g j := rfl
@[simp] theorem wrMemOpt_hasEvent (s : State) (a : Nat) (l : List (Option Byte)) (q j : Nat) : hasEvent (s.wrMemOpt a l) q j = hasEvent s q j := rfl
@[simp] theorem dropMem_pending (s : State) (q0 : Nat → Bool) : (s.dropMem q0).pending = s.pending := rfl
@[simp] theorem dropMem_member (s : State) (q0 : Nat → Bool) : (s.dropMem q0).member = s.member := rfl
@[simp] theorem dropMem_regs (s : State) (q0 : Nat → Bool) : (s.dropMem q0).regs = s.regs := rfl
@[simp] theorem dropMem_disabled (s : State) (q0 : Nat → Bool) : (s.dropMem q0).disabled = s.disabled := rfl
@[simp] theorem dropMem_enabled (s : State) (q0 : Nat → Bool) : (s.dropMem q0).enabled = s.enabled := rfl
@[simp] theorem dropMem_vecSent (s : State) (q0 : Nat → Bool) : (s.dropMem q0).vecSent = s.vecSent := rfl
@[simp] theorem dropMem_vecMask (s : State) (q0 : Nat → Bool) : (s.dropMem q0).vecMask = s.vecMask := rfl
@[simp] theorem dropMem_vecPend (s : State) (q0 : Nat → Bool) : (s.dropMem q0).vecPend = s.vecPend := rfl
@[simp] theorem dropMem_vecTable (s : State) (q0 : Nat → Bool) : (s.dropMem q0).vecTable = s.vecTable := rfl
@[simp] theorem dropMem_funcMask (s : State) (q0 : Nat → Bool) : (s.dropMem q0).funcMask = s.funcMask := rfl
@[simp] theorem dropMem_poison (s : State) (q0 : Nat → Bool) : (s.dropMem q0).poison = s.poison := rfl
@[simp] theorem dropMem_flips (s : State) (q0 : Nat → Bool) : (s.dropMem q0).flips = s.flips := rfl
@[simp] theorem dropMem_slotErrs (s : State) (q0 : Nat → Bool) : (s.dropMem q0).slotErrs = s.slotErrs := rfl
@[simp] theorem dropMem_chans (s : State) (q0 : Nat → Bool) : (s.dropMem q0).chans = s.chans := rfl
@[simp] theorem dropMem_stackTab (s : State) (q0 : Nat → Bool) : (s.dropMem q0).stackTab = s.stackTab := rfl
@[simp] theorem dropMem_units (s : State) (q0 : Nat → Bool) : (s.dropMem q0).units = s.units := rfl
@[simp] theorem dropMem_tiles (s : State) (q0 : Nat → Bool) : (s.dropMem q0).tiles = s.tiles := rfl
@[simp] theorem dropMem_seqs (s : State) (q0 : Nat → Bool) : (s.dropMem q0).seqs = s.seqs := rfl
@[simp] theorem dropMem_imem (s : State) (q0 : Nat → Bool) : (s.dropMem q0).imem = s.imem := rfl
@[simp] theorem dropMem_lib (s : State) (q0 : Nat → Bool) : (s.dropMem q0).lib = s.lib := rfl
@[simp] theorem dropMem_routines (s : State) (q0 : Nat → Bool) : (s.dropMem q0).routines = s.routines := rfl
@[simp] theorem dropMem_descs (s : State) (q0 : Nat → Bool) : (s.dropMem q0).descs = s.descs := rfl
@[simp] theorem dropMem_allocs (s : State) (q0 : Nat → Bool) : (s.dropMem q0).allocs = s.allocs := rfl
@[simp] theorem dropMem_otabs (s : State) (q0 : Nat → Bool) : (s.dropMem q0).otabs = s.otabs := rfl
@[simp] theorem dropMem_descQ (s : State) (q0 : Nat → Bool) : (s.dropMem q0).descQ = s.descQ := rfl
@[simp] theorem dropMem_allocQ (s : State) (q0 : Nat → Bool) : (s.dropMem q0).allocQ = s.allocQ := rfl
@[simp] theorem dropMem_fetches (s : State) (q0 : Nat → Bool) : (s.dropMem q0).fetches = s.fetches := rfl
@[simp] theorem dropMem_nextFetch (s : State) (q0 : Nat → Bool) : (s.dropMem q0).nextFetch = s.nextFetch := rfl
@[simp] theorem dropMem_arbs (s : State) (q0 : Nat → Bool) : (s.dropMem q0).arbs = s.arbs := rfl
@[simp] theorem dropMem_edges (s : State) (q0 : Nat → Bool) : (s.dropMem q0).edges = s.edges := rfl
@[simp] theorem dropMem_ports (s : State) (q0 : Nat → Bool) : (s.dropMem q0).ports = s.ports := rfl
@[simp] theorem dropMem_sync (s : State) (q0 : Nat → Bool) : (s.dropMem q0).sync = s.sync := rfl
@[simp] theorem dropMem_outReqs (s : State) (q0 : Nat → Bool) : (s.dropMem q0).outReqs = s.outReqs := rfl
@[simp] theorem dropMem_inPkts (s : State) (q0 : Nat → Bool) : (s.dropMem q0).inPkts = s.inPkts := rfl
@[simp] theorem dropMem_nextIn (s : State) (q0 : Nat → Bool) : (s.dropMem q0).nextIn = s.nextIn := rfl
@[simp] theorem dropMem_egress (s : State) (q0 : Nat → Bool) : (s.dropMem q0).egress = s.egress := rfl
@[simp] theorem dropMem_cxl (s : State) (q0 : Nat → Bool) : (s.dropMem q0).cxl = s.cxl := rfl
@[simp] theorem dropMem_armed (s : State) (q0 : Nat → Bool) : (s.dropMem q0).armed = s.armed := rfl
@[simp] theorem dropMem_running (s : State) (q0 : Nat → Bool) : (s.dropMem q0).running = s.running := rfl
@[simp] theorem dropMem_ledger (s : State) (q0 : Nat → Bool) : (s.dropMem q0).ledger = s.ledger := rfl
@[simp] theorem dropMem_causes (s : State) (q0 : Nat → Bool) : (s.dropMem q0).causes = s.causes := rfl
@[simp] theorem dropMem_entries (s : State) (q0 : Nat → Bool) : (s.dropMem q0).entries = s.entries := rfl
@[simp] theorem dropMem_entry (s : State) (q0 : Nat → Bool) : (s.dropMem q0).entry = s.entry := rfl
@[simp] theorem dropMem_history (s : State) (q0 : Nat → Bool) : (s.dropMem q0).history = s.history := rfl
@[simp] theorem dropMem_clearDesc (s : State) (q0 : Nat → Bool) : (s.dropMem q0).clearDesc = s.clearDesc := rfl
@[simp] theorem dropMem_fenceFlushed (s : State) (q0 : Nat → Bool) : (s.dropMem q0).fenceFlushed = s.fenceFlushed := rfl
@[simp] theorem dropMem_kicks (s : State) (q0 : Nat → Bool) : (s.dropMem q0).kicks = s.kicks := rfl
@[simp] theorem dropMem_uzoids (s : State) (q0 : Nat → Bool) : (s.dropMem q0).uzoids = s.uzoids := rfl
@[simp] theorem dropMem_restarting (s : State) (q0 : Nat → Bool) : (s.dropMem q0).restarting = s.restarting := rfl
@[simp] theorem dropMem_bwq (s : State) (q0 : Nat → Bool) : (s.dropMem q0).bwq = s.bwq := rfl
@[simp] theorem dropMem_flash (s : State) (q0 : Nat → Bool) : (s.dropMem q0).flash = s.flash := rfl
@[simp] theorem dropMem_board (s : State) (q0 : Nat → Bool) : (s.dropMem q0).board = s.board := rfl
@[simp] theorem dropMem_us (s : State) (q0 : Nat → Bool) : (s.dropMem q0).us = s.us := rfl
@[simp] theorem dropMem_drawn (s : State) (q0 : Nat → Bool) : (s.dropMem q0).drawn = s.drawn := rfl
@[simp] theorem dropMem_out (s : State) (q0 : Nat → Bool) : (s.dropMem q0).out = s.out := rfl
@[simp] theorem dropMem_reg (s : State) (q0 : Nat → Bool) (k : Nat) : (s.dropMem q0).reg k = s.reg k := rfl
@[simp] theorem dropMem_chan (s : State) (q0 : Nat → Bool) (st ch : Nat) : (s.dropMem q0).chan st ch = s.chan st ch := rfl
@[simp] theorem dropMem_stack (s : State) (q0 : Nat → Bool) (st : Nat) : (s.dropMem q0).stack st = s.stack st := rfl
@[simp] theorem dropMem_unit (s : State) (q0 : Nat → Bool) (u : Nat) : (s.dropMem q0).unit u = s.unit u := rfl
@[simp] theorem dropMem_tile (s : State) (q0 : Nat → Bool) (t : Nat) : (s.dropMem q0).tile t = s.tile t := rfl
@[simp] theorem dropMem_seq (s : State) (q0 : Nat → Bool) (d : Nat) : (s.dropMem q0).seq d = s.seq d := rfl
@[simp] theorem dropMem_arb (s : State) (q0 : Nat → Bool) (d i : Nat) : (s.dropMem q0).arb d i = s.arb d i := rfl
@[simp] theorem dropMem_port (s : State) (q0 : Nat → Bool) (p : Nat) : (s.dropMem q0).port p = s.port p := rfl
@[simp] theorem dropMem_desc (s : State) (q0 : Nat → Bool) (h : Nat) : (s.dropMem q0).desc h = s.desc h := rfl
@[simp] theorem dropMem_alloc (s : State) (q0 : Nat → Bool) (i : Nat) : (s.dropMem q0).alloc i = s.alloc i := rfl
@[simp] theorem dropMem_otab (s : State) (q0 : Nat → Bool) (i : Nat) : (s.dropMem q0).otab i = s.otab i := rfl
@[simp] theorem dropMem_getF (s : State) (q0 : Nat → Bool) (q : Nat) (g : RegF) (j : Nat) : getF (s.dropMem q0) q g j = getF s q g j := rfl
@[simp] theorem dropMem_hasEvent (s : State) (q0 : Nat → Bool) (q j : Nat) : hasEvent (s.dropMem q0) q j = hasEvent s q j := rfl
@[simp] theorem clrMem_pending (s : State) (a n : Nat) : (s.clrMem a n).pending = s.pending := rfl
@[simp] theorem clrMem_member (s : State) (a n : Nat) : (s.clrMem a n).member = s.member := rfl
@[simp] theorem clrMem_regs (s : State) (a n : Nat) : (s.clrMem a n).regs = s.regs := rfl
@[simp] theorem clrMem_disabled (s : State) (a n : Nat) : (s.clrMem a n).disabled = s.disabled := rfl
@[simp] theorem clrMem_enabled (s : State) (a n : Nat) : (s.clrMem a n).enabled = s.enabled := rfl
@[simp] theorem clrMem_vecSent (s : State) (a n : Nat) : (s.clrMem a n).vecSent = s.vecSent := rfl
@[simp] theorem clrMem_vecMask (s : State) (a n : Nat) : (s.clrMem a n).vecMask = s.vecMask := rfl
@[simp] theorem clrMem_vecPend (s : State) (a n : Nat) : (s.clrMem a n).vecPend = s.vecPend := rfl
@[simp] theorem clrMem_vecTable (s : State) (a n : Nat) : (s.clrMem a n).vecTable = s.vecTable := rfl
@[simp] theorem clrMem_funcMask (s : State) (a n : Nat) : (s.clrMem a n).funcMask = s.funcMask := rfl
@[simp] theorem clrMem_poison (s : State) (a n : Nat) : (s.clrMem a n).poison = s.poison := rfl
@[simp] theorem clrMem_flips (s : State) (a n : Nat) : (s.clrMem a n).flips = s.flips := rfl
@[simp] theorem clrMem_slotErrs (s : State) (a n : Nat) : (s.clrMem a n).slotErrs = s.slotErrs := rfl
@[simp] theorem clrMem_chans (s : State) (a n : Nat) : (s.clrMem a n).chans = s.chans := rfl
@[simp] theorem clrMem_stackTab (s : State) (a n : Nat) : (s.clrMem a n).stackTab = s.stackTab := rfl
@[simp] theorem clrMem_units (s : State) (a n : Nat) : (s.clrMem a n).units = s.units := rfl
@[simp] theorem clrMem_tiles (s : State) (a n : Nat) : (s.clrMem a n).tiles = s.tiles := rfl
@[simp] theorem clrMem_seqs (s : State) (a n : Nat) : (s.clrMem a n).seqs = s.seqs := rfl
@[simp] theorem clrMem_imem (s : State) (a n : Nat) : (s.clrMem a n).imem = s.imem := rfl
@[simp] theorem clrMem_lib (s : State) (a n : Nat) : (s.clrMem a n).lib = s.lib := rfl
@[simp] theorem clrMem_routines (s : State) (a n : Nat) : (s.clrMem a n).routines = s.routines := rfl
@[simp] theorem clrMem_descs (s : State) (a n : Nat) : (s.clrMem a n).descs = s.descs := rfl
@[simp] theorem clrMem_allocs (s : State) (a n : Nat) : (s.clrMem a n).allocs = s.allocs := rfl
@[simp] theorem clrMem_otabs (s : State) (a n : Nat) : (s.clrMem a n).otabs = s.otabs := rfl
@[simp] theorem clrMem_descQ (s : State) (a n : Nat) : (s.clrMem a n).descQ = s.descQ := rfl
@[simp] theorem clrMem_allocQ (s : State) (a n : Nat) : (s.clrMem a n).allocQ = s.allocQ := rfl
@[simp] theorem clrMem_fetches (s : State) (a n : Nat) : (s.clrMem a n).fetches = s.fetches := rfl
@[simp] theorem clrMem_nextFetch (s : State) (a n : Nat) : (s.clrMem a n).nextFetch = s.nextFetch := rfl
@[simp] theorem clrMem_arbs (s : State) (a n : Nat) : (s.clrMem a n).arbs = s.arbs := rfl
@[simp] theorem clrMem_edges (s : State) (a n : Nat) : (s.clrMem a n).edges = s.edges := rfl
@[simp] theorem clrMem_ports (s : State) (a n : Nat) : (s.clrMem a n).ports = s.ports := rfl
@[simp] theorem clrMem_sync (s : State) (a n : Nat) : (s.clrMem a n).sync = s.sync := rfl
@[simp] theorem clrMem_outReqs (s : State) (a n : Nat) : (s.clrMem a n).outReqs = s.outReqs := rfl
@[simp] theorem clrMem_inPkts (s : State) (a n : Nat) : (s.clrMem a n).inPkts = s.inPkts := rfl
@[simp] theorem clrMem_nextIn (s : State) (a n : Nat) : (s.clrMem a n).nextIn = s.nextIn := rfl
@[simp] theorem clrMem_egress (s : State) (a n : Nat) : (s.clrMem a n).egress = s.egress := rfl
@[simp] theorem clrMem_cxl (s : State) (a n : Nat) : (s.clrMem a n).cxl = s.cxl := rfl
@[simp] theorem clrMem_armed (s : State) (a n : Nat) : (s.clrMem a n).armed = s.armed := rfl
@[simp] theorem clrMem_running (s : State) (a n : Nat) : (s.clrMem a n).running = s.running := rfl
@[simp] theorem clrMem_ledger (s : State) (a n : Nat) : (s.clrMem a n).ledger = s.ledger := rfl
@[simp] theorem clrMem_causes (s : State) (a n : Nat) : (s.clrMem a n).causes = s.causes := rfl
@[simp] theorem clrMem_entries (s : State) (a n : Nat) : (s.clrMem a n).entries = s.entries := rfl
@[simp] theorem clrMem_entry (s : State) (a n : Nat) : (s.clrMem a n).entry = s.entry := rfl
@[simp] theorem clrMem_history (s : State) (a n : Nat) : (s.clrMem a n).history = s.history := rfl
@[simp] theorem clrMem_clearDesc (s : State) (a n : Nat) : (s.clrMem a n).clearDesc = s.clearDesc := rfl
@[simp] theorem clrMem_fenceFlushed (s : State) (a n : Nat) : (s.clrMem a n).fenceFlushed = s.fenceFlushed := rfl
@[simp] theorem clrMem_kicks (s : State) (a n : Nat) : (s.clrMem a n).kicks = s.kicks := rfl
@[simp] theorem clrMem_uzoids (s : State) (a n : Nat) : (s.clrMem a n).uzoids = s.uzoids := rfl
@[simp] theorem clrMem_restarting (s : State) (a n : Nat) : (s.clrMem a n).restarting = s.restarting := rfl
@[simp] theorem clrMem_bwq (s : State) (a n : Nat) : (s.clrMem a n).bwq = s.bwq := rfl
@[simp] theorem clrMem_flash (s : State) (a n : Nat) : (s.clrMem a n).flash = s.flash := rfl
@[simp] theorem clrMem_board (s : State) (a n : Nat) : (s.clrMem a n).board = s.board := rfl
@[simp] theorem clrMem_us (s : State) (a n : Nat) : (s.clrMem a n).us = s.us := rfl
@[simp] theorem clrMem_drawn (s : State) (a n : Nat) : (s.clrMem a n).drawn = s.drawn := rfl
@[simp] theorem clrMem_out (s : State) (a n : Nat) : (s.clrMem a n).out = s.out := rfl
@[simp] theorem clrMem_reg (s : State) (a n : Nat) (k : Nat) : (s.clrMem a n).reg k = s.reg k := rfl
@[simp] theorem clrMem_chan (s : State) (a n : Nat) (st ch : Nat) : (s.clrMem a n).chan st ch = s.chan st ch := rfl
@[simp] theorem clrMem_stack (s : State) (a n : Nat) (st : Nat) : (s.clrMem a n).stack st = s.stack st := rfl
@[simp] theorem clrMem_unit (s : State) (a n : Nat) (u : Nat) : (s.clrMem a n).unit u = s.unit u := rfl
@[simp] theorem clrMem_tile (s : State) (a n : Nat) (t : Nat) : (s.clrMem a n).tile t = s.tile t := rfl
@[simp] theorem clrMem_seq (s : State) (a n : Nat) (d : Nat) : (s.clrMem a n).seq d = s.seq d := rfl
@[simp] theorem clrMem_arb (s : State) (a n : Nat) (d i : Nat) : (s.clrMem a n).arb d i = s.arb d i := rfl
@[simp] theorem clrMem_port (s : State) (a n : Nat) (p : Nat) : (s.clrMem a n).port p = s.port p := rfl
@[simp] theorem clrMem_desc (s : State) (a n : Nat) (h : Nat) : (s.clrMem a n).desc h = s.desc h := rfl
@[simp] theorem clrMem_alloc (s : State) (a n : Nat) (i : Nat) : (s.clrMem a n).alloc i = s.alloc i := rfl
@[simp] theorem clrMem_otab (s : State) (a n : Nat) (i : Nat) : (s.clrMem a n).otab i = s.otab i := rfl
@[simp] theorem clrMem_getF (s : State) (a n : Nat) (q : Nat) (g : RegF) (j : Nat) : getF (s.clrMem a n) q g j = getF s q g j := rfl
@[simp] theorem clrMem_hasEvent (s : State) (a n : Nat) (q j : Nat) : hasEvent (s.clrMem a n) q j = hasEvent s q j := rfl
@[simp] theorem setPoison_pending (s : State) (a : Nat) (on : Bool) : (s.setPoison a on).pending = s.pending := rfl
@[simp] theorem setPoison_member (s : State) (a : Nat) (on : Bool) : (s.setPoison a on).member = s.member := rfl
@[simp] theorem setPoison_regs (s : State) (a : Nat) (on : Bool) : (s.setPoison a on).regs = s.regs := rfl
@[simp] theorem setPoison_disabled (s : State) (a : Nat) (on : Bool) : (s.setPoison a on).disabled = s.disabled := rfl
@[simp] theorem setPoison_enabled (s : State) (a : Nat) (on : Bool) : (s.setPoison a on).enabled = s.enabled := rfl
@[simp] theorem setPoison_vecSent (s : State) (a : Nat) (on : Bool) : (s.setPoison a on).vecSent = s.vecSent := rfl
@[simp] theorem setPoison_vecMask (s : State) (a : Nat) (on : Bool) : (s.setPoison a on).vecMask = s.vecMask := rfl
@[simp] theorem setPoison_vecPend (s : State) (a : Nat) (on : Bool) : (s.setPoison a on).vecPend = s.vecPend := rfl
@[simp] theorem setPoison_vecTable (s : State) (a : Nat) (on : Bool) : (s.setPoison a on).vecTable = s.vecTable := rfl
@[simp] theorem setPoison_funcMask (s : State) (a : Nat) (on : Bool) : (s.setPoison a on).funcMask = s.funcMask := rfl
@[simp] theorem setPoison_mem (s : State) (a : Nat) (on : Bool) : (s.setPoison a on).mem = s.mem := rfl
@[simp] theorem setPoison_flips (s : State) (a : Nat) (on : Bool) : (s.setPoison a on).flips = s.flips := rfl
@[simp] theorem setPoison_slotErrs (s : State) (a : Nat) (on : Bool) : (s.setPoison a on).slotErrs = s.slotErrs := rfl
@[simp] theorem setPoison_chans (s : State) (a : Nat) (on : Bool) : (s.setPoison a on).chans = s.chans := rfl
@[simp] theorem setPoison_stackTab (s : State) (a : Nat) (on : Bool) : (s.setPoison a on).stackTab = s.stackTab := rfl
@[simp] theorem setPoison_units (s : State) (a : Nat) (on : Bool) : (s.setPoison a on).units = s.units := rfl
@[simp] theorem setPoison_tiles (s : State) (a : Nat) (on : Bool) : (s.setPoison a on).tiles = s.tiles := rfl
@[simp] theorem setPoison_seqs (s : State) (a : Nat) (on : Bool) : (s.setPoison a on).seqs = s.seqs := rfl
@[simp] theorem setPoison_imem (s : State) (a : Nat) (on : Bool) : (s.setPoison a on).imem = s.imem := rfl
@[simp] theorem setPoison_lib (s : State) (a : Nat) (on : Bool) : (s.setPoison a on).lib = s.lib := rfl
@[simp] theorem setPoison_routines (s : State) (a : Nat) (on : Bool) : (s.setPoison a on).routines = s.routines := rfl
@[simp] theorem setPoison_descs (s : State) (a : Nat) (on : Bool) : (s.setPoison a on).descs = s.descs := rfl
@[simp] theorem setPoison_allocs (s : State) (a : Nat) (on : Bool) : (s.setPoison a on).allocs = s.allocs := rfl
@[simp] theorem setPoison_otabs (s : State) (a : Nat) (on : Bool) : (s.setPoison a on).otabs = s.otabs := rfl
@[simp] theorem setPoison_descQ (s : State) (a : Nat) (on : Bool) : (s.setPoison a on).descQ = s.descQ := rfl
@[simp] theorem setPoison_allocQ (s : State) (a : Nat) (on : Bool) : (s.setPoison a on).allocQ = s.allocQ := rfl
@[simp] theorem setPoison_fetches (s : State) (a : Nat) (on : Bool) : (s.setPoison a on).fetches = s.fetches := rfl
@[simp] theorem setPoison_nextFetch (s : State) (a : Nat) (on : Bool) : (s.setPoison a on).nextFetch = s.nextFetch := rfl
@[simp] theorem setPoison_arbs (s : State) (a : Nat) (on : Bool) : (s.setPoison a on).arbs = s.arbs := rfl
@[simp] theorem setPoison_edges (s : State) (a : Nat) (on : Bool) : (s.setPoison a on).edges = s.edges := rfl
@[simp] theorem setPoison_ports (s : State) (a : Nat) (on : Bool) : (s.setPoison a on).ports = s.ports := rfl
@[simp] theorem setPoison_sync (s : State) (a : Nat) (on : Bool) : (s.setPoison a on).sync = s.sync := rfl
@[simp] theorem setPoison_outReqs (s : State) (a : Nat) (on : Bool) : (s.setPoison a on).outReqs = s.outReqs := rfl
@[simp] theorem setPoison_inPkts (s : State) (a : Nat) (on : Bool) : (s.setPoison a on).inPkts = s.inPkts := rfl
@[simp] theorem setPoison_nextIn (s : State) (a : Nat) (on : Bool) : (s.setPoison a on).nextIn = s.nextIn := rfl
@[simp] theorem setPoison_egress (s : State) (a : Nat) (on : Bool) : (s.setPoison a on).egress = s.egress := rfl
@[simp] theorem setPoison_armed (s : State) (a : Nat) (on : Bool) : (s.setPoison a on).armed = s.armed := rfl
@[simp] theorem setPoison_running (s : State) (a : Nat) (on : Bool) : (s.setPoison a on).running = s.running := rfl
@[simp] theorem setPoison_ledger (s : State) (a : Nat) (on : Bool) : (s.setPoison a on).ledger = s.ledger := rfl
@[simp] theorem setPoison_causes (s : State) (a : Nat) (on : Bool) : (s.setPoison a on).causes = s.causes := rfl
@[simp] theorem setPoison_entries (s : State) (a : Nat) (on : Bool) : (s.setPoison a on).entries = s.entries := rfl
@[simp] theorem setPoison_entry (s : State) (a : Nat) (on : Bool) : (s.setPoison a on).entry = s.entry := rfl
@[simp] theorem setPoison_history (s : State) (a : Nat) (on : Bool) : (s.setPoison a on).history = s.history := rfl
@[simp] theorem setPoison_clearDesc (s : State) (a : Nat) (on : Bool) : (s.setPoison a on).clearDesc = s.clearDesc := rfl
@[simp] theorem setPoison_fenceFlushed (s : State) (a : Nat) (on : Bool) : (s.setPoison a on).fenceFlushed = s.fenceFlushed := rfl
@[simp] theorem setPoison_kicks (s : State) (a : Nat) (on : Bool) : (s.setPoison a on).kicks = s.kicks := rfl
@[simp] theorem setPoison_uzoids (s : State) (a : Nat) (on : Bool) : (s.setPoison a on).uzoids = s.uzoids := rfl
@[simp] theorem setPoison_restarting (s : State) (a : Nat) (on : Bool) : (s.setPoison a on).restarting = s.restarting := rfl
@[simp] theorem setPoison_bwq (s : State) (a : Nat) (on : Bool) : (s.setPoison a on).bwq = s.bwq := rfl
@[simp] theorem setPoison_flash (s : State) (a : Nat) (on : Bool) : (s.setPoison a on).flash = s.flash := rfl
@[simp] theorem setPoison_board (s : State) (a : Nat) (on : Bool) : (s.setPoison a on).board = s.board := rfl
@[simp] theorem setPoison_us (s : State) (a : Nat) (on : Bool) : (s.setPoison a on).us = s.us := rfl
@[simp] theorem setPoison_drawn (s : State) (a : Nat) (on : Bool) : (s.setPoison a on).drawn = s.drawn := rfl
@[simp] theorem setPoison_out (s : State) (a : Nat) (on : Bool) : (s.setPoison a on).out = s.out := rfl
@[simp] theorem setPoison_reg (s : State) (a : Nat) (on : Bool) (k : Nat) : (s.setPoison a on).reg k = s.reg k := rfl
@[simp] theorem setPoison_chan (s : State) (a : Nat) (on : Bool) (st ch : Nat) : (s.setPoison a on).chan st ch = s.chan st ch := rfl
@[simp] theorem setPoison_stack (s : State) (a : Nat) (on : Bool) (st : Nat) : (s.setPoison a on).stack st = s.stack st := rfl
@[simp] theorem setPoison_unit (s : State) (a : Nat) (on : Bool) (u : Nat) : (s.setPoison a on).unit u = s.unit u := rfl
@[simp] theorem setPoison_tile (s : State) (a : Nat) (on : Bool) (t : Nat) : (s.setPoison a on).tile t = s.tile t := rfl
@[simp] theorem setPoison_seq (s : State) (a : Nat) (on : Bool) (d : Nat) : (s.setPoison a on).seq d = s.seq d := rfl
@[simp] theorem setPoison_arb (s : State) (a : Nat) (on : Bool) (d i : Nat) : (s.setPoison a on).arb d i = s.arb d i := rfl
@[simp] theorem setPoison_port (s : State) (a : Nat) (on : Bool) (p : Nat) : (s.setPoison a on).port p = s.port p := rfl
@[simp] theorem setPoison_desc (s : State) (a : Nat) (on : Bool) (h : Nat) : (s.setPoison a on).desc h = s.desc h := rfl
@[simp] theorem setPoison_alloc (s : State) (a : Nat) (on : Bool) (i : Nat) : (s.setPoison a on).alloc i = s.alloc i := rfl
@[simp] theorem setPoison_otab (s : State) (a : Nat) (on : Bool) (i : Nat) : (s.setPoison a on).otab i = s.otab i := rfl
@[simp] theorem setPoison_getF (s : State) (a : Nat) (on : Bool) (q : Nat) (g : RegF) (j : Nat) : getF (s.setPoison a on) q g j = getF s q g j := rfl
@[simp] theorem setPoison_hasEvent (s : State) (a : Nat) (on : Bool) (q j : Nat) : hasEvent (s.setPoison a on) q j = hasEvent s q j := rfl
@[simp] theorem updChan_chan_same (s : State) (st0 ch0 : Nat) (f : Channel → Channel) : (s.updChan st0 ch0 f).chan st0 ch0 = f (s.chan st0 ch0) := tget_tset_same _ _ _ _
theorem updChan_chan_ne (s : State) (st0 ch0 : Nat) (f : Channel → Channel) (j k : Nat) (h : j * 32 + k ≠ st0 * 32 + ch0) : (s.updChan st0 ch0 f).chan j k = s.chan j k :=
  tget_tset_ne _ _ _ _ _ _ h
@[simp] theorem updStack_stack_same (s : State) (st0 : Nat) (f : Stack → Stack) : (s.updStack st0 f).stack st0 = f (s.stack st0) := tget_tset_same _ _ _ _
theorem updStack_stack_ne (s : State) (st0 : Nat) (f : Stack → Stack) (j : Nat) (h : j ≠ st0) : (s.updStack st0 f).stack j = s.stack j := tget_tset_ne _ _ _ _ _ _ h
@[simp] theorem updUnit_unit_same (s : State) (u0 : Nat) (f : Unit → Unit) : (s.updUnit u0 f).unit u0 = f (s.unit u0) := tget_tset_same _ _ _ _
theorem updUnit_unit_ne (s : State) (u0 : Nat) (f : Unit → Unit) (j : Nat) (h : j ≠ u0) : (s.updUnit u0 f).unit j = s.unit j := tget_tset_ne _ _ _ _ _ _ h
@[simp] theorem updTile_tile_same (s : State) (t0 : Nat) (f : Tile → Tile) : (s.updTile t0 f).tile t0 = f (s.tile t0) := tget_tset_same _ _ _ _
theorem updTile_tile_ne (s : State) (t0 : Nat) (f : Tile → Tile) (j : Nat) (h : j ≠ t0) : (s.updTile t0 f).tile j = s.tile j := tget_tset_ne _ _ _ _ _ _ h
@[simp] theorem updSeq_seq_same (s : State) (d0 : Nat) (f : Seq → Seq) : (s.updSeq d0 f).seq d0 = f (s.seq d0) := tget_tset_same _ _ _ _
theorem updSeq_seq_ne (s : State) (d0 : Nat) (f : Seq → Seq) (j : Nat) (h : j ≠ d0) : (s.updSeq d0 f).seq j = s.seq j := tget_tset_ne _ _ _ _ _ _ h
@[simp] theorem updArb_arb_same (s : State) (d0 i0 : Nat) (f : Arb → Arb) : (s.updArb d0 i0 f).arb d0 i0 = f (s.arb d0 i0) := tget_tset_same _ _ _ _
theorem updArb_arb_ne (s : State) (d0 i0 : Nat) (f : Arb → Arb) (j k : Nat) (h : j * 256 + k ≠ d0 * 256 + i0) : (s.updArb d0 i0 f).arb j k = s.arb j k :=
  tget_tset_ne _ _ _ _ _ _ h
@[simp] theorem updPort_port_same (s : State) (p0 : Nat) (f : Port → Port) : (s.updPort p0 f).port p0 = f (s.port p0) := tget_tset_same _ _ _ _
theorem updPort_port_ne (s : State) (p0 : Nat) (f : Port → Port) (j : Nat) (h : j ≠ p0) : (s.updPort p0 f).port j = s.port j := tget_tset_ne _ _ _ _ _ _ h
@[simp] theorem updAlloc_alloc_same (s : State) (i0 : Nat) (f : AllocE → AllocE) : (s.updAlloc i0 f).alloc i0 = f (s.alloc i0) := tget_tset_same _ _ _ _
theorem updAlloc_alloc_ne (s : State) (i0 : Nat) (f : AllocE → AllocE) (j : Nat) (h : j ≠ i0) : (s.updAlloc i0 f).alloc j = s.alloc j := tget_tset_ne _ _ _ _ _ _ h
@[simp] theorem updOtab_otab_same (s : State) (i0 : Nat) (f : OTab → OTab) : (s.updOtab i0 f).otab i0 = f (s.otab i0) := tget_tset_same _ _ _ _
theorem updOtab_otab_ne (s : State) (i0 : Nat) (f : OTab → OTab) (j : Nat) (h : j ≠ i0) : (s.updOtab i0 f).otab j = s.otab j := tget_tset_ne _ _ _ _ _ _ h

end Sys2Proof.Machine
end

