-- ==== Sys2Proof/Laws/Access.lean ====
section
/-! SUPPORT. Pages and offsets (R45, R46), and what a 64-bit write of a register that exists comes to (R49 to R52). -/
namespace Sys2Proof.Machine

theorem pageOf_pg (d b i o : Nat) (hd : d < 8) (hb : b < 32) (hi : i < 256) (ho : o < 4096) :
    pageOf (pg d b i + o) = ⟨d, b, i⟩ := by
  unfold pageOf pg bits
  simp only [Page.mk.injEq]
  refine ⟨?_, ?_, ?_⟩ <;> simp only [Nat.reducePow] <;> omega

theorem pg_mod (d b i o : Nat) (ho : o < 4096) : (pg d b i + o) % 4096 = o := by
  unfold pg; simp only [Nat.reducePow]; omega

theorem pg_lt (d b i o : Nat) (hd : d < 8) (hb : b < 32) (hi : i < 256) (ho : o < 4096) : pg d b i + o < 2 ^ 28 := by
  unfold pg; simp only [Nat.reducePow]; omega

theorem dieStacks_le (m : Member) (d : Nat) : (m.dieStacks d).length ≤ 3 := by
  cases m <;> simp only [Member.dieStacks] <;> rcases d with _ | _ | _ | _ | _ | _ | _ | _ | d <;> simp

theorem diePorts_le (m : Member) (d : Nat) : (m.diePorts d).length ≤ 2 := by
  cases m <;> simp only [Member.diePorts] <;> rcases d with _ | _ | _ | _ | _ | _ | _ | _ | d <;> simp

theorem diePorts_lt (m : Member) (d p : Nat) (h : p ∈ m.diePorts d) : p < 12 := by
  cases m <;> simp only [Member.diePorts] at h <;> rcases d with _ | _ | _ | _ | _ | _ | _ | _ | d <;> simp at h <;> omega

theorem dies_le (m : Member) : m.dies ≤ 8 := by cases m <;> decide

/-- Instances of a block lie below the summary page (R46). -/
theorem blkInsts_lt (m : Member) (d b i : Nat) (h : i ∈ blkInsts m d b) : d < 8 ∧ b < 27 ∧ i < 224 := by
  have hs := dieStacks_le m d
  have hp := diePorts_le m d
  have hq := diePorts_lt m d i
  have h8 := dies_le m
  unfold blkInsts at h
  simp only at h
  by_cases hd : m.dies ≤ d
  · simp [hd] at h
  · simp only [hd, if_false] at h
    refine ⟨by omega, ?_⟩
    split at h <;> try (refine ⟨by decide, ?_⟩)
    all_goals first
      | (simp at h; done)
      | skip
    all_goals
      try (split at h)
    all_goals try (simp only [List.mem_append, List.mem_map, List.mem_range, List.mem_filter, List.not_mem_nil,
      or_false, List.mem_cons] at h)
    all_goals first
      | omega
      | (exact Nat.lt_trans (hq h) (by decide))
      | (rcases h with ((((h | ⟨a, h, rfl⟩) | ⟨a, h, rfl⟩) | h) | ⟨a, h, rfl⟩) <;> omega)
      | (rcases h with (((h | ⟨a, h, rfl⟩) | ⟨a, h, rfl⟩) | ⟨a, h, rfl⟩) <;> omega)
      | skip

/-- What an assigned page is. -/
theorem assigned_lt {m : Member} {p : Page} (h : assigned m p = true) : p.die < 8 ∧ p.blk < 27 ∧ p.inst < 224 :=
  blkInsts_lt m p.die p.blk p.inst (by simpa [assigned] using h)

theorem pageOf_assigned {m : Member} {p : Page} (h : assigned m p = true) (o : Nat) (ho : o < 4096) : pageOf (pgBase p + o) = p := by
  obtain ⟨h1, h2, h3⟩ := assigned_lt h
  exact pageOf_pg _ _ _ _ h1 (by omega) (by omega) ho

theorem summary_of_assigned {m : Member} {p : Page} (h : assigned m p = true) : isSummary m p = false := by
  have := (assigned_lt h).2.2
  have : p.inst ≠ 255 := by omega
  simp [isSummary, this]

theorem pgBase_mod {p : Page} (o : Nat) (ho : o < 4096) : (pgBase p + o) % 4096 = o := pg_mod _ _ _ _ ho

theorem pgBase_word {p : Page} (o : Nat) (h : o % 8 = 0) : (pgBase p + o) / 8 * 8 = pgBase p + o := by
  unfold pgBase pg; simp only [Nat.reducePow]; omega

theorem pgBase_lt {m : Member} {p : Page} (h : assigned m p = true) (o : Nat) (ho : o < 4096) : pgBase p + o < 2 ^ 28 := by
  obtain ⟨h1, h2, h3⟩ := assigned_lt h
  exact pg_lt _ _ _ _ h1 (by omega) (by omega) ho

/-- A 64-bit write of a register that is there and not RO throughout reaches it. -/
theorem accessWrite_word {s : State} {p : Page} (w : Writer) (o : Nat) (v : W64) (ha : assigned s.member p = true)
    (hw : isWindow p = false) (hg : pageGated s p = false ∨ o = 0x10) (ho : o < 4096) (h8 : o % 8 = 0)
    (hne : regFields p o ≠ []) (hro : (regFields p o).all (fun f => f.acc = .ro) = false) :
    accessWrite s w (pgBase p + o) 8 v = regWrite s w p o v := by
  have e1 : (pgBase p + o) % 8 = 0 := by unfold pgBase pg; simp only [Nat.reducePow]; omega
  have e2 : (regFields p o).isEmpty = false := by
    cases h : regFields p o with
    | nil => exact absurd h hne
    | cons _ _ => rfl
  have e3 : (pageGated s p && decide (o ≠ 0x10)) = false := by rcases hg with h | h <;> simp [h]
  unfold accessWrite
  simp only [pageOf_assigned ha o ho, pgBase_word o h8, pgBase_mod o ho, summary_of_assigned ha, ha, hw, wellSized, e1, e2, hro]
  rcases hg with h | h <;> simp [h]

end Sys2Proof.Machine
end

