-- ==== Sys2Proof/Laws/Kept.lean ====
section
/-! SUPPORT. The relation `Kept` and the operations of Ops and Reg: each leaves `Kept` as it was. The lemmas of the other
files (one per function that changes the state) are cited by name, never unfolded. -/
namespace Sys2Proof.Machine

/-- The parts of one set are in another. -/
def Sub (a P : Parts) : Prop := Nat.land a P = a

theorem Sub.le {a b P : Parts} (h : Sub b P) (e : Nat.land a b = a) : Sub a P := by
  unfold Sub at *
  have : Nat.land (Nat.land a b) P = a := by
    have e2 : Nat.land (Nat.land a b) P = Nat.land a (Nat.land b P) := Nat.and_assoc a b P
    rw [e2, h]; exact e
  rwa [e] at this

theorem Sub.zero {a P b : Parts} (h : Sub a P) (e : Nat.land P b = 0) : Nat.land a b = 0 := by
  have e2 : Nat.land (Nat.land a P) b = Nat.land a (Nat.land P b) := Nat.and_assoc a P b
  rw [h, e] at e2; exact e2.trans (Nat.and_zero a)

theorem Only.refl (P : Parts) (s : State) : Only P s s :=
  ⟨fun _ => rfl, fun _ => rfl, fun _ => rfl, fun _ => rfl, fun _ => rfl, fun _ => rfl, fun _ => rfl, fun _ => rfl, fun _ =>
  rfl, fun _ => rfl, fun _ => rfl, fun _ => rfl, fun _ => rfl, fun _ => rfl, fun _ => rfl, fun _ => rfl, fun _ => rfl, fun _
  => rfl, fun _ => rfl, fun _ => rfl, fun _ => rfl, fun _ => rfl, fun _ => rfl, fun _ => rfl, fun _ => rfl, fun _ => rfl,
  fun _ => rfl, fun _ => rfl, fun _ => rfl, fun _ => rfl, fun _ => rfl, fun _ => rfl, fun _ => rfl, fun _ => rfl, fun _ =>
  rfl, fun _ => rfl, fun _ => rfl, fun _ => rfl, fun _ => rfl, fun _ => rfl, fun _ => rfl, fun _ => rfl, fun _ => rfl, fun _
  => rfl, fun _ => rfl, fun _ => rfl, fun _ => rfl, fun _ => rfl, fun _ => rfl, fun _ => rfl, fun _ => rfl, fun _ => rfl,
  fun _ => rfl, fun _ => rfl⟩

theorem Only.trans {P : Parts} {r s t : State} (h : Only P r s) (g : Only P s t) : Only P r t :=
  ⟨fun e => (g.regs e).trans (h.regs e), fun e => (g.disabled e).trans (h.disabled e), fun e => (g.enabled e).trans
  (h.enabled e), fun e => (g.vecSent e).trans (h.vecSent e), fun e => (g.vecMask e).trans (h.vecMask e), fun e => (g.vecPend
  e).trans (h.vecPend e), fun e => (g.vecTable e).trans (h.vecTable e), fun e => (g.funcMask e).trans (h.funcMask e), fun e
  => (g.mem e).trans (h.mem e), fun e => (g.poison e).trans (h.poison e), fun e => (g.flips e).trans (h.flips e), fun e =>
  (g.slotErrs e).trans (h.slotErrs e), fun e => (g.chans e).trans (h.chans e), fun e => (g.stackTab e).trans (h.stackTab e),
  fun e => (g.units e).trans (h.units e), fun e => (g.tiles e).trans (h.tiles e), fun e => (g.seqs e).trans (h.seqs e), fun
  e => (g.imem e).trans (h.imem e), fun e => (g.lib e).trans (h.lib e), fun e => (g.routines e).trans (h.routines e), fun e
  => (g.descs e).trans (h.descs e), fun e => (g.allocs e).trans (h.allocs e), fun e => (g.otabs e).trans (h.otabs e), fun e
  => (g.descQ e).trans (h.descQ e), fun e => (g.allocQ e).trans (h.allocQ e), fun e => (g.fetches e).trans (h.fetches e),
  fun e => (g.nextFetch e).trans (h.nextFetch e), fun e => (g.arbs e).trans (h.arbs e), fun e => (g.edges e).trans (h.edges
  e), fun e => (g.ports e).trans (h.ports e), fun e => (g.sync e).trans (h.sync e), fun e => (g.outReqs e).trans (h.outReqs
  e), fun e => (g.inPkts e).trans (h.inPkts e), fun e => (g.nextIn e).trans (h.nextIn e), fun e => (g.egress e).trans
  (h.egress e), fun e => (g.cxl e).trans (h.cxl e), fun e => (g.armed e).trans (h.armed e), fun e => (g.running e).trans
  (h.running e), fun e => (g.ledger e).trans (h.ledger e), fun e => (g.causes e).trans (h.causes e), fun e => (g.entries
  e).trans (h.entries e), fun e => (g.entry e).trans (h.entry e), fun e => (g.history e).trans (h.history e), fun e =>
  (g.clearDesc e).trans (h.clearDesc e), fun e => (g.fenceFlushed e).trans (h.fenceFlushed e), fun e => (g.kicks e).trans
  (h.kicks e), fun e => (g.uzoids e).trans (h.uzoids e), fun e => (g.restarting e).trans (h.restarting e), fun e => (g.bwq
  e).trans (h.bwq e), fun e => (g.flash e).trans (h.flash e), fun e => (g.board e).trans (h.board e), fun e => (g.us
  e).trans (h.us e), fun e => (g.drawn e).trans (h.drawn e), fun e => (g.out e).trans (h.out e)⟩

theorem Only.mono {a P : Parts} {s t : State} (h : Only a s t) (e : Sub a P) : Only P s t :=
  ⟨fun n => h.regs (e.zero n), fun n => h.disabled (e.zero n), fun n => h.enabled (e.zero n), fun n => h.vecSent (e.zero n),
  fun n => h.vecMask (e.zero n), fun n => h.vecPend (e.zero n), fun n => h.vecTable (e.zero n), fun n => h.funcMask (e.zero
  n), fun n => h.mem (e.zero n), fun n => h.poison (e.zero n), fun n => h.flips (e.zero n), fun n => h.slotErrs (e.zero n),
  fun n => h.chans (e.zero n), fun n => h.stackTab (e.zero n), fun n => h.units (e.zero n), fun n => h.tiles (e.zero n), fun
  n => h.seqs (e.zero n), fun n => h.imem (e.zero n), fun n => h.lib (e.zero n), fun n => h.routines (e.zero n), fun n =>
  h.descs (e.zero n), fun n => h.allocs (e.zero n), fun n => h.otabs (e.zero n), fun n => h.descQ (e.zero n), fun n =>
  h.allocQ (e.zero n), fun n => h.fetches (e.zero n), fun n => h.nextFetch (e.zero n), fun n => h.arbs (e.zero n), fun n =>
  h.edges (e.zero n), fun n => h.ports (e.zero n), fun n => h.sync (e.zero n), fun n => h.outReqs (e.zero n), fun n =>
  h.inPkts (e.zero n), fun n => h.nextIn (e.zero n), fun n => h.egress (e.zero n), fun n => h.cxl (e.zero n), fun n =>
  h.armed (e.zero n), fun n => h.running (e.zero n), fun n => h.ledger (e.zero n), fun n => h.causes (e.zero n), fun n =>
  h.entries (e.zero n), fun n => h.entry (e.zero n), fun n => h.history (e.zero n), fun n => h.clearDesc (e.zero n), fun n
  => h.fenceFlushed (e.zero n), fun n => h.kicks (e.zero n), fun n => h.uzoids (e.zero n), fun n => h.restarting (e.zero n),
  fun n => h.bwq (e.zero n), fun n => h.flash (e.zero n), fun n => h.board (e.zero n), fun n => h.us (e.zero n), fun n =>
  h.drawn (e.zero n), fun n => h.out (e.zero n)⟩

theorem only_regs (s : State) (x : Tbl W64) : Only Parts.regs s { s with regs := x } :=
  ⟨fun h => absurd h (by decide), fun _ => rfl, fun _ => rfl, fun _ => rfl, fun _ => rfl, fun _ => rfl, fun _ => rfl, fun _
  => rfl, fun _ => rfl, fun _ => rfl, fun _ => rfl, fun _ => rfl, fun _ => rfl, fun _ => rfl, fun _ => rfl, fun _ => rfl,
  fun _ => rfl, fun _ => rfl, fun _ => rfl, fun _ => rfl, fun _ => rfl, fun _ => rfl, fun _ => rfl, fun _ => rfl, fun _ =>
  rfl, fun _ => rfl, fun _ => rfl, fun _ => rfl, fun _ => rfl, fun _ => rfl, fun _ => rfl, fun _ => rfl, fun _ => rfl, fun _
  => rfl, fun _ => rfl, fun _ => rfl, fun _ => rfl, fun _ => rfl, fun _ => rfl, fun _ => rfl, fun _ => rfl, fun _ => rfl,
  fun _ => rfl, fun _ => rfl, fun _ => rfl, fun _ => rfl, fun _ => rfl, fun _ => rfl, fun _ => rfl, fun _ => rfl, fun _ =>
  rfl, fun _ => rfl, fun _ => rfl, fun _ => rfl⟩

theorem only_tiles (s : State) (x : Tbl Tile) : Only Parts.tiles s { s with tiles := x } :=
  ⟨fun _ => rfl, fun _ => rfl, fun _ => rfl, fun _ => rfl, fun _ => rfl, fun _ => rfl, fun _ => rfl, fun _ => rfl, fun _ =>
  rfl, fun _ => rfl, fun _ => rfl, fun _ => rfl, fun _ => rfl, fun _ => rfl, fun _ => rfl, fun h => absurd h (by decide),
  fun _ => rfl, fun _ => rfl, fun _ => rfl, fun _ => rfl, fun _ => rfl, fun _ => rfl, fun _ => rfl, fun _ => rfl, fun _ =>
  rfl, fun _ => rfl, fun _ => rfl, fun _ => rfl, fun _ => rfl, fun _ => rfl, fun _ => rfl, fun _ => rfl, fun _ => rfl, fun _
  => rfl, fun _ => rfl, fun _ => rfl, fun _ => rfl, fun _ => rfl, fun _ => rfl, fun _ => rfl, fun _ => rfl, fun _ => rfl,
  fun _ => rfl, fun _ => rfl, fun _ => rfl, fun _ => rfl, fun _ => rfl, fun _ => rfl, fun _ => rfl, fun _ => rfl, fun _ =>
  rfl, fun _ => rfl, fun _ => rfl, fun _ => rfl⟩

theorem only_mem (s : State) (x : List Host.Cell) : Only Parts.mem s { s with mem := x } :=
  ⟨fun _ => rfl, fun _ => rfl, fun _ => rfl, fun _ => rfl, fun _ => rfl, fun _ => rfl, fun _ => rfl, fun _ => rfl, fun h =>
  absurd h (by decide), fun _ => rfl, fun _ => rfl, fun _ => rfl, fun _ => rfl, fun _ => rfl, fun _ => rfl, fun _ => rfl,
  fun _ => rfl, fun _ => rfl, fun _ => rfl, fun _ => rfl, fun _ => rfl, fun _ => rfl, fun _ => rfl, fun _ => rfl, fun _ =>
  rfl, fun _ => rfl, fun _ => rfl, fun _ => rfl, fun _ => rfl, fun _ => rfl, fun _ => rfl, fun _ => rfl, fun _ => rfl, fun _
  => rfl, fun _ => rfl, fun _ => rfl, fun _ => rfl, fun _ => rfl, fun _ => rfl, fun _ => rfl, fun _ => rfl, fun _ => rfl,
  fun _ => rfl, fun _ => rfl, fun _ => rfl, fun _ => rfl, fun _ => rfl, fun _ => rfl, fun _ => rfl, fun _ => rfl, fun _ =>
  rfl, fun _ => rfl, fun _ => rfl, fun _ => rfl⟩

theorem only_imem (s : State) (x : List Host.Cell) : Only Parts.imem s { s with imem := x } :=
  ⟨fun _ => rfl, fun _ => rfl, fun _ => rfl, fun _ => rfl, fun _ => rfl, fun _ => rfl, fun _ => rfl, fun _ => rfl, fun _ =>
  rfl, fun _ => rfl, fun _ => rfl, fun _ => rfl, fun _ => rfl, fun _ => rfl, fun _ => rfl, fun _ => rfl, fun _ => rfl, fun h
  => absurd h (by decide), fun _ => rfl, fun _ => rfl, fun _ => rfl, fun _ => rfl, fun _ => rfl, fun _ => rfl, fun _ => rfl,
  fun _ => rfl, fun _ => rfl, fun _ => rfl, fun _ => rfl, fun _ => rfl, fun _ => rfl, fun _ => rfl, fun _ => rfl, fun _ =>
  rfl, fun _ => rfl, fun _ => rfl, fun _ => rfl, fun _ => rfl, fun _ => rfl, fun _ => rfl, fun _ => rfl, fun _ => rfl, fun _
  => rfl, fun _ => rfl, fun _ => rfl, fun _ => rfl, fun _ => rfl, fun _ => rfl, fun _ => rfl, fun _ => rfl, fun _ => rfl,
  fun _ => rfl, fun _ => rfl, fun _ => rfl⟩

theorem only_out (s : State) (x : List Out) : Only Parts.out s { s with out := x } :=
  ⟨fun _ => rfl, fun _ => rfl, fun _ => rfl, fun _ => rfl, fun _ => rfl, fun _ => rfl, fun _ => rfl, fun _ => rfl, fun _ =>
  rfl, fun _ => rfl, fun _ => rfl, fun _ => rfl, fun _ => rfl, fun _ => rfl, fun _ => rfl, fun _ => rfl, fun _ => rfl, fun _
  => rfl, fun _ => rfl, fun _ => rfl, fun _ => rfl, fun _ => rfl, fun _ => rfl, fun _ => rfl, fun _ => rfl, fun _ => rfl,
  fun _ => rfl, fun _ => rfl, fun _ => rfl, fun _ => rfl, fun _ => rfl, fun _ => rfl, fun _ => rfl, fun _ => rfl, fun _ =>
  rfl, fun _ => rfl, fun _ => rfl, fun _ => rfl, fun _ => rfl, fun _ => rfl, fun _ => rfl, fun _ => rfl, fun _ => rfl, fun _
  => rfl, fun _ => rfl, fun _ => rfl, fun _ => rfl, fun _ => rfl, fun _ => rfl, fun _ => rfl, fun _ => rfl, fun _ => rfl,
  fun _ => rfl, fun h => absurd h (by decide)⟩

theorem only_drawn (s : State) (x : Nat) : Only Parts.drawn s { s with drawn := x } :=
  ⟨fun _ => rfl, fun _ => rfl, fun _ => rfl, fun _ => rfl, fun _ => rfl, fun _ => rfl, fun _ => rfl, fun _ => rfl, fun _ =>
  rfl, fun _ => rfl, fun _ => rfl, fun _ => rfl, fun _ => rfl, fun _ => rfl, fun _ => rfl, fun _ => rfl, fun _ => rfl, fun _
  => rfl, fun _ => rfl, fun _ => rfl, fun _ => rfl, fun _ => rfl, fun _ => rfl, fun _ => rfl, fun _ => rfl, fun _ => rfl,
  fun _ => rfl, fun _ => rfl, fun _ => rfl, fun _ => rfl, fun _ => rfl, fun _ => rfl, fun _ => rfl, fun _ => rfl, fun _ =>
  rfl, fun _ => rfl, fun _ => rfl, fun _ => rfl, fun _ => rfl, fun _ => rfl, fun _ => rfl, fun _ => rfl, fun _ => rfl, fun _
  => rfl, fun _ => rfl, fun _ => rfl, fun _ => rfl, fun _ => rfl, fun _ => rfl, fun _ => rfl, fun _ => rfl, fun _ => rfl,
  fun h => absurd h (by decide), fun _ => rfl⟩

/-- A step of the part that changes some fields only. -/
theorem Kept.by {P a : Parts} {s0 s t : State} (h : Kept P s0 s) (g : Only a s t) (hp : Sub a P) : Only P s0 t :=
  h.only.trans (g.mono hp)

theorem Kept.refl (P : Parts) (s : State) : Kept P s s :=
  ⟨rfl, rfl, Nat.le_refl _, List.prefix_refl _, List.prefix_refl _, fun h => h, Only.refl P s⟩

theorem Kept.trans {P : Parts} {r s t : State} (h : Kept P r s) (g : Kept P s t) : Kept P r t :=
  ⟨g.member.trans h.member, g.pending.trans h.pending, Nat.le_trans h.drawn g.drawn, h.out.trans g.out, h.log.trans g.log,
    fun c => g.canonical (h.canonical c), h.only.trans g.only⟩

/-- The fields that `Kept` looks at. -/
def State.held (s : State) : Member × List Instr × Nat × List Out × List (List W64) × Tbl W64 × List (List Host.Cell) × Tbl Tile × Tbl Uzoid :=
  (s.member, s.pending, s.drawn, s.out, s.flash.log, s.regs, [s.mem, s.imem, s.lib], s.tiles, s.uzoids)

/-- A change of any other field. -/
theorem kept_same {P a : Parts} {s0 s t : State} (h : Kept P s0 s) (e : t.held = s.held) (o : Only a s t) (hp : Sub a P) :
    Kept P s0 t := by
  have o' := h.by o hp
  simp only [State.held, Prod.mk.injEq, List.cons.injEq, and_true] at e
  obtain ⟨e1, e2, e3, e4, e5, e6, ⟨e7, e8, e9⟩, e10, e11⟩ := e
  refine ⟨e1.trans h.member, e2.trans h.pending, e3 ▸ h.drawn, e4 ▸ h.out, e5 ▸ h.log, fun c => ?_, o'⟩
  have k := h.canonical c
  exact ⟨e6 ▸ k.regs, by rw [e6, e1]; exact k.regsSet, e7 ▸ k.mem, e8 ▸ k.imem, e9 ▸ k.lib, e10 ▸ k.tiles, e11 ▸ k.uzoids⟩

/-- A change of fields that `Kept` does not look at. -/
theorem kept_mk {P : Parts} (a : Parts) {s0 s : State}
    {xdisabled : List Nat} {xenabled : Bool} {xvecSent : List Nat} {xvecMask : List Nat} {xvecPend : List Nat} {xvecTable :
    Tbl Nat} {xfuncMask : Bool} {xpoison : List Nat} {xflips : Tbl (List Nat)} {xslotErrs : Tbl (List Nat)} {xchans : Tbl
    Channel} {xstackTab : Tbl Stack} {xunits : Tbl Unit} {xseqs : Tbl Seq} {xroutines : List Byte} {xdescs : Tbl (List W64)}
    {xallocs : Tbl AllocE} {xotabs : Tbl OTab} {xdescQ : List (Nat × Nat × Nat)} {xallocQ : List Nat} {xfetches : List
    Fetch} {xnextFetch : Nat} {xarbs : Tbl Arb} {xedges : Tbl FabEdge} {xports : Tbl Port} {xsync : Tbl Word} {xoutReqs :
    List OutReq} {xinPkts : List InPkt} {xnextIn : Nat} {xegress : List (Nat × Pkt)} {xcxl : Cxl} {xarmed : Option Plan}
    {xrunning : Option Plan} {xledger : Ledger} {xcauses : List Cause} {xentries : Nat} {xentry : Option (List W64)}
    {xhistory : Tbl (List W64)} {xclearDesc : Bool} {xfenceFlushed : Bool} {xkicks : Tbl Nat} {xrestarting : List Nat} {xbwq
    : List BwPend} {xflash : Flash} {xboard : Module} {xus : Nat}
    (h : Kept P s0 s) (e : xflash.log = s.flash.log)
    (o : Only a s (State.mk s.pending s.member s.regs xdisabled xenabled xvecSent xvecMask xvecPend xvecTable xfuncMask
    s.mem xpoison xflips xslotErrs xchans xstackTab xunits s.tiles xseqs s.imem s.lib xroutines xdescs xallocs xotabs xdescQ
    xallocQ xfetches xnextFetch xarbs xedges xports xsync xoutReqs xinPkts xnextIn xegress xcxl xarmed xrunning xledger
    xcauses xentries xentry xhistory xclearDesc xfenceFlushed xkicks s.uzoids xrestarting xbwq xflash xboard xus s.drawn
    s.out))
    (hp : Sub a P) :
    Kept P s0 (State.mk s.pending s.member s.regs xdisabled xenabled xvecSent xvecMask xvecPend xvecTable xfuncMask s.mem
    xpoison xflips xslotErrs xchans xstackTab xunits s.tiles xseqs s.imem s.lib xroutines xdescs xallocs xotabs xdescQ
    xallocQ xfetches xnextFetch xarbs xedges xports xsync xoutReqs xinPkts xnextIn xegress xcxl xarmed xrunning xledger
    xcauses xentries xentry xhistory xclearDesc xfenceFlushed xkicks s.uzoids xrestarting xbwq xflash xboard xus s.drawn
    s.out) :=
  kept_same h (by simp only [State.held, e]) o hp

theorem kept_ite {P : Parts} {s0 a b : State} {c : Prop} {_ : Decidable c} (ha : Kept P s0 a) (hb : Kept P s0 b) : Kept P s0 (if c then a else b) := by
  split <;> assumption

theorem kept_some {P : Parts} {s0 : State} (v : State) (h : Kept P s0 v) : ∃ z, Kept P s0 z ∧ v = z := ⟨v, h, rfl⟩

theorem kept_foldl {α : Type} {P : Parts} {s0 : State} (l : List α) (f : State → α → State) (s : State) (hf : ∀ s a, Kept P s0 s → Kept P s0 (f s a))
    (h : Kept P s0 s) : Kept P s0 (l.foldl f s) := by
  induction l generalizing s with
  | nil => exact h
  | cons a r ih => exact ih _ (hf s a h)

theorem kept_forEach {α : Type} {P : Parts} {s0 : State} (l : List α) (f : State → α → State) (s : State) (hf : ∀ s a, Kept P s0 s → Kept P s0 (f s a))
    (h : Kept P s0 s) : Kept P s0 (forEach s l f) := kept_foldl l f s hf h

/-- A fold whose accumulator carries the state. -/
theorem kept_fold_acc {α β : Type} {P : Parts} {s0 : State} (π : β → State) (l : List α) (f : β → α → β) (b : β)
    (hf : ∀ b a, Kept P s0 (π b) → Kept P s0 (π (f b a))) (h : Kept P s0 (π b)) : Kept P s0 (π (l.foldl f b)) := by
  induction l generalizing b with
  | nil => exact h
  | cons a r ih => exact ih _ (hf b a h)

theorem kept_fold_snd_snd {α β γ : Type} {P : Parts} {s0 : State} (l : List α) (f : β × γ × State → α → β × γ × State) (b : β × γ × State)
    (hf : ∀ b a, Kept P s0 b.2.2 → Kept P s0 (f b a).2.2) (h : Kept P s0 b.2.2) : Kept P s0 (l.foldl f b).2.2 :=
  kept_fold_acc (fun p => p.2.2) l f b hf h

theorem kept_fold_snd_fst {α β γ : Type} {P : Parts} {s0 : State} (l : List α) (f : β × State × γ → α → β × State × γ) (b : β × State × γ)
    (hf : ∀ b a, Kept P s0 b.2.1 → Kept P s0 (f b a).2.1) (h : Kept P s0 b.2.1) : Kept P s0 (l.foldl f b).2.1 :=
  kept_fold_acc (fun p => p.2.1) l f b hf h

theorem kept_of_snd {β : Type} {P : Parts} {s0 t : State} {p : β × State} {x : β} (e : p = (x, t)) (h : Kept P s0 p.2) : Kept P s0 t := by
  rw [e] at h; exact h
theorem kept_of_fst {β : Type} {P : Parts} {s0 t : State} {p : State × β} {x : β} (e : p = (t, x)) (h : Kept P s0 p.1) : Kept P s0 t := by
  rw [e] at h; exact h
theorem kept_of_snd_snd {β γ : Type} {P : Parts} {s0 t : State} {p : β × γ × State} {x : β} {y : γ} (e : p = (x, y, t)) (h : Kept P s0 p.2.2) :
    Kept P s0 t := by rw [e] at h; exact h
theorem kept_of_snd_fst {β γ : Type} {P : Parts} {s0 t : State} {p : β × State × γ} {x : β} {y : γ} (e : p = (x, t, y)) (h : Kept P s0 p.2.1) :
    Kept P s0 t := by rw [e] at h; exact h

/-! ## Registers -/

theorem kept_setReg {P : Parts} {s0 : State} (s : State) (k : Nat) (v : W64) (h : Kept P s0 s) (hp : Sub 0x1 P) : Kept P s0 (s.setReg k v) := by
  refine ⟨h.member, h.pending, h.drawn, h.out, h.log, fun c => ?_, h.by (only_regs s _) hp⟩
  have k' := h.canonical c
  refine ⟨rising_tset _ _ _ _ k'.regs, ?_, k'.mem, k'.imem, k'.lib, k'.tiles, k'.uzoids⟩
  intro p hp
  rcases mem_tset.1 hp with ⟨rfl, hv⟩ | ⟨hp, -⟩
  · exact hv
  · exact k'.regsSet p hp

/-! ## Tiles, memory, outputs, free values -/

theorem kept_updTile {P : Parts} {s0 : State} (s : State) (t : Nat) (f : Tile → Tile)
    (hf : ∀ x, Memory.wf x.sram = true → Memory.wf (f x).sram = true) (h : Kept P s0 s) (hp : Sub 0x8000 P) : Kept P s0 (s.updTile t f) := by
  refine ⟨h.member, h.pending, h.drawn, h.out, h.log, fun c => ?_, h.by (only_tiles s _) hp⟩
  have k := h.canonical c
  refine ⟨k.regs, k.regsSet, k.mem, k.imem, k.lib, ?_, k.uzoids⟩
  intro p hp
  rcases mem_tset.1 hp with ⟨rfl, -⟩ | ⟨hp, -⟩
  · apply hf
    have key : ∀ l : Tbl Tile, (∀ p ∈ l, Memory.wf p.2.sram = true) → Memory.wf (tget {} l t).sram = true := by
      intro l hl
      induction l with
      | nil => rfl
      | cons q r ih =>
        obtain ⟨a, b⟩ := q
        rw [tget_cons]
        split
        · exact hl (a, b) (by simp)
        · exact ih (fun p hp => hl p (by simp [hp]))
    exact key _ k.tiles
  · exact k.tiles p hp

theorem kept_updTile_same {P : Parts} {s0 : State} (s : State) (t : Nat) (f : Tile → Tile) (hf : ∀ x, (f x).sram = x.sram) (h : Kept P s0 s) (hp : Sub 0x8000 P) :
    Kept P s0 (s.updTile t f) := kept_updTile s t f (fun x hx => by rw [hf]; exact hx) h hp

/-- A write to a tile's SRAM keeps its canonical form. -/
theorem Tile.put_wf (x : Tile) (l : List (Nat × Nat × Nat × Bool)) (h : Memory.wf x.sram = true) : Memory.wf (x.put l).sram = true := by
  unfold Tile.put
  simp only
  generalize gatherBytes _ = g
  generalize x.sram = m at h
  induction g generalizing m with
  | nil => exact h
  | cons a r ih => exact ih _ (mset_wf _ _ _ h)

theorem kept_updTile_put {P : Parts} {s0 : State} (s : State) (t : Nat) (l : Tile → List (Nat × Nat × Nat × Bool)) (h : Kept P s0 s) (hp : Sub 0x8000 P) :
    Kept P s0 (s.updTile t (fun k => k.put (l k))) := kept_updTile s t _ (fun x hx => Tile.put_wf x _ hx) h hp

theorem kept_updTile_putLike {P : Parts} {s0 : State} (s : State) (t : Nat) (f : Tile → Tile) (l : Tile → List (Nat × Nat × Nat × Bool))
    (hf : ∀ x, (f x).sram = (x.put (l x)).sram) (h : Kept P s0 s) (hp : Sub 0x8000 P) : Kept P s0 (s.updTile t f) :=
  kept_updTile s t f (fun x hx => by rw [hf]; exact Tile.put_wf x _ hx) h hp

theorem kept_updTile_clear {P : Parts} {s0 : State} (s : State) (t : Nat) (f : Tile → Tile) (hf : ∀ x, (f x).sram = []) (h : Kept P s0 s) (hp : Sub 0x8000 P) :
    Kept P s0 (s.updTile t f) := kept_updTile s t f (fun x _ => by rw [hf]; rfl) h hp

theorem kept_mem {P : Parts} {s0 s t : State} (h : Kept P s0 s) (hm : Memory.wf s.mem = true → Memory.wf t.mem = true)
    (e : t = { s with mem := t.mem }) (hp : Sub 0x100 P) : Kept P s0 t := by
  rw [e]
  exact ⟨h.member, h.pending, h.drawn, h.out, h.log, fun c =>
      let k := h.canonical c; ⟨k.regs, k.regsSet, hm k.mem, k.imem, k.lib, k.tiles, k.uzoids⟩, h.by (only_mem s _) hp⟩

theorem kept_imem {P : Parts} {s0 : State} (s : State) (a : Nat) (l : List Byte) (h : Kept P s0 s) (hp : Sub 0x20000 P) : Kept P s0 { s with imem := mwrite s.imem a l } :=
  ⟨h.member, h.pending, h.drawn, h.out, h.log, fun c =>
    let k := h.canonical c; ⟨k.regs, k.regsSet, k.mem, mwrite_wf _ _ _ k.imem, k.lib, k.tiles, k.uzoids⟩,
    h.by (only_imem s _) hp⟩

theorem kept_wrByte {P : Parts} {s0 : State} (s : State) (a : Nat) (b : Byte) (h : Kept P s0 s) (hp : Sub 0x100 P) : Kept P s0 (s.wrByte a b) :=
  kept_mem h (mset_wf _ _ _) rfl hp
theorem kept_wrMem {P : Parts} {s0 : State} (s : State) (a : Nat) (l : List Byte) (h : Kept P s0 s) (hp : Sub 0x100 P) : Kept P s0 (s.wrMem a l) :=
  kept_mem h (mwrite_wf _ _ _) rfl hp
theorem kept_wrMemOpt {P : Parts} {s0 : State} (s : State) (a : Nat) (l : List (Option Byte)) (h : Kept P s0 s) (hp : Sub 0x100 P) : Kept P s0 (s.wrMemOpt a l) :=
  kept_mem h (mwriteOpt_wf _ _ _) rfl hp
theorem kept_clrMem {P : Parts} {s0 : State} (s : State) (a n : Nat) (h : Kept P s0 s) (hp : Sub 0x100 P) : Kept P s0 (s.clrMem a n) :=
  kept_mem h (tclr_wf _ _ _) rfl hp

theorem kept_emit {P : Parts} {s0 : State} (s : State) (o : Out) (h : Kept P s0 s) (hp : Sub 0x20000000000000 P) : Kept P s0 (s.emit o) :=
  ⟨h.member, h.pending, h.drawn, h.out.trans (List.prefix_append _ _), h.log, fun c =>
    let k := h.canonical c; ⟨k.regs, k.regsSet, k.mem, k.imem, k.lib, k.tiles, k.uzoids⟩,
    h.by (only_out s _) hp⟩

theorem kept_pldm {P : Parts} {s0 : State} (s : State) (n : Nat) (h : Kept P s0 s) (hp : Sub 0x20000000000000 P) : Kept P s0 (s.pldm n) := by
  unfold State.pldm
  split
  · exact kept_emit s _ h hp
  · exact h

theorem kept_drawn {P : Parts} {s0 : State} (s : State) (n : Nat) (h : Kept P s0 s) (hp : Sub 0x10000000000000 P) : Kept P s0 { s with drawn := s.drawn + n } :=
  ⟨h.member, h.pending, Nat.le_trans h.drawn (Nat.le_add_right _ _), h.out, h.log, fun c =>
    let k := h.canonical c; ⟨k.regs, k.regsSet, k.mem, k.imem, k.lib, k.tiles, k.uzoids⟩,
    h.by (only_drawn s _) hp⟩

theorem kept_draw_snd {P : Parts} {s0 : State} (s : State) (h : Kept P s0 s) (hp : Sub 0x10000000000000 P) : Kept P s0 s.draw.2 := kept_drawn s 1 h hp

theorem kept_draw {P : Parts} {s0 s t : State} {w : W64} (h : Kept P s0 s) (e : s.draw = (w, t)) (hp : Sub 0x10000000000000 P) : Kept P s0 t := by
  have : t = s.draw.2 := by rw [e]
  subst this; exact kept_drawn s 1 h hp

/-! ## Optional states and outcomes -/

/-- Whatever state an optional answer holds keeps it. -/
def KeptO {β : Type} (P : Parts) (s0 : State) (π : β → State) (o : Option β) : Prop := ∀ p, o = some p → Kept P s0 (π p)

theorem keptO_none {β : Type} {P : Parts} {s0 : State} (π : β → State) : KeptO P s0 π none := fun _ e => by cases e
theorem keptO_some {β : Type} {P : Parts} {s0 : State} {π : β → State} {p : β} (h : Kept P s0 (π p)) : KeptO P s0 π (some p) :=
  fun _ e => by cases e; exact h
theorem keptO_ite {β : Type} {P : Parts} {s0 : State} {π : β → State} {a b : Option β} {c : Prop} {_ : Decidable c} (ha : KeptO P s0 π a)
    (hb : KeptO P s0 π b) : KeptO P s0 π (if c then a else b) := by split <;> assumption
theorem keptO_map {α β : Type} {P : Parts} {s0 : State} {ρ : α → State} {π : β → State} (f : α → β) (o : Option α) (ho : KeptO P s0 ρ o)
    (hf : ∀ a, Kept P s0 (ρ a) → Kept P s0 (π (f a))) : KeptO P s0 π (o.map f) := by
  cases o with
  | none => exact keptO_none π
  | some a => exact keptO_some (hf a (ho a rfl))

/-- Whatever next state an outcome holds keeps it. -/
def KeptR (P : Parts) (s0 : State) (r : Res) : Prop := ∀ t, r = .next t → Kept P s0 t

theorem keptR_next {P : Parts} {s0 t : State} (h : Kept P s0 t) : KeptR P s0 (.next t) := fun _ e => by cases e; exact h
theorem keptR_fault {P : Parts} {s0 : State} (f : Fault) : KeptR P s0 (.fault f) := fun _ e => by cases e
theorem keptR_ite {P : Parts} {s0 : State} {a b : Res} {c : Prop} {_ : Decidable c} (ha : KeptR P s0 a) (hb : KeptR P s0 b) :
    KeptR P s0 (if c then a else b) := by split <;> assumption
theorem keptR_onObj {P : Parts} {s0 s t : State} {b : Bool} (hs : Kept P s0 s) (h : Kept P s0 t) : KeptR P s0 (onObj b s t) :=
  keptR_next (kept_ite h hs)

end Sys2Proof.Machine
end

