-- ==== Sys2Proof/Laws/KeptReg.lean ====
section
/-! SUPPORT. `Kept` for the operations of Machine/Reg.lean: one lemma per function that changes the state. -/
namespace Sys2Proof.Machine

theorem kept_storeRW {P : Parts} {s0 : State} (s : State) (k : Nat) (v : W64) (hk : Kept P s0 s) (hp : Sub 0x1 P) : Kept P s0 (storeRW s k v) := by
  unfold storeRW
  repeat' first
    | (with_reducible assumption)
    | (with_reducible apply kept_setReg)

theorem kept_setF {P : Parts} {s0 : State} (s : State) (page : Nat) (f : RegF) (x : Nat) (i : Nat) (hk : Kept P s0 s) (hp : Sub 0x1 P) : Kept P s0 (setF s page f x i) := by
  unfold setF
  repeat' first
    | (with_reducible assumption)
    | (with_reducible apply kept_setReg)

theorem kept_setB {P : Parts} {s0 : State} (s : State) (page : Nat) (f : RegF) (x : Bool) (i : Nat) (hk : Kept P s0 s) (hp : Sub 0x1 P) : Kept P s0 (setB s page f x i) := by
  unfold setB
  repeat' first
    | (with_reducible assumption)
    | (with_reducible apply kept_setF)

theorem kept_bumpF {P : Parts} {s0 : State} (s : State) (page : Nat) (f : RegF) (n : Nat) (i : Nat) (hk : Kept P s0 s) (hp : Sub 0x1 P) : Kept P s0 (bumpF s page f n i) := by
  unfold bumpF
  repeat' first
    | (with_reducible assumption)
    | (with_reducible apply kept_setF)

theorem kept_wrapF {P : Parts} {s0 : State} (s : State) (page : Nat) (f : RegF) (n : Nat) (i : Nat) (hk : Kept P s0 s) (hp : Sub 0x1 P) : Kept P s0 (wrapF s page f n i) := by
  unfold wrapF
  repeat' first
    | (with_reducible assumption)
    | (with_reducible apply kept_setF)

theorem kept_maxF {P : Parts} {s0 : State} (s : State) (page : Nat) (f : RegF) (x : Nat) (i : Nat) (hk : Kept P s0 s) (hp : Sub 0x1 P) : Kept P s0 (maxF s page f x i) := by
  unfold maxF
  repeat' first
    | (with_reducible assumption)
    | (with_reducible apply kept_setF)

theorem kept_recordErr {P : Parts} {s0 : State} (s : State) (page : Nat) (code : Nat) (tag : Nat) (hk : Kept P s0 s) (hp : Sub 0x1 P) : Kept P s0 (recordErr s page code tag) := by
  unfold recordErr
  repeat' first
    | (with_reducible assumption)
    | (extract_lets +onlyGivenNames yk; refine (kept_some (P := P) (s0 := s0) yk ?_).elim (fun _ hyk => ?_); subst yk; rotate_left; rw [hyk.2]; have _ := hyk.1; clear hyk; clear yk; rotate_left)
    | (with_reducible refine kept_ite ?_ ?_)
    | (with_reducible apply kept_bumpF)
    | (with_reducible apply kept_setReg)

theorem kept_refusal {P : Parts} {s0 : State} (s : State) (page : Nat) (hk : Kept P s0 s) (hp : Sub 0x1 P) : Kept P s0 (refusal s page) := by
  unfold refusal
  repeat' first
    | (with_reducible assumption)
    | (with_reducible apply kept_bumpF)

theorem kept_event {P : Parts} {s0 : State} (s : State) (page : Nat) (n : Nat) (hk : Kept P s0 s) (hp : Sub 0x1 P) : Kept P s0 (event s page n) := by
  unfold event
  repeat' first
    | (with_reducible assumption)
    | (with_reducible apply kept_setReg)

theorem kept_settleVec {P : Parts} {s0 : State} (s : State) (hk : Kept P s0 s) (hp : Sub 0x28 P) : Kept P s0 (settleVec s) := by
  unfold settleVec
  repeat' first
    | (with_reducible assumption)
    | ((with_reducible refine kept_mk 0x28 ?_ ?_ ?_ ?_); rotate_left; rfl; (constructor <;> first | exact fun _ => rfl | exact fun h => absurd h (by decide)); apply Sub.le hp; rfl)

theorem kept_resendVec {P : Parts} {s0 : State} (s : State) (blk : Nat) (hk : Kept P s0 s) (hp : Sub 0x28 P) : Kept P s0 (resendVec s blk) := by
  unfold resendVec
  repeat' first
    | (with_reducible assumption)
    | ((with_reducible refine kept_mk 0x28 ?_ ?_ ?_ ?_); rotate_left; rfl; (constructor <;> first | exact fun _ => rfl | exact fun h => absurd h (by decide)); apply Sub.le hp; rfl)

theorem kept_w1c {P : Parts} {s0 : State} (s : State) (k : Nat) (v : W64) (hk : Kept P s0 s) (hp : Sub 0x1 P) : Kept P s0 (w1c s k v) := by
  unfold w1c
  repeat' first
    | (with_reducible assumption)
    | (extract_lets +onlyGivenNames yk; refine (kept_some (P := P) (s0 := s0) yk ?_).elim (fun _ hyk => ?_); subst yk; rotate_left; rw [hyk.2]; have _ := hyk.1; clear hyk; clear yk; rotate_left)
    | (with_reducible refine kept_ite ?_ ?_)
    | (with_reducible apply kept_setReg)

end Sys2Proof.Machine
end

