-- ==== Sys2Proof/Laws/KeptOps.lean ====
section
/-! SUPPORT. `Kept` for the operations of Machine/Ops.lean: one lemma per function that changes the state. -/
namespace Sys2Proof.Machine

theorem keptR_onPage {P : Parts} {s0 s t : State} {b : Bool} {off : Nat} (hs : Kept P s0 s) (h : Kept P s0 t) (hp : Sub 0x1 P) :
    KeptR P s0 (onPage b off s t) := keptR_next (kept_ite h (kept_recordErr _ _ _ _ hs (hp.le rfl)))

theorem kept_updChan {P : Parts} {s0 : State} (s : State) (st : Nat) (ch : Nat) (f : Channel → Channel) (hk : Kept P s0 s) (hp : Sub 0x1000 P) : Kept P s0 (State.updChan s st ch f) := by
  unfold State.updChan
  repeat' first
    | (with_reducible assumption)
    | ((with_reducible refine kept_mk 0x1000 ?_ ?_ ?_ ?_); rotate_left; rfl; (constructor <;> first | exact fun _ => rfl | exact fun h => absurd h (by decide)); apply Sub.le hp; rfl)

theorem kept_updBank {P : Parts} {s0 : State} (s : State) (st : Nat) (ch : Nat) (b : Nat) (f : Bank → Bank) (hk : Kept P s0 s) (hp : Sub 0x1000 P) : Kept P s0 (State.updBank s st ch b f) := by
  unfold State.updBank
  repeat' first
    | (with_reducible assumption)
    | (with_reducible apply kept_updChan)

theorem kept_updStack {P : Parts} {s0 : State} (s : State) (st : Nat) (f : Stack → Stack) (hk : Kept P s0 s) (hp : Sub 0x2000 P) : Kept P s0 (State.updStack s st f) := by
  unfold State.updStack
  repeat' first
    | (with_reducible assumption)
    | ((with_reducible refine kept_mk 0x2000 ?_ ?_ ?_ ?_); rotate_left; rfl; (constructor <;> first | exact fun _ => rfl | exact fun h => absurd h (by decide)); apply Sub.le hp; rfl)

theorem kept_updUnit {P : Parts} {s0 : State} (s : State) (u : Nat) (f : Unit → Unit) (hk : Kept P s0 s) (hp : Sub 0x4000 P) : Kept P s0 (State.updUnit s u f) := by
  unfold State.updUnit
  repeat' first
    | (with_reducible assumption)
    | ((with_reducible refine kept_mk 0x4000 ?_ ?_ ?_ ?_); rotate_left; rfl; (constructor <;> first | exact fun _ => rfl | exact fun h => absurd h (by decide)); apply Sub.le hp; rfl)

theorem kept_updSeq {P : Parts} {s0 : State} (s : State) (d : Nat) (f : Seq → Seq) (hk : Kept P s0 s) (hp : Sub 0x10000 P) : Kept P s0 (State.updSeq s d f) := by
  unfold State.updSeq
  repeat' first
    | (with_reducible assumption)
    | ((with_reducible refine kept_mk 0x10000 ?_ ?_ ?_ ?_); rotate_left; rfl; (constructor <;> first | exact fun _ => rfl | exact fun h => absurd h (by decide)); apply Sub.le hp; rfl)

theorem kept_updArb {P : Parts} {s0 : State} (s : State) (d : Nat) (i : Nat) (f : Arb → Arb) (hk : Kept P s0 s) (hp : Sub 0x8000000 P) : Kept P s0 (State.updArb s d i f) := by
  unfold State.updArb
  repeat' first
    | (with_reducible assumption)
    | ((with_reducible refine kept_mk 0x8000000 ?_ ?_ ?_ ?_); rotate_left; rfl; (constructor <;> first | exact fun _ => rfl | exact fun h => absurd h (by decide)); apply Sub.le hp; rfl)

theorem kept_updPort {P : Parts} {s0 : State} (s : State) (p : Nat) (f : Port → Port) (hk : Kept P s0 s) (hp : Sub 0x20000000 P) : Kept P s0 (State.updPort s p f) := by
  unfold State.updPort
  repeat' first
    | (with_reducible assumption)
    | ((with_reducible refine kept_mk 0x20000000 ?_ ?_ ?_ ?_); rotate_left; rfl; (constructor <;> first | exact fun _ => rfl | exact fun h => absurd h (by decide)); apply Sub.le hp; rfl)

theorem kept_updAlloc {P : Parts} {s0 : State} (s : State) (i : Nat) (f : AllocE → AllocE) (hk : Kept P s0 s) (hp : Sub 0x200000 P) : Kept P s0 (State.updAlloc s i f) := by
  unfold State.updAlloc
  repeat' first
    | (with_reducible assumption)
    | ((with_reducible refine kept_mk 0x200000 ?_ ?_ ?_ ?_); rotate_left; rfl; (constructor <;> first | exact fun _ => rfl | exact fun h => absurd h (by decide)); apply Sub.le hp; rfl)

theorem kept_updOtab {P : Parts} {s0 : State} (s : State) (i : Nat) (f : OTab → OTab) (hk : Kept P s0 s) (hp : Sub 0x400000 P) : Kept P s0 (State.updOtab s i f) := by
  unfold State.updOtab
  repeat' first
    | (with_reducible assumption)
    | ((with_reducible refine kept_mk 0x400000 ?_ ?_ ?_ ?_); rotate_left; rfl; (constructor <;> first | exact fun _ => rfl | exact fun h => absurd h (by decide)); apply Sub.le hp; rfl)

theorem kept_raiseCause {P : Parts} {s0 : State} (s : State) (c : Cause) (hk : Kept P s0 s) (hp : Sub 0x8000000000 P) : Kept P s0 (raiseCause s c) := by
  unfold raiseCause
  repeat' first
    | (with_reducible assumption)
    | ((with_reducible refine kept_mk 0x8000000000 ?_ ?_ ?_ ?_); rotate_left; rfl; (constructor <;> first | exact fun _ => rfl | exact fun h => absurd h (by decide)); apply Sub.le hp; rfl)

theorem kept_bite {P : Parts} {s0 : State} (s : State) (die : Nat) (blk : Nat) (inst : Nat) (code : Nat) (tag : Nat) (hk : Kept P s0 s) (hp : Sub 0x8000000000 P) : Kept P s0 (bite s die blk inst code tag) := by
  unfold bite
  repeat' first
    | (with_reducible assumption)
    | (with_reducible apply kept_raiseCause)

theorem kept_fwAssert {P : Parts} {s0 : State} (s : State) (die : Nat) (blk : Nat) (inst : Nat) (code : Nat) (tag : Nat) (hk : Kept P s0 s) (hp : Sub 0x8000000000 P) : Kept P s0 (fwAssert s die blk inst code tag) := by
  unfold fwAssert
  repeat' first
    | (with_reducible assumption)
    | (with_reducible apply kept_raiseCause)

theorem kept_addEnergy {P : Parts} {s0 : State} (s : State) (page : Nat) (rail : Nat) (e : Nat) (hk : Kept P s0 s) (hp : Sub 0x4000000000 P) : Kept P s0 (addEnergy s page rail e) := by
  unfold addEnergy
  repeat' first
    | (with_reducible assumption)
    | (extract_lets +onlyGivenNames yk; clear_value yk; revert yk; intro _)
    | ((with_reducible refine kept_mk 0x4000000000 ?_ ?_ ?_ ?_); rotate_left; rfl; (constructor <;> first | exact fun _ => rfl | exact fun h => absurd h (by decide)); apply Sub.le hp; rfl)

theorem kept_charge {P : Parts} {s0 : State} (s : State) (page : Nat) (n : Nat) (k : Nat) (hk : Kept P s0 s) (hp : Sub 0x4000000000 P) : Kept P s0 (charge s page n k) := by
  unfold charge
  repeat' first
    | (with_reducible assumption)
    | (with_reducible apply kept_addEnergy)

theorem kept_dropMem {P : Parts} {s0 : State} (s : State) (q : Nat → Bool) (hk : Kept P s0 s) (hp : Sub 0x100 P) : Kept P s0 (s.dropMem q) :=
  kept_mem hk (twf_filter _ _ _) rfl (hp.le rfl)

theorem kept_setPoison {P : Parts} {s0 : State} (s : State) (a : Nat) (on : Bool) (hk : Kept P s0 s) (hp : Sub 0x800000200 P) : Kept P s0 (State.setPoison s a on) := by
  unfold State.setPoison
  repeat' first
    | (with_reducible assumption)
    | (extract_lets +onlyGivenNames yk; clear_value yk; revert yk; intro _)
    | split
    | ((with_reducible refine kept_mk 0x800000200 ?_ ?_ ?_ ?_); rotate_left; rfl; (constructor <;> first | exact fun _ => rfl | exact fun h => absurd h (by decide)); apply Sub.le hp; rfl)

theorem kept_addFlip {P : Parts} {s0 : State} (s : State) (f : Flip) (hk : Kept P s0 s) (hp : Sub 0x400 P) : Kept P s0 (State.addFlip s f) := by
  unfold State.addFlip
  repeat' first
    | (with_reducible assumption)
    | ((with_reducible refine kept_mk 0x400 ?_ ?_ ?_ ?_); rotate_left; rfl; (constructor <;> first | exact fun _ => rfl | exact fun h => absurd h (by decide)); apply Sub.le hp; rfl)

theorem kept_addFlips {P : Parts} {s0 : State} (s : State) (l : List Flip) (hk : Kept P s0 s) (hp : Sub 0x400 P) : Kept P s0 (State.addFlips s l) := by
  unfold State.addFlips
  repeat' first
    | (with_reducible assumption)
    | (with_reducible refine kept_foldl _ _ _ (fun _ _ _ => ?_) ?_)
    | (with_reducible apply kept_addFlip)

end Sys2Proof.Machine
end

