-- ==== Sys2Proof/Laws/KeptPromise.lean ====
section
/-! SUPPORT. `Kept` for the operations of Machine/Promise.lean: one lemma per function that changes the state. -/
namespace Sys2Proof.Machine

theorem kept_dropLog {P : Parts} {s0 : State} (s : State) (k : Nat) (lo : Nat) (hk : Kept P s0 s) (hp : Sub 0x1 P) : Kept P s0 (dropLog s k lo) := by
  unfold dropLog
  repeat' first
    | (with_reducible assumption)
    | (extract_lets +onlyGivenNames yk; clear_value yk; revert yk; intro _)
    | (with_reducible apply kept_recordErr)

theorem kept_voidPlan {P : Parts} {s0 : State} (s : State) (hk : Kept P s0 s) (hp : Sub 0x1 P) : Kept P s0 (voidPlan s) := by
  unfold voidPlan
  repeat' first
    | (with_reducible assumption)
    | (with_reducible refine kept_ite ?_ ?_)
    | (with_reducible apply kept_event)
    | (with_reducible apply kept_setF)

theorem kept_coolLost {P : Parts} {s0 : State} (s : State) (st : Nat) (hk : Kept P s0 s) (hp : Sub 0x1 P) : Kept P s0 (coolLost s st) := by
  unfold coolLost
  repeat' first
    | (with_reducible assumption)
    | (with_reducible refine kept_ite ?_ ?_)
    | (with_reducible apply kept_event)
    | (with_reducible apply kept_setF)
    | split

theorem kept_planStart {P : Parts} {s0 : State} (s : State) (hk : Kept P s0 s) (hp : Sub 0x3000000001 P) : Kept P s0 (planStart s) := by
  unfold planStart
  repeat' first
    | (with_reducible assumption)
    | ((with_reducible apply Sub.le hp); rfl)
    | (extract_lets +onlyGivenNames yk; refine (kept_some (P := P) (s0 := s0) yk ?_).elim (fun _ hyk => ?_); subst yk; rotate_left; rw [hyk.2]; have _ := hyk.1; clear hyk; clear yk; rotate_left)
    | (extract_lets +onlyGivenNames yk; clear_value yk; revert yk; intro _)
    | (with_reducible apply kept_event)
    | (with_reducible apply kept_setF)
    | split
    | ((with_reducible refine kept_mk 0x3000000000 ?_ ?_ ?_ ?_); rotate_left; rfl; (constructor <;> first | exact fun _ => rfl | exact fun h => absurd h (by decide)); apply Sub.le hp; rfl)

theorem kept_planMark {P : Parts} {s0 : State} (s : State) (q : Plan → Bool) (hk : Kept P s0 s) (hp : Sub 0x2000000000 P) : Kept P s0 (planMark s q) := by
  unfold planMark
  repeat' first
    | (with_reducible assumption)
    | ((with_reducible refine kept_mk 0x2000000000 ?_ ?_ ?_ ?_); rotate_left; rfl; (constructor <;> first | exact fun _ => rfl | exact fun h => absurd h (by decide)); apply Sub.le hp; rfl)

end Sys2Proof.Machine
end

