-- ==== Sys2Proof/Laws/KeptEcc.lean ====
section
/-! SUPPORT. `Kept` for the operations of Machine/Ecc.lean: one lemma per function that changes the state. -/
namespace Sys2Proof.Machine

theorem kept_cxlEvent {P : Parts} {s0 : State} (s : State) (kind : Nat) (arg : Nat) (corrected : Bool) (hk : Kept P s0 s) (hp : Sub 0x800000008 P) : Kept P s0 (cxlEvent s kind arg corrected) := by
  unfold cxlEvent
  repeat' first
    | (with_reducible assumption)
    | (extract_lets +onlyGivenNames yk; clear_value yk; revert yk; intro _)
    | ((with_reducible refine kept_mk 0x800000008 ?_ ?_ ?_ ?_); rotate_left; rfl; (constructor <;> first | exact fun _ => rfl | exact fun h => absurd h (by decide)); apply Sub.le hp; rfl)

theorem kept_requestWindow {P : Parts} {s0 : State} (s : State) (st : Nat) (ch : Nat) (hk : Kept P s0 s) (hp : Sub 0x1 P) : Kept P s0 (requestWindow s st ch) := by
  unfold requestWindow
  repeat' first
    | (with_reducible assumption)
    | (extract_lets +onlyGivenNames yk; refine (kept_some (P := P) (s0 := s0) yk ?_).elim (fun _ hyk => ?_); subst yk; rotate_left; rw [hyk.2]; have _ := hyk.1; clear hyk; clear yk; rotate_left)
    | (extract_lets +onlyGivenNames yk; clear_value yk; revert yk; intro _)
    | (with_reducible refine kept_ite ?_ ?_)
    | (with_reducible apply kept_bumpF)
    | (with_reducible apply kept_event)
    | (with_reducible apply kept_setB)

theorem kept_updWire {P : Parts} {s0 : State} (s : State) (st : Nat) (ch : Nat) (w : Nat) (f : Wire → Wire) (hk : Kept P s0 s) (hp : Sub 0x2000 P) : Kept P s0 (updWire s st ch w f) := by
  unfold updWire
  repeat' first
    | (with_reducible assumption)
    | (with_reducible apply kept_updStack)

theorem kept_laneCe {P : Parts} {s0 : State} (s : State) (st : Nat) (ch : Nat) (w : Nat) (hk : Kept P s0 s) (hp : Sub 0x2001 P) : Kept P s0 (laneCe s st ch w) := by
  unfold laneCe
  repeat' first
    | (with_reducible assumption)
    | ((with_reducible apply Sub.le hp); rfl)
    | (extract_lets +onlyGivenNames yk; refine (kept_some (P := P) (s0 := s0) yk ?_).elim (fun _ hyk => ?_); subst yk; rotate_left; rw [hyk.2]; have _ := hyk.1; clear hyk; clear yk; rotate_left)
    | (extract_lets +onlyGivenNames yk; clear_value yk; revert yk; intro _)
    | (with_reducible refine kept_ite ?_ ?_)
    | (with_reducible apply kept_event)
    | (with_reducible apply kept_requestWindow)
    | (with_reducible apply kept_updWire)

theorem kept_logRec {P : Parts} {s0 : State} (s : State) (r : RowId) (kind : Nat) (mode : Nat) (src : Nat) (mask : Nat) (lanes : Nat) (corr : Nat) (hk : Kept P s0 s) (hp : Sub 0x2001 P) : Kept P s0 (logRec s r kind mode src mask lanes corr) := by
  unfold logRec
  repeat' first
    | (with_reducible assumption)
    | ((with_reducible apply Sub.le hp); rfl)
    | (extract_lets +onlyGivenNames yk; refine (kept_some (P := P) (s0 := s0) yk ?_).elim (fun _ hyk => ?_); subst yk; rotate_left; rw [hyk.2]; have _ := hyk.1; clear hyk; clear yk; rotate_left)
    | (extract_lets +onlyGivenNames yk; clear_value yk; revert yk; intro _)
    | (with_reducible refine kept_ite ?_ ?_)
    | (with_reducible apply kept_bumpF)
    | (with_reducible apply kept_event)
    | (with_reducible apply kept_updStack)
    | (with_reducible apply kept_wrapF)

theorem kept_logCe {P : Parts} {s0 : State} (s : State) (r : RowId) (kind : Nat) (mode : Nat) (src : Nat) (mask : Nat) (wires : List Nat) (corr : Nat) (hk : Kept P s0 s) (hp : Sub 0x800002009 P) : Kept P s0 (logCe s r kind mode src mask wires corr) := by
  unfold logCe
  repeat' first
    | (with_reducible assumption)
    | ((with_reducible apply Sub.le hp); rfl)
    | (extract_lets +onlyGivenNames yk; refine (kept_some (P := P) (s0 := s0) yk ?_).elim (fun _ hyk => ?_); subst yk; rotate_left; rw [hyk.2]; have _ := hyk.1; clear hyk; clear yk; rotate_left)
    | (extract_lets +onlyGivenNames yk; clear_value yk; revert yk; intro _)
    | (with_reducible refine kept_forEach _ _ _ (fun _ _ _ => ?_) ?_)
    | (with_reducible refine kept_ite ?_ ?_)
    | (with_reducible apply kept_bumpF)
    | (with_reducible apply kept_cxlEvent)
    | (with_reducible apply kept_event)
    | (with_reducible apply kept_laneCe)
    | (with_reducible apply kept_logRec)

theorem kept_logUe {P : Parts} {s0 : State} (s : State) (r : RowId) (kind : Nat) (mode : Nat) (src : Nat) (mask : Nat) (hk : Kept P s0 s) (hp : Sub 0x800002009 P) : Kept P s0 (logUe s r kind mode src mask) := by
  unfold logUe
  repeat' first
    | (with_reducible assumption)
    | ((with_reducible apply Sub.le hp); rfl)
    | (extract_lets +onlyGivenNames yk; refine (kept_some (P := P) (s0 := s0) yk ?_).elim (fun _ hyk => ?_); subst yk; rotate_left; rw [hyk.2]; have _ := hyk.1; clear hyk; clear yk; rotate_left)
    | (extract_lets +onlyGivenNames yk; clear_value yk; revert yk; intro _)
    | (with_reducible apply kept_bumpF)
    | (with_reducible apply kept_cxlEvent)
    | (with_reducible apply kept_event)
    | (with_reducible apply kept_logRec)
    | (with_reducible apply kept_recordErr)

theorem kept_logHole {P : Parts} {s0 : State} (s : State) (r : RowId) (kind : Nat) (src : Nat) (mask : Nat) (hk : Kept P s0 s) (hp : Sub 0x2001 P) : Kept P s0 (logHole s r kind src mask) := by
  unfold logHole
  repeat' first
    | (with_reducible assumption)
    | ((with_reducible apply Sub.le hp); rfl)
    | (extract_lets +onlyGivenNames yk; refine (kept_some (P := P) (s0 := s0) yk ?_).elim (fun _ hyk => ?_); subst yk; rotate_left; rw [hyk.2]; have _ := hyk.1; clear hyk; clear yk; rotate_left)
    | (extract_lets +onlyGivenNames yk; clear_value yk; revert yk; intro _)
    | (with_reducible refine kept_ite ?_ ?_)
    | (with_reducible apply kept_bumpF)
    | (with_reducible apply kept_logRec)
    | (with_reducible apply kept_recordErr)

theorem kept_clrFlips {P : Parts} {s0 : State} (s : State) (k : Nat) (hk : Kept P s0 s) (hp : Sub 0x400 P) : Kept P s0 (State.clrFlips s k) := by
  unfold State.clrFlips
  repeat' first
    | (with_reducible assumption)
    | ((with_reducible refine kept_mk 0x400 ?_ ?_ ?_ ?_); rotate_left; rfl; (constructor <;> first | exact fun _ => rfl | exact fun h => absurd h (by decide)); apply Sub.le hp; rfl)

theorem kept_bakeSector {P : Parts} {s0 : State} (s : State) (k : Nat) (hk : Kept P s0 s) (hp : Sub 0x800000700 P) : Kept P s0 (bakeSector s k) := by
  unfold bakeSector
  repeat' first
    | (with_reducible assumption)
    | ((with_reducible apply Sub.le hp); rfl)
    | (extract_lets +onlyGivenNames yk; clear_value yk; revert yk; intro _)
    | (with_reducible apply kept_clrFlips)
    | (with_reducible apply kept_setPoison)
    | (with_reducible apply kept_wrMem)

theorem kept_queueRebuild {P : Parts} {s0 : State} (s : State) (p : RowId) (hk : Kept P s0 s) (hp : Sub 0x2000 P) : Kept P s0 (queueRebuild s p) := by
  unfold queueRebuild
  repeat' first
    | (with_reducible assumption)
    | (extract_lets +onlyGivenNames yk; clear_value yk; revert yk; intro _)
    | (with_reducible apply kept_updStack)

theorem kept_addBits {P : Parts} {s0 : State} (s : State) (k : Nat) (l : List Nat) (hk : Kept P s0 s) (hp : Sub 0x400 P) : Kept P s0 (State.addBits s k l) := by
  unfold State.addBits
  repeat' first
    | (with_reducible assumption)
    | ((with_reducible refine kept_mk 0x400 ?_ ?_ ?_ ?_); rotate_left; rfl; (constructor <;> first | exact fun _ => rfl | exact fun h => absurd h (by decide)); apply Sub.le hp; rfl)

theorem kept_addRowBits {P : Parts} {s0 : State} (s : State) (r : RowId) (l : List Nat) (hk : Kept P s0 s) (hp : Sub 0x400 P) : Kept P s0 (State.addRowBits s r l) := by
  unfold State.addRowBits
  repeat' first
    | (with_reducible assumption)
    | (with_reducible refine kept_forEach _ _ _ (fun _ _ _ => ?_) ?_)
    | (with_reducible apply kept_addBits)

theorem kept_keepParity {P : Parts} {s0 : State} (s : State) (p : RowId) (l : List (Nat × List Nat)) (hk : Kept P s0 s) (hp : Sub 0xc00 P) : Kept P s0 (keepParity s p l) := by
  unfold keepParity
  repeat' first
    | (with_reducible assumption)
    | ((with_reducible apply Sub.le hp); rfl)
    | (extract_lets +onlyGivenNames yk; refine (kept_some (P := P) (s0 := s0) yk ?_).elim (fun _ hyk => ?_); subst yk; rotate_left; rw [hyk.2]; have _ := hyk.1; clear hyk; clear yk; rotate_left)
    | (extract_lets +onlyGivenNames yk; clear_value yk; revert yk; intro _)
    | (with_reducible refine kept_forEach _ _ _ (fun _ _ _ => ?_) ?_)
    | (with_reducible apply kept_clrFlips)
    | ((with_reducible refine kept_mk 0x800 ?_ ?_ ?_ ?_); rotate_left; rfl; (constructor <;> first | exact fun _ => rfl | exact fun h => absurd h (by decide)); apply Sub.le hp; rfl)

theorem kept_decodeParity {P : Parts} {s0 : State} (s : State) (p : RowId) (src : Nat) (hk : Kept P s0 s) (hp : Sub 0x800002c09 P) : Kept P s0 (decodeParity s p src).2 := by
  unfold decodeParity; dsimp only
  repeat' first
    | (with_reducible assumption)
    | ((with_reducible apply Sub.le hp); rfl)
    | (with_reducible apply kept_addRowBits)
    | (with_reducible apply kept_keepParity)
    | (with_reducible apply kept_logCe)
    | (with_reducible apply kept_logUe)
    | (with_reducible apply kept_queueRebuild)
    | split

theorem kept_decodeParity_eq {P : Parts} {s0 : State} {x0} {tt} (s : State) (p : RowId) (src : Nat) (hk : Kept P s0 s) (hp : Sub 0x800002c09 P) (he : decodeParity s p src = (x0, tt)) : Kept P s0 tt := by
  have g := kept_decodeParity s p src hk hp
  rw [he] at g; exact g

theorem kept_writeback {P : Parts} {s0 : State} (s : State) (st : Nat) (ch : Nat) (l : Line) (hk : Kept P s0 s) (hp : Sub 0x4800003c09 P) : Kept P s0 (writeback s st ch l) := by
  unfold writeback; dsimp only
  repeat' first
    | (with_reducible assumption)
    | ((with_reducible apply Sub.le hp); rfl)
    | (with_reducible refine kept_forEach _ _ _ (fun _ _ _ => ?_) ?_)
    | (with_reducible refine kept_ite ?_ ?_)
    | (with_reducible apply kept_charge)
    | (with_reducible apply kept_clrFlips)
    | (with_reducible apply kept_decodeParity)
    | (with_reducible apply kept_updBank)
    | (with_reducible apply kept_updChan)

theorem kept_openParity {P : Parts} {s0 : State} (s : State) (p : RowId) (hk : Kept P s0 s) (hp : Sub 0x4800003c09 P) : Kept P s0 (openParity s p) := by
  unfold openParity
  repeat' first
    | (with_reducible assumption)
    | (with_reducible refine kept_ite ?_ ?_)
    | (with_reducible apply kept_writeback)
    | split

theorem kept_readySlot {P : Parts} {s0 : State} (s : State) (r : RowId) (src : Nat) (hk : Kept P s0 s) (hp : Sub 0x4800003c09 P) : Kept P s0 (readySlot s r src).2 := by
  unfold readySlot
  repeat' first
    | (with_reducible assumption)
    | ((with_reducible apply Sub.le hp); rfl)
    | (extract_lets +onlyGivenNames yk; refine (kept_some (P := P) (s0 := s0) yk ?_).elim (fun _ hyk => ?_); subst yk; rotate_left; rw [hyk.2]; have _ := hyk.1; clear hyk; clear yk; rotate_left)
    | (extract_lets +onlyGivenNames yk; clear_value yk; revert yk; intro _)
    | (with_reducible apply kept_decodeParity)
    | (with_reducible apply kept_openParity)
    | split

theorem kept_readySlot_eq {P : Parts} {s0 : State} {x0} {tt} (s : State) (r : RowId) (src : Nat) (hk : Kept P s0 s) (hp : Sub 0x4800003c09 P) (he : readySlot s r src = (x0, tt)) : Kept P s0 tt := by
  have g := kept_readySlot s r src hk hp
  rw [he] at g; exact g

theorem kept_freshSlot {P : Parts} {s0 : State} (s : State) (r : RowId) (hk : Kept P s0 s) (hp : Sub 0xc00 P) : Kept P s0 (freshSlot s r) := by
  unfold freshSlot
  repeat' first
    | (with_reducible assumption)
    | ((with_reducible apply Sub.le hp); rfl)
    | (extract_lets +onlyGivenNames yk; refine (kept_some (P := P) (s0 := s0) yk ?_).elim (fun _ hyk => ?_); subst yk; rotate_left; rw [hyk.2]; have _ := hyk.1; clear hyk; clear yk; rotate_left)
    | (with_reducible refine kept_forEach _ _ _ (fun _ _ _ => ?_) ?_)
    | (with_reducible refine kept_ite ?_ ?_)
    | (with_reducible apply kept_clrFlips)
    | ((with_reducible refine kept_mk 0x800 ?_ ?_ ?_ ?_); rotate_left; rfl; (constructor <;> first | exact fun _ => rfl | exact fun h => absurd h (by decide)); apply Sub.le hp; rfl)

theorem kept_decodeRow {P : Parts} {s0 : State} (s : State) (r : RowId) (kind : Nat) (mode : Nat) (src : Nat) (hk : Kept P s0 s) (hp : Sub 0x4800003f09 P) : Kept P s0 (decodeRow s r kind mode src).2 := by
  unfold decodeRow; dsimp only
  repeat' first
    | (with_reducible assumption)
    | ((with_reducible apply Sub.le hp); rfl)
    | (with_reducible refine kept_forEach _ _ _ (fun _ _ _ => ?_) ?_)
    | (with_reducible refine kept_ite ?_ ?_)
    | (with_reducible apply kept_addRowBits)
    | (with_reducible apply kept_bakeSector)
    | (with_reducible apply kept_freshSlot)
    | (with_reducible apply kept_logCe)
    | (with_reducible apply kept_logUe)
    | (with_reducible apply kept_readySlot)
    | split

theorem kept_decodeRow_eq {P : Parts} {s0 : State} {x0} {tt} (s : State) (r : RowId) (kind : Nat) (mode : Nat) (src : Nat) (hk : Kept P s0 s) (hp : Sub 0x4800003f09 P) (he : decodeRow s r kind mode src = (x0, tt)) : Kept P s0 tt := by
  have g := kept_decodeRow s r kind mode src hk hp
  rw [he] at g; exact g

theorem kept_dirtyLine {P : Parts} {s0 : State} (s : State) (r : RowId) (whole : Bool) (src : Nat) (hk : Kept P s0 s) (hp : Sub 0x4800003c09 P) : Kept P s0 (dirtyLine s r whole src) := by
  unfold dirtyLine
  repeat' first
    | (with_reducible assumption)
    | ((with_reducible apply Sub.le hp); rfl)
    | (extract_lets +onlyGivenNames yk; refine (kept_some (P := P) (s0 := s0) yk ?_).elim (fun _ hyk => ?_); subst yk; rotate_left; rw [hyk.2]; have _ := hyk.1; clear hyk; clear yk; rotate_left)
    | (with_reducible refine kept_ite ?_ ?_)
    | (with_reducible apply kept_readySlot)
    | (with_reducible apply kept_updChan)
    | (with_reducible apply kept_writeback)
    | split
    | ((with_reducible refine kept_mk 0x800 ?_ ?_ ?_ ?_); rotate_left; rfl; (constructor <;> first | exact fun _ => rfl | exact fun h => absurd h (by decide)); apply Sub.le hp; rfl)

theorem kept_flushStack {P : Parts} {s0 : State} (s : State) (st : Nat) (hk : Kept P s0 s) (hp : Sub 0x4800003c09 P) : Kept P s0 (flushStack s st) := by
  unfold flushStack
  repeat' first
    | (with_reducible assumption)
    | (with_reducible refine kept_forEach _ _ _ (fun _ _ _ => ?_) ?_)
    | (with_reducible refine kept_ite ?_ ?_)
    | (with_reducible apply kept_writeback)

theorem kept_startFlush {P : Parts} {s0 : State} (s : State) (st : Nat) (hk : Kept P s0 s) (hp : Sub 0x1 P) : Kept P s0 (startFlush s st) := by
  unfold startFlush
  repeat' first
    | (with_reducible assumption)
    | (with_reducible apply kept_setB)

theorem kept_flushDirty {P : Parts} {s0 : State} (s : State) (st : Nat) (hk : Kept P s0 s) (hp : Sub 0x1 P) : Kept P s0 (flushDirty s st) := by
  unfold flushDirty
  repeat' first
    | (with_reducible assumption)
    | (with_reducible refine kept_ite ?_ ?_)
    | (with_reducible apply kept_startFlush)

end Sys2Proof.Machine
end

