-- ==== Sys2Proof/Laws/KeptEgress.lean ====
section
/-! SUPPORT. `Kept` for the operations of Machine/Egress.lean: one lemma per function that changes the state. -/
namespace Sys2Proof.Machine

theorem kept_toEgress {P : Parts} {s0 : State} (s : State) (die : Nat) (p : Pkt) (hk : Kept P s0 s) (hp : Sub 0x400000000 P) : Kept P s0 (toEgress s die p) := by
  unfold toEgress
  repeat' first
    | (with_reducible assumption)
    | (with_reducible refine kept_ite ?_ ?_)
    | ((with_reducible refine kept_mk 0x400000000 ?_ ?_ ?_ ?_); rotate_left; rfl; (constructor <;> first | exact fun _ => rfl | exact fun h => absurd h (by decide)); apply Sub.le hp; rfl)

theorem kept_answer {P : Parts} {s0 : State} (s : State) (q : InPkt) (status : Nat) (data : List Byte) (poison : List Bool) (hk : Kept P s0 s) (hp : Sub 0x400000200 P) : Kept P s0 (answer s q status data poison) := by
  unfold answer
  repeat' first
    | (with_reducible assumption)
    | ((with_reducible apply Sub.le hp); rfl)
    | (extract_lets +onlyGivenNames yk; clear_value yk; revert yk; intro _)
    | (with_reducible apply kept_toEgress)

theorem kept_openIn {P : Parts} {s0 : State} (s : State) (port : Nat) (left : Nat) (p : Pkt) (hk : Kept P s0 s) (hp : Sub 0x300000000 P) : Kept P s0 (openIn s port left p).2 := by
  unfold openIn
  repeat' first
    | (with_reducible assumption)
    | (dsimp only)
    | ((with_reducible refine kept_mk 0x300000000 ?_ ?_ ?_ ?_); rotate_left; rfl; (constructor <;> first | exact fun _ => rfl | exact fun h => absurd h (by decide)); apply Sub.le hp; rfl)

theorem kept_openIn_eq {P : Parts} {s0 : State} {x0} {tt} (s : State) (port : Nat) (left : Nat) (p : Pkt) (hk : Kept P s0 s) (hp : Sub 0x300000000 P) (he : openIn s port left p = (x0, tt)) : Kept P s0 tt := by
  have g := kept_openIn s port left p hk hp
  rw [he] at g; exact g

theorem kept_inDone {P : Parts} {s0 : State} (s : State) (id : Nat) (got : Option (Nat × List Byte × List Bool)) (status : Nat) (hk : Kept P s0 s) (hp : Sub 0x500000200 P) : Kept P s0 (inDone s id got status) := by
  unfold inDone
  repeat' first
    | (with_reducible assumption)
    | ((with_reducible apply Sub.le hp); rfl)
    | (extract_lets +onlyGivenNames yk; refine (kept_some (P := P) (s0 := s0) yk ?_).elim (fun _ hyk => ?_); subst yk; rotate_left; rw [hyk.2]; have _ := hyk.1; clear hyk; clear yk; rotate_left)
    | (extract_lets +onlyGivenNames yk; clear_value yk; revert yk; intro _)
    | (with_reducible refine kept_ite ?_ ?_)
    | (with_reducible apply kept_answer)
    | split
    | ((with_reducible refine kept_mk 0x100000000 ?_ ?_ ?_ ?_); rotate_left; rfl; (constructor <;> first | exact fun _ => rfl | exact fun h => absurd h (by decide)); apply Sub.le hp; rfl)

theorem kept_cxlReadDone {P : Parts} {s0 : State} (s : State) (tag : Nat) (data : List Byte) (bad : Bool) (hk : Kept P s0 s) (hp : Sub 0x20000800000001 P) : Kept P s0 (cxlReadDone s tag data bad) := by
  unfold cxlReadDone
  repeat' first
    | (with_reducible assumption)
    | ((with_reducible apply Sub.le hp); rfl)
    | (extract_lets +onlyGivenNames yk; refine (kept_some (P := P) (s0 := s0) yk ?_).elim (fun _ hyk => ?_); subst yk; rotate_left; rw [hyk.2]; have _ := hyk.1; clear hyk; clear yk; rotate_left)
    | (extract_lets +onlyGivenNames yk; clear_value yk; revert yk; intro _)
    | (with_reducible refine kept_ite ?_ ?_)
    | (with_reducible apply kept_bumpF)
    | (with_reducible apply kept_emit)
    | (with_reducible apply kept_event)
    | ((with_reducible refine kept_mk 0x800000000 ?_ ?_ ?_ ?_); rotate_left; rfl; (constructor <;> first | exact fun _ => rfl | exact fun h => absurd h (by decide)); apply Sub.le hp; rfl)

theorem kept_cxlWriteDone {P : Parts} {s0 : State} (s : State) (tag : Nat) (hk : Kept P s0 s) (hp : Sub 0x20000800000001 P) : Kept P s0 (cxlWriteDone s tag) := by
  unfold cxlWriteDone
  repeat' first
    | (with_reducible assumption)
    | ((with_reducible apply Sub.le hp); rfl)
    | (extract_lets +onlyGivenNames yk; clear_value yk; revert yk; intro _)
    | (with_reducible refine kept_ite ?_ ?_)
    | (with_reducible apply kept_bumpF)
    | (with_reducible apply kept_emit)
    | ((with_reducible refine kept_mk 0x800000000 ?_ ?_ ?_ ?_); rotate_left; rfl; (constructor <;> first | exact fun _ => rfl | exact fun h => absurd h (by decide)); apply Sub.le hp; rfl)

theorem kept_uzoidLoad {P : Parts} {s0 : State} (s : State) (src : Nat) (pz : List Bool) (hk : Kept P s0 s) (hp : Sub 0x8000000000 P) : Kept P s0 (uzoidLoad s src pz) := by
  unfold uzoidLoad
  repeat' first
    | (with_reducible assumption)
    | (with_reducible refine kept_ite ?_ ?_)
    | (with_reducible apply kept_bite)

theorem kept_fetchCame {P : Parts} {s0 : State} (s : State) (no : Nat) (pa : Nat) (data : List Byte) (pz : List Bool) (hk : Kept P s0 s) (hp : Sub 0x2000000 P) : Kept P s0 (fetchCame s no pa data pz) := by
  unfold fetchCame
  repeat' first
    | (with_reducible assumption)
    | ((with_reducible refine kept_mk 0x2000000 ?_ ?_ ?_ ?_); rotate_left; rfl; (constructor <;> first | exact fun _ => rfl | exact fun h => absurd h (by decide)); apply Sub.le hp; rfl)

theorem kept_returnRead {P : Parts} {s0 : State} (s : State) (r : Req) (data : List Byte) (pz : List Bool) (hk : Kept P s0 s) (hp : Sub 0x20008d02008201 P) : Kept P s0 (returnRead s r data pz) := by
  unfold returnRead
  repeat' first
    | (with_reducible assumption)
    | ((with_reducible apply Sub.le hp); rfl)
    | (extract_lets +onlyGivenNames yk; clear_value yk; revert yk; intro _)
    | (with_reducible refine kept_ite ?_ ?_)
    | (with_reducible apply kept_cxlReadDone)
    | (with_reducible apply kept_emit)
    | (with_reducible apply kept_fetchCame)
    | (with_reducible apply kept_inDone)
    | (with_reducible refine kept_updTile_same _ _ _ (fun _ => rfl) ?_ ?_)
    | (with_reducible apply kept_uzoidLoad)
    | split

theorem kept_returnWrite {P : Parts} {s0 : State} (s : State) (r : Req) (hk : Kept P s0 s) (hp : Sub 0x20000d00008201 P) : Kept P s0 (returnWrite s r) := by
  unfold returnWrite
  repeat' first
    | (with_reducible assumption)
    | ((with_reducible apply Sub.le hp); rfl)
    | (extract_lets +onlyGivenNames yk; clear_value yk; revert yk; intro _)
    | (with_reducible refine kept_ite ?_ ?_)
    | (with_reducible apply kept_cxlWriteDone)
    | (with_reducible apply kept_emit)
    | (with_reducible apply kept_inDone)
    | (with_reducible refine kept_updTile_same _ _ _ (fun _ => rfl) ?_ ?_)
    | split

end Sys2Proof.Machine
end

