-- ==== Sys2Proof/Laws/KeptDram.lean ====
section
/-! SUPPORT. `Kept` for the operations of Machine/Dram.lean: one lemma per function that changes the state. -/
namespace Sys2Proof.Machine

theorem kept_enqueue {P : Parts} {s0 : State} (s : State) (r : Req) (hk : Kept P s0 s) (hp : Sub 0x1000 P) : Kept P s0 (enqueue s r) := by
  unfold enqueue
  repeat' first
    | (with_reducible assumption)
    | (with_reducible apply kept_updBank)

theorem kept_park {P : Parts} {s0 : State} (s : State) (r : Req) (hk : Kept P s0 s) (hp : Sub 0x1001 P) : Kept P s0 (park s r) := by
  unfold park
  repeat' first
    | (with_reducible assumption)
    | ((with_reducible apply Sub.le hp); rfl)
    | (extract_lets +onlyGivenNames yk; refine (kept_some (P := P) (s0 := s0) yk ?_).elim (fun _ hyk => ?_); subst yk; rotate_left; rw [hyk.2]; have _ := hyk.1; clear hyk; clear yk; rotate_left)
    | (with_reducible refine kept_ite ?_ ?_)
    | (with_reducible apply kept_bumpF)
    | (with_reducible apply kept_updChan)

theorem kept_tryTake_opt {P : Parts} {s0 : State} (s : State) (r : Req) (hk : Kept P s0 s) (hp : Sub 0x1001 P) : KeptO P s0 (fun s => s) (tryTake s r) := by
  unfold tryTake
  repeat' first
    | (with_reducible exact keptO_none _)
    | (with_reducible refine keptO_some ?_)
    | (with_reducible refine keptO_ite ?_ ?_)
    | (with_reducible assumption)
    | ((with_reducible apply Sub.le hp); rfl)
    | (with_reducible apply kept_enqueue)
    | (with_reducible apply kept_park)

theorem kept_tryTake {P : Parts} {s0 : State} {tt : State} (s : State) (r : Req) (hk : Kept P s0 s) (hp : Sub 0x1001 P) (he : tryTake s r = some tt) : Kept P s0 tt :=
  kept_tryTake_opt s r hk hp _ he

theorem kept_admitLoop {P : Parts} {s0 : State} (l : List Req) (banks : List Nat) (s : State) (hk : Kept P s0 s) (hp : Sub 0x1001 P) :
    Kept P s0 (admitLoop l banks s).1 := by
  induction l generalizing banks s with
  | nil => exact hk
  | cons r l ih =>
    simp only [admitLoop]
    split
    · exact ih _ _ hk
    · split
      · exact ih _ _ (kept_tryTake _ _ hk (hp.le rfl) (by assumption))
      · exact ih _ _ hk

theorem kept_takeIn {P : Parts} {s0 : State} (s : State) (st : Nat) (ch : Nat) (hk : Kept P s0 s) (hp : Sub 0x1001 P) : Kept P s0 (takeIn s st ch) := by
  unfold takeIn
  repeat' first
    | (with_reducible assumption)
    | ((with_reducible apply Sub.le hp); rfl)
    | (with_reducible apply kept_admitLoop)
    | (with_reducible apply kept_updChan)

theorem kept_admitStack {P : Parts} {s0 : State} (s : State) (st : Nat) (hk : Kept P s0 s) (hp : Sub 0x1001 P) : Kept P s0 (admitStack s st) := by
  unfold admitStack
  repeat' first
    | (with_reducible assumption)
    | (with_reducible refine kept_forEach _ _ _ (fun _ _ _ => ?_) ?_)
    | (with_reducible apply kept_takeIn)

theorem kept_memRequest {P : Parts} {s0 : State} (s : State) (r : Req) (hk : Kept P s0 s) (hp : Sub 0x1001 P) : Kept P s0 (memRequest s r) := by
  unfold memRequest
  repeat' first
    | (with_reducible assumption)
    | ((with_reducible apply Sub.le hp); rfl)
    | (extract_lets +onlyGivenNames yk; clear_value yk; revert yk; intro _)
    | (with_reducible refine kept_forEach _ _ _ (fun _ _ _ => ?_) ?_)
    | (with_reducible refine kept_ite ?_ ?_)
    | (with_reducible refine kept_tryTake _ _ ?_ ?_ (by assumption))
    | (with_reducible apply kept_updChan)
    | split

theorem kept_writeSector {P : Parts} {s0 : State} (s : State) (k : Nat) (data : List (Option Byte)) (poison : Bool) (hk : Kept P s0 s) (hp : Sub 0x800000701 P) : Kept P s0 (writeSector s k data poison) := by
  unfold writeSector
  repeat' first
    | (with_reducible assumption)
    | ((with_reducible apply Sub.le hp); rfl)
    | (extract_lets +onlyGivenNames yk; refine (kept_some (P := P) (s0 := s0) yk ?_).elim (fun _ hyk => ?_); subst yk; rotate_left; rw [hyk.2]; have _ := hyk.1; clear hyk; clear yk; rotate_left)
    | (extract_lets +onlyGivenNames yk; clear_value yk; revert yk; intro _)
    | (with_reducible refine kept_ite ?_ ?_)
    | (with_reducible apply kept_bakeSector)
    | (with_reducible apply kept_bumpF)
    | (with_reducible apply kept_clrFlips)
    | (with_reducible apply kept_setPoison)
    | (with_reducible apply kept_wrMemOpt)

theorem kept_performRow {P : Parts} {s0 : State} (s : State) (r : Req) (hk : Kept P s0 s) (hp : Sub 0x2000cd0200bf09 P) : Kept P s0 (performRow s r) := by
  unfold performRow
  repeat' first
    | (with_reducible assumption)
    | ((with_reducible apply Sub.le hp); rfl)
    | (extract_lets +onlyGivenNames yk; refine (kept_some (P := P) (s0 := s0) yk ?_).elim (fun _ hyk => ?_); subst yk; rotate_left; rw [hyk.2]; have _ := hyk.1; clear hyk; clear yk; rotate_left)
    | (with_reducible refine kept_foldl _ _ _ (fun _ _ _ => ?_) ?_)
    | (with_reducible refine kept_ite ?_ ?_)
    | (with_reducible apply kept_dirtyLine)
    | (with_reducible apply kept_returnRead)
    | (with_reducible apply kept_returnWrite)
    | (with_reducible apply kept_writeSector)

theorem kept_performHole {P : Parts} {s0 : State} (s : State) (r : Req) (hk : Kept P s0 s) (hp : Sub 0x20008d0200a201 P) : Kept P s0 (performHole s r) := by
  unfold performHole
  repeat' first
    | (with_reducible assumption)
    | ((with_reducible apply Sub.le hp); rfl)
    | (extract_lets +onlyGivenNames yk; clear_value yk; revert yk; intro _)
    | (with_reducible refine kept_ite ?_ ?_)
    | (with_reducible apply kept_logHole)
    | (with_reducible apply kept_returnRead)
    | (with_reducible apply kept_returnWrite)

theorem kept_afterAccess {P : Parts} {s0 : State} (s : State) (st : Nat) (ch : Nat) (b : Nat) (row : Nat) (hk : Kept P s0 s) (hp : Sub 0x1001 P) : Kept P s0 (afterAccess s st ch b row) := by
  unfold afterAccess
  repeat' first
    | (with_reducible assumption)
    | ((with_reducible apply Sub.le hp); rfl)
    | (extract_lets +onlyGivenNames yk; clear_value yk; revert yk; intro _)
    | (with_reducible apply kept_bumpF)
    | (with_reducible apply kept_updBank)

theorem kept_startBurst {P : Parts} {s0 : State} (s : State) (st : Nat) (ch : Nat) (due : Bool) (hk : Kept P s0 s) (hp : Sub 0x1001 P) : Kept P s0 (startBurst s st ch due) := by
  unfold startBurst
  repeat' first
    | (with_reducible assumption)
    | ((with_reducible apply Sub.le hp); rfl)
    | (extract_lets +onlyGivenNames yk; clear_value yk; revert yk; intro _)
    | (with_reducible apply kept_setB)
    | (with_reducible apply kept_updChan)

theorem kept_burstRules {P : Parts} {s0 : State} (s : State) (st : Nat) (ch : Nat) (hk : Kept P s0 s) (hp : Sub 0x1001 P) : Kept P s0 (burstRules s st ch) := by
  unfold burstRules
  repeat' first
    | (with_reducible assumption)
    | ((with_reducible apply Sub.le hp); rfl)
    | (extract_lets +onlyGivenNames yk; clear_value yk; revert yk; intro _)
    | (with_reducible refine kept_ite ?_ ?_)
    | (with_reducible apply kept_event)
    | (with_reducible apply kept_startBurst)

theorem kept_releaseParked {P : Parts} {s0 : State} (n : Nat) (s : State) (st ch : Nat) (hk : Kept P s0 s) (hp : Sub 0x1000 P) :
    Kept P s0 (releaseParked n s st ch) := by
  induction n generalizing s with
  | zero => exact hk
  | succ n ih =>
    simp only [releaseParked]
    split
    · exact kept_updChan _ _ _ _ hk (hp.le rfl)
    · split
      · exact hk
      · exact ih _ (kept_updChan _ _ _ _ (kept_enqueue _ _ hk (hp.le rfl)) (hp.le rfl))

theorem kept_firstActive {P : Parts} {s0 : State} (s : State) (st : Nat) (hk : Kept P s0 s) (hp : Sub 0x2000 P) : Kept P s0 (firstActive s st) := by
  unfold firstActive
  repeat' first
    | (with_reducible assumption)
    | (with_reducible apply kept_updStack)

theorem kept_srFlush {P : Parts} {s0 : State} (s : State) (st : Nat) (hk : Kept P s0 s) (hp : Sub 0x2001 P) : Kept P s0 (srFlush s st) := by
  unfold srFlush
  repeat' first
    | (with_reducible assumption)
    | ((with_reducible apply Sub.le hp); rfl)
    | (with_reducible refine kept_ite ?_ ?_)
    | (with_reducible apply kept_flushDirty)
    | (with_reducible apply kept_updStack)

theorem kept_afterRelease {P : Parts} {s0 : State} (s : State) (st : Nat) (ch : Nat) (hk : Kept P s0 s) (hp : Sub 0x3001 P) : Kept P s0 (afterRelease s st ch) := by
  unfold afterRelease
  repeat' first
    | (with_reducible assumption)
    | ((with_reducible apply Sub.le hp); rfl)
    | (with_reducible apply kept_burstRules)
    | (with_reducible apply kept_releaseParked)
    | (with_reducible apply kept_srFlush)
    | (with_reducible apply kept_takeIn)

theorem kept_finishReq {P : Parts} {s0 : State} (s : State) (st ch b i : Nat) (r : Req) (perform : State → State)
    (hf : ∀ s, Kept P s0 s → Kept P s0 (perform s)) (hk : Kept P s0 s) (hp : Sub 0x4000003001 P) : Kept P s0 (finishReq s st ch b i r perform) :=
  kept_afterRelease _ _ _ (hf _ (kept_afterAccess _ _ _ _ _ (kept_charge _ _ _ _ (kept_updBank _ _ _ _ _ hk (hp.le rfl)) (hp.le rfl)) (hp.le rfl))) (hp.le rfl)

theorem kept_dataCommand {P : Parts} {s0 : State} (s : State) (st : Nat) (ch : Nat) (b : Nat) (i : Nat) (r : Req) (hk : Kept P s0 s) (hp : Sub 0x2000cd0200bf09 P) : Kept P s0 (dataCommand s st ch b i r) := by
  unfold dataCommand
  repeat' first
    | (with_reducible assumption)
    | ((with_reducible apply Sub.le hp); rfl)
    | (with_reducible refine kept_ite ?_ ?_)
    | (with_reducible refine kept_finishReq _ _ _ _ _ _ _ (fun _ _ => ?_) ?_ ?_)
    | (with_reducible apply kept_performHole)
    | (with_reducible apply kept_performRow)
    | (with_reducible apply kept_updBank)

theorem kept_issueCommand {P : Parts} {s0 : State} (s : State) (st : Nat) (ch : Nat) (ready : List (Nat × Nat)) (media : List Flip) (hk : Kept P s0 s) (hp : Sub 0x2000cd0200bf09 P) : Kept P s0 (issueCommand s st ch ready media) := by
  unfold issueCommand
  repeat' first
    | (with_reducible assumption)
    | ((with_reducible apply Sub.le hp); rfl)
    | (extract_lets +onlyGivenNames yk; refine (kept_some (P := P) (s0 := s0) yk ?_).elim (fun _ hyk => ?_); subst yk; rotate_left; rw [hyk.2]; have _ := hyk.1; clear hyk; clear yk; rotate_left)
    | (extract_lets +onlyGivenNames yk; clear_value yk; revert yk; intro _)
    | (with_reducible refine kept_ite ?_ ?_)
    | (with_reducible apply kept_addFlips)
    | (with_reducible apply kept_charge)
    | (with_reducible apply kept_dataCommand)
    | (with_reducible apply kept_updBank)
    | (with_reducible apply kept_updChan)
    | split

theorem kept_decodeDone {P : Parts} {s0 : State} (s : State) (st : Nat) (ch : Nat) (b : Nat) (hk : Kept P s0 s) (hp : Sub 0x2000cd0200bf09 P) : Kept P s0 (decodeDone s st ch b) := by
  unfold decodeDone
  repeat' first
    | (with_reducible assumption)
    | ((with_reducible apply Sub.le hp); rfl)
    | (extract_lets +onlyGivenNames yk; refine (kept_some (P := P) (s0 := s0) yk ?_).elim (fun _ hyk => ?_); subst yk; rotate_left; rw [hyk.2]; have _ := hyk.1; clear hyk; clear yk; rotate_left)
    | (with_reducible refine kept_ite ?_ ?_)
    | (with_reducible apply kept_decodeRow)
    | (with_reducible refine kept_finishReq _ _ _ _ _ _ _ (fun _ _ => ?_) ?_ ?_)
    | (with_reducible apply kept_performRow)
    | (with_reducible apply kept_updBank)
    | split

theorem kept_prechargeAll {P : Parts} {s0 : State} (s : State) (st : Nat) (ch : Nat) (hk : Kept P s0 s) (hp : Sub 0x1000 P) : Kept P s0 (prechargeAll s st ch) := by
  unfold prechargeAll
  repeat' first
    | (with_reducible assumption)
    | (with_reducible refine kept_forEach _ _ _ (fun _ _ _ => ?_) ?_)
    | (with_reducible apply kept_updBank)

theorem kept_grantWindow {P : Parts} {s0 : State} (s : State) (st : Nat) (ch : Nat) (hk : Kept P s0 s) (hp : Sub 0x1001 P) : Kept P s0 (grantWindow s st ch) := by
  unfold grantWindow
  repeat' first
    | (with_reducible assumption)
    | ((with_reducible apply Sub.le hp); rfl)
    | (extract_lets +onlyGivenNames yk; refine (kept_some (P := P) (s0 := s0) yk ?_).elim (fun _ hyk => ?_); subst yk; rotate_left; rw [hyk.2]; have _ := hyk.1; clear hyk; clear yk; rotate_left)
    | (extract_lets +onlyGivenNames yk; clear_value yk; revert yk; intro _)
    | (with_reducible apply kept_bumpF)
    | (with_reducible apply kept_setB)
    | (with_reducible apply kept_updChan)

theorem kept_baseCounts {P : Parts} {s0 : State} (s : State) (st : Nat) (ch : Nat) (hk : Kept P s0 s) (hp : Sub 0x2000 P) : Kept P s0 (baseCounts s st ch) := by
  unfold baseCounts
  repeat' first
    | (with_reducible assumption)
    | (extract_lets +onlyGivenNames yk; clear_value yk; revert yk; intro _)
    | (with_reducible apply kept_updStack)

theorem kept_refreshAll {P : Parts} {s0 : State} (s : State) (st : Nat) (ch : Nat) (hk : Kept P s0 s) (hp : Sub 0x4000003001 P) : Kept P s0 (refreshAll s st ch) := by
  unfold refreshAll
  repeat' first
    | (with_reducible assumption)
    | ((with_reducible apply Sub.le hp); rfl)
    | (extract_lets +onlyGivenNames yk; refine (kept_some (P := P) (s0 := s0) yk ?_).elim (fun _ hyk => ?_); subst yk; rotate_left; rw [hyk.2]; have _ := hyk.1; clear hyk; clear yk; rotate_left)
    | (extract_lets +onlyGivenNames yk; clear_value yk; revert yk; intro _)
    | (with_reducible refine kept_ite ?_ ?_)
    | (with_reducible apply kept_baseCounts)
    | (with_reducible apply kept_bumpF)
    | (with_reducible apply kept_charge)
    | (with_reducible apply kept_grantWindow)
    | (with_reducible apply kept_prechargeAll)
    | (with_reducible apply kept_setF)
    | (with_reducible apply kept_updChan)

theorem kept_endBurst {P : Parts} {s0 : State} (s : State) (st : Nat) (ch : Nat) (hk : Kept P s0 s) (hp : Sub 0x3001 P) : Kept P s0 (endBurst s st ch) := by
  unfold endBurst
  repeat' first
    | (with_reducible assumption)
    | ((with_reducible apply Sub.le hp); rfl)
    | (extract_lets +onlyGivenNames yk; clear_value yk; revert yk; intro _)
    | (with_reducible refine kept_ite ?_ ?_)
    | (with_reducible apply kept_burstRules)
    | (with_reducible apply kept_setB)
    | (with_reducible apply kept_srFlush)

end Sys2Proof.Machine
end

