-- ==== Sys2Proof/Laws/KeptWindow.lean ====
section
/-! SUPPORT. `Kept` for the operations of Machine/Window.lean: one lemma per function that changes the state. -/
namespace Sys2Proof.Machine

theorem kept_postStopped {P : Parts} {s0 : State} (s : State) (i : Nat) (sw : Swath) (preempts : Nat) (rowIdx : Nat) (code : Nat) (hk : Kept P s0 s) (hp : Sub 0x4001 P) : Kept P s0 (postStopped s i sw preempts rowIdx code) := by
  unfold postStopped
  repeat' first
    | (with_reducible assumption)
    | ((with_reducible apply Sub.le hp); rfl)
    | (extract_lets +onlyGivenNames yk; refine (kept_some (P := P) (s0 := s0) yk ?_).elim (fun _ hyk => ?_); subst yk; rotate_left; rw [hyk.2]; have _ := hyk.1; clear hyk; clear yk; rotate_left)
    | (extract_lets +onlyGivenNames yk; clear_value yk; revert yk; intro _)
    | (with_reducible refine kept_ite ?_ ?_)
    | (with_reducible apply kept_bumpF)
    | (with_reducible apply kept_event)
    | (with_reducible apply kept_updUnit)

theorem kept_launch {P : Parts} {s0 : State} (s : State) (i : Nat) (hk : Kept P s0 s) (hp : Sub 0x4001 P) : Kept P s0 (launch s i) := by
  unfold launch
  repeat' first
    | (with_reducible assumption)
    | ((with_reducible apply Sub.le hp); rfl)
    | (extract_lets +onlyGivenNames yk; refine (kept_some (P := P) (s0 := s0) yk ?_).elim (fun _ hyk => ?_); subst yk; rotate_left; rw [hyk.2]; have _ := hyk.1; clear hyk; clear yk; rotate_left)
    | (extract_lets +onlyGivenNames yk; clear_value yk; revert yk; intro _)
    | (with_reducible refine kept_ite ?_ ?_)
    | (with_reducible apply kept_event)
    | (with_reducible apply kept_postStopped)
    | (with_reducible apply kept_refusal)
    | (with_reducible apply kept_updUnit)

theorem kept_writeSlot {P : Parts} {s0 : State} (s : State) (i : Nat) (k : Nat) (new : List (Option Byte)) (pz : List Bool) (hk : Kept P s0 s) (hp : Sub 0x4001 P) : Kept P s0 (writeSlot s i k new pz) := by
  unfold writeSlot
  repeat' first
    | (with_reducible assumption)
    | ((with_reducible apply Sub.le hp); rfl)
    | (extract_lets +onlyGivenNames yk; refine (kept_some (P := P) (s0 := s0) yk ?_).elim (fun _ hyk => ?_); subst yk; rotate_left; rw [hyk.2]; have _ := hyk.1; clear hyk; clear yk; rotate_left)
    | (extract_lets +onlyGivenNames yk; clear_value yk; revert yk; intro _)
    | (with_reducible refine kept_ite ?_ ?_)
    | (with_reducible apply kept_launch)
    | (with_reducible apply kept_recordErr)
    | (with_reducible apply kept_updUnit)
    | split

theorem kept_replyCmd {P : Parts} {s0 : State} (s : State) (a : Access) (data : List Byte) (pz : List Bool) (hk : Kept P s0 s) (hp : Sub 0x3000ca0001d001 P) : Kept P s0 (replyCmd s a data pz) := by
  unfold replyCmd
  repeat' first
    | (with_reducible assumption)
    | ((with_reducible apply Sub.le hp); rfl)
    | (with_reducible refine kept_ite ?_ ?_)
    | (with_reducible apply kept_cxlReadDone)
    | (with_reducible apply kept_cxlWriteDone)
    | (with_reducible apply kept_emit)
    | (with_reducible refine kept_updTile_same _ _ _ (fun _ => rfl) ?_ ?_)
    | (with_reducible apply kept_uzoidLoad)
    | split

theorem kept_performAccess {P : Parts} {s0 : State} (s : State) (st : Nat) (ch : Nat) (a : Access) (hk : Kept P s0 s) (hp : Sub 0x4001 P) : Kept P s0 (performAccess s st ch a).1 := by
  unfold performAccess
  repeat' first
    | (with_reducible assumption)
    | (extract_lets +onlyGivenNames yk; clear_value yk; revert yk; intro _)
    | (with_reducible refine kept_forEach _ _ _ (fun _ _ _ => ?_) ?_)
    | (with_reducible apply kept_writeSlot)
    | split

theorem kept_performAccess_eq {P : Parts} {s0 : State} {tt} {x1} {x2} (s : State) (st : Nat) (ch : Nat) (a : Access) (hk : Kept P s0 s) (hp : Sub 0x4001 P) (he : performAccess s st ch a = (tt, x1, x2)) : Kept P s0 tt := by
  have g := kept_performAccess s st ch a hk hp
  rw [he] at g; exact g

theorem kept_serveLoop {P : Parts} {s0 : State} (st ch : Nat) (l kept : List Access) (s : State) (hk : Kept P s0 s) (hp : Sub 0x3000ca0001d001 P) :
    Kept P s0 (serveLoop st ch l kept s).1 := by
  induction l generalizing kept s with
  | nil => exact hk
  | cons a l ih =>
    simp only [serveLoop]
    split
    · exact ih _ _ hk
    · apply ih
      split
      · exact kept_performAccess _ _ _ _ hk (hp.le rfl)
      · exact kept_replyCmd _ _ _ _ (kept_performAccess _ _ _ _ hk (hp.le rfl)) (hp.le rfl)

theorem kept_serveHeld {P : Parts} {s0 : State} (s : State) (st : Nat) (ch : Nat) (hk : Kept P s0 s) (hp : Sub 0x3000ca0001d001 P) : Kept P s0 (serveHeld s st ch) := by
  unfold serveHeld
  repeat' first
    | (with_reducible assumption)
    | ((with_reducible apply Sub.le hp); rfl)
    | (with_reducible apply kept_serveLoop)
    | (with_reducible apply kept_updChan)

theorem kept_dropNote {P : Parts} {s0 : State} (s : State) (st : Nat) (ch : Nat) (a : Access) (row : Nat) (code : Nat) (hk : Kept P s0 s) (hp : Sub 0x1 P) : Kept P s0 (dropNote s st ch a row code) := by
  unfold dropNote
  repeat' first
    | (with_reducible assumption)
    | (extract_lets +onlyGivenNames yk; refine (kept_some (P := P) (s0 := s0) yk ?_).elim (fun _ hyk => ?_); subst yk; rotate_left; rw [hyk.2]; have _ := hyk.1; clear hyk; clear yk; rotate_left)
    | (extract_lets +onlyGivenNames yk; clear_value yk; revert yk; intro _)
    | (with_reducible apply kept_event)
    | (with_reducible apply kept_recordErr)
    | (with_reducible apply kept_setF)

theorem kept_dropAccess {P : Parts} {s0 : State} (s : State) (st : Nat) (ch : Nat) (a : Access) (row : Nat) (code : Nat) (hk : Kept P s0 s) (hp : Sub 0x3000ca0001d001 P) : Kept P s0 (dropAccess s st ch a row code) := by
  unfold dropAccess
  repeat' first
    | (with_reducible assumption)
    | ((with_reducible apply Sub.le hp); rfl)
    | (extract_lets +onlyGivenNames yk; refine (kept_some (P := P) (s0 := s0) yk ?_).elim (fun _ hyk => ?_); subst yk; rotate_left; rw [hyk.2]; have _ := hyk.1; clear hyk; clear yk; rotate_left)
    | (with_reducible refine kept_ite ?_ ?_)
    | (with_reducible apply kept_dropNote)
    | (with_reducible apply kept_replyCmd)

theorem kept_ownerAccess {P : Parts} {s0 : State} (s : State) (st : Nat) (ch : Nat) (a : Access) (hk : Kept P s0 s) (hp : Sub 0x3000ca0001d001 P) : Kept P s0 (ownerAccess s st ch a) := by
  unfold ownerAccess; dsimp only
  repeat' first
    | (with_reducible assumption)
    | ((with_reducible apply Sub.le hp); rfl)
    | (with_reducible refine kept_forEach _ _ _ (fun _ _ _ => ?_) ?_)
    | (with_reducible refine kept_ite ?_ ?_)
    | (with_reducible apply kept_dropAccess)
    | (with_reducible apply kept_dropNote)
    | (with_reducible apply kept_recordErr)
    | (with_reducible apply kept_replyCmd)
    | (with_reducible apply kept_serveHeld)
    | (with_reducible apply kept_updChan)
    | ((with_reducible refine kept_mk 0x200000000 ?_ ?_ ?_ ?_); rotate_left; rfl; (constructor <;> first | exact fun _ => rfl | exact fun h => absurd h (by decide)); apply Sub.le hp; rfl)

theorem kept_arriveAccess_opt {P : Parts} {s0 : State} (s : State) (st : Nat) (ch : Nat) (row : Nat) (a : Access) (hk : Kept P s0 s) (hp : Sub 0x3000ca0001d001 P) : KeptO P s0 (fun s => s) (arriveAccess s st ch row a) := by
  unfold arriveAccess
  repeat' first
    | (with_reducible exact keptO_none _)
    | (with_reducible refine keptO_some ?_)
    | (with_reducible refine keptO_ite ?_ ?_)
    | (with_reducible assumption)
    | ((with_reducible apply Sub.le hp); rfl)
    | (with_reducible apply kept_dropAccess)
    | (with_reducible apply kept_ownerAccess)
    | (with_reducible apply kept_updChan)

theorem kept_arriveAccess {P : Parts} {s0 : State} {tt : State} (s : State) (st : Nat) (ch : Nat) (row : Nat) (a : Access) (hk : Kept P s0 s) (hp : Sub 0x3000ca0001d001 P) (he : arriveAccess s st ch row a = some tt) : Kept P s0 tt :=
  kept_arriveAccess_opt s st ch row a hk hp _ he

theorem kept_arrive {P : Parts} {s0 : State} (s : State) (r : Req) (hk : Kept P s0 s) (hp : Sub 0x3000ca0001d001 P) : Kept P s0 (arrive s r) := by
  unfold arrive
  repeat' first
    | (with_reducible assumption)
    | ((with_reducible apply Sub.le hp); rfl)
    | (extract_lets +onlyGivenNames yk; clear_value yk; revert yk; intro _)
    | (with_reducible refine kept_forEach _ _ _ (fun _ _ _ => ?_) ?_)
    | (with_reducible refine kept_ite ?_ ?_)
    | (with_reducible refine kept_arriveAccess _ _ _ _ _ ?_ ?_ (by assumption))
    | (with_reducible apply kept_memRequest)
    | (with_reducible apply kept_updChan)
    | split

end Sys2Proof.Machine
end

