-- ==== Sys2Proof/Laws/KeptMode.lean ====
section
/-! SUPPORT. `Kept` for the operations of Machine/Mode.lean: one lemma per function that changes the state. -/
namespace Sys2Proof.Machine

theorem kept_setChState {P : Parts} {s0 : State} (s : State) (st : Nat) (ch : Nat) (m : Nat) (hk : Kept P s0 s) (hp : Sub 0x1 P) : Kept P s0 (setChState s st ch m) := by
  unfold setChState
  repeat' first
    | (with_reducible assumption)
    | (with_reducible apply kept_setF)

theorem kept_cancelQueued {P : Parts} {s0 : State} (s : State) (i : Nat) (hk : Kept P s0 s) (hp : Sub 0x4001 P) : Kept P s0 (cancelQueued s i) := by
  unfold cancelQueued
  repeat' first
    | (with_reducible assumption)
    | ((with_reducible apply Sub.le hp); rfl)
    | (extract_lets +onlyGivenNames yk; refine (kept_some (P := P) (s0 := s0) yk ?_).elim (fun _ hyk => ?_); subst yk; rotate_left; rw [hyk.2]; have _ := hyk.1; clear hyk; clear yk; rotate_left)
    | (extract_lets +onlyGivenNames yk; clear_value yk; revert yk; intro _)
    | (with_reducible refine kept_forEach _ _ _ (fun _ _ _ => ?_) ?_)
    | (with_reducible apply kept_postStopped)
    | (with_reducible apply kept_updUnit)

theorem kept_cancelPaused {P : Parts} {s0 : State} (s : State) (i : Nat) (hk : Kept P s0 s) (hp : Sub 0x4001 P) : Kept P s0 (cancelPaused s i) := by
  unfold cancelPaused
  repeat' first
    | (with_reducible assumption)
    | ((with_reducible apply Sub.le hp); rfl)
    | (with_reducible refine kept_ite ?_ ?_)
    | (with_reducible apply kept_postStopped)
    | (with_reducible apply kept_updUnit)
    | split

theorem kept_beginExit {P : Parts} {s0 : State} (s : State) (st : Nat) (ch : Nat) (hk : Kept P s0 s) (hp : Sub 0x3000ca0001d001 P) : Kept P s0 (beginExit s st ch) := by
  unfold beginExit
  repeat' first
    | (with_reducible assumption)
    | ((with_reducible apply Sub.le hp); rfl)
    | (extract_lets +onlyGivenNames yk; refine (kept_some (P := P) (s0 := s0) yk ?_).elim (fun _ hyk => ?_); subst yk; rotate_left; rw [hyk.2]; have _ := hyk.1; clear hyk; clear yk; rotate_left)
    | (with_reducible refine kept_forEach _ _ _ (fun _ _ _ => ?_) ?_)
    | (with_reducible apply kept_cancelPaused)
    | (with_reducible apply kept_cancelQueued)
    | (with_reducible apply kept_serveHeld)
    | (with_reducible apply kept_setChState)

theorem kept_dropIntake {P : Parts} {s0 : State} (s : State) (st : Nat) (ch : Nat) (hk : Kept P s0 s) (hp : Sub 0x3000ca0001d001 P) : Kept P s0 (dropIntake s st ch) := by
  unfold dropIntake
  repeat' first
    | (with_reducible assumption)
    | ((with_reducible apply Sub.le hp); rfl)
    | (extract_lets +onlyGivenNames yk; refine (kept_some (P := P) (s0 := s0) yk ?_).elim (fun _ hyk => ?_); subst yk; rotate_left; rw [hyk.2]; have _ := hyk.1; clear hyk; clear yk; rotate_left)
    | (extract_lets +onlyGivenNames yk; clear_value yk; revert yk; intro _)
    | (with_reducible refine kept_forEach _ _ _ (fun _ _ _ => ?_) ?_)
    | (with_reducible refine kept_ite ?_ ?_)
    | (with_reducible apply kept_dropAccess)
    | (with_reducible apply kept_ownerAccess)
    | (with_reducible apply kept_updChan)

theorem kept_chmode {P : Parts} {s0 : State} (s : State) (st : Nat) (ch : Nat) (v : W64) (hk : Kept P s0 s) (hp : Sub 0x3000ca0001d001 P) : Kept P s0 (chmode s st ch v) := by
  unfold chmode; dsimp only
  repeat' first
    | (with_reducible assumption)
    | ((with_reducible apply Sub.le hp); rfl)
    | (with_reducible refine kept_ite ?_ ?_)
    | (with_reducible apply kept_beginExit)
    | (with_reducible apply kept_event)
    | (with_reducible apply kept_recordErr)
    | (with_reducible apply kept_setChState)
    | (with_reducible apply kept_setF)
    | (with_reducible apply kept_updChan)

theorem kept_reachProc {P : Parts} {s0 : State} (s : State) (st : Nat) (ch : Nat) (hk : Kept P s0 s) (hp : Sub 0x3000ca0001d001 P) : Kept P s0 (reachProc s st ch) := by
  unfold reachProc
  repeat' first
    | (with_reducible assumption)
    | ((with_reducible apply Sub.le hp); rfl)
    | (extract_lets +onlyGivenNames yk; refine (kept_some (P := P) (s0 := s0) yk ?_).elim (fun _ hyk => ?_); subst yk; rotate_left; rw [hyk.2]; have _ := hyk.1; clear hyk; clear yk; rotate_left)
    | (extract_lets +onlyGivenNames yk; clear_value yk; revert yk; intro _)
    | (with_reducible refine kept_forEach _ _ _ (fun _ _ _ => ?_) ?_)
    | (with_reducible refine kept_ite ?_ ?_)
    | (with_reducible apply kept_dropAccess)
    | (with_reducible apply kept_event)
    | (with_reducible apply kept_ownerAccess)
    | (with_reducible apply kept_prechargeAll)
    | (with_reducible apply kept_setChState)
    | (with_reducible apply kept_updChan)
    | (with_reducible apply kept_updUnit)

theorem kept_reachMem {P : Parts} {s0 : State} (s : State) (st : Nat) (ch : Nat) (hk : Kept P s0 s) (hp : Sub 0x3001 P) : Kept P s0 (reachMem s st ch) := by
  unfold reachMem
  repeat' first
    | (with_reducible assumption)
    | ((with_reducible apply Sub.le hp); rfl)
    | (extract_lets +onlyGivenNames yk; refine (kept_some (P := P) (s0 := s0) yk ?_).elim (fun _ hyk => ?_); subst yk; rotate_left; rw [hyk.2]; have _ := hyk.1; clear hyk; clear yk; rotate_left)
    | (extract_lets +onlyGivenNames yk; clear_value yk; revert yk; intro _)
    | (with_reducible refine kept_ite ?_ ?_)
    | (with_reducible apply kept_afterRelease)
    | (with_reducible apply kept_event)
    | (with_reducible apply kept_releaseParked)
    | (with_reducible apply kept_setChState)
    | (with_reducible apply kept_setF)
    | (with_reducible apply kept_updChan)

theorem kept_startBreather {P : Parts} {s0 : State} (s : State) (st : Nat) (ch : Nat) (hk : Kept P s0 s) (hp : Sub 0x1001 P) : Kept P s0 (startBreather s st ch) := by
  unfold startBreather
  repeat' first
    | (with_reducible assumption)
    | ((with_reducible apply Sub.le hp); rfl)
    | (extract_lets +onlyGivenNames yk; refine (kept_some (P := P) (s0 := s0) yk ?_).elim (fun _ hyk => ?_); subst yk; rotate_left; rw [hyk.2]; have _ := hyk.1; clear hyk; clear yk; rotate_left)
    | (extract_lets +onlyGivenNames yk; clear_value yk; revert yk; intro _)
    | (with_reducible refine kept_ite ?_ ?_)
    | (with_reducible apply kept_bumpF)
    | (with_reducible apply kept_burstRules)
    | (with_reducible apply kept_releaseParked)
    | (with_reducible apply kept_setChState)
    | (with_reducible apply kept_updChan)

theorem kept_endBreather {P : Parts} {s0 : State} (s : State) (st : Nat) (ch : Nat) (hk : Kept P s0 s) (hp : Sub 0x5001 P) : Kept P s0 (endBreather s st ch) := by
  unfold endBreather
  repeat' first
    | (with_reducible assumption)
    | ((with_reducible apply Sub.le hp); rfl)
    | (extract_lets +onlyGivenNames yk; refine (kept_some (P := P) (s0 := s0) yk ?_).elim (fun _ hyk => ?_); subst yk; rotate_left; rw [hyk.2]; have _ := hyk.1; clear hyk; clear yk; rotate_left)
    | (extract_lets +onlyGivenNames yk; clear_value yk; revert yk; intro _)
    | (with_reducible refine kept_forEach _ _ _ (fun _ _ _ => ?_) ?_)
    | (with_reducible refine kept_ite ?_ ?_)
    | (with_reducible apply kept_maxF)
    | (with_reducible apply kept_prechargeAll)
    | (with_reducible apply kept_setChState)
    | (with_reducible apply kept_setF)
    | (with_reducible apply kept_updChan)
    | (with_reducible apply kept_updUnit)

theorem kept_tryStart {P : Parts} {s0 : State} (s : State) (i : Nat) (hk : Kept P s0 s) (hp : Sub 0x3000ca0001d001 P) : Kept P s0 (tryStart s i) := by
  unfold tryStart
  repeat' first
    | (with_reducible assumption)
    | ((with_reducible apply Sub.le hp); rfl)
    | (extract_lets +onlyGivenNames yk; refine (kept_some (P := P) (s0 := s0) yk ?_).elim (fun _ hyk => ?_); subst yk; rotate_left; rw [hyk.2]; have _ := hyk.1; clear hyk; clear yk; rotate_left)
    | (extract_lets +onlyGivenNames yk; clear_value yk; revert yk; intro _)
    | (with_reducible refine kept_ite ?_ ?_)
    | (with_reducible apply kept_charge)
    | (with_reducible apply kept_serveHeld)
    | (with_reducible apply kept_updUnit)
    | split

theorem kept_signalCause {P : Parts} {s0 : State} (s : State) (i : Nat) (cause : Nat) (hk : Kept P s0 s) (hp : Sub 0x4000 P) : Kept P s0 (signalCause s i cause) := by
  unfold signalCause
  repeat' first
    | (with_reducible assumption)
    | (with_reducible apply kept_updUnit)

theorem kept_faultChannel {P : Parts} {s0 : State} (s : State) (st : Nat) (ch : Nat) (hk : Kept P s0 s) (hp : Sub 0x3000cb0001d001 P) : Kept P s0 (faultChannel s st ch) := by
  unfold faultChannel
  repeat' first
    | (with_reducible assumption)
    | ((with_reducible apply Sub.le hp); rfl)
    | (extract_lets +onlyGivenNames yk; refine (kept_some (P := P) (s0 := s0) yk ?_).elim (fun _ hyk => ?_); subst yk; rotate_left; rw [hyk.2]; have _ := hyk.1; clear hyk; clear yk; rotate_left)
    | (extract_lets +onlyGivenNames yk; clear_value yk; revert yk; intro _)
    | (with_reducible refine kept_forEach _ _ _ (fun _ _ _ => ?_) ?_)
    | (with_reducible refine kept_ite ?_ ?_)
    | (with_reducible apply kept_cancelPaused)
    | (with_reducible apply kept_cancelQueued)
    | (with_reducible apply kept_dropIntake)
    | (with_reducible apply kept_serveHeld)
    | (with_reducible apply kept_setChState)
    | (with_reducible apply kept_updChan)
    | (with_reducible apply kept_updUnit)
    | ((with_reducible refine kept_mk 0x100000000 ?_ ?_ ?_ ?_); rotate_left; rfl; (constructor <;> first | exact fun _ => rfl | exact fun h => absurd h (by decide)); apply Sub.le hp; rfl)

theorem kept_accArrive {P : Parts} {s0 : State} (s : State) (st : Nat) (ch : Nat) (bank : Nat) (row : Nat) (j : AccJob) (src : Nat) (hk : Kept P s0 s) (hp : Sub 0x3000cf0001d201 P) : Kept P s0 (accArrive s st ch bank row j src) := by
  unfold accArrive
  repeat' first
    | (with_reducible assumption)
    | ((with_reducible apply Sub.le hp); rfl)
    | (extract_lets +onlyGivenNames yk; clear_value yk; revert yk; intro _)
    | (with_reducible refine kept_ite ?_ ?_)
    | (with_reducible apply kept_dropAccess)
    | (with_reducible apply kept_inDone)
    | (with_reducible apply kept_updUnit)

end Sys2Proof.Machine
end

