-- ==== Sys2Proof/Laws/KeptSorrel.lean ====
section
/-! SUPPORT. `Kept` for the operations of Machine/Sorrel.lean: one lemma per function that changes the state. -/
namespace Sys2Proof.Machine

theorem kept_advance {P : Parts} {s0 : State} (s : State) (k : SCtx) (at_ : Nat) (hk : Kept P s0 s) (hp : Sub 0x4000 P) : Kept P s0 (advance s k at_) := by
  unfold advance
  repeat' first
    | (with_reducible assumption)
    | (extract_lets +onlyGivenNames yk; clear_value yk; revert yk; intro _)
    | (with_reducible apply kept_updUnit)

theorem kept_raiseFl {P : Parts} {s0 : State} (s : State) (i : Nat) (f : Nat) (hk : Kept P s0 s) (hp : Sub 0x4000 P) : Kept P s0 (raiseFl s i f) := by
  unfold raiseFl
  repeat' first
    | (with_reducible assumption)
    | (with_reducible apply kept_updUnit)

theorem kept_setV {P : Parts} {s0 : State} (s : State) (i : Nat) (d : Nat) (c : Chunk) (hk : Kept P s0 s) (hp : Sub 0x4000 P) : Kept P s0 (setV s i d c) := by
  unfold setV
  repeat' first
    | (with_reducible assumption)
    | (with_reducible apply kept_updUnit)

theorem kept_updRun {P : Parts} {s0 : State} (s : State) (i : Nat) (f : Running → Running) (hk : Kept P s0 s) (hp : Sub 0x4000 P) : Kept P s0 (updRun s i f) := by
  unfold updRun
  repeat' first
    | (with_reducible assumption)
    | (with_reducible apply kept_updUnit)

theorem kept_eatPoison {P : Parts} {s0 : State} (s : State) (k : SCtx) (p : Bool) (always : Bool) (hk : Kept P s0 s) (hp : Sub 0x8000004000 P) : Kept P s0 (eatPoison s k p always) := by
  unfold eatPoison
  repeat' first
    | (with_reducible assumption)
    | ((with_reducible apply Sub.le hp); rfl)
    | (extract_lets +onlyGivenNames yk; clear_value yk; revert yk; intro _)
    | (with_reducible refine kept_ite ?_ ?_)
    | (with_reducible apply kept_bite)
    | (with_reducible apply kept_raiseFl)
    | (with_reducible apply kept_updRun)

theorem kept_stopFor_opt {P : Parts} {s0 : State} (s : State) (k : SCtx) (cs : List Nat) (hk : Kept P s0 s) (hp : Sub 0x4000 P) : KeptO P s0 (fun s => s) (stopFor s k cs) := by
  unfold stopFor
  repeat' first
    | (with_reducible exact keptO_none _)
    | (with_reducible refine keptO_some ?_)
    | (with_reducible assumption)
    | (with_reducible apply kept_updUnit)
    | split

theorem kept_stopFor {P : Parts} {s0 : State} {tt : State} (s : State) (k : SCtx) (cs : List Nat) (hk : Kept P s0 s) (hp : Sub 0x4000 P) (he : stopFor s k cs = some tt) : Kept P s0 tt :=
  kept_stopFor_opt s k cs hk hp _ he

theorem kept_storeChunk {P : Parts} {s0 : State} (s : State) (k : SCtx) (whole : Bool) (c : Nat) (d : Chunk) (hk : Kept P s0 s) (hp : Sub 0x4800007f09 P) : Kept P s0 (storeChunk s k whole c d) := by
  unfold storeChunk
  repeat' first
    | (with_reducible assumption)
    | ((with_reducible apply Sub.le hp); rfl)
    | (extract_lets +onlyGivenNames yk; refine (kept_some (P := P) (s0 := s0) yk ?_).elim (fun _ hyk => ?_); subst yk; rotate_left; rw [hyk.2]; have _ := hyk.1; clear hyk; clear yk; rotate_left)
    | (extract_lets +onlyGivenNames yk; clear_value yk; revert yk; intro _)
    | (with_reducible refine kept_ite ?_ ?_)
    | (with_reducible apply kept_bakeSector)
    | (with_reducible apply kept_bumpF)
    | (with_reducible apply kept_decodeRow)
    | (with_reducible apply kept_setPoison)
    | (with_reducible apply kept_updRun)
    | (with_reducible apply kept_wrMem)
    | ((with_reducible refine kept_mk 0x400 ?_ ?_ ?_ ?_); rotate_left; rfl; (constructor <;> first | exact fun _ => rfl | exact fun h => absurd h (by decide)); apply Sub.le hp; rfl)

theorem kept_srlRun {P : Parts} {s0 : State} (s : State) (i op : Nat) (f : SrlF) (act skip : SAct)
    (ha : ∀ s k n f, Kept P s0 s → KeptO P s0 (fun s => s) (act s k n f))
    (hs : ∀ s k n f, Kept P s0 s → KeptO P s0 (fun s => s) (skip s k n f)) (hk : Kept P s0 s) (hp : Sub 0x4000 P) : Kept P s0 (srlRun s i op f act skip) := by
  unfold srlRun
  split
  · exact hk
  · split
    · exact hk
    · split
      · exact hk
      · simp only
        split
        · split
          · exact kept_advance _ _ _ (kept_raiseFl _ _ _ hk (hp.le rfl)) (hp.le rfl)
          · exact kept_advance _ _ _ hk (hp.le rfl)
        · split
          · exact hk
          · rename_i t e
            have ht : Kept P s0 t := keptO_ite (ha _ _ _ _ hk) (hs _ _ _ _ hk) t e
            split
            · exact ht
            · exact kept_advance _ _ _ ht (hp.le rfl)

theorem kept_noAct {P : Parts} {s0 : State}  (s : State) (k : SCtx) (n : Nat) (fw : SrlF) (hk : Kept P s0 s) (hp : Sub 0x0 P) : KeptO P s0 (fun s => s) (noAct  s k n fw) := by
  unfold noAct
  repeat' first
    | (with_reducible refine keptO_some ?_)
    | (with_reducible assumption)

theorem kept_nopRun {P : Parts} {s0 : State} (s : State) (i : Nat) (f : SrlF) (hk : Kept P s0 s) (hp : Sub 0x4000 P) : Kept P s0 (nopRun s i f) := by
  unfold nopRun
  repeat' first
    | (with_reducible assumption)
    | (extract_lets +onlyGivenNames yk; clear_value yk; revert yk; intro _)
    | (with_reducible refine kept_ite ?_ ?_)
    | (with_reducible apply kept_advance)
    | (with_reducible apply kept_raiseFl)
    | split

theorem kept_laneAct {P : Parts} {s0 : State} (srcs : SrlF → List Nat) (res : Nat → SrlF → List (List Nat) → List Nat × NFlags) (ty : SrlF → Nat) (s : State) (k : SCtx) (n : Nat) (fw : SrlF) (hk : Kept P s0 s) (hp : Sub 0x8000004000 P) : KeptO P s0 (fun s => s) (laneAct srcs res ty s k n fw) := by
  unfold laneAct
  repeat' first
    | (with_reducible refine keptO_some ?_)
    | (with_reducible assumption)
    | ((with_reducible apply Sub.le hp); rfl)
    | (with_reducible apply kept_eatPoison)
    | (with_reducible apply kept_raiseFl)
    | (with_reducible apply kept_setV)

theorem kept_arith2 {P : Parts} {s0 : State} (op : AOp) (s : State) (k : SCtx) (n : Nat) (fw : SrlF) (hk : Kept P s0 s) (hp : Sub 0x8000004000 P) : KeptO P s0 (fun s => s) (arith2 op s k n fw) := by
  unfold arith2
  repeat' first
    | (with_reducible assumption)
    | (with_reducible apply kept_laneAct)

theorem kept_cvtAct {P : Parts} {s0 : State}  (s : State) (k : SCtx) (n : Nat) (fw : SrlF) (hk : Kept P s0 s) (hp : Sub 0x8000004000 P) : KeptO P s0 (fun s => s) (cvtAct  s k n fw) := by
  unfold cvtAct
  repeat' first
    | (with_reducible refine keptO_some ?_)
    | (with_reducible assumption)
    | ((with_reducible apply Sub.le hp); rfl)
    | (extract_lets +onlyGivenNames yk; clear_value yk; revert yk; intro _)
    | (with_reducible refine kept_ite ?_ ?_)
    | (with_reducible apply kept_eatPoison)
    | (with_reducible apply kept_raiseFl)
    | (with_reducible apply kept_setV)
    | (with_reducible apply kept_updUnit)

theorem kept_ldAct {P : Parts} {s0 : State}  (s : State) (k : SCtx) (n : Nat) (fw : SrlF) (hk : Kept P s0 s) (hp : Sub 0x4000004000 P) : KeptO P s0 (fun s => s) (ldAct  s k n fw) := by
  unfold ldAct
  repeat' first
    | (with_reducible refine keptO_some ?_)
    | (with_reducible refine keptO_ite ?_ ?_)
    | (with_reducible assumption)
    | ((with_reducible apply Sub.le hp); rfl)
    | (extract_lets +onlyGivenNames yk; refine (kept_some (P := P) (s0 := s0) yk ?_).elim (fun _ hyk => ?_); subst yk; rotate_left; rw [hyk.2]; have _ := hyk.1; clear hyk; clear yk; rotate_left)
    | (with_reducible apply kept_charge)
    | (with_reducible apply kept_setV)
    | (with_reducible refine kept_stopFor _ _ _ ?_ ?_ (by assumption))
    | split

theorem kept_stAct {P : Parts} {s0 : State}  (s : State) (k : SCtx) (n : Nat) (fw : SrlF) (hk : Kept P s0 s) (hp : Sub 0x4800007f09 P) : KeptO P s0 (fun s => s) (stAct  s k n fw) := by
  unfold stAct
  repeat' first
    | (with_reducible refine keptO_some ?_)
    | (with_reducible refine keptO_ite ?_ ?_)
    | (with_reducible assumption)
    | ((with_reducible apply Sub.le hp); rfl)
    | (extract_lets +onlyGivenNames yk; clear_value yk; revert yk; intro _)
    | (with_reducible apply kept_charge)
    | (with_reducible apply kept_raiseFl)
    | (with_reducible apply kept_storeChunk)
    | split

theorem kept_sstAct {P : Parts} {s0 : State}  (s : State) (k : SCtx) (n : Nat) (fw : SrlF) (hk : Kept P s0 s) (hp : Sub 0x4800007f09 P) : KeptO P s0 (fun s => s) (sstAct  s k n fw) := by
  unfold sstAct
  repeat' first
    | (with_reducible refine keptO_some ?_)
    | (with_reducible refine keptO_ite ?_ ?_)
    | (with_reducible assumption)
    | ((with_reducible apply Sub.le hp); rfl)
    | (extract_lets +onlyGivenNames yk; clear_value yk; revert yk; intro _)
    | (with_reducible apply kept_charge)
    | (with_reducible apply kept_raiseFl)
    | (with_reducible apply kept_storeChunk)
    | split

theorem kept_wsendAct {P : Parts} {s0 : State}  (s : State) (k : SCtx) (n : Nat) (fw : SrlF) (hk : Kept P s0 s) (hp : Sub 0x4000 P) : KeptO P s0 (fun s => s) (wsendAct  s k n fw) := by
  unfold wsendAct
  repeat' first
    | (with_reducible exact keptO_none _)
    | (with_reducible refine keptO_some ?_)
    | (with_reducible refine keptO_ite ?_ ?_)
    | (with_reducible assumption)
    | (with_reducible apply kept_updUnit)

theorem kept_receive_opt {P : Parts} {s0 : State} (s : State) (k : SCtx) (up : Bool) (hk : Kept P s0 s) (hp : Sub 0x4000 P) : KeptO P s0 (fun p => p.2) (receive s k up) := by
  unfold receive
  repeat' first
    | (with_reducible exact keptO_none _)
    | (with_reducible refine keptO_some ?_)
    | (with_reducible refine keptO_ite ?_ ?_)
    | (with_reducible assumption)
    | (with_reducible apply kept_updUnit)
    | split

theorem kept_receive {P : Parts} {s0 : State} {x0} {tt} (s : State) (k : SCtx) (up : Bool) (hk : Kept P s0 s) (hp : Sub 0x4000 P) (he : receive s k up = some (x0, tt)) : Kept P s0 tt :=
  kept_receive_opt s k up hk hp _ he

theorem kept_wrecvAct {P : Parts} {s0 : State} (s : State) (k : SCtx) (n : Nat) (fw : SrlF) (hk : Kept P s0 s) (hp : Sub 0x4000 P) :
    KeptO P s0 (fun s => s) (wrecvAct s k n fw) :=
  keptO_map _ _ (kept_receive_opt _ _ _ hk (hp.le rfl)) (fun _ h => kept_setV _ _ _ _ h (hp.le rfl))

theorem kept_wraddWith {P : Parts} {s0 : State} (s : State) (k : SCtx) (f : SrlF) (c : Chunk) (hk : Kept P s0 s) (hp : Sub 0x8000004000 P) : Kept P s0 (wraddWith s k f c) := by
  unfold wraddWith
  repeat' first
    | (with_reducible assumption)
    | ((with_reducible apply Sub.le hp); rfl)
    | (extract_lets +onlyGivenNames yk; clear_value yk; revert yk; intro _)
    | (with_reducible apply kept_eatPoison)
    | (with_reducible apply kept_raiseFl)
    | (with_reducible apply kept_setV)

theorem kept_wraddAct {P : Parts} {s0 : State} (s : State) (k : SCtx) (n : Nat) (fw : SrlF) (hk : Kept P s0 s) (hp : Sub 0x8000004000 P) :
    KeptO P s0 (fun s => s) (wraddAct s k n fw) :=
  keptO_map _ _ (kept_receive_opt _ _ _ hk (hp.le rfl)) (fun _ h => kept_wraddWith _ _ _ _ h (hp.le rfl))

theorem kept_windrowTimeout {P : Parts} {s0 : State} (s : State) (i : Nat) (hk : Kept P s0 s) (hp : Sub 0x8000004000 P) : Kept P s0 (windrowTimeout s i) := by
  unfold windrowTimeout; dsimp only
  repeat' first
    | (with_reducible assumption)
    | ((with_reducible apply Sub.le hp); rfl)
    | (with_reducible refine kept_ite ?_ ?_)
    | (with_reducible apply kept_advance)
    | (with_reducible apply kept_raiseFl)
    | (with_reducible apply kept_setV)
    | (with_reducible apply kept_wraddWith)
    | split

theorem kept_macroAct {P : Parts} {s0 : State} (withV : Bool) (step : SCtx → SrlF → Nat → Nat → Nat → Nat → (Nat × Nat × Nat) × NFlags) (s : State) (k : SCtx) (n : Nat) (fw : SrlF) (hk : Kept P s0 s) (hp : Sub 0xc800007f09 P) : KeptO P s0 (fun s => s) (macroAct withV step s k n fw) := by
  unfold macroAct; dsimp only
  repeat' first
    | (with_reducible refine keptO_some ?_)
    | (with_reducible refine keptO_ite ?_ ?_)
    | (with_reducible assumption)
    | ((with_reducible apply Sub.le hp); rfl)
    | (with_reducible refine kept_forEach _ _ _ (fun _ _ _ => ?_) ?_)
    | (with_reducible refine kept_ite ?_ ?_)
    | (with_reducible apply kept_charge)
    | (with_reducible apply kept_eatPoison)
    | (with_reducible apply kept_raiseFl)
    | (with_reducible apply kept_setV)
    | (with_reducible refine kept_stopFor _ _ _ ?_ ?_ (by assumption))
    | (with_reducible apply kept_storeChunk)
    | (with_reducible apply kept_updRun)
    | split

theorem kept_macroSkip {P : Parts} {s0 : State}  (s : State) (k : SCtx) (n : Nat) (fw : SrlF) (hk : Kept P s0 s) (hp : Sub 0x4000 P) : KeptO P s0 (fun s => s) (macroSkip  s k n fw) := by
  unfold macroSkip
  repeat' first
    | (with_reducible refine keptO_some ?_)
    | (with_reducible assumption)
    | (with_reducible refine kept_ite ?_ ?_)
    | (with_reducible apply kept_raiseFl)

theorem kept_accumAct {P : Parts} {s0 : State}  (s : State) (k : SCtx) (n : Nat) (fw : SrlF) (hk : Kept P s0 s) (hp : Sub 0xc800007f09 P) : KeptO P s0 (fun s => s) (accumAct  s k n fw) := by
  unfold accumAct
  repeat' first
    | (with_reducible refine keptO_some ?_)
    | (with_reducible refine keptO_ite ?_ ?_)
    | (with_reducible assumption)
    | ((with_reducible apply Sub.le hp); rfl)
    | (extract_lets +onlyGivenNames yk; clear_value yk; revert yk; intro _)
    | (with_reducible apply kept_charge)
    | (with_reducible apply kept_eatPoison)
    | (with_reducible apply kept_raiseFl)
    | (with_reducible refine kept_stopFor _ _ _ ?_ ?_ (by assumption))
    | (with_reducible apply kept_storeChunk)
    | split

theorem kept_shadowAct {P : Parts} {s0 : State}  (s : State) (k : SCtx) (n : Nat) (fw : SrlF) (hk : Kept P s0 s) (hp : Sub 0x8000004000 P) : KeptO P s0 (fun s => s) (shadowAct  s k n fw) := by
  unfold shadowAct
  repeat' first
    | (with_reducible refine keptO_some ?_)
    | (with_reducible assumption)
    | ((with_reducible apply Sub.le hp); rfl)
    | (with_reducible refine kept_ite ?_ ?_)
    | (with_reducible apply kept_eatPoison)
    | (with_reducible apply kept_raiseFl)
    | (with_reducible apply kept_updUnit)

theorem kept_acciStep {P : Parts} {s0 : State} (s : State) (i : Nat) (hk : Kept P s0 s) (hp : Sub 0xc800007f09 P) : Kept P s0 (acciStep s i) := by
  unfold acciStep
  repeat' first
    | (with_reducible assumption)
    | ((with_reducible apply Sub.le hp); rfl)
    | (extract_lets +onlyGivenNames yk; refine (kept_some (P := P) (s0 := s0) yk ?_).elim (fun _ hyk => ?_); subst yk; rotate_left; rw [hyk.2]; have _ := hyk.1; clear hyk; clear yk; rotate_left)
    | (extract_lets +onlyGivenNames yk; clear_value yk; revert yk; intro _)
    | (with_reducible refine kept_ite ?_ ?_)
    | (with_reducible apply kept_charge)
    | (with_reducible apply kept_eatPoison)
    | (with_reducible apply kept_raiseFl)
    | (with_reducible refine kept_stopFor _ _ _ ?_ ?_ (by assumption))
    | (with_reducible apply kept_storeChunk)
    | (with_reducible apply kept_updRun)
    | split

theorem kept_correctionDone {P : Parts} {s0 : State} (s : State) (i : Nat) (hk : Kept P s0 s) (hp : Sub 0x4800007f09 P) : Kept P s0 (correctionDone s i) := by
  unfold correctionDone
  repeat' first
    | (with_reducible assumption)
    | ((with_reducible apply Sub.le hp); rfl)
    | (extract_lets +onlyGivenNames yk; clear_value yk; revert yk; intro _)
    | (with_reducible apply kept_decodeRow)
    | (with_reducible apply kept_updUnit)
    | split

theorem kept_endSwath {P : Parts} {s0 : State} (s : State) (k : SCtx) (hk : Kept P s0 s) (hp : Sub 0x3000cf0001d201 P) : Kept P s0 (endSwath s k) := by
  unfold endSwath
  repeat' first
    | (with_reducible assumption)
    | ((with_reducible apply Sub.le hp); rfl)
    | (extract_lets +onlyGivenNames yk; refine (kept_some (P := P) (s0 := s0) yk ?_).elim (fun _ hyk => ?_); subst yk; rotate_left; rw [hyk.2]; have _ := hyk.1; clear hyk; clear yk; rotate_left)
    | (extract_lets +onlyGivenNames yk; clear_value yk; revert yk; intro _)
    | (with_reducible refine kept_ite ?_ ?_)
    | (with_reducible apply kept_bumpF)
    | (with_reducible apply kept_inDone)
    | (with_reducible apply kept_raiseFl)
    | (with_reducible apply kept_serveHeld)
    | (with_reducible apply kept_updUnit)
    | split

theorem kept_pauseSwath {P : Parts} {s0 : State} (s : State) (k : SCtx) (cause : Nat) (hk : Kept P s0 s) (hp : Sub 0x3000ca0001d001 P) : Kept P s0 (pauseSwath s k cause) := by
  unfold pauseSwath
  repeat' first
    | (with_reducible assumption)
    | ((with_reducible apply Sub.le hp); rfl)
    | (extract_lets +onlyGivenNames yk; refine (kept_some (P := P) (s0 := s0) yk ?_).elim (fun _ hyk => ?_); subst yk; rotate_left; rw [hyk.2]; have _ := hyk.1; clear hyk; clear yk; rotate_left)
    | (extract_lets +onlyGivenNames yk; clear_value yk; revert yk; intro _)
    | (with_reducible refine kept_ite ?_ ?_)
    | (with_reducible apply kept_bumpF)
    | (with_reducible apply kept_event)
    | (with_reducible apply kept_postStopped)
    | (with_reducible apply kept_serveHeld)
    | (with_reducible apply kept_setF)
    | (with_reducible apply kept_updUnit)

theorem kept_commitRow {P : Parts} {s0 : State} (s : State) (i : Nat) (hk : Kept P s0 s) (hp : Sub 0x3000cf0001fe09 P) : Kept P s0 (commitRow s i) := by
  unfold commitRow
  repeat' first
    | (with_reducible assumption)
    | ((with_reducible apply Sub.le hp); rfl)
    | (extract_lets +onlyGivenNames yk; refine (kept_some (P := P) (s0 := s0) yk ?_).elim (fun _ hyk => ?_); subst yk; rotate_left; rw [hyk.2]; have _ := hyk.1; clear hyk; clear yk; rotate_left)
    | (extract_lets +onlyGivenNames yk; clear_value yk; revert yk; intro _)
    | (with_reducible refine kept_ite ?_ ?_)
    | (with_reducible apply kept_charge)
    | (with_reducible apply kept_dirtyLine)
    | (with_reducible apply kept_endSwath)
    | (with_reducible apply kept_pauseSwath)
    | (with_reducible apply kept_postStopped)
    | (with_reducible apply kept_serveHeld)
    | (with_reducible apply kept_updRun)
    | (with_reducible apply kept_updUnit)
    | split

end Sys2Proof.Machine
end

