-- ==== Sys2Proof/Laws/KeptSorrelCmds.lean ====
section
/-! SUPPORT. `Kept` for the operations of Machine/SorrelCmds.lean: one lemma per function that changes the state. -/
namespace Sys2Proof.Machine

theorem kept_cmdAccess {P : Parts} {s0 : State} (s : State) (at_ : CmdAt) (a : Access) (hk : Kept P s0 s) (hp : Sub 0x3000ca0001d001 P) : Kept P s0 (cmdAccess s at_ a) := by
  unfold cmdAccess
  repeat' first
    | (with_reducible assumption)
    | ((with_reducible apply Sub.le hp); rfl)
    | (with_reducible refine kept_ite ?_ ?_)
    | (with_reducible refine kept_arriveAccess _ _ _ _ _ ?_ ?_ (by assumption))
    | (with_reducible apply kept_memRequest)
    | split

theorem kept_rowAccess {P : Parts} {s0 : State} (s : State) (st : Nat) (ch : Nat) (a : Access) (row : Nat) (hk : Kept P s0 s) (hp : Sub 0x3000ca0001d001 P) : Kept P s0 (rowAccess s st ch a row) := by
  unfold rowAccess
  repeat' first
    | (with_reducible assumption)
    | ((with_reducible apply Sub.le hp); rfl)
    | (with_reducible refine kept_ite ?_ ?_)
    | (with_reducible refine kept_arriveAccess _ _ _ _ _ ?_ ?_ (by assumption))
    | (with_reducible apply kept_memRequest)
    | split

theorem kept_cmdWrite {P : Parts} {s0 : State} (s : State) (at_ : CmdAt) (bank : Nat) (off : Nat) (data : List (Option Byte)) (poison : List Bool) (hk : Kept P s0 s) (hp : Sub 0x3000ca0001d001 P) : Kept P s0 (cmdWrite s at_ bank off data poison) := by
  unfold cmdWrite
  repeat' first
    | (with_reducible assumption)
    | (with_reducible apply kept_cmdAccess)

theorem kept_cmdRead {P : Parts} {s0 : State} (s : State) (at_ : CmdAt) (bank : Nat) (slot : Nat) (hk : Kept P s0 s) (hp : Sub 0x3000ca0001d001 P) : Kept P s0 (cmdRead s at_ bank slot) := by
  unfold cmdRead
  repeat' first
    | (with_reducible assumption)
    | (with_reducible apply kept_cmdAccess)

theorem kept_execChmodeWrite {P : Parts} {s0 : State} (_w : Writer) (stack : Nat) (ch : Nat) (v : W64) (s : State) (hk : Kept P s0 s) (hp : Sub 0x3000ca0001d001 P) : KeptR P s0 (execChmodeWrite _w stack ch v s) := by
  unfold execChmodeWrite
  repeat' first
    | (with_reducible refine keptR_onPage (by assumption) ?_ ?_)
    | (with_reducible assumption)
    | ((with_reducible apply Sub.le hp); rfl)
    | (with_reducible apply kept_chmode)

theorem kept_execModeProc {P : Parts} {s0 : State} (stack : Nat) (ch : Nat) (s : State) (hk : Kept P s0 s) (hp : Sub 0x3000ca0001d001 P) : KeptR P s0 (execModeProc stack ch s) := by
  unfold execModeProc
  repeat' first
    | (with_reducible refine keptR_onObj (by assumption) ?_)
    | (with_reducible assumption)
    | (with_reducible apply kept_reachProc)

theorem kept_execModeMem {P : Parts} {s0 : State} (stack : Nat) (ch : Nat) (s : State) (hk : Kept P s0 s) (hp : Sub 0x3001 P) : KeptR P s0 (execModeMem stack ch s) := by
  unfold execModeMem
  repeat' first
    | (with_reducible refine keptR_onObj (by assumption) ?_)
    | (with_reducible assumption)
    | (with_reducible apply kept_reachMem)

theorem kept_execProgramWrite {P : Parts} {s0 : State} (at_ : CmdAt) (off : Nat) (data : List (Option Byte)) (s : State) (hk : Kept P s0 s) (hp : Sub 0x3000ca0001d001 P) : KeptR P s0 (execProgramWrite at_ off data s) := by
  unfold execProgramWrite
  repeat' first
    | (with_reducible refine keptR_onObj (by assumption) ?_)
    | (with_reducible assumption)
    | (with_reducible apply kept_cmdWrite)

theorem kept_execSwathCommandWrite {P : Parts} {s0 : State} (at_ : CmdAt) (off : Nat) (data : List (Option Byte)) (s : State) (hk : Kept P s0 s) (hp : Sub 0x3000ca0001d001 P) : KeptR P s0 (execSwathCommandWrite at_ off data s) := by
  unfold execSwathCommandWrite
  repeat' first
    | (with_reducible refine keptR_onObj (by assumption) ?_)
    | (with_reducible assumption)
    | (with_reducible apply kept_cmdWrite)

theorem kept_execSwathLaunch {P : Parts} {s0 : State} (at_ : CmdAt) (word7 : W64) (s : State) (hk : Kept P s0 s) (hp : Sub 0x3000ca0001d001 P) : KeptR P s0 (execSwathLaunch at_ word7 s) := by
  unfold execSwathLaunch
  repeat' first
    | (with_reducible refine keptR_onObj (by assumption) ?_)
    | (with_reducible assumption)
    | (with_reducible apply kept_cmdWrite)

theorem kept_execSRegisterWrite {P : Parts} {s0 : State} (at_ : CmdAt) (off : Nat) (data : List (Option Byte)) (s : State) (hk : Kept P s0 s) (hp : Sub 0x3000ca0001d001 P) : KeptR P s0 (execSRegisterWrite at_ off data s) := by
  unfold execSRegisterWrite
  repeat' first
    | (with_reducible refine keptR_onObj (by assumption) ?_)
    | (with_reducible assumption)
    | (with_reducible apply kept_cmdWrite)

theorem kept_execOperandWrite {P : Parts} {s0 : State} (at_ : CmdAt) (off : Nat) (data : List (Option Byte)) (poison : List Bool) (s : State) (hk : Kept P s0 s) (hp : Sub 0x3000ca0001d001 P) : KeptR P s0 (execOperandWrite at_ off data poison s) := by
  unfold execOperandWrite
  repeat' first
    | (with_reducible refine keptR_onObj (by assumption) ?_)
    | (with_reducible assumption)
    | (with_reducible apply kept_cmdWrite)

theorem kept_execOperandRead {P : Parts} {s0 : State} (at_ : CmdAt) (slot : Nat) (s : State) (hk : Kept P s0 s) (hp : Sub 0x3000ca0001d001 P) : KeptR P s0 (execOperandRead at_ slot s) := by
  unfold execOperandRead
  repeat' first
    | (with_reducible refine keptR_onObj (by assumption) ?_)
    | (with_reducible assumption)
    | (with_reducible apply kept_cmdRead)

theorem kept_execResultSlotRead {P : Parts} {s0 : State} (at_ : CmdAt) (slot : Nat) (s : State) (hk : Kept P s0 s) (hp : Sub 0x3000ca0001d001 P) : KeptR P s0 (execResultSlotRead at_ slot s) := by
  unfold execResultSlotRead
  repeat' first
    | (with_reducible refine keptR_onObj (by assumption) ?_)
    | (with_reducible assumption)
    | (with_reducible apply kept_cmdRead)

theorem kept_execUnitStatusRead {P : Parts} {s0 : State} (at_ : CmdAt) (s : State) (hk : Kept P s0 s) (hp : Sub 0x3000ca0001d001 P) : KeptR P s0 (execUnitStatusRead at_ s) := by
  unfold execUnitStatusRead
  repeat' first
    | (with_reducible refine keptR_onObj (by assumption) ?_)
    | (with_reducible assumption)
    | (with_reducible apply kept_cmdRead)

theorem kept_execBroadcastWrite {P : Parts} {s0 : State} (at_ : CmdAt) (mirror : Nat) (off : Nat) (data : List (Option Byte)) (poison : List Bool) (s : State) (hk : Kept P s0 s) (hp : Sub 0x3000ca0001d001 P) : KeptR P s0 (execBroadcastWrite at_ mirror off data poison s) := by
  unfold execBroadcastWrite
  repeat' first
    | (with_reducible refine keptR_onObj (by assumption) ?_)
    | (with_reducible assumption)
    | (with_reducible apply kept_cmdWrite)

theorem kept_execBroadcastRead {P : Parts} {s0 : State} (at_ : CmdAt) (mirror : Nat) (slot : Nat) (s : State) (hk : Kept P s0 s) (hp : Sub 0x3000ca0001d001 P) : KeptR P s0 (execBroadcastRead at_ mirror slot s) := by
  unfold execBroadcastRead
  repeat' first
    | (with_reducible refine keptR_onObj (by assumption) ?_)
    | (with_reducible assumption)
    | (with_reducible apply kept_cmdRead)

theorem kept_execSwathStart {P : Parts} {s0 : State} (unit : Nat) (s : State) (hk : Kept P s0 s) (hp : Sub 0x3000ca0001d001 P) : KeptR P s0 (execSwathStart unit s) := by
  unfold execSwathStart
  repeat' first
    | (with_reducible refine keptR_onObj (by assumption) ?_)
    | (with_reducible assumption)
    | (with_reducible apply kept_tryStart)

theorem kept_execSwathRowCommit {P : Parts} {s0 : State} (unit : Nat) (s : State) (hk : Kept P s0 s) (hp : Sub 0x3000cf0001fe09 P) : KeptR P s0 (execSwathRowCommit unit s) := by
  unfold execSwathRowCommit
  repeat' first
    | (with_reducible refine keptR_onObj (by assumption) ?_)
    | (with_reducible assumption)
    | (with_reducible apply kept_commitRow)

theorem kept_execSwathLimit {P : Parts} {s0 : State} (unit : Nat) (s : State) (hk : Kept P s0 s) (hp : Sub 0x4000 P) : KeptR P s0 (execSwathLimit unit s) := by
  unfold execSwathLimit
  repeat' first
    | (with_reducible refine keptR_onObj (by assumption) ?_)
    | (with_reducible assumption)
    | (with_reducible apply kept_signalCause)

theorem kept_execSorrelCorrectionDone {P : Parts} {s0 : State} (unit : Nat) (s : State) (hk : Kept P s0 s) (hp : Sub 0x4800007f09 P) : KeptR P s0 (execSorrelCorrectionDone unit s) := by
  unfold execSorrelCorrectionDone
  repeat' first
    | (with_reducible refine keptR_onObj (by assumption) ?_)
    | (with_reducible assumption)
    | (with_reducible apply kept_correctionDone)

theorem kept_execBreather {P : Parts} {s0 : State} (stack : Nat) (ch : Nat) (s : State) (hk : Kept P s0 s) (hp : Sub 0x1001 P) : KeptR P s0 (execBreather stack ch s) := by
  unfold execBreather
  repeat' first
    | (with_reducible refine keptR_onObj (by assumption) ?_)
    | (with_reducible assumption)
    | (with_reducible apply kept_startBreather)

theorem kept_execBreatherEnd {P : Parts} {s0 : State} (stack : Nat) (ch : Nat) (s : State) (hk : Kept P s0 s) (hp : Sub 0x5001 P) : KeptR P s0 (execBreatherEnd stack ch s) := by
  unfold execBreatherEnd
  repeat' first
    | (with_reducible refine keptR_onObj (by assumption) ?_)
    | (with_reducible assumption)
    | (with_reducible apply kept_endBreather)

theorem kept_execSrlNop {P : Parts} {s0 : State} (unit : Nat) (f : SrlF) (s : State) (hk : Kept P s0 s) (hp : Sub 0x4000 P) : KeptR P s0 (execSrlNop unit f s) := by
  unfold execSrlNop
  repeat' first
    | (with_reducible refine keptR_onObj (by assumption) ?_)
    | (with_reducible assumption)
    | (with_reducible apply kept_nopRun)

theorem kept_execLd {P : Parts} {s0 : State} (unit : Nat) (f : SrlF) (media : List Flip) (s : State) (hk : Kept P s0 s) (hp : Sub 0x4000004400 P) : KeptR P s0 (execLd unit f media s) := by
  unfold execLd
  repeat' first
    | (with_reducible refine keptR_onObj (by assumption) ?_)
    | (with_reducible assumption)
    | ((with_reducible apply Sub.le hp); rfl)
    | (with_reducible apply kept_addFlips)
    | (with_reducible apply kept_ldAct)
    | (with_reducible apply kept_noAct)
    | (with_reducible refine kept_srlRun _ _ _ _ _ _ (fun _ _ _ _ _ => ?_) (fun _ _ _ _ _ => ?_) ?_ ?_)

theorem kept_execSt {P : Parts} {s0 : State} (unit : Nat) (f : SrlF) (s : State) (hk : Kept P s0 s) (hp : Sub 0x4800007f09 P) : KeptR P s0 (execSt unit f s) := by
  unfold execSt
  repeat' first
    | (with_reducible refine keptR_onObj (by assumption) ?_)
    | (with_reducible assumption)
    | ((with_reducible apply Sub.le hp); rfl)
    | (with_reducible apply kept_noAct)
    | (with_reducible refine kept_srlRun _ _ _ _ _ _ (fun _ _ _ _ _ => ?_) (fun _ _ _ _ _ => ?_) ?_ ?_)
    | (with_reducible apply kept_stAct)

theorem kept_execSst {P : Parts} {s0 : State} (unit : Nat) (f : SrlF) (s : State) (hk : Kept P s0 s) (hp : Sub 0x4800007f09 P) : KeptR P s0 (execSst unit f s) := by
  unfold execSst
  repeat' first
    | (with_reducible refine keptR_onObj (by assumption) ?_)
    | (with_reducible assumption)
    | ((with_reducible apply Sub.le hp); rfl)
    | (with_reducible apply kept_noAct)
    | (with_reducible refine kept_srlRun _ _ _ _ _ _ (fun _ _ _ _ _ => ?_) (fun _ _ _ _ _ => ?_) ?_ ?_)
    | (with_reducible apply kept_sstAct)

theorem kept_execMov {P : Parts} {s0 : State} (unit : Nat) (f : SrlF) (s : State) (hk : Kept P s0 s) (hp : Sub 0x4000 P) : KeptR P s0 (execMov unit f s) := by
  unfold execMov
  repeat' first
    | (with_reducible refine keptO_some ?_)
    | (with_reducible refine keptR_onObj (by assumption) ?_)
    | (with_reducible assumption)
    | ((with_reducible apply Sub.le hp); rfl)
    | (with_reducible apply kept_noAct)
    | (with_reducible apply kept_setV)
    | (with_reducible refine kept_srlRun _ _ _ _ _ _ (fun _ _ _ _ _ => ?_) (fun _ _ _ _ _ => ?_) ?_ ?_)

theorem kept_execSbc {P : Parts} {s0 : State} (unit : Nat) (f : SrlF) (s : State) (hk : Kept P s0 s) (hp : Sub 0x4000 P) : KeptR P s0 (execSbc unit f s) := by
  unfold execSbc
  repeat' first
    | (with_reducible refine keptO_some ?_)
    | (with_reducible refine keptR_onObj (by assumption) ?_)
    | (with_reducible assumption)
    | ((with_reducible apply Sub.le hp); rfl)
    | (with_reducible apply kept_noAct)
    | (with_reducible apply kept_setV)
    | (with_reducible refine kept_srlRun _ _ _ _ _ _ (fun _ _ _ _ _ => ?_) (fun _ _ _ _ _ => ?_) ?_ ?_)

theorem kept_execSins {P : Parts} {s0 : State} (unit : Nat) (f : SrlF) (s : State) (hk : Kept P s0 s) (hp : Sub 0x4000 P) : KeptR P s0 (execSins unit f s) := by
  unfold execSins
  repeat' first
    | (with_reducible refine keptO_some ?_)
    | (with_reducible refine keptR_onObj (by assumption) ?_)
    | (with_reducible assumption)
    | ((with_reducible apply Sub.le hp); rfl)
    | (with_reducible apply kept_noAct)
    | (with_reducible apply kept_setV)
    | (with_reducible refine kept_srlRun _ _ _ _ _ _ (fun _ _ _ _ _ => ?_) (fun _ _ _ _ _ => ?_) ?_ ?_)

theorem kept_execRdfl {P : Parts} {s0 : State} (unit : Nat) (f : SrlF) (s : State) (hk : Kept P s0 s) (hp : Sub 0x4000 P) : KeptR P s0 (execRdfl unit f s) := by
  unfold execRdfl
  repeat' first
    | (with_reducible refine keptO_some ?_)
    | (with_reducible refine keptR_onObj (by assumption) ?_)
    | (with_reducible assumption)
    | ((with_reducible apply Sub.le hp); rfl)
    | (with_reducible apply kept_noAct)
    | (with_reducible apply kept_setV)
    | (with_reducible refine kept_srlRun _ _ _ _ _ _ (fun _ _ _ _ _ => ?_) (fun _ _ _ _ _ => ?_) ?_ ?_)

theorem kept_execAdd {P : Parts} {s0 : State} (unit : Nat) (f : SrlF) (s : State) (hk : Kept P s0 s) (hp : Sub 0x8000004000 P) : KeptR P s0 (execAdd unit f s) := by
  unfold execAdd
  repeat' first
    | (with_reducible refine keptR_onObj (by assumption) ?_)
    | (with_reducible assumption)
    | ((with_reducible apply Sub.le hp); rfl)
    | (with_reducible apply kept_arith2)
    | (with_reducible apply kept_noAct)
    | (with_reducible refine kept_srlRun _ _ _ _ _ _ (fun _ _ _ _ _ => ?_) (fun _ _ _ _ _ => ?_) ?_ ?_)

theorem kept_execSub {P : Parts} {s0 : State} (unit : Nat) (f : SrlF) (s : State) (hk : Kept P s0 s) (hp : Sub 0x8000004000 P) : KeptR P s0 (execSub unit f s) := by
  unfold execSub
  repeat' first
    | (with_reducible refine keptR_onObj (by assumption) ?_)
    | (with_reducible assumption)
    | ((with_reducible apply Sub.le hp); rfl)
    | (with_reducible apply kept_arith2)
    | (with_reducible apply kept_noAct)
    | (with_reducible refine kept_srlRun _ _ _ _ _ _ (fun _ _ _ _ _ => ?_) (fun _ _ _ _ _ => ?_) ?_ ?_)

theorem kept_execMul {P : Parts} {s0 : State} (unit : Nat) (f : SrlF) (s : State) (hk : Kept P s0 s) (hp : Sub 0x8000004000 P) : KeptR P s0 (execMul unit f s) := by
  unfold execMul
  repeat' first
    | (with_reducible refine keptR_onObj (by assumption) ?_)
    | (with_reducible assumption)
    | ((with_reducible apply Sub.le hp); rfl)
    | (with_reducible apply kept_arith2)
    | (with_reducible apply kept_noAct)
    | (with_reducible refine kept_srlRun _ _ _ _ _ _ (fun _ _ _ _ _ => ?_) (fun _ _ _ _ _ => ?_) ?_ ?_)

theorem kept_execFma {P : Parts} {s0 : State} (unit : Nat) (f : SrlF) (s : State) (hk : Kept P s0 s) (hp : Sub 0x8000004000 P) : KeptR P s0 (execFma unit f s) := by
  unfold execFma
  repeat' first
    | (with_reducible refine keptR_onObj (by assumption) ?_)
    | (with_reducible assumption)
    | ((with_reducible apply Sub.le hp); rfl)
    | (with_reducible apply kept_laneAct)
    | (with_reducible apply kept_noAct)
    | (with_reducible refine kept_srlRun _ _ _ _ _ _ (fun _ _ _ _ _ => ?_) (fun _ _ _ _ _ => ?_) ?_ ?_)

theorem kept_execMin {P : Parts} {s0 : State} (unit : Nat) (f : SrlF) (s : State) (hk : Kept P s0 s) (hp : Sub 0x8000004000 P) : KeptR P s0 (execMin unit f s) := by
  unfold execMin
  repeat' first
    | (with_reducible refine keptR_onObj (by assumption) ?_)
    | (with_reducible assumption)
    | ((with_reducible apply Sub.le hp); rfl)
    | (with_reducible apply kept_arith2)
    | (with_reducible apply kept_noAct)
    | (with_reducible refine kept_srlRun _ _ _ _ _ _ (fun _ _ _ _ _ => ?_) (fun _ _ _ _ _ => ?_) ?_ ?_)

theorem kept_execMax {P : Parts} {s0 : State} (unit : Nat) (f : SrlF) (s : State) (hk : Kept P s0 s) (hp : Sub 0x8000004000 P) : KeptR P s0 (execMax unit f s) := by
  unfold execMax
  repeat' first
    | (with_reducible refine keptR_onObj (by assumption) ?_)
    | (with_reducible assumption)
    | ((with_reducible apply Sub.le hp); rfl)
    | (with_reducible apply kept_arith2)
    | (with_reducible apply kept_noAct)
    | (with_reducible refine kept_srlRun _ _ _ _ _ _ (fun _ _ _ _ _ => ?_) (fun _ _ _ _ _ => ?_) ?_ ?_)

theorem kept_execCmp {P : Parts} {s0 : State} (unit : Nat) (f : SrlF) (s : State) (hk : Kept P s0 s) (hp : Sub 0x8000004000 P) : KeptR P s0 (execCmp unit f s) := by
  unfold execCmp
  repeat' first
    | (with_reducible refine keptR_onObj (by assumption) ?_)
    | (with_reducible assumption)
    | ((with_reducible apply Sub.le hp); rfl)
    | (with_reducible apply kept_laneAct)
    | (with_reducible apply kept_noAct)
    | (with_reducible refine kept_srlRun _ _ _ _ _ _ (fun _ _ _ _ _ => ?_) (fun _ _ _ _ _ => ?_) ?_ ?_)

theorem kept_execSel {P : Parts} {s0 : State} (unit : Nat) (f : SrlF) (s : State) (hk : Kept P s0 s) (hp : Sub 0x8000004000 P) : KeptR P s0 (execSel unit f s) := by
  unfold execSel
  repeat' first
    | (with_reducible refine keptR_onObj (by assumption) ?_)
    | (with_reducible assumption)
    | ((with_reducible apply Sub.le hp); rfl)
    | (with_reducible apply kept_laneAct)
    | (with_reducible apply kept_noAct)
    | (with_reducible refine kept_srlRun _ _ _ _ _ _ (fun _ _ _ _ _ => ?_) (fun _ _ _ _ _ => ?_) ?_ ?_)

theorem kept_execRsq {P : Parts} {s0 : State} (unit : Nat) (f : SrlF) (s : State) (hk : Kept P s0 s) (hp : Sub 0x8000004000 P) : KeptR P s0 (execRsq unit f s) := by
  unfold execRsq
  repeat' first
    | (with_reducible refine keptR_onObj (by assumption) ?_)
    | (with_reducible assumption)
    | ((with_reducible apply Sub.le hp); rfl)
    | (with_reducible apply kept_laneAct)
    | (with_reducible apply kept_noAct)
    | (with_reducible refine kept_srlRun _ _ _ _ _ _ (fun _ _ _ _ _ => ?_) (fun _ _ _ _ _ => ?_) ?_ ?_)

theorem kept_execCvt {P : Parts} {s0 : State} (unit : Nat) (f : SrlF) (s : State) (hk : Kept P s0 s) (hp : Sub 0x8000004000 P) : KeptR P s0 (execCvt unit f s) := by
  unfold execCvt
  repeat' first
    | (with_reducible refine keptR_onObj (by assumption) ?_)
    | (with_reducible assumption)
    | ((with_reducible apply Sub.le hp); rfl)
    | (with_reducible apply kept_cvtAct)
    | (with_reducible apply kept_noAct)
    | (with_reducible refine kept_srlRun _ _ _ _ _ _ (fun _ _ _ _ _ => ?_) (fun _ _ _ _ _ => ?_) ?_ ?_)

theorem kept_execRed {P : Parts} {s0 : State} (unit : Nat) (f : SrlF) (s : State) (hk : Kept P s0 s) (hp : Sub 0x8000004000 P) : KeptR P s0 (execRed unit f s) := by
  unfold execRed
  repeat' first
    | (with_reducible refine keptR_onObj (by assumption) ?_)
    | (with_reducible assumption)
    | ((with_reducible apply Sub.le hp); rfl)
    | (with_reducible apply kept_laneAct)
    | (with_reducible apply kept_noAct)
    | (with_reducible refine kept_srlRun _ _ _ _ _ _ (fun _ _ _ _ _ => ?_) (fun _ _ _ _ _ => ?_) ?_ ?_)

theorem kept_execPost {P : Parts} {s0 : State} (unit : Nat) (f : SrlF) (s : State) (hk : Kept P s0 s) (hp : Sub 0x4000 P) : KeptR P s0 (execPost unit f s) := by
  unfold execPost
  repeat' first
    | (with_reducible refine keptO_some ?_)
    | (with_reducible refine keptR_onObj (by assumption) ?_)
    | (with_reducible assumption)
    | ((with_reducible apply Sub.le hp); rfl)
    | (with_reducible apply kept_noAct)
    | (with_reducible refine kept_srlRun _ _ _ _ _ _ (fun _ _ _ _ _ => ?_) (fun _ _ _ _ _ => ?_) ?_ ?_)
    | (with_reducible apply kept_updUnit)

theorem kept_execSeed {P : Parts} {s0 : State} (unit : Nat) (f : SrlF) (s : State) (hk : Kept P s0 s) (hp : Sub 0x4000 P) : KeptR P s0 (execSeed unit f s) := by
  unfold execSeed
  repeat' first
    | (with_reducible refine keptO_some ?_)
    | (with_reducible refine keptR_onObj (by assumption) ?_)
    | (with_reducible assumption)
    | ((with_reducible apply Sub.le hp); rfl)
    | (with_reducible apply kept_noAct)
    | (with_reducible refine kept_srlRun _ _ _ _ _ _ (fun _ _ _ _ _ => ?_) (fun _ _ _ _ _ => ?_) ?_ ?_)
    | (with_reducible apply kept_updUnit)

theorem kept_execWsend {P : Parts} {s0 : State} (unit : Nat) (f : SrlF) (s : State) (hk : Kept P s0 s) (hp : Sub 0x4000 P) : KeptR P s0 (execWsend unit f s) := by
  unfold execWsend
  repeat' first
    | (with_reducible refine keptR_onObj (by assumption) ?_)
    | (with_reducible assumption)
    | ((with_reducible apply Sub.le hp); rfl)
    | (with_reducible apply kept_noAct)
    | (with_reducible refine kept_srlRun _ _ _ _ _ _ (fun _ _ _ _ _ => ?_) (fun _ _ _ _ _ => ?_) ?_ ?_)
    | (with_reducible apply kept_wsendAct)

theorem kept_execWrecv {P : Parts} {s0 : State} (unit : Nat) (f : SrlF) (s : State) (hk : Kept P s0 s) (hp : Sub 0x4000 P) : KeptR P s0 (execWrecv unit f s) := by
  unfold execWrecv
  repeat' first
    | (with_reducible refine keptR_onObj (by assumption) ?_)
    | (with_reducible assumption)
    | ((with_reducible apply Sub.le hp); rfl)
    | (with_reducible apply kept_noAct)
    | (with_reducible refine kept_srlRun _ _ _ _ _ _ (fun _ _ _ _ _ => ?_) (fun _ _ _ _ _ => ?_) ?_ ?_)
    | (with_reducible apply kept_wrecvAct)

theorem kept_execWradd {P : Parts} {s0 : State} (unit : Nat) (f : SrlF) (s : State) (hk : Kept P s0 s) (hp : Sub 0x8000004000 P) : KeptR P s0 (execWradd unit f s) := by
  unfold execWradd
  repeat' first
    | (with_reducible refine keptR_onObj (by assumption) ?_)
    | (with_reducible assumption)
    | ((with_reducible apply Sub.le hp); rfl)
    | (with_reducible apply kept_noAct)
    | (with_reducible refine kept_srlRun _ _ _ _ _ _ (fun _ _ _ _ _ => ?_) (fun _ _ _ _ _ => ?_) ?_ ?_)
    | (with_reducible apply kept_wraddAct)

theorem kept_execWrTimeout {P : Parts} {s0 : State} (unit : Nat) (s : State) (hk : Kept P s0 s) (hp : Sub 0x8000004000 P) : KeptR P s0 (execWrTimeout unit s) := by
  unfold execWrTimeout
  repeat' first
    | (with_reducible refine keptR_onObj (by assumption) ?_)
    | (with_reducible assumption)
    | (with_reducible apply kept_windrowTimeout)

theorem kept_execAdamw {P : Parts} {s0 : State} (unit : Nat) (f : SrlF) (s : State) (hk : Kept P s0 s) (hp : Sub 0xc800007f09 P) : KeptR P s0 (execAdamw unit f s) := by
  unfold execAdamw
  repeat' first
    | (with_reducible refine keptR_onObj (by assumption) ?_)
    | (with_reducible assumption)
    | ((with_reducible apply Sub.le hp); rfl)
    | (with_reducible apply kept_macroAct)
    | (with_reducible apply kept_macroSkip)
    | (with_reducible refine kept_srlRun _ _ _ _ _ _ (fun _ _ _ _ _ => ?_) (fun _ _ _ _ _ => ?_) ?_ ?_)

theorem kept_execSgdm {P : Parts} {s0 : State} (unit : Nat) (f : SrlF) (s : State) (hk : Kept P s0 s) (hp : Sub 0xc800007f09 P) : KeptR P s0 (execSgdm unit f s) := by
  unfold execSgdm
  repeat' first
    | (with_reducible refine keptR_onObj (by assumption) ?_)
    | (with_reducible assumption)
    | ((with_reducible apply Sub.le hp); rfl)
    | (with_reducible apply kept_macroAct)
    | (with_reducible apply kept_macroSkip)
    | (with_reducible refine kept_srlRun _ _ _ _ _ _ (fun _ _ _ _ _ => ?_) (fun _ _ _ _ _ => ?_) ?_ ?_)

theorem kept_execAccum {P : Parts} {s0 : State} (unit : Nat) (f : SrlF) (s : State) (hk : Kept P s0 s) (hp : Sub 0xc800007f09 P) : KeptR P s0 (execAccum unit f s) := by
  unfold execAccum
  repeat' first
    | (with_reducible refine keptR_onObj (by assumption) ?_)
    | (with_reducible assumption)
    | ((with_reducible apply Sub.le hp); rfl)
    | (with_reducible apply kept_accumAct)
    | (with_reducible apply kept_noAct)
    | (with_reducible refine kept_srlRun _ _ _ _ _ _ (fun _ _ _ _ _ => ?_) (fun _ _ _ _ _ => ?_) ?_ ?_)

theorem kept_execShadow {P : Parts} {s0 : State} (unit : Nat) (f : SrlF) (s : State) (hk : Kept P s0 s) (hp : Sub 0x8000004000 P) : KeptR P s0 (execShadow unit f s) := by
  unfold execShadow
  repeat' first
    | (with_reducible refine keptR_onObj (by assumption) ?_)
    | (with_reducible assumption)
    | ((with_reducible apply Sub.le hp); rfl)
    | (with_reducible apply kept_noAct)
    | (with_reducible apply kept_shadowAct)
    | (with_reducible refine kept_srlRun _ _ _ _ _ _ (fun _ _ _ _ _ => ?_) (fun _ _ _ _ _ => ?_) ?_ ?_)

theorem kept_execAcci {P : Parts} {s0 : State} (unit : Nat) (s : State) (hk : Kept P s0 s) (hp : Sub 0xc800007f09 P) : KeptR P s0 (execAcci unit s) := by
  unfold execAcci
  repeat' first
    | (with_reducible refine keptR_onObj (by assumption) ?_)
    | (with_reducible assumption)
    | ((with_reducible apply Sub.le hp); rfl)
    | (with_reducible refine kept_ite ?_ ?_)
    | (with_reducible apply kept_acciStep)
    | (with_reducible apply kept_advance)
    | (with_reducible apply kept_raiseFl)
    | split

theorem kept_execWrAccArrival {P : Parts} {s0 : State} (port : Nat) (p : Pkt) (s : State) (hk : Kept P s0 s) (hp : Sub 0x3000cf0001f201 P) : KeptR P s0 (execWrAccArrival port p s) := by
  unfold execWrAccArrival
  repeat' first
    | (with_reducible refine keptR_onObj (by assumption) ?_)
    | (with_reducible assumption)
    | ((with_reducible apply Sub.le hp); rfl)
    | (extract_lets +onlyGivenNames yk; clear_value yk; revert yk; intro _)
    | (with_reducible refine kept_ite ?_ ?_)
    | (with_reducible apply kept_accArrive)
    | (with_reducible apply kept_inDone)
    | (with_reducible apply kept_logHole)
    | (with_reducible apply kept_openIn)

end Sys2Proof.Machine
end

