-- ==== Sys2Proof/Laws/KeptArbs.lean ====
section
/-! SUPPORT. `Kept` for the operations of Machine/Arbs.lean: one lemma per function that changes the state. -/
namespace Sys2Proof.Machine

theorem kept_setHint {P : Parts} {s0 : State} (s : State) (d : Nat) (i : Nat) (r : Nat) (h : Nat) (hk : Kept P s0 s) (hp : Sub 0x1 P) : Kept P s0 (setHint s d i r h) := by
  unfold setHint
  repeat' first
    | (with_reducible assumption)
    | (extract_lets +onlyGivenNames yk; clear_value yk; revert yk; intro _)
    | (with_reducible apply kept_setReg)

theorem kept_showOffences {P : Parts} {s0 : State} (s : State) (d : Nat) (i : Nat) (r : Nat) (hk : Kept P s0 s) (hp : Sub 0x1 P) : Kept P s0 (showOffences s d i r) := by
  unfold showOffences
  repeat' first
    | (with_reducible assumption)
    | (extract_lets +onlyGivenNames yk; clear_value yk; revert yk; intro _)
    | (with_reducible apply kept_setReg)

theorem kept_phaseOf {P : Parts} {s0 : State} (s : State) (d : Nat) (i : Nat) (requests : List Nat) (hk : Kept P s0 s) (hp : Sub 0x8000001 P) : Kept P s0 (phaseOf s d i requests) := by
  unfold phaseOf
  repeat' first
    | (with_reducible assumption)
    | ((with_reducible apply Sub.le hp); rfl)
    | (extract_lets +onlyGivenNames yk; refine (kept_some (P := P) (s0 := s0) yk ?_).elim (fun _ hyk => ?_); subst yk; rotate_left; rw [hyk.2]; have _ := hyk.1; clear hyk; clear yk; rotate_left)
    | (extract_lets +onlyGivenNames yk; clear_value yk; revert yk; intro _)
    | (with_reducible refine kept_forEach _ _ _ (fun _ _ _ => ?_) ?_)
    | (with_reducible apply kept_bumpF)
    | (with_reducible apply kept_setB)
    | (with_reducible apply kept_setF)
    | (with_reducible apply kept_setHint)
    | (with_reducible apply kept_updArb)
    | split

theorem kept_transferEnd {P : Parts} {s0 : State} (s : State) (d : Nat) (i : Nat) (hk : Kept P s0 s) (hp : Sub 0x8000001 P) : Kept P s0 (transferEnd s d i) := by
  unfold transferEnd
  repeat' first
    | (with_reducible assumption)
    | ((with_reducible apply Sub.le hp); rfl)
    | (extract_lets +onlyGivenNames yk; refine (kept_some (P := P) (s0 := s0) yk ?_).elim (fun _ hyk => ?_); subst yk; rotate_left; rw [hyk.2]; have _ := hyk.1; clear hyk; clear yk; rotate_left)
    | (extract_lets +onlyGivenNames yk; clear_value yk; revert yk; intro _)
    | (with_reducible refine kept_ite ?_ ?_)
    | (with_reducible apply kept_setB)
    | (with_reducible apply kept_setF)
    | (with_reducible apply kept_updArb)
    | split

theorem kept_abandon {P : Parts} {s0 : State} (s : State) (d : Nat) (i : Nat) (h : Nat) (hk : Kept P s0 s) (hp : Sub 0x8000001 P) : Kept P s0 (abandon s d i h) := by
  unfold abandon
  repeat' first
    | (with_reducible assumption)
    | ((with_reducible apply Sub.le hp); rfl)
    | (extract_lets +onlyGivenNames yk; refine (kept_some (P := P) (s0 := s0) yk ?_).elim (fun _ hyk => ?_); subst yk; rotate_left; rw [hyk.2]; have _ := hyk.1; clear hyk; clear yk; rotate_left)
    | (extract_lets +onlyGivenNames yk; clear_value yk; revert yk; intro _)
    | (with_reducible apply kept_phaseOf)
    | (with_reducible apply kept_setB)
    | (with_reducible apply kept_setF)
    | (with_reducible apply kept_updArb)

theorem kept_prioWrite {P : Parts} {s0 : State} (s : State) (d : Nat) (i : Nat) (half : Nat) (v : W64) (hk : Kept P s0 s) (hp : Sub 0x8000001 P) : Kept P s0 (prioWrite s d i half v) := by
  unfold prioWrite
  repeat' first
    | (with_reducible assumption)
    | ((with_reducible apply Sub.le hp); rfl)
    | (extract_lets +onlyGivenNames yk; refine (kept_some (P := P) (s0 := s0) yk ?_).elim (fun _ hyk => ?_); subst yk; rotate_left; rw [hyk.2]; have _ := hyk.1; clear hyk; clear yk; rotate_left)
    | (extract_lets +onlyGivenNames yk; clear_value yk; revert yk; intro _)
    | (with_reducible refine kept_ite ?_ ?_)
    | (with_reducible apply kept_abandon)
    | (with_reducible apply kept_bumpF)
    | (with_reducible apply kept_dropLog)
    | (with_reducible apply kept_event)
    | (with_reducible apply kept_setReg)
    | (with_reducible apply kept_voidPlan)
    | split

theorem kept_cutoff {P : Parts} {s0 : State} (s : State) (d : Nat) (i : Nat) (hk : Kept P s0 s) (hp : Sub 0x8008000001 P) : Kept P s0 (cutoff s d i) := by
  unfold cutoff
  repeat' first
    | (with_reducible assumption)
    | ((with_reducible apply Sub.le hp); rfl)
    | (extract_lets +onlyGivenNames yk; refine (kept_some (P := P) (s0 := s0) yk ?_).elim (fun _ hyk => ?_); subst yk; rotate_left; rw [hyk.2]; have _ := hyk.1; clear hyk; clear yk; rotate_left)
    | (extract_lets +onlyGivenNames yk; clear_value yk; revert yk; intro _)
    | (with_reducible refine kept_ite ?_ ?_)
    | (with_reducible apply kept_abandon)
    | (with_reducible apply kept_bumpF)
    | (with_reducible apply kept_event)
    | (with_reducible apply kept_raiseCause)
    | (with_reducible apply kept_recordErr)
    | (with_reducible apply kept_setF)
    | (with_reducible apply kept_showOffences)
    | (with_reducible apply kept_updArb)
    | split

theorem kept_offenceExpiry {P : Parts} {s0 : State} (s : State) (d : Nat) (i : Nat) (r : Nat) (hk : Kept P s0 s) (hp : Sub 0x8000001 P) : Kept P s0 (offenceExpiry s d i r) := by
  unfold offenceExpiry
  repeat' first
    | (with_reducible assumption)
    | ((with_reducible apply Sub.le hp); rfl)
    | (with_reducible apply kept_showOffences)
    | (with_reducible apply kept_updArb)

theorem kept_unstall {P : Parts} {s0 : State} (s : State) (st : Nat) (ch : Nat) (hk : Kept P s0 s) (hp : Sub 0x3000ca0001d001 P) : Kept P s0 (unstall s st ch) := by
  unfold unstall
  repeat' first
    | (with_reducible assumption)
    | ((with_reducible apply Sub.le hp); rfl)
    | (extract_lets +onlyGivenNames yk; refine (kept_some (P := P) (s0 := s0) yk ?_).elim (fun _ hyk => ?_); subst yk; rotate_left; rw [hyk.2]; have _ := hyk.1; clear hyk; clear yk; rotate_left)
    | (extract_lets +onlyGivenNames yk; clear_value yk; revert yk; intro _)
    | (with_reducible refine kept_forEach _ _ _ (fun _ _ _ => ?_) ?_)
    | (with_reducible apply kept_arrive)
    | (with_reducible apply kept_rowAccess)
    | (with_reducible apply kept_takeIn)
    | (with_reducible apply kept_updChan)
    | split

theorem kept_isolEnds {P : Parts} {s0 : State} (s : State) (d : Nat) (i : Nat) (hk : Kept P s0 s) (hp : Sub 0x3000ca0001d001 P) : Kept P s0 (isolEnds s d i) := by
  unfold isolEnds
  repeat' first
    | (with_reducible assumption)
    | ((with_reducible apply Sub.le hp); rfl)
    | (extract_lets +onlyGivenNames yk; clear_value yk; revert yk; intro _)
    | (with_reducible refine kept_forEach _ _ _ (fun _ _ _ => ?_) ?_)
    | (with_reducible refine kept_ite ?_ ?_)
    | (with_reducible apply kept_cxlReadDone)
    | (with_reducible apply kept_cxlWriteDone)
    | (with_reducible apply kept_unstall)
    | split
    | ((with_reducible refine kept_mk 0x800000000 ?_ ?_ ?_ ?_); rotate_left; rfl; (constructor <;> first | exact fun _ => rfl | exact fun h => absurd h (by decide)); apply Sub.le hp; rfl)

theorem kept_isolClear {P : Parts} {s0 : State} (s : State) (d : Nat) (i : Nat) (v : W64) (hk : Kept P s0 s) (hp : Sub 0x3000ca0801d001 P) : Kept P s0 (isolClear s d i v) := by
  unfold isolClear
  repeat' first
    | (with_reducible assumption)
    | ((with_reducible apply Sub.le hp); rfl)
    | (extract_lets +onlyGivenNames yk; refine (kept_some (P := P) (s0 := s0) yk ?_).elim (fun _ hyk => ?_); subst yk; rotate_left; rw [hyk.2]; have _ := hyk.1; clear hyk; clear yk; rotate_left)
    | (extract_lets +onlyGivenNames yk; clear_value yk; revert yk; intro _)
    | (with_reducible refine kept_forEach _ _ _ (fun _ _ _ => ?_) ?_)
    | (with_reducible apply kept_isolEnds)
    | (with_reducible apply kept_showOffences)
    | (with_reducible apply kept_updArb)
    | (with_reducible apply kept_w1c)

theorem kept_execArbitrationPhase {P : Parts} {s0 : State} (die : Nat) (inst : Nat) (requests : List Nat) (s : State) (hk : Kept P s0 s) (hp : Sub 0x8000001 P) : KeptR P s0 (execArbitrationPhase die inst requests s) := by
  unfold execArbitrationPhase
  repeat' first
    | (with_reducible refine keptR_onObj (by assumption) ?_)
    | (with_reducible assumption)
    | (with_reducible refine kept_ite ?_ ?_)
    | (with_reducible apply kept_phaseOf)

theorem kept_execTransferEnd {P : Parts} {s0 : State} (die : Nat) (inst : Nat) (s : State) (hk : Kept P s0 s) (hp : Sub 0x8000001 P) : KeptR P s0 (execTransferEnd die inst s) := by
  unfold execTransferEnd
  repeat' first
    | (with_reducible refine keptR_onObj (by assumption) ?_)
    | (with_reducible assumption)
    | (with_reducible apply kept_transferEnd)

theorem kept_execArbPrioWrite {P : Parts} {s0 : State} (_w : Writer) (die : Nat) (inst : Nat) (half : Nat) (v : W64) (s : State) (hk : Kept P s0 s) (hp : Sub 0x8000001 P) : KeptR P s0 (execArbPrioWrite _w die inst half v s) := by
  unfold execArbPrioWrite
  repeat' first
    | (with_reducible refine keptR_onPage (by assumption) ?_ ?_)
    | (with_reducible assumption)
    | ((with_reducible apply Sub.le hp); rfl)
    | (with_reducible apply kept_prioWrite)

theorem kept_execCutoff {P : Parts} {s0 : State} (die : Nat) (inst : Nat) (s : State) (hk : Kept P s0 s) (hp : Sub 0x8008000001 P) : KeptR P s0 (execCutoff die inst s) := by
  unfold execCutoff
  repeat' first
    | (with_reducible refine keptR_onObj (by assumption) ?_)
    | (with_reducible assumption)
    | (with_reducible apply kept_cutoff)

theorem kept_execOffenceExpiry {P : Parts} {s0 : State} (die : Nat) (inst : Nat) (req : Nat) (s : State) (hk : Kept P s0 s) (hp : Sub 0x8000001 P) : KeptR P s0 (execOffenceExpiry die inst req s) := by
  unfold execOffenceExpiry
  repeat' first
    | (with_reducible refine keptR_onObj (by assumption) ?_)
    | (with_reducible assumption)
    | (with_reducible apply kept_offenceExpiry)

theorem kept_execIsolClear {P : Parts} {s0 : State} (_w : Writer) (die : Nat) (inst : Nat) (v : W64) (s : State) (hk : Kept P s0 s) (hp : Sub 0x3000ca0801d029 P) : KeptR P s0 (execIsolClear _w die inst v s) := by
  unfold execIsolClear
  repeat' first
    | (with_reducible refine keptR_onPage (by assumption) ?_ ?_)
    | (with_reducible assumption)
    | ((with_reducible apply Sub.le hp); rfl)
    | (with_reducible apply kept_isolClear)
    | (with_reducible apply kept_resendVec)

theorem kept_fabricPacket {P : Parts} {s0 : State} (s : State) (d : Nat) (e : Nat) (ok : Bool) (p : FabPkt) (hk : Kept P s0 s) (hp : Sub 0x2000c010000001 P) : Kept P s0 (fabricPacket s d e ok p) := by
  unfold fabricPacket
  repeat' first
    | (with_reducible assumption)
    | ((with_reducible apply Sub.le hp); rfl)
    | (extract_lets +onlyGivenNames yk; refine (kept_some (P := P) (s0 := s0) yk ?_).elim (fun _ hyk => ?_); subst yk; rotate_left; rw [hyk.2]; have _ := hyk.1; clear hyk; clear yk; rotate_left)
    | (extract_lets +onlyGivenNames yk; clear_value yk; revert yk; intro _)
    | (with_reducible refine kept_ite ?_ ?_)
    | (with_reducible apply kept_bumpF)
    | (with_reducible apply kept_charge)
    | (with_reducible apply kept_emit)
    | (with_reducible apply kept_event)
    | (with_reducible apply kept_fwAssert)
    | (with_reducible apply kept_maxF)
    | (with_reducible apply kept_recordErr)
    | split
    | ((with_reducible refine kept_mk 0x10000000 ?_ ?_ ?_ ?_); rotate_left; rfl; (constructor <;> first | exact fun _ => rfl | exact fun h => absurd h (by decide)); apply Sub.le hp; rfl)

theorem kept_execFabricPacket {P : Parts} {s0 : State} (die : Nat) (edge : Nat) (crcOk : Bool) (dest : Nat) (load : FabLoad) (s : State) (hk : Kept P s0 s) (hp : Sub 0x2000c010000001 P) : KeptR P s0 (execFabricPacket die edge crcOk dest load s) := by
  unfold execFabricPacket
  repeat' first
    | (with_reducible refine keptR_onObj (by assumption) ?_)
    | (with_reducible assumption)
    | (with_reducible apply kept_fabricPacket)

end Sys2Proof.Machine
end

