-- ==== Sys2Proof/Laws/KeptBounded.lean ====
section
/-! SUPPORT. `Kept` for the operations of Machine/Bounded.lean: one lemma per function that changes the state. -/
namespace Sys2Proof.Machine

theorem kept_bwAccept {P : Parts} {s0 : State} (s : State) (w : Writer) (off : Nat) (id : Nat) (stack : Nat) (entry : Nat) (value : W64) (hash : List W64) (own : Nat) (hk : Kept P s0 s) (hp : Sub 0x1000000000001 P) : Kept P s0 (bwAccept s w off id stack entry value hash own) := by
  unfold bwAccept
  repeat' first
    | (with_reducible assumption)
    | ((with_reducible apply Sub.le hp); rfl)
    | (extract_lets +onlyGivenNames yk; clear_value yk; revert yk; intro _)
    | (with_reducible refine kept_ite ?_ ?_)
    | (with_reducible apply kept_recordErr)
    | ((with_reducible refine kept_mk 0x1000000000000 ?_ ?_ ?_ ?_); rotate_left; rfl; (constructor <;> first | exact fun _ => rfl | exact fun h => absurd h (by decide)); apply Sub.le hp; rfl)

theorem kept_fallowRowWrite {P : Parts} {s0 : State} (s : State) (w : Writer) (st : Nat) (i : Nat) (v : W64) (hk : Kept P s0 s) (hp : Sub 0x1000000000001 P) : Kept P s0 (fallowRowWrite s w st i v) := by
  unfold fallowRowWrite
  repeat' first
    | (with_reducible assumption)
    | ((with_reducible apply Sub.le hp); rfl)
    | (extract_lets +onlyGivenNames yk; clear_value yk; revert yk; intro _)
    | (with_reducible refine kept_ite ?_ ?_)
    | (with_reducible apply kept_bwAccept)
    | (with_reducible apply kept_recordErr)

theorem kept_fallowBankWrite {P : Parts} {s0 : State} (s : State) (w : Writer) (st : Nat) (n : Nat) (v : W64) (hk : Kept P s0 s) (hp : Sub 0x1000000000001 P) : Kept P s0 (fallowBankWrite s w st n v) := by
  unfold fallowBankWrite
  repeat' first
    | (with_reducible assumption)
    | ((with_reducible apply Sub.le hp); rfl)
    | (extract_lets +onlyGivenNames yk; clear_value yk; revert yk; intro _)
    | (with_reducible refine kept_ite ?_ ?_)
    | (with_reducible apply kept_bwAccept)
    | (with_reducible apply kept_recordErr)

theorem kept_strengthWrite {P : Parts} {s0 : State} (s : State) (w : Writer) (st : Nat) (v : W64) (hk : Kept P s0 s) (hp : Sub 0x1000000000001 P) : Kept P s0 (strengthWrite s w st v) := by
  unfold strengthWrite
  repeat' first
    | (with_reducible assumption)
    | ((with_reducible apply Sub.le hp); rfl)
    | (extract_lets +onlyGivenNames yk; clear_value yk; revert yk; intro _)
    | (with_reducible refine kept_ite ?_ ?_)
    | (with_reducible apply kept_bwAccept)
    | (with_reducible apply kept_recordErr)

theorem kept_decodeKept {P : Parts} {s0 : State} (s : State) (hk : Kept P s0 s) (hp : Sub 0x4800003f09 P) : Kept P s0 (decodeKept s) := by
  unfold decodeKept
  repeat' first
    | (with_reducible assumption)
    | ((with_reducible apply Sub.le hp); rfl)
    | (extract_lets +onlyGivenNames yk; refine (kept_some (P := P) (s0 := s0) yk ?_).elim (fun _ hyk => ?_); subst yk; rotate_left; rw [hyk.2]; have _ := hyk.1; clear hyk; clear yk; rotate_left)
    | (extract_lets +onlyGivenNames yk; clear_value yk; revert yk; intro _)
    | (with_reducible refine kept_forEach _ _ _ (fun _ _ _ => ?_) ?_)
    | (with_reducible refine kept_ite ?_ ?_)
    | (with_reducible apply kept_bakeSector)
    | (with_reducible apply kept_decodeRow)

theorem kept_rewriteRows {P : Parts} {s0 : State} (s : State) (st : Nat) (hk : Kept P s0 s) (hp : Sub 0x4800003f09 P) : Kept P s0 (rewriteRows s st) := by
  unfold rewriteRows
  repeat' first
    | (with_reducible assumption)
    | ((with_reducible apply Sub.le hp); rfl)
    | (extract_lets +onlyGivenNames yk; refine (kept_some (P := P) (s0 := s0) yk ?_).elim (fun _ hyk => ?_); subst yk; rotate_left; rw [hyk.2]; have _ := hyk.1; clear hyk; clear yk; rotate_left)
    | (extract_lets +onlyGivenNames yk; clear_value yk; revert yk; intro _)
    | (with_reducible refine kept_ite ?_ ?_)
    | (with_reducible apply kept_charge)
    | (with_reducible apply kept_clrMem)
    | (with_reducible apply kept_decodeKept)
    | (with_reducible apply kept_updStack)
    | ((with_reducible refine kept_mk 0xe00 ?_ ?_ ?_ ?_); rotate_left; rfl; (constructor <;> first | exact fun _ => rfl | exact fun h => absurd h (by decide)); apply Sub.le hp; rfl)

theorem kept_reencode {P : Parts} {s0 : State} (s : State) (st : Nat) (hk : Kept P s0 s) (hp : Sub 0x4800003f09 P) : Kept P s0 (reencode s st) := by
  unfold reencode
  repeat' first
    | (with_reducible assumption)
    | (with_reducible refine kept_ite ?_ ?_)
    | (with_reducible apply kept_rewriteRows)

theorem kept_startReformat {P : Parts} {s0 : State} (s : State) (st : Nat) (old : Nat) (hk : Kept P s0 s) (hp : Sub 0x4800003f09 P) : Kept P s0 (startReformat s st old) := by
  unfold startReformat
  repeat' first
    | (with_reducible assumption)
    | ((with_reducible apply Sub.le hp); rfl)
    | (extract_lets +onlyGivenNames yk; refine (kept_some (P := P) (s0 := s0) yk ?_).elim (fun _ hyk => ?_); subst yk; rotate_left; rw [hyk.2]; have _ := hyk.1; clear hyk; clear yk; rotate_left)
    | (with_reducible refine kept_ite ?_ ?_)
    | (with_reducible apply kept_reencode)
    | (with_reducible apply kept_setF)
    | (with_reducible apply kept_startFlush)
    | (with_reducible apply kept_updStack)

theorem kept_startCopy {P : Parts} {s0 : State} (s : State) (st : Nat) (hk : Kept P s0 s) (hp : Sub 0x2001 P) : Kept P s0 (startCopy s st) := by
  unfold startCopy
  repeat' first
    | (with_reducible assumption)
    | ((with_reducible apply Sub.le hp); rfl)
    | (extract_lets +onlyGivenNames yk; refine (kept_some (P := P) (s0 := s0) yk ?_).elim (fun _ hyk => ?_); subst yk; rotate_left; rw [hyk.2]; have _ := hyk.1; clear hyk; clear yk; rotate_left)
    | (extract_lets +onlyGivenNames yk; clear_value yk; revert yk; intro _)
    | (with_reducible apply kept_setF)
    | (with_reducible apply kept_updStack)
    | split

theorem kept_fallowCommitted {P : Parts} {s0 : State} (s : State) (st : Nat) (n : Nat) (hk : Kept P s0 s) (hp : Sub 0x2001 P) : Kept P s0 (fallowCommitted s st n) := by
  unfold fallowCommitted
  repeat' first
    | (with_reducible assumption)
    | ((with_reducible apply Sub.le hp); rfl)
    | (extract_lets +onlyGivenNames yk; refine (kept_some (P := P) (s0 := s0) yk ?_).elim (fun _ hyk => ?_); subst yk; rotate_left; rw [hyk.2]; have _ := hyk.1; clear hyk; clear yk; rotate_left)
    | (extract_lets +onlyGivenNames yk; clear_value yk; revert yk; intro _)
    | (with_reducible refine kept_ite ?_ ?_)
    | (with_reducible apply kept_startCopy)
    | (with_reducible apply kept_updStack)

end Sys2Proof.Machine
end

