-- ==== Sys2Proof/Laws/KeptTraining.lean ====
section
/-! SUPPORT. `Kept` for the operations of Machine/Training.lean: one lemma per function that changes the state. -/
namespace Sys2Proof.Machine

theorem kept_tsvTraining {P : Parts} {s0 : State} (s : State) (st : Nat) (dies : List Nat) (found : List (Nat × Option (Nat × Nat))) (hk : Kept P s0 s) (hp : Sub 0x2000 P) : Kept P s0 (tsvTraining s st dies found).2 := by
  unfold tsvTraining
  repeat' first
    | (with_reducible assumption)
    | (extract_lets +onlyGivenNames yk; clear_value yk; revert yk; intro _)
    | (with_reducible apply kept_updStack)

theorem kept_tsvTraining_eq {P : Parts} {s0 : State} {x0} {tt} (s : State) (st : Nat) (dies : List Nat) (found : List (Nat × Option (Nat × Nat))) (hk : Kept P s0 s) (hp : Sub 0x2000 P) (he : tsvTraining s st dies found = (x0, tt)) : Kept P s0 tt := by
  have g := kept_tsvTraining s st dies found hk hp
  rw [he] at g; exact g

theorem kept_wireTraining {P : Parts} {s0 : State} (s : State) (st : Nat) (r : TrainOut) (hk : Kept P s0 s) (hp : Sub 0x2000 P) : Kept P s0 (wireTraining s st r).2 := by
  unfold wireTraining
  repeat' first
    | (with_reducible assumption)
    | (extract_lets +onlyGivenNames yk; clear_value yk; revert yk; intro _)
    | (with_reducible apply kept_updStack)

theorem kept_wireTraining_eq {P : Parts} {s0 : State} {x0} {tt} (s : State) (st : Nat) (r : TrainOut) (hk : Kept P s0 s) (hp : Sub 0x2000 P) (he : wireTraining s st r = (x0, tt)) : Kept P s0 tt := by
  have g := kept_wireTraining s st r hk hp
  rw [he] at g; exact g

theorem kept_trainingFailed {P : Parts} {s0 : State} (s : State) (st : Nat) (ch : Nat) (w : Nat) (hk : Kept P s0 s) (hp : Sub 0x2001 P) : Kept P s0 (trainingFailed s st ch w) := by
  unfold trainingFailed
  repeat' first
    | (with_reducible assumption)
    | ((with_reducible apply Sub.le hp); rfl)
    | (extract_lets +onlyGivenNames yk; refine (kept_some (P := P) (s0 := s0) yk ?_).elim (fun _ hyk => ?_); subst yk; rotate_left; rw [hyk.2]; have _ := hyk.1; clear hyk; clear yk; rotate_left)
    | (extract_lets +onlyGivenNames yk; clear_value yk; revert yk; intro _)
    | (with_reducible apply kept_recordErr)
    | (with_reducible apply kept_setF)
    | (with_reducible apply kept_updStack)

end Sys2Proof.Machine
end

