-- ==== Sys2Proof/Laws/KeptDramCmds.lean ====
section
/-! SUPPORT. `Kept` for the operations of Machine/DramCmds.lean: one lemma per function that changes the state. -/
namespace Sys2Proof.Machine

theorem kept_oweRefresh {P : Parts} {s0 : State} (s : State) (st : Nat) (ch : Nat) (hk : Kept P s0 s) (hp : Sub 0x1 P) : Kept P s0 (oweRefresh s st ch) := by
  unfold oweRefresh
  repeat' first
    | (with_reducible assumption)
    | (extract_lets +onlyGivenNames yk; refine (kept_some (P := P) (s0 := s0) yk ?_).elim (fun _ hyk => ?_); subst yk; rotate_left; rw [hyk.2]; have _ := hyk.1; clear hyk; clear yk; rotate_left)
    | (extract_lets +onlyGivenNames yk; clear_value yk; revert yk; intro _)
    | (with_reducible refine kept_ite ?_ ?_)
    | (with_reducible apply kept_event)
    | (with_reducible apply kept_setF)

theorem kept_refreshFallsDue {P : Parts} {s0 : State} (s : State) (st : Nat) (ch : Nat) (hk : Kept P s0 s) (hp : Sub 0x5001 P) : Kept P s0 (refreshFallsDue s st ch) := by
  unfold refreshFallsDue
  repeat' first
    | (with_reducible assumption)
    | ((with_reducible apply Sub.le hp); rfl)
    | (extract_lets +onlyGivenNames yk; refine (kept_some (P := P) (s0 := s0) yk ?_).elim (fun _ hyk => ?_); subst yk; rotate_left; rw [hyk.2]; have _ := hyk.1; clear hyk; clear yk; rotate_left)
    | (extract_lets +onlyGivenNames yk; clear_value yk; revert yk; intro _)
    | (with_reducible refine kept_forEach _ _ _ (fun _ _ _ => ?_) ?_)
    | (with_reducible refine kept_ite ?_ ?_)
    | (with_reducible apply kept_burstRules)
    | (with_reducible apply kept_event)
    | (with_reducible apply kept_oweRefresh)
    | (with_reducible apply kept_signalCause)
    | (with_reducible apply kept_startBurst)
    | (with_reducible apply kept_updChan)

theorem kept_setRate {P : Parts} {s0 : State} (s : State) (st : Nat) (hot : Bool) (hk : Kept P s0 s) (hp : Sub 0x1 P) : Kept P s0 (setRate s st hot) := by
  unfold setRate
  repeat' first
    | (with_reducible assumption)
    | (extract_lets +onlyGivenNames yk; refine (kept_some (P := P) (s0 := s0) yk ?_).elim (fun _ hyk => ?_); subst yk; rotate_left; rw [hyk.2]; have _ := hyk.1; clear hyk; clear yk; rotate_left)
    | (extract_lets +onlyGivenNames yk; clear_value yk; revert yk; intro _)
    | (with_reducible refine kept_forEach _ _ _ (fun _ _ _ => ?_) ?_)
    | (with_reducible apply kept_event)
    | (with_reducible apply kept_setB)

theorem kept_srctlWrite {P : Parts} {s0 : State} (s : State) (st : Nat) (v : W64) (hk : Kept P s0 s) (hp : Sub 0x2001 P) : Kept P s0 (srctlWrite s st v) := by
  unfold srctlWrite
  repeat' first
    | (with_reducible assumption)
    | ((with_reducible apply Sub.le hp); rfl)
    | (extract_lets +onlyGivenNames yk; refine (kept_some (P := P) (s0 := s0) yk ?_).elim (fun _ hyk => ?_); subst yk; rotate_left; rw [hyk.2]; have _ := hyk.1; clear hyk; clear yk; rotate_left)
    | (extract_lets +onlyGivenNames yk; clear_value yk; revert yk; intro _)
    | (with_reducible refine kept_ite ?_ ?_)
    | (with_reducible apply kept_recordErr)
    | (with_reducible apply kept_setF)
    | (with_reducible apply kept_srFlush)
    | (with_reducible apply kept_updStack)

theorem kept_reachHeld {P : Parts} {s0 : State} (s : State) (st : Nat) (hk : Kept P s0 s) (hp : Sub 0x4000003001 P) : Kept P s0 (reachHeld s st) := by
  unfold reachHeld
  repeat' first
    | (with_reducible assumption)
    | ((with_reducible apply Sub.le hp); rfl)
    | (extract_lets +onlyGivenNames yk; refine (kept_some (P := P) (s0 := s0) yk ?_).elim (fun _ hyk => ?_); subst yk; rotate_left; rw [hyk.2]; have _ := hyk.1; clear hyk; clear yk; rotate_left)
    | (extract_lets +onlyGivenNames yk; clear_value yk; revert yk; intro _)
    | (with_reducible refine kept_forEach _ _ _ (fun _ _ _ => ?_) ?_)
    | (with_reducible refine kept_ite ?_ ?_)
    | (with_reducible apply kept_bumpF)
    | (with_reducible apply kept_event)
    | (with_reducible apply kept_prechargeAll)
    | (with_reducible apply kept_refreshAll)
    | (with_reducible apply kept_setB)
    | (with_reducible apply kept_setF)
    | (with_reducible apply kept_srFlush)
    | (with_reducible apply kept_updStack)

theorem kept_clearDies {P : Parts} {s0 : State} (s : State) (st : Nat) (mask : Nat) (hk : Kept P s0 s) (hp : Sub 0x4000002f00 P) : Kept P s0 (clearDies s st mask) := by
  unfold clearDies
  repeat' first
    | (with_reducible assumption)
    | ((with_reducible apply Sub.le hp); rfl)
    | (extract_lets +onlyGivenNames yk; refine (kept_some (P := P) (s0 := s0) yk ?_).elim (fun _ hyk => ?_); subst yk; rotate_left; rw [hyk.2]; have _ := hyk.1; clear hyk; clear yk; rotate_left)
    | (extract_lets +onlyGivenNames yk; clear_value yk; revert yk; intro _)
    | (with_reducible apply kept_charge)
    | (with_reducible apply kept_dropMem)
    | (with_reducible apply kept_updStack)
    | ((with_reducible refine kept_mk 0xe00 ?_ ?_ ?_ ?_); rotate_left; rfl; (constructor <;> first | exact fun _ => rfl | exact fun h => absurd h (by decide)); apply Sub.le hp; rfl)

theorem kept_trainGated {P : Parts} {s0 : State} (s : State) (st : Nat) (found : List (Nat × Option (Nat × Nat))) (hk : Kept P s0 s) (hp : Sub 0x2001 P) : Kept P s0 (trainGated s st found) := by
  unfold trainGated
  repeat' first
    | (with_reducible assumption)
    | ((with_reducible apply Sub.le hp); rfl)
    | (extract_lets +onlyGivenNames yk; clear_value yk; revert yk; intro _)
    | (with_reducible apply kept_trainingFailed)
    | (with_reducible refine kept_tsvTraining_eq _ _ _ _ ?_ ?_ (by assumption))
    | split

theorem kept_reachActive {P : Parts} {s0 : State} (s : State) (st : Nat) (found : List (Nat × Option (Nat × Nat))) (hk : Kept P s0 s) (hp : Sub 0x4000003f01 P) : Kept P s0 (reachActive s st found) := by
  unfold reachActive
  repeat' first
    | (with_reducible assumption)
    | ((with_reducible apply Sub.le hp); rfl)
    | (extract_lets +onlyGivenNames yk; refine (kept_some (P := P) (s0 := s0) yk ?_).elim (fun _ hyk => ?_); subst yk; rotate_left; rw [hyk.2]; have _ := hyk.1; clear hyk; clear yk; rotate_left)
    | (extract_lets +onlyGivenNames yk; clear_value yk; revert yk; intro _)
    | (with_reducible refine kept_ite ?_ ?_)
    | (with_reducible apply kept_admitStack)
    | (with_reducible apply kept_clearDies)
    | (with_reducible apply kept_event)
    | (with_reducible apply kept_firstActive)
    | (with_reducible apply kept_setF)
    | (with_reducible apply kept_trainGated)

theorem kept_execDramRequest {P : Parts} {s0 : State} (r : Req) (s : State) (hk : Kept P s0 s) (hp : Sub 0x3000ca0001d001 P) : KeptR P s0 (execDramRequest r s) := by
  unfold execDramRequest
  repeat' first
    | (with_reducible refine keptR_onObj (by assumption) ?_)
    | (with_reducible assumption)
    | (with_reducible apply kept_arrive)

theorem kept_execDramCommandIssue {P : Parts} {s0 : State} (stack : Nat) (ch : Nat) (ready : List (Nat × Nat)) (media : List Flip) (s : State) (hk : Kept P s0 s) (hp : Sub 0x2000cd0200bf09 P) : KeptR P s0 (execDramCommandIssue stack ch ready media s) := by
  unfold execDramCommandIssue
  repeat' first
    | (with_reducible refine keptR_onObj (by assumption) ?_)
    | (with_reducible assumption)
    | ((with_reducible apply Sub.le hp); rfl)
    | (with_reducible refine kept_ite ?_ ?_)
    | (with_reducible apply kept_addFlips)
    | (with_reducible apply kept_issueCommand)

theorem kept_execRowIdleClose {P : Parts} {s0 : State} (stack : Nat) (ch : Nat) (bank : Nat) (s : State) (hk : Kept P s0 s) (hp : Sub 0x1000 P) : KeptR P s0 (execRowIdleClose stack ch bank s) := by
  unfold execRowIdleClose
  repeat' first
    | (with_reducible refine keptR_onObj (by assumption) ?_)
    | (with_reducible assumption)
    | (with_reducible refine kept_ite ?_ ?_)
    | (with_reducible apply kept_updBank)

theorem kept_execRowDecodeDone {P : Parts} {s0 : State} (stack : Nat) (ch : Nat) (bank : Nat) (s : State) (hk : Kept P s0 s) (hp : Sub 0x2000cd0200bf09 P) : KeptR P s0 (execRowDecodeDone stack ch bank s) := by
  unfold execRowDecodeDone
  repeat' first
    | (with_reducible refine keptR_onObj (by assumption) ?_)
    | (with_reducible assumption)
    | (with_reducible apply kept_decodeDone)

theorem kept_execRefreshDue {P : Parts} {s0 : State} (stack : Nat) (ch : Nat) (s : State) (hk : Kept P s0 s) (hp : Sub 0x5001 P) : KeptR P s0 (execRefreshDue stack ch s) := by
  unfold execRefreshDue
  repeat' first
    | (with_reducible refine keptR_onObj (by assumption) ?_)
    | (with_reducible assumption)
    | (with_reducible apply kept_refreshFallsDue)

theorem kept_execRefreshBurst {P : Parts} {s0 : State} (stack : Nat) (ch : Nat) (s : State) (hk : Kept P s0 s) (hp : Sub 0x4000003001 P) : KeptR P s0 (execRefreshBurst stack ch s) := by
  unfold execRefreshBurst
  repeat' first
    | (with_reducible refine keptR_onObj (by assumption) ?_)
    | (with_reducible assumption)
    | (with_reducible refine kept_ite ?_ ?_)
    | (with_reducible apply kept_refreshAll)

theorem kept_execBurstDone {P : Parts} {s0 : State} (stack : Nat) (ch : Nat) (s : State) (hk : Kept P s0 s) (hp : Sub 0x3001 P) : KeptR P s0 (execBurstDone stack ch s) := by
  unfold execBurstDone
  repeat' first
    | (with_reducible refine keptR_onObj (by assumption) ?_)
    | (with_reducible assumption)
    | (with_reducible apply kept_endBurst)

theorem kept_execRateCool {P : Parts} {s0 : State} (stack : Nat) (s : State) (hk : Kept P s0 s) (hp : Sub 0x1 P) : KeptR P s0 (execRateCool stack s) := by
  unfold execRateCool
  repeat' first
    | (with_reducible refine keptR_onObj (by assumption) ?_)
    | (with_reducible assumption)
    | (with_reducible refine kept_ite ?_ ?_)
    | (with_reducible apply kept_setRate)

theorem kept_execSrEnter {P : Parts} {s0 : State} (_w : Writer) (stack : Nat) (v : W64) (s : State) (hk : Kept P s0 s) (hp : Sub 0x2001 P) : KeptR P s0 (execSrEnter _w stack v s) := by
  unfold execSrEnter
  repeat' first
    | (with_reducible refine keptR_onPage (by assumption) ?_ ?_)
    | (with_reducible assumption)
    | ((with_reducible apply Sub.le hp); rfl)
    | (with_reducible apply kept_srctlWrite)

theorem kept_execSrHeld {P : Parts} {s0 : State} (stack : Nat) (s : State) (hk : Kept P s0 s) (hp : Sub 0x4000003001 P) : KeptR P s0 (execSrHeld stack s) := by
  unfold execSrHeld
  repeat' first
    | (with_reducible refine keptR_onObj (by assumption) ?_)
    | (with_reducible assumption)
    | (with_reducible apply kept_reachHeld)

theorem kept_execSrExit {P : Parts} {s0 : State} (_w : Writer) (stack : Nat) (v : W64) (s : State) (hk : Kept P s0 s) (hp : Sub 0x2001 P) : KeptR P s0 (execSrExit _w stack v s) := by
  unfold execSrExit
  repeat' first
    | (with_reducible refine keptR_onPage (by assumption) ?_ ?_)
    | (with_reducible assumption)
    | ((with_reducible apply Sub.le hp); rfl)
    | (with_reducible apply kept_srctlWrite)

theorem kept_execSrReady {P : Parts} {s0 : State} (x : SrExit) (s : State) (hk : Kept P s0 s) (hp : Sub 0x4000003f01 P) : KeptR P s0 (execSrReady x s) := by
  unfold execSrReady
  repeat' first
    | (with_reducible refine keptR_onObj (by assumption) ?_)
    | (with_reducible assumption)
    | (with_reducible apply kept_reachActive)

end Sys2Proof.Machine
end

