-- ==== Sys2Proof/Laws/KeptCalCmds.lean ====
section
/-! SUPPORT. `Kept` for the operations of Machine/CalCmds.lean: one lemma per function that changes the state. -/
namespace Sys2Proof.Machine

theorem kept_startHelper {P : Parts} {s0 : State} (s : State) (st : Nat) (hk : Kept P s0 s) (hp : Sub 0x20000000002001 P) : Kept P s0 (startHelper s st) := by
  unfold startHelper
  repeat' first
    | (with_reducible assumption)
    | ((with_reducible apply Sub.le hp); rfl)
    | (extract_lets +onlyGivenNames yk; refine (kept_some (P := P) (s0 := s0) yk ?_).elim (fun _ hyk => ?_); subst yk; rotate_left; rw [hyk.2]; have _ := hyk.1; clear hyk; clear yk; rotate_left)
    | (extract_lets +onlyGivenNames yk; clear_value yk; revert yk; intro _)
    | (extract_lets +onlyGivenNames yk; revert yk; intro _)
    | (with_reducible apply kept_emit)
    | (with_reducible apply kept_setB)
    | (with_reducible apply kept_setF)
    | (with_reducible apply kept_updStack)

theorem kept_trctlWrite {P : Parts} {s0 : State} (s : State) (st : Nat) (v : W64) (hk : Kept P s0 s) (hp : Sub 0x20000000003001 P) : Kept P s0 (trctlWrite s st v) := by
  unfold trctlWrite
  repeat' first
    | (with_reducible assumption)
    | ((with_reducible apply Sub.le hp); rfl)
    | (extract_lets +onlyGivenNames yk; refine (kept_some (P := P) (s0 := s0) yk ?_).elim (fun _ hyk => ?_); subst yk; rotate_left; rw [hyk.2]; have _ := hyk.1; clear hyk; clear yk; rotate_left)
    | (extract_lets +onlyGivenNames yk; clear_value yk; revert yk; intro _)
    | (extract_lets +onlyGivenNames yk; revert yk; intro _)
    | (with_reducible refine kept_ite ?_ ?_)
    | (with_reducible apply kept_admitStack)
    | (with_reducible apply kept_recordErr)
    | (with_reducible apply kept_startHelper)
    | (with_reducible apply kept_storeRW)
    | (with_reducible apply kept_updStack)

theorem kept_endHelper {P : Parts} {s0 : State} (s : State) (st : Nat) (done : Nat) (runs : List WireRun) (hk : Kept P s0 s) (hp : Sub 0x2001 P) : Kept P s0 (endHelper s st done runs) := by
  unfold endHelper
  repeat' first
    | (with_reducible assumption)
    | ((with_reducible apply Sub.le hp); rfl)
    | (extract_lets +onlyGivenNames yk; refine (kept_some (P := P) (s0 := s0) yk ?_).elim (fun _ hyk => ?_); subst yk; rotate_left; rw [hyk.2]; have _ := hyk.1; clear hyk; clear yk; rotate_left)
    | (extract_lets +onlyGivenNames yk; clear_value yk; revert yk; intro _)
    | (extract_lets +onlyGivenNames yk; revert yk; intro _)
    | (with_reducible refine kept_ite ?_ ?_)
    | (with_reducible apply kept_event)
    | (with_reducible apply kept_setB)
    | (with_reducible apply kept_setF)
    | (with_reducible apply kept_updStack)
    | split

theorem kept_skyCount {P : Parts} {s0 : State} (s : State) (st : Nat) (ch : Nat) (w : Nat) (wr : Bool) (below : List Nat) (above : List Nat) (hk : Kept P s0 s) (hp : Sub 0x2000 P) : Kept P s0 (skyCount s st ch w wr below above) := by
  unfold skyCount
  repeat' first
    | (with_reducible assumption)
    | (extract_lets +onlyGivenNames yk; clear_value yk; revert yk; intro _)
    | (with_reducible apply kept_updWire)

theorem kept_skyCompare {P : Parts} {s0 : State} (s : State) (st : Nat) (ch : Nat) (w : Nat) (wr : Bool) (hk : Kept P s0 s) (hp : Sub 0x2001 P) : Kept P s0 (skyCompare s st ch w wr) := by
  unfold skyCompare
  repeat' first
    | (with_reducible assumption)
    | ((with_reducible apply Sub.le hp); rfl)
    | (extract_lets +onlyGivenNames yk; refine (kept_some (P := P) (s0 := s0) yk ?_).elim (fun _ hyk => ?_); subst yk; rotate_left; rw [hyk.2]; have _ := hyk.1; clear hyk; clear yk; rotate_left)
    | (extract_lets +onlyGivenNames yk; clear_value yk; revert yk; intro _)
    | (with_reducible refine kept_ite ?_ ?_)
    | (with_reducible apply kept_bumpF)
    | (with_reducible apply kept_updWire)

theorem kept_skyStep {P : Parts} {s0 : State} (s : State) (st : Nat) (ch : Nat) (w : Nat) (wr : Bool) (below : List Nat) (above : List Nat) (hk : Kept P s0 s) (hp : Sub 0x2001 P) : Kept P s0 (skyStep s st ch w wr below above) := by
  unfold skyStep
  repeat' first
    | (with_reducible assumption)
    | ((with_reducible apply Sub.le hp); rfl)
    | (with_reducible refine kept_ite ?_ ?_)
    | (with_reducible apply kept_skyCompare)
    | (with_reducible apply kept_skyCount)

theorem kept_measure {P : Parts} {s0 : State} (s : State) (st : Nat) (ch : Nat) (w : Nat) (below : Nat) (above : Nat) (hk : Kept P s0 s) (hp : Sub 0x2001 P) : Kept P s0 (measure s st ch w below above) := by
  unfold measure
  repeat' first
    | (with_reducible assumption)
    | ((with_reducible apply Sub.le hp); rfl)
    | (extract_lets +onlyGivenNames yk; refine (kept_some (P := P) (s0 := s0) yk ?_).elim (fun _ hyk => ?_); subst yk; rotate_left; rw [hyk.2]; have _ := hyk.1; clear hyk; clear yk; rotate_left)
    | (extract_lets +onlyGivenNames yk; clear_value yk; revert yk; intro _)
    | (with_reducible refine kept_ite ?_ ?_)
    | (with_reducible apply kept_event)
    | (with_reducible apply kept_requestWindow)
    | (with_reducible apply kept_setF)
    | (with_reducible apply kept_updWire)
    | split

theorem kept_endWindow {P : Parts} {s0 : State} (s : State) (st : Nat) (ch : Nat) (found : List WireWin) (hk : Kept P s0 s) (hp : Sub 0x8000002001 P) : Kept P s0 (endWindow s st ch found) := by
  unfold endWindow
  repeat' first
    | (with_reducible assumption)
    | ((with_reducible apply Sub.le hp); rfl)
    | (extract_lets +onlyGivenNames yk; refine (kept_some (P := P) (s0 := s0) yk ?_).elim (fun _ hyk => ?_); subst yk; rotate_left; rw [hyk.2]; have _ := hyk.1; clear hyk; clear yk; rotate_left)
    | (extract_lets +onlyGivenNames yk; clear_value yk; revert yk; intro _)
    | (with_reducible refine kept_forEach _ _ _ (fun _ _ _ => ?_) ?_)
    | (with_reducible refine kept_ite ?_ ?_)
    | (with_reducible apply kept_event)
    | (with_reducible apply kept_fwAssert)
    | (with_reducible apply kept_recordErr)
    | (with_reducible apply kept_setB)
    | (with_reducible apply kept_updWire)
    | split

theorem kept_execCalTest {P : Parts} {s0 : State} (_w : Writer) (stack : Nat) (v : W64) (s : State) (hk : Kept P s0 s) (hp : Sub 0x20000000003001 P) : KeptR P s0 (execCalTest _w stack v s) := by
  unfold execCalTest
  repeat' first
    | (with_reducible refine keptR_onPage (by assumption) ?_ ?_)
    | (with_reducible assumption)
    | ((with_reducible apply Sub.le hp); rfl)
    | (with_reducible apply kept_trctlWrite)

theorem kept_execCalStart {P : Parts} {s0 : State} (_w : Writer) (stack : Nat) (v : W64) (s : State) (hk : Kept P s0 s) (hp : Sub 0x20000000003001 P) : KeptR P s0 (execCalStart _w stack v s) := by
  unfold execCalStart
  repeat' first
    | (with_reducible refine keptR_onPage (by assumption) ?_ ?_)
    | (with_reducible assumption)
    | ((with_reducible apply Sub.le hp); rfl)
    | (with_reducible apply kept_trctlWrite)

theorem kept_execCalAbort {P : Parts} {s0 : State} (_w : Writer) (stack : Nat) (v : W64) (s : State) (hk : Kept P s0 s) (hp : Sub 0x20000000003001 P) : KeptR P s0 (execCalAbort _w stack v s) := by
  unfold execCalAbort
  repeat' first
    | (with_reducible refine keptR_onPage (by assumption) ?_ ?_)
    | (with_reducible assumption)
    | ((with_reducible apply Sub.le hp); rfl)
    | (with_reducible apply kept_trctlWrite)

theorem kept_execTrainDone {P : Parts} {s0 : State} (stack : Nat) (run : HelperRun) (s : State) (hk : Kept P s0 s) (hp : Sub 0x2001 P) : KeptR P s0 (execTrainDone stack run s) := by
  unfold execTrainDone
  repeat' first
    | (with_reducible refine keptR_onObj (by assumption) ?_)
    | (with_reducible assumption)
    | (with_reducible apply kept_endHelper)

theorem kept_execSkylarkStep {P : Parts} {s0 : State} (stack : Nat) (ch : Nat) (wire : Nat) (wr : Bool) (below : List Nat) (above : List Nat) (s : State) (hk : Kept P s0 s) (hp : Sub 0x2001 P) : KeptR P s0 (execSkylarkStep stack ch wire wr below above s) := by
  unfold execSkylarkStep
  repeat' first
    | (with_reducible refine keptR_onObj (by assumption) ?_)
    | (with_reducible assumption)
    | (with_reducible apply kept_skyStep)

theorem kept_execMarginMeasure {P : Parts} {s0 : State} (stack : Nat) (ch : Nat) (wire : Nat) (reach : ShadowReach) (s : State) (hk : Kept P s0 s) (hp : Sub 0x2001 P) : KeptR P s0 (execMarginMeasure stack ch wire reach s) := by
  unfold execMarginMeasure
  repeat' first
    | (with_reducible refine keptR_onObj (by assumption) ?_)
    | (with_reducible assumption)
    | (with_reducible apply kept_measure)

theorem kept_execLaneCeClear {P : Parts} {s0 : State} (stack : Nat) (s : State) (hk : Kept P s0 s) (hp : Sub 0x2001 P) : KeptR P s0 (execLaneCeClear stack s) := by
  unfold execLaneCeClear
  repeat' first
    | (with_reducible refine keptR_onObj (by assumption) ?_)
    | (with_reducible assumption)
    | ((with_reducible apply Sub.le hp); rfl)
    | (with_reducible apply kept_updStack)

theorem kept_execWindowWaitExpiry {P : Parts} {s0 : State} (stack : Nat) (ch : Nat) (s : State) (hk : Kept P s0 s) (hp : Sub 0x1001 P) : KeptR P s0 (execWindowWaitExpiry stack ch s) := by
  unfold execWindowWaitExpiry
  repeat' first
    | (with_reducible refine keptR_onObj (by assumption) ?_)
    | (with_reducible assumption)
    | (with_reducible refine kept_ite ?_ ?_)
    | (with_reducible apply kept_startBurst)

theorem kept_execWindowDone {P : Parts} {s0 : State} (stack : Nat) (ch : Nat) (found : List WireWin) (s : State) (hk : Kept P s0 s) (hp : Sub 0x8000002001 P) : KeptR P s0 (execWindowDone stack ch found s) := by
  unfold execWindowDone
  repeat' first
    | (with_reducible refine keptR_onObj (by assumption) ?_)
    | (with_reducible assumption)
    | (with_reducible apply kept_endWindow)

theorem kept_execWindowPeriodElapsed {P : Parts} {s0 : State} (stack : Nat) (ch : Nat) (s : State) (hk : Kept P s0 s) (hp : Sub 0x1001 P) : KeptR P s0 (execWindowPeriodElapsed stack ch s) := by
  unfold execWindowPeriodElapsed
  repeat' first
    | (with_reducible refine keptR_onObj (by assumption) ?_)
    | (with_reducible assumption)
    | ((with_reducible apply Sub.le hp); rfl)
    | (with_reducible apply kept_burstRules)
    | (with_reducible apply kept_updChan)

end Sys2Proof.Machine
end

