-- ==== Sys2Proof/Laws/KeptEccCmds.lean ====
section
/-! SUPPORT. `Kept` for the operations of Machine/EccCmds.lean: one lemma per function that changes the state. -/
namespace Sys2Proof.Machine

theorem kept_idleWriteback {P : Parts} {s0 : State} (s : State) (st : Nat) (ch : Nat) (hk : Kept P s0 s) (hp : Sub 0x4800003c09 P) : Kept P s0 (idleWriteback s st ch) := by
  unfold idleWriteback
  repeat' first
    | (with_reducible assumption)
    | (with_reducible refine kept_forEach _ _ _ (fun _ _ _ => ?_) ?_)
    | (with_reducible refine kept_ite ?_ ?_)
    | (with_reducible apply kept_writeback)

theorem kept_endFlush {P : Parts} {s0 : State} (s : State) (st : Nat) (hk : Kept P s0 s) (hp : Sub 0x4800003f09 P) : Kept P s0 (endFlush s st) := by
  unfold endFlush
  repeat' first
    | (with_reducible assumption)
    | ((with_reducible apply Sub.le hp); rfl)
    | (extract_lets +onlyGivenNames yk; clear_value yk; revert yk; intro _)
    | (with_reducible refine kept_ite ?_ ?_)
    | (with_reducible apply kept_flushStack)
    | (with_reducible apply kept_reencode)
    | (with_reducible apply kept_setB)

theorem kept_rebuildOne {P : Parts} {s0 : State} (s : State) (st : Nat) (hk : Kept P s0 s) (hp : Sub 0x4800003f09 P) : Kept P s0 (rebuildOne s st) := by
  unfold rebuildOne
  repeat' first
    | (with_reducible assumption)
    | ((with_reducible apply Sub.le hp); rfl)
    | (extract_lets +onlyGivenNames yk; refine (kept_some (P := P) (s0 := s0) yk ?_).elim (fun _ hyk => ?_); subst yk; rotate_left; rw [hyk.2]; have _ := hyk.1; clear hyk; clear yk; rotate_left)
    | (extract_lets +onlyGivenNames yk; clear_value yk; revert yk; intro _)
    | (with_reducible refine kept_forEach _ _ _ (fun _ _ _ => ?_) ?_)
    | (with_reducible refine kept_ite ?_ ?_)
    | (with_reducible apply kept_bakeSector)
    | (with_reducible apply kept_bumpF)
    | (with_reducible apply kept_charge)
    | (with_reducible apply kept_event)
    | (with_reducible apply kept_logUe)
    | (with_reducible apply kept_updChan)
    | (with_reducible apply kept_updStack)
    | split
    | ((with_reducible refine kept_mk 0xc00 ?_ ?_ ?_ ?_); rotate_left; rfl; (constructor <;> first | exact fun _ => rfl | exact fun h => absurd h (by decide)); apply Sub.le hp; rfl)

theorem kept_endReformat {P : Parts} {s0 : State} (s : State) (st : Nat) (hk : Kept P s0 s) (hp : Sub 0x1001 P) : Kept P s0 (endReformat s st) := by
  unfold endReformat
  repeat' first
    | (with_reducible assumption)
    | ((with_reducible apply Sub.le hp); rfl)
    | (extract_lets +onlyGivenNames yk; clear_value yk; revert yk; intro _)
    | (with_reducible refine kept_ite ?_ ?_)
    | (with_reducible apply kept_admitStack)
    | (with_reducible apply kept_event)
    | (with_reducible apply kept_setF)

theorem kept_chargeRows {P : Parts} {s0 : State} (s : State) (st : Nat) (ch : Nat) (n : Nat) (hk : Kept P s0 s) (hp : Sub 0x4000000000 P) : Kept P s0 (chargeRows s st ch n) := by
  unfold chargeRows
  repeat' first
    | (with_reducible assumption)
    | (with_reducible apply kept_charge)

theorem kept_correctRow {P : Parts} {s0 : State} (s : State) (r : RowId) (kind : Nat) (hk : Kept P s0 s) (hp : Sub 0x4800003f09 P) : Kept P s0 (correctRow s r kind) := by
  unfold correctRow
  repeat' first
    | (with_reducible assumption)
    | ((with_reducible apply Sub.le hp); rfl)
    | (extract_lets +onlyGivenNames yk; clear_value yk; revert yk; intro _)
    | (with_reducible refine kept_ite ?_ ?_)
    | (with_reducible apply kept_decodeParity)
    | (with_reducible apply kept_decodeRow)
    | (with_reducible apply kept_queueRebuild)

theorem kept_visitRow {P : Parts} {s0 : State} (s : State) (r : RowId) (kind : Nat) (hk : Kept P s0 s) (hp : Sub 0x4800003f09 P) : Kept P s0 (visitRow s r kind) := by
  unfold visitRow
  repeat' first
    | (with_reducible assumption)
    | ((with_reducible apply Sub.le hp); rfl)
    | (extract_lets +onlyGivenNames yk; refine (kept_some (P := P) (s0 := s0) yk ?_).elim (fun _ hyk => ?_); subst yk; rotate_left; rw [hyk.2]; have _ := hyk.1; clear hyk; clear yk; rotate_left)
    | (with_reducible refine kept_ite ?_ ?_)
    | (with_reducible apply kept_chargeRows)
    | (with_reducible apply kept_correctRow)
    | (with_reducible apply kept_openParity)

theorem kept_copyOne {P : Parts} {s0 : State} (s : State) (st : Nat) (hk : Kept P s0 s) (hp : Sub 0x4800003f09 P) : Kept P s0 (copyOne s st) := by
  unfold copyOne
  repeat' first
    | (with_reducible assumption)
    | ((with_reducible apply Sub.le hp); rfl)
    | (extract_lets +onlyGivenNames yk; refine (kept_some (P := P) (s0 := s0) yk ?_).elim (fun _ hyk => ?_); subst yk; rotate_left; rw [hyk.2]; have _ := hyk.1; clear hyk; clear yk; rotate_left)
    | (extract_lets +onlyGivenNames yk; clear_value yk; revert yk; intro _)
    | (with_reducible refine kept_ite ?_ ?_)
    | (with_reducible apply kept_charge)
    | (with_reducible apply kept_chargeRows)
    | (with_reducible apply kept_setF)
    | (with_reducible apply kept_updStack)
    | (with_reducible apply kept_visitRow)
    | split

theorem kept_endCopy {P : Parts} {s0 : State} (s : State) (st : Nat) (hk : Kept P s0 s) (hp : Sub 0x2001 P) : Kept P s0 (endCopy s st) := by
  unfold endCopy
  repeat' first
    | (with_reducible assumption)
    | ((with_reducible apply Sub.le hp); rfl)
    | (extract_lets +onlyGivenNames yk; refine (kept_some (P := P) (s0 := s0) yk ?_).elim (fun _ hyk => ?_); subst yk; rotate_left; rw [hyk.2]; have _ := hyk.1; clear hyk; clear yk; rotate_left)
    | (extract_lets +onlyGivenNames yk; clear_value yk; revert yk; intro _)
    | (with_reducible refine kept_ite ?_ ?_)
    | (with_reducible apply kept_event)
    | (with_reducible apply kept_setF)
    | (with_reducible apply kept_startCopy)
    | (with_reducible apply kept_updStack)
    | split

theorem kept_passDone {P : Parts} {s0 : State} (s : State) (st : Nat) (hk : Kept P s0 s) (hp : Sub 0x1000c00000a001 P) : Kept P s0 (passDone s st) := by
  unfold passDone
  repeat' first
    | (with_reducible assumption)
    | ((with_reducible apply Sub.le hp); rfl)
    | (extract_lets +onlyGivenNames yk; refine (kept_some (P := P) (s0 := s0) yk ?_).elim (fun _ hyk => ?_); subst yk; rotate_left; rw [hyk.2]; have _ := hyk.1; clear hyk; clear yk; rotate_left)
    | (extract_lets +onlyGivenNames yk; clear_value yk; revert yk; intro _)
    | (with_reducible apply kept_bumpF)
    | (with_reducible apply kept_event)
    | (with_reducible apply kept_setF)
    | (with_reducible apply kept_updStack)

theorem kept_scrubWrite {P : Parts} {s0 : State} (s : State) (st : Nat) (v : W64) (hk : Kept P s0 s) (hp : Sub 0x2001 P) : Kept P s0 (scrubWrite s st v) := by
  unfold scrubWrite
  repeat' first
    | (with_reducible assumption)
    | ((with_reducible apply Sub.le hp); rfl)
    | (extract_lets +onlyGivenNames yk; refine (kept_some (P := P) (s0 := s0) yk ?_).elim (fun _ hyk => ?_); subst yk; rotate_left; rw [hyk.2]; have _ := hyk.1; clear hyk; clear yk; rotate_left)
    | (extract_lets +onlyGivenNames yk; clear_value yk; revert yk; intro _)
    | (with_reducible refine kept_ite ?_ ?_)
    | (with_reducible apply kept_storeRW)
    | (with_reducible apply kept_updStack)
    | (with_reducible apply kept_voidPlan)

theorem kept_tedder {P : Parts} {s0 : State} (s : State) (st : Nat) (hk : Kept P s0 s) (hp : Sub 0x1000c80000bf09 P) : Kept P s0 (tedder s st) := by
  unfold tedder; dsimp only
  repeat' first
    | (with_reducible assumption)
    | ((with_reducible apply Sub.le hp); rfl)
    | (with_reducible refine kept_ite ?_ ?_)
    | (with_reducible apply kept_passDone)
    | (with_reducible apply kept_setF)
    | (with_reducible apply kept_updStack)
    | (with_reducible apply kept_visitRow)
    | split

theorem kept_passLate {P : Parts} {s0 : State} (s : State) (st : Nat) (hk : Kept P s0 s) (hp : Sub 0x1 P) : Kept P s0 (passLate s st) := by
  unfold passLate
  repeat' first
    | (with_reducible assumption)
    | (extract_lets +onlyGivenNames yk; clear_value yk; revert yk; intro _)
    | (with_reducible refine kept_ite ?_ ?_)
    | (with_reducible apply kept_event)
    | (with_reducible apply kept_setF)

theorem kept_execParityRebuildDone {P : Parts} {s0 : State} (stack : Nat) (s : State) (hk : Kept P s0 s) (hp : Sub 0x4800003f09 P) : KeptR P s0 (execParityRebuildDone stack s) := by
  unfold execParityRebuildDone
  repeat' first
    | (with_reducible refine keptR_onObj (by assumption) ?_)
    | (with_reducible assumption)
    | (with_reducible apply kept_rebuildOne)

theorem kept_execParityWriteback {P : Parts} {s0 : State} (stack : Nat) (ch : Nat) (line : Nat) (s : State) (hk : Kept P s0 s) (hp : Sub 0x4800003c09 P) : KeptR P s0 (execParityWriteback stack ch line s) := by
  unfold execParityWriteback
  repeat' first
    | (with_reducible refine keptR_onObj (by assumption) ?_)
    | (with_reducible assumption)
    | (with_reducible refine kept_ite ?_ ?_)
    | (with_reducible apply kept_writeback)
    | split

theorem kept_execParityIdleTimeout {P : Parts} {s0 : State} (stack : Nat) (ch : Nat) (s : State) (hk : Kept P s0 s) (hp : Sub 0x4800003c09 P) : KeptR P s0 (execParityIdleTimeout stack ch s) := by
  unfold execParityIdleTimeout
  repeat' first
    | (with_reducible refine keptR_onObj (by assumption) ?_)
    | (with_reducible assumption)
    | (with_reducible apply kept_idleWriteback)

theorem kept_execPcflush {P : Parts} {s0 : State} (_w : Writer) (stack : Nat) (v : W64) (s : State) (hk : Kept P s0 s) (hp : Sub 0x1 P) : KeptR P s0 (execPcflush _w stack v s) := by
  unfold execPcflush
  repeat' first
    | (with_reducible refine keptR_onPage (by assumption) ?_ ?_)
    | (with_reducible assumption)
    | (with_reducible refine kept_ite ?_ ?_)
    | (with_reducible apply kept_startFlush)

theorem kept_execFlushDone {P : Parts} {s0 : State} (stack : Nat) (s : State) (hk : Kept P s0 s) (hp : Sub 0x4800003f09 P) : KeptR P s0 (execFlushDone stack s) := by
  unfold execFlushDone
  repeat' first
    | (with_reducible refine keptR_onObj (by assumption) ?_)
    | (with_reducible assumption)
    | (with_reducible apply kept_endFlush)

theorem kept_execEccStrength {P : Parts} {s0 : State} (w : Writer) (stack : Nat) (v : W64) (s : State) (hk : Kept P s0 s) (hp : Sub 0x1000000000001 P) : KeptR P s0 (execEccStrength w stack v s) := by
  unfold execEccStrength
  repeat' first
    | (with_reducible refine keptR_onPage (by assumption) ?_ ?_)
    | (with_reducible assumption)
    | ((with_reducible apply Sub.le hp); rfl)
    | (with_reducible apply kept_strengthWrite)

theorem kept_execReformatDone {P : Parts} {s0 : State} (stack : Nat) (s : State) (hk : Kept P s0 s) (hp : Sub 0x1001 P) : KeptR P s0 (execReformatDone stack s) := by
  unfold execReformatDone
  repeat' first
    | (with_reducible refine keptR_onObj (by assumption) ?_)
    | (with_reducible assumption)
    | (with_reducible apply kept_endReformat)

theorem kept_execFallowRow {P : Parts} {s0 : State} (w : Writer) (stack : Nat) (i : Nat) (v : W64) (s : State) (hk : Kept P s0 s) (hp : Sub 0x1000000000001 P) : KeptR P s0 (execFallowRow w stack i v s) := by
  unfold execFallowRow
  repeat' first
    | (with_reducible refine keptR_onPage (by assumption) ?_ ?_)
    | (with_reducible assumption)
    | ((with_reducible apply Sub.le hp); rfl)
    | (with_reducible apply kept_fallowRowWrite)

theorem kept_execFallowBank {P : Parts} {s0 : State} (w : Writer) (stack : Nat) (n : Nat) (v : W64) (s : State) (hk : Kept P s0 s) (hp : Sub 0x1000000000001 P) : KeptR P s0 (execFallowBank w stack n v s) := by
  unfold execFallowBank
  repeat' first
    | (with_reducible refine keptR_onPage (by assumption) ?_ ?_)
    | (with_reducible assumption)
    | ((with_reducible apply Sub.le hp); rfl)
    | (with_reducible apply kept_fallowBankWrite)

theorem kept_execFallowCopyRow {P : Parts} {s0 : State} (stack : Nat) (s : State) (hk : Kept P s0 s) (hp : Sub 0x4800003f09 P) : KeptR P s0 (execFallowCopyRow stack s) := by
  unfold execFallowCopyRow
  repeat' first
    | (with_reducible refine keptR_onObj (by assumption) ?_)
    | (with_reducible assumption)
    | (with_reducible apply kept_copyOne)

theorem kept_execFallowDone {P : Parts} {s0 : State} (stack : Nat) (s : State) (hk : Kept P s0 s) (hp : Sub 0x2001 P) : KeptR P s0 (execFallowDone stack s) := by
  unfold execFallowDone
  repeat' first
    | (with_reducible refine keptR_onObj (by assumption) ?_)
    | (with_reducible assumption)
    | (with_reducible apply kept_endCopy)

theorem kept_execTedderVisit {P : Parts} {s0 : State} (stack : Nat) (media : List Flip) (s : State) (hk : Kept P s0 s) (hp : Sub 0x1000c80000bf09 P) : KeptR P s0 (execTedderVisit stack media s) := by
  unfold execTedderVisit
  repeat' first
    | (with_reducible refine keptR_onObj (by assumption) ?_)
    | (with_reducible assumption)
    | ((with_reducible apply Sub.le hp); rfl)
    | (with_reducible apply kept_addFlips)
    | (with_reducible apply kept_tedder)

theorem kept_execScrubLate {P : Parts} {s0 : State} (stack : Nat) (s : State) (hk : Kept P s0 s) (hp : Sub 0x1 P) : KeptR P s0 (execScrubLate stack s) := by
  unfold execScrubLate
  repeat' first
    | (with_reducible refine keptR_onObj (by assumption) ?_)
    | (with_reducible assumption)
    | (with_reducible apply kept_passLate)

theorem kept_execScrubPeriodWrite {P : Parts} {s0 : State} (_w : Writer) (stack : Nat) (v : W64) (s : State) (hk : Kept P s0 s) (hp : Sub 0x2001 P) : KeptR P s0 (execScrubPeriodWrite _w stack v s) := by
  unfold execScrubPeriodWrite
  repeat' first
    | (with_reducible refine keptR_onPage (by assumption) ?_ ?_)
    | (with_reducible assumption)
    | ((with_reducible apply Sub.le hp); rfl)
    | (with_reducible apply kept_scrubWrite)

end Sys2Proof.Machine
end

