-- ==== Sys2Proof/Laws/KeptCxl.lean ====
section
/-! SUPPORT. `Kept` for the operations of Machine/Cxl.lean: one lemma per function that changes the state. -/
namespace Sys2Proof.Machine

theorem kept_cxlMem {P : Parts} {s0 : State} (s : State) (dpa : Nat) (write : Bool) (data : List (Option Byte)) (poison : Bool) (hk : Kept P s0 s) (hp : Sub 0x3000ca0001d001 P) : Kept P s0 (cxlMem s dpa write data poison) := by
  unfold cxlMem; dsimp only
  repeat' first
    | (with_reducible assumption)
    | ((with_reducible apply Sub.le hp); rfl)
    | (with_reducible refine kept_ite ?_ ?_)
    | (with_reducible apply kept_arrive)
    | (with_reducible apply kept_bumpF)
    | (with_reducible apply kept_cxlReadDone)
    | (with_reducible apply kept_cxlWriteDone)
    | (with_reducible apply kept_event)
    | (with_reducible apply kept_recordErr)

theorem kept_execMemrd {P : Parts} {s0 : State} (dpa : Nat) (s : State) (hk : Kept P s0 s) (hp : Sub 0x3000ca0001d001 P) : KeptR P s0 (execMemrd dpa s) := by
  unfold execMemrd
  repeat' first
    | (with_reducible refine keptR_next ?_)
    | (with_reducible assumption)
    | (with_reducible apply kept_cxlMem)

theorem kept_execMemwr {P : Parts} {s0 : State} (dpa : Nat) (data : List Byte) (poison : Bool) (s : State) (hk : Kept P s0 s) (hp : Sub 0x3000ca0001d001 P) : KeptR P s0 (execMemwr dpa data poison s) := by
  unfold execMemwr
  repeat' first
    | (with_reducible refine keptR_next ?_)
    | (with_reducible assumption)
    | (with_reducible apply kept_cxlMem)

theorem kept_execMemwrptl {P : Parts} {s0 : State} (dpa : Nat) (data : List (Option Byte)) (poison : Bool) (s : State) (hk : Kept P s0 s) (hp : Sub 0x3000ca0001d001 P) : KeptR P s0 (execMemwrptl dpa data poison s) := by
  unfold execMemwrptl
  repeat' first
    | (with_reducible refine keptR_next ?_)
    | (with_reducible assumption)
    | (with_reducible apply kept_cxlMem)

theorem kept_mboxDone {P : Parts} {s0 : State} (s : State) (op : Nat) (rc : Nat) (words : List Nat) (hk : Kept P s0 s) (hp : Sub 0x20000800000009 P) : Kept P s0 (mboxDone s op rc words) := by
  unfold mboxDone
  repeat' first
    | (with_reducible assumption)
    | ((with_reducible apply Sub.le hp); rfl)
    | (extract_lets +onlyGivenNames yk; refine (kept_some (P := P) (s0 := s0) yk ?_).elim (fun _ hyk => ?_); subst yk; rotate_left; rw [hyk.2]; have _ := hyk.1; clear hyk; clear yk; rotate_left)
    | (extract_lets +onlyGivenNames yk; clear_value yk; revert yk; intro _)
    | (with_reducible refine kept_ite ?_ ?_)
    | (with_reducible apply kept_bumpF)
    | (with_reducible apply kept_emit)
    | (with_reducible apply kept_recordErr)
    | (with_reducible apply kept_setF)
    | ((with_reducible refine kept_mk 0x800000008 ?_ ?_ ?_ ?_); rotate_left; rfl; (constructor <;> first | exact fun _ => rfl | exact fun h => absurd h (by decide)); apply Sub.le hp; rfl)

theorem kept_mbox {P : Parts} {s0 : State} (s : State) (op : Nat) (f : State → Answer)
    (hf : ∀ s, Kept P s0 s → Kept P s0 (f s).2.2) (hk : Kept P s0 s) (hp : Sub 0x20000800000009 P) : Kept P s0 (mbox s op f) := by
  unfold mbox
  split
  · exact hk
  · split
    · exact kept_mboxDone _ _ _ _ hk (hp.le rfl)
    · exact kept_mboxDone _ _ _ _ (hf s hk) (hp.le rfl)

theorem kept_getEvents {P : Parts} {s0 : State} (s : State) (max : Nat) (hk : Kept P s0 s) (hp : Sub 0x0 P) : Kept P s0 (getEvents s max).2.2 := by
  unfold getEvents
  repeat' first
    | (with_reducible assumption)

theorem kept_getEvents_eq {P : Parts} {s0 : State} {x0} {x1} {tt} (s : State) (max : Nat) (hk : Kept P s0 s) (hp : Sub 0x0 P) (he : getEvents s max = (x0, x1, tt)) : Kept P s0 tt := by
  have g := kept_getEvents s max hk hp
  rw [he] at g; exact g

theorem kept_clearEvents {P : Parts} {s0 : State} (s : State) (all : Bool) (handles : List Nat) (hk : Kept P s0 s) (hp : Sub 0x800000000 P) : Kept P s0 (clearEvents s all handles).2.2 := by
  unfold clearEvents
  repeat' first
    | (with_reducible assumption)
    | (extract_lets +onlyGivenNames yk; clear_value yk; revert yk; intro _)
    | split
    | (dsimp only)
    | ((with_reducible refine kept_mk 0x800000000 ?_ ?_ ?_ ?_); rotate_left; rfl; (constructor <;> first | exact fun _ => rfl | exact fun h => absurd h (by decide)); apply Sub.le hp; rfl)

theorem kept_clearEvents_eq {P : Parts} {s0 : State} {x0} {x1} {tt} (s : State) (all : Bool) (handles : List Nat) (hk : Kept P s0 s) (hp : Sub 0x800000000 P) (he : clearEvents s all handles = (x0, x1, tt)) : Kept P s0 tt := by
  have g := kept_clearEvents s all handles hk hp
  rw [he] at g; exact g

theorem kept_getPoison {P : Parts} {s0 : State} (s : State) (dpa : Nat) (len : Nat) (hk : Kept P s0 s) (hp : Sub 0x0 P) : Kept P s0 (getPoison s dpa len).2.2 := by
  unfold getPoison
  repeat' first
    | (with_reducible assumption)
    | (extract_lets +onlyGivenNames yk; clear_value yk; revert yk; intro _)
    | split

theorem kept_getPoison_eq {P : Parts} {s0 : State} {x0} {x1} {tt} (s : State) (dpa : Nat) (len : Nat) (hk : Kept P s0 s) (hp : Sub 0x0 P) (he : getPoison s dpa len = (x0, x1, tt)) : Kept P s0 tt := by
  have g := kept_getPoison s dpa len hk hp
  rw [he] at g; exact g

theorem kept_mailWrite {P : Parts} {s0 : State} (s : State) (a : Nat) (data : Option (List Byte)) (hk : Kept P s0 s) (hp : Sub 0x4800003f09 P) : Kept P s0 (mailWrite s a data) := by
  unfold mailWrite
  repeat' first
    | (with_reducible assumption)
    | ((with_reducible apply Sub.le hp); rfl)
    | (extract_lets +onlyGivenNames yk; refine (kept_some (P := P) (s0 := s0) yk ?_).elim (fun _ hyk => ?_); subst yk; rotate_left; rw [hyk.2]; have _ := hyk.1; clear hyk; clear yk; rotate_left)
    | (extract_lets +onlyGivenNames yk; clear_value yk; revert yk; intro _)
    | (with_reducible refine kept_ite ?_ ?_)
    | (with_reducible apply kept_decodeRow)
    | (with_reducible apply kept_dirtyLine)
    | (with_reducible apply kept_writeSector)

theorem kept_poisonCmd {P : Parts} {s0 : State} (s : State) (dpa : Nat) (data : Option (List Byte)) (hk : Kept P s0 s) (hp : Sub 0x4800003f09 P) : Kept P s0 (poisonCmd s dpa data).2.2 := by
  unfold poisonCmd
  repeat' first
    | (with_reducible assumption)
    | (extract_lets +onlyGivenNames yk; refine (kept_some (P := P) (s0 := s0) yk ?_).elim (fun _ hyk => ?_); subst yk; rotate_left; rw [hyk.2]; have _ := hyk.1; clear hyk; clear yk; rotate_left)
    | (extract_lets +onlyGivenNames yk; clear_value yk; revert yk; intro _)
    | (with_reducible refine kept_ite ?_ ?_)
    | (with_reducible apply kept_mailWrite)
    | split
    | ((with_reducible refine kept_mk 0x800000000 ?_ ?_ ?_ ?_); rotate_left; rfl; (constructor <;> first | exact fun _ => rfl | exact fun h => absurd h (by decide)); apply Sub.le hp; rfl)

theorem kept_poisonCmd_eq {P : Parts} {s0 : State} {x0} {x1} {tt} (s : State) (dpa : Nat) (data : Option (List Byte)) (hk : Kept P s0 s) (hp : Sub 0x4800003f09 P) (he : poisonCmd s dpa data = (x0, x1, tt)) : Kept P s0 tt := by
  have g := kept_poisonCmd s dpa data hk hp
  rw [he] at g; exact g

theorem kept_scanCaps {P : Parts} {s0 : State} (s : State) (dpa : Nat) (len : Nat) (hk : Kept P s0 s) (hp : Sub 0x10000000000000 P) : Kept P s0 (scanCaps s dpa len).2.2 := by
  unfold scanCaps
  repeat' first
    | (with_reducible assumption)
    | (with_reducible apply kept_draw_snd)
    | split

theorem kept_scanCaps_eq {P : Parts} {s0 : State} {x0} {x1} {tt} (s : State) (dpa : Nat) (len : Nat) (hk : Kept P s0 s) (hp : Sub 0x10000000000000 P) (he : scanCaps s dpa len = (x0, x1, tt)) : Kept P s0 tt := by
  have g := kept_scanCaps s dpa len hk hp
  rw [he] at g; exact g

theorem kept_startScan {P : Parts} {s0 : State} (s : State) (dpa : Nat) (len : Nat) (hk : Kept P s0 s) (hp : Sub 0x800000000 P) : Kept P s0 (startScan s dpa len).2.2 := by
  unfold startScan
  repeat' first
    | (with_reducible assumption)
    | (extract_lets +onlyGivenNames yk; clear_value yk; revert yk; intro _)
    | split
    | (dsimp only)
    | ((with_reducible refine kept_mk 0x800000000 ?_ ?_ ?_ ?_); rotate_left; rfl; (constructor <;> first | exact fun _ => rfl | exact fun h => absurd h (by decide)); apply Sub.le hp; rfl)

theorem kept_startScan_eq {P : Parts} {s0 : State} {x0} {x1} {tt} (s : State) (dpa : Nat) (len : Nat) (hk : Kept P s0 s) (hp : Sub 0x800000000 P) (he : startScan s dpa len = (x0, x1, tt)) : Kept P s0 tt := by
  have g := kept_startScan s dpa len hk hp
  rw [he] at g; exact g

theorem kept_scanStack {P : Parts} {s0 : State} (s : State) (st : Nat) (k0 : Nat) (k1 : Nat) (hk : Kept P s0 s) (hp : Sub 0x4800003f09 P) : Kept P s0 (scanStack s st k0 k1).1 := by
  unfold scanStack
  repeat' first
    | (with_reducible assumption)
    | ((with_reducible apply Sub.le hp); rfl)
    | (extract_lets +onlyGivenNames yk; refine (kept_some (P := P) (s0 := s0) yk ?_).elim (fun _ hyk => ?_); subst yk; rotate_left; rw [hyk.2]; have _ := hyk.1; clear hyk; clear yk; rotate_left)
    | (extract_lets +onlyGivenNames yk; clear_value yk; revert yk; intro _)
    | (with_reducible refine kept_forEach _ _ _ (fun _ _ _ => ?_) ?_)
    | (with_reducible apply kept_chargeRows)
    | (with_reducible apply kept_correctRow)
    | split

theorem kept_scanStack_eq {P : Parts} {s0 : State} {tt} {x1} (s : State) (st : Nat) (k0 : Nat) (k1 : Nat) (hk : Kept P s0 s) (hp : Sub 0x4800003f09 P) (he : scanStack s st k0 k1 = (tt, x1)) : Kept P s0 tt := by
  have g := kept_scanStack s st k0 k1 hk hp
  rw [he] at g; exact g

theorem kept_scanAll {P : Parts} {s0 : State} (s : State) (k0 : Nat) (k1 : Nat) (hk : Kept P s0 s) (hp : Sub 0x4800003f09 P) : Kept P s0 (scanAll s k0 k1).1 := by
  unfold scanAll
  repeat' first
    | (with_reducible assumption)
    | (with_reducible refine kept_fold_acc Prod.fst _ _ _ (fun _ _ _ => ?_) ?_)
    | (with_reducible apply kept_scanStack)

theorem kept_scanAll_eq {P : Parts} {s0 : State} {tt} {x1} (s : State) (k0 : Nat) (k1 : Nat) (hk : Kept P s0 s) (hp : Sub 0x4800003f09 P) (he : scanAll s k0 k1 = (tt, x1)) : Kept P s0 tt := by
  have g := kept_scanAll s k0 k1 hk hp
  rw [he] at g; exact g

theorem kept_endScan {P : Parts} {s0 : State} (s : State) (hk : Kept P s0 s) (hp : Sub 0x20004800003f09 P) : Kept P s0 (endScan s) := by
  unfold endScan
  repeat' first
    | (with_reducible assumption)
    | ((with_reducible apply Sub.le hp); rfl)
    | (extract_lets +onlyGivenNames yk; refine (kept_some (P := P) (s0 := s0) yk ?_).elim (fun _ hyk => ?_); subst yk; rotate_left; rw [hyk.2]; have _ := hyk.1; clear hyk; clear yk; rotate_left)
    | (extract_lets +onlyGivenNames yk; clear_value yk; revert yk; intro _)
    | (with_reducible apply kept_bumpF)
    | (with_reducible refine kept_scanAll_eq _ _ _ ?_ ?_ (by assumption))
    | split
    | ((with_reducible refine kept_mk 0x800000008 ?_ ?_ ?_ ?_); rotate_left; rfl; (constructor <;> first | exact fun _ => rfl | exact fun h => absurd h (by decide)); apply Sub.le hp; rfl)

theorem kept_stackLog {P : Parts} {s0 : State} (s : State) (st : Nat) (index : Nat) (count : Nat) (hk : Kept P s0 s) (hp : Sub 0x0 P) : Kept P s0 (stackLog s st index count).2.2 := by
  unfold stackLog
  repeat' first
    | (with_reducible assumption)
    | split

theorem kept_stackLog_eq {P : Parts} {s0 : State} {x0} {x1} {tt} (s : State) (st : Nat) (index : Nat) (count : Nat) (hk : Kept P s0 s) (hp : Sub 0x0 P) (he : stackLog s st index count = (x0, x1, tt)) : Kept P s0 tt := by
  have g := kept_stackLog s st index count hk hp
  rw [he] at g; exact g

theorem kept_setSlotImage {P : Parts} {s0 : State} (s : State) (k : Nat) (i : Option FwImage) (hk : Kept P s0 s) (hp : Sub 0x800000000 P) : Kept P s0 (setSlotImage s k i) := by
  unfold setSlotImage
  repeat' first
    | (with_reducible assumption)
    | (extract_lets +onlyGivenNames yk; clear_value yk; revert yk; intro _)
    | ((with_reducible refine kept_mk 0x800000000 ?_ ?_ ?_ ?_); rotate_left; rfl; (constructor <;> first | exact fun _ => rfl | exact fun h => absurd h (by decide)); apply Sub.le hp; rfl)

theorem kept_fwInfo {P : Parts} {s0 : State} (s : State) (hk : Kept P s0 s) (hp : Sub 0x0 P) : Kept P s0 (fwInfo s).2.2 := by
  unfold fwInfo
  repeat' first
    | (with_reducible assumption)

theorem kept_fwInfo_eq {P : Parts} {s0 : State} {x0} {x1} {tt} (s : State) (hk : Kept P s0 s) (hp : Sub 0x0 P) (he : fwInfo s = (x0, x1, tt)) : Kept P s0 tt := by
  have g := kept_fwInfo s hk hp
  rw [he] at g; exact g

theorem kept_endTransfer {P : Parts} {s0 : State} (s : State) (k : Nat) (img : FwImage) (hk : Kept P s0 s) (hp : Sub 0x800000001 P) : Kept P s0 (endTransfer s k img).2.2 := by
  unfold endTransfer
  repeat' first
    | (with_reducible assumption)
    | ((with_reducible apply Sub.le hp); rfl)
    | (extract_lets +onlyGivenNames yk; refine (kept_some (P := P) (s0 := s0) yk ?_).elim (fun _ hyk => ?_); subst yk; rotate_left; rw [hyk.2]; have _ := hyk.1; clear hyk; clear yk; rotate_left)
    | (extract_lets +onlyGivenNames yk; clear_value yk; revert yk; intro _)
    | (with_reducible apply kept_event)
    | (with_reducible apply kept_recordErr)
    | (with_reducible apply kept_setSlotImage)
    | split
    | ((with_reducible refine kept_mk 0x800000000 ?_ ?_ ?_ ?_); rotate_left; rfl; (constructor <;> first | exact fun _ => rfl | exact fun h => absurd h (by decide)); apply Sub.le hp; rfl)

theorem kept_endTransfer_eq {P : Parts} {s0 : State} {x0} {x1} {tt} (s : State) (k : Nat) (img : FwImage) (hk : Kept P s0 s) (hp : Sub 0x800000001 P) (he : endTransfer s k img = (x0, x1, tt)) : Kept P s0 tt := by
  have g := kept_endTransfer s k img hk hp
  rw [he] at g; exact g

theorem kept_transferFw {P : Parts} {s0 : State} (s : State) (act : FwAct) (slot : Nat) (img : FwImage) (hk : Kept P s0 s) (hp : Sub 0x800000001 P) : Kept P s0 (transferFw s act slot img).2.2 := by
  unfold transferFw; dsimp only
  repeat' first
    | (with_reducible assumption)
    | ((with_reducible apply Sub.le hp); rfl)
    | (with_reducible apply kept_endTransfer)
    | (with_reducible apply kept_setSlotImage)
    | split
    | (dsimp only)
    | ((with_reducible refine kept_mk 0x800000000 ?_ ?_ ?_ ?_); rotate_left; rfl; (constructor <;> first | exact fun _ => rfl | exact fun h => absurd h (by decide)); apply Sub.le hp; rfl)

theorem kept_transferFw_eq {P : Parts} {s0 : State} {x0} {x1} {tt} (s : State) (act : FwAct) (slot : Nat) (img : FwImage) (hk : Kept P s0 s) (hp : Sub 0x800000001 P) (he : transferFw s act slot img = (x0, x1, tt)) : Kept P s0 tt := by
  have g := kept_transferFw s act slot img hk hp
  rw [he] at g; exact g

theorem kept_activateFw {P : Parts} {s0 : State} (s : State) (slot : Nat) (online : Bool) (hk : Kept P s0 s) (hp : Sub 0x2000000000000 P) : Kept P s0 (activateFw s slot online).2.2 := by
  unfold activateFw
  repeat' first
    | (with_reducible assumption)
    | (extract_lets +onlyGivenNames yk; revert yk; intro _)
    | split
    | (dsimp only)
    | ((with_reducible refine kept_mk 0x2000000000000 ?_ ?_ ?_ ?_); rotate_left; rfl; (constructor <;> first | exact fun _ => rfl | exact fun h => absurd h (by decide)); apply Sub.le hp; rfl)

theorem kept_activateFw_eq {P : Parts} {s0 : State} {x0} {x1} {tt} (s : State) (slot : Nat) (online : Bool) (hk : Kept P s0 s) (hp : Sub 0x2000000000000 P) (he : activateFw s slot online = (x0, x1, tt)) : Kept P s0 tt := by
  have g := kept_activateFw s slot online hk hp
  rw [he] at g; exact g

theorem kept_execGetEventRecords {P : Parts} {s0 : State} (max : Nat) (s : State) (hk : Kept P s0 s) (hp : Sub 0x20000800000009 P) : KeptR P s0 (execGetEventRecords max s) := by
  unfold execGetEventRecords
  repeat' first
    | (with_reducible refine keptR_next ?_)
    | (with_reducible assumption)
    | ((with_reducible apply Sub.le hp); rfl)
    | (with_reducible apply kept_getEvents)
    | (with_reducible refine kept_mbox _ _ _ (fun _ _ => ?_) ?_ ?_)

theorem kept_execClearEventRecords {P : Parts} {s0 : State} (all : Bool) (handles : List Nat) (s : State) (hk : Kept P s0 s) (hp : Sub 0x20000800000009 P) : KeptR P s0 (execClearEventRecords all handles s) := by
  unfold execClearEventRecords
  repeat' first
    | (with_reducible refine keptR_next ?_)
    | (with_reducible assumption)
    | ((with_reducible apply Sub.le hp); rfl)
    | (with_reducible apply kept_clearEvents)
    | (with_reducible refine kept_mbox _ _ _ (fun _ _ => ?_) ?_ ?_)

theorem kept_execGetEventInterruptPolicy {P : Parts} {s0 : State} (s : State) (hk : Kept P s0 s) (hp : Sub 0x20000800000009 P) : KeptR P s0 (execGetEventInterruptPolicy s) := by
  unfold execGetEventInterruptPolicy
  repeat' first
    | (with_reducible refine keptR_next ?_)
    | (with_reducible assumption)
    | (with_reducible refine kept_mbox _ _ _ (fun _ _ => ?_) ?_ ?_)

theorem kept_execSetEventInterruptPolicy {P : Parts} {s0 : State} (policy : W64) (s : State) (hk : Kept P s0 s) (hp : Sub 0x20000800000009 P) : KeptR P s0 (execSetEventInterruptPolicy policy s) := by
  unfold execSetEventInterruptPolicy
  repeat' first
    | (with_reducible refine keptR_next ?_)
    | (with_reducible assumption)
    | (extract_lets +onlyGivenNames yk; clear_value yk; revert yk; intro _)
    | (with_reducible refine kept_mbox _ _ _ (fun _ _ => ?_) ?_ ?_)
    | (dsimp only)
    | ((with_reducible refine kept_mk 0x800000000 ?_ ?_ ?_ ?_); rotate_left; rfl; (constructor <;> first | exact fun _ => rfl | exact fun h => absurd h (by decide)); apply Sub.le hp; rfl)

theorem kept_execGetFwInfo {P : Parts} {s0 : State} (s : State) (hk : Kept P s0 s) (hp : Sub 0x20000800000009 P) : KeptR P s0 (execGetFwInfo s) := by
  unfold execGetFwInfo
  repeat' first
    | (with_reducible refine keptR_next ?_)
    | (with_reducible assumption)
    | ((with_reducible apply Sub.le hp); rfl)
    | (with_reducible apply kept_fwInfo)
    | (with_reducible refine kept_mbox _ _ _ (fun _ _ => ?_) ?_ ?_)

theorem kept_execTransferFw {P : Parts} {s0 : State} (act : FwAct) (slot : Nat) (img : FwImage) (s : State) (hk : Kept P s0 s) (hp : Sub 0x20000800000009 P) : KeptR P s0 (execTransferFw act slot img s) := by
  unfold execTransferFw
  repeat' first
    | (with_reducible refine keptR_next ?_)
    | (with_reducible assumption)
    | ((with_reducible apply Sub.le hp); rfl)
    | (with_reducible refine kept_mbox _ _ _ (fun _ _ => ?_) ?_ ?_)
    | (with_reducible apply kept_transferFw)

theorem kept_execActivateFw {P : Parts} {s0 : State} (slot : Nat) (online : Bool) (s : State) (hk : Kept P s0 s) (hp : Sub 0x22000800000009 P) : KeptR P s0 (execActivateFw slot online s) := by
  unfold execActivateFw
  repeat' first
    | (with_reducible refine keptR_next ?_)
    | (with_reducible assumption)
    | ((with_reducible apply Sub.le hp); rfl)
    | (with_reducible apply kept_activateFw)
    | (with_reducible refine kept_mbox _ _ _ (fun _ _ => ?_) ?_ ?_)

theorem kept_execGetTimestamp {P : Parts} {s0 : State} (s : State) (hk : Kept P s0 s) (hp : Sub 0x20000800000009 P) : KeptR P s0 (execGetTimestamp s) := by
  unfold execGetTimestamp
  repeat' first
    | (with_reducible refine keptR_next ?_)
    | (with_reducible assumption)
    | (with_reducible refine kept_mbox _ _ _ (fun _ _ => ?_) ?_ ?_)

theorem kept_execSetTimestamp {P : Parts} {s0 : State} (t : W64) (s : State) (hk : Kept P s0 s) (hp : Sub 0x20000800000009 P) : KeptR P s0 (execSetTimestamp t s) := by
  unfold execSetTimestamp
  repeat' first
    | (with_reducible refine keptR_next ?_)
    | (with_reducible assumption)
    | (extract_lets +onlyGivenNames yk; clear_value yk; revert yk; intro _)
    | (with_reducible refine kept_mbox _ _ _ (fun _ _ => ?_) ?_ ?_)
    | (dsimp only)
    | ((with_reducible refine kept_mk 0x800000000 ?_ ?_ ?_ ?_); rotate_left; rfl; (constructor <;> first | exact fun _ => rfl | exact fun h => absurd h (by decide)); apply Sub.le hp; rfl)

theorem kept_execGetSupportedLogs {P : Parts} {s0 : State} (s : State) (hk : Kept P s0 s) (hp : Sub 0x20000800000009 P) : KeptR P s0 (execGetSupportedLogs s) := by
  unfold execGetSupportedLogs
  repeat' first
    | (with_reducible refine keptR_next ?_)
    | (with_reducible assumption)
    | (with_reducible refine kept_mbox _ _ _ (fun _ _ => ?_) ?_ ?_)

theorem kept_execGetLog {P : Parts} {s0 : State} (offset : Nat) (len : Nat) (s : State) (hk : Kept P s0 s) (hp : Sub 0x20000800000009 P) : KeptR P s0 (execGetLog offset len s) := by
  unfold execGetLog
  repeat' first
    | (with_reducible refine keptR_next ?_)
    | (with_reducible assumption)
    | (with_reducible refine kept_mbox _ _ _ (fun _ _ => ?_) ?_ ?_)
    | split

theorem kept_execIdentifyMemoryDevice {P : Parts} {s0 : State} (s : State) (hk : Kept P s0 s) (hp : Sub 0x20000800000009 P) : KeptR P s0 (execIdentifyMemoryDevice s) := by
  unfold execIdentifyMemoryDevice
  repeat' first
    | (with_reducible refine keptR_next ?_)
    | (with_reducible assumption)
    | (with_reducible refine kept_mbox _ _ _ (fun _ _ => ?_) ?_ ?_)

theorem kept_execGetHealthInfo {P : Parts} {s0 : State} (s : State) (hk : Kept P s0 s) (hp : Sub 0x20000800000009 P) : KeptR P s0 (execGetHealthInfo s) := by
  unfold execGetHealthInfo
  repeat' first
    | (with_reducible refine keptR_next ?_)
    | (with_reducible assumption)
    | (with_reducible refine kept_mbox _ _ _ (fun _ _ => ?_) ?_ ?_)

theorem kept_execGetPoisonList {P : Parts} {s0 : State} (dpa : Nat) (len : Nat) (s : State) (hk : Kept P s0 s) (hp : Sub 0x20000800000009 P) : KeptR P s0 (execGetPoisonList dpa len s) := by
  unfold execGetPoisonList
  repeat' first
    | (with_reducible refine keptR_next ?_)
    | (with_reducible assumption)
    | ((with_reducible apply Sub.le hp); rfl)
    | (with_reducible apply kept_getPoison)
    | (with_reducible refine kept_mbox _ _ _ (fun _ _ => ?_) ?_ ?_)

theorem kept_execInjectPoison {P : Parts} {s0 : State} (dpa : Nat) (s : State) (hk : Kept P s0 s) (hp : Sub 0x20004800003f09 P) : KeptR P s0 (execInjectPoison dpa s) := by
  unfold execInjectPoison
  repeat' first
    | (with_reducible refine keptR_next ?_)
    | (with_reducible assumption)
    | ((with_reducible apply Sub.le hp); rfl)
    | (with_reducible refine kept_mbox _ _ _ (fun _ _ => ?_) ?_ ?_)
    | (with_reducible apply kept_poisonCmd)

theorem kept_execClearPoison {P : Parts} {s0 : State} (dpa : Nat) (data : List Byte) (s : State) (hk : Kept P s0 s) (hp : Sub 0x20004800003f09 P) : KeptR P s0 (execClearPoison dpa data s) := by
  unfold execClearPoison
  repeat' first
    | (with_reducible refine keptR_next ?_)
    | (with_reducible assumption)
    | ((with_reducible apply Sub.le hp); rfl)
    | (with_reducible refine kept_mbox _ _ _ (fun _ _ => ?_) ?_ ?_)
    | (with_reducible apply kept_poisonCmd)

theorem kept_execGetScanMediaCapabilities {P : Parts} {s0 : State} (dpa : Nat) (len : Nat) (s : State) (hk : Kept P s0 s) (hp : Sub 0x30000800000009 P) : KeptR P s0 (execGetScanMediaCapabilities dpa len s) := by
  unfold execGetScanMediaCapabilities
  repeat' first
    | (with_reducible refine keptR_next ?_)
    | (with_reducible assumption)
    | ((with_reducible apply Sub.le hp); rfl)
    | (with_reducible refine kept_mbox _ _ _ (fun _ _ => ?_) ?_ ?_)
    | (with_reducible apply kept_scanCaps)

theorem kept_execScanMedia {P : Parts} {s0 : State} (dpa : Nat) (len : Nat) (s : State) (hk : Kept P s0 s) (hp : Sub 0x20000800000009 P) : KeptR P s0 (execScanMedia dpa len s) := by
  unfold execScanMedia
  repeat' first
    | (with_reducible refine keptR_next ?_)
    | (with_reducible assumption)
    | ((with_reducible apply Sub.le hp); rfl)
    | (with_reducible refine kept_mbox _ _ _ (fun _ _ => ?_) ?_ ?_)
    | (with_reducible apply kept_startScan)

theorem kept_execScanMediaDone {P : Parts} {s0 : State} (s : State) (hk : Kept P s0 s) (hp : Sub 0x20004800003f09 P) : KeptR P s0 (execScanMediaDone s) := by
  unfold execScanMediaDone
  repeat' first
    | (with_reducible refine keptR_next ?_)
    | (with_reducible assumption)
    | (with_reducible apply kept_endScan)

theorem kept_execGetScanMediaResults {P : Parts} {s0 : State} (s : State) (hk : Kept P s0 s) (hp : Sub 0x20000800000009 P) : KeptR P s0 (execGetScanMediaResults s) := by
  unfold execGetScanMediaResults
  repeat' first
    | (with_reducible refine keptR_next ?_)
    | (with_reducible assumption)
    | (with_reducible refine kept_mbox _ _ _ (fun _ _ => ?_) ?_ ?_)

theorem kept_execGetReserved {P : Parts} {s0 : State} (s : State) (hk : Kept P s0 s) (hp : Sub 0x20000800000009 P) : KeptR P s0 (execGetReserved s) := by
  unfold execGetReserved
  repeat' first
    | (with_reducible refine keptR_next ?_)
    | (with_reducible assumption)
    | (with_reducible refine kept_mbox _ _ _ (fun _ _ => ?_) ?_ ?_)

theorem kept_execGetStackLog {P : Parts} {s0 : State} (stack : Nat) (index : Nat) (count : Nat) (s : State) (hk : Kept P s0 s) (hp : Sub 0x20000800000009 P) : KeptR P s0 (execGetStackLog stack index count s) := by
  unfold execGetStackLog
  repeat' first
    | (with_reducible refine keptR_next ?_)
    | (with_reducible assumption)
    | ((with_reducible apply Sub.le hp); rfl)
    | (with_reducible refine kept_mbox _ _ _ (fun _ _ => ?_) ?_ ?_)
    | (with_reducible apply kept_stackLog)

theorem kept_execGetFaultRecord {P : Parts} {s0 : State} (s : State) (hk : Kept P s0 s) (hp : Sub 0x20000800000009 P) : KeptR P s0 (execGetFaultRecord s) := by
  unfold execGetFaultRecord
  repeat' first
    | (with_reducible refine keptR_next ?_)
    | (with_reducible assumption)
    | (with_reducible refine kept_mbox _ _ _ (fun _ _ => ?_) ?_ ?_)

theorem kept_resetCxl {P : Parts} {s0 : State} (s : State) (hk : Kept P s0 s) (hp : Sub 0x200008000010f9 P) : Kept P s0 (resetCxl s) := by
  unfold resetCxl
  repeat' first
    | (with_reducible assumption)
    | ((with_reducible apply Sub.le hp); rfl)
    | (extract_lets +onlyGivenNames yk; refine (kept_some (P := P) (s0 := s0) yk ?_).elim (fun _ hyk => ?_); subst yk; rotate_left; rw [hyk.2]; have _ := hyk.1; clear hyk; clear yk; rotate_left)
    | (extract_lets +onlyGivenNames yk; clear_value yk; revert yk; intro _)
    | (with_reducible refine kept_ite ?_ ?_)
    | (with_reducible apply kept_recordErr)
    | (with_reducible apply kept_settleVec)
    | ((with_reducible refine kept_mk 0x8000010f0 ?_ ?_ ?_ ?_); rotate_left; rfl; (constructor <;> first | exact fun _ => rfl | exact fun h => absurd h (by decide)); apply Sub.le hp; rfl)

theorem kept_execFunctionLevelReset {P : Parts} {s0 : State} (s : State) (hk : Kept P s0 s) (hp : Sub 0x200008000010f9 P) : KeptR P s0 (execFunctionLevelReset s) := by
  unfold execFunctionLevelReset
  repeat' first
    | (with_reducible refine keptR_next ?_)
    | (with_reducible assumption)
    | ((with_reducible apply Sub.le hp); rfl)
    | (with_reducible apply kept_event)
    | (with_reducible apply kept_resetCxl)

theorem kept_execHotReset {P : Parts} {s0 : State} (s : State) (hk : Kept P s0 s) (hp : Sub 0x200008000010f9 P) : KeptR P s0 (execHotReset s) := by
  unfold execHotReset
  repeat' first
    | (with_reducible refine keptR_next ?_)
    | (with_reducible assumption)
    | ((with_reducible apply Sub.le hp); rfl)
    | (with_reducible refine kept_foldl _ _ _ (fun _ _ _ => ?_) ?_)
    | (with_reducible refine kept_ite ?_ ?_)
    | (with_reducible apply kept_event)
    | (with_reducible apply kept_resetCxl)
    | (with_reducible apply kept_setF)

theorem kept_execCxlLinkUp {P : Parts} {s0 : State} (width : Nat) (rate : Nat) (flit256 : Bool) (s : State) (hk : Kept P s0 s) (hp : Sub 0x1 P) : KeptR P s0 (execCxlLinkUp width rate flit256 s) := by
  unfold execCxlLinkUp
  repeat' first
    | (with_reducible refine keptR_next ?_)
    | (with_reducible refine keptR_ite ?_ ?_)
    | (with_reducible assumption)
    | (with_reducible apply kept_event)
    | (with_reducible apply kept_setB)
    | (with_reducible apply kept_setF)

end Sys2Proof.Machine
end

