-- ==== Sys2Proof/Laws/KeptFetch.lean ====
section
/-! SUPPORT. `Kept` for the operations of Machine/Fetch.lean: one lemma per function that changes the state. -/
namespace Sys2Proof.Machine

theorem kept_fetchMem {P : Parts} {s0 : State} (s : State) (src : Nat) (a : Nat) (n : Nat) (hk : Kept P s0 s) (hp : Sub 0x4800003f09 P) : Kept P s0 (fetchMem s src a n).2.2 := by
  unfold fetchMem
  repeat' first
    | (with_reducible assumption)
    | ((with_reducible apply Sub.le hp); rfl)
    | (extract_lets +onlyGivenNames yk; refine (kept_some (P := P) (s0 := s0) yk ?_).elim (fun _ hyk => ?_); subst yk; rotate_left; rw [hyk.2]; have _ := hyk.1; clear hyk; clear yk; rotate_left)
    | (extract_lets +onlyGivenNames yk; clear_value yk; revert yk; intro _)
    | (with_reducible refine kept_forEach _ _ _ (fun _ _ _ => ?_) ?_)
    | (with_reducible apply kept_decodeRow)
    | (with_reducible apply kept_logHole)

theorem kept_fetchMem_eq {P : Parts} {s0 : State} {x0} {x1} {tt} (s : State) (src : Nat) (a : Nat) (n : Nat) (hk : Kept P s0 s) (hp : Sub 0x4800003f09 P) (he : fetchMem s src a n = (x0, x1, tt)) : Kept P s0 tt := by
  have g := kept_fetchMem s src a n hk hp
  rw [he] at g; exact g

theorem kept_ctlFetch {P : Parts} {s0 : State} (s : State) (user : Nat) (src : Nat) (a : Nat) (n : Nat) (hk : Kept P s0 s) (hp : Sub 0x4c06003f09 P) : Kept P s0 (ctlFetch s user src a n).2 := by
  unfold ctlFetch
  repeat' first
    | (with_reducible assumption)
    | ((with_reducible apply Sub.le hp); rfl)
    | (extract_lets +onlyGivenNames yk; refine (kept_some (P := P) (s0 := s0) yk ?_).elim (fun _ hyk => ?_); subst yk; rotate_left; rw [hyk.2]; have _ := hyk.1; clear hyk; clear yk; rotate_left)
    | (extract_lets +onlyGivenNames yk; clear_value yk; revert yk; intro _)
    | (with_reducible refine kept_forEach _ _ _ (fun _ _ _ => ?_) ?_)
    | (with_reducible refine kept_fetchMem_eq _ _ _ _ ?_ ?_ (by assumption))
    | (with_reducible apply kept_memRequest)
    | split
    | (dsimp only)
    | ((with_reducible refine kept_mk 0x6000000 ?_ ?_ ?_ ?_); rotate_left; rfl; (constructor <;> first | exact fun _ => rfl | exact fun h => absurd h (by decide)); apply Sub.le hp; rfl)

theorem kept_ctlFetch_eq {P : Parts} {s0 : State} {x0} {tt} (s : State) (user : Nat) (src : Nat) (a : Nat) (n : Nat) (hk : Kept P s0 s) (hp : Sub 0x4c06003f09 P) (he : ctlFetch s user src a n = (x0, tt)) : Kept P s0 tt := by
  have g := kept_ctlFetch s user src a n hk hp
  rw [he] at g; exact g

theorem kept_dropFetch {P : Parts} {s0 : State} (s : State) (user : Nat) (hk : Kept P s0 s) (hp : Sub 0x2000000 P) : Kept P s0 (dropFetch s user) := by
  unfold dropFetch
  repeat' first
    | (with_reducible assumption)
    | ((with_reducible refine kept_mk 0x2000000 ?_ ?_ ?_ ?_); rotate_left; rfl; (constructor <;> first | exact fun _ => rfl | exact fun h => absurd h (by decide)); apply Sub.le hp; rfl)

theorem kept_sysFetch {P : Parts} {s0 : State} (s : State) (l : List Nat) (hk : Kept P s0 s) (hp : Sub 0x4800003f09 P) : Kept P s0 (sysFetch s l).2 := by
  unfold sysFetch
  repeat' first
    | (with_reducible assumption)
    | (extract_lets +onlyGivenNames yk; refine (kept_some (P := P) (s0 := s0) yk ?_).elim (fun _ hyk => ?_); subst yk; rotate_left; rw [hyk.2]; have _ := hyk.1; clear hyk; clear yk; rotate_left)
    | (with_reducible refine kept_forEach _ _ _ (fun _ _ _ => ?_) ?_)
    | (with_reducible apply kept_decodeRow)

theorem kept_sysFetch_eq {P : Parts} {s0 : State} {x0} {tt} (s : State) (l : List Nat) (hk : Kept P s0 s) (hp : Sub 0x4800003f09 P) (he : sysFetch s l = (x0, tt)) : Kept P s0 tt := by
  have g := kept_sysFetch s l hk hp
  rw [he] at g; exact g

theorem kept_sysStore {P : Parts} {s0 : State} (s : State) (l : List Nat) (hk : Kept P s0 s) (hp : Sub 0x800000600 P) : Kept P s0 (sysStore s l) := by
  unfold sysStore
  repeat' first
    | (with_reducible assumption)
    | ((with_reducible apply Sub.le hp); rfl)
    | (with_reducible refine kept_forEach _ _ _ (fun _ _ _ => ?_) ?_)
    | (with_reducible apply kept_clrFlips)
    | (with_reducible apply kept_setPoison)

theorem kept_descFetch {P : Parts} {s0 : State} (s : State) (handles : List Nat) (hk : Kept P s0 s) (hp : Sub 0xc800003f09 P) : Kept P s0 (descFetch s handles).2 := by
  unfold descFetch
  repeat' first
    | (with_reducible assumption)
    | ((with_reducible apply Sub.le hp); rfl)
    | (with_reducible apply kept_bite)
    | (with_reducible apply kept_recordErr)
    | (with_reducible refine kept_sysFetch_eq _ _ ?_ ?_ (by assumption))
    | split

theorem kept_descFetch_eq {P : Parts} {s0 : State} {x0} {tt} (s : State) (handles : List Nat) (hk : Kept P s0 s) (hp : Sub 0xc800003f09 P) (he : descFetch s handles = (x0, tt)) : Kept P s0 tt := by
  have g := kept_descFetch s handles hk hp
  rw [he] at g; exact g

theorem kept_ownFetch {P : Parts} {s0 : State} (s : State) (l : List (Nat × Nat)) (hk : Kept P s0 s) (hp : Sub 0xc800003f09 P) : Kept P s0 (ownFetch s l).2 := by
  unfold ownFetch
  repeat' first
    | (with_reducible assumption)
    | ((with_reducible apply Sub.le hp); rfl)
    | (with_reducible apply kept_bite)
    | (with_reducible apply kept_recordErr)
    | (with_reducible refine kept_sysFetch_eq _ _ ?_ ?_ (by assumption))
    | split

theorem kept_ownFetch_eq {P : Parts} {s0 : State} {x0} {tt} (s : State) (l : List (Nat × Nat)) (hk : Kept P s0 s) (hp : Sub 0xc800003f09 P) (he : ownFetch s l = (x0, tt)) : Kept P s0 tt := by
  have g := kept_ownFetch s l hk hp
  rw [he] at g; exact g

end Sys2Proof.Machine
end

