-- ==== Sys2Proof/Laws/KeptOperands.lean ====
section
/-! SUPPORT. `Kept` for the operations of Machine/Operands.lean: one lemma per function that changes the state. -/
namespace Sys2Proof.Machine

theorem kept_holdDesc {P : Parts} {s0 : State} (s : State) (d : List W64) (take : Bool) (hk : Kept P s0 s) (hp : Sub 0x200000 P) : Kept P s0 (holdDesc s d take) := by
  unfold holdDesc
  repeat' first
    | (with_reducible assumption)
    | (with_reducible refine kept_ite ?_ ?_)
    | (with_reducible apply kept_updAlloc)

end Sys2Proof.Machine
end

