-- ==== Sys2Proof/Laws/KeptDesc.lean ====
section
/-! SUPPORT. `Kept` for the operations of Machine/Desc.lean: one lemma per function that changes the state. -/
namespace Sys2Proof.Machine

theorem kept_setDesc {P : Parts} {s0 : State} (s : State) (h : Nat) (d : List W64) (hk : Kept P s0 s) (hp : Sub 0x100000 P) : Kept P s0 (setDesc s h d) := by
  unfold setDesc
  repeat' first
    | (with_reducible assumption)
    | ((with_reducible refine kept_mk 0x100000 ?_ ?_ ?_ ?_); rotate_left; rfl; (constructor <;> first | exact fun _ => rfl | exact fun h => absurd h (by decide)); apply Sub.le hp; rfl)

theorem kept_setLocalPin {P : Parts} {s0 : State} (s : State) (h : Nat) (on : Bool) (hk : Kept P s0 s) (hp : Sub 0x100000 P) : Kept P s0 (setLocalPin s h on) := by
  unfold setLocalPin
  repeat' first
    | (with_reducible assumption)
    | (with_reducible refine kept_ite ?_ ?_)
    | (with_reducible apply kept_setDesc)

theorem kept_updExports {P : Parts} {s0 : State} (s : State) (h : Nat) (f : Nat → Nat) (hk : Kept P s0 s) (hp : Sub 0x100000 P) : Kept P s0 (updExports s h f) := by
  unfold updExports
  repeat' first
    | (with_reducible assumption)
    | (with_reducible refine kept_ite ?_ ?_)
    | (with_reducible apply kept_setDesc)

theorem kept_refsOf {P : Parts} {s0 : State} (s : State) (d : List W64) (f : Nat → Nat) (hk : Kept P s0 s) (hp : Sub 0x200000 P) : Kept P s0 (refsOf s d f) := by
  unfold refsOf
  repeat' first
    | (with_reducible assumption)
    | (with_reducible refine kept_ite ?_ ?_)
    | (with_reducible apply kept_updAlloc)

theorem kept_descResult {P : Parts} {s0 : State} (s : State) (slot : Nat) (handle : Nat) (code : Nat) (hk : Kept P s0 s) (hp : Sub 0x1 P) : Kept P s0 (descResult s slot handle code) := by
  unfold descResult
  repeat' first
    | (with_reducible assumption)
    | (extract_lets +onlyGivenNames yk; refine (kept_some (P := P) (s0 := s0) yk ?_).elim (fun _ hyk => ?_); subst yk; rotate_left; rw [hyk.2]; have _ := hyk.1; clear hyk; clear yk; rotate_left)
    | (with_reducible refine kept_ite ?_ ?_)
    | (with_reducible apply kept_refusal)
    | (with_reducible apply kept_setF)

theorem kept_descCreate {P : Parts} {s0 : State} (s : State) (slot : Nat) (h : Nat) (hk : Kept P s0 s) (hp : Sub 0x800300601 P) : Kept P s0 (descCreate s slot h) := by
  unfold descCreate
  repeat' first
    | (with_reducible assumption)
    | ((with_reducible apply Sub.le hp); rfl)
    | (extract_lets +onlyGivenNames yk; refine (kept_some (P := P) (s0 := s0) yk ?_).elim (fun _ hyk => ?_); subst yk; rotate_left; rw [hyk.2]; have _ := hyk.1; clear hyk; clear yk; rotate_left)
    | (extract_lets +onlyGivenNames yk; clear_value yk; revert yk; intro _)
    | (with_reducible refine kept_ite ?_ ?_)
    | (with_reducible apply kept_bumpF)
    | (with_reducible apply kept_descResult)
    | (with_reducible apply kept_event)
    | (with_reducible apply kept_refsOf)
    | (with_reducible apply kept_setDesc)
    | (with_reducible apply kept_sysStore)

theorem kept_clearDescEntry {P : Parts} {s0 : State} (s : State) (h : Nat) (hk : Kept P s0 s) (hp : Sub 0x300000 P) : Kept P s0 (clearDescEntry s h) := by
  unfold clearDescEntry
  repeat' first
    | (with_reducible assumption)
    | ((with_reducible apply Sub.le hp); rfl)
    | (extract_lets +onlyGivenNames yk; clear_value yk; revert yk; intro _)
    | (with_reducible apply kept_refsOf)
    | (with_reducible apply kept_setDesc)

theorem kept_descDestroy {P : Parts} {s0 : State} (s : State) (slot : Nat) (h : Nat) (hk : Kept P s0 s) (hp : Sub 0x300001 P) : Kept P s0 (descDestroy s slot h) := by
  unfold descDestroy
  repeat' first
    | (with_reducible assumption)
    | ((with_reducible apply Sub.le hp); rfl)
    | (with_reducible refine kept_ite ?_ ?_)
    | (with_reducible apply kept_bumpF)
    | (with_reducible apply kept_clearDescEntry)
    | (with_reducible apply kept_descResult)
    | (with_reducible apply kept_event)

theorem kept_descDo {P : Parts} {s0 : State} (s : State) (slot : Nat) (op : Nat) (h : Nat) (hk : Kept P s0 s) (hp : Sub 0x800300601 P) : Kept P s0 (descDo s slot op h) := by
  unfold descDo
  repeat' first
    | (with_reducible assumption)
    | ((with_reducible apply Sub.le hp); rfl)
    | (with_reducible apply kept_descCreate)
    | (with_reducible apply kept_descDestroy)
    | (with_reducible apply kept_descResult)
    | split

theorem kept_descQueue {P : Parts} {s0 : State} (s : State) (slot : Nat) (op : Nat) (h : Nat) (hk : Kept P s0 s) (hp : Sub 0x800001 P) : Kept P s0 (descQueue s slot op h) := by
  unfold descQueue
  repeat' first
    | (with_reducible assumption)
    | ((with_reducible apply Sub.le hp); rfl)
    | (extract_lets +onlyGivenNames yk; refine (kept_some (P := P) (s0 := s0) yk ?_).elim (fun _ hyk => ?_); subst yk; rotate_left; rw [hyk.2]; have _ := hyk.1; clear hyk; clear yk; rotate_left)
    | (with_reducible apply kept_setF)
    | ((with_reducible refine kept_mk 0x800000 ?_ ?_ ?_ ?_); rotate_left; rfl; (constructor <;> first | exact fun _ => rfl | exact fun h => absurd h (by decide)); apply Sub.le hp; rfl)

theorem kept_descCmd {P : Parts} {s0 : State} (s : State) (w : Writer) (slot : Nat) (v : W64) (hk : Kept P s0 s) (hp : Sub 0x800001 P) : Kept P s0 (descCmd s w slot v) := by
  unfold descCmd
  repeat' first
    | (with_reducible assumption)
    | ((with_reducible apply Sub.le hp); rfl)
    | (with_reducible refine kept_ite ?_ ?_)
    | (with_reducible apply kept_descQueue)
    | (with_reducible apply kept_recordErr)

theorem kept_descTick {P : Parts} {s0 : State} (s : State) (hk : Kept P s0 s) (hp : Sub 0x800b00601 P) : Kept P s0 (descTick s) := by
  unfold descTick
  repeat' first
    | (with_reducible assumption)
    | ((with_reducible apply Sub.le hp); rfl)
    | (with_reducible apply kept_descDo)
    | split
    | ((with_reducible refine kept_mk 0x800000 ?_ ?_ ?_ ?_); rotate_left; rfl; (constructor <;> first | exact fun _ => rfl | exact fun h => absurd h (by decide)); apply Sub.le hp; rfl)

theorem kept_descNow {P : Parts} {s0 : State} (s : State) (w : Writer) (slot : Nat) (op : Nat) (h : Nat) (hk : Kept P s0 s) (hp : Sub 0x800b00601 P) : Kept P s0 (descNow s w slot op h) := by
  unfold descNow
  repeat' first
    | (with_reducible assumption)
    | ((with_reducible apply Sub.le hp); rfl)
    | (with_reducible refine kept_ite ?_ ?_)
    | (with_reducible apply kept_descDo)
    | (with_reducible apply kept_descQueue)
    | (with_reducible apply kept_recordErr)

theorem kept_allocDo {P : Parts} {s0 : State} (s : State) (slot : Nat) (hk : Kept P s0 s) (hp : Sub 0x200001 P) : Kept P s0 (allocDo s slot) := by
  unfold allocDo
  repeat' first
    | (with_reducible assumption)
    | ((with_reducible apply Sub.le hp); rfl)
    | (extract_lets +onlyGivenNames yk; refine (kept_some (P := P) (s0 := s0) yk ?_).elim (fun _ hyk => ?_); subst yk; rotate_left; rw [hyk.2]; have _ := hyk.1; clear hyk; clear yk; rotate_left)
    | (extract_lets +onlyGivenNames yk; revert yk; intro _)
    | (with_reducible refine kept_ite ?_ ?_)
    | (with_reducible apply kept_event)
    | (with_reducible apply kept_refusal)
    | (with_reducible apply kept_setB)
    | (with_reducible apply kept_setF)
    | (with_reducible apply kept_updAlloc)

theorem kept_allocQueue {P : Parts} {s0 : State} (s : State) (slot : Nat) (hk : Kept P s0 s) (hp : Sub 0x1000001 P) : Kept P s0 (allocQueue s slot) := by
  unfold allocQueue
  repeat' first
    | (with_reducible assumption)
    | ((with_reducible apply Sub.le hp); rfl)
    | (extract_lets +onlyGivenNames yk; refine (kept_some (P := P) (s0 := s0) yk ?_).elim (fun _ hyk => ?_); subst yk; rotate_left; rw [hyk.2]; have _ := hyk.1; clear hyk; clear yk; rotate_left)
    | (with_reducible apply kept_setF)
    | ((with_reducible refine kept_mk 0x1000000 ?_ ?_ ?_ ?_); rotate_left; rfl; (constructor <;> first | exact fun _ => rfl | exact fun h => absurd h (by decide)); apply Sub.le hp; rfl)

theorem kept_allocGo {P : Parts} {s0 : State} (s : State) (w : Writer) (slot : Nat) (go : Bool) (hk : Kept P s0 s) (hp : Sub 0x1000001 P) : Kept P s0 (allocGo s w slot go) := by
  unfold allocGo
  repeat' first
    | (with_reducible assumption)
    | ((with_reducible apply Sub.le hp); rfl)
    | (with_reducible refine kept_ite ?_ ?_)
    | (with_reducible apply kept_allocQueue)
    | (with_reducible apply kept_recordErr)

theorem kept_allocTick {P : Parts} {s0 : State} (s : State) (hk : Kept P s0 s) (hp : Sub 0x1200001 P) : Kept P s0 (allocTick s) := by
  unfold allocTick
  repeat' first
    | (with_reducible assumption)
    | ((with_reducible apply Sub.le hp); rfl)
    | (with_reducible apply kept_allocDo)
    | split
    | ((with_reducible refine kept_mk 0x1000000 ?_ ?_ ?_ ?_); rotate_left; rfl; (constructor <;> first | exact fun _ => rfl | exact fun h => absurd h (by decide)); apply Sub.le hp; rfl)

theorem kept_allocNow {P : Parts} {s0 : State} (s : State) (w : Writer) (slot : Nat) (hk : Kept P s0 s) (hp : Sub 0x1200001 P) : Kept P s0 (allocNow s w slot) := by
  unfold allocNow
  repeat' first
    | (with_reducible assumption)
    | ((with_reducible apply Sub.le hp); rfl)
    | (with_reducible refine kept_ite ?_ ?_)
    | (with_reducible apply kept_allocDo)
    | (with_reducible apply kept_allocGo)

theorem kept_sendReleases {P : Parts} {s0 : State} (s : State) (n : Nat) (l : List (Nat × W64)) (hk : Kept P s0 s) (hp : Sub 0x400000000 P) : Kept P s0 (sendReleases s n l) := by
  unfold sendReleases
  repeat' first
    | (with_reducible assumption)
    | (with_reducible refine kept_forEach _ _ _ (fun _ _ _ => ?_) ?_)
    | (with_reducible apply kept_toEgress)

theorem kept_askPeers {P : Parts} {s0 : State} (s : State) (n : Nat) (hk : Kept P s0 s) (hp : Sub 0x400400000 P) : Kept P s0 (askPeers s n) := by
  unfold askPeers
  repeat' first
    | (with_reducible assumption)
    | ((with_reducible apply Sub.le hp); rfl)
    | (extract_lets +onlyGivenNames yk; refine (kept_some (P := P) (s0 := s0) yk ?_).elim (fun _ hyk => ?_); subst yk; rotate_left; rw [hyk.2]; have _ := hyk.1; clear hyk; clear yk; rotate_left)
    | (extract_lets +onlyGivenNames yk; clear_value yk; revert yk; intro _)
    | (with_reducible refine kept_forEach _ _ _ (fun _ _ _ => ?_) ?_)
    | (with_reducible apply kept_toEgress)
    | (with_reducible apply kept_updOtab)
    | split

theorem kept_publishOn {P : Parts} {s0 : State} (s : State) (n : Nat) (hk : Kept P s0 s) (hp : Sub 0xcc06403f09 P) : Kept P s0 (publishOn s n) := by
  have h0 := kept_ctlFetch s (1 + n) 0x3000 (s.otab n).src.toNat (8 * (s.otab n).count) hk (hp.le rfl)
  unfold publishOn
  dsimp only
  generalize ctlFetch s (1 + n) 0x3000 (s.otab n).src.toNat (8 * (s.otab n).count) = r at h0 ⊢
  obtain ⟨o, t⟩ := r
  refine kept_ite hk ?_
  cases o with
  | none => exact h0
  | some x =>
    refine kept_askPeers _ _ (kept_updOtab _ _ _ (kept_dropFetch _ _ (kept_ite ?_ ?_) (hp.le rfl)) (hp.le rfl)) (hp.le rfl)
    · exact kept_bite _ _ _ _ _ _ (kept_recordErr _ _ _ _ h0 (hp.le rfl)) (hp.le rfl)
    · exact kept_sysStore _ _ h0 (hp.le rfl)

theorem kept_publish {P : Parts} {s0 : State} (s : State) (n : Nat) (hk : Kept P s0 s) (hp : Sub 0xcc06403f09 P) : Kept P s0 (publish s n) := by
  unfold publish
  repeat' first
    | (with_reducible assumption)
    | ((with_reducible apply Sub.le hp); rfl)
    | (extract_lets +onlyGivenNames yk; clear_value yk; revert yk; intro _)
    | (with_reducible refine kept_ite ?_ ?_)
    | (with_reducible apply kept_publishOn)
    | (with_reducible apply kept_refusal)
    | (with_reducible apply kept_updOtab)

theorem kept_publishFail {P : Parts} {s0 : State} (s : State) (n : Nat) (code : Nat) (entry : Nat) (hk : Kept P s0 s) (hp : Sub 0x400400001 P) : Kept P s0 (publishFail s n code entry) := by
  unfold publishFail
  repeat' first
    | (with_reducible assumption)
    | ((with_reducible apply Sub.le hp); rfl)
    | (extract_lets +onlyGivenNames yk; refine (kept_some (P := P) (s0 := s0) yk ?_).elim (fun _ hyk => ?_); subst yk; rotate_left; rw [hyk.2]; have _ := hyk.1; clear hyk; clear yk; rotate_left)
    | (extract_lets +onlyGivenNames yk; clear_value yk; revert yk; intro _)
    | (with_reducible apply kept_event)
    | (with_reducible apply kept_refusal)
    | (with_reducible apply kept_sendReleases)
    | (with_reducible apply kept_updOtab)

theorem kept_publishEnd {P : Parts} {s0 : State} (s : State) (n : Nat) (unreachable : Bool) (hk : Kept P s0 s) (hp : Sub 0xcc06503f09 P) : Kept P s0 (publishEnd s n unreachable) := by
  unfold publishEnd
  repeat' first
    | (with_reducible assumption)
    | ((with_reducible apply Sub.le hp); rfl)
    | (extract_lets +onlyGivenNames yk; refine (kept_some (P := P) (s0 := s0) yk ?_).elim (fun _ hyk => ?_); subst yk; rotate_left; rw [hyk.2]; have _ := hyk.1; clear hyk; clear yk; rotate_left)
    | (extract_lets +onlyGivenNames yk; clear_value yk; revert yk; intro _)
    | (with_reducible refine kept_forEach _ _ _ (fun _ _ _ => ?_) ?_)
    | (with_reducible refine kept_ite ?_ ?_)
    | (with_reducible apply kept_bumpF)
    | (with_reducible apply kept_event)
    | (with_reducible apply kept_publishFail)
    | (with_reducible apply kept_publishOn)
    | (with_reducible apply kept_setLocalPin)
    | (with_reducible apply kept_updOtab)
    | split

theorem kept_unpublish {P : Parts} {s0 : State} (s : State) (n : Nat) (hk : Kept P s0 s) (hp : Sub 0x400500001 P) : Kept P s0 (unpublish s n) := by
  unfold unpublish
  repeat' first
    | (with_reducible assumption)
    | ((with_reducible apply Sub.le hp); rfl)
    | (extract_lets +onlyGivenNames yk; refine (kept_some (P := P) (s0 := s0) yk ?_).elim (fun _ hyk => ?_); subst yk; rotate_left; rw [hyk.2]; have _ := hyk.1; clear hyk; clear yk; rotate_left)
    | (extract_lets +onlyGivenNames yk; clear_value yk; revert yk; intro _)
    | (with_reducible refine kept_forEach _ _ _ (fun _ _ _ => ?_) ?_)
    | (with_reducible refine kept_ite ?_ ?_)
    | (with_reducible apply kept_recordErr)
    | (with_reducible apply kept_refusal)
    | (with_reducible apply kept_sendReleases)
    | (with_reducible apply kept_setLocalPin)
    | (with_reducible apply kept_updOtab)

theorem kept_ownTick {P : Parts} {s0 : State} (s : State) (hk : Kept P s0 s) (hp : Sub 0xcc06403f09 P) : Kept P s0 (ownTick s) := by
  unfold ownTick
  repeat' first
    | (with_reducible assumption)
    | ((with_reducible apply Sub.le hp); rfl)
    | (with_reducible refine kept_forEach _ _ _ (fun _ _ _ => ?_) ?_)
    | (with_reducible apply kept_event)
    | (with_reducible apply kept_publishOn)
    | (with_reducible apply kept_updOtab)
    | split

theorem kept_svcModeWrite {P : Parts} {s0 : State} (s : State) (v : W64) (hk : Kept P s0 s) (hp : Sub 0x1 P) : Kept P s0 (svcModeWrite s v) := by
  unfold svcModeWrite
  repeat' first
    | (with_reducible assumption)
    | (with_reducible refine kept_ite ?_ ?_)
    | (with_reducible apply kept_recordErr)
    | (with_reducible apply kept_setB)

theorem kept_otabWrite {P : Parts} {s0 : State} (s : State) (off : Nat) (f : OTab → OTab) (hk : Kept P s0 s) (hp : Sub 0x400001 P) : Kept P s0 (otabWrite s off f) := by
  unfold otabWrite
  repeat' first
    | (with_reducible assumption)
    | ((with_reducible apply Sub.le hp); rfl)
    | (extract_lets +onlyGivenNames yk; clear_value yk; revert yk; intro _)
    | (with_reducible refine kept_ite ?_ ?_)
    | (with_reducible apply kept_recordErr)
    | (with_reducible apply kept_updOtab)

theorem kept_execDescCreate {P : Parts} {s0 : State} (w : Writer) (slot : Nat) (handle : Nat) (s : State) (hk : Kept P s0 s) (hp : Sub 0x800b00601 P) : KeptR P s0 (execDescCreate w slot handle s) := by
  unfold execDescCreate
  repeat' first
    | (with_reducible refine keptR_onObj (by assumption) ?_)
    | (with_reducible assumption)
    | (with_reducible apply kept_descNow)

theorem kept_execDescDestroy {P : Parts} {s0 : State} (w : Writer) (slot : Nat) (handle : Nat) (s : State) (hk : Kept P s0 s) (hp : Sub 0x800b00601 P) : KeptR P s0 (execDescDestroy w slot handle s) := by
  unfold execDescDestroy
  repeat' first
    | (with_reducible refine keptR_onObj (by assumption) ?_)
    | (with_reducible assumption)
    | (with_reducible apply kept_descNow)

theorem kept_execAlloc {P : Parts} {s0 : State} (w : Writer) (slot : Nat) (s : State) (hk : Kept P s0 s) (hp : Sub 0x1200001 P) : KeptR P s0 (execAlloc w slot s) := by
  unfold execAlloc
  repeat' first
    | (with_reducible refine keptR_onObj (by assumption) ?_)
    | (with_reducible assumption)
    | (with_reducible refine kept_ite ?_ ?_)
    | (with_reducible apply kept_allocNow)

theorem kept_execFree {P : Parts} {s0 : State} (w : Writer) (slot : Nat) (s : State) (hk : Kept P s0 s) (hp : Sub 0x1200001 P) : KeptR P s0 (execFree w slot s) := by
  unfold execFree
  repeat' first
    | (with_reducible refine keptR_onObj (by assumption) ?_)
    | (with_reducible assumption)
    | (with_reducible refine kept_ite ?_ ?_)
    | (with_reducible apply kept_allocNow)

theorem kept_execPublish {P : Parts} {s0 : State} (w : Writer) (table : Nat) (s : State) (hk : Kept P s0 s) (hp : Sub 0xcc06403f09 P) : KeptR P s0 (execPublish w table s) := by
  unfold execPublish
  repeat' first
    | (with_reducible refine keptR_onObj (by assumption) ?_)
    | (with_reducible assumption)
    | (with_reducible refine kept_ite ?_ ?_)
    | (with_reducible apply kept_publish)

theorem kept_execPublishDone {P : Parts} {s0 : State} (table : Nat) (unreachable : Bool) (s : State) (hk : Kept P s0 s) (hp : Sub 0xcc06503f09 P) : KeptR P s0 (execPublishDone table unreachable s) := by
  unfold execPublishDone
  repeat' first
    | (with_reducible refine keptR_onObj (by assumption) ?_)
    | (with_reducible assumption)
    | (with_reducible apply kept_publishEnd)

theorem kept_execUnpublish {P : Parts} {s0 : State} (w : Writer) (table : Nat) (s : State) (hk : Kept P s0 s) (hp : Sub 0x400500001 P) : KeptR P s0 (execUnpublish w table s) := by
  unfold execUnpublish
  repeat' first
    | (with_reducible refine keptR_onObj (by assumption) ?_)
    | (with_reducible assumption)
    | (with_reducible refine kept_ite ?_ ?_)
    | (with_reducible apply kept_unpublish)

theorem kept_execSvcModeWrite {P : Parts} {s0 : State} (w : Writer) (v : W64) (s : State) (hk : Kept P s0 s) (hp : Sub 0x1 P) : KeptR P s0 (execSvcModeWrite w v s) := by
  unfold execSvcModeWrite
  repeat' first
    | (with_reducible refine keptR_next ?_)
    | (with_reducible assumption)
    | (with_reducible refine kept_ite ?_ ?_)
    | (with_reducible apply kept_svcModeWrite)

end Sys2Proof.Machine
end

