-- ==== Sys2Proof/Laws/KeptSync.lean ====
section
/-! SUPPORT. `Kept` for the operations of Machine/Sync.lean: one lemma per function that changes the state. -/
namespace Sys2Proof.Machine

theorem kept_watchCheck {P : Parts} {s0 : State} (s : State) (hk : Kept P s0 s) (hp : Sub 0x1 P) : Kept P s0 (watchCheck s) := by
  unfold watchCheck
  repeat' first
    | (with_reducible assumption)
    | (with_reducible refine kept_forEach _ _ _ (fun _ _ _ => ?_) ?_)
    | (with_reducible refine kept_ite ?_ ?_)
    | (with_reducible apply kept_event)
    | (with_reducible apply kept_setB)

theorem kept_syncAdd {P : Parts} {s0 : State} (s : State) (c : Nat) (v : Nat) (hk : Kept P s0 s) (hp : Sub 0x40000001 P) : Kept P s0 (syncAdd s c v) := by
  unfold syncAdd
  repeat' first
    | (with_reducible assumption)
    | ((with_reducible apply Sub.le hp); rfl)
    | (with_reducible apply kept_watchCheck)
    | ((with_reducible refine kept_mk 0x40000000 ?_ ?_ ?_ ?_); rotate_left; rfl; (constructor <;> first | exact fun _ => rfl | exact fun h => absurd h (by decide)); apply Sub.le hp; rfl)

theorem kept_syncSet {P : Parts} {s0 : State} (s : State) (c : Nat) (v : Nat) (hk : Kept P s0 s) (hp : Sub 0x40000001 P) : Kept P s0 (syncSet s c v) := by
  unfold syncSet
  repeat' first
    | (with_reducible assumption)
    | ((with_reducible apply Sub.le hp); rfl)
    | (with_reducible apply kept_watchCheck)
    | ((with_reducible refine kept_mk 0x40000000 ?_ ?_ ?_ ?_); rotate_left; rfl; (constructor <;> first | exact fun _ => rfl | exact fun h => absurd h (by decide)); apply Sub.le hp; rfl)

end Sys2Proof.Machine
end

