-- ==== Sys2Proof/Laws/KeptTile.lean ====
section
/-! SUPPORT. `Kept` for the operations of Machine/Tile.lean: one lemma per function that changes the state. -/
namespace Sys2Proof.Machine

theorem kept_semAdd {P : Parts} {s0 : State} (s : State) (t : Nat) (j : Nat) (v : Nat) (hk : Kept P s0 s) (hp : Sub 0x1 P) : Kept P s0 (semAdd s t j v) := by
  unfold semAdd
  repeat' first
    | (with_reducible assumption)
    | (extract_lets +onlyGivenNames yk; clear_value yk; revert yk; intro _)
    | (with_reducible apply kept_setReg)

theorem kept_trace {P : Parts} {s0 : State} (s : State) (die : Nat) (kind : Nat) (tile : Nat) (eng : Nat) (w3 : Nat) (hk : Kept P s0 s) (hp : Sub 0x10000000010001 P) : Kept P s0 (trace s die kind tile eng w3) := by
  unfold trace
  repeat' first
    | (with_reducible assumption)
    | ((with_reducible apply Sub.le hp); rfl)
    | (extract_lets +onlyGivenNames yk; clear_value yk; revert yk; intro _)
    | (with_reducible refine kept_ite ?_ ?_)
    | (with_reducible apply kept_bumpF)
    | (with_reducible apply kept_draw_snd)
    | (with_reducible apply kept_event)
    | (with_reducible apply kept_updSeq)
    | (with_reducible apply kept_wrapF)

theorem kept_seqErr {P : Parts} {s0 : State} (s : State) (die : Nat) (code : Nat) (tag : Nat) (tile : Nat) (eng : Nat) (hk : Kept P s0 s) (hp : Sub 0x10000000010001 P) : Kept P s0 (seqErr s die code tag tile eng) := by
  unfold seqErr
  repeat' first
    | (with_reducible assumption)
    | ((with_reducible apply Sub.le hp); rfl)
    | (with_reducible apply kept_recordErr)
    | (with_reducible apply kept_trace)

theorem kept_updStream {P : Parts} {s0 : State} (s : State) (t : Nat) (e : Eng) (f : Stream → Stream) (hk : Kept P s0 s) (hp : Sub 0x8000 P) :
    Kept P s0 (updStream s t e f) := by
  unfold updStream
  refine kept_updTile_same _ _ _ (fun _ => ?_) hk (hp.le rfl)
  cases e <;> rfl

theorem kept_structFault {P : Parts} {s0 : State} (s : State) (t : Nat) (e : Eng) (hk : Kept P s0 s) (hp : Sub 0x10008000018001 P) : Kept P s0 (structFault s t e) := by
  unfold structFault
  repeat' first
    | (with_reducible assumption)
    | ((with_reducible apply Sub.le hp); rfl)
    | (extract_lets +onlyGivenNames yk; refine (kept_some (P := P) (s0 := s0) yk ?_).elim (fun _ hyk => ?_); subst yk; rotate_left; rw [hyk.2]; have _ := hyk.1; clear hyk; clear yk; rotate_left)
    | (extract_lets +onlyGivenNames yk; clear_value yk; revert yk; intro _)
    | (with_reducible apply kept_fwAssert)
    | (with_reducible apply kept_seqErr)
    | (with_reducible apply kept_updStream)

theorem kept_reachEntry {P : Parts} {s0 : State} (s : State) (t : Nat) (e : Eng) (hk : Kept P s0 s) (hp : Sub 0x10008000018001 P) : Kept P s0 (reachEntry s t e) := by
  unfold reachEntry
  repeat' first
    | (with_reducible assumption)
    | ((with_reducible apply Sub.le hp); rfl)
    | (extract_lets +onlyGivenNames yk; clear_value yk; revert yk; intro _)
    | (with_reducible refine kept_ite ?_ ?_)
    | (with_reducible apply kept_structFault)
    | (with_reducible apply kept_updStream)
    | split

theorem kept_nextEntry {P : Parts} {s0 : State} (s : State) (t : Nat) (e : Eng) (n : Nat) (hk : Kept P s0 s) (hp : Sub 0x10008000018001 P) : Kept P s0 (nextEntry s t e n) := by
  unfold nextEntry
  repeat' first
    | (with_reducible assumption)
    | ((with_reducible apply Sub.le hp); rfl)
    | (with_reducible apply kept_reachEntry)
    | (with_reducible apply kept_updStream)

theorem kept_applySigs {P : Parts} {s0 : State} (s : State) (t : Nat) (e : Eng) (hk : Kept P s0 s) (hp : Sub 0x8001 P) : Kept P s0 (applySigs s t e) := by
  unfold applySigs
  repeat' first
    | (with_reducible assumption)
    | ((with_reducible apply Sub.le hp); rfl)
    | (extract_lets +onlyGivenNames yk; refine (kept_some (P := P) (s0 := s0) yk ?_).elim (fun _ hyk => ?_); subst yk; rotate_left; rw [hyk.2]; have _ := hyk.1; clear hyk; clear yk; rotate_left)
    | (extract_lets +onlyGivenNames yk; clear_value yk; revert yk; intro _)
    | (with_reducible refine kept_forEach _ _ _ (fun _ _ _ => ?_) ?_)
    | (with_reducible apply kept_semAdd)
    | (with_reducible apply kept_updStream)

theorem kept_sigDone {P : Parts} {s0 : State} (s : State) (t : Nat) (e : Eng) (k : Nat) (hk : Kept P s0 s) (hp : Sub 0x8001 P) : Kept P s0 (sigDone s t e k) := by
  unfold sigDone
  repeat' first
    | (with_reducible assumption)
    | ((with_reducible apply Sub.le hp); rfl)
    | (with_reducible apply kept_applySigs)
    | (with_reducible apply kept_updStream)

theorem kept_beginWork {P : Parts} {s0 : State} (s : State) (t : Nat) (e : Eng) (k : Nat) (hk : Kept P s0 s) (hp : Sub 0x8000 P) : Kept P s0 (beginWork s t e k) := by
  unfold beginWork
  repeat' first
    | (with_reducible assumption)
    | (with_reducible refine kept_updTile_same _ _ _ (fun _ => rfl) ?_ ?_)

theorem kept_issue {P : Parts} {s0 : State} (s : State) (t : Nat) (e : Eng) (op : Nat) (fits : W64 → Bool) (f : State → W64 → State)
    (hf : ∀ s w, Kept P s0 s → Kept P s0 (f s w)) (hk : Kept P s0 s) (hp : Sub 0x0 P) : Kept P s0 (issue s t e op fits f) := by
  unfold issue
  split
  · split
    · exact hf _ _ hk
    · exact hk
  · exact hk

theorem kept_illegalSlot {P : Parts} {s0 : State} (s : State) (t : Nat) (e : Eng) (hk : Kept P s0 s) (hp : Sub 0x10008000018001 P) : Kept P s0 (illegalSlot s t e) := by
  unfold illegalSlot
  repeat' first
    | (with_reducible assumption)
    | ((with_reducible apply Sub.le hp); rfl)
    | (with_reducible apply kept_nextEntry)
    | (with_reducible apply kept_seqErr)

theorem kept_slotNop {P : Parts} {s0 : State} (s : State) (t : Nat) (e : Eng) (n : Nat) (hk : Kept P s0 s) (hp : Sub 0x10008000018001 P) : Kept P s0 (slotNop s t e n) := by
  unfold slotNop
  repeat' first
    | (with_reducible assumption)
    | (with_reducible apply kept_nextEntry)

theorem kept_slotWait {P : Parts} {s0 : State} (s : State) (t : Nat) (e : Eng) (sem : Nat) (k : Nat) (hk : Kept P s0 s) (hp : Sub 0x8000 P) : Kept P s0 (slotWait s t e sem k) := by
  unfold slotWait
  repeat' first
    | (with_reducible assumption)
    | (with_reducible apply kept_updStream)

theorem kept_slotSig {P : Parts} {s0 : State} (s : State) (t : Nat) (e : Eng) (sem : Nat) (v : Nat) (hk : Kept P s0 s) (hp : Sub 0x10008000018001 P) : Kept P s0 (slotSig s t e sem v) := by
  unfold slotSig
  repeat' first
    | (with_reducible assumption)
    | ((with_reducible apply Sub.le hp); rfl)
    | (extract_lets +onlyGivenNames yk; refine (kept_some (P := P) (s0 := s0) yk ?_).elim (fun _ hyk => ?_); subst yk; rotate_left; rw [hyk.2]; have _ := hyk.1; clear hyk; clear yk; rotate_left)
    | (extract_lets +onlyGivenNames yk; clear_value yk; revert yk; intro _)
    | (with_reducible refine kept_ite ?_ ?_)
    | (with_reducible apply kept_applySigs)
    | (with_reducible apply kept_nextEntry)
    | (with_reducible apply kept_updStream)
    | (with_reducible refine kept_updTile_same _ _ _ (fun _ => rfl) ?_ ?_)

theorem kept_slotLoop {P : Parts} {s0 : State} (s : State) (t : Nat) (e : Eng) (count : Nat) (hk : Kept P s0 s) (hp : Sub 0x10008000018001 P) : Kept P s0 (slotLoop s t e count) := by
  unfold slotLoop
  repeat' first
    | (with_reducible assumption)
    | ((with_reducible apply Sub.le hp); rfl)
    | (extract_lets +onlyGivenNames yk; clear_value yk; revert yk; intro _)
    | (with_reducible refine kept_ite ?_ ?_)
    | (with_reducible apply kept_nextEntry)
    | (with_reducible apply kept_reachEntry)
    | (with_reducible apply kept_structFault)
    | (with_reducible apply kept_updStream)

theorem kept_slotEndloop {P : Parts} {s0 : State} (s : State) (t : Nat) (e : Eng) (hk : Kept P s0 s) (hp : Sub 0x10008000018001 P) : Kept P s0 (slotEndloop s t e) := by
  unfold slotEndloop
  repeat' first
    | (with_reducible assumption)
    | ((with_reducible apply Sub.le hp); rfl)
    | (with_reducible refine kept_ite ?_ ?_)
    | (with_reducible apply kept_nextEntry)
    | (with_reducible apply kept_reachEntry)
    | (with_reducible apply kept_structFault)
    | (with_reducible apply kept_updStream)
    | split

theorem kept_setLcb {P : Parts} {s0 : State} (s : State) (t : Nat) (slot : Nat) (l : List W64) (hk : Kept P s0 s) (hp : Sub 0x1 P) : Kept P s0 (setLcb s t slot l) := by
  unfold setLcb
  repeat' first
    | (with_reducible assumption)
    | (with_reducible refine kept_forEach _ _ _ (fun _ _ _ => ?_) ?_)
    | (with_reducible apply kept_setReg)

theorem kept_addSoon {P : Parts} {s0 : State} (s : State) (t : Nat) (l : List Soon) (hk : Kept P s0 s) (hp : Sub 0x8000 P) : Kept P s0 (addSoon s t l) := by
  unfold addSoon
  repeat' first
    | (with_reducible assumption)
    | (with_reducible refine kept_updTile_same _ _ _ (fun _ => rfl) ?_ ?_)

theorem kept_blurLine {P : Parts} {s0 : State} (acc : Tile × State) (line : Nat) (hk : Kept P s0 acc.2) (hp : Sub 0x10000000000000 P) :
    Kept P s0 (blurLine acc line).2 := kept_drawn _ 1 (kept_drawn _ 1 (kept_drawn _ 1 (kept_drawn _ 1 hk (hp.le rfl)) (hp.le rfl)) (hp.le rfl)) (hp.le rfl)

theorem kept_blur {P : Parts} {s0 : State} (s : State) (t e : Nat) (hk : Kept P s0 s) (hp : Sub 0x10000000000000 P) : Kept P s0 (blur s t e).2 :=
  kept_fold_acc Prod.snd _ _ _ (fun _ _ h => kept_blurLine _ _ h (hp.le rfl)) hk

theorem kept_blur_eq {P : Parts} {s0 tt : State} {x0 : Tile} (s : State) (t e : Nat) (hk : Kept P s0 s) (hp : Sub 0x10000000000000 P)
    (he : blur s t e = (x0, tt)) : Kept P s0 tt := by
  have g := kept_blur s t e hk hp
  rw [he] at g; exact g

theorem kept_cfgLoad {P : Parts} {s0 : State} (s : State) (t : Nat) (e : Eng) (slot : Nat) (line : Nat) (hk : Kept P s0 s) (hp : Sub 0x1000c000018001 P) : Kept P s0 (cfgLoad s t e slot line) := by
  unfold cfgLoad
  repeat' first
    | (with_reducible assumption)
    | ((with_reducible apply Sub.le hp); rfl)
    | (extract_lets +onlyGivenNames yk; clear_value yk; revert yk; intro _)
    | (with_reducible refine kept_ite ?_ ?_)
    | (with_reducible apply kept_addSoon)
    | (with_reducible apply kept_blur)
    | (with_reducible apply kept_charge)
    | (with_reducible apply kept_event)
    | (with_reducible apply kept_illegalSlot)
    | (with_reducible apply kept_nextEntry)
    | (with_reducible apply kept_recordErr)
    | (with_reducible apply kept_setLcb)

theorem kept_latch {P : Parts} {s0 : State} (s : State) (t : Nat) (e : Eng) (slot : Nat) (hk : Kept P s0 s) (hp : Sub 0x10000000000000 P) : Kept P s0 (latch s t e slot).2 := by
  unfold latch
  repeat' first
    | (with_reducible assumption)
    | (with_reducible refine kept_fold_acc Prod.snd _ _ _ (fun _ _ _ => ?_) ?_)
    | (with_reducible apply kept_draw_snd)
    | split

theorem kept_latch_eq {P : Parts} {s0 : State} {x0} {tt} (s : State) (t : Nat) (e : Eng) (slot : Nat) (hk : Kept P s0 s) (hp : Sub 0x10000000000000 P) (he : latch s t e slot = (x0, tt)) : Kept P s0 tt := by
  have g := kept_latch s t e slot hk hp
  rw [he] at g; exact g

theorem kept_popAsf_opt {P : Parts} {s0 : State} (s : State) (t : Nat) (l : List W64) (hk : Kept P s0 s) (hp : Sub 0x8001 P) : KeptO P s0 (fun p => p.2) (popAsf s t l) := by
  unfold popAsf
  repeat' first
    | (with_reducible exact keptO_none _)
    | (with_reducible refine keptO_some ?_)
    | (with_reducible refine keptO_ite ?_ ?_)
    | (with_reducible assumption)
    | ((with_reducible apply Sub.le hp); rfl)
    | (with_reducible apply kept_bumpF)
    | (with_reducible refine kept_updTile_same _ _ _ (fun _ => rfl) ?_ ?_)

theorem kept_popAsf {P : Parts} {s0 : State} {x0} {tt} (s : State) (t : Nat) (l : List W64) (hk : Kept P s0 s) (hp : Sub 0x8001 P) (he : popAsf s t l = some (x0, tt)) : Kept P s0 tt :=
  kept_popAsf_opt s t l hk hp _ he

theorem kept_markLatched {P : Parts} {s0 : State} (s : State) (t : Nat) (slot : Nat) (on : Bool) (hk : Kept P s0 s) (hp : Sub 0x8000 P) : Kept P s0 (markLatched s t slot on) := by
  unfold markLatched
  repeat' first
    | (with_reducible assumption)
    | (with_reducible refine kept_updTile_same _ _ _ (fun _ => rfl) ?_ ?_)

theorem kept_countOob {P : Parts} {s0 : State} (s : State) (t : Nat) (wr : Bool) (n : Nat) (hk : Kept P s0 s) (hp : Sub 0x1 P) : Kept P s0 (countOob s t wr n) := by
  unfold countOob
  repeat' first
    | (with_reducible assumption)
    | (with_reducible apply kept_bumpF)

theorem kept_tileBite {P : Parts} {s0 : State} (s : State) (t : Nat) (e : Eng) (line : Nat) (hk : Kept P s0 s) (hp : Sub 0x8000008000 P) : Kept P s0 (tileBite s t e line) := by
  unfold tileBite
  repeat' first
    | (with_reducible assumption)
    | ((with_reducible apply Sub.le hp); rfl)
    | (with_reducible apply kept_bite)
    | (with_reducible apply kept_updStream)

theorem kept_mxFlags {P : Parts} {s0 : State} (s : State) (t : Nat) (f : Nat) (hk : Kept P s0 s) (hp : Sub 0x1 P) : Kept P s0 (mxFlags s t f) := by
  unfold mxFlags
  repeat' first
    | (with_reducible assumption)
    | (extract_lets +onlyGivenNames yk; refine (kept_some (P := P) (s0 := s0) yk ?_).elim (fun _ hyk => ?_); subst yk; rotate_left; rw [hyk.2]; have _ := hyk.1; clear hyk; clear yk; rotate_left)
    | (extract_lets +onlyGivenNames yk; clear_value yk; revert yk; intro _)
    | (with_reducible refine kept_ite ?_ ?_)
    | (with_reducible apply kept_event)
    | (with_reducible apply kept_setReg)

theorem kept_releaseWait {P : Parts} {s0 : State} (s : State) (t : Nat) (e : Eng) (held : Nat) (hk : Kept P s0 s) (hp : Sub 0x10008000018001 P) : Kept P s0 (releaseWait s t e held) := by
  unfold releaseWait
  repeat' first
    | (with_reducible assumption)
    | ((with_reducible apply Sub.le hp); rfl)
    | (with_reducible refine kept_ite ?_ ?_)
    | (with_reducible apply kept_nextEntry)
    | (with_reducible apply kept_updStream)
    | split

end Sys2Proof.Machine
end

