-- ==== Sys2Proof/Laws/KeptDma.lean ====
section
/-! SUPPORT. `Kept` for the operations of Machine/Dma.lean: one lemma per function that changes the state. -/
namespace Sys2Proof.Machine

theorem kept_dmaRun {P : Parts} {s0 : State} (s : State) (t : Nat) (a : Nat) (n : Nat) (hk : Kept P s0 s) (hp : Sub 0x10000000000001 P) : Kept P s0 (dmaRun s t a n).2.2 := by
  unfold dmaRun
  repeat' first
    | (with_reducible assumption)
    | ((with_reducible apply Sub.le hp); rfl)
    | (with_reducible refine kept_ite ?_ ?_)
    | (with_reducible apply kept_blur)
    | (with_reducible apply kept_recordErr)

theorem kept_dmaRun_eq {P : Parts} {s0 : State} {x0} {x1} {tt} (s : State) (t : Nat) (a : Nat) (n : Nat) (hk : Kept P s0 s) (hp : Sub 0x10000000000001 P) (he : dmaRun s t a n = (x0, x1, tt)) : Kept P s0 tt := by
  have g := kept_dmaRun s t a n hk hp
  rw [he] at g; exact g

theorem kept_updDch {P : Parts} {s0 : State} (s : State) (t : Nat) (c : Nat) (f : DmaCh → DmaCh) (hk : Kept P s0 s) (hp : Sub 0x8000 P) : Kept P s0 (updDch s t c f) := by
  unfold updDch
  repeat' first
    | (with_reducible assumption)
    | (with_reducible refine kept_updTile_same _ _ _ (fun _ => rfl) ?_ ?_)

theorem kept_releaseHolds {P : Parts} {s0 : State} (s : State) (t : Nat) (c : Nat) (hk : Kept P s0 s) (hp : Sub 0x208000 P) : Kept P s0 (releaseHolds s t c) := by
  unfold releaseHolds
  repeat' first
    | (with_reducible assumption)
    | ((with_reducible apply Sub.le hp); rfl)
    | (extract_lets +onlyGivenNames yk; refine (kept_some (P := P) (s0 := s0) yk ?_).elim (fun _ hyk => ?_); subst yk; rotate_left; rw [hyk.2]; have _ := hyk.1; clear hyk; clear yk; rotate_left)
    | (extract_lets +onlyGivenNames yk; clear_value yk; revert yk; intro _)
    | (with_reducible refine kept_forEach _ _ _ (fun _ _ _ => ?_) ?_)
    | (with_reducible apply kept_updAlloc)
    | (with_reducible apply kept_updDch)

theorem kept_chanIdle {P : Parts} {s0 : State} (s : State) (t : Nat) (c : Nat) (hk : Kept P s0 s) (hp : Sub 0x3000ce0021d201 P) : Kept P s0 (chanIdle s t c) := by
  unfold chanIdle
  repeat' first
    | (with_reducible assumption)
    | ((with_reducible apply Sub.le hp); rfl)
    | (extract_lets +onlyGivenNames yk; refine (kept_some (P := P) (s0 := s0) yk ?_).elim (fun _ hyk => ?_); subst yk; rotate_left; rw [hyk.2]; have _ := hyk.1; clear hyk; clear yk; rotate_left)
    | (extract_lets +onlyGivenNames yk; clear_value yk; revert yk; intro _)
    | (with_reducible refine kept_forEach _ _ _ (fun _ _ _ => ?_) ?_)
    | (with_reducible refine kept_ite ?_ ?_)
    | (with_reducible apply kept_markLatched)
    | (with_reducible apply kept_releaseHolds)
    | (with_reducible apply kept_setF)
    | (with_reducible apply kept_sigDone)
    | (with_reducible apply kept_updDch)
    | (with_reducible refine kept_updTile_same _ _ _ (fun _ => rfl) ?_ ?_)

theorem kept_chRefuse {P : Parts} {s0 : State} (s : State) (t : Nat) (c : Nat) (code : Nat) (pc : Nat) (hk : Kept P s0 s) (hp : Sub 0x3000ce0021d201 P) : Kept P s0 (chRefuse s t c code pc) := by
  unfold chRefuse
  repeat' first
    | (with_reducible assumption)
    | ((with_reducible apply Sub.le hp); rfl)
    | (extract_lets +onlyGivenNames yk; refine (kept_some (P := P) (s0 := s0) yk ?_).elim (fun _ hyk => ?_); subst yk; rotate_left; rw [hyk.2]; have _ := hyk.1; clear hyk; clear yk; rotate_left)
    | (extract_lets +onlyGivenNames yk; clear_value yk; revert yk; intro _)
    | (with_reducible refine kept_ite ?_ ?_)
    | (with_reducible apply kept_chanIdle)
    | (with_reducible apply kept_event)
    | (with_reducible apply kept_refusal)
    | (with_reducible apply kept_setF)
    | (with_reducible apply kept_updDch)

theorem kept_chNext {P : Parts} {s0 : State} (s : State) (t : Nat) (c : Nat) (n : Nat) (hk : Kept P s0 s) (hp : Sub 0x1 P) : Kept P s0 (chNext s t c n) := by
  unfold chNext
  repeat' first
    | (with_reducible assumption)
    | (with_reducible apply kept_setF)

theorem kept_chDo {P : Parts} {s0 : State} (s : State) (t c op : Nat) (reserved : W64) (fits : W64 → Bool) (f : State → W64 → State)
    (hf : ∀ s w, Kept P s0 s → Kept P s0 (f s w)) (hk : Kept P s0 s) (hp : Sub 0x3000ce0021d201 P) : Kept P s0 (chDo s t c op reserved fits f) := by
  unfold chDo
  simp only
  split
  · exact hk
  · split
    · exact kept_chRefuse _ _ _ _ _ hk (hp.le rfl)
    · exact hf _ _ hk

theorem kept_issueRead {P : Parts} {s0 : State} (t : Nat) (c : Nat) (s : State) (r : DmaRead) (hk : Kept P s0 s) (hp : Sub 0x3000ce0001d001 P) : Kept P s0 (issueRead t c s r) := by
  unfold issueRead; dsimp only
  repeat' first
    | (with_reducible assumption)
    | ((with_reducible apply Sub.le hp); rfl)
    | (with_reducible refine kept_ite ?_ ?_)
    | (with_reducible apply kept_arrive)
    | (with_reducible apply kept_charge)
    | (with_reducible apply kept_dmaRun)
    | (with_reducible apply kept_toEgress)
    | (with_reducible apply kept_updDch)
    | split

theorem kept_sramAdd {P : Parts} {s0 : State} (s : State) (t : Nat) (ctl : MoveCtl) (w : DmaWrite) (hk : Kept P s0 s) (hp : Sub 0x8000008000 P) : Kept P s0 (sramAdd s t ctl w) := by
  unfold sramAdd
  repeat' first
    | (with_reducible assumption)
    | ((with_reducible apply Sub.le hp); rfl)
    | (extract_lets +onlyGivenNames yk; clear_value yk; revert yk; intro _)
    | (with_reducible refine kept_ite ?_ ?_)
    | (with_reducible apply kept_bite)
    | (with_reducible refine kept_updTile_put _ _ _ ?_ ?_)

theorem kept_issueWrite {P : Parts} {s0 : State} (t : Nat) (c : Nat) (s : State) (w : DmaWrite) (hk : Kept P s0 s) (hp : Sub 0x3000ce0001d201 P) : Kept P s0 (issueWrite t c s w) := by
  unfold issueWrite
  repeat' first
    | (with_reducible assumption)
    | ((with_reducible apply Sub.le hp); rfl)
    | (extract_lets +onlyGivenNames yk; refine (kept_some (P := P) (s0 := s0) yk ?_).elim (fun _ hyk => ?_); subst yk; rotate_left; rw [hyk.2]; have _ := hyk.1; clear hyk; clear yk; rotate_left)
    | (extract_lets +onlyGivenNames yk; clear_value yk; revert yk; intro _)
    | (with_reducible refine kept_ite ?_ ?_)
    | (with_reducible apply kept_arrive)
    | (with_reducible apply kept_bumpF)
    | (with_reducible apply kept_charge)
    | (with_reducible apply kept_recordErr)
    | (with_reducible apply kept_sramAdd)
    | (with_reducible apply kept_toEgress)
    | (with_reducible apply kept_updDch)
    | (with_reducible refine kept_updTile_put _ _ _ ?_ ?_)
    | split

theorem kept_issueMove {P : Parts} {s0 : State} (s : State) (t : Nat) (c : Nat) (hk : Kept P s0 s) (hp : Sub 0x3000ce0001d201 P) : Kept P s0 (issueMove s t c) := by
  unfold issueMove
  repeat' first
    | (with_reducible assumption)
    | ((with_reducible apply Sub.le hp); rfl)
    | (extract_lets +onlyGivenNames yk; refine (kept_some (P := P) (s0 := s0) yk ?_).elim (fun _ hyk => ?_); subst yk; rotate_left; rw [hyk.2]; have _ := hyk.1; clear hyk; clear yk; rotate_left)
    | (extract_lets +onlyGivenNames yk; clear_value yk; revert yk; intro _)
    | (with_reducible refine kept_forEach _ _ _ (fun _ _ _ => ?_) ?_)
    | (with_reducible refine kept_ite ?_ ?_)
    | (with_reducible apply kept_issueRead)
    | (with_reducible apply kept_issueWrite)
    | (with_reducible apply kept_updDch)

theorem kept_addReads {P : Parts} {s0 : State} (s : State) (t : Nat) (c : Nat) (l : List DmaRead) (hk : Kept P s0 s) (hp : Sub 0x8000 P) : Kept P s0 (addReads s t c l) := by
  unfold addReads
  repeat' first
    | (with_reducible assumption)
    | (with_reducible apply kept_updDch)

theorem kept_applySignal {P : Parts} {s0 : State} (s : State) (t : Nat) (w : W64) (hk : Kept P s0 s) (hp : Sub 0x40000001 P) : Kept P s0 (applySignal s t w) := by
  unfold applySignal
  repeat' first
    | (with_reducible assumption)
    | ((with_reducible apply Sub.le hp); rfl)
    | (with_reducible apply kept_semAdd)
    | (with_reducible apply kept_syncAdd)
    | split

theorem kept_sendSignal {P : Parts} {s0 : State} (s : State) (t : Nat) (c : Nat) (w : W64) (hk : Kept P s0 s) (hp : Sub 0x400008000 P) : Kept P s0 (sendSignal s t c w) := by
  unfold sendSignal
  repeat' first
    | (with_reducible assumption)
    | ((with_reducible apply Sub.le hp); rfl)
    | (extract_lets +onlyGivenNames yk; refine (kept_some (P := P) (s0 := s0) yk ?_).elim (fun _ hyk => ?_); subst yk; rotate_left; rw [hyk.2]; have _ := hyk.1; clear hyk; clear yk; rotate_left)
    | (extract_lets +onlyGivenNames yk; clear_value yk; revert yk; intro _)
    | (with_reducible apply kept_toEgress)
    | (with_reducible apply kept_updDch)

theorem kept_chSignal {P : Parts} {s0 : State} (s : State) (t : Nat) (c : Nat) (w : W64) (hk : Kept P s0 s) (hp : Sub 0x3000ce4021d201 P) : Kept P s0 (chSignal s t c w) := by
  unfold chSignal
  repeat' first
    | (with_reducible assumption)
    | ((with_reducible apply Sub.le hp); rfl)
    | (extract_lets +onlyGivenNames yk; clear_value yk; revert yk; intro _)
    | (with_reducible refine kept_ite ?_ ?_)
    | (with_reducible apply kept_applySignal)
    | (with_reducible apply kept_chNext)
    | (with_reducible apply kept_chRefuse)
    | (with_reducible apply kept_sendSignal)
    | (with_reducible apply kept_setF)
    | (with_reducible apply kept_updDch)

theorem kept_countOut {P : Parts} {s0 : State} (s : State) (t : Nat) (write : Bool) (l : List Place) (skipped : Nat) (hk : Kept P s0 s) (hp : Sub 0x1 P) : Kept P s0 (countOut s t write l skipped) := by
  unfold countOut
  repeat' first
    | (with_reducible assumption)
    | (extract_lets +onlyGivenNames yk; clear_value yk; revert yk; intro _)
    | (with_reducible apply kept_bumpF)
    | (with_reducible apply kept_countOob)

theorem kept_moveGo {P : Parts} {s0 : State} (s : State) (t : Nat) (c : Nat) (m : MoveRun) (hk : Kept P s0 s) (hp : Sub 0x3000ce0021ff09 P) : Kept P s0 (moveGo s t c m) := by
  unfold moveGo
  repeat' first
    | (with_reducible assumption)
    | ((with_reducible apply Sub.le hp); rfl)
    | (extract_lets +onlyGivenNames yk; refine (kept_some (P := P) (s0 := s0) yk ?_).elim (fun _ hyk => ?_); subst yk; rotate_left; rw [hyk.2]; have _ := hyk.1; clear hyk; clear yk; rotate_left)
    | (extract_lets +onlyGivenNames yk; clear_value yk; revert yk; intro _)
    | (with_reducible apply kept_addReads)
    | (with_reducible apply kept_bite)
    | (with_reducible apply kept_chRefuse)
    | (with_reducible apply kept_countOut)
    | (with_reducible apply kept_issueMove)
    | (with_reducible refine kept_ownFetch_eq _ _ ?_ ?_ (by assumption))
    | (with_reducible apply kept_updDch)
    | split

theorem kept_chSettle {P : Parts} {s0 : State} (s : State) (t : Nat) (c : Nat) (hk : Kept P s0 s) (hp : Sub 0x3000ce4021ff09 P) : Kept P s0 (chSettle s t c) := by
  unfold chSettle
  repeat' first
    | (with_reducible assumption)
    | ((with_reducible apply Sub.le hp); rfl)
    | (extract_lets +onlyGivenNames yk; refine (kept_some (P := P) (s0 := s0) yk ?_).elim (fun _ hyk => ?_); subst yk; rotate_left; rw [hyk.2]; have _ := hyk.1; clear hyk; clear yk; rotate_left)
    | (extract_lets +onlyGivenNames yk; clear_value yk; revert yk; intro _)
    | (with_reducible refine kept_ite ?_ ?_)
    | (with_reducible apply kept_applySignal)
    | (with_reducible apply kept_chNext)
    | (with_reducible apply kept_chanIdle)
    | (with_reducible apply kept_moveGo)
    | (with_reducible apply kept_releaseHolds)
    | (with_reducible apply kept_setF)
    | (with_reducible apply kept_updDch)
    | split

theorem kept_moveTake {P : Parts} {s0 : State} (s : State) (t : Nat) (c : Nat) (w : List W64) (named : List (List W64)) (hk : Kept P s0 s) (hp : Sub 0x3000ce4021ff09 P) : Kept P s0 (moveTake s t c w named) := by
  unfold moveTake
  repeat' first
    | (with_reducible assumption)
    | ((with_reducible apply Sub.le hp); rfl)
    | (extract_lets +onlyGivenNames yk; refine (kept_some (P := P) (s0 := s0) yk ?_).elim (fun _ hyk => ?_); subst yk; rotate_left; rw [hyk.2]; have _ := hyk.1; clear hyk; clear yk; rotate_left)
    | (extract_lets +onlyGivenNames yk; clear_value yk; revert yk; intro _)
    | (with_reducible refine kept_forEach _ _ _ (fun _ _ _ => ?_) ?_)
    | (with_reducible apply kept_addReads)
    | (with_reducible apply kept_chSettle)
    | (with_reducible apply kept_countOut)
    | (with_reducible apply kept_holdDesc)
    | (with_reducible apply kept_issueMove)
    | (with_reducible refine kept_ownFetch_eq _ _ ?_ ?_ (by assumption))
    | (with_reducible apply kept_updDch)
    | split

theorem kept_moveStart {P : Parts} {s0 : State} (s : State) (t : Nat) (c : Nat) (hk : Kept P s0 s) (hp : Sub 0x3000ce4021ff09 P) : Kept P s0 (moveStart s t c) := by
  unfold moveStart
  repeat' first
    | (with_reducible assumption)
    | ((with_reducible apply Sub.le hp); rfl)
    | (extract_lets +onlyGivenNames yk; clear_value yk; revert yk; intro _)
    | (with_reducible refine kept_ite ?_ ?_)
    | (with_reducible apply kept_bumpF)
    | (with_reducible apply kept_chNext)
    | (with_reducible apply kept_chRefuse)
    | (with_reducible apply kept_moveTake)

theorem kept_chMove {P : Parts} {s0 : State} (s : State) (t c : Nat) (hk : Kept P s0 s) (hp : Sub 0x3000ce4021ff09 P) : Kept P s0 (chMove s t c) := by
  unfold chMove
  generalize moveHandles _ = handles
  have h0 := kept_descFetch s handles hk (hp.le rfl)
  generalize descFetch s handles = r at h0 ⊢
  exact kept_ite h0 (kept_moveStart _ _ _ h0 (hp.le rfl))

theorem kept_popRead {P : Parts} {s0 : State} (s : State) (t : Nat) (c : Nat) (wanted : Nat → Bool) (hk : Kept P s0 s) (hp : Sub 0x8000 P) : Kept P s0 (popRead s t c wanted).2 := by
  unfold popRead
  repeat' first
    | (with_reducible assumption)
    | (extract_lets +onlyGivenNames yk; clear_value yk; revert yk; intro _)
    | (with_reducible apply kept_updDch)
    | split

theorem kept_popRead_eq {P : Parts} {s0 : State} {x0} {tt} (s : State) (t : Nat) (c : Nat) (wanted : Nat → Bool) (hk : Kept P s0 s) (hp : Sub 0x8000 P) (he : popRead s t c wanted = (x0, tt)) : Kept P s0 tt := by
  have g := kept_popRead s t c wanted hk hp
  rw [he] at g; exact g

theorem kept_takeRead {P : Parts} {s0 : State} (s : State) (t : Nat) (c : Nat) (hk : Kept P s0 s) (hp : Sub 0x3000ce4021ff09 P) : Kept P s0 (takeRead s t c) := by
  unfold takeRead
  repeat' first
    | (with_reducible assumption)
    | ((with_reducible apply Sub.le hp); rfl)
    | (extract_lets +onlyGivenNames yk; refine (kept_some (P := P) (s0 := s0) yk ?_).elim (fun _ hyk => ?_); subst yk; rotate_left; rw [hyk.2]; have _ := hyk.1; clear hyk; clear yk; rotate_left)
    | (extract_lets +onlyGivenNames yk; clear_value yk; revert yk; intro _)
    | (with_reducible apply kept_chSettle)
    | (with_reducible apply kept_issueMove)
    | (with_reducible refine kept_popRead_eq _ _ _ _ ?_ ?_ (by assumption))
    | (with_reducible apply kept_updDch)
    | split

theorem kept_takeWrite {P : Parts} {s0 : State} (s : State) (t : Nat) (c : Nat) (hk : Kept P s0 s) (hp : Sub 0x3000ce4021ff09 P) : Kept P s0 (takeWrite s t c) := by
  unfold takeWrite
  repeat' first
    | (with_reducible assumption)
    | ((with_reducible apply Sub.le hp); rfl)
    | (extract_lets +onlyGivenNames yk; refine (kept_some (P := P) (s0 := s0) yk ?_).elim (fun _ hyk => ?_); subst yk; rotate_left; rw [hyk.2]; have _ := hyk.1; clear hyk; clear yk; rotate_left)
    | (extract_lets +onlyGivenNames yk; clear_value yk; revert yk; intro _)
    | (with_reducible apply kept_chSettle)
    | (with_reducible apply kept_issueMove)
    | (with_reducible apply kept_updDch)
    | split

theorem kept_startChan {P : Parts} {s0 : State} (s : State) (t : Nat) (c : Nat) (sram : Bool) (addr : Nat) (hk : Kept P s0 s) (hp : Sub 0x3000ce0001d201 P) : Kept P s0 (startChan s t c sram addr) := by
  unfold startChan
  repeat' first
    | (with_reducible assumption)
    | ((with_reducible apply Sub.le hp); rfl)
    | (extract_lets +onlyGivenNames yk; refine (kept_some (P := P) (s0 := s0) yk ?_).elim (fun _ hyk => ?_); subst yk; rotate_left; rw [hyk.2]; have _ := hyk.1; clear hyk; clear yk; rotate_left)
    | (extract_lets +onlyGivenNames yk; clear_value yk; revert yk; intro _)
    | (with_reducible refine kept_ite ?_ ?_)
    | (with_reducible apply kept_addReads)
    | (with_reducible apply kept_issueMove)
    | (with_reducible apply kept_setF)
    | (with_reducible apply kept_updDch)

theorem kept_runProgram {P : Parts} {s0 : State} (s : State) (t : Nat) (c : Nat) (l : List (W64 × Bool)) (hk : Kept P s0 s) (hp : Sub 0x3000ce0021d201 P) : Kept P s0 (runProgram s t c l) := by
  unfold runProgram
  repeat' first
    | (with_reducible assumption)
    | ((with_reducible apply Sub.le hp); rfl)
    | (extract_lets +onlyGivenNames yk; refine (kept_some (P := P) (s0 := s0) yk ?_).elim (fun _ hyk => ?_); subst yk; rotate_left; rw [hyk.2]; have _ := hyk.1; clear hyk; clear yk; rotate_left)
    | (extract_lets +onlyGivenNames yk; clear_value yk; revert yk; intro _)
    | (with_reducible apply kept_bite)
    | (with_reducible apply kept_chRefuse)
    | (with_reducible apply kept_recordErr)
    | (with_reducible apply kept_setF)
    | (with_reducible apply kept_updDch)
    | split

theorem kept_holdProgram {P : Parts} {s0 : State} (s : State) (t : Nat) (c : Nat) (hk : Kept P s0 s) (hp : Sub 0x3000ce0021d201 P) : Kept P s0 (holdProgram s t c) := by
  unfold holdProgram
  repeat' first
    | (with_reducible assumption)
    | ((with_reducible apply Sub.le hp); rfl)
    | (extract_lets +onlyGivenNames yk; clear_value yk; revert yk; intro _)
    | (with_reducible refine kept_ite ?_ ?_)
    | (with_reducible apply kept_addReads)
    | (with_reducible apply kept_blur)
    | (with_reducible apply kept_issueMove)
    | (with_reducible refine kept_popRead_eq _ _ _ _ ?_ ?_ (by assumption))
    | (with_reducible apply kept_recordErr)
    | (with_reducible apply kept_runProgram)
    | (with_reducible apply kept_updDch)
    | split

theorem kept_chStart {P : Parts} {s0 : State} (s : State) (t : Nat) (c : Nat) (v : W64) (hk : Kept P s0 s) (hp : Sub 0x3000ce0001d201 P) : Kept P s0 (chStart s t c v) := by
  unfold chStart
  repeat' first
    | (with_reducible assumption)
    | ((with_reducible apply Sub.le hp); rfl)
    | (extract_lets +onlyGivenNames yk; clear_value yk; revert yk; intro _)
    | (with_reducible refine kept_ite ?_ ?_)
    | (with_reducible apply kept_recordErr)
    | (with_reducible apply kept_startChan)

theorem kept_execDmaStart {P : Parts} {s0 : State} (_w : Writer) (tile : Nat) (ch : Nat) (v : W64) (s : State) (hk : Kept P s0 s) (hp : Sub 0x3000ce0001d201 P) : KeptR P s0 (execDmaStart _w tile ch v s) := by
  unfold execDmaStart
  repeat' first
    | (with_reducible refine keptR_onPage (by assumption) ?_ ?_)
    | (with_reducible assumption)
    | ((with_reducible apply Sub.le hp); rfl)
    | (with_reducible refine kept_ite ?_ ?_)
    | (with_reducible apply kept_chStart)

theorem kept_execProgramHeld {P : Parts} {s0 : State} (tile : Nat) (ch : Nat) (s : State) (hk : Kept P s0 s) (hp : Sub 0x3000ce0021d201 P) : KeptR P s0 (execProgramHeld tile ch s) := by
  unfold execProgramHeld
  repeat' first
    | (with_reducible refine keptR_onObj (by assumption) ?_)
    | (with_reducible assumption)
    | (with_reducible apply kept_holdProgram)

theorem kept_execDmaEnd {P : Parts} {s0 : State} (tile : Nat) (ch : Nat) (s : State) (hk : Kept P s0 s) (hp : Sub 0x3000ce0021d201 P) : KeptR P s0 (execDmaEnd tile ch s) := by
  unfold execDmaEnd
  repeat' first
    | (with_reducible refine keptR_onObj (by assumption) ?_)
    | (with_reducible assumption)
    | ((with_reducible apply Sub.le hp); rfl)
    | (extract_lets +onlyGivenNames yk; refine (kept_some (P := P) (s0 := s0) yk ?_).elim (fun _ hyk => ?_); subst yk; rotate_left; rw [hyk.2]; have _ := hyk.1; clear hyk; clear yk; rotate_left)
    | (extract_lets +onlyGivenNames yk; clear_value yk; revert yk; intro _)
    | (with_reducible refine kept_ite ?_ ?_)
    | (with_reducible apply kept_bumpF)
    | (with_reducible refine kept_chDo _ _ _ _ _ _ _ (fun _ _ _ => ?_) ?_ ?_)
    | (with_reducible apply kept_chRefuse)
    | (with_reducible apply kept_chanIdle)
    | (with_reducible apply kept_event)
    | (with_reducible apply kept_setF)

theorem kept_execDmaLoop {P : Parts} {s0 : State} (tile : Nat) (ch : Nat) (count : Word) (s : State) (hk : Kept P s0 s) (hp : Sub 0x3000ce0021d201 P) : KeptR P s0 (execDmaLoop tile ch count s) := by
  unfold execDmaLoop
  repeat' first
    | (with_reducible refine keptR_onObj (by assumption) ?_)
    | (with_reducible assumption)
    | ((with_reducible apply Sub.le hp); rfl)
    | (extract_lets +onlyGivenNames yk; clear_value yk; revert yk; intro _)
    | (with_reducible refine kept_ite ?_ ?_)
    | (with_reducible refine kept_chDo _ _ _ _ _ _ _ (fun _ _ _ => ?_) ?_ ?_)
    | (with_reducible apply kept_chNext)
    | (with_reducible apply kept_setF)
    | (with_reducible apply kept_updDch)

theorem kept_execDmaEndloop {P : Parts} {s0 : State} (tile : Nat) (ch : Nat) (s : State) (hk : Kept P s0 s) (hp : Sub 0x3000ce0021d201 P) : KeptR P s0 (execDmaEndloop tile ch s) := by
  unfold execDmaEndloop
  repeat' first
    | (with_reducible refine keptR_onObj (by assumption) ?_)
    | (with_reducible assumption)
    | ((with_reducible apply Sub.le hp); rfl)
    | (with_reducible refine kept_ite ?_ ?_)
    | (with_reducible refine kept_chDo _ _ _ _ _ _ _ (fun _ _ _ => ?_) ?_ ?_)
    | (with_reducible apply kept_chNext)
    | (with_reducible apply kept_chRefuse)
    | (with_reducible apply kept_setF)
    | (with_reducible apply kept_updDch)
    | split

theorem kept_execDmaWait {P : Parts} {s0 : State} (tile : Nat) (ch : Nat) (sem : BitVec 5) (k : BitVec 16) (s : State) (hk : Kept P s0 s) (hp : Sub 0x3000ce0021d201 P) : KeptR P s0 (execDmaWait tile ch sem k s) := by
  unfold execDmaWait
  repeat' first
    | (with_reducible refine keptR_onObj (by assumption) ?_)
    | (with_reducible assumption)
    | ((with_reducible apply Sub.le hp); rfl)
    | (with_reducible refine kept_chDo _ _ _ _ _ _ _ (fun _ _ _ => ?_) ?_ ?_)
    | (with_reducible apply kept_setF)
    | (with_reducible apply kept_updDch)

theorem kept_execSignal {P : Parts} {s0 : State} (tile : Nat) (ch : Nat) (word : W64) (s : State) (hk : Kept P s0 s) (hp : Sub 0x3000ce4021d201 P) : KeptR P s0 (execSignal tile ch word s) := by
  unfold execSignal
  repeat' first
    | (with_reducible refine keptR_onObj (by assumption) ?_)
    | (with_reducible assumption)
    | ((with_reducible apply Sub.le hp); rfl)
    | (with_reducible refine kept_chDo _ _ _ _ _ _ _ (fun _ _ _ => ?_) ?_ ?_)
    | (with_reducible apply kept_chSignal)

theorem kept_execMove {P : Parts} {s0 : State} (tile : Nat) (ch : Nat) (words : List W64) (s : State) (hk : Kept P s0 s) (hp : Sub 0x3000ce4021ff09 P) : KeptR P s0 (execMove tile ch words s) := by
  unfold execMove
  repeat' first
    | (with_reducible refine keptR_onObj (by assumption) ?_)
    | (with_reducible assumption)
    | ((with_reducible apply Sub.le hp); rfl)
    | (with_reducible refine kept_chDo _ _ _ _ _ _ _ (fun _ _ _ => ?_) ?_ ?_)
    | (with_reducible apply kept_chMove)

theorem kept_execDmaRequestDone {P : Parts} {s0 : State} (tile : Nat) (ch : Nat) (write : Bool) (s : State) (hk : Kept P s0 s) (hp : Sub 0x3000ce4021ff09 P) : KeptR P s0 (execDmaRequestDone tile ch write s) := by
  unfold execDmaRequestDone
  repeat' first
    | (with_reducible refine keptR_onObj (by assumption) ?_)
    | (with_reducible assumption)
    | (with_reducible refine kept_ite ?_ ?_)
    | (with_reducible apply kept_takeRead)
    | (with_reducible apply kept_takeWrite)

theorem kept_chRelease {P : Parts} {s0 : State} (s : State) (t : Nat) (c : Nat) (hk : Kept P s0 s) (hp : Sub 0x8001 P) : Kept P s0 (chRelease s t c) := by
  unfold chRelease
  repeat' first
    | (with_reducible assumption)
    | ((with_reducible apply Sub.le hp); rfl)
    | (with_reducible refine kept_ite ?_ ?_)
    | (with_reducible apply kept_chNext)
    | (with_reducible apply kept_setF)
    | (with_reducible apply kept_updDch)
    | split

theorem kept_execSemaphoreWaitRelease {P : Parts} {s0 : State} (tile : Nat) (who : Waiter) (held : Nat) (s : State) (hk : Kept P s0 s) (hp : Sub 0x10008000018001 P) : KeptR P s0 (execSemaphoreWaitRelease tile who held s) := by
  unfold execSemaphoreWaitRelease
  repeat' first
    | (with_reducible refine keptR_onObj (by assumption) ?_)
    | (with_reducible assumption)
    | ((with_reducible apply Sub.le hp); rfl)
    | (with_reducible apply kept_chRelease)
    | (with_reducible apply kept_releaseWait)
    | split

end Sys2Proof.Machine
end

