-- ==== Sys2Proof/Laws/KeptMx.lean ====
section
/-! SUPPORT. `Kept` for the operations of Machine/Mx.lean: one lemma per function that changes the state. -/
namespace Sys2Proof.Machine

theorem kept_drain {P : Parts} {s0 : State} (s : State) (t : Nat) (kb : Tile) (r : MxRun) (buf : Nat) (val : Nat → Nat → Int) (off : Nat → Bool) (hk : Kept P s0 s) (hp : Sub 0x8000008001 P) : Kept P s0 (drain s t kb r buf val off) := by
  unfold drain
  repeat' first
    | (with_reducible assumption)
    | ((with_reducible apply Sub.le hp); rfl)
    | (extract_lets +onlyGivenNames yk; refine (kept_some (P := P) (s0 := s0) yk ?_).elim (fun _ hyk => ?_); subst yk; rotate_left; rw [hyk.2]; have _ := hyk.1; clear hyk; clear yk; rotate_left)
    | (extract_lets +onlyGivenNames yk; clear_value yk; revert yk; intro _)
    | (with_reducible apply kept_bumpF)
    | (with_reducible apply kept_countOob)
    | (with_reducible apply kept_mxFlags)
    | (with_reducible apply kept_setReg)
    | (with_reducible apply kept_tileBite)
    | (with_reducible refine kept_updTile_put _ _ _ ?_ ?_)
    | split

theorem kept_freeWords {P : Parts} {s0 : State} (n : Nat) (s : State) (hk : Kept P s0 s) (hp : Sub 0x10000000000000 P) : Kept P s0 (freeWords n s).2 := by
  induction n generalizing s with
  | zero => exact hk
  | succ n ih => simp only [freeWords]; exact ih _ (kept_draw_snd _ hk (hp.le rfl))

theorem kept_earlyAcc {P : Parts} {s0 : State} (s : State) (early : Bool) (hk : Kept P s0 s) (hp : Sub 0x10000000000000 P) : Kept P s0 (earlyAcc s early).2 := by
  unfold earlyAcc
  generalize 8192 = n
  split
  · exact kept_freeWords _ _ hk (hp.le rfl)
  · exact hk

theorem kept_earlyAcc_eq {P : Parts} {s0 tt : State} {x0 : List Nat} (s : State) (early : Bool) (hk : Kept P s0 s) (hp : Sub 0x10000000000000 P)
    (he : earlyAcc s early = (x0, tt)) : Kept P s0 tt := by
  have g := kept_earlyAcc s early hk hp
  rw [he] at g; exact g

theorem kept_runPass {P : Parts} {s0 : State} (s : State) (t : Nat) (r : MxRun) (hk : Kept P s0 s) (hp : Sub 0x1000c000008001 P) : Kept P s0 (runPass s t r) := by
  unfold runPass
  repeat' first
    | (with_reducible assumption)
    | ((with_reducible apply Sub.le hp); rfl)
    | (extract_lets +onlyGivenNames yk; refine (kept_some (P := P) (s0 := s0) yk ?_).elim (fun _ hyk => ?_); subst yk; rotate_left; rw [hyk.2]; have _ := hyk.1; clear hyk; clear yk; rotate_left)
    | (extract_lets +onlyGivenNames yk; clear_value yk; revert yk; intro _)
    | (with_reducible refine kept_forEach _ _ _ (fun _ _ _ => ?_) ?_)
    | (with_reducible refine kept_ite ?_ ?_)
    | (with_reducible refine kept_blur_eq _ _ _ ?_ ?_ (by assumption))
    | (with_reducible apply kept_bumpF)
    | (with_reducible apply kept_charge)
    | (with_reducible apply kept_countOob)
    | (with_reducible apply kept_drain)
    | (with_reducible apply kept_earlyAcc)
    | (with_reducible apply kept_mxFlags)
    | (with_reducible apply kept_recordErr)
    | (with_reducible apply kept_setB)
    | (with_reducible apply kept_setF)
    | (with_reducible apply kept_tileBite)
    | (with_reducible apply kept_updStream)
    | (with_reducible refine kept_updTile_same _ _ _ (fun _ => rfl) ?_ ?_)
    | split

theorem kept_startPass {P : Parts} {s0 : State} (s : State) (t : Nat) (hk : Kept P s0 s) (hp : Sub 0x8001 P) : Kept P s0 (startPass s t) := by
  unfold startPass
  repeat' first
    | (with_reducible assumption)
    | ((with_reducible apply Sub.le hp); rfl)
    | (extract_lets +onlyGivenNames yk; refine (kept_some (P := P) (s0 := s0) yk ?_).elim (fun _ hyk => ?_); subst yk; rotate_left; rw [hyk.2]; have _ := hyk.1; clear hyk; clear yk; rotate_left)
    | (with_reducible refine kept_ite ?_ ?_)
    | (with_reducible apply kept_bumpF)
    | (with_reducible refine kept_popAsf _ _ _ ?_ ?_ (by assumption))
    | (with_reducible refine kept_updTile_same _ _ _ (fun _ => rfl) ?_ ?_)
    | split

theorem kept_endRun {P : Parts} {s0 : State} (s : State) (t : Nat) (r : MxRun) (hk : Kept P s0 s) (hp : Sub 0x208000 P) : Kept P s0 (endRun s t r) := by
  unfold endRun
  repeat' first
    | (with_reducible assumption)
    | ((with_reducible apply Sub.le hp); rfl)
    | (extract_lets +onlyGivenNames yk; refine (kept_some (P := P) (s0 := s0) yk ?_).elim (fun _ hyk => ?_); subst yk; rotate_left; rw [hyk.2]; have _ := hyk.1; clear hyk; clear yk; rotate_left)
    | (with_reducible refine kept_forEach _ _ _ (fun _ _ _ => ?_) ?_)
    | (with_reducible apply kept_holdDesc)
    | (with_reducible apply kept_markLatched)

theorem kept_mxBegin {P : Parts} {s0 : State} (s : State) (t : Nat) (slot : Nat) (l : List W64) (hk : Kept P s0 s) (hp : Sub 0x10008000218001 P) : Kept P s0 (mxBegin s t slot l) := by
  unfold mxBegin
  repeat' first
    | (with_reducible assumption)
    | ((with_reducible apply Sub.le hp); rfl)
    | (extract_lets +onlyGivenNames yk; refine (kept_some (P := P) (s0 := s0) yk ?_).elim (fun _ hyk => ?_); subst yk; rotate_left; rw [hyk.2]; have _ := hyk.1; clear hyk; clear yk; rotate_left)
    | (extract_lets +onlyGivenNames yk; clear_value yk; revert yk; intro _)
    | (with_reducible refine kept_forEach _ _ _ (fun _ _ _ => ?_) ?_)
    | (with_reducible apply kept_beginWork)
    | (with_reducible apply kept_holdDesc)
    | (with_reducible apply kept_markLatched)
    | (with_reducible apply kept_nextEntry)
    | (with_reducible apply kept_setF)
    | (with_reducible apply kept_startPass)
    | (with_reducible refine kept_updTile_same _ _ _ (fun _ => rfl) ?_ ?_)

theorem kept_mxRunStart {P : Parts} {s0 : State} (s : State) (t : Nat) (slot : Nat) (hk : Kept P s0 s) (hp : Sub 0x1000c80021bf09 P) : Kept P s0 (mxRunStart s t slot) := by
  unfold mxRunStart
  repeat' first
    | (with_reducible assumption)
    | ((with_reducible apply Sub.le hp); rfl)
    | (extract_lets +onlyGivenNames yk; refine (kept_some (P := P) (s0 := s0) yk ?_).elim (fun _ hyk => ?_); subst yk; rotate_left; rw [hyk.2]; have _ := hyk.1; clear hyk; clear yk; rotate_left)
    | (extract_lets +onlyGivenNames yk; clear_value yk; revert yk; intro _)
    | (with_reducible apply kept_bumpF)
    | (with_reducible refine kept_descFetch_eq _ _ ?_ ?_ (by assumption))
    | (with_reducible apply kept_event)
    | (with_reducible apply kept_illegalSlot)
    | (with_reducible refine kept_latch_eq _ _ _ _ ?_ ?_ (by assumption))
    | (with_reducible apply kept_mxBegin)
    | (with_reducible apply kept_nextEntry)
    | (with_reducible apply kept_refusal)
    | (with_reducible apply kept_setF)
    | split

end Sys2Proof.Machine
end

