-- ==== Sys2Proof/Laws/KeptVe.lean ====
section
/-! SUPPORT. `Kept` for the operations of Machine/Ve.lean: one lemma per function that changes the state. -/
namespace Sys2Proof.Machine

theorem kept_updVe {P : Parts} {s0 : State} (s : State) (t : Nat) (f : VE → VE) (hk : Kept P s0 s) (hp : Sub 0x8000 P) : Kept P s0 (updVe s t f) := by
  unfold updVe
  repeat' first
    | (with_reducible assumption)
    | (with_reducible refine kept_updTile_same _ _ _ (fun _ => rfl) ?_ ?_)

theorem kept_catchUp {P : Parts} {s0 : State} (s : State) (t : Nat) (hk : Kept P s0 s) (hp : Sub 0x8000 P) : Kept P s0 (catchUp s t) := by
  unfold catchUp
  repeat' first
    | (with_reducible assumption)
    | (with_reducible apply kept_updStream)

theorem kept_veBegin {P : Parts} {s0 : State} (s : State) (t : Nat) (hk : Kept P s0 s) (hp : Sub 0x4000008000 P) : Kept P s0 (veBegin s t) := by
  unfold veBegin
  repeat' first
    | (with_reducible assumption)
    | ((with_reducible apply Sub.le hp); rfl)
    | (extract_lets +onlyGivenNames yk; refine (kept_some (P := P) (s0 := s0) yk ?_).elim (fun _ hyk => ?_); subst yk; rotate_left; rw [hyk.2]; have _ := hyk.1; clear hyk; clear yk; rotate_left)
    | (with_reducible apply kept_catchUp)
    | (with_reducible apply kept_charge)
    | (with_reducible apply kept_updVe)

theorem kept_issueV {P : Parts} {s0 : State} (s : State) (t : Nat) (w : W64) (f : State → State)
    (hf : ∀ s, Kept P s0 s → Kept P s0 (f s)) (hk : Kept P s0 s) (hp : Sub 0x4000008000 P) : Kept P s0 (issueV s t w f) := by
  unfold issueV
  split
  · exact hf _ (kept_veBegin _ _ hk (hp.le rfl))
  · exact hk

theorem kept_veFlags {P : Parts} {s0 : State} (s : State) (t : Nat) (comp : Nat) (b : Nat) (hk : Kept P s0 s) (hp : Sub 0x8000 P) : Kept P s0 (veFlags s t comp b) := by
  unfold veFlags
  repeat' first
    | (with_reducible assumption)
    | (with_reducible refine kept_ite ?_ ?_)
    | (with_reducible apply kept_updVe)

theorem kept_veIllegal {P : Parts} {s0 : State} (s : State) (t : Nat) (issue : Nat) (comp : Nat) (hk : Kept P s0 s) (hp : Sub 0x10008000018001 P) : Kept P s0 (veIllegal s t issue comp) := by
  unfold veIllegal
  repeat' first
    | (with_reducible assumption)
    | ((with_reducible apply Sub.le hp); rfl)
    | (with_reducible apply kept_nextEntry)
    | (with_reducible apply kept_veFlags)

theorem kept_veLane {P : Parts} {s0 : State} (s : State) (t : Nat) (comp : Nat) (k : Nat) (x : Nat) (mask : Nat) (hk : Kept P s0 s) (hp : Sub 0x10000000008000 P) : Kept P s0 (veLane s t comp k x mask) := by
  unfold veLane; dsimp only
  repeat' first
    | (with_reducible assumption)
    | ((with_reducible apply Sub.le hp); rfl)
    | (with_reducible refine kept_ite ?_ ?_)
    | (with_reducible apply kept_draw_snd)
    | (with_reducible apply kept_updVe)

theorem kept_veCommit {P : Parts} {s0 : State} (s : State) (t : Nat) (comp : Nat) (early : Bool) (ws : List VW) (hk : Kept P s0 s) (hp : Sub 0x10000000008000 P) : Kept P s0 (veCommit s t comp early ws) := by
  unfold veCommit
  repeat' first
    | (with_reducible assumption)
    | ((with_reducible apply Sub.le hp); rfl)
    | (extract_lets +onlyGivenNames yk; refine (kept_some (P := P) (s0 := s0) yk ?_).elim (fun _ hyk => ?_); subst yk; rotate_left; rw [hyk.2]; have _ := hyk.1; clear hyk; clear yk; rotate_left)
    | (extract_lets +onlyGivenNames yk; clear_value yk; revert yk; intro _)
    | (with_reducible refine kept_foldl _ _ _ (fun _ _ _ => ?_) ?_)
    | (with_reducible refine kept_ite ?_ ?_)
    | (with_reducible apply kept_draw_snd)
    | (with_reducible apply kept_updVe)
    | (with_reducible apply kept_veLane)

theorem kept_veDo {P : Parts} {s0 : State} (s : State) (t : Nat) (issue : Nat) (comp : Nat) (reads : List (Nat × Nat)) (hit : Bool) (ws : List VW) (flags : Nat) (may : Nat) (hk : Kept P s0 s) (hp : Sub 0x10008000018001 P) : Kept P s0 (veDo s t issue comp reads hit ws flags may) := by
  unfold veDo
  repeat' first
    | (with_reducible assumption)
    | ((with_reducible apply Sub.le hp); rfl)
    | (extract_lets +onlyGivenNames yk; refine (kept_some (P := P) (s0 := s0) yk ?_).elim (fun _ hyk => ?_); subst yk; rotate_left; rw [hyk.2]; have _ := hyk.1; clear hyk; clear yk; rotate_left)
    | (extract_lets +onlyGivenNames yk; clear_value yk; revert yk; intro _)
    | (with_reducible refine kept_ite ?_ ?_)
    | (with_reducible apply kept_draw_snd)
    | (with_reducible apply kept_nextEntry)
    | (with_reducible apply kept_tileBite)
    | (with_reducible apply kept_veCommit)
    | (with_reducible apply kept_veFlags)
    | split

theorem kept_veMap {P : Parts} {s0 : State} (s : State) (t : Nat) (f : VReg) (w : Nat) (issue : Nat) (comp : Nat) (may : Nat) (eat : List Nat) (carry : List Nat) (g : Nat → Nat × Nat) (hk : Kept P s0 s) (hp : Sub 0x10008000018001 P) : Kept P s0 (veMap s t f w issue comp may eat carry g) := by
  unfold veMap
  repeat' first
    | (with_reducible assumption)
    | (extract_lets +onlyGivenNames yk; clear_value yk; revert yk; intro _)
    | (with_reducible apply kept_veDo)

theorem kept_veArith {P : Parts} {s0 : State} (s : State) (t : Nat) (op : AOp) (f : VReg) (hk : Kept P s0 s) (hp : Sub 0x10008000018001 P) : Kept P s0 (veArith s t op f) := by
  unfold veArith
  repeat' first
    | (with_reducible assumption)
    | (extract_lets +onlyGivenNames yk; clear_value yk; revert yk; intro _)
    | (with_reducible refine kept_ite ?_ ?_)
    | (with_reducible apply kept_veIllegal)
    | (with_reducible apply kept_veMap)

theorem kept_veBitwise {P : Parts} {s0 : State} (s : State) (t : Nat) (g : Nat → Nat → Nat) (f : VReg) (hk : Kept P s0 s) (hp : Sub 0x10008000018001 P) : Kept P s0 (veBitwise s t g f) := by
  unfold veBitwise
  repeat' first
    | (with_reducible assumption)
    | (extract_lets +onlyGivenNames yk; clear_value yk; revert yk; intro _)
    | (with_reducible apply kept_veMap)

theorem kept_veApprox {P : Parts} {s0 : State} (s : State) (t : Nat) (issue : Nat) (comp : Nat) (g : Nat → Nat × Nat) (f : VReg) (hk : Kept P s0 s) (hp : Sub 0x10008000018001 P) : Kept P s0 (veApprox s t issue comp g f) := by
  unfold veApprox
  repeat' first
    | (with_reducible assumption)
    | (extract_lets +onlyGivenNames yk; clear_value yk; revert yk; intro _)
    | (with_reducible refine kept_ite ?_ ?_)
    | (with_reducible apply kept_veIllegal)
    | (with_reducible apply kept_veMap)

theorem kept_veRnd {P : Parts} {s0 : State} (s : State) (t : Nat) (sel : Nat) (n : Nat) (hit : Bool) (hk : Kept P s0 s) (hp : Sub 0x1 P) : Kept P s0 (veRnd s t sel n hit).2 := by
  unfold veRnd
  repeat' first
    | (with_reducible assumption)
    | (extract_lets +onlyGivenNames yk; clear_value yk; revert yk; intro _)
    | (with_reducible apply kept_setReg)
    | split

theorem kept_veRnd_eq {P : Parts} {s0 : State} {x0} {tt} (s : State) (t : Nat) (sel : Nat) (n : Nat) (hit : Bool) (hk : Kept P s0 s) (hp : Sub 0x1 P) (he : veRnd s t sel n hit = (x0, tt)) : Kept P s0 tt := by
  have g := kept_veRnd s t sel n hit hk hp
  rw [he] at g; exact g

theorem kept_veCvt {P : Parts} {s0 : State} (s : State) (t : Nat) (f : VReg) (hk : Kept P s0 s) (hp : Sub 0x10008000018001 P) : Kept P s0 (veCvt s t f) := by
  unfold veCvt
  repeat' first
    | (with_reducible assumption)
    | ((with_reducible apply Sub.le hp); rfl)
    | (extract_lets +onlyGivenNames yk; clear_value yk; revert yk; intro _)
    | (with_reducible refine kept_ite ?_ ?_)
    | (with_reducible apply kept_veDo)
    | (with_reducible apply kept_veIllegal)
    | (with_reducible apply kept_veRnd)

theorem kept_veMxp {P : Parts} {s0 : State} (s : State) (t : Nat) (f : VReg) (hk : Kept P s0 s) (hp : Sub 0x10008000018001 P) : Kept P s0 (veMxp s t f) := by
  unfold veMxp
  repeat' first
    | (with_reducible assumption)
    | ((with_reducible apply Sub.le hp); rfl)
    | (extract_lets +onlyGivenNames yk; clear_value yk; revert yk; intro _)
    | (with_reducible refine kept_ite ?_ ?_)
    | (with_reducible apply kept_veDo)
    | (with_reducible apply kept_veIllegal)
    | (with_reducible apply kept_veRnd)

theorem kept_veRed {P : Parts} {s0 : State} (s : State) (t : Nat) (f : VReg) (hk : Kept P s0 s) (hp : Sub 0x10008000018001 P) : Kept P s0 (veRed s t f) := by
  unfold veRed
  repeat' first
    | (with_reducible assumption)
    | (extract_lets +onlyGivenNames yk; clear_value yk; revert yk; intro _)
    | (with_reducible refine kept_ite ?_ ?_)
    | (with_reducible apply kept_veDo)
    | (with_reducible apply kept_veIllegal)

theorem kept_veTrow {P : Parts} {s0 : State} (s : State) (t : Nat) (f : VReg) (hk : Kept P s0 s) (hp : Sub 0x10008000018001 P) : Kept P s0 (veTrow s t f) := by
  unfold veTrow
  repeat' first
    | (with_reducible assumption)
    | (extract_lets +onlyGivenNames yk; clear_value yk; revert yk; intro _)
    | (with_reducible refine kept_ite ?_ ?_)
    | (with_reducible apply kept_veDo)
    | (with_reducible apply kept_veIllegal)

theorem kept_veTcol {P : Parts} {s0 : State} (s : State) (t : Nat) (f : VReg) (hk : Kept P s0 s) (hp : Sub 0x10008000018001 P) : Kept P s0 (veTcol s t f) := by
  unfold veTcol
  repeat' first
    | (with_reducible assumption)
    | (extract_lets +onlyGivenNames yk; clear_value yk; revert yk; intro _)
    | (with_reducible refine kept_ite ?_ ?_)
    | (with_reducible apply kept_veDo)
    | (with_reducible apply kept_veIllegal)

theorem kept_vePerm {P : Parts} {s0 : State} (s : State) (t : Nat) (f : VReg) (hk : Kept P s0 s) (hp : Sub 0x10008000018001 P) : Kept P s0 (vePerm s t f) := by
  unfold vePerm
  repeat' first
    | (with_reducible assumption)
    | (extract_lets +onlyGivenNames yk; clear_value yk; revert yk; intro _)
    | (with_reducible apply kept_veDo)

theorem kept_veInc {P : Parts} {s0 : State} (s : State) (t : Nat) (f : VMem) (hk : Kept P s0 s) (hp : Sub 0x8000 P) : Kept P s0 (veInc s t f) := by
  unfold veInc
  repeat' first
    | (with_reducible assumption)
    | (with_reducible refine kept_ite ?_ ?_)
    | (with_reducible apply kept_updVe)

theorem kept_lineRead {P : Parts} {s0 : State} (s : State) (k : Tile) (l : VLine) (hk : Kept P s0 s) (hp : Sub 0x10000000000000 P) : Kept P s0 (lineRead s k l).2.2 := by
  unfold lineRead
  repeat' first
    | (with_reducible assumption)
    | (extract_lets +onlyGivenNames yk; clear_value yk; revert yk; intro _)
    | (with_reducible refine kept_draw ?_ (by assumption) ?_)
    | split

theorem kept_lineRead_eq {P : Parts} {s0 : State} {x0} {x1} {tt} (s : State) (k : Tile) (l : VLine) (hk : Kept P s0 s) (hp : Sub 0x10000000000000 P) (he : lineRead s k l = (x0, x1, tt)) : Kept P s0 tt := by
  have g := kept_lineRead s k l hk hp
  rw [he] at g; exact g

theorem kept_veLoadReg {P : Parts} {s0 : State} (s : State) (t : Nat) (comp : Nat) (ls : List VLine) (hk : Kept P s0 s) (hp : Sub 0x10000000008001 P) : Kept P s0 (veLoadReg s t comp ls) := by
  unfold veLoadReg
  repeat' first
    | (with_reducible assumption)
    | ((with_reducible apply Sub.le hp); rfl)
    | (extract_lets +onlyGivenNames yk; clear_value yk; revert yk; intro _)
    | (with_reducible refine kept_fold_acc Prod.snd _ _ _ (fun _ _ _ => ?_) ?_)
    | (with_reducible apply kept_blur)
    | (with_reducible apply kept_countOob)
    | (with_reducible apply kept_lineRead)
    | (with_reducible apply kept_veCommit)
    | split

theorem kept_veLineCharge {P : Parts} {s0 : State} (s : State) (t : Nat) (ls : List VLine) (hk : Kept P s0 s) (hp : Sub 0x4000000000 P) : Kept P s0 (veLineCharge s t ls) := by
  unfold veLineCharge
  repeat' first
    | (with_reducible assumption)
    | (with_reducible apply kept_charge)

theorem kept_veLoad {P : Parts} {s0 : State} (s : State) (t : Nat) (issue : Nat) (f : VMem) (rows : List (Nat × List VLine)) (hk : Kept P s0 s) (hp : Sub 0x1000c000018001 P) : Kept P s0 (veLoad s t issue f rows) := by
  unfold veLoad
  repeat' first
    | (with_reducible assumption)
    | ((with_reducible apply Sub.le hp); rfl)
    | (extract_lets +onlyGivenNames yk; refine (kept_some (P := P) (s0 := s0) yk ?_).elim (fun _ hyk => ?_); subst yk; rotate_left; rw [hyk.2]; have _ := hyk.1; clear hyk; clear yk; rotate_left)
    | (with_reducible refine kept_foldl _ _ _ (fun _ _ _ => ?_) ?_)
    | (with_reducible apply kept_nextEntry)
    | (with_reducible apply kept_veInc)
    | (with_reducible apply kept_veLineCharge)
    | (with_reducible apply kept_veLoadReg)

theorem kept_lineBytes {P : Parts} {s0 : State} (early : Bool) (t : Nat) (s : State) (l : VLine) (hk : Kept P s0 s) (hp : Sub 0x10000000000001 P) : Kept P s0 (lineBytes early t s l).2 := by
  unfold lineBytes
  repeat' first
    | (with_reducible assumption)
    | ((with_reducible apply Sub.le hp); rfl)
    | (extract_lets +onlyGivenNames yk; clear_value yk; revert yk; intro _)
    | (with_reducible refine kept_fold_acc Prod.snd _ _ _ (fun _ _ _ => ?_) ?_)
    | (with_reducible apply kept_countOob)
    | (with_reducible apply kept_draw_snd)
    | split
    | (dsimp only)
    | (with_reducible refine kept_of_snd (by assumption) ?_)

theorem kept_lineBytes_eq {P : Parts} {s0 : State} {x0} {tt} (early : Bool) (t : Nat) (s : State) (l : VLine) (hk : Kept P s0 s) (hp : Sub 0x10000000000001 P) (he : lineBytes early t s l = (x0, tt)) : Kept P s0 tt := by
  have g := kept_lineBytes early t s l hk hp
  rw [he] at g; exact g

theorem kept_storeLines {P : Parts} {s0 : State} (early : Bool) (t : Nat) (s : State) (ls : List VLine) (hk : Kept P s0 s) (hp : Sub 0x10000000008001 P) : Kept P s0 (storeLines early t s ls) := by
  unfold storeLines
  repeat' first
    | (with_reducible assumption)
    | ((with_reducible apply Sub.le hp); rfl)
    | (extract_lets +onlyGivenNames yk; clear_value yk; revert yk; intro _)
    | (with_reducible refine kept_fold_acc Prod.snd _ _ _ (fun _ _ _ => ?_) ?_)
    | (with_reducible apply kept_addSoon)
    | (with_reducible apply kept_lineBytes)
    | (with_reducible refine kept_updTile_putLike _ _ _ _ (fun _ => rfl) ?_ ?_)

theorem kept_veStore {P : Parts} {s0 : State} (s : State) (t : Nat) (issue : Nat) (f : VMem) (ls : List (Nat × VLine)) (hk : Kept P s0 s) (hp : Sub 0x1000c000018001 P) : Kept P s0 (veStore s t issue f ls) := by
  unfold veStore
  repeat' first
    | (with_reducible assumption)
    | ((with_reducible apply Sub.le hp); rfl)
    | (extract_lets +onlyGivenNames yk; refine (kept_some (P := P) (s0 := s0) yk ?_).elim (fun _ hyk => ?_); subst yk; rotate_left; rw [hyk.2]; have _ := hyk.1; clear hyk; clear yk; rotate_left)
    | (extract_lets +onlyGivenNames yk; clear_value yk; revert yk; intro _)
    | (with_reducible refine kept_forEach _ _ _ (fun _ _ _ => ?_) ?_)
    | (with_reducible apply kept_nextEntry)
    | (with_reducible apply kept_storeLines)
    | (with_reducible apply kept_veInc)
    | (with_reducible apply kept_veLineCharge)

end Sys2Proof.Machine
end

