-- ==== Sys2Proof/Laws/KeptCewick.lean ====
section
/-! SUPPORT. `Kept` for the operations of Machine/Cewick.lean: one lemma per function that changes the state. -/
namespace Sys2Proof.Machine

theorem kept_cwRow {P : Parts} {s0 : State} (which : Nat) (t : Nat) (a : CwArg) (s : State) (r : Nat) (hk : Kept P s0 s) (hp : Sub 0x10008000008001 P) : Kept P s0 (cwRow which t a s r) := by
  unfold cwRow
  repeat' first
    | (with_reducible assumption)
    | ((with_reducible apply Sub.le hp); rfl)
    | (extract_lets +onlyGivenNames yk; refine (kept_some (P := P) (s0 := s0) yk ?_).elim (fun _ hyk => ?_); subst yk; rotate_left; rw [hyk.2]; have _ := hyk.1; clear hyk; clear yk; rotate_left)
    | (extract_lets +onlyGivenNames yk; clear_value yk; revert yk; intro _)
    | (with_reducible refine kept_ite ?_ ?_)
    | (with_reducible apply kept_blur)
    | (with_reducible apply kept_countOob)
    | (with_reducible apply kept_tileBite)
    | (with_reducible refine kept_updTile_put _ _ _ ?_ ?_)
    | (with_reducible apply kept_veFlags)

theorem kept_cwCall {P : Parts} {s0 : State} (s : State) (t : Nat) (which : Nat) (line : Nat) (hk : Kept P s0 s) (hp : Sub 0x1000c000008001 P) : Kept P s0 (cwCall s t which line) := by
  unfold cwCall
  repeat' first
    | (with_reducible assumption)
    | ((with_reducible apply Sub.le hp); rfl)
    | (extract_lets +onlyGivenNames yk; refine (kept_some (P := P) (s0 := s0) yk ?_).elim (fun _ hyk => ?_); subst yk; rotate_left; rw [hyk.2]; have _ := hyk.1; clear hyk; clear yk; rotate_left)
    | (extract_lets +onlyGivenNames yk; clear_value yk; revert yk; intro _)
    | (with_reducible refine kept_foldl _ _ _ (fun _ _ _ => ?_) ?_)
    | (with_reducible refine kept_ite ?_ ?_)
    | (with_reducible apply kept_blur)
    | (with_reducible apply kept_countOob)
    | (with_reducible apply kept_cwRow)
    | (with_reducible apply kept_tileBite)
    | (with_reducible apply kept_updStream)
    | (with_reducible apply kept_veBegin)
    | (with_reducible apply kept_veFlags)

theorem kept_cwEnd {P : Parts} {s0 : State} (s : State) (t : Nat) (hk : Kept P s0 s) (hp : Sub 0x10008000018001 P) : Kept P s0 (cwEnd s t) := by
  unfold cwEnd
  repeat' first
    | (with_reducible assumption)
    | ((with_reducible apply Sub.le hp); rfl)
    | (extract_lets +onlyGivenNames yk; refine (kept_some (P := P) (s0 := s0) yk ?_).elim (fun _ hyk => ?_); subst yk; rotate_left; rw [hyk.2]; have _ := hyk.1; clear hyk; clear yk; rotate_left)
    | (extract_lets +onlyGivenNames yk; clear_value yk; revert yk; intro _)
    | (with_reducible refine kept_fold_acc Prod.snd _ _ _ (fun _ _ _ => ?_) ?_)
    | (with_reducible apply kept_countOob)
    | (with_reducible apply kept_draw_snd)
    | (with_reducible apply kept_nextEntry)
    | (with_reducible apply kept_updStream)
    | (with_reducible refine kept_updTile_put _ _ _ ?_ ?_)
    | (with_reducible apply kept_updVe)
    | split

end Sys2Proof.Machine
end

