-- ==== Sys2Proof/Laws/KeptSlots.lean ====
section
/-! SUPPORT. `Kept` for the operations of Machine/Slots.lean: one lemma per function that changes the state. -/
namespace Sys2Proof.Machine

theorem kept_slotStart {P : Parts} {s0 : State} (s : State) (t : Nat) (c : Nat) (slot : Nat) (sram : Bool) (addr : Nat) (hk : Kept P s0 s) (hp : Sub 0x3000ce0001d201 P) : Kept P s0 (slotStart s t c slot sram addr) := by
  unfold slotStart
  repeat' first
    | (with_reducible assumption)
    | ((with_reducible apply Sub.le hp); rfl)
    | (extract_lets +onlyGivenNames yk; refine (kept_some (P := P) (s0 := s0) yk ?_).elim (fun _ hyk => ?_); subst yk; rotate_left; rw [hyk.2]; have _ := hyk.1; clear hyk; clear yk; rotate_left)
    | (with_reducible apply kept_beginWork)
    | (with_reducible apply kept_nextEntry)
    | (with_reducible apply kept_startChan)
    | (with_reducible refine kept_updTile_same _ _ _ (fun _ => rfl) ?_ ?_)

theorem kept_dstart {P : Parts} {s0 : State} (s : State) (t : Nat) (c : Nat) (hk : Kept P s0 s) (hp : Sub 0x3000ce0001d201 P) : Kept P s0 (dstart s t c) := by
  unfold dstart
  repeat' first
    | (with_reducible assumption)
    | (extract_lets +onlyGivenNames yk; clear_value yk; revert yk; intro _)
    | (with_reducible refine kept_ite ?_ ?_)
    | (with_reducible apply kept_slotStart)

theorem kept_drun {P : Parts} {s0 : State} (s : State) (t : Nat) (c : Nat) (slot : Nat) (hk : Kept P s0 s) (hp : Sub 0x3000ce0001d201 P) : Kept P s0 (drun s t c slot) := by
  unfold drun
  repeat' first
    | (with_reducible assumption)
    | ((with_reducible apply Sub.le hp); rfl)
    | (with_reducible refine kept_ite ?_ ?_)
    | (with_reducible apply kept_illegalSlot)
    | (with_reducible apply kept_latch)
    | (with_reducible apply kept_markLatched)
    | (with_reducible apply kept_slotStart)

theorem kept_execDstart {P : Parts} {s0 : State} (tile : Nat) (ch : BitVec 2) (s : State) (hk : Kept P s0 s) (hp : Sub 0x3000ce0001d201 P) : KeptR P s0 (execDstart tile ch s) := by
  unfold execDstart
  repeat' first
    | (with_reducible refine keptR_onObj (by assumption) ?_)
    | (with_reducible assumption)
    | ((with_reducible apply Sub.le hp); rfl)
    | (with_reducible apply kept_dstart)
    | (with_reducible refine kept_issue _ _ _ _ _ _ (fun _ _ _ => ?_) ?_ ?_)

theorem kept_execDrun {P : Parts} {s0 : State} (tile : Nat) (ch : BitVec 2) (slot : BitVec 3) (s : State) (hk : Kept P s0 s) (hp : Sub 0x3000ce0001d201 P) : KeptR P s0 (execDrun tile ch slot s) := by
  unfold execDrun
  repeat' first
    | (with_reducible refine keptR_onObj (by assumption) ?_)
    | (with_reducible assumption)
    | ((with_reducible apply Sub.le hp); rfl)
    | (with_reducible apply kept_drun)
    | (with_reducible refine kept_issue _ _ _ _ _ _ (fun _ _ _ => ?_) ?_ ?_)

theorem kept_execDmaCfgLoad {P : Parts} {s0 : State} (tile : Nat) (slot : BitVec 3) (line : BitVec 16) (s : State) (hk : Kept P s0 s) (hp : Sub 0x1000c000018001 P) : KeptR P s0 (execDmaCfgLoad tile slot line s) := by
  unfold execDmaCfgLoad
  repeat' first
    | (with_reducible refine keptR_onObj (by assumption) ?_)
    | (with_reducible assumption)
    | ((with_reducible apply Sub.le hp); rfl)
    | (with_reducible apply kept_cfgLoad)
    | (with_reducible refine kept_issue _ _ _ _ _ _ (fun _ _ _ => ?_) ?_ ?_)

theorem kept_execDmaSlotNop {P : Parts} {s0 : State} (tile : Nat) (n : Nat) (s : State) (hk : Kept P s0 s) (hp : Sub 0x10008000018001 P) : KeptR P s0 (execDmaSlotNop tile n s) := by
  unfold execDmaSlotNop
  repeat' first
    | (with_reducible refine keptR_onObj (by assumption) ?_)
    | (with_reducible assumption)
    | (with_reducible refine kept_ite ?_ ?_)
    | (with_reducible apply kept_illegalSlot)
    | (with_reducible apply kept_slotNop)
    | split

theorem kept_execDmaSlotWait {P : Parts} {s0 : State} (tile : Nat) (sem : BitVec 5) (k : BitVec 16) (s : State) (hk : Kept P s0 s) (hp : Sub 0x8000 P) : KeptR P s0 (execDmaSlotWait tile sem k s) := by
  unfold execDmaSlotWait
  repeat' first
    | (with_reducible refine keptR_onObj (by assumption) ?_)
    | (with_reducible assumption)
    | ((with_reducible apply Sub.le hp); rfl)
    | (with_reducible refine kept_issue _ _ _ _ _ _ (fun _ _ _ => ?_) ?_ ?_)
    | (with_reducible apply kept_slotWait)

theorem kept_execDmaSlotSig {P : Parts} {s0 : State} (tile : Nat) (sem : BitVec 5) (v : BitVec 16) (s : State) (hk : Kept P s0 s) (hp : Sub 0x10008000018001 P) : KeptR P s0 (execDmaSlotSig tile sem v s) := by
  unfold execDmaSlotSig
  repeat' first
    | (with_reducible refine keptR_onObj (by assumption) ?_)
    | (with_reducible assumption)
    | ((with_reducible apply Sub.le hp); rfl)
    | (with_reducible refine kept_issue _ _ _ _ _ _ (fun _ _ _ => ?_) ?_ ?_)
    | (with_reducible apply kept_slotSig)

theorem kept_execDmaSlotLoop {P : Parts} {s0 : State} (tile : Nat) (count : BitVec 24) (s : State) (hk : Kept P s0 s) (hp : Sub 0x10008000018001 P) : KeptR P s0 (execDmaSlotLoop tile count s) := by
  unfold execDmaSlotLoop
  repeat' first
    | (with_reducible refine keptR_onObj (by assumption) ?_)
    | (with_reducible assumption)
    | ((with_reducible apply Sub.le hp); rfl)
    | (with_reducible refine kept_issue _ _ _ _ _ _ (fun _ _ _ => ?_) ?_ ?_)
    | (with_reducible apply kept_slotLoop)

theorem kept_execDmaSlotEndloop {P : Parts} {s0 : State} (tile : Nat) (s : State) (hk : Kept P s0 s) (hp : Sub 0x10008000018001 P) : KeptR P s0 (execDmaSlotEndloop tile s) := by
  unfold execDmaSlotEndloop
  repeat' first
    | (with_reducible refine keptR_onObj (by assumption) ?_)
    | (with_reducible assumption)
    | ((with_reducible apply Sub.le hp); rfl)
    | (with_reducible refine kept_issue _ _ _ _ _ _ (fun _ _ _ => ?_) ?_ ?_)
    | (with_reducible apply kept_slotEndloop)

theorem kept_srlPiece {P : Parts} {s0 : State} (s : State) (t : Nat) (st : Nat) (ch : Nat) (what : Nat) (n : Nat) (a : Access) (hk : Kept P s0 s) (hp : Sub 0x3000ca0001d001 P) : Kept P s0 (srlPiece s t st ch what n a) := by
  unfold srlPiece
  repeat' first
    | (with_reducible assumption)
    | ((with_reducible apply Sub.le hp); rfl)
    | (extract_lets +onlyGivenNames yk; refine (kept_some (P := P) (s0 := s0) yk ?_).elim (fun _ hyk => ?_); subst yk; rotate_left; rw [hyk.2]; have _ := hyk.1; clear hyk; clear yk; rotate_left)
    | (with_reducible refine kept_arriveAccess _ _ _ _ _ ?_ ?_ (by assumption))
    | (with_reducible refine kept_updTile_same _ _ _ (fun _ => rfl) ?_ ?_)
    | split

theorem kept_srlSend {P : Parts} {s0 : State} (s : State) (t : Nat) (st : Nat) (ch : Nat) (what : Nat) (a : Access) (hk : Kept P s0 s) (hp : Sub 0x3000ca0001d001 P) : Kept P s0 (srlSend s t st ch what a).2 := by
  unfold srlSend
  repeat' first
    | (with_reducible assumption)
    | ((with_reducible apply Sub.le hp); rfl)
    | (extract_lets +onlyGivenNames yk; clear_value yk; revert yk; intro _)
    | (with_reducible apply kept_srlPiece)
    | (with_reducible refine kept_updTile_same _ _ _ (fun _ => rfl) ?_ ?_)

theorem kept_srlSend_eq {P : Parts} {s0 : State} {x0} {tt} (s : State) (t : Nat) (st : Nat) (ch : Nat) (what : Nat) (a : Access) (hk : Kept P s0 s) (hp : Sub 0x3000ca0001d001 P) (he : srlSend s t st ch what a = (x0, tt)) : Kept P s0 tt := by
  have g := kept_srlSend s t st ch what a hk hp
  rw [he] at g; exact g

theorem kept_endSrun {P : Parts} {s0 : State} (s : State) (t : Nat) (r : SrlRun) (hk : Kept P s0 s) (hp : Sub 0x3000ca0001d001 P) : Kept P s0 (endSrun s t r) := by
  unfold endSrun
  repeat' first
    | (with_reducible assumption)
    | ((with_reducible apply Sub.le hp); rfl)
    | (extract_lets +onlyGivenNames yk; refine (kept_some (P := P) (s0 := s0) yk ?_).elim (fun _ hyk => ?_); subst yk; rotate_left; rw [hyk.2]; have _ := hyk.1; clear hyk; clear yk; rotate_left)
    | (with_reducible refine kept_ite ?_ ?_)
    | (with_reducible apply kept_markLatched)
    | (with_reducible apply kept_sigDone)
    | (with_reducible refine kept_updTile_same _ _ _ (fun _ => rfl) ?_ ?_)
    | split

theorem kept_pumpSrun {P : Parts} {s0 : State} (n : Nat) (s : State) (t : Nat) (hk : Kept P s0 s) (hp : Sub 0x3000ca0001d001 P) : Kept P s0 (pumpSrun n s t) := by
  induction n generalizing s with
  | zero => exact hk
  | succ n ih =>
    simp only [pumpSrun]
    split
    · exact hk
    · split
      · exact kept_endSrun _ _ _ hk (hp.le rfl)
      · split
        · exact hk
        · split
          · exact hk
          · have h1 := kept_popAsf _ _ _ hk (hp.le rfl) (by assumption)
            split
            · exact ih _ (kept_updStream _ _ _ _ (kept_updTile_same _ _ _ (fun _ => rfl) (kept_recordErr _ _ _ _ h1 (hp.le rfl)) (hp.le rfl)) (hp.le rfl))
            · exact ih _ (kept_srlSend _ _ _ _ _ _ (kept_beginWork _ _ _ _ (kept_bumpF _ _ _ _ _ (kept_updStream _ _ _ _
                (kept_updTile_same _ _ _ (fun _ => rfl) (kept_updTile_same _ _ _ (fun _ => rfl) h1 (hp.le rfl)) (hp.le rfl)) (hp.le rfl))
                (hp.le rfl)) (hp.le rfl)) (hp.le rfl))

theorem kept_pump {P : Parts} {s0 : State} (s : State) (t : Nat) (hk : Kept P s0 s) (hp : Sub 0x3000ca0001d001 P) : Kept P s0 (pump s t) := by
  unfold pump
  repeat' first
    | (with_reducible assumption)
    | (with_reducible apply kept_pumpSrun)
    | split

theorem kept_srun {P : Parts} {s0 : State} (s : State) (t : Nat) (slot : Nat) (hk : Kept P s0 s) (hp : Sub 0x3000ca0001d001 P) : Kept P s0 (srun s t slot) := by
  unfold srun
  repeat' first
    | (with_reducible assumption)
    | ((with_reducible apply Sub.le hp); rfl)
    | (extract_lets +onlyGivenNames yk; refine (kept_some (P := P) (s0 := s0) yk ?_).elim (fun _ hyk => ?_); subst yk; rotate_left; rw [hyk.2]; have _ := hyk.1; clear hyk; clear yk; rotate_left)
    | (with_reducible refine kept_ite ?_ ?_)
    | (with_reducible apply kept_illegalSlot)
    | (with_reducible apply kept_latch)
    | (with_reducible apply kept_nextEntry)
    | (with_reducible apply kept_pump)
    | (with_reducible apply kept_setF)
    | (with_reducible refine kept_updTile_same _ _ _ (fun _ => rfl) ?_ ?_)

theorem kept_swr {P : Parts} {s0 : State} (s : State) (t : Nat) (w : W64) (hk : Kept P s0 s) (hp : Sub 0x3000ca0001d001 P) : Kept P s0 (swr s t w) := by
  unfold swr
  repeat' first
    | (with_reducible assumption)
    | ((with_reducible apply Sub.le hp); rfl)
    | (extract_lets +onlyGivenNames yk; clear_value yk; revert yk; intro _)
    | (with_reducible refine kept_forEach _ _ _ (fun _ _ _ => ?_) ?_)
    | (with_reducible refine kept_ite ?_ ?_)
    | (with_reducible apply kept_beginWork)
    | (with_reducible apply kept_blur)
    | (with_reducible apply kept_charge)
    | (with_reducible apply kept_illegalSlot)
    | (with_reducible apply kept_nextEntry)
    | (with_reducible apply kept_srlPiece)
    | (with_reducible refine kept_updTile_same _ _ _ (fun _ => rfl) ?_ ?_)

theorem kept_srd {P : Parts} {s0 : State} (s : State) (t : Nat) (w : W64) (hk : Kept P s0 s) (hp : Sub 0x3000ca0001d001 P) : Kept P s0 (srd s t w) := by
  unfold srd
  repeat' first
    | (with_reducible assumption)
    | ((with_reducible apply Sub.le hp); rfl)
    | (extract_lets +onlyGivenNames yk; refine (kept_some (P := P) (s0 := s0) yk ?_).elim (fun _ hyk => ?_); subst yk; rotate_left; rw [hyk.2]; have _ := hyk.1; clear hyk; clear yk; rotate_left)
    | (extract_lets +onlyGivenNames yk; clear_value yk; revert yk; intro _)
    | (with_reducible refine kept_forEach _ _ _ (fun _ _ _ => ?_) ?_)
    | (with_reducible refine kept_ite ?_ ?_)
    | (with_reducible apply kept_beginWork)
    | (with_reducible apply kept_illegalSlot)
    | (with_reducible apply kept_nextEntry)
    | (with_reducible apply kept_srlPiece)
    | (with_reducible refine kept_updTile_same _ _ _ (fun _ => rfl) ?_ ?_)

theorem kept_poll {P : Parts} {s0 : State} (s : State) (t : Nat) (hk : Kept P s0 s) (hp : Sub 0x3000ca0001d001 P) : Kept P s0 (poll s t) := by
  unfold poll
  repeat' first
    | (with_reducible assumption)
    | (with_reducible refine kept_ite ?_ ?_)
    | (with_reducible apply kept_srlSend)
    | split

theorem kept_swait {P : Parts} {s0 : State} (s : State) (t : Nat) (st : Nat) (ch : Nat) (slot : Nat) (mask : Nat) (hk : Kept P s0 s) (hp : Sub 0x3000ca0001d001 P) : Kept P s0 (swait s t st ch slot mask) := by
  unfold swait
  repeat' first
    | (with_reducible assumption)
    | ((with_reducible apply Sub.le hp); rfl)
    | (with_reducible refine kept_ite ?_ ?_)
    | (with_reducible apply kept_illegalSlot)
    | (with_reducible refine kept_issue _ _ _ _ _ _ (fun _ _ _ => ?_) ?_ ?_)
    | (with_reducible apply kept_poll)
    | (with_reducible apply kept_updStream)
    | split

theorem kept_pollBack {P : Parts} {s0 : State} (s : State) (t : Nat) (n : Nat) (data : List Byte) (hk : Kept P s0 s) (hp : Sub 0x3000ca0001d001 P) : Kept P s0 (pollBack s t n data) := by
  unfold pollBack
  repeat' first
    | (with_reducible assumption)
    | ((with_reducible apply Sub.le hp); rfl)
    | (extract_lets +onlyGivenNames yk; clear_value yk; revert yk; intro _)
    | (with_reducible refine kept_ite ?_ ?_)
    | (with_reducible apply kept_nextEntry)
    | (with_reducible apply kept_updStream)
    | split

theorem kept_srlBack {P : Parts} {s0 : State} (s : State) (t : Nat) (hk : Kept P s0 s) (hp : Sub 0x3000ca0001d001 P) : Kept P s0 (srlBack s t) := by
  unfold srlBack
  repeat' first
    | (with_reducible assumption)
    | ((with_reducible apply Sub.le hp); rfl)
    | (extract_lets +onlyGivenNames yk; refine (kept_some (P := P) (s0 := s0) yk ?_).elim (fun _ hyk => ?_); subst yk; rotate_left; rw [hyk.2]; have _ := hyk.1; clear hyk; clear yk; rotate_left)
    | (extract_lets +onlyGivenNames yk; clear_value yk; revert yk; intro _)
    | (with_reducible refine kept_ite ?_ ?_)
    | (with_reducible apply kept_charge)
    | (with_reducible apply kept_pollBack)
    | (with_reducible apply kept_pump)
    | (with_reducible apply kept_sigDone)
    | (with_reducible refine kept_updTile_put _ _ _ ?_ ?_)
    | (with_reducible refine kept_updTile_same _ _ _ (fun _ => rfl) ?_ ?_)
    | split

theorem kept_execSrlCfgLoad {P : Parts} {s0 : State} (tile : Nat) (slot : BitVec 3) (line : BitVec 16) (s : State) (hk : Kept P s0 s) (hp : Sub 0x1000c000018001 P) : KeptR P s0 (execSrlCfgLoad tile slot line s) := by
  unfold execSrlCfgLoad
  repeat' first
    | (with_reducible refine keptR_onObj (by assumption) ?_)
    | (with_reducible assumption)
    | ((with_reducible apply Sub.le hp); rfl)
    | (with_reducible apply kept_cfgLoad)
    | (with_reducible refine kept_issue _ _ _ _ _ _ (fun _ _ _ => ?_) ?_ ?_)

theorem kept_execSrun {P : Parts} {s0 : State} (tile : Nat) (slot : BitVec 3) (s : State) (hk : Kept P s0 s) (hp : Sub 0x3000ca0001d001 P) : KeptR P s0 (execSrun tile slot s) := by
  unfold execSrun
  repeat' first
    | (with_reducible refine keptR_onObj (by assumption) ?_)
    | (with_reducible assumption)
    | ((with_reducible apply Sub.le hp); rfl)
    | (with_reducible refine kept_issue _ _ _ _ _ _ (fun _ _ _ => ?_) ?_ ?_)
    | (with_reducible apply kept_srun)

theorem kept_execSwr {P : Parts} {s0 : State} (tile : Nat) (stack : BitVec 5) (ch : BitVec 5) (pa : BitVec 9) (n : BitVec 5) (line : BitVec 16) (s : State) (hk : Kept P s0 s) (hp : Sub 0x3000ca0001d001 P) : KeptR P s0 (execSwr tile stack ch pa n line s) := by
  unfold execSwr
  repeat' first
    | (with_reducible refine keptR_onObj (by assumption) ?_)
    | (with_reducible assumption)
    | ((with_reducible apply Sub.le hp); rfl)
    | (with_reducible refine kept_issue _ _ _ _ _ _ (fun _ _ _ => ?_) ?_ ?_)
    | (with_reducible apply kept_swr)

theorem kept_execSrd {P : Parts} {s0 : State} (tile : Nat) (stack : BitVec 5) (ch : BitVec 5) (pa : BitVec 9) (n : BitVec 5) (line : BitVec 16) (s : State) (hk : Kept P s0 s) (hp : Sub 0x3000ca0001d001 P) : KeptR P s0 (execSrd tile stack ch pa n line s) := by
  unfold execSrd
  repeat' first
    | (with_reducible refine keptR_onObj (by assumption) ?_)
    | (with_reducible assumption)
    | ((with_reducible apply Sub.le hp); rfl)
    | (with_reducible refine kept_issue _ _ _ _ _ _ (fun _ _ _ => ?_) ?_ ?_)
    | (with_reducible apply kept_srd)

theorem kept_execSwait {P : Parts} {s0 : State} (tile : Nat) (stack : BitVec 5) (ch : BitVec 5) (slot : BitVec 3) (mask : BitVec 16) (s : State) (hk : Kept P s0 s) (hp : Sub 0x3000ca0001d001 P) : KeptR P s0 (execSwait tile stack ch slot mask s) := by
  unfold execSwait
  repeat' first
    | (with_reducible refine keptR_onObj (by assumption) ?_)
    | (with_reducible assumption)
    | (with_reducible apply kept_swait)

theorem kept_execSrlSlotNop {P : Parts} {s0 : State} (tile : Nat) (n : Nat) (s : State) (hk : Kept P s0 s) (hp : Sub 0x10008000018001 P) : KeptR P s0 (execSrlSlotNop tile n s) := by
  unfold execSrlSlotNop
  repeat' first
    | (with_reducible refine keptR_onObj (by assumption) ?_)
    | (with_reducible assumption)
    | (with_reducible refine kept_ite ?_ ?_)
    | (with_reducible apply kept_illegalSlot)
    | (with_reducible apply kept_slotNop)
    | split

theorem kept_execSrlSlotWait {P : Parts} {s0 : State} (tile : Nat) (sem : BitVec 5) (k : BitVec 16) (s : State) (hk : Kept P s0 s) (hp : Sub 0x8000 P) : KeptR P s0 (execSrlSlotWait tile sem k s) := by
  unfold execSrlSlotWait
  repeat' first
    | (with_reducible refine keptR_onObj (by assumption) ?_)
    | (with_reducible assumption)
    | ((with_reducible apply Sub.le hp); rfl)
    | (with_reducible refine kept_issue _ _ _ _ _ _ (fun _ _ _ => ?_) ?_ ?_)
    | (with_reducible apply kept_slotWait)

theorem kept_execSrlSlotSig {P : Parts} {s0 : State} (tile : Nat) (sem : BitVec 5) (v : BitVec 16) (s : State) (hk : Kept P s0 s) (hp : Sub 0x10008000018001 P) : KeptR P s0 (execSrlSlotSig tile sem v s) := by
  unfold execSrlSlotSig
  repeat' first
    | (with_reducible refine keptR_onObj (by assumption) ?_)
    | (with_reducible assumption)
    | ((with_reducible apply Sub.le hp); rfl)
    | (with_reducible refine kept_issue _ _ _ _ _ _ (fun _ _ _ => ?_) ?_ ?_)
    | (with_reducible apply kept_slotSig)

theorem kept_execSrlSlotLoop {P : Parts} {s0 : State} (tile : Nat) (count : Word) (s : State) (hk : Kept P s0 s) (hp : Sub 0x10008000018001 P) : KeptR P s0 (execSrlSlotLoop tile count s) := by
  unfold execSrlSlotLoop
  repeat' first
    | (with_reducible refine keptR_onObj (by assumption) ?_)
    | (with_reducible assumption)
    | ((with_reducible apply Sub.le hp); rfl)
    | (with_reducible refine kept_issue _ _ _ _ _ _ (fun _ _ _ => ?_) ?_ ?_)
    | (with_reducible apply kept_slotLoop)

theorem kept_execSrlSlotEndloop {P : Parts} {s0 : State} (tile : Nat) (s : State) (hk : Kept P s0 s) (hp : Sub 0x10008000018001 P) : KeptR P s0 (execSrlSlotEndloop tile s) := by
  unfold execSrlSlotEndloop
  repeat' first
    | (with_reducible refine keptR_onObj (by assumption) ?_)
    | (with_reducible assumption)
    | ((with_reducible apply Sub.le hp); rfl)
    | (with_reducible refine kept_issue _ _ _ _ _ _ (fun _ _ _ => ?_) ?_ ?_)
    | (with_reducible apply kept_slotEndloop)

theorem kept_execSrlAccessCompletion {P : Parts} {s0 : State} (tile : Nat) (s : State) (hk : Kept P s0 s) (hp : Sub 0x3000ca0001d001 P) : KeptR P s0 (execSrlAccessCompletion tile s) := by
  unfold execSrlAccessCompletion
  repeat' first
    | (with_reducible refine keptR_onObj (by assumption) ?_)
    | (with_reducible assumption)
    | (with_reducible apply kept_srlBack)

theorem kept_asfPush {P : Parts} {s0 : State} (s : State) (w : Writer) (t : Nat) (v : W64) (hk : Kept P s0 s) (hp : Sub 0x3000ca0001d001 P) : Kept P s0 (asfPush s w t v) := by
  unfold asfPush
  repeat' first
    | (with_reducible assumption)
    | ((with_reducible apply Sub.le hp); rfl)
    | (with_reducible refine kept_ite ?_ ?_)
    | (with_reducible apply kept_pump)
    | (with_reducible apply kept_recordErr)
    | (with_reducible apply kept_startPass)
    | (with_reducible refine kept_updTile_same _ _ _ (fun _ => rfl) ?_ ?_)
    | split

theorem kept_execAsfPush {P : Parts} {s0 : State} (w : Writer) (tile : Nat) (v : W64) (s : State) (hk : Kept P s0 s) (hp : Sub 0x3000ca0001d001 P) : KeptR P s0 (execAsfPush w tile v s) := by
  unfold execAsfPush
  repeat' first
    | (with_reducible refine keptR_onPage (by assumption) ?_ ?_)
    | (with_reducible assumption)
    | ((with_reducible apply Sub.le hp); rfl)
    | (with_reducible refine kept_ite ?_ ?_)
    | (with_reducible apply kept_asfPush)

theorem kept_execAsfWait {P : Parts} {s0 : State} (tile : Nat) (e : Eng) (s : State) (hk : Kept P s0 s) (hp : Sub 0x1 P) : KeptR P s0 (execAsfWait tile e s) := by
  unfold execAsfWait
  repeat' first
    | (with_reducible refine keptR_onObj (by assumption) ?_)
    | (with_reducible assumption)
    | (with_reducible refine kept_ite ?_ ?_)
    | (with_reducible apply kept_event)

theorem kept_semWrite {P : Parts} {s0 : State} (s : State) (t : Nat) (j : Nat) (v : W64) (hk : Kept P s0 s) (hp : Sub 0x1 P) : Kept P s0 (semWrite s t j v) := by
  unfold semWrite
  repeat' first
    | (with_reducible assumption)
    | (with_reducible refine kept_ite ?_ ?_)
    | (with_reducible apply kept_setReg)

theorem kept_execSemRegisterWrite {P : Parts} {s0 : State} (_w : Writer) (tile : Nat) (j : Nat) (v : W64) (s : State) (hk : Kept P s0 s) (hp : Sub 0x1 P) : KeptR P s0 (execSemRegisterWrite _w tile j v s) := by
  unfold execSemRegisterWrite
  repeat' first
    | (with_reducible refine keptR_onPage (by assumption) ?_ ?_)
    | (with_reducible assumption)
    | (with_reducible refine kept_ite ?_ ?_)
    | (with_reducible apply kept_semWrite)

end Sys2Proof.Machine
end

