-- ==== Sys2Proof/Laws/KeptSeqs.lean ====
section
/-! SUPPORT. `Kept` for the operations of Machine/Seqs.lean: one lemma per function that changes the state. -/
namespace Sys2Proof.Machine

theorem kept_setPhase {P : Parts} {s0 : State} (s : State) (d : Nat) (p : Nat) (hk : Kept P s0 s) (hp : Sub 0x1 P) : Kept P s0 (setPhase s d p) := by
  unfold setPhase
  repeat' first
    | (with_reducible assumption)
    | (with_reducible apply kept_setF)

theorem kept_setPc {P : Parts} {s0 : State} (s : State) (d : Nat) (pc : Nat) (lib : Bool) (hk : Kept P s0 s) (hp : Sub 0x10001 P) : Kept P s0 (setPc s d pc lib) := by
  unfold setPc
  repeat' first
    | (with_reducible assumption)
    | ((with_reducible apply Sub.le hp); rfl)
    | (extract_lets +onlyGivenNames yk; refine (kept_some (P := P) (s0 := s0) yk ?_).elim (fun _ hyk => ?_); subst yk; rotate_left; rw [hyk.2]; have _ := hyk.1; clear hyk; clear yk; rotate_left)
    | (extract_lets +onlyGivenNames yk; clear_value yk; revert yk; intro _)
    | (with_reducible apply kept_setB)
    | (with_reducible apply kept_setF)
    | (with_reducible apply kept_updSeq)

theorem kept_broadcast {P : Parts} {s0 : State} (s : State) (d : Nat) (w : LongWord) (hk : Kept P s0 s) (hp : Sub 0x10000 P) : Kept P s0 (broadcast s d w) := by
  unfold broadcast
  repeat' first
    | (with_reducible assumption)
    | (with_reducible refine kept_forEach _ _ _ (fun _ _ _ => ?_) ?_)
    | (with_reducible apply kept_updSeq)

theorem kept_deliverWord {P : Parts} {s0 : State} (s : State) (d : Nat) (hk : Kept P s0 s) (hp : Sub 0x10008000018001 P) : Kept P s0 (deliverWord s d) := by
  unfold deliverWord
  repeat' first
    | (with_reducible assumption)
    | ((with_reducible apply Sub.le hp); rfl)
    | (extract_lets +onlyGivenNames yk; refine (kept_some (P := P) (s0 := s0) yk ?_).elim (fun _ hyk => ?_); subst yk; rotate_left; rw [hyk.2]; have _ := hyk.1; clear hyk; clear yk; rotate_left)
    | (with_reducible refine kept_forEach _ _ _ (fun _ _ _ => ?_) ?_)
    | (with_reducible refine kept_ite ?_ ?_)
    | (with_reducible apply kept_reachEntry)
    | (with_reducible apply kept_updSeq)
    | (with_reducible apply kept_updStream)
    | split

theorem kept_endFetch {P : Parts} {s0 : State} (s : State) (d : Nat) (hk : Kept P s0 s) (hp : Sub 0x10000000010001 P) : Kept P s0 (endFetch s d) := by
  unfold endFetch
  repeat' first
    | (with_reducible assumption)
    | ((with_reducible apply Sub.le hp); rfl)
    | (with_reducible apply kept_setPhase)
    | (with_reducible apply kept_trace)

theorem kept_badCall {P : Parts} {s0 : State} (s : State) (d : Nat) (hk : Kept P s0 s) (hp : Sub 0x10000000010001 P) : Kept P s0 (badCall s d) := by
  unfold badCall
  repeat' first
    | (with_reducible assumption)
    | (with_reducible apply kept_endFetch)
    | (with_reducible apply kept_seqErr)

theorem kept_fetchEcc {P : Parts} {s0 : State} (s : State) (d : Nat) (corrected : Nat) (uncorrectable : Bool) (hk : Kept P s0 s) (hp : Sub 0x10008000010001 P) : Kept P s0 (fetchEcc s d corrected uncorrectable) := by
  unfold fetchEcc
  repeat' first
    | (with_reducible assumption)
    | ((with_reducible apply Sub.le hp); rfl)
    | (extract_lets +onlyGivenNames yk; refine (kept_some (P := P) (s0 := s0) yk ?_).elim (fun _ hyk => ?_); subst yk; rotate_left; rw [hyk.2]; have _ := hyk.1; clear hyk; clear yk; rotate_left)
    | (with_reducible refine kept_ite ?_ ?_)
    | (with_reducible apply kept_bite)
    | (with_reducible apply kept_bumpF)
    | (with_reducible apply kept_recordErr)
    | (with_reducible apply kept_seqErr)

theorem kept_fetchWord {P : Parts} {s0 : State} (s : State) (d : Nat) (corrected : Nat) (uncorrectable : Bool) (hk : Kept P s0 s) (hp : Sub 0x10008000010001 P) : Kept P s0 (fetchWord s d corrected uncorrectable) := by
  unfold fetchWord
  repeat' first
    | (with_reducible assumption)
    | ((with_reducible apply Sub.le hp); rfl)
    | (extract_lets +onlyGivenNames yk; refine (kept_some (P := P) (s0 := s0) yk ?_).elim (fun _ hyk => ?_); subst yk; rotate_left; rw [hyk.2]; have _ := hyk.1; clear hyk; clear yk; rotate_left)
    | (extract_lets +onlyGivenNames yk; clear_value yk; revert yk; intro _)
    | (with_reducible refine kept_ite ?_ ?_)
    | (with_reducible apply kept_broadcast)
    | (with_reducible apply kept_bumpF)
    | (with_reducible apply kept_endFetch)
    | (with_reducible apply kept_event)
    | (with_reducible apply kept_fetchEcc)
    | (with_reducible apply kept_seqErr)
    | (with_reducible apply kept_setB)
    | (with_reducible apply kept_setPc)
    | (with_reducible apply kept_setPhase)
    | (with_reducible apply kept_trace)
    | (with_reducible apply kept_updSeq)
    | split

theorem kept_ctlDo {P : Parts} {s0 : State} (s : State) (d op : Nat) (fits : Nat → Bool) (f : State → LongWord → Nat → State)
    (hf : ∀ s w n, Kept P s0 s → Kept P s0 (f s w n)) (hk : Kept P s0 s) (hp : Sub 0x10000 P) : Kept P s0 (ctlDo s d op fits f) := by
  unfold ctlDo
  split
  · split
    · split
      · exact hf _ _ _ (kept_updSeq _ _ _ hk (hp.le rfl))
      · exact hk
    · exact hk
  · exact hk

theorem kept_badCtl {P : Parts} {s0 : State} (s : State) (d : Nat) (w : LongWord) (hk : Kept P s0 s) (hp : Sub 0x10000000010001 P) : Kept P s0 (badCtl s d w) := by
  unfold badCtl
  repeat' first
    | (with_reducible assumption)
    | ((with_reducible apply Sub.le hp); rfl)
    | (with_reducible apply kept_broadcast)
    | (with_reducible apply kept_seqErr)

theorem kept_ctlNop {P : Parts} {s0 : State} (s : State) (d : Nat) (hk : Kept P s0 s) (hp : Sub 0x10000000010001 P) : Kept P s0 (ctlNop s d) := by
  unfold ctlNop
  repeat' first
    | (with_reducible assumption)
    | ((with_reducible apply Sub.le hp); rfl)
    | (extract_lets +onlyGivenNames yk; refine (kept_some (P := P) (s0 := s0) yk ?_).elim (fun _ hyk => ?_); subst yk; rotate_left; rw [hyk.2]; have _ := hyk.1; clear hyk; clear yk; rotate_left)
    | (with_reducible refine kept_ite ?_ ?_)
    | (with_reducible apply kept_badCtl)
    | (with_reducible apply kept_broadcast)
    | (with_reducible apply kept_updSeq)
    | split

theorem kept_toksLand {P : Parts} {s0 : State} (s : State) (d : Nat) (hk : Kept P s0 s) (hp : Sub 0x40010001 P) : Kept P s0 (toksLand s d) := by
  unfold toksLand
  repeat' first
    | (with_reducible assumption)
    | ((with_reducible apply Sub.le hp); rfl)
    | (with_reducible refine kept_ite ?_ ?_)
    | (with_reducible apply kept_syncAdd)
    | (with_reducible apply kept_updSeq)
    | split

theorem kept_trySwitch {P : Parts} {s0 : State} (s : State) (d : Nat) (hk : Kept P s0 s) (hp : Sub 0x10000000010001 P) : Kept P s0 (trySwitch s d) := by
  unfold trySwitch
  repeat' first
    | (with_reducible assumption)
    | ((with_reducible apply Sub.le hp); rfl)
    | (extract_lets +onlyGivenNames yk; refine (kept_some (P := P) (s0 := s0) yk ?_).elim (fun _ hyk => ?_); subst yk; rotate_left; rw [hyk.2]; have _ := hyk.1; clear hyk; clear yk; rotate_left)
    | (extract_lets +onlyGivenNames yk; clear_value yk; revert yk; intro _)
    | (with_reducible refine kept_ite ?_ ?_)
    | (with_reducible apply kept_event)
    | (with_reducible apply kept_setF)
    | (with_reducible apply kept_setPc)
    | (with_reducible apply kept_setPhase)
    | (with_reducible apply kept_trace)
    | (with_reducible apply kept_updSeq)
    | split

theorem kept_seqStart {P : Parts} {s0 : State} (s : State) (d : Nat) (hk : Kept P s0 s) (hp : Sub 0x10003000010001 P) : Kept P s0 (seqStart s d) := by
  unfold seqStart
  repeat' first
    | (with_reducible assumption)
    | ((with_reducible apply Sub.le hp); rfl)
    | (extract_lets +onlyGivenNames yk; refine (kept_some (P := P) (s0 := s0) yk ?_).elim (fun _ hyk => ?_); subst yk; rotate_left; rw [hyk.2]; have _ := hyk.1; clear hyk; clear yk; rotate_left)
    | (extract_lets +onlyGivenNames yk; clear_value yk; revert yk; intro _)
    | (with_reducible refine kept_ite ?_ ?_)
    | (with_reducible apply kept_event)
    | (with_reducible apply kept_planStart)
    | (with_reducible apply kept_seqErr)
    | (with_reducible apply kept_setF)
    | (with_reducible apply kept_setPc)
    | (with_reducible apply kept_setPhase)
    | (with_reducible apply kept_trace)
    | (with_reducible apply kept_updSeq)

theorem kept_seqStop {P : Parts} {s0 : State} (s : State) (d : Nat) (hk : Kept P s0 s) (hp : Sub 0x10000000010001 P) : Kept P s0 (seqStop s d) := by
  unfold seqStop
  repeat' first
    | (with_reducible assumption)
    | ((with_reducible apply Sub.le hp); rfl)
    | (with_reducible refine kept_ite ?_ ?_)
    | (with_reducible apply kept_endFetch)
    | (with_reducible apply kept_updSeq)

theorem kept_seqRests {P : Parts} {s0 : State} (s : State) (d : Nat) (hk : Kept P s0 s) (hp : Sub 0x2000000001 P) : Kept P s0 (seqRests s d) := by
  unfold seqRests
  repeat' first
    | (with_reducible assumption)
    | ((with_reducible apply Sub.le hp); rfl)
    | (extract_lets +onlyGivenNames yk; refine (kept_some (P := P) (s0 := s0) yk ?_).elim (fun _ hyk => ?_); subst yk; rotate_left; rw [hyk.2]; have _ := hyk.1; clear hyk; clear yk; rotate_left)
    | (extract_lets +onlyGivenNames yk; clear_value yk; revert yk; intro _)
    | (with_reducible refine kept_ite ?_ ?_)
    | (with_reducible apply kept_event)
    | (with_reducible apply kept_planMark)
    | (with_reducible apply kept_setPhase)

theorem kept_seqDrained {P : Parts} {s0 : State} (s : State) (d : Nat) (hk : Kept P s0 s) (hp : Sub 0x2000008001 P) : Kept P s0 (seqDrained s d) := by
  unfold seqDrained
  repeat' first
    | (with_reducible assumption)
    | ((with_reducible apply Sub.le hp); rfl)
    | (extract_lets +onlyGivenNames yk; clear_value yk; revert yk; intro _)
    | (with_reducible refine kept_forEach _ _ _ (fun _ _ _ => ?_) ?_)
    | (with_reducible refine kept_ite ?_ ?_)
    | (with_reducible apply kept_seqRests)
    | (with_reducible refine kept_updTile_same _ _ _ (fun _ => rfl) ?_ ?_)

theorem kept_execSeqStart {P : Parts} {s0 : State} (_w : Writer) (die : Nat) (v : W64) (s : State) (hk : Kept P s0 s) (hp : Sub 0x10003000010001 P) : KeptR P s0 (execSeqStart _w die v s) := by
  unfold execSeqStart
  repeat' first
    | (with_reducible refine keptR_onPage (by assumption) ?_ ?_)
    | (with_reducible assumption)
    | ((with_reducible apply Sub.le hp); rfl)
    | (with_reducible refine kept_ite ?_ ?_)
    | (with_reducible apply kept_seqStart)

theorem kept_execSeqStop {P : Parts} {s0 : State} (_w : Writer) (die : Nat) (v : W64) (s : State) (hk : Kept P s0 s) (hp : Sub 0x10000000010001 P) : KeptR P s0 (execSeqStop _w die v s) := by
  unfold execSeqStop
  repeat' first
    | (with_reducible refine keptR_onPage (by assumption) ?_ ?_)
    | (with_reducible assumption)
    | ((with_reducible apply Sub.le hp); rfl)
    | (with_reducible refine kept_ite ?_ ?_)
    | (with_reducible apply kept_seqStop)

theorem kept_execLongWordFetch {P : Parts} {s0 : State} (die : Nat) (corrected : Nat) (uncorrectable : Bool) (s : State) (hk : Kept P s0 s) (hp : Sub 0x10008000010001 P) : KeptR P s0 (execLongWordFetch die corrected uncorrectable s) := by
  unfold execLongWordFetch
  repeat' first
    | (with_reducible refine keptR_onObj (by assumption) ?_)
    | (with_reducible assumption)
    | (with_reducible apply kept_fetchWord)

theorem kept_execLongWordDelivery {P : Parts} {s0 : State} (die : Nat) (s : State) (hk : Kept P s0 s) (hp : Sub 0x10008000018001 P) : KeptR P s0 (execLongWordDelivery die s) := by
  unfold execLongWordDelivery
  repeat' first
    | (with_reducible refine keptR_onObj (by assumption) ?_)
    | (with_reducible assumption)
    | (with_reducible apply kept_deliverWord)

theorem kept_execCnop {P : Parts} {s0 : State} (die : Nat) (s : State) (hk : Kept P s0 s) (hp : Sub 0x10000000010001 P) : KeptR P s0 (execCnop die s) := by
  unfold execCnop
  repeat' first
    | (with_reducible refine keptR_onObj (by assumption) ?_)
    | (with_reducible assumption)
    | (with_reducible apply kept_ctlNop)

theorem kept_execAlign {P : Parts} {s0 : State} (die : Nat) (prime : BitVec 7) (s : State) (hk : Kept P s0 s) (hp : Sub 0x10000 P) : KeptR P s0 (execAlign die prime s) := by
  unfold execAlign
  repeat' first
    | (with_reducible refine keptR_onObj (by assumption) ?_)
    | (with_reducible assumption)
    | (with_reducible apply kept_broadcast)
    | (with_reducible refine kept_ctlDo _ _ _ _ _ (fun _ _ _ _ => ?_) ?_ ?_)

theorem kept_execAlignRelease {P : Parts} {s0 : State} (tile : Nat) (s : State) (hk : Kept P s0 s) (hp : Sub 0x10008000018001 P) : KeptR P s0 (execAlignRelease tile s) := by
  unfold execAlignRelease
  repeat' first
    | (with_reducible refine keptR_onObj (by assumption) ?_)
    | (with_reducible assumption)
    | ((with_reducible apply Sub.le hp); rfl)
    | (with_reducible refine kept_forEach _ _ _ (fun _ _ _ => ?_) ?_)
    | (with_reducible refine kept_ite ?_ ?_)
    | (with_reducible apply kept_nextEntry)
    | (with_reducible apply kept_updStream)

theorem kept_execTokw {P : Parts} {s0 : State} (die : Nat) (counter : BitVec 12) (k : BitVec 12) (s : State) (hk : Kept P s0 s) (hp : Sub 0x10000000010001 P) : KeptR P s0 (execTokw die counter k s) := by
  unfold execTokw
  repeat' first
    | (with_reducible refine keptR_onObj (by assumption) ?_)
    | (with_reducible assumption)
    | ((with_reducible apply Sub.le hp); rfl)
    | (extract_lets +onlyGivenNames yk; refine (kept_some (P := P) (s0 := s0) yk ?_).elim (fun _ hyk => ?_); subst yk; rotate_left; rw [hyk.2]; have _ := hyk.1; clear hyk; clear yk; rotate_left)
    | (with_reducible refine kept_ite ?_ ?_)
    | (with_reducible refine kept_ctlDo _ _ _ _ _ (fun _ _ _ _ => ?_) ?_ ?_)
    | (with_reducible apply kept_setPhase)
    | (with_reducible apply kept_trace)
    | (with_reducible apply kept_updSeq)

theorem kept_execTokwRelease {P : Parts} {s0 : State} (die : Nat) (s : State) (hk : Kept P s0 s) (hp : Sub 0x10000000010001 P) : KeptR P s0 (execTokwRelease die s) := by
  unfold execTokwRelease
  repeat' first
    | (with_reducible refine keptR_onObj (by assumption) ?_)
    | (with_reducible assumption)
    | ((with_reducible apply Sub.le hp); rfl)
    | (extract_lets +onlyGivenNames yk; refine (kept_some (P := P) (s0 := s0) yk ?_).elim (fun _ hyk => ?_); subst yk; rotate_left; rw [hyk.2]; have _ := hyk.1; clear hyk; clear yk; rotate_left)
    | (with_reducible refine kept_ite ?_ ?_)
    | (with_reducible apply kept_broadcast)
    | (with_reducible apply kept_setPhase)
    | (with_reducible apply kept_trace)
    | (with_reducible apply kept_updSeq)
    | split

theorem kept_execToks {P : Parts} {s0 : State} (die : Nat) (counter : BitVec 12) (v : BitVec 12) (s : State) (hk : Kept P s0 s) (hp : Sub 0x10000000010001 P) : KeptR P s0 (execToks die counter v s) := by
  unfold execToks
  repeat' first
    | (with_reducible refine keptR_onObj (by assumption) ?_)
    | (with_reducible assumption)
    | ((with_reducible apply Sub.le hp); rfl)
    | (extract_lets +onlyGivenNames yk; refine (kept_some (P := P) (s0 := s0) yk ?_).elim (fun _ hyk => ?_); subst yk; rotate_left; rw [hyk.2]; have _ := hyk.1; clear hyk; clear yk; rotate_left)
    | (extract_lets +onlyGivenNames yk; clear_value yk; revert yk; intro _)
    | (with_reducible refine kept_ite ?_ ?_)
    | (with_reducible apply kept_broadcast)
    | (with_reducible refine kept_ctlDo _ _ _ _ _ (fun _ _ _ _ => ?_) ?_ ?_)
    | (with_reducible apply kept_trace)
    | (with_reducible apply kept_updSeq)

theorem kept_execToksAdd {P : Parts} {s0 : State} (die : Nat) (s : State) (hk : Kept P s0 s) (hp : Sub 0x40010001 P) : KeptR P s0 (execToksAdd die s) := by
  unfold execToksAdd
  repeat' first
    | (with_reducible refine keptR_onObj (by assumption) ?_)
    | (with_reducible assumption)
    | (with_reducible apply kept_toksLand)

theorem kept_execCall {P : Parts} {s0 : State} (die : Nat) (routine : BitVec 8) (s : State) (hk : Kept P s0 s) (hp : Sub 0x10000000010001 P) : KeptR P s0 (execCall die routine s) := by
  unfold execCall
  repeat' first
    | (with_reducible refine keptR_onObj (by assumption) ?_)
    | (with_reducible assumption)
    | ((with_reducible apply Sub.le hp); rfl)
    | (extract_lets +onlyGivenNames yk; refine (kept_some (P := P) (s0 := s0) yk ?_).elim (fun _ hyk => ?_); subst yk; rotate_left; rw [hyk.2]; have _ := hyk.1; clear hyk; clear yk; rotate_left)
    | (extract_lets +onlyGivenNames yk; clear_value yk; revert yk; intro _)
    | (with_reducible refine kept_ite ?_ ?_)
    | (with_reducible apply kept_badCall)
    | (with_reducible apply kept_broadcast)
    | (with_reducible apply kept_bumpF)
    | (with_reducible refine kept_ctlDo _ _ _ _ _ (fun _ _ _ _ => ?_) ?_ ?_)
    | (with_reducible apply kept_setPc)
    | (with_reducible apply kept_trace)
    | (with_reducible apply kept_updSeq)

theorem kept_execRet {P : Parts} {s0 : State} (die : Nat) (s : State) (hk : Kept P s0 s) (hp : Sub 0x10000000010001 P) : KeptR P s0 (execRet die s) := by
  unfold execRet
  repeat' first
    | (with_reducible refine keptR_onObj (by assumption) ?_)
    | (with_reducible assumption)
    | ((with_reducible apply Sub.le hp); rfl)
    | (extract_lets +onlyGivenNames yk; refine (kept_some (P := P) (s0 := s0) yk ?_).elim (fun _ hyk => ?_); subst yk; rotate_left; rw [hyk.2]; have _ := hyk.1; clear hyk; clear yk; rotate_left)
    | (with_reducible refine kept_ite ?_ ?_)
    | (with_reducible apply kept_badCall)
    | (with_reducible apply kept_broadcast)
    | (with_reducible refine kept_ctlDo _ _ _ _ _ (fun _ _ _ _ => ?_) ?_ ?_)
    | (with_reducible apply kept_setPc)
    | (with_reducible apply kept_trace)
    | (with_reducible apply kept_updSeq)
    | split

theorem kept_execEcall {P : Parts} {s0 : State} (die : Nat) (routine : BitVec 8) (argLine : BitVec 16) (s : State) (hk : Kept P s0 s) (hp : Sub 0x10000000010001 P) : KeptR P s0 (execEcall die routine argLine s) := by
  unfold execEcall
  repeat' first
    | (with_reducible refine keptR_onObj (by assumption) ?_)
    | (with_reducible assumption)
    | ((with_reducible apply Sub.le hp); rfl)
    | (with_reducible refine kept_ite ?_ ?_)
    | (with_reducible apply kept_broadcast)
    | (with_reducible apply kept_bumpF)
    | (with_reducible refine kept_ctlDo _ _ _ _ _ (fun _ _ _ _ => ?_) ?_ ?_)
    | (with_reducible apply kept_seqErr)
    | (with_reducible apply kept_trace)

theorem kept_execMark {P : Parts} {s0 : State} (die : Nat) (marker : BitVec 16) (s : State) (hk : Kept P s0 s) (hp : Sub 0x10002000010001 P) : KeptR P s0 (execMark die marker s) := by
  unfold execMark
  repeat' first
    | (with_reducible refine keptR_onObj (by assumption) ?_)
    | (with_reducible assumption)
    | ((with_reducible apply Sub.le hp); rfl)
    | (extract_lets +onlyGivenNames yk; refine (kept_some (P := P) (s0 := s0) yk ?_).elim (fun _ hyk => ?_); subst yk; rotate_left; rw [hyk.2]; have _ := hyk.1; clear hyk; clear yk; rotate_left)
    | (extract_lets +onlyGivenNames yk; clear_value yk; revert yk; intro _)
    | (with_reducible refine kept_ite ?_ ?_)
    | (with_reducible apply kept_broadcast)
    | (with_reducible refine kept_ctlDo _ _ _ _ _ (fun _ _ _ _ => ?_) ?_ ?_)
    | (with_reducible apply kept_planMark)
    | (with_reducible apply kept_trace)
    | (with_reducible apply kept_updSeq)

theorem kept_execSwitch {P : Parts} {s0 : State} (die : Nat) (entry : BitVec 18) (s : State) (hk : Kept P s0 s) (hp : Sub 0x10000000010001 P) : KeptR P s0 (execSwitch die entry s) := by
  unfold execSwitch
  repeat' first
    | (with_reducible refine keptR_onObj (by assumption) ?_)
    | (with_reducible assumption)
    | ((with_reducible apply Sub.le hp); rfl)
    | (extract_lets +onlyGivenNames yk; refine (kept_some (P := P) (s0 := s0) yk ?_).elim (fun _ hyk => ?_); subst yk; rotate_left; rw [hyk.2]; have _ := hyk.1; clear hyk; clear yk; rotate_left)
    | (with_reducible refine kept_ite ?_ ?_)
    | (with_reducible apply kept_badCall)
    | (with_reducible apply kept_broadcast)
    | (with_reducible refine kept_ctlDo _ _ _ _ _ (fun _ _ _ _ => ?_) ?_ ?_)
    | (with_reducible apply kept_setPhase)
    | (with_reducible apply kept_trySwitch)
    | (with_reducible apply kept_updSeq)

theorem kept_execSeqEnd {P : Parts} {s0 : State} (die : Nat) (s : State) (hk : Kept P s0 s) (hp : Sub 0x10000000010001 P) : KeptR P s0 (execSeqEnd die s) := by
  unfold execSeqEnd
  repeat' first
    | (with_reducible refine keptR_onObj (by assumption) ?_)
    | (with_reducible assumption)
    | ((with_reducible apply Sub.le hp); rfl)
    | (with_reducible apply kept_broadcast)
    | (with_reducible refine kept_ctlDo _ _ _ _ _ (fun _ _ _ _ => ?_) ?_ ?_)
    | (with_reducible apply kept_endFetch)

theorem kept_execSeqDrained {P : Parts} {s0 : State} (die : Nat) (s : State) (hk : Kept P s0 s) (hp : Sub 0x2000008001 P) : KeptR P s0 (execSeqDrained die s) := by
  unfold execSeqDrained
  repeat' first
    | (with_reducible refine keptR_onObj (by assumption) ?_)
    | (with_reducible assumption)
    | (with_reducible apply kept_seqDrained)

theorem kept_loadRefused {P : Parts} {s0 : State} (s : State) (d : Nat) (code : Nat) (hk : Kept P s0 s) (hp : Sub 0x1 P) : Kept P s0 (loadRefused s d code) := by
  unfold loadRefused
  repeat' first
    | (with_reducible assumption)
    | (extract_lets +onlyGivenNames yk; clear_value yk; revert yk; intro _)
    | (with_reducible apply kept_event)
    | (with_reducible apply kept_refusal)
    | (with_reducible apply kept_setF)

theorem kept_imemLoad {P : Parts} {s0 : State} (s : State) (d : Nat) (hk : Kept P s0 s) (hp : Sub 0x4c06013f09 P) : Kept P s0 (imemLoad s d) := by
  unfold imemLoad
  repeat' first
    | (with_reducible assumption)
    | ((with_reducible apply Sub.le hp); rfl)
    | (extract_lets +onlyGivenNames yk; refine (kept_some (P := P) (s0 := s0) yk ?_).elim (fun _ hyk => ?_); subst yk; rotate_left; rw [hyk.2]; have _ := hyk.1; clear hyk; clear yk; rotate_left)
    | (extract_lets +onlyGivenNames yk; clear_value yk; revert yk; intro _)
    | (with_reducible refine kept_ite ?_ ?_)
    | (with_reducible apply kept_ctlFetch)
    | (with_reducible apply kept_loadRefused)
    | (with_reducible apply kept_setB)
    | (with_reducible apply kept_setF)
    | (with_reducible apply kept_updSeq)

theorem kept_loadDone {P : Parts} {s0 : State} (s : State) (d : Nat) (hk : Kept P s0 s) (hp : Sub 0x1000cc06033f09 P) : Kept P s0 (loadDone s d) := by
  unfold loadDone
  repeat' first
    | (with_reducible assumption)
    | ((with_reducible apply Sub.le hp); rfl)
    | (extract_lets +onlyGivenNames yk; refine (kept_some (P := P) (s0 := s0) yk ?_).elim (fun _ hyk => ?_); subst yk; rotate_left; rw [hyk.2]; have _ := hyk.1; clear hyk; clear yk; rotate_left)
    | (extract_lets +onlyGivenNames yk; clear_value yk; revert yk; intro _)
    | (with_reducible refine kept_ite ?_ ?_)
    | (with_reducible apply kept_bite)
    | (with_reducible refine kept_ctlFetch_eq _ _ _ _ _ ?_ ?_ (by assumption))
    | (with_reducible apply kept_dropFetch)
    | (with_reducible apply kept_event)
    | (with_reducible apply kept_recordErr)
    | (with_reducible apply kept_setB)
    | (with_reducible apply kept_setF)
    | (with_reducible apply kept_trySwitch)
    | (with_reducible apply kept_updSeq)
    | split
    | (with_reducible refine kept_imem _ _ _ ?_ ?_)

theorem kept_bankWrite {P : Parts} {s0 : State} (s : State) (d : Nat) (v : W64) (hk : Kept P s0 s) (hp : Sub 0x1 P) : Kept P s0 (bankWrite s d v) := by
  unfold bankWrite
  repeat' first
    | (with_reducible assumption)
    | (extract_lets +onlyGivenNames yk; clear_value yk; revert yk; intro _)
    | (with_reducible refine kept_ite ?_ ?_)
    | (with_reducible apply kept_recordErr)
    | (with_reducible apply kept_setB)
    | (with_reducible apply kept_setF)

theorem kept_execImemLoad {P : Parts} {s0 : State} (_w : Writer) (die : Nat) (v : W64) (s : State) (hk : Kept P s0 s) (hp : Sub 0x4c06013f09 P) : KeptR P s0 (execImemLoad _w die v s) := by
  unfold execImemLoad
  repeat' first
    | (with_reducible refine keptR_onPage (by assumption) ?_ ?_)
    | (with_reducible assumption)
    | ((with_reducible apply Sub.le hp); rfl)
    | (with_reducible refine kept_ite ?_ ?_)
    | (with_reducible apply kept_imemLoad)

theorem kept_execLoadDone {P : Parts} {s0 : State} (die : Nat) (s : State) (hk : Kept P s0 s) (hp : Sub 0x1000cc06033f09 P) : KeptR P s0 (execLoadDone die s) := by
  unfold execLoadDone
  repeat' first
    | (with_reducible refine keptR_onObj (by assumption) ?_)
    | (with_reducible assumption)
    | (with_reducible apply kept_loadDone)

theorem kept_execBankActiveWrite {P : Parts} {s0 : State} (_w : Writer) (die : Nat) (v : W64) (s : State) (hk : Kept P s0 s) (hp : Sub 0x1 P) : KeptR P s0 (execBankActiveWrite _w die v s) := by
  unfold execBankActiveWrite
  repeat' first
    | (with_reducible refine keptR_onPage (by assumption) ?_ ?_)
    | (with_reducible assumption)
    | (with_reducible apply kept_bankWrite)

end Sys2Proof.Machine
end

