-- ==== Sys2Proof/Laws/KeptLedger.lean ====
section
/-! SUPPORT. `Kept` for the operations of Machine/Ledger.lean: one lemma per function that changes the state. -/
namespace Sys2Proof.Machine

theorem kept_setBalance {P : Parts} {s0 : State} (s : State) (b : Int) (hk : Kept P s0 s) (hp : Sub 0x1 P) : Kept P s0 (setBalance s b) := by
  unfold setBalance
  repeat' first
    | (with_reducible assumption)
    | (with_reducible apply kept_setF)

theorem kept_applyLimits {P : Parts} {s0 : State} (s : State) (st : Nat) (hk : Kept P s0 s) (hp : Sub 0x1 P) : Kept P s0 (applyLimits s st) := by
  unfold applyLimits
  repeat' first
    | (with_reducible assumption)
    | (extract_lets +onlyGivenNames yk; refine (kept_some (P := P) (s0 := s0) yk ?_).elim (fun _ hyk => ?_); subst yk; rotate_left; rw [hyk.2]; have _ := hyk.1; clear hyk; clear yk; rotate_left)
    | (extract_lets +onlyGivenNames yk; clear_value yk; revert yk; intro _)
    | (with_reducible apply kept_setF)

theorem kept_applyAll {P : Parts} {s0 : State} (s : State) (hk : Kept P s0 s) (hp : Sub 0x1 P) : Kept P s0 (applyAll s) := by
  unfold applyAll
  repeat' first
    | (with_reducible assumption)
    | (with_reducible refine kept_forEach _ _ _ (fun _ _ _ => ?_) ?_)
    | (with_reducible apply kept_applyLimits)

theorem kept_setTdiv {P : Parts} {s0 : State} (s : State) (n : Nat) (hk : Kept P s0 s) (hp : Sub 0x1 P) : Kept P s0 (setTdiv s n) := by
  unfold setTdiv
  repeat' first
    | (with_reducible assumption)
    | (extract_lets +onlyGivenNames yk; refine (kept_some (P := P) (s0 := s0) yk ?_).elim (fun _ hyk => ?_); subst yk; rotate_left; rw [hyk.2]; have _ := hyk.1; clear hyk; clear yk; rotate_left)
    | (with_reducible refine kept_forEach _ _ _ (fun _ _ _ => ?_) ?_)
    | (with_reducible refine kept_ite ?_ ?_)
    | (with_reducible apply kept_event)
    | (with_reducible apply kept_setF)

theorem kept_showPending {P : Parts} {s0 : State} (s : State) (hk : Kept P s0 s) (hp : Sub 0x1 P) : Kept P s0 (showPending s) := by
  unfold showPending
  repeat' first
    | (with_reducible assumption)
    | (extract_lets +onlyGivenNames yk; refine (kept_some (P := P) (s0 := s0) yk ?_).elim (fun _ hyk => ?_); subst yk; rotate_left; rw [hyk.2]; have _ := hyk.1; clear hyk; clear yk; rotate_left)
    | (with_reducible apply kept_setB)
    | (with_reducible apply kept_setF)

theorem kept_setClass {P : Parts} {s0 : State} (s : State) (c : Nat) (hk : Kept P s0 s) (hp : Sub 0x1 P) : Kept P s0 (setClass s c) := by
  unfold setClass
  repeat' first
    | (with_reducible assumption)
    | (extract_lets +onlyGivenNames yk; refine (kept_some (P := P) (s0 := s0) yk ?_).elim (fun _ hyk => ?_); subst yk; rotate_left; rw [hyk.2]; have _ := hyk.1; clear hyk; clear yk; rotate_left)
    | (with_reducible refine kept_ite ?_ ?_)
    | (with_reducible apply kept_event)
    | (with_reducible apply kept_setB)
    | (with_reducible apply kept_setBalance)
    | (with_reducible apply kept_setF)
    | (with_reducible apply kept_showPending)

theorem kept_changeClass {P : Parts} {s0 : State} (s : State) (c : Nat) (hk : Kept P s0 s) (hp : Sub 0x1 P) : Kept P s0 (changeClass s c) := by
  unfold changeClass
  repeat' first
    | (with_reducible assumption)
    | (extract_lets +onlyGivenNames yk; refine (kept_some (P := P) (s0 := s0) yk ?_).elim (fun _ hyk => ?_); subst yk; rotate_left; rw [hyk.2]; have _ := hyk.1; clear hyk; clear yk; rotate_left)
    | (with_reducible refine kept_ite ?_ ?_)
    | (with_reducible apply kept_event)
    | (with_reducible apply kept_setB)
    | (with_reducible apply kept_setClass)
    | (with_reducible apply kept_setF)
    | (with_reducible apply kept_showPending)

theorem kept_classWrite {P : Parts} {s0 : State} (s : State) (v : W64) (hk : Kept P s0 s) (hp : Sub 0x1 P) : Kept P s0 (classWrite s v) := by
  unfold classWrite
  repeat' first
    | (with_reducible assumption)
    | (extract_lets +onlyGivenNames yk; clear_value yk; revert yk; intro _)
    | (with_reducible refine kept_ite ?_ ?_)
    | (with_reducible apply kept_changeClass)
    | (with_reducible apply kept_recordErr)

theorem kept_ceilingCommitted {P : Parts} {s0 : State} (s : State) (c : Nat) (hk : Kept P s0 s) (hp : Sub 0x1 P) : Kept P s0 (ceilingCommitted s c) := by
  unfold ceilingCommitted
  repeat' first
    | (with_reducible assumption)
    | (extract_lets +onlyGivenNames yk; revert yk; intro _)
    | (with_reducible refine kept_ite ?_ ?_)
    | (with_reducible apply kept_changeClass)
    | (with_reducible apply kept_setF)

theorem kept_applyCaps {P : Parts} {s0 : State} (s : State) (hk : Kept P s0 s) (hp : Sub 0x4000000001 P) : Kept P s0 (applyCaps s) := by
  unfold applyCaps
  repeat' first
    | (with_reducible assumption)
    | ((with_reducible apply Sub.le hp); rfl)
    | (extract_lets +onlyGivenNames yk; refine (kept_some (P := P) (s0 := s0) yk ?_).elim (fun _ hyk => ?_); subst yk; rotate_left; rw [hyk.2]; have _ := hyk.1; clear hyk; clear yk; rotate_left)
    | (extract_lets +onlyGivenNames yk; clear_value yk; revert yk; intro _)
    | (with_reducible refine kept_ite ?_ ?_)
    | (with_reducible apply kept_applyAll)
    | (with_reducible apply kept_event)
    | (with_reducible apply kept_showPending)
    | ((with_reducible refine kept_mk 0x4000000000 ?_ ?_ ?_ ?_); rotate_left; rfl; (constructor <;> first | exact fun _ => rfl | exact fun h => absurd h (by decide)); apply Sub.le hp; rfl)

theorem kept_announce {P : Parts} {s0 : State} (s : State) (st : Nat) (on : Bool) (hk : Kept P s0 s) (hp : Sub 0x4000000001 P) : Kept P s0 (announce s st on) := by
  unfold announce
  repeat' first
    | (with_reducible assumption)
    | ((with_reducible apply Sub.le hp); rfl)
    | (extract_lets +onlyGivenNames yk; refine (kept_some (P := P) (s0 := s0) yk ?_).elim (fun _ hyk => ?_); subst yk; rotate_left; rw [hyk.2]; have _ := hyk.1; clear hyk; clear yk; rotate_left)
    | (extract_lets +onlyGivenNames yk; clear_value yk; revert yk; intro _)
    | (with_reducible refine kept_ite ?_ ?_)
    | (with_reducible apply kept_applyCaps)
    | (with_reducible apply kept_event)
    | (with_reducible apply kept_showPending)
    | ((with_reducible refine kept_mk 0x4000000000 ?_ ?_ ?_ ?_); rotate_left; rfl; (constructor <;> first | exact fun _ => rfl | exact fun h => absurd h (by decide)); apply Sub.le hp; rfl)

theorem kept_settleLedger {P : Parts} {s0 : State} (s : State) (hk : Kept P s0 s) (hp : Sub 0x4000000001 P) : Kept P s0 (settleLedger s) := by
  unfold settleLedger
  repeat' first
    | (with_reducible assumption)
    | ((with_reducible apply Sub.le hp); rfl)
    | (extract_lets +onlyGivenNames yk; refine (kept_some (P := P) (s0 := s0) yk ?_).elim (fun _ hyk => ?_); subst yk; rotate_left; rw [hyk.2]; have _ := hyk.1; clear hyk; clear yk; rotate_left)
    | (with_reducible refine kept_ite ?_ ?_)
    | (with_reducible apply kept_applyCaps)
    | (with_reducible apply kept_setClass)

theorem kept_hardRules {P : Parts} {s0 : State} (s : State) (hk : Kept P s0 s) (hp : Sub 0x1 P) : Kept P s0 (hardRules s) := by
  unfold hardRules
  repeat' first
    | (with_reducible assumption)
    | (extract_lets +onlyGivenNames yk; refine (kept_some (P := P) (s0 := s0) yk ?_).elim (fun _ hyk => ?_); subst yk; rotate_left; rw [hyk.2]; have _ := hyk.1; clear hyk; clear yk; rotate_left)
    | (extract_lets +onlyGivenNames yk; clear_value yk; revert yk; intro _)
    | (with_reducible refine kept_ite ?_ ?_)
    | (with_reducible apply kept_applyAll)
    | (with_reducible apply kept_bumpF)
    | (with_reducible apply kept_event)
    | (with_reducible apply kept_setB)
    | (with_reducible apply kept_setTdiv)

theorem kept_staticEnergy {P : Parts} {s0 : State} (s : State) (hk : Kept P s0 s) (hp : Sub 0x4000000000 P) : Kept P s0 (staticEnergy s) := by
  unfold staticEnergy
  repeat' first
    | (with_reducible assumption)
    | (extract_lets +onlyGivenNames yk; refine (kept_some (P := P) (s0 := s0) yk ?_).elim (fun _ hyk => ?_); subst yk; rotate_left; rw [hyk.2]; have _ := hyk.1; clear hyk; clear yk; rotate_left)
    | (with_reducible refine kept_forEach _ _ _ (fun _ _ _ => ?_) ?_)
    | (with_reducible refine kept_ite ?_ ?_)
    | (with_reducible apply kept_addEnergy)
    | (with_reducible apply kept_charge)

theorem kept_baseReport {P : Parts} {s0 : State} (s : State) (hk : Kept P s0 s) (hp : Sub 0x10004000000001 P) : Kept P s0 (baseReport s) := by
  unfold baseReport
  repeat' first
    | (with_reducible assumption)
    | ((with_reducible apply Sub.le hp); rfl)
    | (extract_lets +onlyGivenNames yk; refine (kept_some (P := P) (s0 := s0) yk ?_).elim (fun _ hyk => ?_); subst yk; rotate_left; rw [hyk.2]; have _ := hyk.1; clear hyk; clear yk; rotate_left)
    | (extract_lets +onlyGivenNames yk; clear_value yk; revert yk; intro _)
    | (with_reducible refine kept_ite ?_ ?_)
    | (with_reducible apply kept_draw_snd)
    | (with_reducible apply kept_setF)
    | ((with_reducible refine kept_mk 0x4000000000 ?_ ?_ ?_ ?_); rotate_left; rfl; (constructor <;> first | exact fun _ => rfl | exact fun h => absurd h (by decide)); apply Sub.le hp; rfl)

theorem kept_planClock {P : Parts} {s0 : State} (s : State) (hk : Kept P s0 s) (hp : Sub 0x1 P) : Kept P s0 (planClock s) := by
  unfold planClock
  repeat' first
    | (with_reducible assumption)
    | (with_reducible refine kept_ite ?_ ?_)
    | (with_reducible apply kept_bumpF)

theorem kept_clearing {P : Parts} {s0 : State} (s : State) (st : Nat) (hk : Kept P s0 s) (hp : Sub 0x1 P) : Kept P s0 (clearing s st) := by
  unfold clearing
  repeat' first
    | (with_reducible assumption)
    | (with_reducible refine kept_ite ?_ ?_)
    | (with_reducible apply kept_setF)

theorem kept_tick {P : Parts} {s0 : State} (s : State) (hk : Kept P s0 s) (hp : Sub 0x18004000000001 P) : Kept P s0 (tick s) := by
  unfold tick
  repeat' first
    | (with_reducible assumption)
    | ((with_reducible apply Sub.le hp); rfl)
    | (extract_lets +onlyGivenNames yk; refine (kept_some (P := P) (s0 := s0) yk ?_).elim (fun _ hyk => ?_); subst yk; rotate_left; rw [hyk.2]; have _ := hyk.1; clear hyk; clear yk; rotate_left)
    | (extract_lets +onlyGivenNames yk; clear_value yk; revert yk; intro _)
    | (with_reducible refine kept_forEach _ _ _ (fun _ _ _ => ?_) ?_)
    | (with_reducible refine kept_ite ?_ ?_)
    | (with_reducible apply kept_baseReport)
    | (with_reducible apply kept_bumpF)
    | (with_reducible apply kept_clearing)
    | (with_reducible apply kept_hardRules)
    | (with_reducible apply kept_planClock)
    | (with_reducible apply kept_setBalance)
    | (with_reducible apply kept_staticEnergy)
    | ((with_reducible refine kept_mk 0x8004000000000 ?_ ?_ ?_ ?_); rotate_left; rfl; (constructor <;> first | exact fun _ => rfl | exact fun h => absurd h (by decide)); apply Sub.le hp; rfl)

theorem kept_railReport {P : Parts} {s0 : State} (s : State) (d : Nat) (r : Nat) (mA : Nat) (mV : Nat) (hk : Kept P s0 s) (hp : Sub 0x4000000000 P) : Kept P s0 (railReport s d r mA mV) := by
  unfold railReport
  repeat' first
    | (with_reducible assumption)
    | (extract_lets +onlyGivenNames yk; clear_value yk; revert yk; intro _)
    | ((with_reducible refine kept_mk 0x4000000000 ?_ ?_ ?_ ?_); rotate_left; rfl; (constructor <;> first | exact fun _ => rfl | exact fun h => absurd h (by decide)); apply Sub.le hp; rfl)

theorem kept_calibrateRail {P : Parts} {s0 : State} (s : State) (d : Nat) (r : Nat) (hk : Kept P s0 s) (hp : Sub 0x4000000001 P) : Kept P s0 (calibrateRail s d r) := by
  unfold calibrateRail
  repeat' first
    | (with_reducible assumption)
    | ((with_reducible apply Sub.le hp); rfl)
    | (extract_lets +onlyGivenNames yk; refine (kept_some (P := P) (s0 := s0) yk ?_).elim (fun _ hyk => ?_); subst yk; rotate_left; rw [hyk.2]; have _ := hyk.1; clear hyk; clear yk; rotate_left)
    | (extract_lets +onlyGivenNames yk; clear_value yk; revert yk; intro _)
    | (with_reducible refine kept_ite ?_ ?_)
    | (with_reducible apply kept_bumpF)
    | (with_reducible apply kept_event)
    | (with_reducible apply kept_recordErr)
    | (with_reducible apply kept_setF)
    | split
    | ((with_reducible refine kept_mk 0x4000000000 ?_ ?_ ?_ ?_); rotate_left; rfl; (constructor <;> first | exact fun _ => rfl | exact fun h => absurd h (by decide)); apply Sub.le hp; rfl)

theorem kept_calibrate {P : Parts} {s0 : State} (s : State) (d : Nat) (hk : Kept P s0 s) (hp : Sub 0x4000000001 P) : Kept P s0 (calibrate s d) := by
  unfold calibrate
  repeat' first
    | (with_reducible assumption)
    | ((with_reducible apply Sub.le hp); rfl)
    | (with_reducible refine kept_forEach _ _ _ (fun _ _ _ => ?_) ?_)
    | (with_reducible apply kept_bumpF)
    | (with_reducible apply kept_calibrateRail)

theorem kept_goHot {P : Parts} {s0 : State} (s : State) (st : Nat) (hk : Kept P s0 s) (hp : Sub 0x4001 P) : Kept P s0 (goHot s st) := by
  unfold goHot
  repeat' first
    | (with_reducible assumption)
    | ((with_reducible apply Sub.le hp); rfl)
    | (extract_lets +onlyGivenNames yk; refine (kept_some (P := P) (s0 := s0) yk ?_).elim (fun _ hyk => ?_); subst yk; rotate_left; rw [hyk.2]; have _ := hyk.1; clear hyk; clear yk; rotate_left)
    | (with_reducible refine kept_forEach _ _ _ (fun _ _ _ => ?_) ?_)
    | (with_reducible refine kept_ite ?_ ?_)
    | (with_reducible apply kept_coolLost)
    | (with_reducible apply kept_setRate)
    | (with_reducible apply kept_signalCause)
    | split

theorem kept_sample {P : Parts} {s0 : State} (s : State) (st : Nat) (l : List Nat) (hk : Kept P s0 s) (hp : Sub 0x2000c800006009 P) : Kept P s0 (sample s st l) := by
  unfold sample
  repeat' first
    | (with_reducible assumption)
    | ((with_reducible apply Sub.le hp); rfl)
    | (extract_lets +onlyGivenNames yk; refine (kept_some (P := P) (s0 := s0) yk ?_).elim (fun _ hyk => ?_); subst yk; rotate_left; rw [hyk.2]; have _ := hyk.1; clear hyk; clear yk; rotate_left)
    | (extract_lets +onlyGivenNames yk; clear_value yk; revert yk; intro _)
    | (with_reducible refine kept_ite ?_ ?_)
    | (with_reducible apply kept_announce)
    | (with_reducible apply kept_cxlEvent)
    | (with_reducible apply kept_emit)
    | (with_reducible apply kept_pldm)
    | (with_reducible apply kept_event)
    | (with_reducible apply kept_goHot)
    | (with_reducible apply kept_maxF)
    | (with_reducible apply kept_raiseCause)
    | (with_reducible apply kept_recordErr)
    | (with_reducible apply kept_setF)
    | (with_reducible apply kept_updStack)

theorem kept_rearm {P : Parts} {s0 : State} (s : State) (st : Nat) (hk : Kept P s0 s) (hp : Sub 0x4000002001 P) : Kept P s0 (rearm s st) := by
  unfold rearm
  repeat' first
    | (with_reducible assumption)
    | ((with_reducible apply Sub.le hp); rfl)
    | (with_reducible refine kept_ite ?_ ?_)
    | (with_reducible apply kept_announce)
    | (with_reducible apply kept_updStack)

theorem kept_execTempSample {P : Parts} {s0 : State} (stack : Nat) (readings : List Nat) (s : State) (hk : Kept P s0 s) (hp : Sub 0x2000c800006009 P) : KeptR P s0 (execTempSample stack readings s) := by
  unfold execTempSample
  repeat' first
    | (with_reducible refine keptR_onObj (by assumption) ?_)
    | (with_reducible assumption)
    | (with_reducible apply kept_sample)

theorem kept_execWarnRearm {P : Parts} {s0 : State} (stack : Nat) (s : State) (hk : Kept P s0 s) (hp : Sub 0x4000002001 P) : KeptR P s0 (execWarnRearm stack s) := by
  unfold execWarnRearm
  repeat' first
    | (with_reducible refine keptR_onObj (by assumption) ?_)
    | (with_reducible assumption)
    | (with_reducible apply kept_rearm)

theorem kept_execRailReport {P : Parts} {s0 : State} (die : Nat) (rail : Nat) (mA : Nat) (mV : Nat) (s : State) (hk : Kept P s0 s) (hp : Sub 0x4000000000 P) : KeptR P s0 (execRailReport die rail mA mV s) := by
  unfold execRailReport
  repeat' first
    | (with_reducible refine keptR_onObj (by assumption) ?_)
    | (with_reducible assumption)
    | (with_reducible apply kept_railReport)

theorem kept_execCalibration {P : Parts} {s0 : State} (die : Nat) (s : State) (hk : Kept P s0 s) (hp : Sub 0x4000000001 P) : KeptR P s0 (execCalibration die s) := by
  unfold execCalibration
  repeat' first
    | (with_reducible refine keptR_onObj (by assumption) ?_)
    | (with_reducible assumption)
    | (with_reducible apply kept_calibrate)

theorem kept_execLedgClassWrite {P : Parts} {s0 : State} (_w : Writer) (v : W64) (s : State) (hk : Kept P s0 s) (hp : Sub 0x1 P) : KeptR P s0 (execLedgClassWrite _w v s) := by
  unfold execLedgClassWrite
  repeat' first
    | (with_reducible refine keptR_next ?_)
    | (with_reducible assumption)
    | (with_reducible apply kept_classWrite)

theorem kept_ceilingWrite {P : Parts} {s0 : State} (s : State) (w : Writer) (v : W64) (hk : Kept P s0 s) (hp : Sub 0x1000000000001 P) : Kept P s0 (ceilingWrite s w v) := by
  unfold ceilingWrite
  repeat' first
    | (with_reducible assumption)
    | (extract_lets +onlyGivenNames yk; clear_value yk; revert yk; intro _)
    | (with_reducible refine kept_ite ?_ ?_)
    | (with_reducible apply kept_bwAccept)

theorem kept_execLedgCeiling {P : Parts} {s0 : State} (w : Writer) (v : W64) (s : State) (hk : Kept P s0 s) (hp : Sub 0x1000000000001 P) : KeptR P s0 (execLedgCeiling w v s) := by
  unfold execLedgCeiling
  repeat' first
    | (with_reducible refine keptR_next ?_)
    | (with_reducible assumption)
    | (with_reducible apply kept_ceilingWrite)

end Sys2Proof.Machine
end

