-- ==== Sys2Proof/Laws/KeptVylith.lean ====
section
/-! SUPPORT. `Kept` for the operations of Machine/Vylith.lean: one lemma per function that changes the state. -/
namespace Sys2Proof.Machine

theorem kept_exhausted {P : Parts} {s0 : State} (s : State) (port : Nat) (hk : Kept P s0 s) (hp : Sub 0x8000000001 P) : Kept P s0 (exhausted s port) := by
  unfold exhausted
  repeat' first
    | (with_reducible assumption)
    | ((with_reducible apply Sub.le hp); rfl)
    | (extract_lets +onlyGivenNames yk; refine (kept_some (P := P) (s0 := s0) yk ?_).elim (fun _ hyk => ?_); subst yk; rotate_left; rw [hyk.2]; have _ := hyk.1; clear hyk; clear yk; rotate_left)
    | (extract_lets +onlyGivenNames yk; clear_value yk; revert yk; intro _)
    | (with_reducible apply kept_event)
    | (with_reducible apply kept_raiseCause)
    | (with_reducible apply kept_recordErr)
    | (with_reducible apply kept_setF)

theorem kept_startReplay {P : Parts} {s0 : State} (s : State) (port : Nat) (hk : Kept P s0 s) (hp : Sub 0x2000c020000001 P) : Kept P s0 (startReplay s port) := by
  unfold startReplay
  repeat' first
    | (with_reducible assumption)
    | ((with_reducible apply Sub.le hp); rfl)
    | (extract_lets +onlyGivenNames yk; refine (kept_some (P := P) (s0 := s0) yk ?_).elim (fun _ hyk => ?_); subst yk; rotate_left; rw [hyk.2]; have _ := hyk.1; clear hyk; clear yk; rotate_left)
    | (extract_lets +onlyGivenNames yk; clear_value yk; revert yk; intro _)
    | (with_reducible refine kept_ite ?_ ?_)
    | (with_reducible apply kept_bumpF)
    | (with_reducible apply kept_charge)
    | (with_reducible apply kept_emit)
    | (with_reducible apply kept_event)
    | (with_reducible apply kept_exhausted)
    | (with_reducible apply kept_maxF)
    | (with_reducible apply kept_updPort)
    | split

theorem kept_ackFlits {P : Parts} {s0 : State} (s : State) (port : Nat) (ack : Nat) (hk : Kept P s0 s) (hp : Sub 0x20000000 P) : Kept P s0 (ackFlits s port ack) := by
  unfold ackFlits
  repeat' first
    | (with_reducible assumption)
    | (with_reducible refine kept_ite ?_ ?_)
    | (with_reducible apply kept_updPort)

theorem kept_nakReceived {P : Parts} {s0 : State} (s : State) (port : Nat) (ack : Nat) (hk : Kept P s0 s) (hp : Sub 0x2000c020000001 P) : Kept P s0 (nakReceived s port ack) := by
  unfold nakReceived
  repeat' first
    | (with_reducible assumption)
    | ((with_reducible apply Sub.le hp); rfl)
    | (with_reducible apply kept_ackFlits)
    | (with_reducible apply kept_startReplay)

theorem kept_flitTake {P : Parts} {s0 : State} (s : State) (port : Nat) (f : FlitCtl) (hk : Kept P s0 s) (hp : Sub 0x2000c020000001 P) : Kept P s0 (flitTake s port f) := by
  unfold flitTake
  repeat' first
    | (with_reducible assumption)
    | ((with_reducible apply Sub.le hp); rfl)
    | (extract_lets +onlyGivenNames yk; refine (kept_some (P := P) (s0 := s0) yk ?_).elim (fun _ hyk => ?_); subst yk; rotate_left; rw [hyk.2]; have _ := hyk.1; clear hyk; clear yk; rotate_left)
    | (with_reducible refine kept_ite ?_ ?_)
    | (with_reducible apply kept_ackFlits)
    | (with_reducible apply kept_bumpF)
    | (with_reducible apply kept_nakReceived)
    | (with_reducible apply kept_updPort)

theorem kept_flitReceive {P : Parts} {s0 : State} (s : State) (port : Nat) (f : FlitRx) (hk : Kept P s0 s) (hp : Sub 0x2000c020000001 P) : Kept P s0 (flitReceive s port f) := by
  unfold flitReceive
  repeat' first
    | (with_reducible assumption)
    | ((with_reducible apply Sub.le hp); rfl)
    | (extract_lets +onlyGivenNames yk; refine (kept_some (P := P) (s0 := s0) yk ?_).elim (fun _ hyk => ?_); subst yk; rotate_left; rw [hyk.2]; have _ := hyk.1; clear hyk; clear yk; rotate_left)
    | (extract_lets +onlyGivenNames yk; clear_value yk; revert yk; intro _)
    | (with_reducible refine kept_forEach _ _ _ (fun _ _ _ => ?_) ?_)
    | (with_reducible refine kept_ite ?_ ?_)
    | (with_reducible apply kept_bumpF)
    | (with_reducible apply kept_charge)
    | (with_reducible apply kept_emit)
    | (with_reducible apply kept_flitTake)
    | (with_reducible apply kept_setReg)
    | (with_reducible apply kept_updPort)
    | split

theorem kept_eqReport {P : Parts} {s0 : State} (s : State) (port : Nat) (codes : W64) (hk : Kept P s0 s) (hp : Sub 0x1 P) : Kept P s0 (eqReport s port codes) := by
  unfold eqReport
  repeat' first
    | (with_reducible assumption)
    | (extract_lets +onlyGivenNames yk; refine (kept_some (P := P) (s0 := s0) yk ?_).elim (fun _ hyk => ?_); subst yk; rotate_left; rw [hyk.2]; have _ := hyk.1; clear hyk; clear yk; rotate_left)
    | (extract_lets +onlyGivenNames yk; clear_value yk; revert yk; intro _)
    | (with_reducible refine kept_ite ?_ ?_)
    | (with_reducible apply kept_event)
    | (with_reducible apply kept_setReg)

theorem kept_loseLane {P : Parts} {s0 : State} (s : State) (port : Nat) (lane : Nat) (hk : Kept P s0 s) (hp : Sub 0x1 P) : Kept P s0 (loseLane s port lane) := by
  unfold loseLane
  repeat' first
    | (with_reducible assumption)
    | (extract_lets +onlyGivenNames yk; clear_value yk; revert yk; intro _)
    | (with_reducible refine kept_ite ?_ ?_)
    | (with_reducible apply kept_setF)

theorem kept_noRoute {P : Parts} {s0 : State} (s : State) (die : Nat) (dest : Nat) (port : Nat) (hk : Kept P s0 s) (hp : Sub 0x8000000001 P) : Kept P s0 (noRoute s die dest port) := by
  unfold noRoute
  repeat' first
    | (with_reducible assumption)
    | ((with_reducible apply Sub.le hp); rfl)
    | (extract_lets +onlyGivenNames yk; clear_value yk; revert yk; intro _)
    | (with_reducible apply kept_fwAssert)
    | (with_reducible apply kept_recordErr)

theorem kept_wireSend {P : Parts} {s0 : State} (s : State) (port : Nat) (p : Pkt) (hk : Kept P s0 s) (hp : Sub 0x20004020000001 P) : Kept P s0 (wireSend s port p) := by
  unfold wireSend
  repeat' first
    | (with_reducible assumption)
    | ((with_reducible apply Sub.le hp); rfl)
    | (extract_lets +onlyGivenNames yk; refine (kept_some (P := P) (s0 := s0) yk ?_).elim (fun _ hyk => ?_); subst yk; rotate_left; rw [hyk.2]; have _ := hyk.1; clear hyk; clear yk; rotate_left)
    | (extract_lets +onlyGivenNames yk; clear_value yk; revert yk; intro _)
    | (with_reducible apply kept_bumpF)
    | (with_reducible apply kept_charge)
    | (with_reducible apply kept_emit)
    | (with_reducible apply kept_updPort)

theorem kept_packetSend {P : Parts} {s0 : State} (s : State) (port : Nat) (want : Pkt) (hk : Kept P s0 s) (hp : Sub 0x2000c4a0000001 P) : Kept P s0 (packetSend s port want) := by
  unfold packetSend; dsimp only
  repeat' first
    | (with_reducible assumption)
    | ((with_reducible apply Sub.le hp); rfl)
    | (with_reducible refine kept_ite ?_ ?_)
    | (with_reducible apply kept_bite)
    | (with_reducible apply kept_noRoute)
    | (with_reducible apply kept_recordErr)
    | (with_reducible apply kept_updPort)
    | (with_reducible apply kept_wireSend)
    | split
    | ((with_reducible refine kept_mk 0x480000000 ?_ ?_ ?_ ?_); rotate_left; rfl; (constructor <;> first | exact fun _ => rfl | exact fun h => absurd h (by decide)); apply Sub.le hp; rfl)

theorem kept_refuse {P : Parts} {s0 : State} (s : State) (port : Nat) (p : Pkt) (status : Nat) (data : List Byte) (marks : List Bool) (hk : Kept P s0 s) (hp : Sub 0x400000200 P) : Kept P s0 (refuse s port p status data marks) := by
  unfold refuse
  repeat' first
    | (with_reducible assumption)
    | (with_reducible apply kept_answer)

theorem kept_malformed {P : Parts} {s0 : State} (s : State) (port : Nat) (p : Pkt) (hk : Kept P s0 s) (hp : Sub 0x400000201 P) : Kept P s0 (malformed s port p) := by
  unfold malformed
  repeat' first
    | (with_reducible assumption)
    | ((with_reducible apply Sub.le hp); rfl)
    | (extract_lets +onlyGivenNames yk; refine (kept_some (P := P) (s0 := s0) yk ?_).elim (fun _ hyk => ?_); subst yk; rotate_left; rw [hyk.2]; have _ := hyk.1; clear hyk; clear yk; rotate_left)
    | (with_reducible refine kept_ite ?_ ?_)
    | (with_reducible apply kept_recordErr)
    | (with_reducible apply kept_refuse)

theorem kept_deliverWr {P : Parts} {s0 : State} (s : State) (port : Nat) (p : Pkt) (hk : Kept P s0 s) (hp : Sub 0x3000cf0001d201 P) : Kept P s0 (deliverWr s port p) := by
  unfold deliverWr
  repeat' first
    | (with_reducible assumption)
    | ((with_reducible apply Sub.le hp); rfl)
    | (extract_lets +onlyGivenNames yk; clear_value yk; revert yk; intro _)
    | (with_reducible refine kept_ite ?_ ?_)
    | (with_reducible apply kept_arrive)
    | (with_reducible apply kept_openIn)
    | (with_reducible apply kept_refuse)

theorem kept_deliverRd {P : Parts} {s0 : State} (s : State) (port : Nat) (p : Pkt) (hk : Kept P s0 s) (hp : Sub 0x3000cf0001d201 P) : Kept P s0 (deliverRd s port p) := by
  unfold deliverRd
  repeat' first
    | (with_reducible assumption)
    | ((with_reducible apply Sub.le hp); rfl)
    | (extract_lets +onlyGivenNames yk; clear_value yk; revert yk; intro _)
    | (with_reducible refine kept_ite ?_ ?_)
    | (with_reducible apply kept_arrive)
    | (with_reducible apply kept_openIn)
    | (with_reducible apply kept_refuse)

theorem kept_deliverAcc {P : Parts} {s0 : State} (s : State) (port : Nat) (p : Pkt) (hk : Kept P s0 s) (hp : Sub 0x3000cf0001f201 P) : Kept P s0 (deliverAcc s port p) := by
  unfold deliverAcc
  repeat' first
    | (with_reducible assumption)
    | ((with_reducible apply Sub.le hp); rfl)
    | (extract_lets +onlyGivenNames yk; clear_value yk; revert yk; intro _)
    | (with_reducible refine kept_forEach _ _ _ (fun _ _ _ => ?_) ?_)
    | (with_reducible refine kept_ite ?_ ?_)
    | (with_reducible apply kept_accArrive)
    | (with_reducible apply kept_logHole)
    | (with_reducible apply kept_openIn)
    | (with_reducible apply kept_refuse)

theorem kept_deliverSig {P : Parts} {s0 : State} (s : State) (port : Nat) (p : Pkt) (hk : Kept P s0 s) (hp : Sub 0x440000201 P) : Kept P s0 (deliverSig s port p) := by
  unfold deliverSig
  repeat' first
    | (with_reducible assumption)
    | ((with_reducible apply Sub.le hp); rfl)
    | (with_reducible apply kept_bumpF)
    | (with_reducible apply kept_refuse)
    | (with_reducible apply kept_syncAdd)

theorem kept_fenceSnap {P : Parts} {s0 : State} (s : State) (port : Nat) (hk : Kept P s0 s) (hp : Sub 0x20000000 P) : Kept P s0 (fenceSnap s port) := by
  unfold fenceSnap
  repeat' first
    | (with_reducible assumption)
    | (extract_lets +onlyGivenNames yk; clear_value yk; revert yk; intro _)
    | (with_reducible refine kept_ite ?_ ?_)
    | (with_reducible apply kept_updPort)
    | split

theorem kept_deliverFence {P : Parts} {s0 : State} (s : State) (port : Nat) (p : Pkt) (hk : Kept P s0 s) (hp : Sub 0x20000000 P) : Kept P s0 (deliverFence s port p) := by
  unfold deliverFence
  repeat' first
    | (with_reducible assumption)
    | (extract_lets +onlyGivenNames yk; clear_value yk; revert yk; intro _)
    | (with_reducible apply kept_fenceSnap)
    | (with_reducible apply kept_updPort)

theorem kept_completeReq {P : Parts} {s0 : State} (s : State) (r : OutReq) (p : Pkt) (hk : Kept P s0 s) (hp : Sub 0x8000 P) : Kept P s0 (completeReq s r p) := by
  unfold completeReq
  repeat' first
    | (with_reducible assumption)
    | (extract_lets +onlyGivenNames yk; clear_value yk; revert yk; intro _)
    | (with_reducible refine kept_ite ?_ ?_)
    | (with_reducible refine kept_updTile_same _ _ _ (fun _ => rfl) ?_ ?_)

theorem kept_deliverRsp {P : Parts} {s0 : State} (s : State) (port : Nat) (p : Pkt) (hk : Kept P s0 s) (hp : Sub 0x8080008001 P) : Kept P s0 (deliverRsp s port p) := by
  unfold deliverRsp
  repeat' first
    | (with_reducible assumption)
    | ((with_reducible apply Sub.le hp); rfl)
    | (extract_lets +onlyGivenNames yk; refine (kept_some (P := P) (s0 := s0) yk ?_).elim (fun _ hyk => ?_); subst yk; rotate_left; rw [hyk.2]; have _ := hyk.1; clear hyk; clear yk; rotate_left)
    | (extract_lets +onlyGivenNames yk; clear_value yk; revert yk; intro _)
    | (with_reducible refine kept_ite ?_ ?_)
    | (with_reducible apply kept_bumpF)
    | (with_reducible apply kept_completeReq)
    | (with_reducible apply kept_event)
    | (with_reducible apply kept_fwAssert)
    | (with_reducible apply kept_recordErr)
    | (with_reducible apply kept_setF)
    | split
    | ((with_reducible refine kept_mk 0x80000000 ?_ ?_ ?_ ?_); rotate_left; rfl; (constructor <;> first | exact fun _ => rfl | exact fun h => absurd h (by decide)); apply Sub.le hp; rfl)

theorem kept_deliverDescReq {P : Parts} {s0 : State} (s : State) (p : Pkt) (hk : Kept P s0 s) (hp : Sub 0x400100000 P) : Kept P s0 (deliverDescReq s p) := by
  unfold deliverDescReq
  repeat' first
    | (with_reducible assumption)
    | ((with_reducible apply Sub.le hp); rfl)
    | (extract_lets +onlyGivenNames yk; refine (kept_some (P := P) (s0 := s0) yk ?_).elim (fun _ hyk => ?_); subst yk; rotate_left; rw [hyk.2]; have _ := hyk.1; clear hyk; clear yk; rotate_left)
    | (extract_lets +onlyGivenNames yk; clear_value yk; revert yk; intro _)
    | (with_reducible refine kept_ite ?_ ?_)
    | (with_reducible apply kept_toEgress)
    | (with_reducible apply kept_updExports)

theorem kept_deliverDescRsp {P : Parts} {s0 : State} (s : State) (p : Pkt) (hk : Kept P s0 s) (hp : Sub 0x400000 P) : Kept P s0 (deliverDescRsp s p) := by
  unfold deliverDescRsp
  repeat' first
    | (with_reducible assumption)
    | (extract_lets +onlyGivenNames yk; clear_value yk; revert yk; intro _)
    | (with_reducible refine kept_ite ?_ ?_)
    | (with_reducible apply kept_updOtab)

theorem kept_deliverMgmt {P : Parts} {s0 : State} (s : State) (port : Nat) (p : Pkt) (hk : Kept P s0 s) (hp : Sub 0x420500001 P) : Kept P s0 (deliverMgmt s port p) := by
  unfold deliverMgmt
  repeat' first
    | (with_reducible assumption)
    | ((with_reducible apply Sub.le hp); rfl)
    | (extract_lets +onlyGivenNames yk; clear_value yk; revert yk; intro _)
    | (with_reducible apply kept_deliverDescReq)
    | (with_reducible apply kept_deliverDescRsp)
    | (with_reducible apply kept_event)
    | (with_reducible apply kept_setB)
    | (with_reducible apply kept_setF)
    | (with_reducible apply kept_toEgress)
    | (with_reducible apply kept_updExports)
    | (with_reducible apply kept_updPort)
    | split

theorem kept_deliver {P : Parts} {s0 : State} (s : State) (port : Nat) (p : Pkt) (hk : Kept P s0 s) (hp : Sub 0x3000cfe051f201 P) : Kept P s0 (deliver s port p) := by
  unfold deliver
  repeat' first
    | (with_reducible assumption)
    | ((with_reducible apply Sub.le hp); rfl)
    | (with_reducible apply kept_deliverAcc)
    | (with_reducible apply kept_deliverFence)
    | (with_reducible apply kept_deliverMgmt)
    | (with_reducible apply kept_deliverRd)
    | (with_reducible apply kept_deliverRsp)
    | (with_reducible apply kept_deliverSig)
    | (with_reducible apply kept_deliverWr)
    | split

theorem kept_takePkt {P : Parts} {s0 : State} (s : State) (port : Nat) (p : Pkt) (hk : Kept P s0 s) (hp : Sub 0x3000cfe051f201 P) : Kept P s0 (takePkt s port p) := by
  unfold takePkt
  repeat' first
    | (with_reducible assumption)
    | ((with_reducible apply Sub.le hp); rfl)
    | (extract_lets +onlyGivenNames yk; refine (kept_some (P := P) (s0 := s0) yk ?_).elim (fun _ hyk => ?_); subst yk; rotate_left; rw [hyk.2]; have _ := hyk.1; clear hyk; clear yk; rotate_left)
    | (with_reducible refine kept_ite ?_ ?_)
    | (with_reducible apply kept_deliver)
    | (with_reducible apply kept_emit)
    | (with_reducible apply kept_malformed)
    | (with_reducible apply kept_noRoute)
    | (with_reducible apply kept_toEgress)
    | split

theorem kept_arrivePkt {P : Parts} {s0 : State} (s : State) (port : Nat) (p : Pkt) (hk : Kept P s0 s) (hp : Sub 0x3000cfe051f201 P) : Kept P s0 (arrivePkt s port p) := by
  unfold arrivePkt
  repeat' first
    | (with_reducible assumption)
    | ((with_reducible apply Sub.le hp); rfl)
    | (extract_lets +onlyGivenNames yk; refine (kept_some (P := P) (s0 := s0) yk ?_).elim (fun _ hyk => ?_); subst yk; rotate_left; rw [hyk.2]; have _ := hyk.1; clear hyk; clear yk; rotate_left)
    | (extract_lets +onlyGivenNames yk; clear_value yk; revert yk; intro _)
    | (extract_lets +onlyGivenNames yk; revert yk; intro _)
    | (with_reducible refine kept_ite ?_ ?_)
    | (with_reducible apply kept_takePkt)
    | (with_reducible apply kept_updPort)

theorem kept_heldLoop {P : Parts} {s0 : State} (port : Nat) (l kept : List Pkt) (s : State) (hk : Kept P s0 s) (hp : Sub 0x3000cfe051f201 P) :
    Kept P s0 (heldLoop port l kept s).1 := by
  induction l generalizing kept s with
  | nil => exact hk
  | cons p l ih =>
    simp only [heldLoop]
    split
    · exact ih _ _ hk
    · exact ih _ _ (kept_takePkt _ _ _ hk (hp.le rfl))

theorem kept_heldLoop_eq {P : Parts} {s0 tt : State} {x1 : List Pkt} (port : Nat) (l kept : List Pkt) (s : State) (hk : Kept P s0 s)
    (hp : Sub 0x3000cfe051f201 P) (he : heldLoop port l kept s = (tt, x1)) : Kept P s0 tt := by
  have g := kept_heldLoop port l kept s hk hp
  rw [he] at g; exact g

theorem kept_drainHeld {P : Parts} {s0 : State} (s : State) (port : Nat) (hk : Kept P s0 s) (hp : Sub 0x3000cfe051f201 P) : Kept P s0 (drainHeld s port) := by
  unfold drainHeld
  repeat' first
    | (with_reducible assumption)
    | ((with_reducible apply Sub.le hp); rfl)
    | (extract_lets +onlyGivenNames yk; clear_value yk; revert yk; intro _)
    | (with_reducible apply kept_heldLoop)
    | (with_reducible apply kept_updPort)

theorem kept_ingressTick {P : Parts} {s0 : State} (s : State) (hk : Kept P s0 s) (hp : Sub 0x3000cfe051f201 P) : Kept P s0 (ingressTick s) := by
  unfold ingressTick
  repeat' first
    | (with_reducible assumption)
    | (with_reducible refine kept_forEach _ _ _ (fun _ _ _ => ?_) ?_)
    | (with_reducible refine kept_ite ?_ ?_)
    | (with_reducible apply kept_drainHeld)

theorem kept_fenceRelease {P : Parts} {s0 : State} (s : State) (port : Nat) (hk : Kept P s0 s) (hp : Sub 0x3000cfe051f201 P) : Kept P s0 (fenceRelease s port) := by
  unfold fenceRelease
  repeat' first
    | (with_reducible assumption)
    | ((with_reducible apply Sub.le hp); rfl)
    | (extract_lets +onlyGivenNames yk; refine (kept_some (P := P) (s0 := s0) yk ?_).elim (fun _ hyk => ?_); subst yk; rotate_left; rw [hyk.2]; have _ := hyk.1; clear hyk; clear yk; rotate_left)
    | (extract_lets +onlyGivenNames yk; clear_value yk; revert yk; intro _)
    | (with_reducible refine kept_ite ?_ ?_)
    | (with_reducible apply kept_bumpF)
    | (with_reducible apply kept_drainHeld)
    | (with_reducible apply kept_updPort)
    | split

theorem kept_completionTimeout {P : Parts} {s0 : State} (s : State) (port : Nat) (srcId : Nat) (tag : Nat) (hk : Kept P s0 s) (hp : Sub 0x8080000001 P) : Kept P s0 (completionTimeout s port srcId tag) := by
  unfold completionTimeout
  repeat' first
    | (with_reducible assumption)
    | ((with_reducible apply Sub.le hp); rfl)
    | (extract_lets +onlyGivenNames yk; refine (kept_some (P := P) (s0 := s0) yk ?_).elim (fun _ hyk => ?_); subst yk; rotate_left; rw [hyk.2]; have _ := hyk.1; clear hyk; clear yk; rotate_left)
    | (extract_lets +onlyGivenNames yk; clear_value yk; revert yk; intro _)
    | (with_reducible apply kept_event)
    | (with_reducible apply kept_fwAssert)
    | (with_reducible apply kept_recordErr)
    | split
    | ((with_reducible refine kept_mk 0x80000000 ?_ ?_ ?_ ?_); rotate_left; rfl; (constructor <;> first | exact fun _ => rfl | exact fun h => absurd h (by decide)); apply Sub.le hp; rfl)

theorem kept_linkLocal {P : Parts} {s0 : State} (s : State) (port : Nat) (op : Nat) (payload : List Byte) (hk : Kept P s0 s) (hp : Sub 0x400000000 P) : Kept P s0 (linkLocal s port op payload) := by
  unfold linkLocal
  repeat' first
    | (with_reducible assumption)
    | (extract_lets +onlyGivenNames yk; clear_value yk; revert yk; intro _)
    | (with_reducible apply kept_toEgress)

theorem kept_startTraining {P : Parts} {s0 : State} (s : State) (port : Nat) (half : Nat) (hk : Kept P s0 s) (hp : Sub 0x20000001 P) : Kept P s0 (startTraining s port half) := by
  unfold startTraining
  repeat' first
    | (with_reducible assumption)
    | ((with_reducible apply Sub.le hp); rfl)
    | (with_reducible apply kept_setF)
    | (with_reducible apply kept_updPort)

theorem kept_retrain {P : Parts} {s0 : State} (s : State) (port : Nat) (v : W64) (hk : Kept P s0 s) (hp : Sub 0x20000001 P) : Kept P s0 (retrain s port v) := by
  unfold retrain
  repeat' first
    | (with_reducible assumption)
    | ((with_reducible apply Sub.le hp); rfl)
    | (extract_lets +onlyGivenNames yk; clear_value yk; revert yk; intro _)
    | (with_reducible refine kept_ite ?_ ?_)
    | (with_reducible apply kept_recordErr)
    | (with_reducible apply kept_startTraining)
    | (with_reducible apply kept_voidPlan)

theorem kept_retrainDone {P : Parts} {s0 : State} (s : State) (port : Nat) (far : Nat) (hk : Kept P s0 s) (hp : Sub 0x420000001 P) : Kept P s0 (retrainDone s port far) := by
  unfold retrainDone
  repeat' first
    | (with_reducible assumption)
    | ((with_reducible apply Sub.le hp); rfl)
    | (extract_lets +onlyGivenNames yk; refine (kept_some (P := P) (s0 := s0) yk ?_).elim (fun _ hyk => ?_); subst yk; rotate_left; rw [hyk.2]; have _ := hyk.1; clear hyk; clear yk; rotate_left)
    | (extract_lets +onlyGivenNames yk; clear_value yk; revert yk; intro _)
    | (with_reducible refine kept_ite ?_ ?_)
    | (with_reducible apply kept_event)
    | (with_reducible apply kept_linkLocal)
    | (with_reducible apply kept_setF)
    | (with_reducible apply kept_updPort)

theorem kept_retrainTimeout {P : Parts} {s0 : State} (s : State) (port : Nat) (hk : Kept P s0 s) (hp : Sub 0x1 P) : Kept P s0 (retrainTimeout s port) := by
  unfold retrainTimeout
  repeat' first
    | (with_reducible assumption)
    | (with_reducible refine kept_ite ?_ ?_)
    | (with_reducible apply kept_setF)

theorem kept_portRetry {P : Parts} {s0 : State} (s : State) (port : Nat) (hk : Kept P s0 s) (hp : Sub 0x20000001 P) : Kept P s0 (portRetry s port) := by
  unfold portRetry
  repeat' first
    | (with_reducible assumption)
    | (with_reducible refine kept_ite ?_ ?_)
    | (with_reducible apply kept_startTraining)

end Sys2Proof.Machine
end

