-- ==== Sys2Proof/Laws/KeptPlanner.lean ====
section
/-! SUPPORT. `Kept` for the operations of Machine/Planner.lean: one lemma per function that changes the state. -/
namespace Sys2Proof.Machine

theorem kept_movesPs {P : Parts} {s0 : State} (s : State) (td stretch : Nat) (l : List (List W64 × Nat)) (hk : Kept P s0 s) (hp : Sub 0x10000000000000 P) :
    Kept P s0 (movesPs s td stretch l).2 :=
  kept_fold_acc Prod.snd _ _ _ (fun _ _ h => kept_drawn _ 1 h (hp.le rfl)) hk

theorem kept_movesPs_eq {P : Parts} {s0 tt : State} {x0 : Nat} (s : State) (td stretch : Nat) (l : List (List W64 × Nat))
    (hk : Kept P s0 s) (hp : Sub 0x10000000000000 P) (he : movesPs s td stretch l = (x0, tt)) : Kept P s0 tt := by
  have g := kept_movesPs s td stretch l hk hp
  rw [he] at g; exact g

theorem kept_evalItem {P : Parts} {s0 : State} (s : State) (cool : Bool) (w : List W64) (l : List W64) (hk : Kept P s0 s) (hp : Sub 0x10000000004001 P) : Kept P s0 (evalItem s cool w l).2 := by
  unfold evalItem
  repeat' first
    | (with_reducible assumption)
    | ((with_reducible apply Sub.le hp); rfl)
    | (extract_lets +onlyGivenNames yk; clear_value yk; revert yk; intro _)
    | (with_reducible apply kept_draw_snd)
    | (with_reducible apply kept_movesPs)
    | split

theorem kept_evalItem_eq {P : Parts} {s0 : State} {x0} {tt} (s : State) (cool : Bool) (w : List W64) (l : List W64) (hk : Kept P s0 s) (hp : Sub 0x10000000004001 P) (he : evalItem s cool w l = (x0, tt)) : Kept P s0 tt := by
  have g := kept_evalItem s cool w l hk hp
  rw [he] at g; exact g

theorem kept_planResult {P : Parts} {s0 : State} (s : State) (code : Nat) (item : Nat) (id : Nat) (hk : Kept P s0 s) (hp : Sub 0x1 P) : Kept P s0 (planResult s code item id) := by
  unfold planResult
  repeat' first
    | (with_reducible assumption)
    | (extract_lets +onlyGivenNames yk; refine (kept_some (P := P) (s0 := s0) yk ?_).elim (fun _ hyk => ?_); subst yk; rotate_left; rw [hyk.2]; have _ := hyk.1; clear hyk; clear yk; rotate_left)
    | (extract_lets +onlyGivenNames yk; clear_value yk; revert yk; intro _)
    | (with_reducible apply kept_setB)
    | (with_reducible apply kept_setF)

theorem kept_planRefuse {P : Parts} {s0 : State} (s : State) (code : Nat) (item : Nat) (id : Nat) (short : Nat) (hk : Kept P s0 s) (hp : Sub 0x1 P) : Kept P s0 (planRefuse s code item id short) := by
  unfold planRefuse
  repeat' first
    | (with_reducible assumption)
    | (extract_lets +onlyGivenNames yk; refine (kept_some (P := P) (s0 := s0) yk ?_).elim (fun _ hyk => ?_); subst yk; rotate_left; rw [hyk.2]; have _ := hyk.1; clear hyk; clear yk; rotate_left)
    | (with_reducible apply kept_bumpF)
    | (with_reducible apply kept_event)
    | (with_reducible apply kept_planResult)
    | (with_reducible apply kept_refusal)
    | (with_reducible apply kept_setF)

theorem kept_planPoison {P : Parts} {s0 : State} (s : State) (hk : Kept P s0 s) (hp : Sub 0x8000000001 P) : Kept P s0 (planPoison s) := by
  unfold planPoison
  repeat' first
    | (with_reducible assumption)
    | ((with_reducible apply Sub.le hp); rfl)
    | (with_reducible apply kept_bite)
    | (with_reducible apply kept_recordErr)
    | (with_reducible apply kept_setB)

theorem kept_planWait {P : Parts} {s0 : State} (s : State) (hk : Kept P s0 s) (hp : Sub 0x1 P) : Kept P s0 (planWait s) := by
  unfold planWait
  repeat' first
    | (with_reducible assumption)
    | (with_reducible apply kept_setB)
    | (with_reducible apply kept_setF)

theorem kept_planFetch {P : Parts} {s0 : State} (s : State) (l : List (Option (Nat × Nat))) (hk : Kept P s0 s) (hp : Sub 0x4c06003f09 P) :
    Kept P s0 (planFetch s l).2 := by
  induction l generalizing s with
  | nil => exact hk
  | cons x l ih =>
    cases x with
    | none =>
      simp only [planFetch]
      split <;> exact ih _ hk
    | some p =>
      obtain ⟨a, n⟩ := p
      simp only [planFetch]
      split <;> exact ih _ (kept_ctlFetch _ _ _ _ _ hk (hp.le rfl))

theorem kept_planFetch_eq {P : Parts} {s0 tt : State} {x0 : Option (List (List W64) × Bool)} (s : State) (l : List (Option (Nat × Nat)))
    (hk : Kept P s0 s) (hp : Sub 0x4c06003f09 P) (he : planFetch s l = (x0, tt)) : Kept P s0 tt := by
  have g := kept_planFetch s l hk hp
  rw [he] at g; exact g

theorem kept_judge {P : Parts} {s0 : State} (s : State) (h : List W64) (items : List PItem) (ports : List (Nat × Nat)) (hk : Kept P s0 s) (hp : Sub 0x1000004001 P) : Kept P s0 (judge s h items ports) := by
  unfold judge
  repeat' first
    | (with_reducible assumption)
    | ((with_reducible apply Sub.le hp); rfl)
    | (extract_lets +onlyGivenNames yk; refine (kept_some (P := P) (s0 := s0) yk ?_).elim (fun _ hyk => ?_); subst yk; rotate_left; rw [hyk.2]; have _ := hyk.1; clear hyk; clear yk; rotate_left)
    | (extract_lets +onlyGivenNames yk; clear_value yk; revert yk; intro _)
    | (with_reducible refine kept_ite ?_ ?_)
    | (with_reducible apply kept_bumpF)
    | (with_reducible apply kept_event)
    | (with_reducible apply kept_planRefuse)
    | (with_reducible apply kept_planResult)
    | (with_reducible apply kept_setB)
    | (with_reducible apply kept_setF)
    | split
    | ((with_reducible refine kept_mk 0x1000000000 ?_ ?_ ?_ ?_); rotate_left; rfl; (constructor <;> first | exact fun _ => rfl | exact fun h => absurd h (by decide)); apply Sub.le hp; rfl)

theorem kept_submit {P : Parts} {s0 : State} (s : State) (hk : Kept P s0 s) (hp : Sub 0x1000dc06007f09 P) : Kept P s0 (submit s) := by
  unfold submit
  repeat' first
    | (with_reducible assumption)
    | ((with_reducible apply Sub.le hp); rfl)
    | (extract_lets +onlyGivenNames yk; clear_value yk; revert yk; intro _)
    | (with_reducible refine kept_fold_acc Prod.snd _ _ _ (fun _ _ _ => ?_) ?_)
    | (with_reducible refine kept_ite ?_ ?_)
    | (with_reducible apply kept_evalItem)
    | (with_reducible apply kept_judge)
    | (with_reducible refine kept_planFetch_eq _ _ ?_ ?_ (by assumption))
    | (with_reducible apply kept_planPoison)
    | (with_reducible apply kept_planRefuse)
    | (with_reducible apply kept_planWait)
    | split

theorem kept_cancel {P : Parts} {s0 : State} (s : State) (hk : Kept P s0 s) (hp : Sub 0x5000000001 P) : Kept P s0 (cancel s) := by
  unfold cancel
  repeat' first
    | (with_reducible assumption)
    | ((with_reducible apply Sub.le hp); rfl)
    | (extract_lets +onlyGivenNames yk; refine (kept_some (P := P) (s0 := s0) yk ?_).elim (fun _ hyk => ?_); subst yk; rotate_left; rw [hyk.2]; have _ := hyk.1; clear hyk; clear yk; rotate_left)
    | (extract_lets +onlyGivenNames yk; clear_value yk; revert yk; intro _)
    | (with_reducible apply kept_planResult)
    | (with_reducible apply kept_setF)
    | (with_reducible apply kept_settleLedger)
    | ((with_reducible refine kept_mk 0x1000000000 ?_ ?_ ?_ ?_); rotate_left; rfl; (constructor <;> first | exact fun _ => rfl | exact fun h => absurd h (by decide)); apply Sub.le hp; rfl)

theorem kept_planDo {P : Parts} {s0 : State} (s : State) (op : Nat) (hk : Kept P s0 s) (hp : Sub 0x1000dc06007f09 P) : Kept P s0 (planDo s op) := by
  unfold planDo
  repeat' first
    | (with_reducible assumption)
    | ((with_reducible apply Sub.le hp); rfl)
    | (extract_lets +onlyGivenNames yk; refine (kept_some (P := P) (s0 := s0) yk ?_).elim (fun _ hyk => ?_); subst yk; rotate_left; rw [hyk.2]; have _ := hyk.1; clear hyk; clear yk; rotate_left)
    | (with_reducible refine kept_ite ?_ ?_)
    | (with_reducible apply kept_cancel)
    | (with_reducible apply kept_dropFetch)
    | (with_reducible apply kept_planResult)
    | (with_reducible apply kept_refusal)
    | (with_reducible apply kept_submit)
    | split

theorem kept_planCmd {P : Parts} {s0 : State} (s : State) (op : Nat) (hk : Kept P s0 s) (hp : Sub 0x1000dc06007f09 P) : Kept P s0 (planCmd s op) := by
  unfold planCmd
  repeat' first
    | (with_reducible assumption)
    | ((with_reducible apply Sub.le hp); rfl)
    | (extract_lets +onlyGivenNames yk; clear_value yk; revert yk; intro _)
    | (with_reducible refine kept_ite ?_ ?_)
    | (with_reducible apply kept_dropFetch)
    | (with_reducible apply kept_planDo)
    | (with_reducible apply kept_setB)
    | (with_reducible apply kept_setF)

theorem kept_planTick {P : Parts} {s0 : State} (s : State) (hk : Kept P s0 s) (hp : Sub 0x1000dc06007f09 P) : Kept P s0 (planTick s) := by
  unfold planTick
  repeat' first
    | (with_reducible assumption)
    | (with_reducible refine kept_ite ?_ ?_)
    | (with_reducible apply kept_planDo)

theorem kept_planClose {P : Parts} {s0 : State} (s : State) (status : Nat) (slack : Nat) (hk : Kept P s0 s) (hp : Sub 0x6000000001 P) : Kept P s0 (planClose s status slack) := by
  unfold planClose
  repeat' first
    | (with_reducible assumption)
    | ((with_reducible apply Sub.le hp); rfl)
    | (extract_lets +onlyGivenNames yk; refine (kept_some (P := P) (s0 := s0) yk ?_).elim (fun _ hyk => ?_); subst yk; rotate_left; rw [hyk.2]; have _ := hyk.1; clear hyk; clear yk; rotate_left)
    | (extract_lets +onlyGivenNames yk; clear_value yk; revert yk; intro _)
    | (with_reducible apply kept_event)
    | (with_reducible apply kept_setF)
    | (with_reducible apply kept_settleLedger)
    | ((with_reducible refine kept_mk 0x2000000000 ?_ ?_ ?_ ?_); rotate_left; rfl; (constructor <;> first | exact fun _ => rfl | exact fun h => absurd h (by decide)); apply Sub.le hp; rfl)

theorem kept_planEnd {P : Parts} {s0 : State} (s : State) (hk : Kept P s0 s) (hp : Sub 0x6000000001 P) : Kept P s0 (planEnd s) := by
  unfold planEnd
  repeat' first
    | (with_reducible assumption)
    | (extract_lets +onlyGivenNames yk; clear_value yk; revert yk; intro _)
    | (with_reducible refine kept_ite ?_ ?_)
    | (with_reducible apply kept_planClose)
    | split

theorem kept_planOverrun {P : Parts} {s0 : State} (s : State) (hk : Kept P s0 s) (hp : Sub 0x8000000001 P) : Kept P s0 (planOverrun s) := by
  unfold planOverrun
  repeat' first
    | (with_reducible assumption)
    | ((with_reducible apply Sub.le hp); rfl)
    | (with_reducible refine kept_ite ?_ ?_)
    | (with_reducible apply kept_raiseCause)
    | (with_reducible apply kept_recordErr)
    | split

theorem kept_blockTick {P : Parts} {s0 : State} (s : State) (hk : Kept P s0 s) (hp : Sub 0x3000dfe7f1ff09 P) : Kept P s0 (blockTick s) := by
  unfold blockTick
  repeat' first
    | (with_reducible assumption)
    | ((with_reducible apply Sub.le hp); rfl)
    | (with_reducible apply kept_allocTick)
    | (with_reducible apply kept_descTick)
    | (with_reducible apply kept_ingressTick)
    | (with_reducible apply kept_ownTick)
    | (with_reducible apply kept_planTick)

theorem kept_execLedgerTick {P : Parts} {s0 : State} (s : State) (hk : Kept P s0 s) (hp : Sub 0x3800dfe7f1ff09 P) : KeptR P s0 (execLedgerTick s) := by
  unfold execLedgerTick
  repeat' first
    | (with_reducible refine keptR_next ?_)
    | (with_reducible assumption)
    | ((with_reducible apply Sub.le hp); rfl)
    | (with_reducible refine kept_ite ?_ ?_)
    | (with_reducible apply kept_blockTick)
    | (with_reducible apply kept_tick)
    | ((with_reducible refine kept_mk 0x8000000000000 ?_ ?_ ?_ ?_); rotate_left; rfl; (constructor <;> first | exact fun _ => rfl | exact fun h => absurd h (by decide)); apply Sub.le hp; rfl)

theorem kept_execPlanSubmit {P : Parts} {s0 : State} (_w : Writer) (s : State) (hk : Kept P s0 s) (hp : Sub 0x1000dc06007f09 P) : KeptR P s0 (execPlanSubmit _w s) := by
  unfold execPlanSubmit
  repeat' first
    | (with_reducible refine keptR_next ?_)
    | (with_reducible assumption)
    | (with_reducible apply kept_planCmd)

theorem kept_execPlanCancel {P : Parts} {s0 : State} (_w : Writer) (s : State) (hk : Kept P s0 s) (hp : Sub 0x1000dc06007f09 P) : KeptR P s0 (execPlanCancel _w s) := by
  unfold execPlanCancel
  repeat' first
    | (with_reducible refine keptR_next ?_)
    | (with_reducible assumption)
    | (with_reducible apply kept_planCmd)

theorem kept_execPlanEnd {P : Parts} {s0 : State} (s : State) (hk : Kept P s0 s) (hp : Sub 0x6000000001 P) : KeptR P s0 (execPlanEnd s) := by
  unfold execPlanEnd
  repeat' first
    | (with_reducible refine keptR_next ?_)
    | (with_reducible assumption)
    | (with_reducible apply kept_planEnd)

theorem kept_execPlanOverrun {P : Parts} {s0 : State} (s : State) (hk : Kept P s0 s) (hp : Sub 0x8000000001 P) : KeptR P s0 (execPlanOverrun s) := by
  unfold execPlanOverrun
  repeat' first
    | (with_reducible refine keptR_next ?_)
    | (with_reducible assumption)
    | (with_reducible apply kept_planOverrun)

end Sys2Proof.Machine
end

