-- ==== Sys2Proof/Laws/KeptFaults.lean ====
section
/-! SUPPORT. `Kept` for the operations of Machine/Faults.lean: one lemma per function that changes the state. -/
namespace Sys2Proof.Machine

theorem kept_clearRegs {P : Parts} {s0 : State} (s : State) (q : Page → Bool) (hk : Kept P s0 s) (hp : Sub 0x1 P) : Kept P s0 (clearRegs s q) := by
  refine ⟨hk.member, hk.pending, hk.drawn, hk.out, hk.log, fun c => ?_, hk.by (a := 0x1) ?_ (hp.le rfl)⟩
  rotate_left
  · constructor <;> first | exact fun _ => rfl | exact fun h => absurd h (by decide)
  have k := hk.canonical c
  refine ⟨rising_filter _ _ (rising_map _ _ (fun p => ?_) k.regs), ?_, k.mem, k.imem, k.lib, k.tiles, k.uzoids⟩
  · split <;> rfl
  · intro p hp
    have e := (List.mem_filter.1 hp).2
    exact of_decide_eq_true e

theorem kept_dropHeld {P : Parts} {s0 : State} (s : State) (st : Nat) (ch : Nat) (hk : Kept P s0 s) (hp : Sub 0x3000ca0001d001 P) : Kept P s0 (dropHeld s st ch) := by
  unfold dropHeld
  repeat' first
    | (with_reducible assumption)
    | ((with_reducible apply Sub.le hp); rfl)
    | (extract_lets +onlyGivenNames yk; refine (kept_some (P := P) (s0 := s0) yk ?_).elim (fun _ hyk => ?_); subst yk; rotate_left; rw [hyk.2]; have _ := hyk.1; clear hyk; clear yk; rotate_left)
    | (extract_lets +onlyGivenNames yk; clear_value yk; revert yk; intro _)
    | (with_reducible refine kept_fold_acc Prod.fst _ _ _ (fun _ _ _ => ?_) ?_)
    | (with_reducible apply kept_replyCmd)
    | (with_reducible apply kept_updChan)
    | split

theorem kept_abandonPasses {P : Parts} {s0 : State} (s : State) (hk : Kept P s0 s) (hp : Sub 0x8000 P) : Kept P s0 (abandonPasses s) := by
  refine ⟨hk.member, hk.pending, hk.drawn, hk.out, hk.log, fun c => ?_, hk.by (a := 0x8000) ?_ (hp.le rfl)⟩
  rotate_left
  · constructor <;> first | exact fun _ => rfl | exact fun h => absurd h (by decide)
  have k := hk.canonical c
  refine ⟨k.regs, k.regsSet, k.mem, k.imem, k.lib, ?_, k.uzoids⟩
  intro p hp
  obtain ⟨r, hr, rfl⟩ := List.mem_map.1 hp
  exact k.tiles r hr

theorem kept_stopPart {P : Parts} {s0 : State} (s : State) (hk : Kept P s0 s) (hp : Sub 0x3000ef0001d001 P) : Kept P s0 (stopPart s) := by
  unfold stopPart
  repeat' first
    | (with_reducible assumption)
    | ((with_reducible apply Sub.le hp); rfl)
    | (extract_lets +onlyGivenNames yk; refine (kept_some (P := P) (s0 := s0) yk ?_).elim (fun _ hyk => ?_); subst yk; rotate_left; rw [hyk.2]; have _ := hyk.1; clear hyk; clear yk; rotate_left)
    | (with_reducible refine kept_forEach _ _ _ (fun _ _ _ => ?_) ?_)
    | (with_reducible refine kept_ite ?_ ?_)
    | (with_reducible apply kept_abandonPasses)
    | (with_reducible apply kept_faultChannel)
    | (with_reducible apply kept_linkLocal)
    | (with_reducible apply kept_planClose)

theorem kept_onFlt {P : Parts} {s0 : State} (s : State) (f : State → Nat → State)
    (hf : ∀ s k, Kept P s0 s → Kept P s0 (f s k)) (hk : Kept P s0 s) (hp : Sub 0x0 P) : Kept P s0 (onFlt s f) :=
  kept_forEach _ _ _ (fun _ _ h => hf _ _ h) hk

theorem kept_showRecord {P : Parts} {s0 : State} (s : State) (d : Nat) (l : List W64) (hk : Kept P s0 s) (hp : Sub 0x1 P) : Kept P s0 (showRecord s d l) := by
  unfold showRecord
  repeat' first
    | (with_reducible assumption)
    | (with_reducible refine kept_forEach _ _ _ (fun _ _ _ => ?_) ?_)
    | (with_reducible apply kept_setF)

theorem kept_dieNotes {P : Parts} {s0 : State} (s : State) (c : Cause) (l : List W64) (hk : Kept P s0 s) (hp : Sub 0x1 P) : Kept P s0 (dieNotes s c l) := by
  unfold dieNotes
  repeat' first
    | (with_reducible assumption)
    | (extract_lets +onlyGivenNames yk; refine (kept_some (P := P) (s0 := s0) yk ?_).elim (fun _ hyk => ?_); subst yk; rotate_left; rw [hyk.2]; have _ := hyk.1; clear hyk; clear yk; rotate_left)
    | (with_reducible refine kept_ite ?_ ?_)
    | (with_reducible apply kept_recordErr)
    | (with_reducible apply kept_showRecord)

theorem kept_enterFaulted {P : Parts} {s0 : State} (s : State) (die : Nat) (cause : Nat) (hk : Kept P s0 s) (hp : Sub 0x3003ef0001d009 P) : Kept P s0 (enterFaulted s die cause) := by
  unfold enterFaulted
  repeat' first
    | (with_reducible assumption)
    | ((with_reducible apply Sub.le hp); rfl)
    | (extract_lets +onlyGivenNames yk; refine (kept_some (P := P) (s0 := s0) yk ?_).elim (fun _ hyk => ?_); subst yk; rotate_left; rw [hyk.2]; have _ := hyk.1; clear hyk; clear yk; rotate_left)
    | (extract_lets +onlyGivenNames yk; clear_value yk; revert yk; intro _)
    | (with_reducible refine kept_ite ?_ ?_)
    | (with_reducible apply kept_bumpF)
    | (with_reducible apply kept_cxlEvent)
    | (with_reducible apply kept_dieNotes)
    | (with_reducible apply kept_emit)
    | (with_reducible apply kept_pldm)
    | (with_reducible apply kept_event)
    | (with_reducible refine kept_onFlt _ _ (fun _ _ _ => ?_) ?_ ?_)
    | (with_reducible apply kept_setF)
    | (with_reducible apply kept_stopPart)
    | split
    | ((with_reducible refine kept_mk 0x38000000000 ?_ ?_ ?_ ?_); rotate_left; rfl; (constructor <;> first | exact fun _ => rfl | exact fun h => absurd h (by decide)); apply Sub.le hp; rfl)

theorem kept_secondary {P : Parts} {s0 : State} (s : State) (die : Nat) (cause : Nat) (hk : Kept P s0 s) (hp : Sub 0x68000000001 P) : Kept P s0 (secondary s die cause) := by
  unfold secondary
  repeat' first
    | (with_reducible assumption)
    | ((with_reducible apply Sub.le hp); rfl)
    | (extract_lets +onlyGivenNames yk; refine (kept_some (P := P) (s0 := s0) yk ?_).elim (fun _ hyk => ?_); subst yk; rotate_left; rw [hyk.2]; have _ := hyk.1; clear hyk; clear yk; rotate_left)
    | (extract_lets +onlyGivenNames yk; clear_value yk; revert yk; intro _)
    | (with_reducible refine kept_ite ?_ ?_)
    | (with_reducible apply kept_bumpF)
    | (with_reducible apply kept_dieNotes)
    | (with_reducible apply kept_recordErr)
    | (with_reducible apply kept_showRecord)
    | split
    | ((with_reducible refine kept_mk 0x68000000000 ?_ ?_ ?_ ?_); rotate_left; rfl; (constructor <;> first | exact fun _ => rfl | exact fun h => absurd h (by decide)); apply Sub.le hp; rfl)

theorem kept_recordFault {P : Parts} {s0 : State} (s : State) (hk : Kept P s0 s) (hp : Sub 0x60000000001 P) : Kept P s0 (recordFault s) := by
  unfold recordFault
  repeat' first
    | (with_reducible assumption)
    | ((with_reducible apply Sub.le hp); rfl)
    | (extract_lets +onlyGivenNames yk; refine (kept_some (P := P) (s0 := s0) yk ?_).elim (fun _ hyk => ?_); subst yk; rotate_left; rw [hyk.2]; have _ := hyk.1; clear hyk; clear yk; rotate_left)
    | (with_reducible apply kept_showRecord)
    | split
    | ((with_reducible refine kept_mk 0x60000000000 ?_ ?_ ?_ ?_); rotate_left; rfl; (constructor <;> first | exact fun _ => rfl | exact fun h => absurd h (by decide)); apply Sub.le hp; rfl)

theorem kept_jobResetWrite {P : Parts} {s0 : State} (s : State) (v : W64) (hk : Kept P s0 s) (hp : Sub 0x3008ef0001d001 P) : Kept P s0 (jobResetWrite s v) := by
  unfold jobResetWrite
  repeat' first
    | (with_reducible assumption)
    | ((with_reducible apply Sub.le hp); rfl)
    | (extract_lets +onlyGivenNames yk; refine (kept_some (P := P) (s0 := s0) yk ?_).elim (fun _ hyk => ?_); subst yk; rotate_left; rw [hyk.2]; have _ := hyk.1; clear hyk; clear yk; rotate_left)
    | (extract_lets +onlyGivenNames yk; clear_value yk; revert yk; intro _)
    | (with_reducible refine kept_forEach _ _ _ (fun _ _ _ => ?_) ?_)
    | (with_reducible refine kept_ite ?_ ?_)
    | (with_reducible apply kept_dropHeld)
    | (with_reducible refine kept_onFlt _ _ (fun _ _ _ => ?_) ?_ ?_)
    | (with_reducible apply kept_refusal)
    | (with_reducible apply kept_setF)
    | (with_reducible apply kept_stopPart)
    | ((with_reducible refine kept_mk 0x80000000000 ?_ ?_ ?_ ?_); rotate_left; rfl; (constructor <;> first | exact fun _ => rfl | exact fun h => absurd h (by decide)); apply Sub.le hp; rfl)

theorem kept_recountRefs {P : Parts} {s0 : State} (s : State) (hk : Kept P s0 s) (hp : Sub 0x200000 P) : Kept P s0 (recountRefs s) := by
  unfold recountRefs
  repeat' first
    | (with_reducible assumption)
    | (dsimp only)
    | ((with_reducible refine kept_mk 0x200000 ?_ ?_ ?_ ?_); rotate_left; rfl; (constructor <;> first | exact fun _ => rfl | exact fun h => absurd h (by decide)); apply Sub.le hp; rfl)

theorem kept_clearTiles {P : Parts} {s0 : State} (s : State) (hk : Kept P s0 s) (hp : Sub 0x8000 P) : Kept P s0 (clearTiles s) := by
  refine ⟨hk.member, hk.pending, hk.drawn, hk.out, hk.log, fun c => ?_, hk.by (a := 0x8000) ?_ (hp.le rfl)⟩
  rotate_left
  · constructor <;> first | exact fun _ => rfl | exact fun h => absurd h (by decide)
  have k := hk.canonical c
  refine ⟨k.regs, k.regsSet, k.mem, k.imem, k.lib, ?_, k.uzoids⟩
  intro p hp
  obtain ⟨r, -, rfl⟩ := List.mem_map.1 (List.mem_filter.1 hp).1
  rfl

theorem kept_isolationGone {P : Parts} {s0 : State} (s : State) (hk : Kept P s0 s) (hp : Sub 0x3000ca0001d001 P) : Kept P s0 (isolationGone s) := by
  unfold isolationGone
  repeat' first
    | (with_reducible assumption)
    | ((with_reducible apply Sub.le hp); rfl)
    | (extract_lets +onlyGivenNames yk; refine (kept_some (P := P) (s0 := s0) yk ?_).elim (fun _ hyk => ?_); subst yk; rotate_left; rw [hyk.2]; have _ := hyk.1; clear hyk; clear yk; rotate_left)
    | (extract_lets +onlyGivenNames yk; clear_value yk; revert yk; intro _)
    | (with_reducible refine kept_forEach _ _ _ (fun _ _ _ => ?_) ?_)
    | (with_reducible refine kept_ite ?_ ?_)
    | (with_reducible apply kept_isolEnds)
    | (with_reducible apply kept_unstall)
    | (with_reducible apply kept_updChan)

theorem kept_clearJob {P : Parts} {s0 : State} (s : State) (hk : Kept P s0 s) (hp : Sub 0x3000ffebf1d001 P) : Kept P s0 (clearJob s) := by
  unfold clearJob
  repeat' first
    | (with_reducible assumption)
    | ((with_reducible apply Sub.le hp); rfl)
    | (extract_lets +onlyGivenNames yk; refine (kept_some (P := P) (s0 := s0) yk ?_).elim (fun _ hyk => ?_); subst yk; rotate_left; rw [hyk.2]; have _ := hyk.1; clear hyk; clear yk; rotate_left)
    | (extract_lets +onlyGivenNames yk; clear_value yk; revert yk; intro _)
    | (with_reducible refine kept_forEach _ _ _ (fun _ _ _ => ?_) ?_)
    | (with_reducible refine kept_ite ?_ ?_)
    | (with_reducible apply kept_clearDescEntry)
    | (with_reducible apply kept_clearRegs)
    | (with_reducible apply kept_clearTiles)
    | (with_reducible apply kept_dropHeld)
    | (with_reducible apply kept_isolationGone)
    | (with_reducible apply kept_recountRefs)
    | (with_reducible apply kept_setB)
    | (with_reducible apply kept_updPort)
    | (dsimp only)
    | ((with_reducible refine kept_mk 0x35cbd14000 ?_ ?_ ?_ ?_); rotate_left; rfl; (constructor <;> first | exact fun _ => rfl | exact fun h => absurd h (by decide)); apply Sub.le hp; rfl)

theorem kept_endJobReset {P : Parts} {s0 : State} (s : State) (hk : Kept P s0 s) (hp : Sub 0x3008ffebf1d029 P) : Kept P s0 (endJobReset s) := by
  unfold endJobReset
  repeat' first
    | (with_reducible assumption)
    | ((with_reducible apply Sub.le hp); rfl)
    | (extract_lets +onlyGivenNames yk; refine (kept_some (P := P) (s0 := s0) yk ?_).elim (fun _ hyk => ?_); subst yk; rotate_left; rw [hyk.2]; have _ := hyk.1; clear hyk; clear yk; rotate_left)
    | (with_reducible refine kept_forEach _ _ _ (fun _ _ _ => ?_) ?_)
    | (with_reducible refine kept_ite ?_ ?_)
    | (with_reducible apply kept_clearJob)
    | (with_reducible apply kept_event)
    | (with_reducible apply kept_linkLocal)
    | (with_reducible apply kept_settleLedger)
    | (with_reducible apply kept_settleVec)
    | ((with_reducible refine kept_mk 0x80000000000 ?_ ?_ ?_ ?_); rotate_left; rfl; (constructor <;> first | exact fun _ => rfl | exact fun h => absurd h (by decide)); apply Sub.le hp; rfl)

theorem kept_holdFetch {P : Parts} {s0 : State} (s : State) (on : Bool) (hk : Kept P s0 s) (hp : Sub 0x10000 P) : Kept P s0 (holdFetch s on) := by
  unfold holdFetch
  repeat' first
    | (with_reducible assumption)
    | (with_reducible apply kept_updSeq)

theorem kept_fenceFlush {P : Parts} {s0 : State} (s : State) (hk : Kept P s0 s) (hp : Sub 0x100000000001 P) : Kept P s0 (fenceFlush s) := by
  unfold fenceFlush
  repeat' first
    | (with_reducible assumption)
    | ((with_reducible apply Sub.le hp); rfl)
    | (extract_lets +onlyGivenNames yk; revert yk; intro _)
    | (with_reducible refine kept_forEach _ _ _ (fun _ _ _ => ?_) ?_)
    | (with_reducible refine kept_ite ?_ ?_)
    | (with_reducible apply kept_flushDirty)
    | ((with_reducible refine kept_mk 0x100000000000 ?_ ?_ ?_ ?_); rotate_left; rfl; (constructor <;> first | exact fun _ => rfl | exact fun h => absurd h (by decide)); apply Sub.le hp; rfl)

theorem kept_fenceGo {P : Parts} {s0 : State} (s : State) (v : W64) (hk : Kept P s0 s) (hp : Sub 0x100000010001 P) : Kept P s0 (fenceGo s v) := by
  unfold fenceGo
  repeat' first
    | (with_reducible assumption)
    | ((with_reducible apply Sub.le hp); rfl)
    | (extract_lets +onlyGivenNames yk; refine (kept_some (P := P) (s0 := s0) yk ?_).elim (fun _ hyk => ?_); subst yk; rotate_left; rw [hyk.2]; have _ := hyk.1; clear hyk; clear yk; rotate_left)
    | (extract_lets +onlyGivenNames yk; clear_value yk; revert yk; intro _)
    | (with_reducible refine kept_ite ?_ ?_)
    | (with_reducible apply kept_fenceFlush)
    | (with_reducible apply kept_holdFetch)
    | (with_reducible apply kept_refusal)
    | (with_reducible apply kept_setB)
    | (with_reducible apply kept_setF)

theorem kept_fenceEnd {P : Parts} {s0 : State} (s : State) (hk : Kept P s0 s) (hp : Sub 0x100000010001 P) : Kept P s0 (fenceEnd s) := by
  unfold fenceEnd
  repeat' first
    | (with_reducible assumption)
    | ((with_reducible apply Sub.le hp); rfl)
    | (extract_lets +onlyGivenNames yk; refine (kept_some (P := P) (s0 := s0) yk ?_).elim (fun _ hyk => ?_); subst yk; rotate_left; rw [hyk.2]; have _ := hyk.1; clear hyk; clear yk; rotate_left)
    | (extract_lets +onlyGivenNames yk; clear_value yk; revert yk; intro _)
    | (extract_lets +onlyGivenNames yk; revert yk; intro _)
    | (with_reducible refine kept_ite ?_ ?_)
    | (with_reducible apply kept_event)
    | (with_reducible apply kept_fenceFlush)
    | (with_reducible apply kept_holdFetch)
    | (with_reducible apply kept_setB)
    | (with_reducible apply kept_setF)
    | ((with_reducible refine kept_mk 0x100000000000 ?_ ?_ ?_ ?_); rotate_left; rfl; (constructor <;> first | exact fun _ => rfl | exact fun h => absurd h (by decide)); apply Sub.le hp; rfl)

theorem kept_fenceLet {P : Parts} {s0 : State} (s : State) (v : W64) (hk : Kept P s0 s) (hp : Sub 0x10001 P) : Kept P s0 (fenceLet s v) := by
  unfold fenceLet
  repeat' first
    | (with_reducible assumption)
    | ((with_reducible apply Sub.le hp); rfl)
    | (with_reducible refine kept_ite ?_ ?_)
    | (with_reducible apply kept_holdFetch)
    | (with_reducible apply kept_setF)

theorem kept_wdogWrite {P : Parts} {s0 : State} (s : State) (d : Nat) (v : W64) (hk : Kept P s0 s) (hp : Sub 0x200000000001 P) : Kept P s0 (wdogWrite s d v) := by
  unfold wdogWrite
  repeat' first
    | (with_reducible assumption)
    | ((with_reducible apply Sub.le hp); rfl)
    | (extract_lets +onlyGivenNames yk; refine (kept_some (P := P) (s0 := s0) yk ?_).elim (fun _ hyk => ?_); subst yk; rotate_left; rw [hyk.2]; have _ := hyk.1; clear hyk; clear yk; rotate_left)
    | (with_reducible refine kept_ite ?_ ?_)
    | (with_reducible apply kept_storeRW)
    | ((with_reducible refine kept_mk 0x200000000000 ?_ ?_ ?_ ?_); rotate_left; rfl; (constructor <;> first | exact fun _ => rfl | exact fun h => absurd h (by decide)); apply Sub.le hp; rfl)

theorem kept_expire {P : Parts} {s0 : State} (s : State) (d : Nat) (hk : Kept P s0 s) (hp : Sub 0x4808800000001 P) : Kept P s0 (expire s d) := by
  unfold expire
  repeat' first
    | (with_reducible assumption)
    | ((with_reducible apply Sub.le hp); rfl)
    | (extract_lets +onlyGivenNames yk; refine (kept_some (P := P) (s0 := s0) yk ?_).elim (fun _ hyk => ?_); subst yk; rotate_left; rw [hyk.2]; have _ := hyk.1; clear hyk; clear yk; rotate_left)
    | (extract_lets +onlyGivenNames yk; clear_value yk; revert yk; intro _)
    | (with_reducible refine kept_ite ?_ ?_)
    | (with_reducible apply kept_bumpF)
    | (with_reducible apply kept_event)
    | (with_reducible apply kept_raiseCause)
    | ((with_reducible refine kept_mk 0x4800800000000 ?_ ?_ ?_ ?_); rotate_left; rfl; (constructor <;> first | exact fun _ => rfl | exact fun h => absurd h (by decide)); apply Sub.le hp; rfl)

/-- A started core's memories are in canonical form. -/
theorem startCore_wf (k : Uzoid) : Memory.wf (startCore k).iram = true ∧ Memory.wf (startCore k).dram = true :=
  ⟨mwrite_wf _ _ _ rfl, rfl⟩

theorem kept_coreStarts {P : Parts} {s0 : State} (s : State) (d : Nat) (hk : Kept P s0 s) (hp : Sub 0x600000000000 P) : Kept P s0 (coreStarts s d) := by
  refine ⟨hk.member, hk.pending, hk.drawn, hk.out, hk.log, fun c => ?_, hk.by (a := 0x600000000000) ?_ (hp.le rfl)⟩
  rotate_left
  · constructor <;> first | exact fun _ => rfl | exact fun h => absurd h (by decide)
  have k := hk.canonical c
  refine ⟨k.regs, k.regsSet, k.mem, k.imem, k.lib, k.tiles, fun p hp => ?_⟩
  rcases mem_tset.1 hp with ⟨rfl, -⟩ | ⟨hp, -⟩
  · exact startCore_wf _
  · exact k.uzoids p hp

theorem kept_restarted {P : Parts} {s0 : State} (s : State) (d : Nat) (copyOk : Bool) (hk : Kept P s0 s) (hp : Sub 0x10e0dc06007f09 P) : Kept P s0 (restarted s d copyOk) := by
  unfold restarted
  repeat' first
    | (with_reducible assumption)
    | ((with_reducible apply Sub.le hp); rfl)
    | (extract_lets +onlyGivenNames yk; refine (kept_some (P := P) (s0 := s0) yk ?_).elim (fun _ hyk => ?_); subst yk; rotate_left; rw [hyk.2]; have _ := hyk.1; clear hyk; clear yk; rotate_left)
    | (with_reducible refine kept_ite ?_ ?_)
    | (with_reducible apply kept_coreStarts)
    | (with_reducible apply kept_planCmd)
    | (with_reducible apply kept_raiseCause)
    | (with_reducible apply kept_recordErr)
    | ((with_reducible refine kept_mk 0x800000000000 ?_ ?_ ?_ ?_); rotate_left; rfl; (constructor <;> first | exact fun _ => rfl | exact fun h => absurd h (by decide)); apply Sub.le hp; rfl)

theorem kept_assertWrite {P : Parts} {s0 : State} (s : State) (w : Writer) (d : Nat) (v : W64) (hk : Kept P s0 s) (hp : Sub 0x8000000001 P) : Kept P s0 (assertWrite s w d v) := by
  unfold assertWrite
  repeat' first
    | (with_reducible assumption)
    | ((with_reducible apply Sub.le hp); rfl)
    | (extract_lets +onlyGivenNames yk; clear_value yk; revert yk; intro _)
    | (with_reducible refine kept_ite ?_ ?_)
    | (with_reducible apply kept_raiseCause)
    | (with_reducible apply kept_recordErr)

theorem kept_recClear {P : Parts} {s0 : State} (s : State) (d : Nat) (v : W64) (hk : Kept P s0 s) (hp : Sub 0x1 P) : Kept P s0 (recClear s d v) := by
  unfold recClear
  repeat' first
    | (with_reducible assumption)
    | (with_reducible refine kept_ite ?_ ?_)
    | (with_reducible apply kept_recordErr)
    | (with_reducible apply kept_showRecord)

theorem kept_execFaultEntry {P : Parts} {s0 : State} (die : Nat) (cause : Nat) (s : State) (hk : Kept P s0 s) (hp : Sub 0x3003ef0001d009 P) : KeptR P s0 (execFaultEntry die cause s) := by
  unfold execFaultEntry
  repeat' first
    | (with_reducible refine keptR_onObj (by assumption) ?_)
    | (with_reducible assumption)
    | (with_reducible apply kept_enterFaulted)

theorem kept_execSecondaryFault {P : Parts} {s0 : State} (die : Nat) (cause : Nat) (s : State) (hk : Kept P s0 s) (hp : Sub 0x68000000001 P) : KeptR P s0 (execSecondaryFault die cause s) := by
  unfold execSecondaryFault
  repeat' first
    | (with_reducible refine keptR_onObj (by assumption) ?_)
    | (with_reducible assumption)
    | (with_reducible apply kept_secondary)

theorem kept_execFaultRecord {P : Parts} {s0 : State} (s : State) (hk : Kept P s0 s) (hp : Sub 0x60000000001 P) : KeptR P s0 (execFaultRecord s) := by
  unfold execFaultRecord
  repeat' first
    | (with_reducible refine keptR_next ?_)
    | (with_reducible assumption)
    | (with_reducible apply kept_recordFault)

theorem kept_execJobReset {P : Parts} {s0 : State} (_w : Writer) (v : W64) (s : State) (hk : Kept P s0 s) (hp : Sub 0x3008ef0001d001 P) : KeptR P s0 (execJobReset _w v s) := by
  unfold execJobReset
  repeat' first
    | (with_reducible refine keptR_next ?_)
    | (with_reducible assumption)
    | (with_reducible apply kept_jobResetWrite)

theorem kept_execResetDone {P : Parts} {s0 : State} (s : State) (hk : Kept P s0 s) (hp : Sub 0x3008ffebf1d029 P) : KeptR P s0 (execResetDone s) := by
  unfold execResetDone
  repeat' first
    | (with_reducible refine keptR_next ?_)
    | (with_reducible assumption)
    | (with_reducible apply kept_endJobReset)

theorem kept_execCheckpointFence {P : Parts} {s0 : State} (_w : Writer) (v : W64) (s : State) (hk : Kept P s0 s) (hp : Sub 0x100000010001 P) : KeptR P s0 (execCheckpointFence _w v s) := by
  unfold execCheckpointFence
  repeat' first
    | (with_reducible refine keptR_next ?_)
    | (with_reducible assumption)
    | ((with_reducible apply Sub.le hp); rfl)
    | (with_reducible apply kept_fenceGo)
    | (with_reducible apply kept_fenceLet)

theorem kept_execFenceDone {P : Parts} {s0 : State} (s : State) (hk : Kept P s0 s) (hp : Sub 0x100000010001 P) : KeptR P s0 (execFenceDone s) := by
  unfold execFenceDone
  repeat' first
    | (with_reducible refine keptR_next ?_)
    | (with_reducible assumption)
    | (with_reducible apply kept_fenceEnd)

theorem kept_execFenceReleaseWrite {P : Parts} {s0 : State} (_w : Writer) (v : W64) (s : State) (hk : Kept P s0 s) (hp : Sub 0x100000010001 P) : KeptR P s0 (execFenceReleaseWrite _w v s) := by
  unfold execFenceReleaseWrite
  repeat' first
    | (with_reducible refine keptR_next ?_)
    | (with_reducible assumption)
    | ((with_reducible apply Sub.le hp); rfl)
    | (with_reducible apply kept_fenceGo)
    | (with_reducible apply kept_fenceLet)

theorem kept_execWdogKick {P : Parts} {s0 : State} (_w : Writer) (die : Nat) (v : W64) (s : State) (hk : Kept P s0 s) (hp : Sub 0x200000000001 P) : KeptR P s0 (execWdogKick _w die v s) := by
  unfold execWdogKick
  repeat' first
    | (with_reducible refine keptR_onPage (by assumption) ?_ ?_)
    | (with_reducible assumption)
    | ((with_reducible apply Sub.le hp); rfl)
    | (with_reducible apply kept_wdogWrite)

theorem kept_execWdogExpired {P : Parts} {s0 : State} (die : Nat) (s : State) (hk : Kept P s0 s) (hp : Sub 0x4808800000001 P) : KeptR P s0 (execWdogExpired die s) := by
  unfold execWdogExpired
  repeat' first
    | (with_reducible refine keptR_onObj (by assumption) ?_)
    | (with_reducible assumption)
    | (with_reducible apply kept_expire)

theorem kept_execCoreRestartDone {P : Parts} {s0 : State} (die : Nat) (copyOk : Bool) (s : State) (hk : Kept P s0 s) (hp : Sub 0x10e0dc06007f09 P) : KeptR P s0 (execCoreRestartDone die copyOk s) := by
  unfold execCoreRestartDone
  repeat' first
    | (with_reducible refine keptR_onObj (by assumption) ?_)
    | (with_reducible assumption)
    | (with_reducible apply kept_restarted)

theorem kept_execFltAssert {P : Parts} {s0 : State} (w : Writer) (die : Nat) (v : W64) (s : State) (hk : Kept P s0 s) (hp : Sub 0x8000000001 P) : KeptR P s0 (execFltAssert w die v s) := by
  unfold execFltAssert
  repeat' first
    | (with_reducible refine keptR_onPage (by assumption) ?_ ?_)
    | (with_reducible assumption)
    | ((with_reducible apply Sub.le hp); rfl)
    | (with_reducible apply kept_assertWrite)

theorem kept_execRecclr {P : Parts} {s0 : State} (_w : Writer) (die : Nat) (v : W64) (s : State) (hk : Kept P s0 s) (hp : Sub 0x1 P) : KeptR P s0 (execRecclr _w die v s) := by
  unfold execRecclr
  repeat' first
    | (with_reducible refine keptR_onPage (by assumption) ?_ ?_)
    | (with_reducible assumption)
    | (with_reducible apply kept_recClear)

end Sys2Proof.Machine
end

