-- ==== Sys2Proof/Laws/KeptBoot.lean ====
section
/-! SUPPORT. `Kept` for the operations of Machine/Boot.lean: one lemma per function that changes the state. -/
namespace Sys2Proof.Machine

theorem kept_keepHeld {P : Parts} {s0 : State} (old : State) (s : State) (st : Nat) (hk : Kept P s0 s) (hp : Sub 0x2001 P) : Kept P s0 (keepHeld old s st) := by
  unfold keepHeld
  repeat' first
    | (with_reducible assumption)
    | ((with_reducible apply Sub.le hp); rfl)
    | (extract_lets +onlyGivenNames yk; refine (kept_some (P := P) (s0 := s0) yk ?_).elim (fun _ hyk => ?_); subst yk; rotate_left; rw [hyk.2]; have _ := hyk.1; clear hyk; clear yk; rotate_left)
    | (extract_lets +onlyGivenNames yk; clear_value yk; revert yk; intro _)
    | (with_reducible apply kept_setF)
    | (with_reducible apply kept_updStack)

theorem kept_diesDown {P : Parts} {s0 : State} (s : State) (held : List Nat) (hk : Kept P s0 s) (hp : Sub 0x3fffffffffffff P) : Kept P s0 (diesDown s held) := by
  refine ⟨hk.member, hk.pending, hk.drawn, hk.out, hk.log, fun c => ?_, hk.by (a := 0x3fffffffffffff) ?_ (hp.le rfl)⟩
  rotate_left
  · constructor <;> first | exact fun _ => rfl | exact fun h => absurd h (by decide)
  have k := hk.canonical c
  refine ⟨rfl, ?_, twf_filter _ _ _ k.mem, rfl, rfl, ?_, ?_⟩ <;> intro p hp <;> cases hp

theorem kept_resetDies {P : Parts} {s0 : State} (s : State) (held : List Nat) (hk : Kept P s0 s) (hp : Sub 0x3fffffffffffff P) : Kept P s0 (resetDies s held) := by
  unfold resetDies
  repeat' first
    | (with_reducible assumption)
    | ((with_reducible apply Sub.le hp); rfl)
    | (with_reducible refine kept_forEach _ _ _ (fun _ _ _ => ?_) ?_)
    | (with_reducible apply kept_diesDown)
    | (with_reducible apply kept_keepHeld)

theorem kept_slotFails {P : Parts} {s0 : State} (s : State) (k : Nat) (bodyOk : Bool) (hk : Kept P s0 s) (hp : Sub 0x10000000000000 P) : Kept P s0 (slotFails s k bodyOk).2 := by
  unfold slotFails
  repeat' first
    | (with_reducible assumption)
    | (with_reducible apply kept_draw_snd)
    | split

theorem kept_slotFails_eq {P : Parts} {s0 : State} {x0} {tt} (s : State) (k : Nat) (bodyOk : Bool) (hk : Kept P s0 s) (hp : Sub 0x10000000000000 P) (he : slotFails s k bodyOk = (x0, tt)) : Kept P s0 tt := by
  have g := kept_slotFails s k bodyOk hk hp
  rw [he] at g; exact g

theorem kept_verifySlot {P : Parts} {s0 : State} (s : State) (k : Nat) (bodyOk : Bool) (hk : Kept P s0 s) (hp : Sub 0x10000000000001 P) : Kept P s0 (verifySlot s k bodyOk).2 := by
  unfold verifySlot
  repeat' first
    | (with_reducible assumption)
    | ((with_reducible apply Sub.le hp); rfl)
    | (with_reducible apply kept_recordErr)
    | (with_reducible refine kept_slotFails_eq _ _ _ ?_ ?_ (by assumption))
    | split

theorem kept_verifySlot_eq {P : Parts} {s0 : State} {x0} {tt} (s : State) (k : Nat) (bodyOk : Bool) (hk : Kept P s0 s) (hp : Sub 0x10000000000001 P) (he : verifySlot s k bodyOk = (x0, tt)) : Kept P s0 tt := by
  have g := kept_verifySlot s k bodyOk hk hp
  rw [he] at g; exact g

theorem kept_cxlUp {P : Parts} {s0 : State} (s : State) (hk : Kept P s0 s) (hp : Sub 0x800000001 P) : Kept P s0 (cxlUp s) := by
  unfold cxlUp
  repeat' first
    | (with_reducible assumption)
    | ((with_reducible apply Sub.le hp); rfl)
    | (extract_lets +onlyGivenNames yk; refine (kept_some (P := P) (s0 := s0) yk ?_).elim (fun _ hyk => ?_); subst yk; rotate_left; rw [hyk.2]; have _ := hyk.1; clear hyk; clear yk; rotate_left)
    | (extract_lets +onlyGivenNames yk; clear_value yk; revert yk; intro _)
    | (with_reducible apply kept_setB)
    | (with_reducible apply kept_setF)
    | ((with_reducible refine kept_mk 0x800000000 ?_ ?_ ?_ ?_); rotate_left; rfl; (constructor <;> first | exact fun _ => rfl | exact fun h => absurd h (by decide)); apply Sub.le hp; rfl)

theorem kept_recovery {P : Parts} {s0 : State} (s : State) (code : Nat) (hk : Kept P s0 s) (hp : Sub 0x800000001 P) : Kept P s0 (recovery s code) := by
  unfold recovery
  repeat' first
    | (with_reducible assumption)
    | ((with_reducible apply Sub.le hp); rfl)
    | (with_reducible apply kept_cxlUp)
    | (with_reducible apply kept_setF)

theorem kept_loadRoutes {P : Parts} {s0 : State} (s : State) (hk : Kept P s0 s) (hp : Sub 0x1 P) : Kept P s0 (loadRoutes s) := by
  unfold loadRoutes
  repeat' first
    | (with_reducible assumption)
    | (extract_lets +onlyGivenNames yk; refine (kept_some (P := P) (s0 := s0) yk ?_).elim (fun _ hyk => ?_); subst yk; rotate_left; rw [hyk.2]; have _ := hyk.1; clear hyk; clear yk; rotate_left)
    | (extract_lets +onlyGivenNames yk; clear_value yk; revert yk; intro _)
    | (with_reducible refine kept_forEach _ _ _ (fun _ _ _ => ?_) ?_)
    | (with_reducible apply kept_setB)
    | (with_reducible apply kept_setF)
    | split

theorem kept_loadDatelines {P : Parts} {s0 : State} (s : State) (hk : Kept P s0 s) (hp : Sub 0x1 P) : Kept P s0 (loadDatelines s) := by
  unfold loadDatelines
  repeat' first
    | (with_reducible assumption)
    | (with_reducible refine kept_forEach _ _ _ (fun _ _ _ => ?_) ?_)
    | (with_reducible apply kept_setB)

theorem kept_loadStores {P : Parts} {s0 : State} (s : State) (img : FwImage) (hk : Kept P s0 s) (hp : Sub 0xe0000 P) : Kept P s0 (loadStores s img) := by
  refine ⟨hk.member, hk.pending, hk.drawn, hk.out, hk.log, fun c => ?_, hk.by (a := 0xe0000) ?_ (hp.le rfl)⟩
  rotate_left
  · constructor <;> first | exact fun _ => rfl | exact fun h => absurd h (by decide)
  have k := hk.canonical c
  refine ⟨k.regs, k.regsSet, k.mem, ?_, mwrite_wf _ _ _ rfl, k.tiles, k.uzoids⟩
  have key : ∀ (l : List Nat) (m : List Host.Cell), Memory.wf m = true →
      Memory.wf (l.foldl (fun m d => mwrite m (2 ^ 20 * d) (img.imem.take (2 ^ 20))) m) = true := by
    intro l
    induction l with
    | nil => exact fun _ h => h
    | cons a r ih => exact fun m h => ih _ (mwrite_wf _ _ _ h)
  exact key _ _ rfl

theorem kept_loadImage {P : Parts} {s0 : State} (s : State) (img : FwImage) (hk : Kept P s0 s) (hp : Sub 0xe0001 P) : Kept P s0 (loadImage s img) := by
  unfold loadImage
  repeat' first
    | (with_reducible assumption)
    | ((with_reducible apply Sub.le hp); rfl)
    | (extract_lets +onlyGivenNames yk; refine (kept_some (P := P) (s0 := s0) yk ?_).elim (fun _ hyk => ?_); subst yk; rotate_left; rw [hyk.2]; have _ := hyk.1; clear hyk; clear yk; rotate_left)
    | (extract_lets +onlyGivenNames yk; clear_value yk; revert yk; intro _)
    | (with_reducible refine kept_forEach _ _ _ (fun _ _ _ => ?_) ?_)
    | (with_reducible apply kept_loadStores)
    | (with_reducible apply kept_setB)
    | (with_reducible apply kept_setF)

theorem kept_coresUp {P : Parts} {s0 : State} (s : State) (img : FwImage) (hk : Kept P s0 s) (hp : Sub 0x400000000000 P) : Kept P s0 (coresUp s img) := by
  refine ⟨hk.member, hk.pending, hk.drawn, hk.out, hk.log, fun c => ?_, hk.by (a := 0x400000000000) ?_ (hp.le rfl)⟩
  rotate_left
  · constructor <;> first | exact fun _ => rfl | exact fun h => absurd h (by decide)
  have k := hk.canonical c
  refine ⟨k.regs, k.regsSet, k.mem, k.imem, k.lib, k.tiles, ?_⟩
  have key : ∀ (l : List Nat) (u : Tbl Uzoid), (∀ p ∈ u, Memory.wf p.2.iram = true ∧ Memory.wf p.2.dram = true) →
      ∀ p ∈ l.foldl (fun k d => tset {} k d (startCore ({ copy := img.core }))) u, Memory.wf p.2.iram = true ∧ Memory.wf p.2.dram = true := by
    intro l
    induction l with
    | nil => exact fun _ h => h
    | cons a r ih =>
      intro u h
      refine ih _ (fun p hp => ?_)
      rcases mem_tset.1 hp with ⟨rfl, -⟩ | ⟨hp, -⟩
      · exact ⟨mwrite_wf _ _ _ rfl, rfl⟩
      · exact h p hp
  exact key _ [] (fun p hp => by cases hp)

theorem kept_tilesUp {P : Parts} {s0 : State} (s : State) (img : FwImage) (hk : Kept P s0 s) (hp : Sub 0x200000008000 P) : Kept P s0 (tilesUp s img) := by
  refine ⟨hk.member, hk.pending, hk.drawn, hk.out, hk.log, fun c => ?_, hk.by (a := 0x200000008000) ?_ (hp.le rfl)⟩
  rotate_left
  · constructor <;> first | exact fun _ => rfl | exact fun h => absurd h (by decide)
  have k := hk.canonical c
  refine ⟨k.regs, k.regsSet, k.mem, k.imem, k.lib, ?_, k.uzoids⟩
  intro p hp
  obtain ⟨r, -, rfl⟩ := List.mem_map.1 hp
  rfl

theorem kept_beginTraining {P : Parts} {s0 : State} (s : State) (st : Nat) (hk : Kept P s0 s) (hp : Sub 0x1 P) : Kept P s0 (beginTraining s st) := by
  unfold beginTraining
  repeat' first
    | (with_reducible assumption)
    | (with_reducible apply kept_setB)

theorem kept_storedFallow {P : Parts} {s0 : State} (s : State) (hk : Kept P s0 s) (hp : Sub 0x2000 P) : Kept P s0 (storedFallow s) := by
  unfold storedFallow
  repeat' first
    | (with_reducible assumption)
    | (with_reducible refine kept_forEach _ _ _ (fun _ _ _ => ?_) ?_)
    | (with_reducible apply kept_updStack)

theorem kept_firmwareUp {P : Parts} {s0 : State} (s : State) (img : FwImage) (hk : Kept P s0 s) (hp : Sub 0x6008200ea005 P) : Kept P s0 (firmwareUp s img) := by
  unfold firmwareUp
  repeat' first
    | (with_reducible assumption)
    | ((with_reducible apply Sub.le hp); rfl)
    | (extract_lets +onlyGivenNames yk; refine (kept_some (P := P) (s0 := s0) yk ?_).elim (fun _ hyk => ?_); subst yk; rotate_left; rw [hyk.2]; have _ := hyk.1; clear hyk; clear yk; rotate_left)
    | (extract_lets +onlyGivenNames yk; clear_value yk; revert yk; intro _)
    | (with_reducible refine kept_forEach _ _ _ (fun _ _ _ => ?_) ?_)
    | (with_reducible apply kept_beginTraining)
    | (with_reducible apply kept_coresUp)
    | (with_reducible apply kept_cxlUp)
    | (with_reducible apply kept_loadDatelines)
    | (with_reducible apply kept_loadImage)
    | (with_reducible apply kept_loadRoutes)
    | (with_reducible apply kept_setBalance)
    | (with_reducible apply kept_setF)
    | (with_reducible apply kept_startTraining)
    | (with_reducible apply kept_storedFallow)
    | (with_reducible apply kept_tilesUp)
    | split
    | ((with_reducible refine kept_mk 0x4 ?_ ?_ ?_ ?_); rotate_left; rfl; (constructor <;> first | exact fun _ => rfl | exact fun h => absurd h (by decide)); apply Sub.le hp; rfl)

theorem kept_rebuildKey {P : Parts} {s0 : State} (s : State) (ok : Bool) (hk : Kept P s0 s) (hp : Sub 0x1 P) : Kept P s0 (rebuildKey s ok) := by
  unfold rebuildKey
  repeat' first
    | (with_reducible assumption)
    | (with_reducible refine kept_ite ?_ ?_)
    | (with_reducible apply kept_event)
    | (with_reducible apply kept_setF)

theorem kept_bootFrom {P : Parts} {s0 : State} (s : State) (b : BootIn) (k : Nat) (hk : Kept P s0 s) (hp : Sub 0x6008200ea005 P) : Kept P s0 (bootFrom s b k) := by
  unfold bootFrom
  repeat' first
    | (with_reducible assumption)
    | ((with_reducible apply Sub.le hp); rfl)
    | (extract_lets +onlyGivenNames yk; refine (kept_some (P := P) (s0 := s0) yk ?_).elim (fun _ hyk => ?_); subst yk; rotate_left; rw [hyk.2]; have _ := hyk.1; clear hyk; clear yk; rotate_left)
    | (with_reducible refine kept_ite ?_ ?_)
    | (with_reducible apply kept_firmwareUp)
    | (with_reducible apply kept_rebuildKey)
    | (with_reducible apply kept_recordErr)
    | (with_reducible apply kept_recovery)
    | (with_reducible apply kept_setF)
    | split

theorem kept_edgesUp {P : Parts} {s0 : State} (s : State) (hk : Kept P s0 s) (hp : Sub 0x1 P) : Kept P s0 (edgesUp s) := by
  unfold edgesUp
  repeat' first
    | (with_reducible assumption)
    | (with_reducible refine kept_forEach _ _ _ (fun _ _ _ => ?_) ?_)
    | (with_reducible apply kept_setF)

theorem kept_boot {P : Parts} {s0 : State} (s : State) (b : BootIn) (hk : Kept P s0 s) (hp : Sub 0x106008200ea005 P) : Kept P s0 (boot s b) := by
  unfold boot
  repeat' first
    | (with_reducible assumption)
    | ((with_reducible apply Sub.le hp); rfl)
    | (extract_lets +onlyGivenNames yk; refine (kept_some (P := P) (s0 := s0) yk ?_).elim (fun _ hyk => ?_); subst yk; rotate_left; rw [hyk.2]; have _ := hyk.1; clear hyk; clear yk; rotate_left)
    | (extract_lets +onlyGivenNames yk; revert yk; intro _)
    | (with_reducible refine kept_ite ?_ ?_)
    | (with_reducible apply kept_bootFrom)
    | (with_reducible apply kept_edgesUp)
    | (with_reducible apply kept_event)
    | (with_reducible apply kept_recovery)
    | (with_reducible apply kept_setB)
    | (with_reducible apply kept_verifySlot)

theorem kept_perstDown {P : Parts} {s0 : State} (s : State) (hk : Kept P s0 s) (hp : Sub 0x3fffffffffffff P) : Kept P s0 (perstDown s) := by
  unfold perstDown
  repeat' first
    | (with_reducible assumption)
    | (extract_lets +onlyGivenNames yk; refine (kept_some (P := P) (s0 := s0) yk ?_).elim (fun _ hyk => ?_); subst yk; rotate_left; rw [hyk.2]; have _ := hyk.1; clear hyk; clear yk; rotate_left)
    | (extract_lets +onlyGivenNames yk; clear_value yk; revert yk; intro _)
    | (with_reducible refine kept_ite ?_ ?_)
    | (with_reducible apply kept_resetDies)
    | ((with_reducible refine kept_mk 0x4000000000000 ?_ ?_ ?_ ?_); rotate_left; rfl; (constructor <;> first | exact fun _ => rfl | exact fun h => absurd h (by decide)); apply Sub.le hp; rfl)

theorem kept_perstUp {P : Parts} {s0 : State} (s : State) (b : BootIn) (hk : Kept P s0 s) (hp : Sub 0x146008200ea005 P) : Kept P s0 (perstUp s b) := by
  unfold perstUp
  repeat' first
    | (with_reducible assumption)
    | ((with_reducible apply Sub.le hp); rfl)
    | (extract_lets +onlyGivenNames yk; refine (kept_some (P := P) (s0 := s0) yk ?_).elim (fun _ hyk => ?_); subst yk; rotate_left; rw [hyk.2]; have _ := hyk.1; clear hyk; clear yk; rotate_left)
    | (extract_lets +onlyGivenNames yk; clear_value yk; revert yk; intro _)
    | (with_reducible refine kept_ite ?_ ?_)
    | (with_reducible apply kept_boot)
    | ((with_reducible refine kept_mk 0x4000000000000 ?_ ?_ ?_ ?_); rotate_left; rfl; (constructor <;> first | exact fun _ => rfl | exact fun h => absurd h (by decide)); apply Sub.le hp; rfl)

theorem kept_zeroStack {P : Parts} {s0 : State} (s : State) (st : Nat) (hk : Kept P s0 s) (hp : Sub 0x4000000f00 P) : Kept P s0 (zeroStack s st) := by
  unfold zeroStack
  repeat' first
    | (with_reducible assumption)
    | ((with_reducible apply Sub.le hp); rfl)
    | (extract_lets +onlyGivenNames yk; refine (kept_some (P := P) (s0 := s0) yk ?_).elim (fun _ hyk => ?_); subst yk; rotate_left; rw [hyk.2]; have _ := hyk.1; clear hyk; clear yk; rotate_left)
    | (extract_lets +onlyGivenNames yk; clear_value yk; revert yk; intro _)
    | (with_reducible apply kept_charge)
    | (with_reducible apply kept_clrMem)
    | ((with_reducible refine kept_mk 0xe00 ?_ ?_ ?_ ?_); rotate_left; rfl; (constructor <;> first | exact fun _ => rfl | exact fun h => absurd h (by decide)); apply Sub.le hp; rfl)

theorem kept_endTraining {P : Parts} {s0 : State} (s : State) (st : Nat) (hk : Kept P s0 s) (hp : Sub 0x1001 P) : Kept P s0 (endTraining s st) := by
  unfold endTraining
  repeat' first
    | (with_reducible assumption)
    | ((with_reducible apply Sub.le hp); rfl)
    | (extract_lets +onlyGivenNames yk; refine (kept_some (P := P) (s0 := s0) yk ?_).elim (fun _ hyk => ?_); subst yk; rotate_left; rw [hyk.2]; have _ := hyk.1; clear hyk; clear yk; rotate_left)
    | (with_reducible apply kept_admitStack)
    | (with_reducible apply kept_beginTraining)
    | (with_reducible apply kept_setB)
    | split

theorem kept_concludeTraining {P : Parts} {s0 : State} (s : State) (st : Nat) (bad : Option (Nat × Nat)) (hk : Kept P s0 s) (hp : Sub 0x4000003f01 P) : Kept P s0 (concludeTraining s st bad) := by
  unfold concludeTraining
  repeat' first
    | (with_reducible assumption)
    | ((with_reducible apply Sub.le hp); rfl)
    | (extract_lets +onlyGivenNames yk; refine (kept_some (P := P) (s0 := s0) yk ?_).elim (fun _ hyk => ?_); subst yk; rotate_left; rw [hyk.2]; have _ := hyk.1; clear hyk; clear yk; rotate_left)
    | (with_reducible refine kept_ite ?_ ?_)
    | (with_reducible apply kept_endTraining)
    | (with_reducible apply kept_firstActive)
    | (with_reducible apply kept_setF)
    | (with_reducible apply kept_trainingFailed)
    | (with_reducible apply kept_updStack)
    | (with_reducible apply kept_zeroStack)
    | split

theorem kept_stackTrained {P : Parts} {s0 : State} (s : State) (st : Nat) (r : TrainOut) (hk : Kept P s0 s) (hp : Sub 0x4000003f01 P) : Kept P s0 (stackTrained s st r) := by
  unfold stackTrained
  repeat' first
    | (with_reducible assumption)
    | ((with_reducible apply Sub.le hp); rfl)
    | (extract_lets +onlyGivenNames yk; clear_value yk; revert yk; intro _)
    | (with_reducible refine kept_ite ?_ ?_)
    | (with_reducible apply kept_concludeTraining)
    | (with_reducible apply kept_endTraining)
    | (with_reducible apply kept_srctlWrite)
    | (with_reducible apply kept_tsvTraining)
    | (with_reducible apply kept_updStack)
    | (with_reducible apply kept_wireTraining)
    | split

theorem kept_raiseActive {P : Parts} {s0 : State} (s : State) (hk : Kept P s0 s) (hp : Sub 0x4000000000001 P) : Kept P s0 (raiseActive s) := by
  unfold raiseActive
  repeat' first
    | (with_reducible assumption)
    | ((with_reducible apply Sub.le hp); rfl)
    | (extract_lets +onlyGivenNames yk; refine (kept_some (P := P) (s0 := s0) yk ?_).elim (fun _ hyk => ?_); subst yk; rotate_left; rw [hyk.2]; have _ := hyk.1; clear hyk; clear yk; rotate_left)
    | (extract_lets +onlyGivenNames yk; clear_value yk; revert yk; intro _)
    | (with_reducible refine kept_ite ?_ ?_)
    | (with_reducible apply kept_event)
    | (with_reducible apply kept_setB)
    | (with_reducible apply kept_setF)
    | ((with_reducible refine kept_mk 0x4000000000000 ?_ ?_ ?_ ?_); rotate_left; rfl; (constructor <;> first | exact fun _ => rfl | exact fun h => absurd h (by decide)); apply Sub.le hp; rfl)

theorem kept_arbWrite {P : Parts} {s0 : State} (s : State) (w : Writer) (v : W64) (hk : Kept P s0 s) (hp : Sub 0x1000000000001 P) : Kept P s0 (arbWrite s w v) := by
  unfold arbWrite
  repeat' first
    | (with_reducible assumption)
    | (extract_lets +onlyGivenNames yk; clear_value yk; revert yk; intro _)
    | (with_reducible apply kept_bwAccept)

theorem kept_arbRaise {P : Parts} {s0 : State} (s : State) (hk : Kept P s0 s) (hp : Sub 0x1000000000001 P) : Kept P s0 (arbRaise s) := by
  unfold arbRaise
  repeat' first
    | (with_reducible assumption)
    | (with_reducible refine kept_ite ?_ ?_)
    | (with_reducible apply kept_arbWrite)

theorem kept_ownerCommit {P : Parts} {s0 : State} (s : State) (w : Writer) (v : W64) (sigOk : Bool) (hk : Kept P s0 s) (hp : Sub 0x1000000000001 P) : Kept P s0 (ownerCommit s w v sigOk) := by
  unfold ownerCommit
  repeat' first
    | (with_reducible assumption)
    | (extract_lets +onlyGivenNames yk; clear_value yk; revert yk; intro _)
    | (with_reducible refine kept_ite ?_ ?_)
    | (with_reducible apply kept_bwAccept)

theorem kept_drawnList {P : Parts} {s0 : State} (s : State) (n : Nat) (hk : Kept P s0 s) (hp : Sub 0x10000000000000 P) : Kept P s0 (drawn s n).2 := by
  induction n generalizing s with
  | zero => exact hk
  | succ n ih => simp only [drawn]; exact ih _ (kept_drawn _ 1 hk (hp.le rfl))

theorem kept_bwEffect {P : Parts} {s0 : State} (s : State) (p : BwPend) (old : W64) (hk : Kept P s0 s) (hp : Sub 0x2004800003f09 P) : Kept P s0 (bwEffect s p old) := by
  unfold bwEffect
  repeat' first
    | (with_reducible assumption)
    | ((with_reducible apply Sub.le hp); rfl)
    | (extract_lets +onlyGivenNames yk; revert yk; intro _)
    | (with_reducible apply kept_ceilingCommitted)
    | (with_reducible apply kept_cxlEvent)
    | (with_reducible apply kept_event)
    | (with_reducible apply kept_fallowCommitted)
    | (with_reducible apply kept_startReformat)
    | split
    | ((with_reducible refine kept_mk 0x2000000000000 ?_ ?_ ?_ ?_); rotate_left; rfl; (constructor <;> first | exact fun _ => rfl | exact fun h => absurd h (by decide)); apply Sub.le hp; rfl)

theorem kept_bwStore {P : Parts} {s0 : State} (s : State) (p : BwPend) (old : W64) (sign : List W64) (hk : Kept P s0 s) (hp : Sub 0x2000000000000 P) :
    Kept P s0 (bwStore s p old sign) :=
  ⟨hk.member, hk.pending, hk.drawn, hk.out, hk.log.trans (List.prefix_append _ _), fun c =>
    let k := hk.canonical c; ⟨k.regs, k.regsSet, k.mem, k.imem, k.lib, k.tiles, k.uzoids⟩,
    hk.by (a := 0x2000000000000) (by constructor <;> first | exact fun _ => rfl | exact fun h => absurd h (by decide)) (hp.le rfl)⟩

theorem kept_bwCommit {P : Parts} {s0 : State} (s : State) (hk : Kept P s0 s) (hp : Sub 0x13004800003f09 P) : Kept P s0 (bwCommit s) := by
  unfold bwCommit
  repeat' first
    | (with_reducible assumption)
    | ((with_reducible apply Sub.le hp); rfl)
    | (extract_lets +onlyGivenNames yk; clear_value yk; revert yk; intro _)
    | (with_reducible refine kept_ite ?_ ?_)
    | (with_reducible apply kept_bwEffect)
    | (with_reducible apply kept_bwStore)
    | (with_reducible apply kept_drawnList)
    | (with_reducible apply kept_event)
    | split
    | ((with_reducible refine kept_mk 0x1000000000000 ?_ ?_ ?_ ?_); rotate_left; rfl; (constructor <;> first | exact fun _ => rfl | exact fun h => absurd h (by decide)); apply Sub.le hp; rfl)

theorem kept_spdm {P : Parts} {s0 : State} (s : State) (r : Spdm) (hk : Kept P s0 s) (hp : Sub 0x20000000000000 P) : Kept P s0 (spdm s r) := by
  unfold spdm
  repeat' first
    | (with_reducible assumption)
    | (extract_lets +onlyGivenNames yk; revert yk; intro _)
    | (with_reducible refine kept_ite ?_ ?_)
    | (with_reducible apply kept_emit)
    | split

theorem kept_execPerstAssert {P : Parts} {s0 : State} (s : State) (hk : Kept P s0 s) (hp : Sub 0x3fffffffffffff P) : KeptR P s0 (execPerstAssert s) := by
  unfold execPerstAssert
  repeat' first
    | (with_reducible refine keptR_next ?_)
    | (with_reducible assumption)
    | (with_reducible apply kept_perstDown)

theorem kept_execPerstDeassert {P : Parts} {s0 : State} (b : BootIn) (s : State) (hk : Kept P s0 s) (hp : Sub 0x146008200ea005 P) : KeptR P s0 (execPerstDeassert b s) := by
  unfold execPerstDeassert
  repeat' first
    | (with_reducible refine keptR_next ?_)
    | (with_reducible assumption)
    | (with_reducible apply kept_perstUp)

theorem kept_execStackTrained {P : Parts} {s0 : State} (stack : Nat) (res : TrainOut) (s : State) (hk : Kept P s0 s) (hp : Sub 0x4000003f01 P) : KeptR P s0 (execStackTrained stack res s) := by
  unfold execStackTrained
  repeat' first
    | (with_reducible refine keptR_onObj (by assumption) ?_)
    | (with_reducible assumption)
    | (with_reducible apply kept_stackTrained)

theorem kept_execMemoryActive {P : Parts} {s0 : State} (s : State) (hk : Kept P s0 s) (hp : Sub 0x4000000000001 P) : KeptR P s0 (execMemoryActive s) := by
  unfold execMemoryActive
  repeat' first
    | (with_reducible refine keptR_next ?_)
    | (with_reducible assumption)
    | (with_reducible apply kept_raiseActive)

theorem kept_execArbRaise {P : Parts} {s0 : State} (s : State) (hk : Kept P s0 s) (hp : Sub 0x1000000000001 P) : KeptR P s0 (execArbRaise s) := by
  unfold execArbRaise
  repeat' first
    | (with_reducible refine keptR_next ?_)
    | (with_reducible assumption)
    | (with_reducible apply kept_arbRaise)

theorem kept_execSecArbWrite {P : Parts} {s0 : State} (w : Writer) (v : W64) (s : State) (hk : Kept P s0 s) (hp : Sub 0x1000000000001 P) : KeptR P s0 (execSecArbWrite w v s) := by
  unfold execSecArbWrite
  repeat' first
    | (with_reducible refine keptR_next ?_)
    | (with_reducible assumption)
    | (with_reducible apply kept_arbWrite)

theorem kept_execOwnerCommit {P : Parts} {s0 : State} (w : Writer) (v : W64) (sigOk : Bool) (s : State) (hk : Kept P s0 s) (hp : Sub 0x1000000000001 P) : KeptR P s0 (execOwnerCommit w v sigOk s) := by
  unfold execOwnerCommit
  repeat' first
    | (with_reducible refine keptR_next ?_)
    | (with_reducible assumption)
    | (with_reducible apply kept_ownerCommit)

theorem kept_execBwCommit {P : Parts} {s0 : State} (s : State) (hk : Kept P s0 s) (hp : Sub 0x13004800003f09 P) : KeptR P s0 (execBwCommit s) := by
  unfold execBwCommit
  repeat' first
    | (with_reducible refine keptR_next ?_)
    | (with_reducible assumption)
    | (with_reducible apply kept_bwCommit)

theorem kept_execSpdmRequest {P : Parts} {s0 : State} (r : Spdm) (s : State) (hk : Kept P s0 s) (hp : Sub 0x20000000000000 P) : KeptR P s0 (execSpdmRequest r s) := by
  unfold execSpdmRequest
  repeat' first
    | (with_reducible refine keptR_next ?_)
    | (with_reducible assumption)
    | (with_reducible apply kept_spdm)

theorem kept_execCdatRequest {P : Parts} {s0 : State} (s : State) (hk : Kept P s0 s) (hp : Sub 0x20000000000000 P) : KeptR P s0 (execCdatRequest s) := by
  unfold execCdatRequest
  repeat' first
    | (with_reducible refine keptR_next ?_)
    | (with_reducible assumption)
    | (with_reducible refine kept_ite ?_ ?_)
    | (with_reducible apply kept_emit)

end Sys2Proof.Machine
end

