-- ==== Sys2Proof/Laws/KeptBoard.lean ====
section
/-! SUPPORT. `Kept` for the operations of Machine/Board.lean: one lemma per function that changes the state. -/
namespace Sys2Proof.Machine

theorem kept_powerOff {P : Parts} {s0 : State} (s : State) (hk : Kept P s0 s) (hp : Sub 0x3fffffffffffff P) : Kept P s0 (powerOff s) := by
  unfold powerOff
  repeat' first
    | (with_reducible assumption)
    | ((with_reducible apply Sub.le hp); rfl)
    | (extract_lets +onlyGivenNames yk; refine (kept_some (P := P) (s0 := s0) yk ?_).elim (fun _ hyk => ?_); subst yk; rotate_left; rw [hyk.2]; have _ := hyk.1; clear hyk; clear yk; rotate_left)
    | (extract_lets +onlyGivenNames yk; clear_value yk; revert yk; intro _)
    | (with_reducible refine kept_ite ?_ ?_)
    | (with_reducible apply kept_emit)
    | (with_reducible apply kept_pldm)
    | (with_reducible apply kept_resetDies)
    | ((with_reducible refine kept_mk 0xc000000000000 ?_ ?_ ?_ ?_); rotate_left; rfl; (constructor <;> first | exact fun _ => rfl | exact fun h => absurd h (by decide)); apply Sub.le hp; rfl)

theorem kept_removeMain {P : Parts} {s0 : State} (s : State) (why : Removal) (hk : Kept P s0 s) (hp : Sub 0x3fffffffffffff P) : Kept P s0 (removeMain s why) := by
  unfold removeMain
  repeat' first
    | (with_reducible assumption)
    | (extract_lets +onlyGivenNames yk; refine (kept_some (P := P) (s0 := s0) yk ?_).elim (fun _ hyk => ?_); subst yk; rotate_left; rw [hyk.2]; have _ := hyk.1; clear hyk; clear yk; rotate_left)
    | (extract_lets +onlyGivenNames yk; clear_value yk; revert yk; intro _)
    | (with_reducible apply kept_powerOff)
    | split
    | ((with_reducible refine kept_mk 0x4000000000000 ?_ ?_ ?_ ?_); rotate_left; rfl; (constructor <;> first | exact fun _ => rfl | exact fun h => absurd h (by decide)); apply Sub.le hp; rfl)

theorem kept_applyMain {P : Parts} {s0 : State} (s : State) (b : BootIn) (hk : Kept P s0 s) (hp : Sub 0x3c6008200ea005 P) : Kept P s0 (applyMain s b) := by
  unfold applyMain
  repeat' first
    | (with_reducible assumption)
    | ((with_reducible apply Sub.le hp); rfl)
    | (extract_lets +onlyGivenNames yk; refine (kept_some (P := P) (s0 := s0) yk ?_).elim (fun _ hyk => ?_); subst yk; rotate_left; rw [hyk.2]; have _ := hyk.1; clear hyk; clear yk; rotate_left)
    | (extract_lets +onlyGivenNames yk; clear_value yk; revert yk; intro _)
    | (with_reducible refine kept_ite ?_ ?_)
    | (with_reducible apply kept_boot)
    | (with_reducible apply kept_emit)
    | ((with_reducible refine kept_mk 0xc000000000000 ?_ ?_ ?_ ?_); rotate_left; rfl; (constructor <;> first | exact fun _ => rfl | exact fun h => absurd h (by decide)); apply Sub.le hp; rfl)

theorem kept_junction {P : Parts} {s0 : State} (s : State) (die : Nat) (reading : Nat) (hk : Kept P s0 s) (hp : Sub 0x3fffffffffffff P) : Kept P s0 (junction s die reading) := by
  unfold junction
  repeat' first
    | (with_reducible assumption)
    | (extract_lets +onlyGivenNames yk; clear_value yk; revert yk; intro _)
    | (with_reducible refine kept_ite ?_ ?_)
    | (with_reducible apply kept_powerOff)
    | ((with_reducible refine kept_mk 0x4000000000000 ?_ ?_ ?_ ?_); rotate_left; rfl; (constructor <;> first | exact fun _ => rfl | exact fun h => absurd h (by decide)); apply Sub.le hp; rfl)

theorem kept_execMainInputRemoval {P : Parts} {s0 : State} (why : Removal) (s : State) (hk : Kept P s0 s) (hp : Sub 0x3fffffffffffff P) : KeptR P s0 (execMainInputRemoval why s) := by
  unfold execMainInputRemoval
  repeat' first
    | (with_reducible refine keptR_next ?_)
    | (with_reducible assumption)
    | (with_reducible apply kept_removeMain)

theorem kept_execMainInputApplied {P : Parts} {s0 : State} (b : BootIn) (s : State) (hk : Kept P s0 s) (hp : Sub 0x3c6008200ea005 P) : KeptR P s0 (execMainInputApplied b s) := by
  unfold execMainInputApplied
  repeat' first
    | (with_reducible refine keptR_next ?_)
    | (with_reducible assumption)
    | (with_reducible apply kept_applyMain)

theorem kept_execAuxInputChange {P : Parts} {s0 : State} (on : Bool) (s : State) (hk : Kept P s0 s) (hp : Sub 0x4000000000000 P) : KeptR P s0 (execAuxInputChange on s) := by
  unfold execAuxInputChange
  repeat' first
    | (with_reducible refine keptR_next ?_)
    | (with_reducible assumption)
    | (extract_lets +onlyGivenNames yk; clear_value yk; revert yk; intro _)
    | ((with_reducible refine kept_mk 0x4000000000000 ?_ ?_ ?_ ?_); rotate_left; rfl; (constructor <;> first | exact fun _ => rfl | exact fun h => absurd h (by decide)); apply Sub.le hp; rfl)

theorem kept_execJunctionProtection {P : Parts} {s0 : State} (die : Nat) (reading : Nat) (s : State) (hk : Kept P s0 s) (hp : Sub 0x3fffffffffffff P) : KeptR P s0 (execJunctionProtection die reading s) := by
  unfold execJunctionProtection
  repeat' first
    | (with_reducible refine keptR_onObj (by assumption) ?_)
    | (with_reducible assumption)
    | (with_reducible apply kept_junction)

theorem kept_execSidebandSensorReport {P : Parts} {s0 : State} (mainMv : Nat) (mainMa : Nat) (auxMv : Nat) (coolant : Nat) (junctions : List Nat) (s : State) (hk : Kept P s0 s) (hp : Sub 0x24000000000000 P) : KeptR P s0 (execSidebandSensorReport mainMv mainMa auxMv coolant junctions s) := by
  unfold execSidebandSensorReport
  repeat' first
    | (with_reducible refine keptR_next ?_)
    | (with_reducible assumption)
    | ((with_reducible apply Sub.le hp); rfl)
    | (extract_lets +onlyGivenNames yk; refine (kept_some (P := P) (s0 := s0) yk ?_).elim (fun _ hyk => ?_); subst yk; rotate_left; rw [hyk.2]; have _ := hyk.1; clear hyk; clear yk; rotate_left)
    | (extract_lets +onlyGivenNames yk; clear_value yk; revert yk; intro _)
    | (with_reducible refine kept_ite ?_ ?_)
    | (with_reducible apply kept_emit)
    | ((with_reducible refine kept_mk 0x4000000000000 ?_ ?_ ?_ ?_); rotate_left; rfl; (constructor <;> first | exact fun _ => rfl | exact fun h => absurd h (by decide)); apply Sub.le hp; rfl)

theorem kept_execSidebandRequest {P : Parts} {s0 : State} (r : Sideband) (s : State) (hk : Kept P s0 s) (hp : Sub 0x20000000000000 P) : KeptR P s0 (execSidebandRequest r s) := by
  unfold execSidebandRequest
  repeat' first
    | (with_reducible refine keptR_next ?_)
    | (with_reducible assumption)
    | (with_reducible refine kept_ite ?_ ?_)
    | (with_reducible apply kept_emit)
    | split

end Sys2Proof.Machine
end

