-- ==== Sys2Proof/Laws/KeptReset.lean ====
section
/-! SUPPORT. `Kept` for the operations of Machine/Reset.lean: one lemma per function that changes the state. -/
namespace Sys2Proof.Machine

theorem kept_resetTile {P : Parts} {s0 : State} (s : State) (t : Nat) (hk : Kept P s0 s) (hp : Sub 0x208000 P) : Kept P s0 (resetTile s t) := by
  unfold resetTile
  repeat' first
    | (with_reducible assumption)
    | ((with_reducible apply Sub.le hp); rfl)
    | (extract_lets +onlyGivenNames yk; refine (kept_some (P := P) (s0 := s0) yk ?_).elim (fun _ hyk => ?_); subst yk; rotate_left; rw [hyk.2]; have _ := hyk.1; clear hyk; clear yk; rotate_left)
    | (with_reducible refine kept_forEach _ _ _ (fun _ _ _ => ?_) ?_)
    | (with_reducible apply kept_endRun)
    | (with_reducible refine kept_updTile_clear _ _ _ (fun _ => rfl) ?_ ?_)

theorem kept_resetDma {P : Parts} {s0 : State} (s : State) (t : Nat) (hk : Kept P s0 s) (hp : Sub 0x3000ce0021d201 P) : Kept P s0 (resetDma s t) := by
  unfold resetDma
  repeat' first
    | (with_reducible assumption)
    | ((with_reducible apply Sub.le hp); rfl)
    | (extract_lets +onlyGivenNames yk; refine (kept_some (P := P) (s0 := s0) yk ?_).elim (fun _ hyk => ?_); subst yk; rotate_left; rw [hyk.2]; have _ := hyk.1; clear hyk; clear yk; rotate_left)
    | (with_reducible refine kept_forEach _ _ _ (fun _ _ _ => ?_) ?_)
    | (with_reducible refine kept_ite ?_ ?_)
    | (with_reducible apply kept_chanIdle)
    | (with_reducible refine kept_updTile_same _ _ _ (fun _ => rfl) ?_ ?_)

theorem kept_resetLcb {P : Parts} {s0 : State} (s : State) (p : Page) (hk : Kept P s0 s) (hp : Sub 0x8000 P) : Kept P s0 (resetLcb s p) := by
  unfold resetLcb
  repeat' first
    | (with_reducible assumption)
    | (with_reducible refine kept_ite ?_ ?_)
    | (with_reducible refine kept_updTile_same _ _ _ (fun _ => rfl) ?_ ?_)

theorem kept_resetSeq {P : Parts} {s0 : State} (s : State) (d : Nat) (hk : Kept P s0 s) (hp : Sub 0x10000 P) : Kept P s0 (resetSeq s d) := by
  unfold resetSeq
  repeat' first
    | (with_reducible assumption)
    | (with_reducible apply kept_updSeq)

theorem kept_resetSrl {P : Parts} {s0 : State} (s : State) (st : Nat) (ch : Nat) (hk : Kept P s0 s) (hp : Sub 0x3000cb0001d001 P) : Kept P s0 (resetSrl s st ch) := by
  unfold resetSrl
  repeat' first
    | (with_reducible assumption)
    | ((with_reducible apply Sub.le hp); rfl)
    | (extract_lets +onlyGivenNames yk; refine (kept_some (P := P) (s0 := s0) yk ?_).elim (fun _ hyk => ?_); subst yk; rotate_left; rw [hyk.2]; have _ := hyk.1; clear hyk; clear yk; rotate_left)
    | (extract_lets +onlyGivenNames yk; clear_value yk; revert yk; intro _)
    | (with_reducible refine kept_forEach _ _ _ (fun _ _ _ => ?_) ?_)
    | (with_reducible apply kept_dropHeld)
    | (with_reducible apply kept_updUnit)
    | ((with_reducible refine kept_mk 0x100000000 ?_ ?_ ?_ ?_); rotate_left; rfl; (constructor <;> first | exact fun _ => rfl | exact fun h => absurd h (by decide)); apply Sub.le hp; rfl)

theorem kept_resetBlock {P : Parts} {s0 : State} (s : State) (p : Page) (hk : Kept P s0 s) (hp : Sub 0x3000ff43f1d201 P) : Kept P s0 (resetBlock s p) := by
  unfold resetBlock
  repeat' first
    | (with_reducible assumption)
    | ((with_reducible apply Sub.le hp); rfl)
    | (with_reducible refine kept_ite ?_ ?_)
    | (with_reducible apply kept_dropFetch)
    | (with_reducible apply kept_resetDma)
    | (with_reducible apply kept_resetLcb)
    | (with_reducible apply kept_resetSeq)
    | (with_reducible apply kept_resetSrl)
    | (with_reducible apply kept_resetTile)
    | (with_reducible apply kept_settleLedger)
    | split
    | ((with_reducible refine kept_mk 0x3043d00000 ?_ ?_ ?_ ?_); rotate_left; rfl; (constructor <;> first | exact fun _ => rfl | exact fun h => absurd h (by decide)); apply Sub.le hp; rfl)

theorem kept_ctrlReset {P : Parts} {s0 : State} (s : State) (p : Page) (hk : Kept P s0 s) (hp : Sub 0x3000ff43f1d229 P) : Kept P s0 (ctrlReset s p) := by
  unfold ctrlReset
  repeat' first
    | (with_reducible assumption)
    | ((with_reducible apply Sub.le hp); rfl)
    | (extract_lets +onlyGivenNames yk; clear_value yk; revert yk; intro _)
    | (with_reducible refine kept_ite ?_ ?_)
    | (with_reducible apply kept_clearRegs)
    | (with_reducible apply kept_resetBlock)
    | (with_reducible apply kept_setReg)
    | (with_reducible apply kept_settleVec)

theorem kept_resumeTile {P : Parts} {s0 : State} (s : State) (t : Nat) (hk : Kept P s0 s) (hp : Sub 0x3000ce0001d201 P) : Kept P s0 (resumeTile s t) := by
  unfold resumeTile
  repeat' first
    | (with_reducible assumption)
    | ((with_reducible apply Sub.le hp); rfl)
    | (with_reducible refine kept_forEach _ _ _ (fun _ _ _ => ?_) ?_)
    | (with_reducible apply kept_issueMove)
    | (with_reducible apply kept_pump)
    | (with_reducible apply kept_startPass)

theorem kept_ctrlFreeze {P : Parts} {s0 : State} (s : State) (p : Page) (on : Bool) (hk : Kept P s0 s) (hp : Sub 0x3000ce0001d201 P) : Kept P s0 (ctrlFreeze s p on) := by
  unfold ctrlFreeze
  repeat' first
    | (with_reducible assumption)
    | ((with_reducible apply Sub.le hp); rfl)
    | (extract_lets +onlyGivenNames yk; refine (kept_some (P := P) (s0 := s0) yk ?_).elim (fun _ hyk => ?_); subst yk; rotate_left; rw [hyk.2]; have _ := hyk.1; clear hyk; clear yk; rotate_left)
    | (extract_lets +onlyGivenNames yk; revert yk; intro _)
    | (with_reducible refine kept_forEach _ _ _ (fun _ _ _ => ?_) ?_)
    | (with_reducible refine kept_ite ?_ ?_)
    | (with_reducible apply kept_issueMove)
    | (with_reducible apply kept_resumeTile)
    | (with_reducible apply kept_setB)
    | split

theorem kept_bumpEpoch {P : Parts} {s0 : State} (s : State) (page : Nat) (hk : Kept P s0 s) (hp : Sub 0x1 P) : Kept P s0 (bumpEpoch s page) := by
  unfold bumpEpoch
  repeat' first
    | (with_reducible assumption)
    | (with_reducible apply kept_wrapF)

theorem kept_ungateTile {P : Parts} {s0 : State} (s : State) (t : Nat) (hk : Kept P s0 s) (hp : Sub 0x8001 P) : Kept P s0 (ungateTile s t) := by
  unfold ungateTile
  repeat' first
    | (with_reducible assumption)
    | ((with_reducible apply Sub.le hp); rfl)
    | (extract_lets +onlyGivenNames yk; refine (kept_some (P := P) (s0 := s0) yk ?_).elim (fun _ hyk => ?_); subst yk; rotate_left; rw [hyk.2]; have _ := hyk.1; clear hyk; clear yk; rotate_left)
    | (extract_lets +onlyGivenNames yk; clear_value yk; revert yk; intro _)
    | (with_reducible refine kept_forEach _ _ _ (fun _ _ _ => ?_) ?_)
    | (with_reducible apply kept_bumpEpoch)
    | (with_reducible apply kept_clearRegs)
    | (with_reducible refine kept_updTile_clear _ _ _ (fun _ => rfl) ?_ ?_)

theorem kept_enableTile {P : Parts} {s0 : State} (s : State) (p : Page) (on : Bool) (hk : Kept P s0 s) (hp : Sub 0x3000ff43f1d22b P) : Kept P s0 (enableTile s p on) := by
  unfold enableTile
  repeat' first
    | (with_reducible assumption)
    | ((with_reducible apply Sub.le hp); rfl)
    | (extract_lets +onlyGivenNames yk; refine (kept_some (P := P) (s0 := s0) yk ?_).elim (fun _ hyk => ?_); subst yk; rotate_left; rw [hyk.2]; have _ := hyk.1; clear hyk; clear yk; rotate_left)
    | (extract_lets +onlyGivenNames yk; clear_value yk; revert yk; intro _)
    | (with_reducible refine kept_ite ?_ ?_)
    | (with_reducible apply kept_ctrlReset)
    | (with_reducible apply kept_resumeTile)
    | (with_reducible apply kept_ungateTile)
    | (with_reducible refine kept_updTile_same _ _ _ (fun _ => rfl) ?_ ?_)
    | ((with_reducible refine kept_mk 0x2 ?_ ?_ ?_ ?_); rotate_left; rfl; (constructor <;> first | exact fun _ => rfl | exact fun h => absurd h (by decide)); apply Sub.le hp; rfl)

theorem kept_enableSrl {P : Parts} {s0 : State} (s : State) (p : Page) (on : Bool) (hk : Kept P s0 s) (hp : Sub 0x3000ff43f1d22b P) : Kept P s0 (enableSrl s p on) := by
  unfold enableSrl
  repeat' first
    | (with_reducible assumption)
    | ((with_reducible apply Sub.le hp); rfl)
    | (extract_lets +onlyGivenNames yk; refine (kept_some (P := P) (s0 := s0) yk ?_).elim (fun _ hyk => ?_); subst yk; rotate_left; rw [hyk.2]; have _ := hyk.1; clear hyk; clear yk; rotate_left)
    | (extract_lets +onlyGivenNames yk; clear_value yk; revert yk; intro _)
    | (with_reducible refine kept_ite ?_ ?_)
    | (with_reducible apply kept_bumpEpoch)
    | (with_reducible apply kept_ctrlReset)
    | ((with_reducible refine kept_mk 0x2 ?_ ?_ ?_ ?_); rotate_left; rfl; (constructor <;> first | exact fun _ => rfl | exact fun h => absurd h (by decide)); apply Sub.le hp; rfl)

theorem kept_ctrlEnable {P : Parts} {s0 : State} (s : State) (p : Page) (on : Bool) (hk : Kept P s0 s) (hp : Sub 0x3000ff43f1d22b P) : Kept P s0 (ctrlEnable s p on) := by
  unfold ctrlEnable
  repeat' first
    | (with_reducible assumption)
    | (with_reducible refine kept_ite ?_ ?_)
    | (with_reducible apply kept_enableSrl)
    | (with_reducible apply kept_enableTile)

theorem kept_ctrlWrite {P : Parts} {s0 : State} (s : State) (p : Page) (v : W64) (hk : Kept P s0 s) (hp : Sub 0x3000ff43f1d22b P) : Kept P s0 (ctrlWrite s p v) := by
  unfold ctrlWrite
  repeat' first
    | (with_reducible assumption)
    | ((with_reducible apply Sub.le hp); rfl)
    | (extract_lets +onlyGivenNames yk; refine (kept_some (P := P) (s0 := s0) yk ?_).elim (fun _ hyk => ?_); subst yk; rotate_left; rw [hyk.2]; have _ := hyk.1; clear hyk; clear yk; rotate_left)
    | (with_reducible refine kept_ite ?_ ?_)
    | (with_reducible apply kept_ctrlEnable)
    | (with_reducible apply kept_ctrlFreeze)
    | (with_reducible apply kept_ctrlReset)
    | (with_reducible apply kept_dropLog)

theorem kept_ungateDone {P : Parts} {s0 : State} (s : State) (t : Nat) (hk : Kept P s0 s) (hp : Sub 0x8000 P) : Kept P s0 (ungateDone s t) := by
  unfold ungateDone
  repeat' first
    | (with_reducible assumption)
    | (with_reducible refine kept_updTile_same _ _ _ (fun _ => rfl) ?_ ?_)

end Sys2Proof.Machine
end

