-- ==== Sys2Proof/Laws/KeptVylCmds.lean ====
section
/-! SUPPORT. `Kept` for the operations of Machine/VylCmds.lean: one lemma per function that changes the state. -/
namespace Sys2Proof.Machine

theorem kept_arriving {P : Parts} {s0 : State} (port : Nat) (p : Pkt) (fits : Bool) (s : State) (hk : Kept P s0 s) (hp : Sub 0x3000cfe051f201 P) : KeptR P s0 (arriving port p fits s) := by
  unfold arriving
  repeat' first
    | (with_reducible refine keptR_onObj (by assumption) ?_)
    | (with_reducible assumption)
    | (with_reducible refine kept_ite ?_ ?_)
    | (with_reducible apply kept_arrivePkt)

theorem kept_execFlitReceive {P : Parts} {s0 : State} (port : Nat) (f : FlitRx) (s : State) (hk : Kept P s0 s) (hp : Sub 0x2000c020000001 P) : KeptR P s0 (execFlitReceive port f s) := by
  unfold execFlitReceive
  repeat' first
    | (with_reducible refine keptR_onObj (by assumption) ?_)
    | (with_reducible assumption)
    | (with_reducible apply kept_flitReceive)

theorem kept_execNak {P : Parts} {s0 : State} (port : Nat) (ack : Nat) (s : State) (hk : Kept P s0 s) (hp : Sub 0x2000c020000001 P) : KeptR P s0 (execNak port ack s) := by
  unfold execNak
  repeat' first
    | (with_reducible refine keptR_onObj (by assumption) ?_)
    | (with_reducible assumption)
    | (with_reducible refine kept_ite ?_ ?_)
    | (with_reducible apply kept_nakReceived)

theorem kept_execReplayTimeout {P : Parts} {s0 : State} (port : Nat) (s : State) (hk : Kept P s0 s) (hp : Sub 0x2000c020000001 P) : KeptR P s0 (execReplayTimeout port s) := by
  unfold execReplayTimeout
  repeat' first
    | (with_reducible refine keptR_onObj (by assumption) ?_)
    | (with_reducible assumption)
    | (with_reducible refine kept_ite ?_ ?_)
    | (with_reducible apply kept_startReplay)

theorem kept_execEqReport {P : Parts} {s0 : State} (port : Nat) (codes : W64) (s : State) (hk : Kept P s0 s) (hp : Sub 0x1 P) : KeptR P s0 (execEqReport port codes s) := by
  unfold execEqReport
  repeat' first
    | (with_reducible refine keptR_onObj (by assumption) ?_)
    | (with_reducible assumption)
    | (with_reducible refine kept_ite ?_ ?_)
    | (with_reducible apply kept_eqReport)

theorem kept_execPacketSend {P : Parts} {s0 : State} (port : Nat) (p : Pkt) (s : State) (hk : Kept P s0 s) (hp : Sub 0x2000c4a0000001 P) : KeptR P s0 (execPacketSend port p s) := by
  unfold execPacketSend
  repeat' first
    | (with_reducible refine keptR_onObj (by assumption) ?_)
    | (with_reducible assumption)
    | (with_reducible apply kept_packetSend)

theorem kept_execWr {P : Parts} {s0 : State} (port : Nat) (p : Pkt) (s : State) (hk : Kept P s0 s) (hp : Sub 0x3000cfe051f201 P) : KeptR P s0 (execWr port p s) := by
  unfold execWr
  repeat' first
    | (with_reducible assumption)
    | (with_reducible apply kept_arriving)

theorem kept_execWrAcc {P : Parts} {s0 : State} (port : Nat) (p : Pkt) (s : State) (hk : Kept P s0 s) (hp : Sub 0x3000cfe051f201 P) : KeptR P s0 (execWrAcc port p s) := by
  unfold execWrAcc
  repeat' first
    | (with_reducible assumption)
    | (with_reducible apply kept_arriving)

theorem kept_execRdReq {P : Parts} {s0 : State} (port : Nat) (p : Pkt) (s : State) (hk : Kept P s0 s) (hp : Sub 0x3000cfe051f201 P) : KeptR P s0 (execRdReq port p s) := by
  unfold execRdReq
  repeat' first
    | (with_reducible assumption)
    | (with_reducible apply kept_arriving)

theorem kept_execRdRsp {P : Parts} {s0 : State} (port : Nat) (p : Pkt) (s : State) (hk : Kept P s0 s) (hp : Sub 0x3000cfe051f201 P) : KeptR P s0 (execRdRsp port p s) := by
  unfold execRdRsp
  repeat' first
    | (with_reducible assumption)
    | (with_reducible apply kept_arriving)

theorem kept_execSig {P : Parts} {s0 : State} (port : Nat) (p : Pkt) (s : State) (hk : Kept P s0 s) (hp : Sub 0x3000cfe051f201 P) : KeptR P s0 (execSig port p s) := by
  unfold execSig
  repeat' first
    | (with_reducible assumption)
    | (with_reducible apply kept_arriving)

theorem kept_execFence {P : Parts} {s0 : State} (port : Nat) (p : Pkt) (s : State) (hk : Kept P s0 s) (hp : Sub 0x3000cfe051f201 P) : KeptR P s0 (execFence port p s) := by
  unfold execFence
  repeat' first
    | (with_reducible assumption)
    | (with_reducible apply kept_arriving)

theorem kept_execFenceRelease {P : Parts} {s0 : State} (port : Nat) (s : State) (hk : Kept P s0 s) (hp : Sub 0x3000cfe051f201 P) : KeptR P s0 (execFenceRelease port s) := by
  unfold execFenceRelease
  repeat' first
    | (with_reducible refine keptR_onObj (by assumption) ?_)
    | (with_reducible assumption)
    | (with_reducible apply kept_fenceRelease)

theorem kept_execDescReq {P : Parts} {s0 : State} (port : Nat) (p : Pkt) (s : State) (hk : Kept P s0 s) (hp : Sub 0x3000cfe051f201 P) : KeptR P s0 (execDescReq port p s) := by
  unfold execDescReq
  repeat' first
    | (with_reducible assumption)
    | (with_reducible apply kept_arriving)

theorem kept_execDescRsp {P : Parts} {s0 : State} (port : Nat) (p : Pkt) (s : State) (hk : Kept P s0 s) (hp : Sub 0x3000cfe051f201 P) : KeptR P s0 (execDescRsp port p s) := by
  unfold execDescRsp
  repeat' first
    | (with_reducible assumption)
    | (with_reducible apply kept_arriving)

theorem kept_execRelease {P : Parts} {s0 : State} (port : Nat) (p : Pkt) (s : State) (hk : Kept P s0 s) (hp : Sub 0x3000cfe051f201 P) : KeptR P s0 (execRelease port p s) := by
  unfold execRelease
  repeat' first
    | (with_reducible assumption)
    | (with_reducible apply kept_arriving)

theorem kept_execPing {P : Parts} {s0 : State} (port : Nat) (p : Pkt) (s : State) (hk : Kept P s0 s) (hp : Sub 0x3000cfe051f201 P) : KeptR P s0 (execPing port p s) := by
  unfold execPing
  repeat' first
    | (with_reducible assumption)
    | (with_reducible apply kept_arriving)

theorem kept_execPong {P : Parts} {s0 : State} (port : Nat) (p : Pkt) (s : State) (hk : Kept P s0 s) (hp : Sub 0x3000cfe051f201 P) : KeptR P s0 (execPong port p s) := by
  unfold execPong
  repeat' first
    | (with_reducible assumption)
    | (with_reducible apply kept_arriving)

theorem kept_execFaultNote {P : Parts} {s0 : State} (port : Nat) (p : Pkt) (s : State) (hk : Kept P s0 s) (hp : Sub 0x3000cfe051f201 P) : KeptR P s0 (execFaultNote port p s) := by
  unfold execFaultNote
  repeat' first
    | (with_reducible assumption)
    | (with_reducible apply kept_arriving)

theorem kept_execIdent {P : Parts} {s0 : State} (port : Nat) (p : Pkt) (s : State) (hk : Kept P s0 s) (hp : Sub 0x3000cfe051f201 P) : KeptR P s0 (execIdent port p s) := by
  unfold execIdent
  repeat' first
    | (with_reducible assumption)
    | (with_reducible apply kept_arriving)

theorem kept_execResetNote {P : Parts} {s0 : State} (port : Nat) (p : Pkt) (s : State) (hk : Kept P s0 s) (hp : Sub 0x3000cfe051f201 P) : KeptR P s0 (execResetNote port p s) := by
  unfold execResetNote
  repeat' first
    | (with_reducible assumption)
    | (with_reducible apply kept_arriving)

theorem kept_execCompletionTimeout {P : Parts} {s0 : State} (port : Nat) (srcId : Nat) (tag : Nat) (s : State) (hk : Kept P s0 s) (hp : Sub 0x8080000001 P) : KeptR P s0 (execCompletionTimeout port srcId tag s) := by
  unfold execCompletionTimeout
  repeat' first
    | (with_reducible refine keptR_onObj (by assumption) ?_)
    | (with_reducible assumption)
    | (with_reducible apply kept_completionTimeout)

theorem kept_execVylRetrain {P : Parts} {s0 : State} (_w : Writer) (port : Nat) (v : W64) (s : State) (hk : Kept P s0 s) (hp : Sub 0x20000001 P) : KeptR P s0 (execVylRetrain _w port v s) := by
  unfold execVylRetrain
  repeat' first
    | (with_reducible refine keptR_onPage (by assumption) ?_ ?_)
    | (with_reducible assumption)
    | ((with_reducible apply Sub.le hp); rfl)
    | (with_reducible apply kept_retrain)

theorem kept_execRetrainDone {P : Parts} {s0 : State} (port : Nat) (half : Nat) (s : State) (hk : Kept P s0 s) (hp : Sub 0x420000001 P) : KeptR P s0 (execRetrainDone port half s) := by
  unfold execRetrainDone
  repeat' first
    | (with_reducible refine keptR_onObj (by assumption) ?_)
    | (with_reducible assumption)
    | (with_reducible apply kept_retrainDone)

theorem kept_execRetrainTimeout {P : Parts} {s0 : State} (port : Nat) (s : State) (hk : Kept P s0 s) (hp : Sub 0x1 P) : KeptR P s0 (execRetrainTimeout port s) := by
  unfold execRetrainTimeout
  repeat' first
    | (with_reducible refine keptR_onObj (by assumption) ?_)
    | (with_reducible assumption)
    | (with_reducible apply kept_retrainTimeout)

theorem kept_execLaneLockLoss {P : Parts} {s0 : State} (port : Nat) (lane : Nat) (s : State) (hk : Kept P s0 s) (hp : Sub 0x1 P) : KeptR P s0 (execLaneLockLoss port lane s) := by
  unfold execLaneLockLoss
  repeat' first
    | (with_reducible refine keptR_onObj (by assumption) ?_)
    | (with_reducible assumption)
    | (with_reducible apply kept_loseLane)

theorem kept_execPortRetry {P : Parts} {s0 : State} (port : Nat) (s : State) (hk : Kept P s0 s) (hp : Sub 0x20000001 P) : KeptR P s0 (execPortRetry port s) := by
  unfold execPortRetry
  repeat' first
    | (with_reducible refine keptR_onObj (by assumption) ?_)
    | (with_reducible assumption)
    | (with_reducible apply kept_portRetry)

theorem kept_execSyncCounterWrite {P : Parts} {s0 : State} (_w : Writer) (counter : Nat) (v : W64) (s : State) (hk : Kept P s0 s) (hp : Sub 0x40000001 P) : KeptR P s0 (execSyncCounterWrite _w counter v s) := by
  unfold execSyncCounterWrite
  repeat' first
    | (with_reducible refine keptR_onObj (by assumption) ?_)
    | (with_reducible assumption)
    | (with_reducible apply kept_syncSet)

theorem kept_watchWrite {P : Parts} {s0 : State} (s : State) (i : Nat) (v : W64) (hk : Kept P s0 s) (hp : Sub 0x1 P) : Kept P s0 (watchWrite s i v) := by
  unfold watchWrite
  repeat' first
    | (with_reducible assumption)
    | (with_reducible apply kept_storeRW)
    | (with_reducible apply kept_watchCheck)

theorem kept_execWatchArm {P : Parts} {s0 : State} (_w : Writer) (i : Nat) (v : W64) (s : State) (hk : Kept P s0 s) (hp : Sub 0x1 P) : KeptR P s0 (execWatchArm _w i v s) := by
  unfold execWatchArm
  repeat' first
    | (with_reducible refine keptR_onObj (by assumption) ?_)
    | (with_reducible assumption)
    | (with_reducible apply kept_watchWrite)

theorem kept_routeWrite {P : Parts} {s0 : State} (s : State) (d : Option Nat) (v : W64) (hk : Kept P s0 s) (hp : Sub 0x1 P) : Kept P s0 (routeWrite s d v) := by
  unfold routeWrite
  repeat' first
    | (with_reducible assumption)
    | (with_reducible refine kept_ite ?_ ?_)
    | (with_reducible apply kept_recordErr)
    | (with_reducible apply kept_storeRW)
    | split

theorem kept_execRouteWrite {P : Parts} {s0 : State} (_w : Writer) (d : Option Nat) (v : W64) (s : State) (hk : Kept P s0 s) (hp : Sub 0x1 P) : KeptR P s0 (execRouteWrite _w d v s) := by
  unfold execRouteWrite
  repeat' first
    | (with_reducible refine keptR_onObj (by assumption) ?_)
    | (with_reducible assumption)
    | (with_reducible apply kept_routeWrite)

end Sys2Proof.Machine
end

