-- ==== Sys2Proof/Laws/KeptAccess.lean ====
section
/-! SUPPORT. `Kept` for the operations of Machine/Access.lean: one lemma per function that changes the state. -/
namespace Sys2Proof.Machine

theorem kept_ranged {P : Parts} {s0 : State} (s : State) (k : Nat) (v : W64) (ok : Bool) (code : Nat) (hk : Kept P s0 s) (hp : Sub 0x1 P) : Kept P s0 (ranged s k v ok code) := by
  unfold ranged
  repeat' first
    | (with_reducible assumption)
    | (with_reducible refine kept_ite ?_ ?_)
    | (with_reducible apply kept_recordErr)
    | (with_reducible apply kept_storeRW)

theorem kept_writeSeq {P : Parts} {s0 : State} (s : State) (p : Page) (off : Nat) (v : W64) (hk : Kept P s0 s) (hp : Sub 0x10003000010001 P) : Kept P s0 (writeSeq s p off v) := by
  unfold writeSeq
  repeat' first
    | (with_reducible assumption)
    | ((with_reducible apply Sub.le hp); rfl)
    | (extract_lets +onlyGivenNames yk; refine (kept_some (P := P) (s0 := s0) yk ?_).elim (fun _ hyk => ?_); subst yk; rotate_left; rw [hyk.2]; have _ := hyk.1; clear hyk; clear yk; rotate_left)
    | (extract_lets +onlyGivenNames yk; clear_value yk; revert yk; intro _)
    | (with_reducible refine kept_ite ?_ ?_)
    | (with_reducible apply kept_seqErr)
    | (with_reducible apply kept_seqStart)
    | (with_reducible apply kept_seqStop)
    | (with_reducible apply kept_storeRW)
    | (with_reducible apply kept_voidPlan)
    | split

theorem kept_writeTile {P : Parts} {s0 : State} (s : State) (p : Page) (off : Nat) (v : W64) (hk : Kept P s0 s) (hp : Sub 0x1 P) : Kept P s0 (writeTile s p off v) := by
  unfold writeTile
  repeat' first
    | (with_reducible assumption)
    | (extract_lets +onlyGivenNames yk; clear_value yk; revert yk; intro _)
    | (with_reducible refine kept_ite ?_ ?_)
    | (with_reducible apply kept_semWrite)
    | (with_reducible apply kept_storeRW)

theorem kept_writeLcb {P : Parts} {s0 : State} (s : State) (w : Writer) (p : Page) (off : Nat) (v : W64) (hk : Kept P s0 s) (hp : Sub 0x3000ca0001d001 P) : Kept P s0 (writeLcb s w p off v) := by
  unfold writeLcb
  repeat' first
    | (with_reducible assumption)
    | ((with_reducible apply Sub.le hp); rfl)
    | (with_reducible refine kept_ite ?_ ?_)
    | (with_reducible apply kept_asfPush)
    | (with_reducible apply kept_storeRW)

theorem kept_writeDma {P : Parts} {s0 : State} (s : State) (p : Page) (off : Nat) (v : W64) (hk : Kept P s0 s) (hp : Sub 0x3000ce0001d201 P) : Kept P s0 (writeDma s p off v) := by
  unfold writeDma
  repeat' first
    | (with_reducible assumption)
    | ((with_reducible apply Sub.le hp); rfl)
    | (with_reducible refine kept_ite ?_ ?_)
    | (with_reducible apply kept_chStart)
    | (with_reducible apply kept_storeRW)

theorem kept_writeDctl {P : Parts} {s0 : State} (s : State) (p : Page) (off : Nat) (v : W64) (hk : Kept P s0 s) (hp : Sub 0x3000ca0001d001 P) : Kept P s0 (writeDctl s p off v) := by
  unfold writeDctl
  repeat' first
    | (with_reducible assumption)
    | ((with_reducible apply Sub.le hp); rfl)
    | (extract_lets +onlyGivenNames yk; clear_value yk; revert yk; intro _)
    | (with_reducible apply kept_chmode)
    | (with_reducible apply kept_ranged)
    | (with_reducible apply kept_storeRW)
    | split

theorem kept_writeStk {P : Parts} {s0 : State} (s : State) (p : Page) (off : Nat) (v : W64) (hk : Kept P s0 s) (hp : Sub 0x2001 P) : Kept P s0 (writeStk s p off v) := by
  unfold writeStk
  repeat' first
    | (with_reducible assumption)
    | ((with_reducible apply Sub.le hp); rfl)
    | (extract_lets +onlyGivenNames yk; clear_value yk; revert yk; intro _)
    | (with_reducible apply kept_ranged)
    | (with_reducible apply kept_srctlWrite)
    | (with_reducible apply kept_storeRW)
    | split

theorem kept_writeSrl {P : Parts} {s0 : State} (s : State) (p : Page) (off : Nat) (v : W64) (hk : Kept P s0 s) (hp : Sub 0x1 P) : Kept P s0 (writeSrl s p off v) := by
  unfold writeSrl; dsimp only
  repeat' first
    | (with_reducible assumption)
    | (with_reducible refine kept_ite ?_ ?_)
    | (with_reducible apply kept_dropLog)
    | (with_reducible apply kept_recordErr)
    | (with_reducible apply kept_storeRW)
    | (with_reducible apply kept_voidPlan)
    | split

theorem kept_writeEcc {P : Parts} {s0 : State} (s : State) (w : Writer) (p : Page) (off : Nat) (v : W64) (hk : Kept P s0 s) (hp : Sub 0x1000000002001 P) : Kept P s0 (writeEcc s w p off v) := by
  unfold writeEcc
  repeat' first
    | (with_reducible assumption)
    | ((with_reducible apply Sub.le hp); rfl)
    | (extract_lets +onlyGivenNames yk; clear_value yk; revert yk; intro _)
    | (with_reducible refine kept_ite ?_ ?_)
    | (with_reducible apply kept_fallowBankWrite)
    | (with_reducible apply kept_fallowRowWrite)
    | (with_reducible apply kept_scrubWrite)
    | (with_reducible apply kept_startFlush)
    | (with_reducible apply kept_storeRW)
    | (with_reducible apply kept_strengthWrite)

theorem kept_wireWrite {P : Parts} {s0 : State} (s : State) (st : Nat) (v : W64) (hk : Kept P s0 s) (hp : Sub 0x2001 P) : Kept P s0 (wireWrite s st v) := by
  unfold wireWrite
  repeat' first
    | (with_reducible assumption)
    | ((with_reducible apply Sub.le hp); rfl)
    | (extract_lets +onlyGivenNames yk; clear_value yk; revert yk; intro _)
    | (with_reducible refine kept_ite ?_ ?_)
    | (with_reducible apply kept_recordErr)
    | (with_reducible apply kept_updStack)
    | (with_reducible apply kept_updWire)

theorem kept_writeCal {P : Parts} {s0 : State} (s : State) (p : Page) (off : Nat) (v : W64) (hk : Kept P s0 s) (hp : Sub 0x20000000003001 P) : Kept P s0 (writeCal s p off v) := by
  unfold writeCal
  repeat' first
    | (with_reducible assumption)
    | ((with_reducible apply Sub.le hp); rfl)
    | (extract_lets +onlyGivenNames yk; clear_value yk; revert yk; intro _)
    | (with_reducible refine kept_ite ?_ ?_)
    | (with_reducible apply kept_ranged)
    | (with_reducible apply kept_recordErr)
    | (with_reducible apply kept_storeRW)
    | (with_reducible apply kept_trctlWrite)
    | (with_reducible apply kept_voidPlan)
    | (with_reducible apply kept_wireWrite)
    | split

theorem kept_writeArb {P : Parts} {s0 : State} (s : State) (p : Page) (off : Nat) (v : W64) (hk : Kept P s0 s) (hp : Sub 0x8000001 P) : Kept P s0 (writeArb s p off v) := by
  unfold writeArb
  repeat' first
    | (with_reducible assumption)
    | ((with_reducible apply Sub.le hp); rfl)
    | (extract_lets +onlyGivenNames yk; clear_value yk; revert yk; intro _)
    | (with_reducible refine kept_ite ?_ ?_)
    | (with_reducible apply kept_prioWrite)
    | (with_reducible apply kept_recordErr)
    | (with_reducible apply kept_storeRW)
    | (with_reducible apply kept_voidPlan)
    | split

theorem kept_writeVyl {P : Parts} {s0 : State} (s : State) (p : Page) (off : Nat) (v : W64) (hk : Kept P s0 s) (hp : Sub 0x20000001 P) : Kept P s0 (writeVyl s p off v) := by
  unfold writeVyl
  repeat' first
    | (with_reducible assumption)
    | ((with_reducible apply Sub.le hp); rfl)
    | (extract_lets +onlyGivenNames yk; clear_value yk; revert yk; intro _)
    | (with_reducible apply kept_ranged)
    | (with_reducible apply kept_retrain)
    | (with_reducible apply kept_storeRW)
    | split

theorem kept_writeLedg {P : Parts} {s0 : State} (s : State) (w : Writer) (off : Nat) (v : W64) (hk : Kept P s0 s) (hp : Sub 0x1000000000001 P) : Kept P s0 (writeLedg s w off v) := by
  unfold writeLedg
  repeat' first
    | (with_reducible assumption)
    | ((with_reducible apply Sub.le hp); rfl)
    | (extract_lets +onlyGivenNames yk; clear_value yk; revert yk; intro _)
    | (with_reducible apply kept_ceilingWrite)
    | (with_reducible apply kept_classWrite)
    | (with_reducible apply kept_ranged)
    | (with_reducible apply kept_storeRW)
    | split

theorem kept_writePlan {P : Parts} {s0 : State} (s : State) (off : Nat) (v : W64) (hk : Kept P s0 s) (hp : Sub 0x1000dc06007f09 P) : Kept P s0 (writePlan s off v) := by
  unfold writePlan
  repeat' first
    | (with_reducible assumption)
    | ((with_reducible apply Sub.le hp); rfl)
    | (extract_lets +onlyGivenNames yk; clear_value yk; revert yk; intro _)
    | (with_reducible apply kept_planCmd)
    | (with_reducible apply kept_ranged)
    | (with_reducible apply kept_storeRW)
    | split

theorem kept_writeDesc {P : Parts} {s0 : State} (s : State) (w : Writer) (off : Nat) (v : W64) (hk : Kept P s0 s) (hp : Sub 0x800001 P) : Kept P s0 (writeDesc s w off v) := by
  unfold writeDesc
  repeat' first
    | (with_reducible assumption)
    | ((with_reducible apply Sub.le hp); rfl)
    | (extract_lets +onlyGivenNames yk; clear_value yk; revert yk; intro _)
    | (with_reducible refine kept_ite ?_ ?_)
    | (with_reducible apply kept_descCmd)
    | (with_reducible apply kept_dropLog)
    | (with_reducible apply kept_storeRW)

theorem kept_writeAlloc {P : Parts} {s0 : State} (s : State) (w : Writer) (off : Nat) (v : W64) (hk : Kept P s0 s) (hp : Sub 0x1000001 P) : Kept P s0 (writeAlloc s w off v) := by
  unfold writeAlloc
  repeat' first
    | (with_reducible assumption)
    | ((with_reducible apply Sub.le hp); rfl)
    | (extract_lets +onlyGivenNames yk; clear_value yk; revert yk; intro _)
    | (with_reducible refine kept_ite ?_ ?_)
    | (with_reducible apply kept_allocGo)
    | (with_reducible apply kept_dropLog)
    | (with_reducible apply kept_storeRW)

theorem kept_writeSync {P : Parts} {s0 : State} (s : State) (off : Nat) (v : W64) (hk : Kept P s0 s) (hp : Sub 0x1 P) : Kept P s0 (writeSync s off v) := by
  unfold writeSync
  repeat' first
    | (with_reducible assumption)
    | (extract_lets +onlyGivenNames yk; clear_value yk; revert yk; intro _)
    | (with_reducible refine kept_ite ?_ ?_)
    | (with_reducible apply kept_ranged)
    | (with_reducible apply kept_routeWrite)
    | (with_reducible apply kept_storeRW)
    | (with_reducible apply kept_watchWrite)

theorem kept_writeSec {P : Parts} {s0 : State} (s : State) (w : Writer) (off : Nat) (v : W64) (hk : Kept P s0 s) (hp : Sub 0x1000000000001 P) : Kept P s0 (writeSec s w off v) := by
  unfold writeSec
  repeat' first
    | (with_reducible assumption)
    | ((with_reducible apply Sub.le hp); rfl)
    | (with_reducible apply kept_arbWrite)
    | (with_reducible apply kept_ownerCommit)
    | (with_reducible apply kept_storeRW)
    | split

theorem kept_writePwr {P : Parts} {s0 : State} (s : State) (p : Page) (off : Nat) (v : W64) (hk : Kept P s0 s) (hp : Sub 0x1 P) : Kept P s0 (writePwr s p off v) := by
  unfold writePwr
  repeat' first
    | (with_reducible assumption)
    | (with_reducible refine kept_ite ?_ ?_)
    | (with_reducible apply kept_storeRW)

theorem kept_writeImem {P : Parts} {s0 : State} (s : State) (p : Page) (off : Nat) (v : W64) (hk : Kept P s0 s) (hp : Sub 0x4c06013f09 P) : Kept P s0 (writeImem s p off v) := by
  unfold writeImem
  repeat' first
    | (with_reducible assumption)
    | ((with_reducible apply Sub.le hp); rfl)
    | (with_reducible refine kept_ite ?_ ?_)
    | (with_reducible apply kept_bankWrite)
    | (with_reducible apply kept_imemLoad)
    | (with_reducible apply kept_storeRW)
    | split

theorem kept_writeFlt {P : Parts} {s0 : State} (s : State) (w : Writer) (p : Page) (off : Nat) (v : W64) (hk : Kept P s0 s) (hp : Sub 0x3038ef0001d001 P) : Kept P s0 (writeFlt s w p off v) := by
  unfold writeFlt
  repeat' first
    | (with_reducible assumption)
    | ((with_reducible apply Sub.le hp); rfl)
    | (with_reducible apply kept_assertWrite)
    | (with_reducible apply kept_fenceGo)
    | (with_reducible apply kept_fenceLet)
    | (with_reducible apply kept_jobResetWrite)
    | (with_reducible apply kept_recClear)
    | (with_reducible apply kept_storeRW)
    | (with_reducible apply kept_wdogWrite)
    | split

theorem kept_tableCmd {P : Parts} {s0 : State} (s : State) (v : W64) (hk : Kept P s0 s) (hp : Sub 0xcc06503f09 P) : Kept P s0 (tableCmd s v) := by
  unfold tableCmd
  repeat' first
    | (with_reducible assumption)
    | ((with_reducible apply Sub.le hp); rfl)
    | (extract_lets +onlyGivenNames yk; clear_value yk; revert yk; intro _)
    | (with_reducible apply kept_publish)
    | (with_reducible apply kept_refusal)
    | (with_reducible apply kept_unpublish)
    | (with_reducible apply kept_updOtab)
    | split

theorem kept_writeOwn {P : Parts} {s0 : State} (s : State) (off : Nat) (v : W64) (hk : Kept P s0 s) (hp : Sub 0xcc06503f09 P) : Kept P s0 (writeOwn s off v) := by
  unfold writeOwn
  repeat' first
    | (with_reducible assumption)
    | ((with_reducible apply Sub.le hp); rfl)
    | (with_reducible refine kept_ite ?_ ?_)
    | (with_reducible apply kept_otabWrite)
    | (with_reducible apply kept_storeRW)
    | (with_reducible apply kept_svcModeWrite)
    | (with_reducible apply kept_tableCmd)

theorem kept_clearBits {P : Parts} {s0 : State} (s : State) (p : Page) (off : Nat) (v : W64) (hk : Kept P s0 s) (hp : Sub 0x3000ca0801d029 P) : Kept P s0 (clearBits s p off v) := by
  unfold clearBits
  repeat' first
    | (with_reducible assumption)
    | ((with_reducible apply Sub.le hp); rfl)
    | (extract_lets +onlyGivenNames yk; refine (kept_some (P := P) (s0 := s0) yk ?_).elim (fun _ hyk => ?_); subst yk; rotate_left; rw [hyk.2]; have _ := hyk.1; clear hyk; clear yk; rotate_left)
    | (with_reducible refine kept_ite ?_ ?_)
    | (with_reducible apply kept_isolClear)
    | (with_reducible apply kept_resendVec)
    | (with_reducible apply kept_w1c)

theorem kept_regWrite {P : Parts} {s0 : State} (s : State) (w : Writer) (p : Page) (off : Nat) (v : W64) (hk : Kept P s0 s) (hp : Sub 0x3138ff6ff1ff2b P) : Kept P s0 (regWrite s w p off v) := by
  unfold regWrite
  repeat' first
    | (with_reducible assumption)
    | ((with_reducible apply Sub.le hp); rfl)
    | (with_reducible refine kept_ite ?_ ?_)
    | (with_reducible apply kept_clearBits)
    | (with_reducible apply kept_ctrlWrite)
    | (with_reducible apply kept_settleVec)
    | (with_reducible apply kept_storeRW)
    | (with_reducible apply kept_writeAlloc)
    | (with_reducible apply kept_writeArb)
    | (with_reducible apply kept_writeCal)
    | (with_reducible apply kept_writeDctl)
    | (with_reducible apply kept_writeDesc)
    | (with_reducible apply kept_writeDma)
    | (with_reducible apply kept_writeEcc)
    | (with_reducible apply kept_writeFlt)
    | (with_reducible apply kept_writeImem)
    | (with_reducible apply kept_writeLcb)
    | (with_reducible apply kept_writeLedg)
    | (with_reducible apply kept_writeOwn)
    | (with_reducible apply kept_writePlan)
    | (with_reducible apply kept_writePwr)
    | (with_reducible apply kept_writeSec)
    | (with_reducible apply kept_writeSeq)
    | (with_reducible apply kept_writeSrl)
    | (with_reducible apply kept_writeStk)
    | (with_reducible apply kept_writeSync)
    | (with_reducible apply kept_writeTile)
    | (with_reducible apply kept_writeVyl)
    | split

theorem kept_windowWrite {P : Parts} {s0 : State} (s : State) (p : Page) (off : Nat) (size : Nat) (v : W64) (hk : Kept P s0 s) (hp : Sub 0x40000001 P) : Kept P s0 (windowWrite s p off size v) := by
  unfold windowWrite
  repeat' first
    | (with_reducible assumption)
    | ((with_reducible apply Sub.le hp); rfl)
    | (with_reducible refine kept_ite ?_ ?_)
    | (with_reducible apply kept_dropLog)
    | (with_reducible apply kept_syncSet)

theorem kept_accessWrite {P : Parts} {s0 : State} (s : State) (w : Writer) (off : Nat) (size : Nat) (v : W64) (hk : Kept P s0 s) (hp : Sub 0x3138ff6ff1ff2b P) : Kept P s0 (accessWrite s w off size v) := by
  unfold accessWrite
  repeat' first
    | (with_reducible assumption)
    | ((with_reducible apply Sub.le hp); rfl)
    | (extract_lets +onlyGivenNames yk; clear_value yk; revert yk; intro _)
    | (with_reducible refine kept_ite ?_ ?_)
    | (with_reducible apply kept_dropLog)
    | (with_reducible apply kept_recordErr)
    | (with_reducible apply kept_regWrite)
    | (with_reducible apply kept_windowWrite)

theorem kept_accessRead {P : Parts} {s0 : State} (s : State) (off : Nat) (size : Nat) (hk : Kept P s0 s) (hp : Sub 0x1 P) : Kept P s0 (accessRead s off size).2 := by
  unfold accessRead
  repeat' first
    | (with_reducible assumption)
    | (extract_lets +onlyGivenNames yk; clear_value yk; revert yk; intro _)
    | (with_reducible apply kept_dropLog)
    | (with_reducible apply kept_recordErr)
    | split

theorem kept_accessRead_eq {P : Parts} {s0 : State} {x0} {tt} (s : State) (off : Nat) (size : Nat) (hk : Kept P s0 s) (hp : Sub 0x1 P) (he : accessRead s off size = (x0, tt)) : Kept P s0 tt := by
  have g := kept_accessRead s off size hk hp
  rw [he] at g; exact g

theorem kept_releaseVecs {P : Parts} {s0 : State} (s : State) (hk : Kept P s0 s) (hp : Sub 0x20000000000020 P) : Kept P s0 (releaseVecs s) := by
  unfold releaseVecs
  repeat' first
    | (with_reducible assumption)
    | ((with_reducible apply Sub.le hp); rfl)
    | (with_reducible refine kept_forEach _ _ _ (fun _ _ _ => ?_) ?_)
    | (with_reducible apply kept_emit)
    | ((with_reducible refine kept_mk 0x20 ?_ ?_ ?_ ?_); rotate_left; rfl; (constructor <;> first | exact fun _ => rfl | exact fun h => absurd h (by decide)); apply Sub.le hp; rfl)

theorem kept_bar2Put {P : Parts} {s0 : State} (s : State) (i : Nat) (v : Nat) (hk : Kept P s0 s) (hp : Sub 0x20000000000070 P) : Kept P s0 (bar2Put s i v) := by
  unfold bar2Put
  repeat' first
    | (with_reducible assumption)
    | ((with_reducible apply Sub.le hp); rfl)
    | (with_reducible refine kept_ite ?_ ?_)
    | (with_reducible apply kept_releaseVecs)
    | ((with_reducible refine kept_mk 0x50 ?_ ?_ ?_ ?_); rotate_left; rfl; (constructor <;> first | exact fun _ => rfl | exact fun h => absurd h (by decide)); apply Sub.le hp; rfl)

theorem kept_bar2Access {P : Parts} {s0 : State} (s : State) (o : Nat) (size : Nat) (v : Option W64) (hk : Kept P s0 s) (hp : Sub 0x20000000000070 P) : Kept P s0 (bar2Access s o size v).2 := by
  unfold bar2Access
  repeat' first
    | (with_reducible assumption)
    | (extract_lets +onlyGivenNames yk; refine (kept_some (P := P) (s0 := s0) yk ?_).elim (fun _ hyk => ?_); subst yk; rotate_left; rw [hyk.2]; have _ := hyk.1; clear hyk; clear yk; rotate_left)
    | (extract_lets +onlyGivenNames yk; clear_value yk; revert yk; intro _)
    | (with_reducible refine kept_ite ?_ ?_)
    | (with_reducible apply kept_bar2Put)
    | split

theorem kept_bar2Access_eq {P : Parts} {s0 : State} {x0} {tt} (s : State) (o : Nat) (size : Nat) (v : Option W64) (hk : Kept P s0 s) (hp : Sub 0x20000000000070 P) (he : bar2Access s o size v = (x0, tt)) : Kept P s0 tt := by
  have g := kept_bar2Access s o size v hk hp
  rw [he] at g; exact g

theorem kept_busAccess {P : Parts} {s0 : State} (s : State) (w : Writer) (off : Nat) (size : Nat) (v : Option W64) (hk : Kept P s0 s) (hp : Sub 0x3138ff6ff1fffb P) : Kept P s0 (busAccess s w off size v) := by
  unfold busAccess; dsimp only
  repeat' first
    | (with_reducible assumption)
    | ((with_reducible apply Sub.le hp); rfl)
    | (with_reducible refine kept_ite ?_ ?_)
    | (with_reducible apply kept_accessRead)
    | (with_reducible apply kept_accessWrite)
    | (with_reducible apply kept_bar2Access)
    | (with_reducible apply kept_emit)
    | (with_reducible apply kept_releaseVecs)
    | split
    | ((with_reducible refine kept_mk 0x80 ?_ ?_ ?_ ?_); rotate_left; rfl; (constructor <;> first | exact fun _ => rfl | exact fun h => absurd h (by decide)); apply Sub.le hp; rfl)

theorem kept_execRegisterWrite {P : Parts} {s0 : State} (w : Writer) (off : Nat) (size : Nat) (v : Option W64) (s : State) (hk : Kept P s0 s) (hp : Sub 0x3138ff6ff1fffb P) : KeptR P s0 (execRegisterWrite w off size v s) := by
  unfold execRegisterWrite
  repeat' first
    | (with_reducible refine keptR_next ?_)
    | (with_reducible assumption)
    | (with_reducible apply kept_busAccess)

theorem kept_execW1cClear {P : Parts} {s0 : State} (w : Writer) (off : Nat) (v : W64) (s : State) (hk : Kept P s0 s) (hp : Sub 0x3138ff6ff1ff2b P) : KeptR P s0 (execW1cClear w off v s) := by
  unfold execW1cClear
  repeat' first
    | (with_reducible refine keptR_onObj (by assumption) ?_)
    | (with_reducible assumption)
    | (with_reducible refine kept_ite ?_ ?_)
    | (with_reducible apply kept_accessWrite)

theorem kept_execBwWrite {P : Parts} {s0 : State} (w : Writer) (off : Nat) (v : W64) (s : State) (hk : Kept P s0 s) (hp : Sub 0x3138ff6ff1ff2b P) : KeptR P s0 (execBwWrite w off v s) := by
  unfold execBwWrite
  repeat' first
    | (with_reducible refine keptR_onObj (by assumption) ?_)
    | (with_reducible assumption)
    | (with_reducible refine kept_ite ?_ ?_)
    | (with_reducible apply kept_accessWrite)

theorem kept_execCtrlReset {P : Parts} {s0 : State} (w : Writer) (p : Page) (s : State) (hk : Kept P s0 s) (hp : Sub 0x3138ff6ff1ff2b P) : KeptR P s0 (execCtrlReset w p s) := by
  unfold execCtrlReset
  repeat' first
    | (with_reducible refine keptR_onObj (by assumption) ?_)
    | (with_reducible assumption)
    | (with_reducible apply kept_accessWrite)

theorem kept_execCtrlFreeze {P : Parts} {s0 : State} (w : Writer) (p : Page) (on : Bool) (s : State) (hk : Kept P s0 s) (hp : Sub 0x3138ff6ff1ff2b P) : KeptR P s0 (execCtrlFreeze w p on s) := by
  unfold execCtrlFreeze
  repeat' first
    | (with_reducible refine keptR_onObj (by assumption) ?_)
    | (with_reducible assumption)
    | (with_reducible apply kept_accessWrite)

theorem kept_execCtrlEnable {P : Parts} {s0 : State} (w : Writer) (p : Page) (on : Bool) (s : State) (hk : Kept P s0 s) (hp : Sub 0x3138ff6ff1ff2b P) : KeptR P s0 (execCtrlEnable w p on s) := by
  unfold execCtrlEnable
  repeat' first
    | (with_reducible refine keptR_onObj (by assumption) ?_)
    | (with_reducible assumption)
    | (with_reducible apply kept_accessWrite)

theorem kept_execIslandUngateDone {P : Parts} {s0 : State} (tile : Nat) (s : State) (hk : Kept P s0 s) (hp : Sub 0x8000 P) : KeptR P s0 (execIslandUngateDone tile s) := by
  unfold execIslandUngateDone
  repeat' first
    | (with_reducible refine keptR_onObj (by assumption) ?_)
    | (with_reducible assumption)
    | (with_reducible apply kept_ungateDone)

theorem kept_sendVec {P : Parts} {s0 : State} (s : State) (v : Nat) (hk : Kept P s0 s) (hp : Sub 0x20000000000028 P) : Kept P s0 (sendVec s v) := by
  unfold sendVec
  repeat' first
    | (with_reducible assumption)
    | ((with_reducible apply Sub.le hp); rfl)
    | (extract_lets +onlyGivenNames yk; refine (kept_some (P := P) (s0 := s0) yk ?_).elim (fun _ hyk => ?_); subst yk; rotate_left; rw [hyk.2]; have _ := hyk.1; clear hyk; clear yk; rotate_left)
    | (with_reducible refine kept_ite ?_ ?_)
    | (with_reducible apply kept_emit)
    | ((with_reducible refine kept_mk 0x28 ?_ ?_ ?_ ?_); rotate_left; rfl; (constructor <;> first | exact fun _ => rfl | exact fun h => absurd h (by decide)); apply Sub.le hp; rfl)

theorem kept_execMsixMessage {P : Parts} {s0 : State} (vec : Nat) (s : State) (hk : Kept P s0 s) (hp : Sub 0x20000000000028 P) : KeptR P s0 (execMsixMessage vec s) := by
  unfold execMsixMessage
  repeat' first
    | (with_reducible refine keptR_onObj (by assumption) ?_)
    | (with_reducible assumption)
    | (with_reducible apply kept_sendVec)

end Sys2Proof.Machine
end

