-- ==== Sys2Proof/Laws/KeptMxCmds.lean ====
section
/-! SUPPORT. `Kept` for the operations of Machine/MxCmds.lean: one lemma per function that changes the state. -/
namespace Sys2Proof.Machine

theorem kept_execMxNop {P : Parts} {s0 : State} (tile : Nat) (n : Nat) (s : State) (hk : Kept P s0 s) (hp : Sub 0x10008000018001 P) : KeptR P s0 (execMxNop tile n s) := by
  unfold execMxNop
  repeat' first
    | (with_reducible refine keptR_onObj (by assumption) ?_)
    | (with_reducible assumption)
    | (with_reducible refine kept_ite ?_ ?_)
    | (with_reducible apply kept_illegalSlot)
    | (with_reducible apply kept_slotNop)
    | split

theorem kept_execMxWait {P : Parts} {s0 : State} (tile : Nat) (sem : BitVec 5) (k : BitVec 16) (s : State) (hk : Kept P s0 s) (hp : Sub 0x8000 P) : KeptR P s0 (execMxWait tile sem k s) := by
  unfold execMxWait
  repeat' first
    | (with_reducible refine keptR_onObj (by assumption) ?_)
    | (with_reducible assumption)
    | ((with_reducible apply Sub.le hp); rfl)
    | (with_reducible refine kept_issue _ _ _ _ _ _ (fun _ _ _ => ?_) ?_ ?_)
    | (with_reducible apply kept_slotWait)

theorem kept_execMxSig {P : Parts} {s0 : State} (tile : Nat) (sem : BitVec 5) (v : BitVec 16) (s : State) (hk : Kept P s0 s) (hp : Sub 0x10008000018001 P) : KeptR P s0 (execMxSig tile sem v s) := by
  unfold execMxSig
  repeat' first
    | (with_reducible refine keptR_onObj (by assumption) ?_)
    | (with_reducible assumption)
    | ((with_reducible apply Sub.le hp); rfl)
    | (with_reducible refine kept_issue _ _ _ _ _ _ (fun _ _ _ => ?_) ?_ ?_)
    | (with_reducible apply kept_slotSig)

theorem kept_execMxLoop {P : Parts} {s0 : State} (tile : Nat) (count : Word) (s : State) (hk : Kept P s0 s) (hp : Sub 0x10008000018001 P) : KeptR P s0 (execMxLoop tile count s) := by
  unfold execMxLoop
  repeat' first
    | (with_reducible refine keptR_onObj (by assumption) ?_)
    | (with_reducible assumption)
    | ((with_reducible apply Sub.le hp); rfl)
    | (with_reducible refine kept_issue _ _ _ _ _ _ (fun _ _ _ => ?_) ?_ ?_)
    | (with_reducible apply kept_slotLoop)

theorem kept_execMxEndloop {P : Parts} {s0 : State} (tile : Nat) (s : State) (hk : Kept P s0 s) (hp : Sub 0x10008000018001 P) : KeptR P s0 (execMxEndloop tile s) := by
  unfold execMxEndloop
  repeat' first
    | (with_reducible refine keptR_onObj (by assumption) ?_)
    | (with_reducible assumption)
    | ((with_reducible apply Sub.le hp); rfl)
    | (with_reducible refine kept_issue _ _ _ _ _ _ (fun _ _ _ => ?_) ?_ ?_)
    | (with_reducible apply kept_slotEndloop)

theorem kept_execMxCfgLoad {P : Parts} {s0 : State} (tile : Nat) (slot : BitVec 3) (line : BitVec 16) (s : State) (hk : Kept P s0 s) (hp : Sub 0x1000c000018001 P) : KeptR P s0 (execMxCfgLoad tile slot line s) := by
  unfold execMxCfgLoad
  repeat' first
    | (with_reducible refine keptR_onObj (by assumption) ?_)
    | (with_reducible assumption)
    | ((with_reducible apply Sub.le hp); rfl)
    | (with_reducible apply kept_cfgLoad)
    | (with_reducible refine kept_issue _ _ _ _ _ _ (fun _ _ _ => ?_) ?_ ?_)

theorem kept_execMxRun {P : Parts} {s0 : State} (tile : Nat) (slot : BitVec 3) (s : State) (hk : Kept P s0 s) (hp : Sub 0x1000c80021bf09 P) : KeptR P s0 (execMxRun tile slot s) := by
  unfold execMxRun
  repeat' first
    | (with_reducible refine keptR_onObj (by assumption) ?_)
    | (with_reducible assumption)
    | ((with_reducible apply Sub.le hp); rfl)
    | (with_reducible refine kept_issue _ _ _ _ _ _ (fun _ _ _ => ?_) ?_ ?_)
    | (with_reducible apply kept_mxRunStart)

theorem kept_passEnd {P : Parts} {s0 : State} (s : State) (t : Nat) (r : MxRun) (hk : Kept P s0 s) (hp : Sub 0x1000c000008001 P) : Kept P s0 (passEnd s t r) := by
  unfold passEnd
  repeat' first
    | (with_reducible assumption)
    | ((with_reducible apply Sub.le hp); rfl)
    | (extract_lets +onlyGivenNames yk; refine (kept_some (P := P) (s0 := s0) yk ?_).elim (fun _ hyk => ?_); subst yk; rotate_left; rw [hyk.2]; have _ := hyk.1; clear hyk; clear yk; rotate_left)
    | (extract_lets +onlyGivenNames yk; clear_value yk; revert yk; intro _)
    | (with_reducible refine kept_ite ?_ ?_)
    | (with_reducible apply kept_runPass)
    | (with_reducible apply kept_startPass)
    | (with_reducible refine kept_updTile_same _ _ _ (fun _ => rfl) ?_ ?_)

theorem kept_execMxPassEnd {P : Parts} {s0 : State} (tile : Nat) (s : State) (hk : Kept P s0 s) (hp : Sub 0x1000c000008001 P) : KeptR P s0 (execMxPassEnd tile s) := by
  unfold execMxPassEnd
  repeat' first
    | (with_reducible refine keptR_onObj (by assumption) ?_)
    | (with_reducible assumption)
    | (with_reducible refine kept_ite ?_ ?_)
    | (with_reducible apply kept_passEnd)
    | split

theorem kept_runDone {P : Parts} {s0 : State} (s : State) (t : Nat) (hk : Kept P s0 s) (hp : Sub 0x208001 P) : Kept P s0 (runDone s t) := by
  unfold runDone
  repeat' first
    | (with_reducible assumption)
    | ((with_reducible apply Sub.le hp); rfl)
    | (with_reducible apply kept_endRun)
    | (with_reducible apply kept_event)
    | (with_reducible apply kept_sigDone)
    | (with_reducible refine kept_updTile_same _ _ _ (fun _ => rfl) ?_ ?_)
    | split

theorem kept_execRunDone {P : Parts} {s0 : State} (tile : Nat) (s : State) (hk : Kept P s0 s) (hp : Sub 0x208001 P) : KeptR P s0 (execRunDone tile s) := by
  unfold execRunDone
  repeat' first
    | (with_reducible refine keptR_onObj (by assumption) ?_)
    | (with_reducible assumption)
    | (with_reducible refine kept_ite ?_ ?_)
    | (with_reducible apply kept_runDone)

theorem kept_execSramUe {P : Parts} {s0 : State} (tile : Nat) (word : Nat) (bits : Nat) (s : State) (hk : Kept P s0 s) (hp : Sub 0x8001 P) : KeptR P s0 (execSramUe tile word bits s) := by
  unfold execSramUe
  repeat' first
    | (with_reducible refine keptR_onObj (by assumption) ?_)
    | (with_reducible assumption)
    | ((with_reducible apply Sub.le hp); rfl)
    | (extract_lets +onlyGivenNames yk; refine (kept_some (P := P) (s0 := s0) yk ?_).elim (fun _ hyk => ?_); subst yk; rotate_left; rw [hyk.2]; have _ := hyk.1; clear hyk; clear yk; rotate_left)
    | (extract_lets +onlyGivenNames yk; clear_value yk; revert yk; intro _)
    | (with_reducible refine kept_ite ?_ ?_)
    | (with_reducible apply kept_bumpF)
    | (with_reducible apply kept_event)
    | (with_reducible apply kept_recordErr)
    | (with_reducible apply kept_setF)
    | (with_reducible refine kept_updTile_same _ _ _ (fun _ => rfl) ?_ ?_)

end Sys2Proof.Machine
end

