-- ==== Sys2Proof/Laws/KeptVeCmds.lean ====
section
/-! SUPPORT. `Kept` for the operations of Machine/VeCmds.lean: one lemma per function that changes the state. -/
namespace Sys2Proof.Machine

theorem kept_execVnop {P : Parts} {s0 : State} (tile : Nat) (f : VReg) (s : State) (hk : Kept P s0 s) (hp : Sub 0x1000c000018001 P) : KeptR P s0 (execVnop tile f s) := by
  unfold execVnop
  repeat' first
    | (with_reducible refine keptR_onObj (by assumption) ?_)
    | (with_reducible assumption)
    | ((with_reducible apply Sub.le hp); rfl)
    | (with_reducible refine kept_ite ?_ ?_)
    | (with_reducible apply kept_slotNop)
    | (with_reducible apply kept_veBegin)
    | (with_reducible apply kept_veIllegal)
    | split

theorem kept_execVsetvl {P : Parts} {s0 : State} (tile : Nat) (f : VReg) (s : State) (hk : Kept P s0 s) (hp : Sub 0x1000c000018001 P) : KeptR P s0 (execVsetvl tile f s) := by
  unfold execVsetvl
  repeat' first
    | (with_reducible refine keptR_onObj (by assumption) ?_)
    | (with_reducible assumption)
    | ((with_reducible apply Sub.le hp); rfl)
    | (extract_lets +onlyGivenNames yk; clear_value yk; revert yk; intro _)
    | (with_reducible refine kept_ite ?_ ?_)
    | (with_reducible refine kept_issueV _ _ _ _ (fun _ _ => ?_) ?_ ?_)
    | (with_reducible apply kept_nextEntry)
    | (with_reducible apply kept_updVe)
    | (with_reducible apply kept_veIllegal)

theorem kept_execVsetctl {P : Parts} {s0 : State} (tile : Nat) (f : VReg) (s : State) (hk : Kept P s0 s) (hp : Sub 0x1000c000018001 P) : KeptR P s0 (execVsetctl tile f s) := by
  unfold execVsetctl
  repeat' first
    | (with_reducible refine keptR_onObj (by assumption) ?_)
    | (with_reducible assumption)
    | ((with_reducible apply Sub.le hp); rfl)
    | (with_reducible refine kept_issueV _ _ _ _ (fun _ _ => ?_) ?_ ?_)
    | (with_reducible apply kept_nextEntry)
    | (with_reducible apply kept_updVe)

theorem kept_execVseta {P : Parts} {s0 : State} (tile : Nat) (f : VReg) (s : State) (hk : Kept P s0 s) (hp : Sub 0x1000c000018001 P) : KeptR P s0 (execVseta tile f s) := by
  unfold execVseta
  repeat' first
    | (with_reducible refine keptR_onObj (by assumption) ?_)
    | (with_reducible assumption)
    | ((with_reducible apply Sub.le hp); rfl)
    | (extract_lets +onlyGivenNames yk; clear_value yk; revert yk; intro _)
    | (with_reducible refine kept_ite ?_ ?_)
    | (with_reducible refine kept_issueV _ _ _ _ (fun _ _ => ?_) ?_ ?_)
    | (with_reducible apply kept_nextEntry)
    | (with_reducible apply kept_updVe)
    | (with_reducible apply kept_veIllegal)

theorem kept_execVadda {P : Parts} {s0 : State} (tile : Nat) (f : VReg) (s : State) (hk : Kept P s0 s) (hp : Sub 0x1000c000018001 P) : KeptR P s0 (execVadda tile f s) := by
  unfold execVadda
  repeat' first
    | (with_reducible refine keptR_onObj (by assumption) ?_)
    | (with_reducible assumption)
    | ((with_reducible apply Sub.le hp); rfl)
    | (extract_lets +onlyGivenNames yk; clear_value yk; revert yk; intro _)
    | (with_reducible refine kept_ite ?_ ?_)
    | (with_reducible refine kept_issueV _ _ _ _ (fun _ _ => ?_) ?_ ?_)
    | (with_reducible apply kept_nextEntry)
    | (with_reducible apply kept_updVe)
    | (with_reducible apply kept_veIllegal)

theorem kept_execVrdfl {P : Parts} {s0 : State} (tile : Nat) (f : VReg) (s : State) (hk : Kept P s0 s) (hp : Sub 0x1000c000018001 P) : KeptR P s0 (execVrdfl tile f s) := by
  unfold execVrdfl
  repeat' first
    | (with_reducible refine keptR_onObj (by assumption) ?_)
    | (with_reducible assumption)
    | ((with_reducible apply Sub.le hp); rfl)
    | (extract_lets +onlyGivenNames yk; refine (kept_some (P := P) (s0 := s0) yk ?_).elim (fun _ hyk => ?_); subst yk; rotate_left; rw [hyk.2]; have _ := hyk.1; clear hyk; clear yk; rotate_left)
    | (extract_lets +onlyGivenNames yk; clear_value yk; revert yk; intro _)
    | (with_reducible refine kept_issueV _ _ _ _ (fun _ _ => ?_) ?_ ?_)
    | (with_reducible apply kept_nextEntry)
    | (with_reducible apply kept_updVe)
    | (with_reducible apply kept_veCommit)

theorem kept_execVclrfl {P : Parts} {s0 : State} (tile : Nat) (f : VReg) (s : State) (hk : Kept P s0 s) (hp : Sub 0x1000c000018001 P) : KeptR P s0 (execVclrfl tile f s) := by
  unfold execVclrfl
  repeat' first
    | (with_reducible refine keptR_onObj (by assumption) ?_)
    | (with_reducible assumption)
    | ((with_reducible apply Sub.le hp); rfl)
    | (with_reducible refine kept_issueV _ _ _ _ (fun _ _ => ?_) ?_ ?_)
    | (with_reducible apply kept_nextEntry)
    | (with_reducible apply kept_updVe)

theorem kept_execVld {P : Parts} {s0 : State} (tile : Nat) (f : VMem) (s : State) (hk : Kept P s0 s) (hp : Sub 0x1000c000018001 P) : KeptR P s0 (execVld tile f s) := by
  unfold execVld
  repeat' first
    | (with_reducible refine keptR_onObj (by assumption) ?_)
    | (with_reducible assumption)
    | ((with_reducible apply Sub.le hp); rfl)
    | (extract_lets +onlyGivenNames yk; clear_value yk; revert yk; intro _)
    | (with_reducible refine kept_ite ?_ ?_)
    | (with_reducible refine kept_issueV _ _ _ _ (fun _ _ => ?_) ?_ ?_)
    | (with_reducible apply kept_veIllegal)
    | (with_reducible apply kept_veLoad)

theorem kept_execVlds {P : Parts} {s0 : State} (tile : Nat) (f : VMem) (s : State) (hk : Kept P s0 s) (hp : Sub 0x1000c000018001 P) : KeptR P s0 (execVlds tile f s) := by
  unfold execVlds
  repeat' first
    | (with_reducible refine keptR_onObj (by assumption) ?_)
    | (with_reducible assumption)
    | ((with_reducible apply Sub.le hp); rfl)
    | (extract_lets +onlyGivenNames yk; clear_value yk; revert yk; intro _)
    | (with_reducible refine kept_ite ?_ ?_)
    | (with_reducible refine kept_issueV _ _ _ _ (fun _ _ => ?_) ?_ ?_)
    | (with_reducible apply kept_veIllegal)
    | (with_reducible apply kept_veLoad)

theorem kept_execTld {P : Parts} {s0 : State} (tile : Nat) (f : VMem) (s : State) (hk : Kept P s0 s) (hp : Sub 0x1000c000018001 P) : KeptR P s0 (execTld tile f s) := by
  unfold execTld
  repeat' first
    | (with_reducible refine keptR_onObj (by assumption) ?_)
    | (with_reducible assumption)
    | ((with_reducible apply Sub.le hp); rfl)
    | (extract_lets +onlyGivenNames yk; clear_value yk; revert yk; intro _)
    | (with_reducible refine kept_ite ?_ ?_)
    | (with_reducible refine kept_issueV _ _ _ _ (fun _ _ => ?_) ?_ ?_)
    | (with_reducible apply kept_veIllegal)
    | (with_reducible apply kept_veLoad)

theorem kept_execVst {P : Parts} {s0 : State} (tile : Nat) (f : VMem) (s : State) (hk : Kept P s0 s) (hp : Sub 0x1000c000018001 P) : KeptR P s0 (execVst tile f s) := by
  unfold execVst
  repeat' first
    | (with_reducible refine keptR_onObj (by assumption) ?_)
    | (with_reducible assumption)
    | ((with_reducible apply Sub.le hp); rfl)
    | (extract_lets +onlyGivenNames yk; clear_value yk; revert yk; intro _)
    | (with_reducible refine kept_ite ?_ ?_)
    | (with_reducible refine kept_issueV _ _ _ _ (fun _ _ => ?_) ?_ ?_)
    | (with_reducible apply kept_veIllegal)
    | (with_reducible apply kept_veStore)

theorem kept_execVsts {P : Parts} {s0 : State} (tile : Nat) (f : VMem) (s : State) (hk : Kept P s0 s) (hp : Sub 0x1000c000018001 P) : KeptR P s0 (execVsts tile f s) := by
  unfold execVsts
  repeat' first
    | (with_reducible refine keptR_onObj (by assumption) ?_)
    | (with_reducible assumption)
    | ((with_reducible apply Sub.le hp); rfl)
    | (extract_lets +onlyGivenNames yk; clear_value yk; revert yk; intro _)
    | (with_reducible refine kept_ite ?_ ?_)
    | (with_reducible refine kept_issueV _ _ _ _ (fun _ _ => ?_) ?_ ?_)
    | (with_reducible apply kept_veIllegal)
    | (with_reducible apply kept_veStore)

theorem kept_execTst {P : Parts} {s0 : State} (tile : Nat) (f : VMem) (s : State) (hk : Kept P s0 s) (hp : Sub 0x1000c000018001 P) : KeptR P s0 (execTst tile f s) := by
  unfold execTst
  repeat' first
    | (with_reducible refine keptR_onObj (by assumption) ?_)
    | (with_reducible assumption)
    | ((with_reducible apply Sub.le hp); rfl)
    | (extract_lets +onlyGivenNames yk; clear_value yk; revert yk; intro _)
    | (with_reducible refine kept_ite ?_ ?_)
    | (with_reducible refine kept_issueV _ _ _ _ (fun _ _ => ?_) ?_ ?_)
    | (with_reducible apply kept_veIllegal)
    | (with_reducible apply kept_veStore)

theorem kept_execVadd {P : Parts} {s0 : State} (tile : Nat) (f : VReg) (s : State) (hk : Kept P s0 s) (hp : Sub 0x1000c000018001 P) : KeptR P s0 (execVadd tile f s) := by
  unfold execVadd
  repeat' first
    | (with_reducible refine keptR_onObj (by assumption) ?_)
    | (with_reducible assumption)
    | ((with_reducible apply Sub.le hp); rfl)
    | (with_reducible refine kept_issueV _ _ _ _ (fun _ _ => ?_) ?_ ?_)
    | (with_reducible apply kept_veArith)

theorem kept_execVsub {P : Parts} {s0 : State} (tile : Nat) (f : VReg) (s : State) (hk : Kept P s0 s) (hp : Sub 0x1000c000018001 P) : KeptR P s0 (execVsub tile f s) := by
  unfold execVsub
  repeat' first
    | (with_reducible refine keptR_onObj (by assumption) ?_)
    | (with_reducible assumption)
    | ((with_reducible apply Sub.le hp); rfl)
    | (with_reducible refine kept_issueV _ _ _ _ (fun _ _ => ?_) ?_ ?_)
    | (with_reducible apply kept_veArith)

theorem kept_execVmul {P : Parts} {s0 : State} (tile : Nat) (f : VReg) (s : State) (hk : Kept P s0 s) (hp : Sub 0x1000c000018001 P) : KeptR P s0 (execVmul tile f s) := by
  unfold execVmul
  repeat' first
    | (with_reducible refine keptR_onObj (by assumption) ?_)
    | (with_reducible assumption)
    | ((with_reducible apply Sub.le hp); rfl)
    | (with_reducible refine kept_issueV _ _ _ _ (fun _ _ => ?_) ?_ ?_)
    | (with_reducible apply kept_veArith)

theorem kept_execVfma {P : Parts} {s0 : State} (tile : Nat) (f : VReg) (s : State) (hk : Kept P s0 s) (hp : Sub 0x1000c000018001 P) : KeptR P s0 (execVfma tile f s) := by
  unfold execVfma
  repeat' first
    | (with_reducible refine keptR_onObj (by assumption) ?_)
    | (with_reducible assumption)
    | ((with_reducible apply Sub.le hp); rfl)
    | (with_reducible refine kept_issueV _ _ _ _ (fun _ _ => ?_) ?_ ?_)
    | (with_reducible apply kept_veArith)

theorem kept_execVmin {P : Parts} {s0 : State} (tile : Nat) (f : VReg) (s : State) (hk : Kept P s0 s) (hp : Sub 0x1000c000018001 P) : KeptR P s0 (execVmin tile f s) := by
  unfold execVmin
  repeat' first
    | (with_reducible refine keptR_onObj (by assumption) ?_)
    | (with_reducible assumption)
    | ((with_reducible apply Sub.le hp); rfl)
    | (with_reducible refine kept_issueV _ _ _ _ (fun _ _ => ?_) ?_ ?_)
    | (with_reducible apply kept_veArith)

theorem kept_execVmax {P : Parts} {s0 : State} (tile : Nat) (f : VReg) (s : State) (hk : Kept P s0 s) (hp : Sub 0x1000c000018001 P) : KeptR P s0 (execVmax tile f s) := by
  unfold execVmax
  repeat' first
    | (with_reducible refine keptR_onObj (by assumption) ?_)
    | (with_reducible assumption)
    | ((with_reducible apply Sub.le hp); rfl)
    | (with_reducible refine kept_issueV _ _ _ _ (fun _ _ => ?_) ?_ ?_)
    | (with_reducible apply kept_veArith)

theorem kept_execVcmp {P : Parts} {s0 : State} (tile : Nat) (f : VReg) (s : State) (hk : Kept P s0 s) (hp : Sub 0x1000c000018001 P) : KeptR P s0 (execVcmp tile f s) := by
  unfold execVcmp
  repeat' first
    | (with_reducible refine keptR_onObj (by assumption) ?_)
    | (with_reducible assumption)
    | ((with_reducible apply Sub.le hp); rfl)
    | (extract_lets +onlyGivenNames yk; clear_value yk; revert yk; intro _)
    | (with_reducible refine kept_ite ?_ ?_)
    | (with_reducible refine kept_issueV _ _ _ _ (fun _ _ => ?_) ?_ ?_)
    | (with_reducible apply kept_veIllegal)
    | (with_reducible apply kept_veMap)

theorem kept_execVsel {P : Parts} {s0 : State} (tile : Nat) (f : VReg) (s : State) (hk : Kept P s0 s) (hp : Sub 0x1000c000018001 P) : KeptR P s0 (execVsel tile f s) := by
  unfold execVsel
  repeat' first
    | (with_reducible refine keptR_onObj (by assumption) ?_)
    | (with_reducible assumption)
    | ((with_reducible apply Sub.le hp); rfl)
    | (extract_lets +onlyGivenNames yk; clear_value yk; revert yk; intro _)
    | (with_reducible refine kept_ite ?_ ?_)
    | (with_reducible refine kept_issueV _ _ _ _ (fun _ _ => ?_) ?_ ?_)
    | (with_reducible apply kept_veIllegal)
    | (with_reducible apply kept_veMap)

theorem kept_execVand {P : Parts} {s0 : State} (tile : Nat) (f : VReg) (s : State) (hk : Kept P s0 s) (hp : Sub 0x1000c000018001 P) : KeptR P s0 (execVand tile f s) := by
  unfold execVand
  repeat' first
    | (with_reducible refine keptR_onObj (by assumption) ?_)
    | (with_reducible assumption)
    | ((with_reducible apply Sub.le hp); rfl)
    | (with_reducible refine kept_issueV _ _ _ _ (fun _ _ => ?_) ?_ ?_)
    | (with_reducible apply kept_veBitwise)

theorem kept_execVor {P : Parts} {s0 : State} (tile : Nat) (f : VReg) (s : State) (hk : Kept P s0 s) (hp : Sub 0x1000c000018001 P) : KeptR P s0 (execVor tile f s) := by
  unfold execVor
  repeat' first
    | (with_reducible refine keptR_onObj (by assumption) ?_)
    | (with_reducible assumption)
    | ((with_reducible apply Sub.le hp); rfl)
    | (with_reducible refine kept_issueV _ _ _ _ (fun _ _ => ?_) ?_ ?_)
    | (with_reducible apply kept_veBitwise)

theorem kept_execVxor {P : Parts} {s0 : State} (tile : Nat) (f : VReg) (s : State) (hk : Kept P s0 s) (hp : Sub 0x1000c000018001 P) : KeptR P s0 (execVxor tile f s) := by
  unfold execVxor
  repeat' first
    | (with_reducible refine keptR_onObj (by assumption) ?_)
    | (with_reducible assumption)
    | ((with_reducible apply Sub.le hp); rfl)
    | (with_reducible refine kept_issueV _ _ _ _ (fun _ _ => ?_) ?_ ?_)
    | (with_reducible apply kept_veBitwise)

theorem kept_execVidx {P : Parts} {s0 : State} (tile : Nat) (f : VReg) (s : State) (hk : Kept P s0 s) (hp : Sub 0x1000c000018001 P) : KeptR P s0 (execVidx tile f s) := by
  unfold execVidx
  repeat' first
    | (with_reducible refine keptR_onObj (by assumption) ?_)
    | (with_reducible assumption)
    | ((with_reducible apply Sub.le hp); rfl)
    | (with_reducible refine kept_issueV _ _ _ _ (fun _ _ => ?_) ?_ ?_)
    | (with_reducible apply kept_veMap)

theorem kept_execVmov {P : Parts} {s0 : State} (tile : Nat) (f : VReg) (s : State) (hk : Kept P s0 s) (hp : Sub 0x1000c000018001 P) : KeptR P s0 (execVmov tile f s) := by
  unfold execVmov
  repeat' first
    | (with_reducible refine keptR_onObj (by assumption) ?_)
    | (with_reducible assumption)
    | ((with_reducible apply Sub.le hp); rfl)
    | (extract_lets +onlyGivenNames yk; clear_value yk; revert yk; intro _)
    | (with_reducible refine kept_issueV _ _ _ _ (fun _ _ => ?_) ?_ ?_)
    | (with_reducible apply kept_veMap)

theorem kept_execVcvt {P : Parts} {s0 : State} (tile : Nat) (f : VReg) (s : State) (hk : Kept P s0 s) (hp : Sub 0x1000c000018001 P) : KeptR P s0 (execVcvt tile f s) := by
  unfold execVcvt
  repeat' first
    | (with_reducible refine keptR_onObj (by assumption) ?_)
    | (with_reducible assumption)
    | ((with_reducible apply Sub.le hp); rfl)
    | (with_reducible refine kept_issueV _ _ _ _ (fun _ _ => ?_) ?_ ?_)
    | (with_reducible apply kept_veCvt)

theorem kept_execVmxp {P : Parts} {s0 : State} (tile : Nat) (f : VReg) (s : State) (hk : Kept P s0 s) (hp : Sub 0x1000c000018001 P) : KeptR P s0 (execVmxp tile f s) := by
  unfold execVmxp
  repeat' first
    | (with_reducible refine keptR_onObj (by assumption) ?_)
    | (with_reducible assumption)
    | ((with_reducible apply Sub.le hp); rfl)
    | (with_reducible refine kept_issueV _ _ _ _ (fun _ _ => ?_) ?_ ?_)
    | (with_reducible apply kept_veMxp)

theorem kept_execVrcp {P : Parts} {s0 : State} (tile : Nat) (f : VReg) (s : State) (hk : Kept P s0 s) (hp : Sub 0x1000c000018001 P) : KeptR P s0 (execVrcp tile f s) := by
  unfold execVrcp
  repeat' first
    | (with_reducible refine keptR_onObj (by assumption) ?_)
    | (with_reducible assumption)
    | ((with_reducible apply Sub.le hp); rfl)
    | (with_reducible refine kept_issueV _ _ _ _ (fun _ _ => ?_) ?_ ?_)
    | (with_reducible apply kept_veApprox)

theorem kept_execVrsq {P : Parts} {s0 : State} (tile : Nat) (f : VReg) (s : State) (hk : Kept P s0 s) (hp : Sub 0x1000c000018001 P) : KeptR P s0 (execVrsq tile f s) := by
  unfold execVrsq
  repeat' first
    | (with_reducible refine keptR_onObj (by assumption) ?_)
    | (with_reducible assumption)
    | ((with_reducible apply Sub.le hp); rfl)
    | (with_reducible refine kept_issueV _ _ _ _ (fun _ _ => ?_) ?_ ?_)
    | (with_reducible apply kept_veApprox)

theorem kept_execVexp2 {P : Parts} {s0 : State} (tile : Nat) (f : VReg) (s : State) (hk : Kept P s0 s) (hp : Sub 0x1000c000018001 P) : KeptR P s0 (execVexp2 tile f s) := by
  unfold execVexp2
  repeat' first
    | (with_reducible refine keptR_onObj (by assumption) ?_)
    | (with_reducible assumption)
    | ((with_reducible apply Sub.le hp); rfl)
    | (with_reducible refine kept_issueV _ _ _ _ (fun _ _ => ?_) ?_ ?_)
    | (with_reducible apply kept_veApprox)

theorem kept_execVlog2 {P : Parts} {s0 : State} (tile : Nat) (f : VReg) (s : State) (hk : Kept P s0 s) (hp : Sub 0x1000c000018001 P) : KeptR P s0 (execVlog2 tile f s) := by
  unfold execVlog2
  repeat' first
    | (with_reducible refine keptR_onObj (by assumption) ?_)
    | (with_reducible assumption)
    | ((with_reducible apply Sub.le hp); rfl)
    | (with_reducible refine kept_issueV _ _ _ _ (fun _ _ => ?_) ?_ ?_)
    | (with_reducible apply kept_veApprox)

theorem kept_execVperm {P : Parts} {s0 : State} (tile : Nat) (f : VReg) (s : State) (hk : Kept P s0 s) (hp : Sub 0x1000c000018001 P) : KeptR P s0 (execVperm tile f s) := by
  unfold execVperm
  repeat' first
    | (with_reducible refine keptR_onObj (by assumption) ?_)
    | (with_reducible assumption)
    | ((with_reducible apply Sub.le hp); rfl)
    | (with_reducible refine kept_issueV _ _ _ _ (fun _ _ => ?_) ?_ ?_)
    | (with_reducible apply kept_vePerm)

theorem kept_execVred {P : Parts} {s0 : State} (tile : Nat) (f : VReg) (s : State) (hk : Kept P s0 s) (hp : Sub 0x1000c000018001 P) : KeptR P s0 (execVred tile f s) := by
  unfold execVred
  repeat' first
    | (with_reducible refine keptR_onObj (by assumption) ?_)
    | (with_reducible assumption)
    | ((with_reducible apply Sub.le hp); rfl)
    | (with_reducible refine kept_issueV _ _ _ _ (fun _ _ => ?_) ?_ ?_)
    | (with_reducible apply kept_veRed)

theorem kept_execTrow {P : Parts} {s0 : State} (tile : Nat) (f : VReg) (s : State) (hk : Kept P s0 s) (hp : Sub 0x1000c000018001 P) : KeptR P s0 (execTrow tile f s) := by
  unfold execTrow
  repeat' first
    | (with_reducible refine keptR_onObj (by assumption) ?_)
    | (with_reducible assumption)
    | ((with_reducible apply Sub.le hp); rfl)
    | (with_reducible refine kept_issueV _ _ _ _ (fun _ _ => ?_) ?_ ?_)
    | (with_reducible apply kept_veTrow)

theorem kept_execTcol {P : Parts} {s0 : State} (tile : Nat) (f : VReg) (s : State) (hk : Kept P s0 s) (hp : Sub 0x1000c000018001 P) : KeptR P s0 (execTcol tile f s) := by
  unfold execTcol
  repeat' first
    | (with_reducible refine keptR_onObj (by assumption) ?_)
    | (with_reducible assumption)
    | ((with_reducible apply Sub.le hp); rfl)
    | (with_reducible refine kept_issueV _ _ _ _ (fun _ _ => ?_) ?_ ?_)
    | (with_reducible apply kept_veTcol)

theorem kept_execVwait {P : Parts} {s0 : State} (tile : Nat) (f : VReg) (s : State) (hk : Kept P s0 s) (hp : Sub 0x4000008000 P) : KeptR P s0 (execVwait tile f s) := by
  unfold execVwait
  repeat' first
    | (with_reducible refine keptR_onObj (by assumption) ?_)
    | (with_reducible assumption)
    | ((with_reducible apply Sub.le hp); rfl)
    | (with_reducible refine kept_issueV _ _ _ _ (fun _ _ => ?_) ?_ ?_)
    | (with_reducible apply kept_slotWait)

theorem kept_execVsig {P : Parts} {s0 : State} (tile : Nat) (f : VReg) (s : State) (hk : Kept P s0 s) (hp : Sub 0x1000c000018001 P) : KeptR P s0 (execVsig tile f s) := by
  unfold execVsig
  repeat' first
    | (with_reducible refine keptR_onObj (by assumption) ?_)
    | (with_reducible assumption)
    | ((with_reducible apply Sub.le hp); rfl)
    | (with_reducible refine kept_issueV _ _ _ _ (fun _ _ => ?_) ?_ ?_)
    | (with_reducible apply kept_slotSig)

theorem kept_execVeLoop {P : Parts} {s0 : State} (tile : Nat) (f : VReg) (s : State) (hk : Kept P s0 s) (hp : Sub 0x1000c000018001 P) : KeptR P s0 (execVeLoop tile f s) := by
  unfold execVeLoop
  repeat' first
    | (with_reducible refine keptR_onObj (by assumption) ?_)
    | (with_reducible assumption)
    | ((with_reducible apply Sub.le hp); rfl)
    | (with_reducible refine kept_issueV _ _ _ _ (fun _ _ => ?_) ?_ ?_)
    | (with_reducible apply kept_slotLoop)

theorem kept_execVeEndloop {P : Parts} {s0 : State} (tile : Nat) (f : VReg) (s : State) (hk : Kept P s0 s) (hp : Sub 0x1000c000018001 P) : KeptR P s0 (execVeEndloop tile f s) := by
  unfold execVeEndloop
  repeat' first
    | (with_reducible refine keptR_onObj (by assumption) ?_)
    | (with_reducible assumption)
    | ((with_reducible apply Sub.le hp); rfl)
    | (with_reducible refine kept_issueV _ _ _ _ (fun _ _ => ?_) ?_ ?_)
    | (with_reducible apply kept_slotEndloop)

theorem kept_execCwSoftmax {P : Parts} {s0 : State} (tile : Nat) (argLine : Nat) (s : State) (hk : Kept P s0 s) (hp : Sub 0x1000c000008001 P) : KeptR P s0 (execCwSoftmax tile argLine s) := by
  unfold execCwSoftmax
  repeat' first
    | (with_reducible refine keptR_onObj (by assumption) ?_)
    | (with_reducible assumption)
    | (with_reducible apply kept_cwCall)

theorem kept_execCwLnorm {P : Parts} {s0 : State} (tile : Nat) (argLine : Nat) (s : State) (hk : Kept P s0 s) (hp : Sub 0x1000c000008001 P) : KeptR P s0 (execCwLnorm tile argLine s) := by
  unfold execCwLnorm
  repeat' first
    | (with_reducible refine keptR_onObj (by assumption) ?_)
    | (with_reducible assumption)
    | (with_reducible apply kept_cwCall)

theorem kept_execCwRmsnorm {P : Parts} {s0 : State} (tile : Nat) (argLine : Nat) (s : State) (hk : Kept P s0 s) (hp : Sub 0x1000c000008001 P) : KeptR P s0 (execCwRmsnorm tile argLine s) := by
  unfold execCwRmsnorm
  repeat' first
    | (with_reducible refine keptR_onObj (by assumption) ?_)
    | (with_reducible assumption)
    | (with_reducible apply kept_cwCall)

theorem kept_execEngineRoutineDone {P : Parts} {s0 : State} (tile : Nat) (s : State) (hk : Kept P s0 s) (hp : Sub 0x10008000018001 P) : KeptR P s0 (execEngineRoutineDone tile s) := by
  unfold execEngineRoutineDone
  repeat' first
    | (with_reducible refine keptR_onObj (by assumption) ?_)
    | (with_reducible assumption)
    | (with_reducible refine kept_ite ?_ ?_)
    | (with_reducible apply kept_cwEnd)

end Sys2Proof.Machine
end

