-- ==== Sys2Proof/Tests/Slice0.lean ====
section
/-! SUPPORT. Tests. States and operands built small; for each statement with hypotheses one theorem that shows states and operands
meeting them, clause by clause; ill-formed operands for each check of WellFormed; a few single steps. -/
open Sys2Proof
namespace Sys2Proof.Machine.Tests
set_option Elab.async false

/-- A part that has booted, with every page enabled and nothing running. -/
def up : State := { State.reset with enabled := true, board := { perst := false }, cxl := { configReady := true } }
/-- A tile's state on a booted part. -/
def upTile (k : Nat) (t : Tile) : State := { up with tiles := [(k, { t with gated := false })] }
/-- A channel's state on a booted part. -/
def upChan (st ch : Nat) (c : Channel) : State := { up with chans := [(st * 32 + ch, c)] }
/-- A stack's state on a booted part. -/
def upStack (st : Nat) (x : Stack) : State := { up with stackTab := [(st, x)] }
/-- A stack that has trained. -/
def trainedStack : Stack := { trained := true }
/-- A booted part whose stack 0 has trained and serves requests. -/
def served : State := { up with stackTab := [(0, trainedStack)] }
/-- A request for one sector. -/
def req (src pa : Nat) : Req := ⟨src, pa, 1, false, [], [false], 7, 0⟩
/-- A write of one sector. -/
def wreq (src pa : Nat) : Req := ⟨src, pa, 1, true, List.replicate 63 none ++ [some 0xA5], [false], 7, 0⟩
/-- The owner of channel `ch` of stack `st` in a mode, in the register file and in force. -/
def moded (s : State) (st ch mode owner : Nat) : State :=
  (setF s (pgDctl s.member st ch) F.DCTL_CHMODE_STATE mode).updChan st ch (fun c => { c with owner := owner })
/-- A memory-mode channel (stack 19, channel 31) whose bank column 15 has a queue and an open row. -/
def banked (q : List Req) (row : Option Nat) : State := upChan 19 31 { banks := [(15, { queue := q, openRow := row })] }
/-- The part address of row 9 of that bank column. -/
def rowPa : Nat := paOf 19 9 31 15
/-- A bank column that a decode of row 9 holds. -/
def decoding : State :=
  { upChan 19 31 { banks := [(15, { corr := some (req 0x2000 (rowPa + 64)) })], lines := [⟨15, 9⟩] } with
    flips := [((rowPa + 64) / 64, [3, 9])] }
/-- A stack whose rebuild queue holds one parity row. -/
def rebuilding : State := { upStack 19 { trained := true, rebuild := [(31, 15, 65535)] } with flips := [(paOf 19 65535 31 15 / 64, [1])] }
/-- A channel's REFSTAT with the bursting flag. -/
def burst (s : State) (owed : Nat) : State :=
  let p := pgDctl s.member 19 31
  setF (setF s p F.DCTL_REFSTAT_OWED owed) p F.DCTL_REFSTAT_BURSTING 1
/-- A swath of two rows of four chunks. -/
def swath : Swath := ⟨0, 2, 0, 0, 4, 0, 4, 1, false, 5, none⟩
/-- The swath, running at its first chunk. -/
def swathRun : Running := ⟨swath, 0, 0, 0, 0, 1, 0, false, false, 0, false, false, [], [], [], false⟩
/-- Channel 31 of stack 19 in processor mode with its last unit running, and refreshes owed. -/
def running19 (owed : Nat) : State :=
  setF (moded { up with units := [(unitOf 19 31 15, { run := some swathRun })] } 19 31 2 0x1000)
    (pgDctl .zh8c 19 31) F.DCTL_REFSTAT_OWED owed
/-- Errors and an event on the CXL page, and tile 511 being zeroed. -/
def noisy : State := { recordErr (event up pgCxl 4) pgCxl 0x0E14 7 with tiles := [(511, { zeroing := true })] }
/-- An error on a page. -/
def erred (s : State) (page : Nat) : State := recordErr s page 0x10 5
/-- The last sector of the part. -/
def lastPa : Nat := 2 ^ 36 * 20 - 64
/-- Dirty parity lines of channel 31 of stack 19. -/
def dirty : State := upChan 19 31 { lines := [⟨15, 9⟩, ⟨3, 9⟩, ⟨15, 8⟩] }
/-- The 17 readings of a stack, all alike. -/
def temps (n : Nat) : List Nat := List.replicate 17 n
/-- A hot stack that has read 80 °C or less since. -/
def hotStack : State := setF (upStack 19 { coolRun := true, warnArmed := false, warnRun := true }) (pgStk .zh8c 19) F.STK_TEMP_HOT 1
/-- Stack 19 in a self-refresh state, with a mask of kept core dies. -/
def refreshing (state keep : Nat) : State :=
  setF (setF (upStack 19 trainedStack) (pgStk .zh8c 19) F.STK_SRCTL_SR_STATE state) (pgStk .zh8c 19) F.STK_SRCTL_KEEP_EFF keep
/-- The same, with bytes in the first row of the stack, in a row of its last core die, and in stack 0. -/
def keepSome (state keep : Nat) : State :=
  { refreshing state keep with mem := [(5, 0x11), (2 ^ 36 * 19 + 5, 0x22), (2 ^ 36 * 20 - 1, 0x33)] }
/-- Stack 19 at the strength of two parity slots. -/
def strong : State := { upStack 19 trainedStack with flash := { store := [(pgEcc .zh8c 19 + 0x80, 2)] } }
/-- A bounded-write register of an entry already valid. -/
def fallowed : State := { upStack 19 trainedStack with flash := { store := [(pgEcc .zh8c 19 + 0xFF8, 0x8000000000000000)] } }
/-- A Fallow copy of entry 3 running, with `left` rows to copy, and another waiting. -/
def copying (left : Nat) (l : List Nat) : State :=
  setF (upStack 19 { trained := true, copies := 3 :: l }) (pgEcc .zh8c 19) F.ECC_FALLOWSTAT_COPY_LEFT left
/-- Stack 19 with the Tedder at a position. -/
def tedder (pos : Nat) : State := setF (upStack 19 trainedStack) (pgEcc .zh8c 19) F.ECC_SCRUBPOS_POSITION pos
/-- Stack 19 in TEST, with a helper running or not. -/
def inTest19 (busy : Nat) (abort : Bool) : State :=
  setF (setF (setF (upStack 19 { trained := true, aborting := abort }) (pgCal .zh8c 19) F.CAL_TRCTL_TEST 1)
    (pgCal .zh8c 19) F.CAL_TRSTAT_BUSY busy) (pgCal .zh8c 19) F.CAL_TRCTL_ALL 1
/-- A wire whose correction count is not zero. -/
def wired : State := upStack 19 { trained := true, wires := [(31 * 64 + 63, { laneCe := 4, readDly := 70, steps := 65535 })] }
/-- Channel 31 of stack 19 with a training window running (1) or pending. -/
def windowed (runs : Nat) : State :=
  setF (setF (upStack 19 trainedStack) (pgDctl .zh8c 19 31) F.DCTL_REFSTAT_WINDOW runs) (pgDctl .zh8c 19 31) F.DCTL_TRAINWIN_PENDING 1
/-- A WR_ACC packet of 4 bytes for row 9 of the last unit. -/
def accPkt : Pkt := { typ := 2, dest := 0, src := 3, srcId := 0x1000, hops := 0, cls := 0, pa := paOf 19 9 31 15 + 16, tag := 5, len := 4,
                      afmt := 0, piece := 0, value := 0, counter := 0, fenceNo := 0, status := 0, mgmtOp := 0, completes := 0,
                      poison := [false], payload := [0, 0, 128, 63], vc := 2, reserved := false }
/-- The last unit's number. -/
def lastUnit : Nat := 10239
/-- The last bank column's command space, with its owner. -/
def cmdAt : CmdAt := ⟨0x1000, 19, 31, 15⟩
/-- A channel in processor mode that a tile owns, with the last unit as given. -/
def owned (u : Unit) : State := moded { upTile 0 {} with units := [(lastUnit, u)] } 19 31 2 0x1000
/-- The same, in another mode. -/
def ownedIn (mode : Nat) (u : Unit) : State := moded { upTile 0 {} with units := [(lastUnit, u)] } 19 31 mode 0x1000
/-- The words of a swath command: one row, four chunks, slot 7, tag 9. -/
def cmdUnit (rows : Nat) : Unit := { cmd0 := BitVec.ofNat 64 (3 + 65536 * rows), cmd1 := 0x900000000 + 0x38000000 + 0x100100 }
/-- A unit with a queued swath. -/
def queuedUnit : Unit := { queue := [swath], s := [(3, 0x11)], flags := 5 }
/-- A paused swath. -/
def pausedRun : Running := { swathRun with paused := true, preempts := 2, cause := 1, ready := true }
/-- A unit with it. -/
def pausedUnit : Unit := { run := some pausedRun }
/-- A unit at the end of a row. -/
def endUnit (row cause : Nat) : Unit := { run := some { swathRun with rowIdx := row, chunk := 4, cause := cause }, post := ⟨5, true⟩ }
/-- A unit whose row is being corrected. -/
def corrUnit : Unit := { run := some swathRun, corr := some (2 ^ 30 * 19) }
/-- A running breather that lasts past the request of an exit, with a paused swath. -/
def lateBreather : State := moded { upChan 19 31 { breath := true } with units := [(lastUnit, pausedUnit)] } 19 31 4 0x1000
/-- The swath at the end of a row. -/
def endRun (row cause : Nat) : Running := { swathRun with rowIdx := row, chunk := 4, cause := cause }
/-- A Sorrel program word: class 0, chunk condition `cnd`, destination 1, sources 2, 3 and 4, modifier m. -/
def sorrelF (cnd m : Nat) : SrlF := ⟨0, BitVec.ofNat 2 cnd, 1, 2, 3, 4, BitVec.ofNat 6 m⟩
/-- The word with an opcode. -/
def sorrelWord (op : Nat) (f : SrlF) : Word := BitVec.ofNat 6 op ++ f.cls ++ f.cnd ++ f.d ++ f.a ++ f.b ++ f.c ++ f.m
/-- Eight FP32 lanes 1.0, 2.0, 3.0 and so on; the low bytes are not zero as integers either. -/
def floats : Chunk := fromLanes 4 [0x3F800000, 0x40000000, 0x40400000, 0x40800000, 0x40A00000, 0x40C00000, 0x40E00000, 0x41000000] false
/-- Eight lanes, some of them zero or negative. -/
def mixed : Chunk := fromLanes 4 [0, 0x3F800000, 0x80000000, 0xBF800000, 0x7F800000, 0x3DCCCCCD, 1, 0x00800000] false
/-- A swath of all 64 chunks of one row. -/
def wholeSwath : Swath := ⟨9, 1, 1, 0, 64, 0, 1, 1, false, 5, none⟩
/-- It at a chunk, with the control word S3 (GLOG). -/
def wholeRun (chunk : Nat) (s3 : W64) : Running := ⟨wholeSwath, 0, chunk, 0, s3, 1, 0, false, false, 0, false, false, [], [], [], false⟩
/-- A unit whose next word is `op` with fields f, at a chunk. -/
def wordUnit (op : Nat) (f : SrlF) (chunk : Nat) (s3 : W64) : Unit :=
  { v := [(2, floats), (3, mixed), (4, floats)], s := [(2, 0x8000000100000005)], prog := tset 0 [] 0 (sorrelWord op f),
    run := some (wholeRun chunk s3), flags := 1, stage := [(chunk, mixed)] }
/-- The last unit runs that word. -/
def wordState (op : Nat) (f : SrlF) (chunk : Nat) (s3 : W64) : State :=
  { owned (wordUnit op f chunk s3) with mem := [(paOf 19 9 31 15 + 3, 0x3F), (paOf 19 9 31 15 + 2016, 0x80), (paOf 19 9 31 15 + 2019, 0x3F)] }
/-- Its context. -/
def wordCtx (op : Nat) (f : SrlF) (chunk : Nat) (s3 : W64) : SCtx := ⟨lastUnit, wordUnit op f chunk s3, wholeRun chunk s3⟩
/-- A unit at the ADAMW of a swath whose columns 1 to 63 leave the first group partial. -/
def partUnit : Unit := { wordUnit 32 ⟨0, 0, 2, 2, 0, 4, 0⟩ 15 4 with run := some { wholeRun 15 4 with sw := ⟨9, 1, 1, 1, 63, 0, 1, 1, false, 5, none⟩ } }
/-- The part with it. -/
def partState : State := owned partUnit
/-- Its context. -/
def partCtx : SCtx := ⟨lastUnit, partUnit, { wholeRun 15 4 with sw := ⟨9, 1, 1, 1, 63, 0, 1, 1, false, 5, none⟩ }⟩
/-- Eight elements for a macro. -/
def macroF (m : Nat) : SrlF := ⟨0, 0, 2, 2, 0, 4, BitVec.ofNat 6 m⟩
/-- An accumulate swath of one FP32 element at byte 16 of row 9. -/
def accJob : AccJob := ⟨16, 0, [0, 0, 128, 63], [false], 4⟩
/-- It as a swath, running. -/
def accRun : Running := ⟨⟨9, 1, 1, 0, 64, 0, 1, 1, false, 5, some accJob⟩, 0, 0, 0, 0, 1, 0, false, false, 0, false, false, [], [], [], false⟩
/-- The last unit runs it. -/
def accUnit : Unit := { run := some accRun }
/-- The part with it. -/
def accState : State := owned accUnit
/-- Its context. -/
def accCtx : SCtx := ⟨lastUnit, accUnit, accRun⟩
/-- A unit in the middle of stack 19, bank column 14 of channel 31, whose next word is `op`: its neighbour upwards is the last unit. -/
def hopState (op : Nat) (f : SrlF) (joined : Bool) (own far : List Chunk) : State :=
  moded { upTile 0 {} with units := [(lastUnit - 1, { wordUnit op f 0 0 with fifoUp := own }), (lastUnit, { fifoUp := far })] }
    19 31 (if joined then 2 else 0) 0x1000
/-- Its context. -/
def hopCtx (op : Nat) (f : SrlF) (own : List Chunk) : SCtx := ⟨lastUnit - 1, { wordUnit op f 0 0 with fifoUp := own }, wholeRun 0 0⟩
/-- The operands of CVT: FP32 to FP32. -/
def cvtF : SrlF := ⟨0, 0, 1, 2, 0, 4, 8⟩
/-- The last quarter of an FP8 register to FP32. -/
def widenF : SrlF := ⟨0, 0, 1, 2, 3, 3, 8⟩
/-- FP32 to the last quarter of an FP8 register, stochastically. -/
def narrowF : SrlF := ⟨0, 0, 2, 2, 0, 3, 19⟩
/-- A slot word of an engine. -/
def slotWord (e : Eng) (op rest : Nat) : W64 :=
  match e with | .dma => BitVec.ofNat 64 (op * 2 ^ 24 + rest) | _ => BitVec.ofNat 64 (op * 2 ^ 56 + rest)
/-- The last tile with one engine's stream. -/
def streamState (e : Eng) (x : Stream) : State := upTile 511 (({ gated := false } : Tile).updStream e (fun _ => x))
/-- A stream about to issue a word, with open loops. -/
def stream (w : W64) (loops : List (Nat × Nat)) : Stream := { buf := [.slot 0, .slot w, .slot 0], pc := 1, loops := loops, clk := 9, given := 3 }
/-- The last tile about to issue a word. -/
def slotState (e : Eng) (op rest : Nat) (loops : List (Nat × Nat)) : State := streamState e (stream (slotWord e op rest) loops)
/-- The last tile about to issue a SIG behind work that has not ended. -/
def sigState (e : Eng) : State :=
  upTile 511 { (({} : Tile).updStream e (fun _ => stream (slotWord e 0x39 (if e = .dma then 0x1F0003 else 0x3001F)) [])) with
    drun := [(3, 8)], srlOut := [4], run := some ⟨7, [], 1, 1, [], false, [], 0, false, [], []⟩ }
/-- The last tile about to skip a LOOP of count 0. -/
def skipState (e : Eng) : State :=
  streamState e { buf := [.slot (slotWord e 0x3A 0), .slot 0, .slot (slotWord e 0x3B 0), .slot 0], given := 4 }
/-- The last tile about to load LCB slot 7 from a line. -/
def cfgState (e : Eng) (line : Nat) (bad : List Nat) : State :=
  upTile 511 { (({} : Tile).updStream e (fun _ => stream (slotWord e (if e = .dma then 3 else 1)
      (if e = .dma then 7 * 2 ^ 20 + line else 7 * 2 ^ 48 + line)) [])) with
    sram := [(line * 32 + 8, 0x77)], spoison := bad }
/-- A tile whose address stream holds n entries. -/
def asfState (n : Nat) : State := upTile 511 { asf := List.replicate n 1 }
/-- The LCB words of an MX run: two 8-bit integer operands (handles 1 and 2), K = 2, no levels. -/
def mxWords (drain : Nat) : List W64 :=
  ((List.replicate 64 0).set 0 1).set 46 (BitVec.ofNat 64 (9 + 9 * 16 + 10 * 256 + drain * 2 ^ 19)) |>.set 47 2
    |>.set 48 (BitVec.ofNat 64 (1 + 2 * 2 ^ 24 + 3 * 2 ^ 48))
/-- A descriptor of a place in the last tile's SRAM. -/
def tileDesc (ty base rows : Nat) : List W64 :=
  [BitVec.ofNat 64 (1 + 4 + ty * 256 + 2 * 4096), BitVec.ofNat 64 (base + 511 * 2 ^ 32), 0, BitVec.ofNat 64 (rows + rows * 2 ^ 32), 0, 0, 0, 256,
   0, 0, 0, 0, 0, 0, 0, 0]
/-- The three descriptors of the run. -/
def mxDescs : List (List W64) := [tileDesc 9 0 128, [], tileDesc 9 0x8000 64, [], tileDesc 10 0x10000 64, [], [], [], []]
/-- The last tile with LCB slot 7 loaded, about to issue MX.RUN. -/
def mxState (words : List W64) : State :=
  { setLcb (slotState .mx 2 (7 * 2 ^ 48) []) 511 7 words with
    descs := [(1, mxDescs.getD 0 []), (2, mxDescs.getD 2 []), (3, mxDescs.getD 4 [])] }
/-- The last tile with a run whose pass is in the array. -/
def mxRunning (words : List W64) (iter : Nat) : State :=
  { setLcb up 511 7 words with
    descs := [(1, mxDescs.getD 0 []), (2, mxDescs.getD 2 []), (3, mxDescs.getD 4 [])]
    tiles := [(511, { gated := false, sram := [(0, 3), (257, 4), (0x8000, 5), (0x8101, 0xFF)], acc := [(accKey 0 127 63, 9)]
                      run := some ⟨7, words, iter, 1, mxDescs, decide (iter = 0), [], 1, false, [], []⟩, lcbLatched := [7] })] }
/-- A run whose next pass needs an entry of the address stream. -/
def mxAsf : State := upTile 511 { run := some ⟨7, (mxWords 1).set 0 0x101, 0, 1, mxDescs, false, [], 1, false, [], []⟩ }
/-- Register-form fields: destination 31, sources 2, 3 and 4. -/
def vf (ty imm : Nat) (s : Bool) : VReg := ⟨31, 2, 3, 4, BitVec.ofNat 3 ty, s, BitVec.ofNat 32 imm⟩
/-- Lanes of three source registers. -/
def vlanes : Tbl Word :=
  [(128, 0x3F800000), (129, 0x40000000), (190, 0xC0000000), (191, 0x40490FDB), (192, 0x40000000), (193, 2), (254, 0x80000000),
   (255, 0x3F000000), (256, 1), (319, 0x3F800000), (1984, 7), (2047, 9)]
/-- A vector engine with that content. -/
def vengine (vl : Nat) : VE := { v := vlanes, vl := vl, a := [(1, 0x40), (3, 0x17F00)], flags := 3 }
/-- The last tile's vector engine about to issue a word. -/
def vstate (w : W64) (vl : Nat) (loops : List (Nat × Nat)) : State :=
  upTile 511 { ves := stream w loops, ve := vengine vl, sram := [(0x40, 1), (0x13F, 2), (0x100, 3), (0x1BF, 4), (0x17FFFF, 5)] }
/-- With a register-form word. -/
def vreg (op : Nat) (f : VReg) : State := vstate (vregWord op f) 64 []
/-- With a register-form word and some lanes only. -/
def vregL (op : Nat) (f : VReg) (vl : Nat) : State := vstate (vregWord op f) vl []
/-- Memory-form fields: register 16, address register 1. -/
def vm (inc : Bool) (step stride off : Nat) : VMem := ⟨16, 1, inc, BitVec.ofNat 12 step, BitVec.ofNat 12 stride, BitVec.ofNat 24 off⟩
/-- With a memory-form word. -/
def vmem (op : Nat) (f : VMem) (vl : Nat) : State := vstate (vmemWord op f) vl []
/-- The argument line of a routine: a row of four elements at 0x100, outputs at 0x200, nothing optional. -/
def cwLine (R : Nat) : List Byte :=
  leBytes 8 (0x100 + 0x200 * 2 ^ 24) ++ leBytes 8 (4 + R * 2 ^ 16) ++ leBytes 8 0xFFFFFF ++ leBytes 8 0xFFFFFFFFFFFF
    ++ leBytes 8 0x3F800000 ++ leBytes 8 0xFFFFFFFFFFFF
/-- The last tile about to call a routine with line 49149 as its arguments. -/
def cwState (which R : Nat) : State :=
  upTile 511 { ves := { buf := [.call which 49149] }, sram := mwrite (mwrite [] 0x100 (leBytes 8 0x400000003F800000)) (49149 * 32) (cwLine R) }
/-- The last tile with a routine done, or a wait. -/
def cwDone : State := upTile 511 { ves := { buf := [.call 1 49150], routine := some (49150, 1, 4096) } }
/-- The last tile waiting on semaphore 31 for a value; the semaphore holds 5. -/
def waitState (e : Eng) (n : Nat) : State :=
  semAdd (streamState e { buf := [.slot 0], wait := some (31, n) }) 511 31 5
/-- A DMA channel 3 of the last tile, in a state at a program word. -/
def dmaState (st pc : Nat) (x : DmaCh) : State :=
  setF (setF (upTile 511 { dma := [(3, x)] }) (pgDma 511) F.DMA_CH_STAT_STATE st 3) (pgDma 511) F.DMA_CH_STAT_PC pc 3
/-- A program word at word 2 of a running channel. -/
def dmaWord (w : W64) (loops : List DLoop) (writes : List Nat) : State := dmaState 2 2 { prog := [0, 0, w, 3, 1], loops := loops, writes := writes }
/-- A channel that fetches its program from SRAM. -/
def dmaFetch (bytes : List Byte) : State :=
  setF (setF (upTile 511 { dma := [(3, { sram := true, src := 0x1000 })], sram := mwrite [] 0x1000 bytes }) (pgDma 511) F.DMA_CH_STAT_STATE 1 3)
    (pgDma 511) F.DMA_CH_PROG_SRAM 1 3
/-- A global signal with its route. -/
def dmaSignal : State :=
  setF (setF (dmaWord (BitVec.ofNat 64 (5 + 3 * 256 + 63 * 1024 + 4095 * 65536 + 7 * 2 ^ 48)) [] []) pgSync F.SYNC_ROUTE_VALID 1 63) pgOwn F.OWN_SVC_MODE 1
/-- The words of a MOVE of two elements between handles, with the form and the index handle. -/
def moveWords (src dst : Nat) (more : Nat := 0) : List W64 :=
  [BitVec.ofNat 64 (0x10 + src * 4096 + dst * 2 ^ 24 + more), 0b001000, 0, 0, 0, 0, 0, 0, BitVec.ofNat 64 (2 + 2 ^ 32), 0, 0, 0, 0]
/-- A channel at a MOVE. -/
def moveState (src dst : Nat) (more : Nat := 0) : State :=
  { dmaState 2 0 { prog := moveWords src dst more ++ [1] } with
    descs := [(1, tileDesc 9 0 4), (2, tileDesc 9 0x8000 4), (3, tileDesc 10 0x10000 4), (4, tileDesc 11 0x18000 4)]
    allocs := [(0, { valid := true, kind := 1, tile := 511, refs := 3, base := 0, size := 0x20000 })] }
/-- What becomes of a read of eight bytes. -/
def aPiece : Piece := ⟨0, 64, none, ⟨0, 511, 512⟩, true⟩
/-- A read of eight bytes. -/
def aRead : DmaRead := ⟨7, 0, ⟨0, 511, 0⟩, 8, [aPiece]⟩
/-- A returned read of eight bytes for SRAM byte 64 of the last tile. -/
def readState : State :=
  dmaState 2 0 { prog := [1], nextTag := 65536, reads := [aRead], rback := [(7, leBytes 8 0x1122334455667788, [false])] }
/-- A returned write, the last of a program that has ended. -/
def writeState : State := dmaState 5 0 { writes := [9], wback := [9] }
/-- Reduction fields: registers from 16 on. -/
def vr (imm : Nat) : VReg := ⟨31, 16, 3, 4, 0, false, BitVec.ofNat 32 imm⟩
/-- The same read before it has returned. -/
def readWait : State := dmaState 2 0 { prog := [1], reads := [aRead] }
/-- A read of program words. -/
def fetchRead (tag addr n : Nat) : DmaRead := ⟨tag, 3, ⟨1, 0, addr⟩, n, []⟩
/-- A channel that fetches its program from memory, with a read of it returned. -/
def dmaFetched (bytes : List Byte) : State :=
  dmaState 1 0 { src := 0x40, reads := [fetchRead 7 512 bytes.length, fetchRead 8 1024 64], rback := [(7, bytes, [false])] }
/-- Operand bits of SWR and SRD: channel 31 of stack 19, the last bank, a column, sectors, an SRAM line. -/
def srlRest (col n line : Nat) : Nat := 19 * 2 ^ 51 + 31 * 2 ^ 46 + (15 * 32 + col) * 2 ^ 37 + n % 32 * 2 ^ 32 + line
/-- The last tile about to issue a word of SRL, with accesses outstanding. -/
def srlState (op rest : Nat) (out : List Nat) : State :=
  upTile 511 { (({} : Tile).updStream .srl (fun _ => stream (slotWord .srl op rest) [])) with srlOut := out, srlSeq := 40, sram := [(0x800, 7)] }
/-- The same, owning a channel in processor mode. -/
def srlOwned (op rest : Nat) : State :=
  { moded (srlState op rest []) 19 31 2 0x11FF with units := [(lastUnit, { post := ⟨5, true⟩ })] }
/-- The LCB words of an SRL run: launches on the last bank of channel 31 of the die's first stack, no levels or one of count 0. -/
def srunWords (hdr : Nat) : List W64 :=
  (((List.replicate 64 0).set 0 (BitVec.ofNat 64 hdr)).set 46 (BitVec.ofNat 64 (31 * 2 ^ 5 + 15 * 2 ^ 10 + 2 ^ 15))).set 47 0x10003
/-- The last tile with LCB slot 7 loaded, about to issue a run of an engine. -/
def lcbState (e : Eng) (op rest : Nat) (words : List W64) : State := setLcb (slotState e op rest []) 511 7 words
/-- The LCB words of a DMA run. -/
def drunWords (a : Nat) : List W64 := ((List.replicate 64 0).set 0 2).set 46 (BitVec.ofNat 64 a)
/-- The last tile with a completed access of SRL. -/
def srlDone (tag : Nat) (data : List Byte) (wait : Option (Nat × Nat × Nat × Nat)) (since : Nat := 0) : State :=
  upTile 511 { srlBack := [(tag + 5 * 2 ^ 20, data, [false, false]), (64, [], [])], srlOut := [4, 5], srl := { stream 0 [] with swait := wait, swaitFrom := since } }
/-- 64 bytes. -/
def line64 : List Byte := (List.range 64).map (fun i => BitVec.ofNat 8 (i + 1))
/-- A descriptor of 2 rows of 64 elements in stack 0, with its allocation. -/
def dramDesc (alloc : Nat) : List W64 :=
  [BitVec.ofNat 64 (9 * 256 + 2 * 4096 + alloc * 2 ^ 32), 0x80000000, 0, BitVec.ofNat 64 (64 + 2 * 2 ^ 32), 0, 0, 0, 64, 0, 0, 0, 0, 0, 0, 0, 0]
/-- The same, valid, of generation 65535, with pins. -/
def validDesc (pins : Nat) : List W64 :=
  [BitVec.ofNat 64 (4 + (if pins = 0 then 0 else 8) + 9 * 256 + 2 * 4096 + 1023 * 2 ^ 32), 0x80000000, 0, BitVec.ofNat 64 (64 + 2 * 2 ^ 32), 0,
    0, 0, 64, 0, 0, 0, 0, 0, BitVec.ofNat 64 (pins + 0xFFFF * 2 ^ 32), 0, 0]
/-- An allocation of 4 KiB of stack 0. -/
def dramAlloc (refs : Nat) : AllocE := { valid := true, kind := 0, tile := 0, refs := refs, base := 0x80000000, size := 0x1000 }
/-- Slot 8 of the descriptor page with staged words, and the last allocation entry valid. -/
def staged (d : List W64) : State :=
  { (List.range 16).foldl (fun s w => s.setReg (pgDesc + 0xC00 + w * 8) (d.getD w 0)) up with allocs := [(1023, dramAlloc 1)] }
/-- The last handle holding a descriptor. -/
def described (d : List W64) : State := { up with descs := [(4095, d)], allocs := [(1023, dramAlloc 1)] }
/-- Slot 8 of the allocation page with a request for entry 1022, and entry 1023 valid. -/
def allocReq (op id base refs : Nat) : State :=
  let s := setF (setF up pgAlloc F.ALLOC_REQ0_OP op 8) pgAlloc F.ALLOC_REQ0_ID id 8
  { setF (setF s pgAlloc F.ALLOC_REQ1_BASE base 8) pgAlloc F.ALLOC_REQ2_SIZE 0x1000 8 with allocs := [(1023, dramAlloc refs)] }
/-- An owner table of rank 2 with its entries in stack 0. -/
def table (state code count : Nat) (entries : List W64) (waiting : List Nat) : OTab :=
  { state := state, cfg := 0x92, block := [(0, BitVec.ofNat 64 (64 + 2 * 2 ^ 32))], grid := [(0, BitVec.ofNat 64 (count + 2 ^ 20))],
    src := 0x80000000, entries := entries, waiting := waiting, code := code, endCode := code }
/-- An entry of this part for the last handle, and one of the last part. -/
def entryHere : W64 := BitVec.ofNat 64 (2 ^ 63 + 4095 * 256)
/-- An entry of the last part. -/
def entryThere : W64 := BitVec.ofNat 64 (2 ^ 63 + 63 + 7 * 256)
/-- The last table, selected, with an allocation, a descriptor and the bytes of its entries. -/
def tabled (t : OTab) : State :=
  { setF (described (validDesc 0)) pgOwn F.OWN_SEL_TABLE 31 with
    otabs := [(31, t)], mem := mwrite [] 0x80000000 (leBytes 8 entryHere.toNat ++ leBytes 8 entryThere.toNat) }
/-- A remote descriptor that names the last table. -/
def namedTable (t : OTab) : State :=
  { tabled t with descs := [(5, [BitVec.ofNat 64 (2 + 4 + 31 * 2 ^ 48)]), (4095, validDesc 0)] }
/-- The last die's sequencer in DIE mode. -/
def seqState (ph pc : Nat) (x : Seq) : State :=
  let q := pgSeq 7
  { setF (setF (setF up q F.SEQ_CFG_MODE 1) q F.SEQ_STAT_PHASE ph) q F.SEQ_STAT_PC pc with seqs := [(7, x)] }
/-- With bytes of its instruction memory at a place. -/
def seqBytes (pc : Nat) (bytes : List Byte) : State := { seqState 1 pc {} with imem := mwrite [] (2 ^ 20 * 7 + pc * 2) bytes }
/-- A long word with a slot of each engine. -/
def word4 : LongWord := { ctl := none, mx := some 1, ve := some 2, dma := some 3, srl := some 4 }
/-- A long word with an operation of the sequencer. -/
def ctlWord (op imm : Nat) : LongWord := { word4 with ctl := some (BitVec.ofNat 32 (op * 2 ^ 24 + imm)) }
/-- The last tile at an ALIGN whose group has arrived (or not). -/
def alignState (n : Nat) : State :=
  let x : Stream := { buf := .align 1 :: List.replicate n (.slot 0), atAlign := true }
  upTile 511 { mx := x, ves := x, dmas := x, srl := x }
/-- The lead sequencer about to act on its word. -/
def ctlState (op imm : Nat) (x : Seq) : State :=
  { setF (setF up (pgSeq 0) F.SEQ_STAT_PHASE 1) (pgSeq 0) F.SEQ_STAT_PC 9 with seqs := [(0, { x with cur := some (ctlWord op imm) })] }
/-- The last die's sequencer in DIE mode, about to act on its word. -/
def dieState (op imm : Nat) : State :=
  { setF (setF up (pgSeq 7) F.SEQ_STAT_PHASE 1) (pgSeq 7) F.SEQ_CFG_MODE 1 with seqs := [(7, { cur := some (ctlWord op imm) })] }
/-- The lead sequencer at a hold, the counter at a value. -/
def tokState (x : Seq) (v : Nat) : State := { ctlState 2 0 x with sync := [(4095, BitVec.ofNat 32 v)] }
/-- The last die's instruction memory with a load asked for. -/
def loadAsked (src bank off len : Nat) (x : Seq) : State :=
  let p := pgImem 7
  { setF (setF (setF (setF (setF up p F.IMEM_LOADSRC_PA src) p F.IMEM_LOADDST_BANK bank) p F.IMEM_LOADDST_OFFSET off) p F.IMEM_LOADDST_LEN len)
      (pgSeq 7) F.SEQ_STAT_PHASE 1 with seqs := [(7, x)], mem := [(0x80000005, 7), (0x8000003F, 8)] }
/-- A long word with an MX slot only. -/
def wordMx (v : W64) : LongWord := { ctl := none, mx := some v, ve := none, dma := none, srl := none }
/-- A long word with a CTL slot only. -/
def wordCtl (v : Word) : LongWord := { ctl := some v, mx := none, ve := none, dma := none, srl := none }
/-- The last die's FIFO with long words, and an MX buffer of the last tile filled. -/
def fullTile : State :=
  { seqState 1 9 { fifo := [word4, word4] } with tiles := [(511, ({ gated := false } : Tile).updStream .mx (fun _ => { queue := List.replicate 64 (.slot 0) }))] }
/-- The lead sequencer at a call or return, the last library entry valid. -/
def callState (op imm : Nat) (calls : List (Nat × Bool)) : State :=
  setF (setF (ctlState op imm { calls := calls }) pgLib F.LIB_ENTRY_VALID 1 255) pgLib F.LIB_ENTRY_OFFSET 0x3FFFF 255
/-- One entry that the last die's SRL engines must have run. -/
def waitNeed : List Nat := List.replicate 31 0 ++ [1]
/-- An add waiting for it. -/
def tokTile (need : List Nat) : State := { tokState { toks := [(4095, 0xFFF, need)] } 5 with tiles := [(511, { gated := false })] }
/-- The first die's merge arbiter of the stacks, with its record, its holder and its waiters; requester 19 has priority 6. -/
def arbState (a : Arb) (hold : Option Nat) (waiting isol : Nat) : State :=
  let g := pgArb 0 102
  let s := setF (setF { up with arbs := [(102, a)] } g F.ARB_HOLD_WAITING waiting) g F.ARB_ISOL isol
  let s := s.setReg (g + 0x108) 0x6444
  match hold with
  | some h => setF (setF s g F.ARB_HOLD_VALID 1) g F.ARB_HOLD_HOLDER h
  | none => s
/-- An edge of the last die that is up, after bad packets in a row. -/
def edgeState (st bad : Nat) : State := { setF up (pgFab 7 0) F.FAB_EDGE_STATE st with edges := [(28, { fails := bad })] }
/-- The last port in a state, at a width. -/
def portAt (st lanes : Nat) (x : Port) : State :=
  let g := pgVyl .zh8c 11
  setF (setF { up with ports := [(11, x)] } g F.VYL_PSTAT_STATE st) g F.VYL_PSTAT_LANES_LOCKED lanes
/-- A received flit with three wrong symbols. -/
def flit (kind seq ack : Nat) : FlitRx :=
  ⟨BitVec.ofNat 40 (kind + seq * 32 + ack * 2 ^ 17 + 2 * 2 ^ 29 + 3 * 2 ^ 31 + 2 ^ 38), [7, 79, 153]⟩
/-- A port with flits to replay. -/
def replayPort (replaying : Bool) (failRun : Nat) : Port := { rxSeq := 4095, replay := [4094, 4095, 0], replaying := replaying, failRun := failRun, used := [(5, 9)] }
/-- A port at half width, by the upper lanes. -/
def halfPort : Port := { replayPort false 0 with half := 2 }
/-- A booted ZH2-384, its ports down. -/
def upSmall : State := { up with member := .zh2 }
/-- A load whose bytes have been fetched, all but `left` requests of it. -/
def loadFetched (left : Nat) (mark : Bool) : State :=
  { loadAsked 0x80000000 1 0x7FFC0 64 { load := some (0x80000000, 1, 0x7FFC0, 64) } with
    fetches := [⟨71, 0x80000000, 64, 0, left, [(0x80000000, line64, [mark])]⟩] }
/-- A packet of a type to a part, with payload. -/
def pkt (typ dest src srcId tag pa : Nat) (payload : List Byte) : Pkt :=
  { typ := typ, dest := dest, src := src, srcId := srcId, hops := 0, cls := 0, pa := pa, tag := tag, len := payload.length, afmt := 0,
    piece := 0, value := 0, counter := 0, fenceNo := 0, status := 0, mgmtOp := 0, completes := 0, poison := [false], payload := payload,
    vc := [0, 0, 2, 0, 1, 0, 0, 3].getD typ 0, reserved := false }
/-- The last port up, the routing entry of part 63 through it, an egress. -/
def wireState (x : Port) (eg : List (Nat × Pkt)) : State :=
  let s := setF (setF (portAt 2 0xFF x) pgSync F.SYNC_ROUTE_VALID 1 63) pgSync F.SYNC_ROUTE_PORT_A 11 63
  { setF s pgSync F.SYNC_ROUTE_PORT_B 11 63 with egress := eg }
/-- The last port up, the part's own routing entry, requests outstanding. -/
def selfState (x : Port) (eg : List (Nat × Pkt)) (reqs : List OutReq) : State :=
  { setF (setF (portAt 2 0xFF x) pgSync F.SYNC_ROUTE_VALID 1 0) pgSync F.SYNC_ROUTE_SELF 1 0 with
    egress := eg, outReqs := reqs, stackTab := [(19, trainedStack)], nextIn := 77 }
/-- Two writes of contiguous bytes by channel 3 of the last tile. -/
def pktA : Pkt := pkt 1 63 0 2047 5 0x80000010 [1, 2, 3]
/-- The second of them. -/
def pktB : Pkt := pkt 1 63 0 2047 6 0x80000013 [4, 5]
/-- A read of the last bytes of the part. -/
def rdPkt : Pkt := { pkt 3 0 3 2047 5 (lastPa + 61) [] with len := 3 }
/-- A read of the system region. -/
def rdSystem : Pkt := { rdPkt with pa := 0x7FFFFFFF }
/-- A completion with status 3. -/
def badRsp : Pkt := { pkt 4 0 3 2047 5 0 [] with status := 3 }
/-- A packet of a die of the part, 64 bytes long. -/
def fabPkt : FabPkt := { src := 3, dest := 7, payload := line64, poison := [false] }
/-- A part whose egress of the last port is isolated on VC 0. -/
def egressShut (s : State) : State := setF s (pgArb 7 (100 + (Member.zh8c.diePorts 7).idxOf 11)) F.ARB_ISOL 1
/-- A signal for the last counter. -/
def sigPkt : Pkt := { pkt 5 0 3 2047 5 0 [] with counter := 4095, value := 0xFFFFFFFF }
/-- A fence's header on a virtual channel. -/
def fencePkt (vc : Nat) : Pkt := { pkt 6 0 3 2047 5 0 [] with vc := vc, fenceNo := 9 }
/-- A port that a fence holds. -/
def fencedPort (ids : List Nat) : Port := { fence := some (3, 2047, 9), fenceWait := some ids, fenceAcc := [(1, 1, 1), (3, 2047, 9)] }
/-- A packet in performance on the last port. -/
def inPkt (id : Nat) : InPkt := ⟨id, 3, 2047, 5, 11, 1, 0x80000000, 4, 1, [], 0⟩
/-- A part with packets in performance, its last port fenced. -/
def fenced (ids : List Nat) (l : List InPkt) : State := { selfState (fencedPort ids) [] [] with inPkts := l }
/-- The last counter with its watch armed. -/
def watching : State :=
  let s := setF (setF { up with sync := [(4095, 8)] } pgSync F.SYNC_WATCH_ARMED 1 7) pgSync F.SYNC_WATCH_COUNTER 4095 7
  setF s pgSync F.SYNC_WATCH_TARGET 0xFFFFFFFF 7
/-- A management packet. -/
def mgmt (op : Nat) (payload : List Byte) : Pkt := { pkt 7 0 3 0 0 0 payload with mgmtOp := op, len := 0 }
/-- A part with a descriptor, and a table that waits for its entry 0 from part 3. -/
def managed (d : List W64) : State :=
  { selfState {} [] [] with
    descs := [(4095, d)], otabs := [(31, table 1 0 1 [BitVec.ofNat 64 (2 ^ 63 + 3)] [0])] }
/-- A payload of 17 words, the last one naming table 31. -/
def rspPayload : List Byte := leBytes 8 4 ++ List.replicate 120 0 ++ leBytes 8 (31 * 2 ^ 16)
/-- Memory_Active, with every channel of stack 19 in service. -/
def cxlUp : State := { setF up pgCxl F.CXL_MEM_ACTIVE 1 with stackTab := [(19, trainedStack)] }
/-- The last line of the HDM range. -/
def lastDpa : Nat := Member.zh8c.hdmSpan - 64
/-- The first line of stack 19. -/
def dpa19 : Nat := 2 ^ 36 * 19 - 2 ^ 31
/-- Events 1 and 2, a link that is up. -/
def mboxState : State :=
  { setF up pgCxl F.CXL_LINK_STATE 2 with
    cxl := { configReady := true, events := [⟨1, 3, 5, false, 9⟩, ⟨2, 4, 6, true, 10⟩], mboxDone := true, nextHandle := 3, scan := some (0, 64) }
    vecMask := [3] }
/-- The same while the lead core restarts. -/
def mboxBusy : State := { mboxState with restarting := [0] }
/-- The same in RECOVERY. -/
def mboxRecovery : State := setF mboxState pgSec F.SEC_BOOT_STATE 5
/-- An image, and one whose fourth check fails. -/
def image (failed : Option Nat) : FwImage := ⟨7, 64, failed, [], 3, [], [], [], []⟩
/-- The mailbox with a transfer under way, slot 1 running, an image in slot 1. -/
def fwState (x : Option Nat) : State :=
  { mboxState with cxl := { mboxState.cxl with transfer := x, slots := [(0, some (image none)), (1, some (image none))] } }
/-- The last counter at a value, the last port up. -/
def syncState : State := { selfState {} [] [] with sync := [(4095, 8)] }
/-- A port that has the header of a fence on ACC, with a packet in performance. -/
def halfFenced : State := { selfState { fenceAcc := [(3, 2047, 9)] } [] [] with inPkts := [inPkt 4] }
/-- The same with two flipped bits in the first line of stack 19. -/
def flipped : State := { cxlUp with flips := [(dpaToPa dpa19 / 64, [3, 4])] }
/-- A part at PERST#, with an image in slot 2 that is activated, its library store and instruction memory small. -/
def perstState (a : Nat) : State :=
  { State.reset with flash := { activated := a }, cxl := { slots := [(1, some ⟨7, 64, none, [(3, 4, 5)], 3, [1, 2], [3, 0], [9, 0], [6, 5]⟩)] } }
/-- What the part finds at a good boot. -/
def goodBoot : BootIn := ⟨true, true, true, true, none⟩
/-- A direction of a wire whose windows are from 40 to 90. -/
def dirSeen : DirTrain := ⟨some (40, 90), some (10, 31), some (50, 80), [1, 3, 2], some (51, 80)⟩
/-- What training sees at a good stack. -/
def trainGood : TrainOut := { cmd := [(31, some (20, 31))], wires := [⟨2047, dirSeen, dirSeen⟩], tsv := [(511, some (9, 20))], check := [] }
/-- The last wire has no window to write in. -/
def trainBad : TrainOut := { trainGood with wires := [⟨2047, dirSeen, { dirSeen with fine := none }⟩] }
/-- Firmware that waits for training, stack 19 in a state, bytes in two stacks. -/
def training (sr keep : Nat) (x : Stack) : State :=
  { setF (setF (setF { up with enabled := true } pgSec F.SEC_BOOT_STATE 3) (pgStk .zh8c 19) F.STK_SRCTL_SR_STATE sr) (pgStk .zh8c 19)
      F.STK_SRCTL_KEEP_EFF keep with
    stackTab := (List.range 19).map (fun k => (k, trainedStack)) ++ [(19, x)], mem := [(5, 0x11), (2 ^ 36 * 19 + 5, 0x22), (2 ^ 36 * 20 - 1, 0x33)], poison := [3, 2 ^ 30 * 19, 2 ^ 30 * 20 - 1] }
/-- Every stack has trained. -/
def allTrained : State := { training 0 0 {} with stackTab := (List.range 20).map (fun k => (k, trainedStack)), us := 9 }
/-- Without main power. -/
def mainOff : State := { up with board := { mainOn := false, perst := false } }
/-- The same with PERST#. -/
def mainOffPerst : State := { up with board := { mainOn := false } }
/-- The image of `perstState`. -/
def bootImage : FwImage := ⟨7, 64, none, [(3, 4, 5)], 3, [1, 2], [3, 0], [9, 0], [6, 5]⟩
/-- The next stack of the die waits for its turn. -/
def notYet : State := { training 0 0 {} with stackTab := (List.range 18).map (fun k => (k, trainedStack)) }
/-- A bounded write that waits since a time. -/
def bwPend (off id us : Nat) : BwPend := ⟨off, id, 0, 0, 2, 0, us, List.replicate 6 9⟩
/-- Part time 10 ms, bounded writes waiting. -/
def bwWaits (l : List BwPend) : State := { up with us := 10000, bwq := l }
/-- The part key in a state. -/
def keyed (k : Nat) : State := setF up pgSec F.SEC_KEY_STATE k
/-- Every change of the version used. -/
def bwSpent : State := { up with flash := { used := [(bwSlot 6 0 0, 64)] } }
/-- A minute after boot, with an image of security version 64. -/
def oldBoot : State := { setF (setF up pgSec F.SEC_FW_SVN 64) pgCxl F.CXL_MEM_ACTIVE 1 with us := 60000000 }
/-- A staged owner key, the committed one as given. -/
def ownerStaged (l : List W64) : State := { setF up pgSec F.SEC_OWNER_STAGE 7 5 with flash := { owner := l } }
/-- Auxiliary power and main power. -/
def powered (main perst aux : Bool) : State := { mboxState with board := { mainOn := main, perst := perst, auxOn := aux } }
/-- A balance, and whether hard throttling acts. -/
def accountState (b : Int) (hard : Nat) : State :=
  { setF (setBalance up b) pgLedg F.LEDG_TIGHT_HARD hard with ledger := { restFj := 999999999, tickFj := 5 } }
/-- A rail with sums. -/
def railState : State := { accountState 5 0 with ledger := { railMeas := [(60, 2 * 10 ^ 15), (58, 10 ^ 15)], railEst := [(58, 10 ^ 15)] } }
/-- A plan. -/
def aPlan (ended : Bool) : Plan := ⟨9, false, false, 0, 1000000, 5, 7, 3, 0, ended⟩
/-- A plan of one item of 500 µs and 3 µJ in stack 0, to be submitted. -/
def planned (armed : Option Plan) : State :=
  let bytes := leBytes 8 (1 + 9 * 65536) ++ leBytes 8 1000000 ++ List.replicate 48 0 ++ leBytes 8 (5 + 0xFFFF * 2 ^ 16) ++ leBytes 8 500000
    ++ List.replicate 8 0 ++ leBytes 8 3
  { setF (setBalance up 1000000) pgPlan F.PLAN_SRC 0x80000000 with mem := mwrite [] 0x80000000 bytes, armed := armed }
/-- A running plan at a clock. -/
def planRuns (clock : Nat) (ended : Bool) : State :=
  { setF (setF up pgPlan F.PLAN_CLOCK_NS clock) pgPlan F.PLAN_SLOTS_RUN_STATE 1 with running := some (aPlan ended), armed := some (aPlan false) }
/-- A cause of the last die. -/
def aCause : Cause := ⟨7, 7, 0x0D, 11, 0x0D11, 3⟩
/-- A cause on its way, the part FAULTED and resetting or not. -/
def causing (faulted resetting : Nat) (entry : Option (List W64)) : State :=
  let s := (List.range 8).foldl (fun s d => setF (setF s (pgFlt d) F.FLT_FSTAT_FAULTED faulted) (pgFlt d) F.FLT_FSTAT_RESETTING resetting) up
  { s with causes := [aCause], entry := entry, running := some (aPlan false), entries := 256 }
/-- A record. -/
def aRecord : List W64 := (List.range 8).map (fun k => BitVec.ofNat 64 (k + 7))
/-- A job reset that runs, with work and state to clear. -/
def resettingJob : State :=
  { causing 1 1 none with units := [(3, queuedUnit)], sync := [(5, 6)], tiles := [(511, { sram := [(7, 8)] })], inPkts := [inPkt 3], mem := [(9, 1)] }
/-- A fence of a ZH2-384 in a state. -/
def fenceAt (st go hold : Nat) : State :=
  let g := pgFlt 0
  setF (setF (setF { up with member := .zh2 } g F.FLT_FSTAT_FENCE_STATE st) g F.FLT_FENCE_GO go) g F.FLT_FENCE_HOLD hold
/-- A watchdog of the last die, kicked at a time, with 2 ms to expire. -/
def wdogState (us : Nat) (l : List Nat) : State :=
  { setF (up) (pgFlt 7) F.FLT_WDOG_TIMEOUT_MS 2 with us := us, kicks := [(7, 5)], restarting := l }
/-- A ceiling of class 1. -/
def ceil1 : State := { up with flash := { store := [(pgLedg + 0x88, 1)] } }
/-- A fence whose part still works. -/
def fenceBusy : State := { fenceAt 1 1 0 with seqs := [(1, { fifo := [word4] })] }
/-- A word that a unit is at, from what its context shows. -/
theorem atWord_of {s : State} {i : Nat} {k : SCtx} {a op : Nat} {f : SrlF}
    (h : srlCtx s i = some k ∧ (nextWord k).map (fun p => (p.1, wOp p.2.toNat, wF p.2)) = some (a, op, f)) : atWord s i k a op f := by
  obtain ⟨h1, h2⟩ := h
  refine ⟨h1, ?_⟩
  cases hw : nextWord k with
  | none => rw [hw] at h2; cases h2
  | some p =>
    rw [hw] at h2
    simp only [Option.map_some, Option.some.injEq, Prod.mk.injEq] at h2
    exact ⟨p.2, by rw [← h2.1], h2.2.1, h2.2.2⟩
/-- A property of 32 numbers in a row. -/
theorem range_of {lo : Nat} {P : Nat → Prop} (h : ∀ i, i < 32 → P (lo + i)) : ∀ x, lo ≤ x → x < lo + 32 → P x := by
  intro x h1 h2
  have := h (x - lo) (by omega)
  rwa [show lo + (x - lo) = x by omega] at this
/-- A row without flipped bits. -/
theorem sound_of {k : SCtx} {s : State} (h : ∀ i, i < 32 → tget [] s.flips (k.rid.sec + i) = []) : k.sound s := range_of h
/-- A vector engine with nothing under way. -/
theorem calm_of {v : VE} {c : Nat} (h : v.ready = [] ∧ v.rdfl = [] ∧ v.poison = [] ∧ v.fpend = []) : v.calm c := by
  refine ⟨fun r => ?_, h.2⟩
  rw [h.1]; exact Nat.zero_le c
/-- A property of the default and of every entry of a table. -/
theorem tget_of {V : Type} {d : V} {l : Tbl V} {P : V → Prop} (h0 : P d) (h : ∀ p ∈ l, P p.2) : ∀ j, P (tget d l j) := by
  intro j
  induction l with
  | nil => exact h0
  | cons p l ih =>
    have h1 := h p (List.mem_cons_self ..)
    have h2 := ih (fun q hq => h q (List.mem_cons_of_mem _ hq))
    simp only [tget] at h2 ⊢
    first | split <;> assumption | skip
/-- A property of pairs of small numbers. -/
theorem pair_of {n m : Nat} {P : Nat → Nat → Prop} (h : ∀ k, k < n → ∀ c, c < m → P k c) : ∀ k c, k < n → c < m → P k c :=
  fun k c hk hc => h k hk c hc
/-- A packet that reaches its receiver. -/
theorem reaches_of {s : State} {port : Nat} {p : Pkt}
    (h : hasPort s port = true ∧ portUp s port = true ∧ halted s = false ∧ (s.port port).discard = false
      ∧ (p.vc = 0 → (s.port port).fence = none) ∧ pktWellFormed p = true ∧ routeOf s p.srcId p.dest = .self) : reaches s port p := h
/-- A check that fails. -/
theorem error_of {ε α : Type} [DecidableEq ε] {x : Except ε α} {e : ε}
    (h : (match x with | .error y => decide (y = e) | .ok _ => false) = true) : x = .error e := by
  cases x with
  | error y => exact congrArg _ (of_decide_eq_true h)
  | ok _ => cases h
/-- A check that passes. -/
theorem ok_of {ε α : Type} [DecidableEq α] {x : Except ε α} {a : α}
    (h : (match x with | .ok y => decide (y = a) | .error _ => false) = true) : x = .ok a := by
  cases x with
  | ok y => exact congrArg _ (of_decide_eq_true h)
  | error _ => cases h
/-- Faulted, with vector 0 masked. -/
def maskedFault : State := { setF up (pgFlt 0) F.FLT_FSTAT_FAULTED 1 with vecMask := [0] }
/-- A message of vector 46 that waits for its mask. -/
def pendingVec : State := { erred up pgCxl with vecMask := [46], vecPend := [46], vecSent := [46] }
/-- Channel 31 of stack 19 with a requester isolated at its intake. -/
def isolatedAt (s : State) (src : Nat) : State :=
  setF s (pgArb (s.member.stackDie 19) (s.member.localStack 19 * 32 + 31)) F.ARB_ISOL (2 ^ intakeInput s 19 src)
/-- A channel on its way out of processor mode whose oldest parked request finds its bank queue full. -/
def stuckExit : State :=
  (moded (banked (List.replicate 16 (req 0x2000 rowPa)) none) 19 31 4 0x1000).updChan 19 31 (fun c => { c with parked := [req 0x3000 rowPa] })
/-- A swath at the end of a row that it has stored. -/
def storedRun : Running := { endRun 0 0 with stored := [0] }
/-- The last unit runs it, and the parity cache of its channel has no free line. -/
def fullCache : State :=
  { owned { run := some storedRun } with
    chans := [(19 * 32 + 31, { owner := 0x1000, lines := (List.range 1024).map (fun k => ⟨3, 100 + k⟩) })] }
/-- Stack 19 in a self-refresh state with a dirty line. -/
def dirtyHeld (state : Nat) : State := { refreshing state 0x8001 with chans := [(19 * 32 + 31, { lines := [⟨15, 9⟩] })] }
/-- Stack 19 in the Tedder's pass at a position, at a time. -/
def tedderAt (pos us : Nat) : State :=
  { setF (upStack 19 { trained := true, passOn := true }) (pgEcc .zh8c 19) F.ECC_SCRUBPOS_POSITION pos with us := us }
/-- Stack 19 in TEST with a sweep of one channel running. -/
def sweeping : State :=
  setF (setF (inTest19 1 false) (pgCal .zh8c 19) F.CAL_TRCTL_ALL 0) (pgCal .zh8c 19) F.CAL_TRCTL_MODE 2
/-- A wire with shadow counts, at a time. -/
def counting (us wb wa : Nat) : State :=
  { upStack 19 { trained := true, wires := [(31 * 64 + 63, { readDly := 70, writeDly := 60, wrBelow := wb, wrAbove := wa })] } with us := us }
/-- The last unit, at a word, joined to the first unit of its stack. -/
def crossUnit (op : Nat) (f : SrlF) : Unit := { wordUnit op f 0 0 with s := [(2, 0x8000000100000005), (3, 0x2000000000000)] }
/-- The part with both. -/
def crossState (op : Nat) (f : SrlF) : State :=
  moded (moded { upTile 0 {} with units := [(19 * 512, { s := [(3, 0x2000000000000)] }), (lastUnit, crossUnit op f)] } 19 31 2 0x1000) 19 0 2 0x1000
/-- The same with the direction UP isolated at the hop's arbiter. -/
def barredState (op : Nat) (f : SrlF) : State := setF (crossState op f) (pgHop (crossState op f) 19 511) F.ARB_ISOL 1
/-- The context of the last unit. -/
def crossCtx (op : Nat) (f : SrlF) : SCtx := ⟨lastUnit, crossUnit op f, wholeRun 0 0⟩
/-- The first unit of stack 19 at a word, with no channel below it. -/
def firstState (op : Nat) (f : SrlF) : State := moded { upTile 0 {} with units := [(19 * 512, wordUnit op f 0 0)] } 19 0 2 0x1000
/-- Its context. -/
def firstCtx (op : Nat) (f : SrlF) : SCtx := ⟨19 * 512, wordUnit op f 0 0, wholeRun 0 0⟩
/-- Faulted, with no vector masked. -/
def unmaskedFault : State := { setF up (pgFlt 0) F.FLT_FSTAT_FAULTED 1 with vecMask := [] }
/-- A tick's state with one command waiting, of a descriptor or of an allocation. -/
def waitingCmds (desc : Bool) : State := if desc then { accountState 0 0 with descQ := [(3, 0, 7)] } else { accountState 0 0 with allocQ := [3] }
/-- The last owner table UNPUBLISHING. -/
def unpublishing : State := { accountState 0 0 with otabs := [(31, table 3 0 0 [] [])] }
/-- The plan's words lie in a channel that a tile owns. -/
def planAway : State := moded (planned none) 0 (paCh 0x80000000) 2 0x1000
/-- A fence in state 0 or 1 whose part still works. -/
def fenceWorks (st : Nat) : State := { fenceAt st st 0 with seqs := [(1, { fifo := [word4] })] }
/-- A fence in a state, the part FAULTED. -/
def fenceFaulted (st : Nat) : State := { setF (fenceAt st st 0) (pgFlt 0) F.FLT_FSTAT_FAULTED 1 with fenceFlushed := decide (st = 1) }
/-- A fence whose flushes have begun, a stack's still under way or not. -/
def fenceFlushing (hold : Nat) (busy : Nat) : State :=
  { setF (fenceAt 1 1 hold) (pgEcc .zh2 3) F.ECC_PCSTAT_FLUSHING busy with fenceFlushed := true }
/-- A fence whose part is drained, with a dirty line. -/
def fenceDirty : State := { fenceAt 1 1 0 with chans := [(3 * 32 + 31, { lines := [⟨15, 9⟩] })] }
/-- A descriptor command waiting at another slot. -/
def descWaits : State := { staged (dramDesc 1023) with descQ := [(3, 0, 7)] }
/-- An allocation command waiting at another slot. -/
def allocWaits : State := { allocReq 0 1022 0x80001000 1 with allocQ := [3] }
/-- A request that has waited long for its completion. -/
def lateReq : State := { selfState {} [] [⟨2047, 5, 11, 1, 9, [(5, 3)]⟩] with us := 2 ^ 40 }
/-- A plan to be submitted while the lead core restarts. -/
def planLeadDown : State := { planned none with restarting := [0] }
/-- The lead core restarts, with a planner command waiting. -/
def leadBusy : State := { setF up pgPlan F.PLAN_RESULT_BUSY 1 with restarting := [0] }
/-- An edge that waits for a packet to come again. -/
def edgeHolds : State := { edgeState 2 1 with edges := [(28, ⟨1, some fabPkt⟩)] }
/-- A packet of no bytes. -/
def fabEmpty : FabPkt := { fabPkt with payload := [] }
/-- A run of MX that has ended and waits for its event. -/
def endedRun : MxRun := ⟨7, mxWords 0, 1, 1, mxDescs, false, [], 1, true, [], []⟩
/-- A tile with it. -/
def mxEnded : State := upTile 511 { ended := [endedRun], lcbLatched := [7] }
/-- A step of the recursion does not shorten the locator. -/
theorem masseyStep_len (f : Galois) (syn : List Nat) (x : Massey) (r : Nat) : x.len ≤ (masseyStep f syn x r).len := by
  unfold masseyStep
  dsimp only
  split
  · exact Nat.le_refl _
  · split
    · show x.len ≤ r + 1 - x.len
      omega
    · exact Nat.le_refl _
/-- Nor do several. -/
theorem massey_len (f : Galois) (syn l : List Nat) (x : Massey) : x.len ≤ (l.foldl (masseyStep f syn) x).len := by
  induction l generalizing x with
  | nil => exact Nat.le_refl _
  | cons r l ih => exact Nat.le_trans (masseyStep_len f syn x r) (ih _)
/-- Zero syndromes leave the recursion where it starts. -/
theorem massey_zero (f : Galois) (syn : List Nat) (h1 : gfMul f 1 0 = 0) (k : Nat) (h : ∀ r, r < k → syn.getD r 0 = 0) :
    (List.range k).foldl (masseyStep f syn) ⟨[1], 0, [1], 1, 1⟩ = ⟨[1], 0, [1], 1, 1 + k⟩ := by
  induction k with
  | zero => rfl
  | succ k ih =>
    rw [List.range_succ, List.foldl_append, ih (fun r hr => h r (Nat.lt_succ_of_lt hr))]
    have hk : gfMul f 1 (syn.getD k 0) = 0 := by rw [h k (Nat.lt_succ_self k), h1]
    have h0 : List.range (0 + 1) = [0] := rfl
    simp only [List.foldl_cons, List.foldl_nil, masseyStep, h0, Nat.zero_le, if_true, Nat.sub_zero, List.getD_cons_zero, hk,
      Nat.add_assoc]
    rfl
/-- A decode reports failure where the first t syndromes are zero and the next one is not. -/
theorem rsFind_none {f : Galois} {t n : Nat} {errs : List (Nat × Nat)} (h1 : gfMul f 1 0 = 0) (ht : 0 < t)
    (h : ∀ r, r < t → (syndromes f t errs).getD r 0 = 0) (hd : gfMul f 1 ((syndromes f t errs).getD t 0) ≠ 0) :
    rsFind f t n errs = none := by
  have hl : t < ((List.range (2 * t)).foldl (masseyStep f (syndromes f t errs)) ⟨[1], 0, [1], 1, 1⟩).len := by
    rw [show 2 * t = t + 1 + (t - 1) by omega, List.range_add, List.range_succ, List.foldl_append, List.foldl_append,
      massey_zero f _ h1 t h]
    refine Nat.lt_of_lt_of_le ?_ (massey_len f _ _ _)
    have h0 : List.range (0 + 1) = [0] := rfl
    have hx (a : Nat) : Nat.xor 0 a = a := Nat.zero_xor a
    simp only [List.foldl_cons, List.foldl_nil, masseyStep, h0, Nat.zero_le, if_true, Nat.sub_zero, List.getD_cons_zero, hx]
    rw [if_neg hd, if_pos (Nat.zero_le _)]
    exact Nat.lt_succ_self t
  unfold rsFind
  dsimp only
  rw [if_neg]
  simp [Nat.not_le.mpr hl]
/-- Powers of the row code's primitive element that are 65 apart. -/
def alpha65 : List Nat :=
  [1, 396, 1068, 1315, 1615, 811, 810, 678, 1674, 937, 1510, 1741, 1511, 1857, 459, 610, 1924, 329, 1198, 1007, 548, 70, 1986, 1675, 549,
    458, 1006, 936, 1130, 737, 196, 270, 736, 328, 1314, 1987, 1799, 1545, 1257, 1441, 131, 1856, 71, 1614, 679, 1798, 1925, 197, 130, 1740,
    1131, 877, 1256, 1069, 1199, 611, 1544, 1381, 397, 1440, 271, 876, 1380]
/-- They are. -/
theorem alpha65_eq : ∀ i, i < 63 → gfAlpha rowField (65 * i) = alpha65.getD i 0 := by decide +kernel
/-- The powers of errors 65 symbols apart. -/
theorem alpha65_mod (j i : Nat) : gfAlpha rowField ((j + 1) * (65 * i)) = alpha65.getD ((j + 1) * i % 63) 0 := by
  rw [← alpha65_eq _ (Nat.mod_lt _ (by decide)), Nat.mul_left_comm]
  unfold gfAlpha
  rw [show rowField.order = 65 * 63 from rfl, Nat.mul_mod_mul_left, Nat.mul_mod_mul_left, Nat.mod_mod]
/-- The errors of 22 symbols whose first 21 syndromes are zero, by power and value. -/
def rowErrs : List (Nat × Nat) :=
  [(22, 1798), (21, 196), (20, 1315), (19, 876), (18, 1857), (17, 1798), (16, 737), (15, 197), (14, 1381), (13, 329), (12, 458), (11, 1799),
    (10, 1131), (9, 1740), (8, 876), (7, 1068), (6, 131), (5, 196), (4, 1545), (3, 396), (2, 1131), (1, 549)]
/-- The decode of a row with these errors. -/
def hopeless : State :=
  { decoding with flips := rowErrs.map (fun e => (rowPa / 64 + (1449 - 65 * e.1) / 44, symbolBits 12 ((1449 - 65 * e.1) % 44) e.2)) }
/-- A syndrome of theirs. -/
theorem rowErrs_syndrome (j : Nat) (h : j < 42) : (syndromes rowField 21 (rowErrs.map (fun e => (65 * e.1, e.2)))).getD j 0
    = rowErrs.foldl (fun a e => Nat.xor a (gfMul rowField e.2 (alpha65.getD ((j + 1) * e.1 % 63) 0))) 0 := by
  rw [syndromes, List.getD_eq_getElem?_getD, List.getElem?_map, List.getElem?_range h]
  simp only [Option.map_some, Option.getD_some, List.foldl_map, alpha65_mod]
/-- The row code cannot correct them. -/
theorem hopeless_none : rsDecode rowField (corrects (strength hopeless 19)) 1408 (rowBits (rowFlips hopeless (rowAt (req 8192 (rowPa + 64)).pa)))
    (tget [] hopeless.slotErrs ((rowAt (req 8192 (rowPa + 64)).pa).pa / 2048)) = none := by
  have he : corrects (strength hopeless 19) = 21
      ∧ (symbolErrs 12 (rowBits (rowFlips hopeless (rowAt (req 8192 (rowPa + 64)).pa)))).map (fun e => (1408 + 2 * 21 - 1 - e.1, e.2))
        ++ (symbolErrs 12 (tget [] hopeless.slotErrs ((rowAt (req 8192 (rowPa + 64)).pa).pa / 2048))).map (fun e => (2 * 21 - 1 - e.1, e.2))
        = rowErrs.map (fun e => (65 * e.1, e.2)) := by decide +kernel
  have hz : ∀ r, r < 21 → (syndromes rowField 21 (rowErrs.map (fun e => (65 * e.1, e.2)))).getD r 0 = 0 := fun r hr => by
    rw [rowErrs_syndrome r (by omega)]
    revert r
    decide +kernel
  have hd : gfMul rowField 1 ((syndromes rowField 21 (rowErrs.map (fun e => (65 * e.1, e.2)))).getD 21 0) ≠ 0 := by
    rw [rowErrs_syndrome 21 (by decide)]
    decide +kernel
  rw [he.1]
  unfold rsDecode
  dsimp only
  rw [show rowField.w = 12 from rfl, he.2, if_neg (by decide),
    rsFind_none (by decide +kernel) (by decide) hz hd]
  rfl
/-- A flit with errors in 11 symbols whose first ten syndromes are zero. -/
def lostFlit : FlitRx :=
  ⟨1, [0, 1, 2, 4, 7, 9, 11, 12, 15, 16, 17, 21, 22, 23, 24, 26, 28, 32, 33, 36, 37, 38, 39, 40, 41, 44, 45, 47, 52, 55, 57, 62, 66, 69, 70, 73, 76,
    81, 83, 85, 86, 87, 89, 91, 92, 93, 95, 96, 101, 102, 105, 107, 108]⟩
/-- The errors, by power and value. -/
def flitErrs : List (Nat × Nat) :=
  [(231, 663), (230, 230), (229, 350), (228, 972), (227, 179), (226, 164), (225, 580), (224, 73), (223, 746), (222, 110), (221, 422)]
/-- The flit code cannot correct them. -/
theorem lostFlit_none : flitDecode lostFlit = none := by
  have he : (symbolErrs 10 ((flipBits [] lostFlit.flips).filter (· < 2120))).map (fun e => (212 + 2 * 10 - 1 - e.1, e.2))
      ++ (symbolErrs 10 (((flipBits [] lostFlit.flips).filter (2120 ≤ ·)).map (· - 2120))).map (fun e => (2 * 10 - 1 - e.1, e.2))
      = flitErrs := by decide +kernel
  unfold flitDecode rsDecode
  dsimp only
  rw [show flitField.w = 10 from rfl, he, if_neg (by decide),
    rsFind_none (by decide +kernel) (by decide) (by decide +kernel) (by decide +kernel)]
  rfl
/-- No port holds a packet. -/
theorem no_held {s : State} (h : ∀ p ∈ s.ports, p.2.held = []) : ¬∃ p, (s.port p).held ≠ [] :=
  fun ⟨p, hp⟩ => hp (tget_of (P := fun x : Port => x.held = []) rfl h p)
/-- No channel holds a packet of an isolated requester back. -/
theorem no_stalled {s : State} (h : ∀ c ∈ s.chans, c.2.stalled = []) : ∀ st ch, (s.chan st ch).stalled = [] :=
  fun st ch => tget_of (P := fun x : Channel => x.stalled = []) rfl h (st * 32 + ch)
/-- The same account with another rest of energy. -/
def withRest (s : State) (r : Nat) : State := { s with ledger := { s.ledger with restFj := r } }
/-- Steps that leave the rest of energy alone, one after another. -/
theorem forEach_rest {α : Type} {f : State → α → State} {r : Nat} (h : ∀ s a, f (withRest s r) a = withRest (f s a) r) (l : List α) (s : State) :
    forEach (withRest s r) l f = withRest (forEach s l f) r := by
  induction l generalizing s with
  | nil => rfl
  | cons a l ih =>
    show forEach (f (withRest s r) a) l f = _
    rw [h]
    exact ih _
/-- The energy of a microsecond, its free values among it, does not depend on the rest. -/
theorem energy_rest (s : State) (r : Nat) :
    (staticEnergy (forEach (planClock (withRest s r)) (List.range s.member.stackCount) clearing)).ledger.tickFj
      = (staticEnergy (forEach (planClock s) (List.range s.member.stackCount) clearing)).ledger.tickFj := by
  have h1 : planClock (withRest s r) = withRest (planClock s) r := by
    show (if (s.running.isSome && phaseRead s 0 ≠ 2 && phaseRead s 0 ≠ 3) then withRest (bumpF s pgPlan F.PLAN_CLOCK_NS 1000) r
      else withRest s r) = _
    exact (apply_ite (fun x => withRest x r) _ _ _).symm
  have h2 (s : State) (st : Nat) : clearing (withRest s r) st = withRest (clearing s st) r := by
    show (if (srState s st = 3 && 2 ≤ elapsed s (s.stack st).heldUs) then withRest (setF s (pgStk s.member st) F.STK_SRCTL_SR_STATE 4) r
      else withRest s r) = _
    exact (apply_ite (fun x => withRest x r) _ _ _).symm
  have h3 (s : State) : staticEnergy (withRest s r) = withRest (staticEnergy s) r := by
    unfold staticEnergy
    dsimp only
    rw [show (withRest s r).member = s.member from rfl, forEach_rest (fun s d => rfl), forEach_rest (fun s st => ?_)]
    · rfl
    · show (if ((s.stack st).trained && srState s st = 0) then withRest (charge s (pgStk s.member st) 15 1) r else withRest s r) = _
      exact (apply_ite (fun x => withRest x r) _ _ _).symm
  rw [h1, forEach_rest h2, h3]
  rfl
/-- The balance after a microsecond, as LedgerAndCalibration has it. -/
def nextBalance (s : State) : Int :=
  sgn 64 (unsgn 64 (min (depthNow s : Int) (balance s + (classW s.member (classNow s) : Nat)
    - (((s.ledger.restFj + (staticEnergy (forEach (planClock { s with us := s.us + 1 }) (List.range s.member.stackCount) clearing)).ledger.tickFj) / 10 ^ 9 : Nat) : Int))))
/-- The account of a part at a microsecond, with a rest of energy. -/
def accountAt (r : Nat) : State := withRest (accountState 0 0) r
/-- A small number comes through the wrapping whole. -/
theorem sgn_unsgn_wraps (a : Nat) (k : Int) (h : a < 2 ^ 63) : sgn 64 (unsgn 64 ((a : Int) + ((2 ^ 64 : Nat) : Int) * k)) = a := by
  have h1 : unsgn 64 ((a : Int) + ((2 ^ 64 : Nat) : Int) * k) = a := by
    unfold unsgn
    rw [Int.add_mul_emod_self_left, ← Int.natCast_emod, Int.toNat_natCast]
    exact Nat.mod_eq_of_lt (Nat.lt_trans h (by decide))
  rw [h1]
  exact if_pos h
/-- The same account at the next microsecond. -/
def accountNext : State := { accountState 0 0 with us := (accountState 0 0).us + 1 }
/-- Whatever the free energies are, a rest of energy takes the balance to 0, and one leaves it what the class gives. -/
theorem nextBalance_any (j : Nat) (hj : j ≤ 4000) : ∃ r, nextBalance (accountAt r) = 4000 - j := by
  obtain ⟨T, hT⟩ : ∃ T, (staticEnergy (forEach (planClock accountNext) (List.range accountNext.member.stackCount) clearing)).ledger.tickFj = T :=
    ⟨_, rfl⟩
  refine ⟨10 ^ 9 * (2 ^ 64 * (T + 1) + j) - T, ?_⟩
  generalize hr : 10 ^ 9 * (2 ^ 64 * (T + 1) + j) - T = r
  have hb : balance (accountAt r) = 0 ∧ classW (accountAt r).member (classNow (accountAt r)) = 4000
      ∧ depthNow (accountAt r) = 100000000 := by
    show balance (accountState 0 0) = 0 ∧ classW (accountState 0 0).member (classNow (accountState 0 0)) = 4000
      ∧ depthNow (accountState 0 0) = 100000000
    decide +kernel
  have he := (energy_rest accountNext r).trans hT
  have hq : (r + T) / 10 ^ 9 = 2 ^ 64 * (T + 1) + j := by omega
  have hs : nextBalance (accountAt r) = sgn 64 (unsgn 64 (min (depthNow (accountAt r) : Int)
      (balance (accountAt r) + (classW (accountAt r).member (classNow (accountAt r)) : Nat)
        - (((r + (staticEnergy (forEach (planClock (withRest accountNext r)) (List.range accountNext.member.stackCount) clearing)).ledger.tickFj)
          / 10 ^ 9 : Nat) : Int)))) := rfl
  have hx : min ((100000000 : Nat) : Int) (0 + ((4000 : Nat) : Int) - ((2 ^ 64 * (T + 1) + j : Nat) : Int))
      = ((4000 - j : Nat) : Int) + ((2 ^ 64 : Nat) : Int) * (-((T : Int) + 1)) := by
    generalize (2 ^ 64 : Nat) = n
    have hn : ((n * (T + 1) + j : Nat) : Int) = (n : Int) * ((T : Int) + 1) + j := by push_cast; rfl
    have hp : 0 ≤ (n : Int) * ((T : Int) + 1) := Int.mul_nonneg (Int.natCast_nonneg n) (by omega)
    rw [hn, Int.mul_neg, Int.min_eq_right (by omega)]
    omega
  rw [hs, he, hq, hb.1, hb.2.1, hb.2.2, hx, sgn_unsgn_wraps _ _ (by omega)]
  omega
/-- A part without media errors and poison: every sector is good. -/
theorem clean_secClass {s : State} (hf : s.flips = []) (hp : s.poison = []) (k : Nat) : secClass s k = 0 := by
  unfold secClass
  have h0 : syndrome [] = 0 := by decide +kernel
  simp [hf, hp, tget, h0]
/-- Descriptor fetches meet no poison there. -/
theorem clean_descFetch {s : State} (hf : s.flips = []) (hp : s.poison = []) (l : List Nat) : (descFetch s l).1 = false := by
  have h (l : List Nat) : (sysFetch s l).1 = false := by
    unfold sysFetch
    rw [List.filter_eq_nil_iff.mpr (fun k _ => by simp [clean_secClass hf hp])]
    exact List.any_eq_false.mpr (fun k _ => by simp [forEach, clean_secClass hf hp])
  unfold descFetch
  rw [show sysFetch s (l.flatMap fun h => [descSec h 0, descSec h 1]) = (false, (sysFetch s (l.flatMap fun h => [descSec h 0, descSec h 1])).2) from
    Prod.ext (h _) rfl]
  rfl

/-- States and operands that meet the hypotheses of ResetRegisters, clause by clause. -/
theorem witness_ResetRegisters :
    (0 < 20 ∧ 0 < 32)
    ∧ (0 < 8)
    ∧ (∃ (s : State), s.regs = [])
    ∧ (0 < 12) :=
  ⟨by decide +kernel, by decide +kernel, ⟨State.reset, by decide +kernel⟩, by decide +kernel⟩

/-- States and operands that meet the hypotheses of DroppedAndStoredRegisterWrites, clause by clause. -/
theorem witness_DroppedAndStoredRegisterWrites :
    (∃ (s : State) (x : Page), assigned s.member x = true ∧ isSummary s.member x = false ∧ isWindow x = false ∧ pageGated s x = false
      ∧ (x.blk = 26 → leadWriter Writer.host = true))
    ∧ (∃ (s : State), pg 7 1 1 < 2 ^ 28 ∧ isSummary s.member (pageOf (pg 7 1 1)) = false ∧ assigned s.member (pageOf (pg 7 1 1)) =
      false)
    ∧ (∃ (s : State), pgCxl + 132 < 2 ^ 28 ∧ assigned s.member (pageOf (pgCxl + 132)) = true ∧ isSummary s.member (pageOf (pgCxl +
      132)) = false ∧ isWindow (pageOf (pgCxl + 132)) = false ∧ pageGated s (pageOf (pgCxl + 132)) = false ∧ ¬(8 = 8 ∧ (pgCxl + 132) %
      8 = 0) ∧ ¬(8 = 4 ∧ (pgCxl + 132) % 4 = 0))
    ∧ (∃ (s : State), pgCxl + 4088 < 2 ^ 28 ∧ assigned s.member (pageOf (pgCxl + 4088)) = true ∧ isSummary s.member (pageOf (pgCxl +
      4088)) = false ∧ isWindow (pageOf (pgCxl + 4088)) = false ∧ pageGated s (pageOf (pgCxl + 4088)) = false ∧ 8 = 8 ∧ (pgCxl + 4088)
      % 8 = 0 ∧ regFields (pageOf (pgCxl + 4088)) ((pgCxl + 4088) % 4096) = [])
    ∧ (∃ (s : State), pg 0 3 255 + 128 < 2 ^ 28 ∧ isSummary s.member (pageOf (pg 0 3 255 + 128)) = true)
    ∧ (∃ (s : State) (x : Page), assigned s.member x = true ∧ isSummary s.member x = false ∧ isWindow x = false ∧ pageGated s x =
      false ∧ x.blk = 26 ∧ leadWriter (Writer.uzoid 3) = false)
    ∧ (∃ (s : State), pgTile 0 + 128 < 2 ^ 28 ∧ assigned s.member (pageOf (pgTile 0 + 128)) = true ∧ isSummary s.member (pageOf
      (pgTile 0 + 128)) = false ∧ isWindow (pageOf (pgTile 0 + 128)) = false ∧ pageGated s (pageOf (pgTile 0 + 128)) = true ∧ (pgTile
      0 + 128) % 4096 / 8 ≠ 2)
    ∧ (∃ (s : State), pgTile 0 + 128 < 2 ^ 28 ∧ assigned s.member (pageOf (pgTile 0 + 128)) = true ∧ isSummary s.member (pageOf
      (pgTile 0 + 128)) = false ∧ isWindow (pageOf (pgTile 0 + 128)) = false ∧ pageGated s (pageOf (pgTile 0 + 128)) = true ∧ ¬(pgTile
      0 + 128) / 8 * 8 % 4096 ∈ [0, 8, 16, 24, 80, 88])
    ∧ (∃ (s : State), pgCxl + 128 < 2 ^ 28 ∧ assigned s.member (pageOf (pgCxl + 128)) = true ∧ isSummary s.member (pageOf (pgCxl +
      128)) = false ∧ isWindow (pageOf (pgCxl + 128)) = false ∧ pageGated s (pageOf (pgCxl + 128)) = false ∧ 8 = 8 ∧ (pgCxl + 128) % 8
      = 0 ∧ regFields (pageOf (pgCxl + 128)) ((pgCxl + 128) % 4096) ≠ [] ∧ (∀ (f : RegF), f ∈ regFields (pageOf (pgCxl + 128)) ((pgCxl
      + 128) % 4096) → f.acc = Acc.ro)) :=
  ⟨⟨erred noisy pgCxl, pageOf pgCxl, by decide +kernel⟩, ⟨up, by decide +kernel⟩, ⟨up, by decide +kernel⟩, ⟨up, by decide +kernel⟩,
    ⟨up, by decide +kernel⟩, ⟨up, pageOf pgOwn, by decide +kernel⟩, ⟨up, by decide +kernel⟩, ⟨up, by decide +kernel⟩, ⟨up,
    by decide +kernel⟩⟩

/-- States and operands that meet the hypotheses of ErrorsRecord, clause by clause. -/
theorem witness_ErrorsRecord :
    (∃ (s : State), pgCxl % 4096 = 0 ∧ 3604 % 256 < 64 ∧ 4294967295 < 2 ^ 32 ∧ getF s pgCxl F.HDR_ERR_FIRST_VALID = 0)
    ∧ (∃ (s : State), pgCxl % 4096 = 0 ∧ 3604 % 256 < 64 ∧ 3 < 2 ^ 32 ∧ assigned s.member (pageOf pgCxl) = true ∧ isSummary s.member
      (pageOf pgCxl) = false ∧ isWindow (pageOf pgCxl) = false ∧ pageGated s (pageOf pgCxl) = false ∧ ((pageOf pgCxl).blk = 26 →
      leadWriter Writer.host = true))
    ∧ (pgCxl % 4096 = 0 ∧ 3604 % 256 < 64 ∧ 3 < 2 ^ 32 ∧ 0 ≠ 3604 % 256)
    ∧ (∃ (s : State), pgCxl % 4096 = 0 ∧ 3604 % 256 < 64 ∧ 3 < 2 ^ 32 ∧ getF s pgCxl F.HDR_ERR_FIRST_VALID = 1) :=
  ⟨⟨up, by decide +kernel⟩, ⟨recordErr up pgCxl 3647 5, by decide +kernel⟩, by decide +kernel, ⟨recordErr up pgCxl 3647 5,
    by decide +kernel⟩⟩

/-- States and operands that meet the hypotheses of CtrlAndInterrupts, clause by clause. -/
theorem witness_CtrlAndInterrupts :
    (∃ (s : State) (x : Page), assigned s.member x = true ∧ isSummary s.member x = false ∧ isWindow x = false ∧ s.enabled = true ∧
      pageEnabled s (pgBase x) = true ∧ jobScope x.blk = false)
    ∧ (∃ (s : State), hasTile s 511 = true)
    ∧ (∃ (s : State), 46 < 64 ∧ s.vecPend = [46] ∧ s.funcMask = false)
    ∧ (∃ (s : State), 0 < 64 ∧ vecCond s 0 = true ∧ ¬0 ∈ s.vecSent ∧ (s.funcMask = true ∨ 0 ∈ s.vecMask))
    ∧ (∃ (s : State), 0 < 64 ∧ vecCond s 0 = true ∧ ¬0 ∈ s.vecSent ∧ s.funcMask = false ∧ ¬0 ∈ s.vecMask)
    ∧ (∃ (s : State) (x : Page), assigned s.member x = true ∧ isSummary s.member x = false ∧ isWindow x = false ∧ s.enabled = true ∧
      pageEnabled s (pgBase x) = true ∧ (x.blk = 3 ∨ x.blk = 4 ∨ x.blk = 5) ∧ pageGated s x = false)
    ∧ (∃ (s : State) (x : Page), assigned s.member x = true ∧ isSummary s.member x = false ∧ isWindow x = false ∧ s.enabled = true ∧
      pageEnabled s (pgBase x) = true ∧ (x.blk = 2 ∨ x.blk = 8) ∧ pageGated s x = false)
    ∧ (0 < 64 ∧ 0 = 0)
    ∧ (3 < 64 ∧ (3 = 3 ∨ 3 = 31 ∨ 59 ≤ 3))
    ∧ (∃ (s : State), 0 < 64 ∧ (vecCond s 0 = false ∨ 0 ∈ s.vecSent)) :=
  ⟨⟨noisy, pageOf pgCxl, by decide +kernel⟩, ⟨noisy, by decide +kernel⟩, ⟨pendingVec, by decide +kernel⟩, ⟨setF up (pgFlt 0)
    F.FLT_FSTAT_FAULTED 1, by decide +kernel⟩, ⟨unmaskedFault, by decide +kernel⟩, ⟨erred (upTile 511 { }) (pgTile 511), pageOf
    (pgTile 511), by decide +kernel⟩, ⟨erred up (pgSeq 7), pageOf (pgSeq 7), by decide +kernel⟩, by decide +kernel, by decide +kernel,
    ⟨up, by decide +kernel⟩⟩

/-- A request within a row of a stack 19 channel, of a source that may queue or park there. -/
def queueable (s : State) (r : Req) : Prop :=
  0 < r.nsec ∧ r.nsec ≤ 32 - r.pa / 64 % 32 ∧ backed s.member r.pa = true ∧ backed s.member (r.pa + r.nsec * 64 - 1) = true
    ∧ intakeIsolated s 19 31 r.src = false ∧ r.src / 4096 ≠ 1 ∧ ¬(paStack r.pa = 0 ∧ paRow r.pa = 0 ∧ r.src = 0x2000)
    ∧ paStack r.pa = 19 ∧ paCh r.pa = 31 ∧ paBank r.pa = 15

/-- The same, the channel out of memory mode and not the source's own, the CXL port not a former owner. -/
def parkable (s : State) (r : Req) : Prop :=
  queueable s r ∧ chState s 19 31 ≠ 0 ∧ r.src ≠ chOwner s 19 31 ∧ (r.src = 0x2000 → paRow r.pa = 0 → 0x2000 ∉ (s.chan 19 31).prevOwners)

/-- A channel in processor mode with requests parked and requests held at its intake. -/
def parkedState (parked blocked : Nat) : State :=
  moded (upChan 19 31 { parked := List.replicate parked (req 0x3000 rowPa), blocked := List.replicate blocked (req 0x3000 rowPa) })
    19 31 2 0x1000

/-- A memory-mode channel with requests parked and requests held at its intake. -/
def waitingState (parked blocked : Nat) : State :=
  { upChan 19 31 { parked := List.replicate parked (req 0x3000 rowPa), blocked := List.replicate blocked (req 0x3000 rowPa) } with
    stackTab := [(19, trainedStack)] }

/-- States and operands that meet the hypotheses of DramRequestsQueueOrPark, clause by clause. -/
theorem witness_DramRequestsQueueOrPark :
    (∃ (s : State) (r : Req), 0 < r.nsec ∧ r.nsec ≤ 32 - r.pa / 64 % 32 ∧ backed s.member r.pa = true
      ∧ backed s.member (r.pa + r.nsec * 64 - 1) = true ∧ intakeIsolated s (paStack r.pa) (paCh r.pa) r.src = true)
    ∧ (∃ (s : State) (r : Req), queueable s r ∧ (∀ x ∈ (s.chan 19 31).blocked, awaitsBank s r x = false) ∧ chState s 19 31 = 0
      ∧ stackOpen s 19 = true ∧ ((s.chan 19 31).bank 15).queue.length < 16 ∧ ∀ x ∈ (s.chan 19 31).parked, paBank x.pa ≠ 15)
    ∧ (∃ (s : State) (r : Req), queueable s r ∧ chState s 19 31 = 0 ∧ 16 ≤ ((s.chan 19 31).bank 15).queue.length)
    ∧ (∃ (s : State) (r : Req), queueable s r ∧ chState s 19 31 = 0 ∧ stackOpen s 19 = false)
    ∧ (∃ (s : State) (r : Req), queueable s r ∧ chState s 19 31 = 0 ∧ ∃ x ∈ (s.chan 19 31).parked, paBank x.pa = 15)
    ∧ (∃ (s : State) (r : Req), queueable s r ∧ chState s 19 31 = 0 ∧ ∃ x ∈ (s.chan 19 31).blocked, awaitsBank s r x = true)
    ∧ (∃ (s : State) (r : Req), parkable s r ∧ (∀ x ∈ (s.chan 19 31).blocked, awaitsBank s r x = false) ∧ r.src = 0x2000
      ∧ (s.chan 19 31).parked.length = 63)
    ∧ (∃ (s : State) (r : Req), parkable s r ∧ (∀ x ∈ (s.chan 19 31).blocked, awaitsBank s r x = false) ∧ r.src ≠ 0x2000
      ∧ (s.chan 19 31).parked.length < 64)
    ∧ (∃ (s : State) (r : Req), parkable s r ∧ 64 ≤ (s.chan 19 31).parked.length)
    ∧ (∃ (s : State) (r : Req), parkable s r ∧ ∃ x ∈ (s.chan 19 31).blocked, awaitsBank s r x = true) :=
  ⟨⟨isolatedAt up 8192, req 8192 lastPa, by decide +kernel⟩,
   ⟨upStack 19 trainedStack, req 8192 lastPa, by unfold queueable; decide +kernel⟩,
   ⟨banked (List.replicate 16 (req 8192 rowPa)) none, req 8192 lastPa, by unfold queueable; decide +kernel⟩,
   ⟨setF (upStack 19 trainedStack) (pgCal .zh8c 19) F.CAL_TRCTL_TEST 1, req 8192 lastPa, by unfold queueable; decide +kernel⟩,
   ⟨waitingState 1 0, req 8192 lastPa, by unfold queueable; decide +kernel⟩,
   ⟨waitingState 0 1, req 8192 lastPa, by unfold queueable; decide +kernel⟩,
   ⟨parkedState 63 0, req 8192 lastPa, by unfold parkable queueable; decide +kernel⟩,
   ⟨moded up 19 31 2 4096, req 12288 lastPa, by unfold parkable queueable; decide +kernel⟩,
   ⟨parkedState 64 0, req 8192 lastPa, by unfold parkable queueable; decide +kernel⟩,
   ⟨parkedState 0 1, req 8192 lastPa, by unfold parkable queueable; decide +kernel⟩⟩

/-- States and operands that meet the hypotheses of DramCommands, clause by clause. -/
theorem witness_DramCommands :
    (∃ (s : State) (x : Req), hasBank s 19 31 15 = true ∧ srState s 19 ≤ 1 ∧ reformatting s 19 = false ∧ bursting s 19 31 = false ∧
      ((s.chan 19 31).bank 15).corr = none ∧ ((s.chan 19 31).bank 15).queue = [x, x] ∧ (∀ (x_1 : Req), x_1 ∈ [x, x] → x_1.bypass <
      zero256 (getF s (pgDctl s.member 19 31) F.DCTL_PAGECFG_AGE_CAP)) ∧ ((s.chan 19 31).bank 15).openRow = none)
    ∧ (∃ (s : State) (x : Req), hasBank s 19 31 15 = true ∧ srState s 19 ≤ 1 ∧ reformatting s 19 = false ∧ bursting s 19 31 = false ∧
      ((s.chan 19 31).bank 15).corr = none ∧ ((s.chan 19 31).bank 15).queue = [x, x] ∧ (∀ (x_1 : Req), x_1 ∈ [x, x] → x_1.bypass <
      zero256 (getF s (pgDctl s.member 19 31) F.DCTL_PAGECFG_AGE_CAP)) ∧ ((s.chan 19 31).bank 15).openRow = some 8 ∧ 8 ≠ paRow x.pa)
    ∧ (∃ (s : State) (x : Req), hasBank s 19 31 15 = true ∧ srState s 19 ≤ 1 ∧ reformatting s 19 = false ∧ bursting s 19 31 = false ∧
      ((s.chan 19 31).bank 15).corr = none ∧ ((s.chan 19 31).bank 15).queue = [x] ∧ (∀ (x_1 : Req), x_1 ∈ [x] → x_1.bypass < zero256
      (getF s (pgDctl s.member 19 31) F.DCTL_PAGECFG_AGE_CAP)) ∧ ((s.chan 19 31).bank 15).openRow = some (paRow x.pa) ∧ inHole s x.pa
      = false ∧ x.pa % 64 = 0 ∧ paStack x.pa = 19 ∧ paCh x.pa = 31 ∧ paBank x.pa = 15 ∧ (∀ (k : Nat), k ∈ reqSecs x → tget [] s.flips
      k = []) ∧ x.write = true ∧ x.data.length = x.nsec * 64)
    ∧ (∃ (s : State) (x : Req), hasBank s 19 31 15 = true ∧ srState s 19 ≤ 1 ∧ reformatting s 19 = false ∧ bursting s 19 31 = false ∧
      ((s.chan 19 31).bank 15).corr = none ∧ ((s.chan 19 31).bank 15).queue = [x] ∧ (∀ (x_1 : Req), x_1 ∈ [x] → x_1.bypass < zero256
      (getF s (pgDctl s.member 19 31) F.DCTL_PAGECFG_AGE_CAP)) ∧ ((s.chan 19 31).bank 15).openRow = some (paRow x.pa) ∧ inHole s x.pa
      = false ∧ x.pa % 64 = 0 ∧ paStack x.pa = 19 ∧ paCh x.pa = 31 ∧ paBank x.pa = 15 ∧ (∀ (k : Nat), k ∈ reqSecs x → tget [] s.flips
      k = []) ∧ x.write = false ∧ x.src = 8192 ∧ x.tag < 2 ^ 64 ∧ releaseIsolated s x.tag = false)
    ∧ (∃ (s : State) (x : Req), hasBank s 19 31 15 = true ∧ srState s 19 ≤ 1 ∧ reformatting s 19 = false ∧ bursting s 19 31 = false ∧
      ((s.chan 19 31).bank 15).corr = none ∧ ((s.chan 19 31).bank 15).queue = [x] ∧ (∀ (x_1 : Req), x_1 ∈ [x] → x_1.bypass < zero256
      (getF s (pgDctl s.member 19 31) F.DCTL_PAGECFG_AGE_CAP)) ∧ ((s.chan 19 31).bank 15).openRow = some (paRow x.pa) ∧ inHole s x.pa
      = false ∧ x.pa % 64 = 0 ∧ paStack x.pa = 19 ∧ paCh x.pa = 31 ∧ paBank x.pa = 15 ∧ (∀ (k : Nat), k ∈ reqSecs x → tget [] s.flips
      k = []) ∧ hasDie s 7 = true ∧ x.write = false ∧ x.src = 12288 + 7 ∧ x.tag < 2 ^ 64) :=
  ⟨⟨banked [req 8192 rowPa, req 8192 rowPa] none, req 8192 rowPa, by decide +kernel⟩, ⟨banked [req 8192 rowPa, req 8192 rowPa] (some
    8), req 8192 rowPa, by decide +kernel⟩, ⟨banked [wreq 8192 rowPa] (some 9), wreq 8192 rowPa, by decide +kernel⟩, ⟨banked [req 8192
    rowPa] (some 9), req 8192 rowPa, by decide +kernel⟩, ⟨banked [req 12295 rowPa] (some 9), req 12295 rowPa, by decide +kernel⟩⟩

/-- States and operands that meet the hypotheses of RowsCloseAndDecode, clause by clause. -/
theorem witness_RowsCloseAndDecode :
    (∃ (s : State) (x : Req), ∃ a, a = rowBits (rowFlips s (rowAt x.pa)) ∧ hasBank s 19 31 15 = true ∧ ((s.chan 19 31).bank 15).corr =
      some x ∧ paStack x.pa = 19 ∧ paCh x.pa = 31 ∧ paBank x.pa = 15 ∧ x.write = false ∧ failMask s (rowAt x.pa) ≠ 0 ∧ cached s (rowAt
      x.pa) = true ∧ uncovered s (rowAt x.pa) = false ∧ rsDecode rowField (corrects (strength s 19)) 1408 a (tget [] s.slotErrs
      ((rowAt x.pa).pa / 2048)) = some (rowBits (rowFlips s (rowAt x.pa)), tget [] s.slotErrs ((rowAt x.pa).pa / 2048)) ∧ changesPass
      (s.addRowBits (rowAt x.pa) a) (rowAt x.pa) a = true)
    ∧ (∃ (s : State), hasBank s 19 31 15 = true ∧ ((s.chan 19 31).bank 15).corr = none)
    ∧ (∃ (s : State) (x : Req), rsDecode rowField (corrects (strength s 19)) 1408 (rowBits (rowFlips s (rowAt x.pa))) (tget []
      s.slotErrs ((rowAt x.pa).pa / 2048)) = none ∧ hasBank s 19 31 15 = true ∧ ((s.chan 19 31).bank 15).corr = some x ∧ paStack x.pa
      = 19 ∧ paCh x.pa = 31 ∧ paBank x.pa = 15 ∧ x.write = false ∧ failMask s (rowAt x.pa) ≠ 0 ∧ cached s (rowAt x.pa) = true ∧
      uncovered s (rowAt x.pa) = false)
    ∧ (∃ (s : State), hasBank s 19 31 15 = true ∧ ((s.chan 19 31).bank 15).corr ≠ none) :=
  ⟨⟨decoding, req 8192 (rowPa + 64), _, rfl, by decide +kernel⟩, ⟨banked [] (some 9), by decide +kernel⟩, ⟨hopeless, req 8192 (rowPa +
    64), hopeless_none, by decide +kernel⟩, ⟨decoding, by decide +kernel⟩⟩

/-- States and operands that meet the hypotheses of ParityRows, clause by clause. -/
theorem witness_ParityRows :
    (∃ (s : State) (x : Line), hasCh s 19 31 = true ∧ (s.chan 19 31).lines[0]? = some x ∧ mayWriteback s 19 31 x.bank = true)
    ∧ (∃ (s : State), hasStack s 19 = true ∧ (s.stack 19).rebuild = [(31, 15, 65535)] ∧ chState s 19 31 = 0 ∧ stackOpen s 19 = true ∧
      bursting s 19 31 = false ∧ ((s.chan 19 31).bank 15).corr = none)
    ∧ (∃ (s : State), (∀ (b : Nat), mayWriteback s 19 31 b = true) ∧ hasCh s 19 31 = true ∧ queued s 19 31 = 0)
    ∧ (∃ (s : State), hasCh s 19 31 = true ∧ getF s (pgEcc s.member 19) F.ECC_PCSTAT_FLUSHING = 1 ∧ (s.stack 19).oldStrength = none)
    ∧ (∃ (s : State), hasCh s 19 31 = true ∧ bitOf 1 0 = true) :=
  ⟨⟨dirty, { bank := 15, row := 9 }, by decide +kernel⟩, ⟨rebuilding, by decide +kernel⟩, ⟨dirty, fun b => tget_of (V := Bank) (d :=
    {}) (l := (dirty.chan 19 31).banks) (P := fun x => (x.corr.isNone && !bursting dirty 19 31) = true) (by decide +kernel)
    (by decide +kernel) b, by decide +kernel⟩, ⟨setF (moded dirty 19 31 2 4096) (pgEcc Member.zh8c 19) F.ECC_PCSTAT_FLUSHING 1,
    by decide +kernel⟩, ⟨dirty, by decide +kernel⟩⟩

/-- States and operands that meet the hypotheses of Refreshes, clause by clause. -/
theorem witness_Refreshes :
    (∃ (s : State), hasCh s 19 31 = true ∧ bursting s 19 31 = true ∧ (s.chan 19 31).refreshed = false)
    ∧ (∃ (s : State), hasCh s 19 31 = true ∧ srState s 19 ≠ 2 ∧ bursting s 19 31 = false ∧ chState s 19 31 = 0 ∧ (queued s 19 31 = 0 ∧
      (s.chan 19 31).toRelease = 0 ∨ getF s (pgDctl s.member 19 31) F.DCTL_REFCFG_MEM_DEFER = 0))
    ∧ (∃ (s : State), hasCh s 19 31 = true ∧ srState s 19 ≠ 2 ∧ bursting s 19 31 = false ∧ chState s 19 31 = 0 ∧ ¬(queued s 19 31 = 0
      ∧ (s.chan 19 31).toRelease = 0) ∧ getF s (pgDctl s.member 19 31) F.DCTL_REFCFG_MEM_DEFER ≠ 0)
    ∧ (∃ (s : State), hasCh s 19 31 = true ∧ srState s 19 ≠ 2 ∧ bursting s 19 31 = false ∧ chState s 19 31 = 2 ∧ (s.chan 19 31).breath
      = false ∧ owed s 19 31 = 7)
    ∧ (∃ (s : State), hasCh s 19 31 = true ∧ srState s 19 ≠ 2 ∧ bursting s 19 31 = true ∧ owed s 19 31 = 8 ∧ (s.chan 19 31).refreshed
      = false)
    ∧ (∃ (s : State), hasCh s 19 31 = true ∧ srState s 19 ≠ 2 ∧ bursting s 19 31 = true ∧ ¬(owed s 19 31 = 8 ∧ (s.chan 19
      31).refreshed = false))
    ∧ (∃ (s : State), hasCh s 19 31 = true ∧ srState s 19 ≠ 2 ∧ bursting s 19 31 = false ∧ chState s 19 31 = 2 ∧ (s.chan 19 31).breath
      = false ∧ owed s 19 31 < 7)
    ∧ (∃ (s : State), hasCh s 19 31 = true ∧ bursting s 19 31 = true ∧ (s.chan 19 31).refreshed = true ∧ getF s (pgDctl s.member 19
      31) F.DCTL_REFSTAT_WINDOW = 0 ∧ owed s 19 31 = 0 ∧ (s.chan 19 31).breath = false ∧ srState s 19 ≠ 1)
    ∧ (∃ (s : State), hasCh s 19 31 = true ∧ srState s 19 = 2) :=
  ⟨⟨burst (banked [] (some 9)) 8, by decide +kernel⟩, ⟨up, by decide +kernel⟩, ⟨banked [req 8192 rowPa] none, by decide +kernel⟩,
    ⟨running19 7, by decide +kernel⟩, ⟨burst up 8, by decide +kernel⟩, ⟨burst up 7, by decide +kernel⟩, ⟨moded up 19 31 2 4096,
    by decide +kernel⟩, ⟨burst (upChan 19 31 { refreshed := true }) 0, by decide +kernel⟩, ⟨setF up (pgStk Member.zh8c 19)
    F.STK_SRCTL_SR_STATE 2, by decide +kernel⟩⟩

/-- States and operands that meet the hypotheses of StackTemperature, clause by clause. -/
theorem witness_StackTemperature :
    (∃ (s : State) (x : List Nat), hasStack s 19 = true ∧ x.length = 17 ∧ List.foldl Nat.max 0 x ≤ 4095 ∧ stackHot s 19 = true ∧
      (s.stack 19).coolRun = true)
    ∧ (∃ (s : State) (x : List Nat), hasStack s 19 = true ∧ x.length = 17 ∧ List.foldl Nat.max 0 x ≤ 4095 ∧ (s.stack 19).warnArmed =
      false ∧ (s.stack 19).warnRun = true)
    ∧ (∃ (s : State) (x : List Nat), hasStack s 19 = true ∧ x.length = 17 ∧ List.foldl Nat.max 0 x ≤ 4095) :=
  ⟨⟨hotStack, temps 776, by decide +kernel⟩, ⟨hotStack, temps 776, by decide +kernel⟩, ⟨up, temps 664, by decide +kernel⟩⟩

/-- States and operands that meet the hypotheses of SelfRefresh, clause by clause. -/
theorem witness_SelfRefresh :
    (∃ (s : State), hasStack s 19 = true ∧ bitOf 98303 16 = true ∧ bitOf 98303 17 = false ∧ srState s 19 = 0 ∧ allMemory s 19 = true)
    ∧ (∃ (s : State), hasStack s 19 = true ∧ (srState s 19 = 3 ∨ srState s 19 = 4))
    ∧ (∃ (s : State), hasStack s 19 = true ∧ bitOf 131072 16 = false ∧ bitOf 131072 17 = true ∧ srState s 19 = 2)
    ∧ (∃ (s : State), hasStack s 19 = true ∧ srState s 19 = 1 ∧ stackIdle s 19 = true ∧ flushing s 19 = false ∧ dirtyMax s 19 = 0)
    ∧ (∃ (s : State), hasStack s 19 = true ∧ srState s 19 = 1 ∧ stackIdle s 19 = true ∧ flushing s 19 = false ∧ dirtyMax s 19 ≠ 0 ∧
      (s.stack 19).flushed = false)
    ∧ (∃ (s : State), hasStack s 19 = true ∧ bitOf 196609 16 = true ∧ bitOf 196609 17 = true)
    ∧ (∃ (s : State), hasStack s 19 = true ∧ bitOf 131072 16 = false ∧ bitOf 131072 17 = true ∧ srState s 19 ≠ 2)
    ∧ (∃ (s : State), hasStack s 19 = true ∧ bitOf 65537 16 = true ∧ bitOf 65537 17 = false ∧ srState s 19 = 0 ∧ allMemory s 19 =
      false) :=
  ⟨⟨refreshing 0 0, by decide +kernel⟩, ⟨keepSome 3 32768, by decide +kernel⟩, ⟨refreshing 2 32769, by decide +kernel⟩, ⟨refreshing 1
    32769, by decide +kernel⟩, ⟨dirtyHeld 1, by decide +kernel⟩, ⟨refreshing 0 0, by decide +kernel⟩, ⟨refreshing 1 32769,
    by decide +kernel⟩, ⟨moded (refreshing 0 0) 19 31 2 4096, by decide +kernel⟩⟩

/-- States and operands that meet the hypotheses of RowCodeSettings, clause by clause. -/
theorem witness_RowCodeSettings :
    (∃ (s : State), hasStack s 19 = true ∧ getF s (pgEcc s.member 19) F.ECC_CFG_SCRUB_PERIOD_H ≠ 0 ∧ (s.stack 19).passOn = true ∧ 0 =
      getF s (pgEcc s.member 19) F.ECC_SCRUBPOS_POSITION ∧ s.running = none)
    ∧ (∃ (s : State), hasStack s 19 = true ∧ (s.stack 19).copies = [3] ∧ getF s (pgEcc s.member 19) F.ECC_FALLOWSTAT_COPY_LEFT = 0)
    ∧ (∃ (s : State), hasStack s 19 = true ∧ getF s (pgEcc s.member 19) F.ECC_CFG_SCRUB_PERIOD_H ≠ 0 ∧ (s.stack 19).passOn = true ∧ 31
      * 16 = getF s (pgEcc s.member 19) F.ECC_SCRUBPOS_POSITION ∧ stackOpen s 19 = true ∧ (s.stack 19).skipped = [] ∧ (s.stack
      19).passEnd = false ∧ 31 * 16 < 2 ^ 25 - 1 ∧ visitDue s 19 (31 * 16) ≤ s.us ∧ (chState s 19 (31 * 16 / 16 % 32) = 0 →
      tedderSlots s (tedderRow 19 (31 * 16)) = true))
    ∧ (∃ (s : State), hasStack s 19 = true ∧ reformatting s 19 = true ∧ (s.stack 19).oldStrength = none)
    ∧ (∃ (s : State), hasStack s 19 = true ∧ (s.stack 19).copies = [3, 300] ∧ getF s (pgEcc s.member 19) F.ECC_FALLOWSTAT_COPY_LEFT ≠
      0 ∧ (∀ (c : Nat), c < 32 → bursting s 19 c = false ∧ ∀ (b : Nat), b < 16 → ((s.chan 19 c).bank b).corr = none))
    ∧ (∃ (s : State), hasStack s 19 = true ∧ getF s (pgEcc s.member 19) F.ECC_CFG_SCRUB_PERIOD_H ≠ 0 ∧ (s.stack 19).passOn = true ∧ 31
      * 16 = getF s (pgEcc s.member 19) F.ECC_SCRUBPOS_POSITION ∧ getF s (pgEcc s.member 19) F.ECC_SCRUBSTAT_BEHIND = 0 ∧ (s.stack
      19).passFrom + getF s (pgEcc s.member 19) F.ECC_CFG_SCRUB_PERIOD_H * 3600000000 ≤ s.us)
    ∧ (∃ (s : State), hasStack s 19 = true ∧ getF s pgSec F.SEC_KEY_STATE ≠ 2 ∧ 1 < 2 ∧ bitOf (bwVal s (pgEcc s.member 19 + 256 + 8 *
      1)) 63 = false ∧ bitOf 9223372036854775839 63 = true ∧ (∀ (e : Nat × W64), e ∈ fallowEntries s 19 → e.fst < 256) ∧ allMemory s
      19 = true ∧ srState s 19 = 0 ∧ (s.stack 19).copies = [] ∧ bwPending s (pgEcc s.member 19 + 256 + 8 * 1) = false ∧ bwLeft s 5 19
      1 ≠ 0)
    ∧ (∃ (s : State), hasStack s 19 = true ∧ getF s pgSec F.SEC_KEY_STATE ≠ 2 ∧ 1 < 256 ∧ bitOf (bwVal s (pgEcc s.member 19 + 2048 + 8
      * 1)) 63 = false ∧ bitOf 9223372036854775839 63 = true ∧ fld 9223372036854775839 25 6 ≠ 63 ∧ (∀ (e : Nat × W64), e ∈
      fallowEntries s 19 → 256 ≤ e.fst) ∧ allMemory s 19 = true ∧ srState s 19 = 0 ∧ (s.stack 19).copies = [] ∧ bwPending s (pgEcc
      s.member 19 + 2048 + 8 * 1) = false ∧ bwLeft s 4 19 1 ≠ 0)
    ∧ (∃ (s : State), hasStack s 19 = true ∧ getF s pgSec F.SEC_KEY_STATE ≠ 2 ∧ fld 2 0 2 ≠ 3 ∧ fld 2 0 2 ≠ committedStrength s 19 ∧
      bwPending s (pgEcc s.member 19 + 128) = false ∧ bwLeft s 3 19 0 ≠ 0 ∧ allMemory s 19 = true ∧ srState s 19 = 0 ∧ (s.stack
      19).copies = [] ∧ reformatting s 19 = false ∧ allocInHole s 19 (fld 2 0 2) = false)
    ∧ (∃ (s : State), hasStack s 19 = true ∧ getF s pgSec F.SEC_KEY_STATE ≠ 2 ∧ fld 3 0 2 = 3)
    ∧ (∃ (s : State), hasStack s 19 = true ∧ getF s pgSec F.SEC_KEY_STATE ≠ 2 ∧ fld 0 0 2 = committedStrength s 19 ∧ fld 0 0 2 ≠ 3)
    ∧ (∃ (s : State), hasStack s 19 = true ∧ getF s pgSec F.SEC_KEY_STATE ≠ 2 ∧ 255 < 256 ∧ bitOf (bwVal s (pgEcc s.member 19 + 2048 +
      8 * 255)) 63 = true)
    ∧ (∃ (s : State), hasStack s 19 = true ∧ getF s (pgEcc s.member 19) F.ECC_CFG_SCRUB_PERIOD_H ≠ 0 ∧ (s.stack 19).passOn = true ∧ 0
      = getF s (pgEcc s.member 19) F.ECC_SCRUBPOS_POSITION ∧ stackOpen s 19 = true ∧ (s.stack 19).skipped = [] ∧ (s.stack 19).passEnd
      = false ∧ 0 < 2 ^ 25 - 1 ∧ visitDue s 19 0 ≤ s.us ∧ (chState s 19 (0 / 16 % 32) = 0 → tedderSlots s (tedderRow 19 0) = true))
    ∧ (∃ (s : State), hasStack s 19 = true ∧ getF s (pgEcc s.member 19) F.ECC_CFG_SCRUB_PERIOD_H ≠ 0 ∧ (s.stack 19).passOn = true ∧ 31
      * 16 = getF s (pgEcc s.member 19) F.ECC_SCRUBPOS_POSITION ∧ stackOpen s 19 = true ∧ (s.stack 19).skipped = [] ∧ (s.stack
      19).passEnd = false ∧ 31 * 16 < 2 ^ 25 - 1 ∧ (s.us < visitDue s 19 (31 * 16) ∨ chState s 19 (31 * 16 / 16 % 32) = 0 ∧
      tedderSlots s (tedderRow 19 (31 * 16)) = false)) :=
  ⟨⟨tedderAt 0 0, by decide +kernel⟩, ⟨copying 0 [], by decide +kernel⟩, ⟨moded (tedderAt (31 * 16) (10 ^ 15)) 19 31 2 4096,
    by decide +kernel⟩, ⟨setF (upStack 19 trainedStack) (pgEcc Member.zh8c 19) F.ECC_STRENGTH_REFORMAT 1, by decide +kernel⟩, ⟨copying
    1 [300], by decide +kernel⟩, ⟨tedderAt (31 * 16) (10 ^ 15), by decide +kernel⟩, ⟨upStack 19 trainedStack, by decide +kernel⟩,
    ⟨upStack 19 trainedStack, by decide +kernel⟩, ⟨upStack 19 trainedStack, by decide +kernel⟩, ⟨upStack 19 trainedStack,
    by decide +kernel⟩, ⟨upStack 19 trainedStack, by decide +kernel⟩, ⟨fallowed, by decide +kernel⟩, ⟨tedderAt 0 0,
    by decide +kernel⟩, ⟨tedderAt (31 * 16) 0, by decide +kernel⟩⟩

/-- States and operands that meet the hypotheses of TrainingHelpers, clause by clause. -/
theorem witness_TrainingHelpers :
    (∃ (s : State), hasStack s 19 = true ∧ bitOf 65599 0 = true ∧ bitOf 65599 16 = true ∧ bitOf 65599 17 = false ∧ fld 65599 9 2 ≠ 3 ∧
      inTest s 19 = true ∧ getF s (pgCal s.member 19) F.CAL_TRSTAT_BUSY = 0 ∧ sweepOk s 19 = true ∧ (fld 65599 7 2 = 2 → fld 65599 11
      4 ∈ poweredDies s 19))
    ∧ (∃ (s : State), hasStack s 19 = true ∧ getF s (pgCal s.member 19) F.CAL_TRSTAT_BUSY = 1 ∧ getF s (pgCal s.member 19)
      F.CAL_TRCTL_ALL = 1 ∧ getF s (pgCal s.member 19) F.CAL_TRCTL_MODE ≠ 2)
    ∧ (∃ (s : State), hasStack s 19 = true ∧ bitOf 131135 0 = true ∧ bitOf 131135 16 = false ∧ bitOf 131135 17 = true ∧ fld 131135 9 2
      ≠ 3 ∧ inTest s 19 = true ∧ getF s (pgCal s.member 19) F.CAL_TRSTAT_BUSY = 1)
    ∧ (∃ (s : State), hasStack s 19 = true ∧ bitOf 96575 0 = true ∧ bitOf 96575 16 = true ∧ fld 96575 9 2 ≠ 3 ∧ inTest s 19 = true ∧
      getF s (pgCal s.member 19) F.CAL_TRSTAT_BUSY = 0 ∧ (sweepOk s 19 = false ∨ fld 96575 7 2 = 2 ∧ ¬fld 96575 11 4 ∈ poweredDies s
      19))
    ∧ (∃ (s : State), hasStack s 19 = true ∧ bitOf 63 0 = true ∧ bitOf 63 16 = false ∧ bitOf 63 17 = false ∧ fld 63 9 2 ≠ 3 ∧
      allMemory s 19 = true ∧ (srState s 19 = 0 ∨ srState s 19 = 2))
    ∧ (∃ (s : State), hasStack s 19 = true ∧ getF s (pgCal s.member 19) F.CAL_TRSTAT_BUSY = 1 ∧ getF s (pgCal s.member 19)
      F.CAL_TRCTL_ALL = 0 ∧ getF s (pgCal s.member 19) F.CAL_TRCTL_MODE = 2 ∧ (s.stack 19).aborting = false ∧ (∀ (x : WireRun), x ∈
      [{ wire := 7, points := [0, 0] }] → ∀ (n : Nat), n ∈ x.points → n = 0))
    ∧ (∃ (s : State), hasStack s 19 = true ∧ fld 0 9 2 ≠ 3 ∧ getF s (pgCal s.member 19) F.CAL_TRSTAT_BUSY = 1 ∧ (bitOf 0 16 = true ∨
      bitOf 0 0 = false))
    ∧ (∃ (s : State), hasStack s 19 = true ∧ bitOf 63 0 = true ∧ bitOf 63 16 = false ∧ bitOf 63 17 = false ∧ fld 63 9 2 ≠ 3 ∧ inTest s
      19 = false ∧ (allMemory s 19 = false ∨ srState s 19 ≠ 0 ∧ srState s 19 ≠ 2)) :=
  ⟨⟨inTest19 0 false, by decide +kernel⟩, ⟨inTest19 1 false, by decide +kernel⟩, ⟨inTest19 1 false, by decide +kernel⟩, ⟨setF
    (inTest19 0 false) (pgStk Member.zh8c 19) F.STK_SRCTL_SR_STATE 2, by decide +kernel⟩, ⟨upStack 19 trainedStack,
    by decide +kernel⟩, ⟨sweeping, by decide +kernel⟩, ⟨inTest19 1 false, by decide +kernel⟩, ⟨refreshing 1 0, by decide +kernel⟩⟩

/-- States and operands that meet the hypotheses of SkylarkAndWindows, clause by clause. -/
theorem witness_SkylarkAndWindows :
    (∃ (s : State), hasCh s 19 31 = true ∧ 63 < 64 ∧ getF s (pgDctl s.member 19 31) F.DCTL_REFSTAT_WINDOW = 1 ∧ (wireOf s 19 31
      63).readDly - 8 < 57 ∧ 57 ≤ 71 ∧ 71 < (wireOf s 19 31 63).readDly + 8 ∧ 71 < 127 ∧ 2 * getF s (pgCal s.member 19)
      F.CAL_SKYCFG_MARGIN_MIN ≤ 71 - 57 + 1 ∧ (wireOf s 19 31 63).writeDly = (wireOf s 19 31 63).readDly)
    ∧ (∃ (s : State), hasCh s 19 31 = true ∧ 63 < 64 ∧ skylarkRuns s 19 = true)
    ∧ (∃ (s : State), hasCh s 19 31 = true ∧ 63 < 64 ∧ chState s 19 31 = 0 ∧ windowReady s 19 31 = true ∧ bursting s 19 31 = false)
    ∧ (∃ (s : State), hasCh s 19 31 = true ∧ 63 < 64 ∧ skylarkRuns s 19 = true ∧ ¬max 1 (getF s (pgCal s.member 19)
      F.CAL_SKYCFG_STEP_US) ≤ s.us - (wireOf s 19 31 63).rdUs)
    ∧ (∃ (s : State), hasCh s 19 31 = true ∧ 63 < 64 ∧ skylarkRuns s 19 = true ∧ max 1 (getF s (pgCal s.member 19)
      F.CAL_SKYCFG_STEP_US) ≤ s.us - (wireOf s 19 31 63).wrUs ∧ 2 * (wireOf s 19 31 63).wrAbove < (wireOf s 19 31 63).wrBelow ∧ 16 ≤
      (wireOf s 19 31 63).wrBelow ∧ (wireOf s 19 31 63).writeDly < 127)
    ∧ (∃ (s : State), ∃ a, a = getF s (pgCal s.member 19) F.CAL_SKYCFG_OFFSET ∧ hasCh s 19 31 = true ∧ 63 < 64 ∧ skylarkRuns s 19 =
      true ∧ max 1 (getF s (pgCal s.member 19) F.CAL_SKYCFG_STEP_US) ≤ s.us - (wireOf s 19 31 63).rdUs ∧ 2 * ((wireOf s 19 31
      63).rdAbove + [].getD a 0) < (wireOf s 19 31 63).rdBelow + (List.replicate 16 20).getD a 0 ∧ 16 ≤ (wireOf s 19 31 63).rdBelow +
      (List.replicate 16 20).getD a 0 ∧ (wireOf s 19 31 63).readDly < 127)
    ∧ (∃ (s : State), ∃ a, a = getF s (pgCal s.member 19) F.CAL_SKYCFG_OFFSET ∧ hasCh s 19 31 = true ∧ 63 < 64 ∧ skylarkRuns s 19 =
      true ∧ max 1 (getF s (pgCal s.member 19) F.CAL_SKYCFG_STEP_US) ≤ s.us - (wireOf s 19 31 63).rdUs ∧ 2 * ((wireOf s 19 31
      63).rdBelow + [].getD a 0) < (wireOf s 19 31 63).rdAbove + (List.replicate 16 20).getD a 0 ∧ 16 ≤ (wireOf s 19 31 63).rdAbove +
      (List.replicate 16 20).getD a 0 ∧ 0 < (wireOf s 19 31 63).readDly ∧ (wireOf s 19 31 63).readDly ≤ 127)
    ∧ (∃ (s : State), ∃ a, a = getF s (pgCal s.member 19) F.CAL_SKYCFG_OFFSET ∧ hasCh s 19 31 = true ∧ 63 < 64 ∧ skylarkRuns s 19 =
      true ∧ max 1 (getF s (pgCal s.member 19) F.CAL_SKYCFG_STEP_US) ≤ s.us - (wireOf s 19 31 63).rdUs ∧ ((wireOf s 19 31 63).rdBelow
      + [].getD a 0 ≤ 2 * ((wireOf s 19 31 63).rdAbove + [].getD a 0) ∧ (wireOf s 19 31 63).rdAbove + [].getD a 0 ≤ 2 * ((wireOf s 19
      31 63).rdBelow + [].getD a 0) ∨ (wireOf s 19 31 63).rdBelow + [].getD a 0 < 16 ∧ (wireOf s 19 31 63).rdAbove + [].getD a 0 <
      16))
    ∧ (∃ (s : State), hasCh s 19 31 = true ∧ 63 < 64 ∧ (bursting s 19 31 = true ∨ chState s 19 31 = 2) ∧ (s.chan 19 31).breath =
      false)
    ∧ (∃ (s : State), hasCh s 19 31 = true ∧ 63 < 64 ∧ skylarkRuns s 19 = true)
    ∧ (∃ (s : State), hasCh s 19 31 = true ∧ 63 < 64 ∧ skylarkRuns s 19 = false)
    ∧ (∃ (s : State), hasCh s 19 31 = true ∧ 63 < 64 ∧ skylarkRuns s 19 = false) :=
  ⟨⟨windowed 1, by decide +kernel⟩, ⟨wired, by decide +kernel⟩, ⟨windowed 0, by decide +kernel⟩, ⟨counting 5 0 0, by decide +kernel⟩,
    ⟨counting 1000 33 16, by decide +kernel⟩, ⟨counting 1000 0 0, _, rfl, by decide +kernel⟩, ⟨counting 1000 0 0, _, rfl,
    by decide +kernel⟩, ⟨counting 1000 0 0, _, rfl, by decide +kernel⟩, ⟨burst (windowed 1) 3, by decide +kernel⟩, ⟨wired,
    by decide +kernel⟩, ⟨inTest19 0 false, by decide +kernel⟩, ⟨inTest19 0 false, by decide +kernel⟩⟩

/-- States and operands that meet the hypotheses of ChannelModesAndBreathers, clause by clause. -/
theorem witness_ChannelModesAndBreathers :
    (∃ (s : State), hasCh s 19 31 = true ∧ chState s 19 31 = 0 ∧ fld 268435457 0 2 = 1 ∧ validOwner s (fld 268435457 16 16) = true ∧
      ¬pgSrl s.member 19 31 ∈ s.disabled)
    ∧ (∃ (s : State), hasCh s 19 31 = true ∧ chState s 19 31 = 1 ∧ queued s 19 31 = 0 ∧ bursting s 19 31 = false ∧ stackOpen s 19 =
      true ∧ getF s (pgDctl s.member 19 31) F.DCTL_REFSTAT_WINDOW = 0 ∧ (s.chan 19 31).intake = [])
    ∧ (∃ (s : State), hasCh s 19 31 = true ∧ chState s 19 31 = 2 ∧ breatherDue s 19 31 = true ∧ (∀ (b : Nat), b < 16 → unitRuns
      (s.unit (unitOf 19 31 b)) = false))
    ∧ (∃ (s : State), hasCh s 19 31 = true ∧ (s.chan 19 31).breath = true ∧ (s.chan 19 31).toRelease = 0 ∧ queued s 19 31 = 0 ∧ owed s
      19 31 = 0 ∧ bursting s 19 31 = false)
    ∧ (∃ (s : State), hasCh s 19 31 = true ∧ chState s 19 31 = 4 ∧ (s.chan 19 31).breath = false ∧ (∀ (b : Nat), b < 16 → atRest
      (s.unit (unitOf 19 31 b)) = true) ∧ (s.chan 19 31).parked = [])
    ∧ (∃ (s : State), hasCh s 19 31 = true ∧ chState s 19 31 = 4 ∧ (s.chan 19 31).breath = false ∧ (∀ (b : Nat), b < 16 → atRest
      (s.unit (unitOf 19 31 b)) = true) ∧ (s.chan 19 31).parked = [req 12288 rowPa] ∧ hasRoom s (req 12288 rowPa) = false)
    ∧ (∃ (s : State) (x : Pkt), hasPort s 11 = true ∧ backed s.member x.pa = true ∧ inHole s x.pa = false ∧ inSystem x.pa = false ∧
      halted s = false ∧ chState s (paStack x.pa) (paCh x.pa) = 0)
    ∧ (∃ (s : State), hasCh s 19 31 = true ∧ (chState s 19 31 = 1 ∨ chState s 19 31 = 4))
    ∧ (∃ (s : State), hasCh s 19 31 = true ∧ chState s 19 31 ≠ 1 ∧ chState s 19 31 ≠ 4 ∧ 2 ≤ fld 268435459 0 2)
    ∧ (∃ (s : State), hasCh s 19 31 = true ∧ chState s 19 31 ≠ 1 ∧ chState s 19 31 ≠ 4 ∧ fld 1879048193 0 2 = 1 ∧ validOwner s (fld
      1879048193 16 16) = false)
    ∧ (∃ (s : State) (x : Pkt), hasPort s 11 = true ∧ backed s.member x.pa = true ∧ inHole s x.pa = false ∧ inSystem x.pa = false ∧
      halted s = false ∧ chState s (paStack x.pa) (paCh x.pa) = 2 ∧ chOwner s (paStack x.pa) (paCh x.pa) = 20480) :=
  ⟨⟨up, by decide +kernel⟩, ⟨moded up 19 31 1 4096, by decide +kernel⟩, ⟨setF (moded up 19 31 2 4096) (pgDctl Member.zh8c 19 31)
    F.DCTL_REFSTAT_OWED 4, by decide +kernel⟩, ⟨moded (upChan 19 31 { breath := true }) 19 31 3 4096, by decide +kernel⟩, ⟨moded up 19
    31 4 4096, by decide +kernel⟩, ⟨stuckExit, by decide +kernel⟩, ⟨up, accPkt, by decide +kernel⟩, ⟨moded up 19 31 1 4096,
    by decide +kernel⟩, ⟨up, by decide +kernel⟩, ⟨up, by decide +kernel⟩, ⟨moded up 19 31 2 20480, accPkt, by decide +kernel⟩⟩

/-- States and operands that meet the hypotheses of CommandWindow, clause by clause. -/
theorem witness_CommandWindow :
    (∃ (s : State) (x : CmdAt), hasBank s x.stack x.ch x.bank = true ∧ (chState s x.stack x.ch = 2 ∨ chState s x.stack x.ch = 3) ∧
      x.src = chOwner s x.stack x.ch ∧ (s.chan x.stack x.ch).held = [] ∧ (x.src / 4096 = 2 → releaseIsolated s 0 = false ∧ x.stack ≠
      0) ∧ intakeIsolated s x.stack x.ch x.src = false ∧ (s.unit (unitOf x.stack x.ch x.bank)).run = none ∧ 255 + [some 90].length ≤
      512)
    ∧ (∃ (s : State) (x : CmdAt), hasBank s x.stack x.ch x.bank = true ∧ (chState s x.stack x.ch = 2 ∨ chState s x.stack x.ch = 3) ∧
      x.src = chOwner s x.stack x.ch ∧ (s.chan x.stack x.ch).held = [] ∧ (x.src / 4096 = 2 → releaseIsolated s 0 = false ∧ x.stack ≠
      0) ∧ intakeIsolated s x.stack x.ch x.src = false ∧ (s.unit (unitOf x.stack x.ch x.bank)).run = none ∧ 255 + [some 90].length ≤
      256)
    ∧ (∃ (s : State) (x : CmdAt), hasBank s x.stack x.ch x.bank = true ∧ (chState s x.stack x.ch = 2 ∨ chState s x.stack x.ch = 3) ∧
      x.src = chOwner s x.stack x.ch ∧ (s.chan x.stack x.ch).held = [] ∧ (x.src / 4096 = 2 → releaseIsolated s 0 = false ∧ x.stack ≠
      0) ∧ intakeIsolated s x.stack x.ch x.src = false ∧ (s.unit (unitOf x.stack x.ch x.bank)).run = none ∧ 24 + [some 1, none, some
      2, some 3, some 4, some 5, some 6, some 7].length ≤ 56)
    ∧ (∃ (s : State) (x : CmdAt), hasBank s x.stack x.ch x.bank = true ∧ (chState s x.stack x.ch = 2 ∨ chState s x.stack x.ch = 3) ∧
      x.src = chOwner s x.stack x.ch ∧ (s.chan x.stack x.ch).held = [] ∧ (x.src / 4096 = 2 → releaseIsolated s 0 = false ∧ x.stack ≠
      0) ∧ intakeIsolated s x.stack x.ch x.src = false ∧ (s.unit (unitOf x.stack x.ch x.bank)).run = none ∧ 24 + [some 1, none, some
      2, some 3, some 4, some 5, some 6, some 7].length ≤ 64)
    ∧ (∃ (s : State) (x : CmdAt), ∃ a, a = s.unit (unitOf x.stack x.ch x.bank) ∧ hasBank s x.stack x.ch x.bank = true ∧ x.src =
      chOwner s x.stack x.ch ∧ (s.chan x.stack x.ch).held = [] ∧ (chState s x.stack x.ch = 2 ∨ chState s x.stack x.ch = 3 ∨ chState s
      x.stack x.ch = 4) ∧ (x.src / 4096 = 2 → releaseIsolated s 0 = false ∧ x.stack ≠ 0) ∧ intakeIsolated s x.stack x.ch x.src = false
      ∧ bitOf 1 0 = true ∧ chState s x.stack x.ch = 4 ∧ (a.slot (swathOf a.cmd0 a.cmd1).slot).state ≠ 1)
    ∧ (∃ (s : State) (x : CmdAt), ∃ a, a = s.unit (unitOf x.stack x.ch x.bank) ∧ hasBank s x.stack x.ch x.bank = true ∧ x.src =
      chOwner s x.stack x.ch ∧ (s.chan x.stack x.ch).held = [] ∧ (chState s x.stack x.ch = 2 ∨ chState s x.stack x.ch = 3 ∨ chState s
      x.stack x.ch = 4) ∧ (x.src / 4096 = 2 → releaseIsolated s 0 = false ∧ x.stack ≠ 0) ∧ intakeIsolated s x.stack x.ch x.src = false
      ∧ bitOf 1 0 = true ∧ chState s x.stack x.ch ≠ 4 ∧ a.run = none ∧ (List.filter (fun x => x.acc.isNone) a.queue).length < 2 ∧
      (a.slot (swathOf a.cmd0 a.cmd1).slot).state ≠ 1 ∧ launchCode s x.stack a (swathOf a.cmd0 a.cmd1) = launchCode s x.stack a
      (swathOf a.cmd0 a.cmd1) ∧ launchCode s x.stack a (swathOf a.cmd0 a.cmd1) ≠ 0)
    ∧ (∃ (s : State) (x : CmdAt), ∃ a, a = s.unit (unitOf x.stack x.ch x.bank) ∧ hasBank s x.stack x.ch x.bank = true ∧ x.src =
      chOwner s x.stack x.ch ∧ (s.chan x.stack x.ch).held = [] ∧ (chState s x.stack x.ch = 2 ∨ chState s x.stack x.ch = 3 ∨ chState s
      x.stack x.ch = 4) ∧ (x.src / 4096 = 2 → releaseIsolated s 0 = false ∧ x.stack ≠ 0) ∧ intakeIsolated s x.stack x.ch x.src = false
      ∧ bitOf 1 0 = true ∧ chState s x.stack x.ch ≠ 4 ∧ a.run = none ∧ (List.filter (fun x => x.acc.isNone) a.queue).length < 2 ∧
      (a.slot (swathOf a.cmd0 a.cmd1).slot).state ≠ 1 ∧ launchCode s x.stack a (swathOf a.cmd0 a.cmd1) = 0)
    ∧ (∃ (s : State) (x : CmdAt), hasBank s x.stack x.ch x.bank = true ∧ x.src = chOwner s x.stack x.ch ∧ (s.chan x.stack x.ch).held =
      [] ∧ (chState s x.stack x.ch = 2 ∨ chState s x.stack x.ch = 3 ∨ chState s x.stack x.ch = 4) ∧ (x.src / 4096 = 2 →
      releaseIsolated s 0 = false ∧ x.stack ≠ 0) ∧ intakeIsolated s x.stack x.ch x.src = false ∧ bitOf 0 0 = false) :=
  ⟨⟨owned { }, cmdAt, by decide +kernel⟩, ⟨owned { }, cmdAt, by decide +kernel⟩, ⟨ownedIn 3 { }, cmdAt, by decide +kernel⟩, ⟨ownedIn 3
    { }, cmdAt, by decide +kernel⟩, ⟨ownedIn 4 (cmdUnit 1), cmdAt, _, rfl, by decide +kernel⟩, ⟨owned (cmdUnit 0), cmdAt, _, rfl,
    by decide +kernel⟩, ⟨owned (cmdUnit 1), cmdAt, _, rfl, by decide +kernel⟩, ⟨owned (cmdUnit 1), cmdAt, by decide +kernel⟩⟩

/-- States and operands that meet the hypotheses of CommandReadsAndBroadcasts, clause by clause. -/
theorem witness_CommandReadsAndBroadcasts :
    (∃ (s : State) (x : CmdAt), hasBank s x.stack x.ch x.bank = true ∧ (chState s x.stack x.ch = 2 ∨ chState s x.stack x.ch = 3) ∧
      x.src = chOwner s x.stack x.ch ∧ x.src / 4096 = 1 ∧ (s.chan x.stack x.ch).held = [] ∧ intakeIsolated s x.stack x.ch x.src =
      false ∧ 7 < 8 ∧ 2 < 3)
    ∧ (∃ (s : State) (x : CmdAt), hasBank s x.stack x.ch x.bank = true ∧ (chState s x.stack x.ch = 2 ∨ chState s x.stack x.ch = 3) ∧
      x.src = chOwner s x.stack x.ch ∧ (s.chan x.stack x.ch).held = [] ∧ 511 + [some 90].length ≤ 512 ∧ [some 90] ≠ [] ∧ (x.src / 4096
      = 2 → releaseIsolated s 0 = false ∧ x.stack ≠ 0) ∧ intakeIsolated s x.stack x.ch x.src = false ∧ (∀ (b : Nat), b < 16 → (s.unit
      (unitOf x.stack x.ch b)).run = none)) :=
  ⟨⟨owned (endUnit 0 0), cmdAt, by decide +kernel⟩, ⟨owned (cmdUnit 1), cmdAt, by decide +kernel⟩⟩

/-- States and operands that meet the hypotheses of SwathsRun, clause by clause. -/
theorem witness_SwathsRun :
    (∃ (s : State) (x : Running), hasUnit s lastUnit = true ∧ (s.unit lastUnit).run = some x ∧ (s.unit lastUnit).corr = none ∧
      x.paused = false ∧ x.stop = false ∧ x.stored = [] ∧ x.sw.acc = none ∧ (s.unit lastUnit).wipe = false ∧ x.sw.colFirst +
      x.sw.colCount ≤ x.chunk ∧ (s.chan (unitStack lastUnit) (unitCh lastUnit)).held = [] ∧ x.sw.rowCount ≤ x.rowIdx + 1)
    ∧ (∃ (s : State), hasUnit s lastUnit = true ∧ (s.chan (unitStack lastUnit) (unitCh lastUnit)).held = [] ∧ (s.unit lastUnit).run =
      some swathRun ∧ swathRun.paused = false ∧ swathRun.cause = 0)
    ∧ (∃ (s : State), hasUnit s lastUnit = true ∧ (s.chan (unitStack lastUnit) (unitCh lastUnit)).held = [] ∧ (s.unit lastUnit).run =
      none ∧ (s.unit lastUnit).queue = [swath] ∧ swath.acc = none ∧ chState s (unitStack lastUnit) (unitCh lastUnit) = 2 ∧
      breatherCond s (unitStack lastUnit) (unitCh lastUnit) swath.cool = true)
    ∧ (∃ (s : State) (x : Running), hasUnit s lastUnit = true ∧ (s.unit lastUnit).run = some x ∧ (s.unit lastUnit).corr = none ∧
      x.paused = false ∧ x.stop = false ∧ x.stored = [] ∧ x.sw.acc = none ∧ (s.unit lastUnit).wipe = false ∧ x.sw.colFirst +
      x.sw.colCount ≤ x.chunk ∧ (s.chan (unitStack lastUnit) (unitCh lastUnit)).held = [] ∧ x.rowIdx + 1 < x.sw.rowCount ∧ x.cause = 0
      ∧ srlFrozen s (unitStack lastUnit) (unitCh lastUnit) = false)
    ∧ (∃ (s : State) (x : Running), hasUnit s lastUnit = true ∧ (s.unit lastUnit).run = some x ∧ (s.unit lastUnit).corr = some (2 ^ 30
      * 19))
    ∧ (∃ (s : State) (x : Running), hasUnit s lastUnit = true ∧ (s.unit lastUnit).run = some x ∧ x.stored ≠ [] ∧ cacheFull s
      (unitStack lastUnit) (unitCh lastUnit) = true ∧ cached s
      { st := unitStack lastUnit, ch := unitCh lastUnit, bank := unitBank lastUnit, row := swathRow x.sw x.rowIdx } = false)
    ∧ (∃ (s : State), hasUnit s lastUnit = true ∧ (s.chan (unitStack lastUnit) (unitCh lastUnit)).held = [] ∧ (s.unit lastUnit).run =
      some pausedRun ∧ pausedRun.paused = true ∧ chState s (unitStack lastUnit) (unitCh lastUnit) = 2 ∧ breatherCond s (unitStack
      lastUnit) (unitCh lastUnit) pausedRun.cool = false ∧ srlFrozen s (unitStack lastUnit) (unitCh lastUnit) = false)
    ∧ (∃ (s : State), hasUnit s lastUnit = true ∧ (s.chan (unitStack lastUnit) (unitCh lastUnit)).held = [] ∧ (s.unit lastUnit).run =
      none ∧ (s.unit lastUnit).queue = [swath] ∧ swath.acc = none ∧ chState s (unitStack lastUnit) (unitCh lastUnit) = 2 ∧
      breatherCond s (unitStack lastUnit) (unitCh lastUnit) swath.cool = false ∧ srlFrozen s (unitStack lastUnit) (unitCh lastUnit) =
      false)
    ∧ (∃ (s : State) (x : Running), hasUnit s lastUnit = true ∧ (s.unit lastUnit).run = some x ∧ (s.unit lastUnit).corr = none ∧
      x.paused = false ∧ x.stop = false ∧ x.stored = [] ∧ x.sw.acc = none ∧ (s.unit lastUnit).wipe = false ∧ x.sw.colFirst +
      x.sw.colCount ≤ x.chunk ∧ (s.chan (unitStack lastUnit) (unitCh lastUnit)).held = [] ∧ x.rowIdx + 1 < x.sw.rowCount ∧ x.cause ≠ 0
      ∧ x.cause < 4 ∧ chState s (unitStack lastUnit) (unitCh lastUnit) = 2) :=
  ⟨⟨owned (endUnit 1 0), Tests.endRun 1 0, by decide +kernel⟩, ⟨owned { run := some swathRun }, by decide +kernel⟩, ⟨setF (owned
    queuedUnit) (pgDctl Member.zh8c 19 31) F.DCTL_REFSTAT_OWED 4, by decide +kernel⟩, ⟨owned (endUnit 0 0), Tests.endRun 0 0,
    by decide +kernel⟩, ⟨owned corrUnit, swathRun, by decide +kernel⟩, ⟨fullCache, storedRun, by decide +kernel⟩, ⟨owned pausedUnit,
    by decide +kernel⟩, ⟨owned queuedUnit, by decide +kernel⟩, ⟨owned (endUnit 0 3), Tests.endRun 0 3, by decide +kernel⟩⟩

/-- States and operands that meet the hypotheses of SorrelRegisterWords, clause by clause. -/
theorem witness_SorrelRegisterWords :
    (∃ (s : State) (x : SCtx) (y : SrlF), atWord s lastUnit x 0 0 y ∧ hasUnit s lastUnit = true ∧ chunkCond x y.cnd.toNat x.r.chunk =
      true)
    ∧ (∃ (s : State) (x : SCtx) (y : SrlF), atWord s lastUnit x 0 4 y ∧ hasUnit s lastUnit = true ∧ chunkCond x y.cnd.toNat x.r.chunk
      = true)
    ∧ (∃ (s : State) (x : SCtx) (y : SrlF), atWord s lastUnit x 0 5 y ∧ hasUnit s lastUnit = true ∧ chunkCond x y.cnd.toNat x.r.chunk
      = true)
    ∧ (∃ (s : State) (x : SCtx) (y : SrlF), atWord s lastUnit x 0 6 y ∧ hasUnit s lastUnit = true ∧ chunkCond x y.cnd.toNat x.r.chunk
      = true)
    ∧ (∃ (s : State) (x : SCtx) (y : SrlF), atWord s lastUnit x 0 7 y ∧ hasUnit s lastUnit = true ∧ chunkCond x y.cnd.toNat x.r.chunk
      = true)
    ∧ (∃ (s : State) (x : SCtx) (y : SrlF), atWord s lastUnit x 0 19 y ∧ hasUnit s lastUnit = true ∧ chunkCond x y.cnd.toNat x.r.chunk
      = true)
    ∧ (∃ (s : State) (x : SCtx) (y : SrlF), atWord s lastUnit x 0 20 y ∧ hasUnit s lastUnit = true ∧ chunkCond x y.cnd.toNat x.r.chunk
      = true)
    ∧ (∃ (s : State) (x : SCtx) (y : SrlF), atWord s lastUnit x 0 8 y ∧ hasUnit s lastUnit = true ∧ chunkCond x y.cnd.toNat x.r.chunk
      = false)
    ∧ (∃ (s : State) (x : SCtx) (y : SrlF), atWord s lastUnit x 0 1 y ∧ hasUnit s lastUnit = true ∧ chunkCond x y.cnd.toNat x.r.chunk
      = false)
    ∧ (∃ (s : State) (x : SCtx) (y : SrlF), atWord s lastUnit x 0 4 y ∧ hasUnit s lastUnit = true ∧ chunkCond x y.cnd.toNat x.r.chunk
      = false)
    ∧ (∃ (s : State) (x : SCtx) (y : SrlF), atWord s lastUnit x 0 24 y ∧ hasUnit s lastUnit = true ∧ chunkCond x y.cnd.toNat x.r.chunk
      = false)
    ∧ (∃ (s : State), hasUnit s lastUnit = true ∧ srlCtx s lastUnit = none)
    ∧ (∃ (s : State) (x : SCtx) (y : SrlF), atWord s lastUnit x 0 8 y ∧ hasUnit s lastUnit = true ∧ chunkCond x y.cnd.toNat x.r.chunk
      = true ∧ arithType (y.m.toNat % 8) = false)
    ∧ (∃ (s : State) (x : SCtx) (y : SrlF), atWord s lastUnit x 0 9 y ∧ hasUnit s lastUnit = true) :=
  ⟨⟨wordState 0 (sorrelF 0 0) 7 4, wordCtx 0 (sorrelF 0 0) 7 4, sorrelF 0 0, atWord_of (by decide +kernel), by decide +kernel⟩,
    ⟨wordState 4 (sorrelF 0 0) 7 4, wordCtx 4 (sorrelF 0 0) 7 4, sorrelF 0 0, atWord_of (by decide +kernel), by decide +kernel⟩,
    ⟨wordState 5 (sorrelF 0 0) 7 4, wordCtx 5 (sorrelF 0 0) 7 4, sorrelF 0 0, atWord_of (by decide +kernel), by decide +kernel⟩,
    ⟨wordState 6 (sorrelF 0 0) 7 4, wordCtx 6 (sorrelF 0 0) 7 4, sorrelF 0 0, atWord_of (by decide +kernel), by decide +kernel⟩,
    ⟨wordState 7 (sorrelF 0 0) 7 4, wordCtx 7 (sorrelF 0 0) 7 4, sorrelF 0 0, atWord_of (by decide +kernel), by decide +kernel⟩,
    ⟨wordState 19 (sorrelF 0 0) 7 4, wordCtx 19 (sorrelF 0 0) 7 4, sorrelF 0 0, atWord_of (by decide +kernel), by decide +kernel⟩,
    ⟨wordState 20 (sorrelF 0 0) 7 4, wordCtx 20 (sorrelF 0 0) 7 4, sorrelF 0 0, atWord_of (by decide +kernel), by decide +kernel⟩,
    ⟨wordState 8 (sorrelF 1 0) 7 4, wordCtx 8 (sorrelF 1 0) 7 4, sorrelF 1 0, atWord_of (by decide +kernel), by decide +kernel⟩,
    ⟨wordState 1 (sorrelF 1 0) 7 4, wordCtx 1 (sorrelF 1 0) 7 4, sorrelF 1 0, atWord_of (by decide +kernel), by decide +kernel⟩,
    ⟨wordState 4 (sorrelF 1 0) 7 4, wordCtx 4 (sorrelF 1 0) 7 4, sorrelF 1 0, atWord_of (by decide +kernel), by decide +kernel⟩,
    ⟨wordState 24 (sorrelF 1 0) 7 4, wordCtx 24 (sorrelF 1 0) 7 4, sorrelF 1 0, atWord_of (by decide +kernel), by decide +kernel⟩,
    ⟨accState, by decide +kernel⟩, ⟨wordState 8 (sorrelF 0 7) 7 4, wordCtx 8 (sorrelF 0 7) 7 4, sorrelF 0 7, atWord_of
    (by decide +kernel), by decide +kernel⟩, ⟨wordState 9 (sorrelF 0 0) 7 4, wordCtx 9 (sorrelF 0 0) 7 4, sorrelF 0 0, atWord_of
    (by decide +kernel), by decide +kernel⟩⟩

/-- States and operands that meet the hypotheses of SorrelLaneInstructions, clause by clause. -/
theorem witness_SorrelLaneInstructions :
    (∃ (s : State) (x : SCtx) (y : SrlF), atWord s lastUnit x 0 16 y ∧ hasUnit s lastUnit = true ∧ chunkCond x y.cnd.toNat x.r.chunk =
      true ∧ (tget { } (s.unit lastUnit).v y.a.toNat).poison = false ∧ (tget { } (s.unit lastUnit).v y.b.toNat).poison = false ∧ (tget
      { } (s.unit lastUnit).v y.c.toNat).poison = false)
    ∧ (∃ (s : State) (x : SCtx) (y : SrlF), atWord s lastUnit x 0 11 y ∧ hasUnit s lastUnit = true ∧ chunkCond x y.cnd.toNat x.r.chunk
      = true ∧ (tget { } (s.unit lastUnit).v y.a.toNat).poison = false ∧ (tget { } (s.unit lastUnit).v y.b.toNat).poison = false ∧
      (tget { } (s.unit lastUnit).v y.c.toNat).poison = false ∧ y.m.toNat % 8 < 3)
    ∧ (∃ (s : State) (x : SCtx) (y : SrlF), atWord s lastUnit x 0 8 y ∧ hasUnit s lastUnit = true ∧ chunkCond x y.cnd.toNat x.r.chunk
      = true ∧ (tget { } (s.unit lastUnit).v y.a.toNat).poison = false ∧ (tget { } (s.unit lastUnit).v y.b.toNat).poison = false ∧
      (tget { } (s.unit lastUnit).v y.c.toNat).poison = false ∧ arithType (y.m.toNat % 8) = true)
    ∧ (∃ (s : State) (x : SCtx) (y : SrlF), atWord s lastUnit x 0 9 y ∧ hasUnit s lastUnit = true ∧ chunkCond x y.cnd.toNat x.r.chunk
      = true ∧ (tget { } (s.unit lastUnit).v y.a.toNat).poison = false ∧ (tget { } (s.unit lastUnit).v y.b.toNat).poison = false ∧
      (tget { } (s.unit lastUnit).v y.c.toNat).poison = false ∧ arithType (y.m.toNat % 8) = true)
    ∧ (∃ (s : State) (x : SCtx) (y : SrlF), atWord s lastUnit x 0 10 y ∧ hasUnit s lastUnit = true ∧ chunkCond x y.cnd.toNat x.r.chunk
      = true ∧ (tget { } (s.unit lastUnit).v y.a.toNat).poison = false ∧ (tget { } (s.unit lastUnit).v y.b.toNat).poison = false ∧
      (tget { } (s.unit lastUnit).v y.c.toNat).poison = false ∧ arithType (y.m.toNat % 8) = true)
    ∧ (∃ (s : State) (x : SCtx) (y : SrlF), atWord s lastUnit x 0 12 y ∧ hasUnit s lastUnit = true ∧ chunkCond x y.cnd.toNat x.r.chunk
      = true ∧ (tget { } (s.unit lastUnit).v y.a.toNat).poison = false ∧ (tget { } (s.unit lastUnit).v y.b.toNat).poison = false ∧
      (tget { } (s.unit lastUnit).v y.c.toNat).poison = false ∧ arithType (y.m.toNat % 8) = true)
    ∧ (∃ (s : State) (x : SCtx) (y : SrlF), atWord s lastUnit x 0 13 y ∧ hasUnit s lastUnit = true ∧ chunkCond x y.cnd.toNat x.r.chunk
      = true ∧ (tget { } (s.unit lastUnit).v y.a.toNat).poison = false ∧ (tget { } (s.unit lastUnit).v y.b.toNat).poison = false ∧
      (tget { } (s.unit lastUnit).v y.c.toNat).poison = false ∧ arithType (y.m.toNat % 8) = true)
    ∧ (∃ (s : State) (x : SCtx) (y : SrlF), atWord s lastUnit x 0 15 y ∧ hasUnit s lastUnit = true ∧ chunkCond x y.cnd.toNat x.r.chunk
      = true ∧ (tget { } (s.unit lastUnit).v y.a.toNat).poison = false ∧ (tget { } (s.unit lastUnit).v y.b.toNat).poison = false ∧
      (tget { } (s.unit lastUnit).v y.c.toNat).poison = false ∧ arithType (y.m.toNat % 8) = true)
    ∧ (∃ (s : State) (x : SCtx) (y : SrlF), atWord s lastUnit x 0 14 y ∧ hasUnit s lastUnit = true ∧ chunkCond x y.cnd.toNat x.r.chunk
      = true ∧ (tget { } (s.unit lastUnit).v y.a.toNat).poison = false ∧ (tget { } (s.unit lastUnit).v y.b.toNat).poison = false ∧
      (tget { } (s.unit lastUnit).v y.c.toNat).poison = false ∧ arithType (y.m.toNat % 8) = true ∧ y.m.toNat / 8 ≠ 7)
    ∧ (∃ (s : State) (x : SCtx) (y : SrlF), atWord s lastUnit x 0 18 y ∧ hasUnit s lastUnit = true ∧ chunkCond x y.cnd.toNat x.r.chunk
      = true ∧ (tget { } (s.unit lastUnit).v y.a.toNat).poison = false ∧ (tget { } (s.unit lastUnit).v y.b.toNat).poison = false ∧
      (tget { } (s.unit lastUnit).v y.c.toNat).poison = false ∧ arithType (y.m.toNat % 8) = true ∧ y.m.toNat / 8 % 4 ≠ 3)
    ∧ (∃ (s : State) (x : SCtx) (y : SrlF), atWord s lastUnit x 0 17 y ∧ hasUnit s lastUnit = true ∧ chunkCond x y.cnd.toNat x.r.chunk
      = true ∧ (tget { } (s.unit lastUnit).v y.a.toNat).poison = false ∧ (tget { } (s.unit lastUnit).v y.b.toNat).poison = false ∧
      (tget { } (s.unit lastUnit).v y.c.toNat).poison = false ∧ y.m.toNat % 8 ≠ 7 ∧ y.b.toNat % 8 ≠ 7 ∧ y.m.toNat / 8 % 4 ≠ 3 ∧
      tyBytes (y.b.toNat % 8) = tyBytes (y.m.toNat % 8))
    ∧ (∃ (s : State) (x : SCtx) (y : SrlF), atWord s lastUnit x 0 17 y ∧ hasUnit s lastUnit = true ∧ chunkCond x y.cnd.toNat x.r.chunk
      = true ∧ (tget { } (s.unit lastUnit).v y.a.toNat).poison = false ∧ (tget { } (s.unit lastUnit).v y.b.toNat).poison = false ∧
      (tget { } (s.unit lastUnit).v y.c.toNat).poison = false ∧ y.m.toNat % 8 ≠ 7 ∧ y.b.toNat % 8 ≠ 7 ∧ y.m.toNat / 8 % 4 ≠ 3 ∧
      tyBytes (y.b.toNat % 8) < tyBytes (y.m.toNat % 8))
    ∧ (∃ (s : State) (x : SCtx) (y : SrlF), atWord s lastUnit x 0 17 y ∧ hasUnit s lastUnit = true ∧ chunkCond x y.cnd.toNat x.r.chunk
      = true ∧ (tget { } (s.unit lastUnit).v y.a.toNat).poison = false ∧ (tget { } (s.unit lastUnit).v y.b.toNat).poison = false ∧
      (tget { } (s.unit lastUnit).v y.c.toNat).poison = false ∧ y.m.toNat % 8 ≠ 7 ∧ y.b.toNat % 8 ≠ 7 ∧ y.m.toNat / 8 % 4 ≠ 3 ∧
      tyBytes (y.b.toNat % 8) > tyBytes (y.m.toNat % 8)) :=
  ⟨⟨wordState 16 (sorrelF 0 0) 7 4, wordCtx 16 (sorrelF 0 0) 7 4, sorrelF 0 0, atWord_of (by decide +kernel), by decide +kernel⟩,
    ⟨wordState 11 (sorrelF 0 0) 7 4, wordCtx 11 (sorrelF 0 0) 7 4, sorrelF 0 0, atWord_of (by decide +kernel), by decide +kernel⟩,
    ⟨wordState 8 (sorrelF 0 0) 7 4, wordCtx 8 (sorrelF 0 0) 7 4, sorrelF 0 0, atWord_of (by decide +kernel), by decide +kernel⟩,
    ⟨wordState 9 (sorrelF 0 0) 7 4, wordCtx 9 (sorrelF 0 0) 7 4, sorrelF 0 0, atWord_of (by decide +kernel), by decide +kernel⟩,
    ⟨wordState 10 (sorrelF 0 0) 7 4, wordCtx 10 (sorrelF 0 0) 7 4, sorrelF 0 0, atWord_of (by decide +kernel), by decide +kernel⟩,
    ⟨wordState 12 (sorrelF 0 0) 7 4, wordCtx 12 (sorrelF 0 0) 7 4, sorrelF 0 0, atWord_of (by decide +kernel), by decide +kernel⟩,
    ⟨wordState 13 (sorrelF 0 0) 7 4, wordCtx 13 (sorrelF 0 0) 7 4, sorrelF 0 0, atWord_of (by decide +kernel), by decide +kernel⟩,
    ⟨wordState 15 (sorrelF 0 0) 7 4, wordCtx 15 (sorrelF 0 0) 7 4, sorrelF 0 0, atWord_of (by decide +kernel), by decide +kernel⟩,
    ⟨wordState 14 (sorrelF 0 0) 7 4, wordCtx 14 (sorrelF 0 0) 7 4, sorrelF 0 0, atWord_of (by decide +kernel), by decide +kernel⟩,
    ⟨wordState 18 (sorrelF 0 0) 7 4, wordCtx 18 (sorrelF 0 0) 7 4, sorrelF 0 0, atWord_of (by decide +kernel), by decide +kernel⟩,
    ⟨wordState 17 cvtF 7 4, wordCtx 17 cvtF 7 4, cvtF, atWord_of (by decide +kernel), by decide +kernel⟩,
    ⟨wordState 17 widenF 7 4, wordCtx 17 widenF 7 4, widenF, atWord_of (by decide +kernel), by decide +kernel⟩,
    ⟨wordState 17 narrowF 7 4, wordCtx 17 narrowF 7 4, narrowF, atWord_of (by decide +kernel), by decide +kernel⟩⟩

/-- States and operands that meet the hypotheses of SorrelRowAccesses, clause by clause. -/
theorem witness_SorrelRowAccesses :
    (∃ (s : State) (x : SCtx) (y : SrlF), x.sound s ∧ atWord s lastUnit x 0 3 y ∧ hasUnit s lastUnit = true ∧ chunkCond x y.cnd.toNat
      x.r.chunk = true ∧ storeRole x 0 = some true ∧ y.m.toNat % 4 ≠ 3 ∧ (y.m.toNat % 4 = 2 → x.cls ≠ 0) ∧ x.r.chunk < 64)
    ∧ (∃ (s : State) (x : SCtx) (y : SrlF), x.sound s ∧ atWord s lastUnit x 0 1 y ∧ hasUnit s lastUnit = true ∧ chunkCond x
      y.cnd.toNat x.r.chunk = true ∧ (↑x.r.chunk + sgn 6 y.m.toNat < 0 ∨ 63 < ↑x.r.chunk + sgn 6 y.m.toNat))
    ∧ (∃ (s : State) (x : SCtx) (y : SrlF), x.sound s ∧ atWord s lastUnit x 0 2 y ∧ hasUnit s lastUnit = true ∧ chunkCond x
      y.cnd.toNat x.r.chunk = true ∧ storeRole x 0 = some true ∧ 0 ≤ ↑x.r.chunk + sgn 6 y.m.toNat ∧ ↑x.r.chunk + sgn 6 y.m.toNat ≤ 63)
    ∧ (∃ (s : State) (x : SCtx) (y : SrlF), x.sound s ∧ atWord s lastUnit x 0 2 y ∧ hasUnit s lastUnit = true ∧ chunkCond x
      y.cnd.toNat x.r.chunk = true ∧ storeRole x 0 = some false ∧ (↑x.r.chunk + sgn 6 y.m.toNat < 0 ∨ 63 < ↑x.r.chunk + sgn 6
      y.m.toNat))
    ∧ (∃ (s : State) (x : SCtx) (y : SrlF), x.sound s ∧ atWord s lastUnit x 0 1 y ∧ hasUnit s lastUnit = true ∧ chunkCond x
      y.cnd.toNat x.r.chunk = true ∧ 0 ≤ ↑x.r.chunk + sgn 6 y.m.toNat ∧ ↑x.r.chunk + sgn 6 y.m.toNat ≤ 63 ∧ ¬x.sec (↑x.r.chunk + sgn 6
      y.m.toNat).toNat ∈ s.poison)
    ∧ (∃ (s : State) (x : SCtx) (y : SrlF), x.sound s ∧ atWord s lastUnit x 0 3 y ∧ hasUnit s lastUnit = true ∧ chunkCond x
      y.cnd.toNat x.r.chunk = true ∧ storeRole x 0 = some true ∧ y.m.toNat % 4 = 2 ∧ x.cls = 0)
    ∧ (∃ (s : State) (x : SCtx) (y : SrlF), x.sound s ∧ atWord s lastUnit x 0 34 y ∧ hasUnit s lastUnit = true ∧ chunkCond x
      y.cnd.toNat x.r.chunk = true ∧ storeRole x 0 = some false ∧ y.m.toNat % 8 < 5 ∧ 0 ≤ (x.r.chunk : Int) + sgn 4 y.b.toNat ∧
      (x.r.chunk : Int) + sgn 4 y.b.toNat ≤ 63 ∧ ¬x.sec ((x.r.chunk : Int) + sgn 4 y.b.toNat).toNat ∈ s.poison
      ∧ (tget { } (s.unit lastUnit).v y.a.toNat).poison = false)
    ∧ (∃ (s : State) (x : SCtx) (y : SrlF), x.sound s ∧ atWord s lastUnit x 0 34 y ∧ hasUnit s lastUnit = true ∧ chunkCond x
      y.cnd.toNat x.r.chunk = true ∧ storeRole x 0 = some false ∧ y.m.toNat % 8 < 5 ∧ 63 < (x.r.chunk : Int) + sgn 4 y.b.toNat) :=
  ⟨⟨wordState 3 (sorrelF 0 0) 63 4, wordCtx 3 (sorrelF 0 0) 63 4, sorrelF 0 0, sound_of (by decide +kernel), atWord_of
    (by decide +kernel), by decide +kernel⟩, ⟨wordState 1 (sorrelF 0 63) 0 4, wordCtx 1 (sorrelF 0 63) 0 4, sorrelF 0 63, sound_of
    (by decide +kernel), atWord_of (by decide +kernel), by decide +kernel⟩, ⟨wordState 2 (sorrelF 0 0) 0 4, wordCtx 2 (sorrelF 0 0) 0
    4, sorrelF 0 0, sound_of (by decide +kernel), atWord_of (by decide +kernel), by decide +kernel⟩, ⟨wordState 2 (sorrelF 0 63) 0 4,
    wordCtx 2 (sorrelF 0 63) 0 4, sorrelF 0 63, sound_of (by decide +kernel), atWord_of (by decide +kernel), by decide +kernel⟩,
    ⟨wordState 1 (sorrelF 0 0) 0 4, wordCtx 1 (sorrelF 0 0) 0 4, sorrelF 0 0, sound_of (by decide +kernel), atWord_of
    (by decide +kernel), by decide +kernel⟩, ⟨wordState 3 (sorrelF 0 2) 63 4, wordCtx 3 (sorrelF 0 2) 63 4, sorrelF 0 2, sound_of
    (by decide +kernel), atWord_of (by decide +kernel), by decide +kernel⟩, ⟨wordState 34 (sorrelF 0 3) 60 4, wordCtx 34 (sorrelF 0 3) 60 4,
    sorrelF 0 3, sound_of (by decide +kernel), atWord_of (by decide +kernel), by decide +kernel⟩, ⟨wordState 34 (sorrelF 0 3) 61 4,
    wordCtx 34 (sorrelF 0 3) 61 4, sorrelF 0 3, sound_of (by decide +kernel), atWord_of (by decide +kernel), by decide +kernel⟩⟩

/-- A unit whose next word is an instruction of the Windrow. -/
def windrowAt (s : State) (i : Nat) (k : SCtx) (op : Nat) (f : SrlF) : Prop :=
  atWord s i k 0 op f ∧ hasUnit s i = true ∧ chunkCond k f.cnd.toNat k.r.chunk = true

/-- It, from what the unit's context shows. -/
theorem windrowAt_of {s : State} {i : Nat} {k : SCtx} {op : Nat} {f : SrlF}
    (h : (srlCtx s i = some k ∧ (nextWord k).map (fun p => (p.1, wOp p.2.toNat, wF p.2)) = some (0, op, f))
      ∧ hasUnit s i = true ∧ chunkCond k f.cnd.toNat k.r.chunk = true) : windrowAt s i k op f := ⟨atWord_of h.1, h.2⟩

/-- Operands with the direction DOWN. -/
def downF : SrlF := ⟨0, 0, 1, 2, 3, 5, 0⟩
/-- A unit in the middle of stack 19 with a word towards the unit below it. -/
def downState (op : Nat) (own far : List Chunk) : State :=
  moded { upTile 0 {} with units := [(lastUnit - 2, { fifoDn := far }), (lastUnit - 1, { wordUnit op downF 0 0 with fifoDn := own })] } 19 31 2 0x1000
/-- Its context. -/
def downCtx (op : Nat) (own : List Chunk) : SCtx := ⟨lastUnit - 1, { wordUnit op downF 0 0 with fifoDn := own }, wholeRun 0 0⟩
/-- The first unit of stack 19 about to send to the last one. -/
def crossDown : State :=
  moded (moded { upTile 0 {} with units := [(19 * 512, crossUnit 24 downF), (lastUnit, { s := [(3, 0x2000000000000)] })] } 19 31 2 0x1000) 19 0 2 0x1000
/-- Its context. -/
def crossDownCtx : SCtx := ⟨19 * 512, crossUnit 24 downF, wholeRun 0 0⟩
/-- The same with the direction DOWN isolated at the hop's arbiter. -/
def barredDown : State := setF crossDown (pgHop crossDown 19 511) F.ARB_ISOL 2

/-- States and operands that meet the hypotheses of WindrowInstructions, clause by clause, in either direction. -/
theorem witness_WindrowInstructions :
    (∃ (s : State) (k : SCtx) (f : SrlF), windrowAt s (lastUnit) k 24 f ∧ f.c.toNat % 2 = 0 ∧ hopJoined s (unitStack (lastUnit)) 511 = false)
    ∧ (∃ (s : State) (k : SCtx) (f : SrlF), windrowAt s (19 * 512) k 24 f ∧ f.c.toNat % 2 = 1 ∧ hopJoined s (unitStack (19 * 512)) 511 = false)
    ∧ (∃ (s : State) (k : SCtx) (f : SrlF), windrowAt s (lastUnit) k 24 f ∧ f.c.toNat % 2 = 0 ∧ hopJoined s (unitStack (lastUnit)) 511 = true ∧ hopTaken s 19 511 0 = false ∧ (s.unit (19 * 512)).fifoUp.length < 4)
    ∧ (∃ (s : State) (k : SCtx) (f : SrlF), windrowAt s (19 * 512) k 24 f ∧ f.c.toNat % 2 = 1 ∧ hopJoined s (unitStack (19 * 512)) 511 = true ∧ hopTaken s 19 511 1 = false ∧ (s.unit lastUnit).fifoDn.length < 4)
    ∧ (∃ (s : State) (k : SCtx) (f : SrlF), windrowAt s (lastUnit) k 24 f ∧ f.c.toNat % 2 = 0 ∧ hopJoined s (unitStack (lastUnit)) 511 = true ∧ hopTaken s 19 511 0 = true)
    ∧ (∃ (s : State) (k : SCtx) (f : SrlF), windrowAt s (19 * 512) k 24 f ∧ f.c.toNat % 2 = 1 ∧ hopJoined s (unitStack (19 * 512)) 511 = true ∧ hopTaken s 19 511 1 = true)
    ∧ (∃ (s : State) (k : SCtx) (f : SrlF), windrowAt s (lastUnit - 1) k 24 f ∧ f.c.toNat % 2 = 0 ∧ hopJoined s (unitStack (lastUnit - 1)) 510 = true ∧ 4 ≤ (s.unit lastUnit).fifoUp.length)
    ∧ (∃ (s : State) (k : SCtx) (f : SrlF), windrowAt s (lastUnit - 1) k 24 f ∧ f.c.toNat % 2 = 1 ∧ hopJoined s (unitStack (lastUnit - 1)) 509 = true ∧ 4 ≤ (s.unit (lastUnit - 2)).fifoDn.length)
    ∧ (∃ (s : State) (k : SCtx) (f : SrlF), windrowAt s (lastUnit - 1) k 25 f ∧ f.c.toNat % 2 = 0 ∧ hopJoined s (unitStack (lastUnit - 1)) 509 = true ∧ (s.unit (lastUnit - 1)).fifoUp = [mixed, floats] ∧ mixed.poison = false)
    ∧ (∃ (s : State) (k : SCtx) (f : SrlF), windrowAt s (lastUnit - 1) k 25 f ∧ f.c.toNat % 2 = 1 ∧ hopJoined s (unitStack (lastUnit - 1)) 510 = true ∧ (s.unit (lastUnit - 1)).fifoDn = [mixed, floats] ∧ mixed.poison = false)
    ∧ (∃ (s : State) (k : SCtx) (f : SrlF), windrowAt s (19 * 512) k 25 f ∧ f.c.toNat % 2 = 0 ∧ hopJoined s (unitStack (19 * 512)) 511 = false)
    ∧ (∃ (s : State) (k : SCtx) (f : SrlF), windrowAt s (lastUnit) k 25 f ∧ f.c.toNat % 2 = 1 ∧ hopJoined s (unitStack (lastUnit)) 511 = false)
    ∧ (∃ (s : State) (k : SCtx) (f : SrlF), windrowAt s (lastUnit - 1) k 25 f ∧ f.c.toNat % 2 = 0 ∧ hopJoined s (unitStack (lastUnit - 1)) 509 = true ∧ (s.unit (lastUnit - 1)).fifoUp = [])
    ∧ (∃ (s : State) (k : SCtx) (f : SrlF), windrowAt s (lastUnit - 1) k 25 f ∧ f.c.toNat % 2 = 1 ∧ hopJoined s (unitStack (lastUnit - 1)) 510 = true ∧ (s.unit (lastUnit - 1)).fifoDn = [])
    ∧ (∃ (s : State) (k : SCtx) (f : SrlF), windrowAt s (lastUnit - 1) k 26 f ∧ f.c.toNat % 2 = 0 ∧ hopJoined s (unitStack (lastUnit - 1)) 509 = true ∧ (s.unit (lastUnit - 1)).fifoUp = [mixed, floats] ∧ mixed.poison = false ∧ f.m.toNat % 8 < 3 ∧ (tget {} (s.unit (lastUnit - 1)).v f.a.toNat).poison = false)
    ∧ (∃ (s : State) (k : SCtx) (f : SrlF), windrowAt s (lastUnit - 1) k 26 f ∧ f.c.toNat % 2 = 1 ∧ hopJoined s (unitStack (lastUnit - 1)) 510 = true ∧ (s.unit (lastUnit - 1)).fifoDn = [mixed, floats] ∧ mixed.poison = false ∧ f.m.toNat % 8 < 3 ∧ (tget {} (s.unit (lastUnit - 1)).v f.a.toNat).poison = false)
    ∧ (∃ (s : State) (k : SCtx) (f : SrlF), windrowAt s (19 * 512) k 26 f ∧ f.c.toNat % 2 = 0 ∧ hopJoined s (unitStack (19 * 512)) 511 = false ∧ f.m.toNat % 8 < 3 ∧ (tget {} (s.unit (19 * 512)).v f.a.toNat).poison = false)
    ∧ (∃ (s : State) (k : SCtx) (f : SrlF), windrowAt s (lastUnit) k 26 f ∧ f.c.toNat % 2 = 1 ∧ hopJoined s (unitStack (lastUnit)) 511 = false ∧ f.m.toNat % 8 < 3 ∧ (tget {} (s.unit (lastUnit)).v f.a.toNat).poison = false)
    ∧ (∃ (s : State) (k : SCtx) (f : SrlF), windrowAt s (lastUnit - 1) k 26 f ∧ f.c.toNat % 2 = 0 ∧ hopJoined s (unitStack (lastUnit - 1)) 509 = true ∧ (s.unit (lastUnit - 1)).fifoUp = [] ∧ f.m.toNat % 8 < 3 ∧ (tget {} (s.unit (lastUnit - 1)).v f.a.toNat).poison = false)
    ∧ (∃ (s : State) (k : SCtx) (f : SrlF), windrowAt s (lastUnit - 1) k 26 f ∧ f.c.toNat % 2 = 1 ∧ hopJoined s (unitStack (lastUnit - 1)) 510 = true ∧ (s.unit (lastUnit - 1)).fifoDn = [] ∧ f.m.toNat % 8 < 3 ∧ (tget {} (s.unit (lastUnit - 1)).v f.a.toNat).poison = false) :=
  ⟨⟨wordState 24 (sorrelF 0 0) 0 0, wordCtx 24 (sorrelF 0 0) 0 0, (sorrelF 0 0), windrowAt_of (by decide +kernel), by decide +kernel⟩,
    ⟨firstState 24 downF, firstCtx 24 downF, downF, windrowAt_of (by decide +kernel), by decide +kernel⟩,
    ⟨crossState 24 (sorrelF 0 0), crossCtx 24 (sorrelF 0 0), (sorrelF 0 0), windrowAt_of (by decide +kernel), by decide +kernel⟩,
    ⟨crossDown, crossDownCtx, downF, windrowAt_of (by decide +kernel), by decide +kernel⟩,
    ⟨barredState 24 (sorrelF 0 0), crossCtx 24 (sorrelF 0 0), (sorrelF 0 0), windrowAt_of (by decide +kernel), by decide +kernel⟩,
    ⟨barredDown, crossDownCtx, downF, windrowAt_of (by decide +kernel), by decide +kernel⟩,
    ⟨hopState 24 (sorrelF 0 0) true [] [floats, mixed, floats, mixed], hopCtx 24 (sorrelF 0 0) [], (sorrelF 0 0), windrowAt_of (by decide +kernel), by decide +kernel⟩,
    ⟨downState 24 [] [floats, mixed, floats, mixed], downCtx 24 [], downF, windrowAt_of (by decide +kernel), by decide +kernel⟩,
    ⟨hopState 25 (sorrelF 0 0) true [mixed, floats] [], hopCtx 25 (sorrelF 0 0) [mixed, floats], (sorrelF 0 0), windrowAt_of (by decide +kernel), by decide +kernel⟩,
    ⟨downState 25 [mixed, floats] [], downCtx 25 [mixed, floats], downF, windrowAt_of (by decide +kernel), by decide +kernel⟩,
    ⟨firstState 25 (sorrelF 0 0), firstCtx 25 (sorrelF 0 0), (sorrelF 0 0), windrowAt_of (by decide +kernel), by decide +kernel⟩,
    ⟨wordState 25 downF 0 0, wordCtx 25 downF 0 0, downF, windrowAt_of (by decide +kernel), by decide +kernel⟩,
    ⟨hopState 25 (sorrelF 0 0) true [] [], hopCtx 25 (sorrelF 0 0) [], (sorrelF 0 0), windrowAt_of (by decide +kernel), by decide +kernel⟩,
    ⟨downState 25 [] [], downCtx 25 [], downF, windrowAt_of (by decide +kernel), by decide +kernel⟩,
    ⟨hopState 26 (sorrelF 0 0) true [mixed, floats] [], hopCtx 26 (sorrelF 0 0) [mixed, floats], (sorrelF 0 0), windrowAt_of (by decide +kernel), by decide +kernel⟩,
    ⟨downState 26 [mixed, floats] [], downCtx 26 [mixed, floats], downF, windrowAt_of (by decide +kernel), by decide +kernel⟩,
    ⟨firstState 26 (sorrelF 0 0), firstCtx 26 (sorrelF 0 0), (sorrelF 0 0), windrowAt_of (by decide +kernel), by decide +kernel⟩,
    ⟨wordState 26 downF 0 0, wordCtx 26 downF 0 0, downF, windrowAt_of (by decide +kernel), by decide +kernel⟩,
    ⟨hopState 26 (sorrelF 0 0) true [] [], hopCtx 26 (sorrelF 0 0) [], (sorrelF 0 0), windrowAt_of (by decide +kernel), by decide +kernel⟩,
    ⟨downState 26 [] [], downCtx 26 [], downF, windrowAt_of (by decide +kernel), by decide +kernel⟩⟩

/-- States and operands that meet the hypotheses of SorrelMacros, clause by clause. -/
theorem witness_SorrelMacros :
    (∃ (s : State) (x : SCtx) (y : SrlF), x.sound s ∧ (∀ (x_1 : Nat), x.rid.sec ≤ x_1 → x_1 < x.rid.sec + 32 → ¬x_1 ∈ s.poison) ∧
      atWord s lastUnit x 0 35 y ∧ (∀ (j : Nat), (tget { } (s.unit lastUnit).v j).poison = false) ∧ hasUnit s lastUnit = true ∧
      chunkCond x y.cnd.toNat x.r.chunk = true ∧ y.a.toNat ≤ 12 ∧ y.m.getLsbD 1 = true)
    ∧ (∃ (s : State) (x : SCtx) (y : SrlF), x.sound s ∧ (∀ (x_1 : Nat), x.rid.sec ≤ x_1 → x_1 < x.rid.sec + 32 → ¬x_1 ∈ s.poison) ∧
      atWord s lastUnit x 0 32 y ∧ hasUnit s lastUnit = true ∧ storeRole x 0 = some false ∧ x.glog = 4 ∧ y.d.toNat ≤ 12 ∧ x.r.chunk <
      64 ∧ y.m.getLsbD 0 = false ∧ macroRange x = true ∧ chunkCond x y.cnd.toNat x.r.chunk = true ∧ x.r.chunk % 16 ≠ 15)
    ∧ (∃ (s : State) (x : SCtx), x.sound s ∧ (∀ (x_1 : Nat), x.rid.sec ≤ x_1 → x_1 < x.rid.sec + 32 → ¬x_1 ∈ s.poison) ∧ hasUnit s
      lastUnit = true ∧ acciNext (s.unit lastUnit) = some (accRun, accJob, (accJob.dst + 4 * 0) / 32) ∧ x =
      { i := lastUnit, u := s.unit lastUnit, r := accRun } ∧ bitOf accRun.s3 51 = false ∧ accJob.afmt = 0 ∧ accJob.bytes.length = 4 ∧
      accJob.poison.getD 0 false = false ∧ accJob.dst < 2048 ∧ accJob.dst % 4 = 0 ∧ accRun.pos = 0)
    ∧ (∃ (s : State) (x : SCtx) (y : SrlF), x.sound s ∧ (∀ (x_1 : Nat), x.rid.sec ≤ x_1 → x_1 < x.rid.sec + 32 → ¬x_1 ∈ s.poison) ∧
      atWord s lastUnit x 0 32 y ∧ hasUnit s lastUnit = true ∧ y.d.toNat ≤ 12 ∧ macroRange x = false ∧ chunkCond x y.cnd.toNat
      x.r.chunk = true)
    ∧ (∃ (s : State) (x : SCtx) (y : SrlF), x.sound s ∧ (∀ (x_1 : Nat), x.rid.sec ≤ x_1 → x_1 < x.rid.sec + 32 → ¬x_1 ∈ s.poison) ∧ (∀
      (j : Nat), (tget { } x.r.grp j).poison = false) ∧ atWord s lastUnit x 0 32 y ∧ hasUnit s lastUnit = true ∧ x.r.chunk % 16 = 15 ∧
      macroActs x y = true ∧ storeRole x 0 = some false ∧ x.glog = 4 ∧ y.d.toNat ≤ 12 ∧ x.r.chunk < 64 ∧ y.m.getLsbD 0 = false)
    ∧ (∃ (s : State) (x : SCtx) (y : SrlF), x.sound s ∧ (∀ (x_1 : Nat), x.rid.sec ≤ x_1 → x_1 < x.rid.sec + 32 → ¬x_1 ∈ s.poison) ∧ (∀
      (j : Nat), (tget { } x.r.grp j).poison = false) ∧ atWord s lastUnit x 0 33 y ∧ hasUnit s lastUnit = true ∧ x.r.chunk % 16 = 15 ∧
      macroActs x y = true ∧ storeRole x 0 = some false ∧ x.glog = 4 ∧ y.d.toNat ≤ 12 ∧ x.r.chunk < 64 ∧ y.m.getLsbD 0 = false) :=
  ⟨⟨wordState 35 (macroF 2) 63 4, wordCtx 35 (macroF 2) 63 4, macroF 2, sound_of (by decide +kernel), range_of (by decide +kernel),
    atWord_of (by decide +kernel), fun j => tget_of (P := fun (x : Chunk) => x.poison = false) rfl (by decide +kernel) j,
    by decide +kernel⟩, ⟨wordState 32 (macroF 0) 0 4, wordCtx 32 (macroF 0) 0 4, macroF 0, sound_of (by decide +kernel), range_of
    (by decide +kernel), atWord_of (by decide +kernel), by decide +kernel⟩, ⟨accState, accCtx, sound_of (by decide +kernel), range_of
    (by decide +kernel), by decide +kernel⟩, ⟨Tests.partState, partCtx, macroF 0, sound_of (by decide +kernel), range_of
    (by decide +kernel), atWord_of (by decide +kernel), by decide +kernel⟩, ⟨wordState 32 (macroF 0) 15 4, wordCtx 32 (macroF 0) 15 4,
    macroF 0, sound_of (by decide +kernel), range_of (by decide +kernel), fun j => tget_of (P := fun (x : Chunk) => x.poison = false)
    rfl (by decide +kernel) j, atWord_of (by decide +kernel), by decide +kernel⟩, ⟨wordState 33 (macroF 0) 15 4, wordCtx 33 (macroF 0)
    15 4, macroF 0, sound_of (by decide +kernel), range_of (by decide +kernel), fun j => tget_of (P := fun (x : Chunk) => x.poison =
    false) rfl (by decide +kernel) j, atWord_of (by decide +kernel), by decide +kernel⟩⟩

/-- States and operands that meet the hypotheses of SlotControl, clause by clause. -/
theorem witness_SlotControl :
    (∃ (s : State) (x : W64), hasTile s 511 = true ∧ Eng.mx ≠ Eng.ve ∧ nextSlot s 511 Eng.mx = some x ∧ (slotOp Eng.mx x = if Eng.mx =
      Eng.dma then 3 else 1) ∧ (fld x (if Eng.mx = Eng.dma then 20 else 48) 3 = (7 : BitVec 16).toNat) ∧ fld x 0 16 = (49136 : BitVec
      16).toNat ∧ (49136 : BitVec 16).toNat + 15 ≤ 49151)
    ∧ (∃ (s : State), hasTile s 511 = true ∧ (s.tile 511).gated = false ∧ 256 ≤ (s.tile 511).asf.length)
    ∧ (∃ (s : State) (x : W64), hasTile s 511 = true ∧ Eng.mx ≠ Eng.ve ∧ nextSlot s 511 Eng.mx = some x ∧ slotOp Eng.mx x = 57 ∧ (∀ (g
      : Nat × Nat × List Nat), g ∈ (engOf s 511 Eng.mx).sigs → g.snd.snd ≠ []) ∧ pendingWork (s.tile 511) Eng.mx = [])
    ∧ (∃ (s : State), hasTile s 511 = true ∧ 7 < 8 ∧ tileOff s 511 = false)
    ∧ (∃ (s : State) (x : W64), hasTile s 511 = true ∧ Eng.mx ≠ Eng.ve ∧ nextSlot s 511 Eng.mx = some x ∧ slotOp Eng.mx x = 56)
    ∧ (∃ (s : State) (x : W64), hasTile s 511 = true ∧ Eng.mx ≠ Eng.ve ∧ nextSlot s 511 Eng.mx = some x ∧ slotOp Eng.mx x = 58 ∧ 4 ≤
      (engOf s 511 Eng.mx).loops.length)
    ∧ (∃ (s : State) (x : W64), hasTile s 511 = true ∧ Eng.mx ≠ Eng.ve ∧ nextSlot s 511 Eng.mx = some x ∧ slotOp Eng.mx x = 59 ∧
      (engOf s 511 Eng.mx).loops = [(0, 2)] ∧ 2 ≤ 2)
    ∧ (∃ (s : State), hasTile s 511 = true ∧ tileWriter Writer.host 511 = true ∧ (s.tile 511).gated = false ∧ (s.tile 511).asf.length
      < 256 ∧ (s.tile 511).run = none ∧ (s.tile 511).srun = none)
    ∧ (∃ (s : State) (x : W64), hasTile s 511 = true ∧ Eng.mx ≠ Eng.ve ∧ nextSlot s 511 Eng.mx = some x ∧ slotOp Eng.mx x = 57 ∧ (∀ (g
      : Nat × Nat × List Nat), g ∈ (engOf s 511 Eng.mx).sigs → g.snd.snd ≠ []) ∧ pendingWork (s.tile 511) Eng.mx ≠ [])
    ∧ (∃ (s : State) (x : W64), hasTile s 511 = true ∧ Eng.mx ≠ Eng.ve ∧ nextSlot s 511 Eng.mx = some x ∧ (slotOp Eng.mx x = if Eng.mx
      = Eng.dma then 3 else 1) ∧ (fld x (if Eng.mx = Eng.dma then 20 else 48) 3 = (7 : BitVec 16).toNat) ∧ fld x 0 16 = (49137 :
      BitVec 16).toNat ∧ 49151 < (49137 : BitVec 16).toNat + 15)
    ∧ (∃ (s : State), hasTile s 511 = true ∧ asfLacks (s.tile 511) Eng.mx = true ∧ tileRuns s 511 = true)
    ∧ (∃ (s : State) (x : W64), hasTile s 511 = true ∧ Eng.mx ≠ Eng.ve ∧ nextSlot s 511 Eng.mx = some x ∧ slotOp Eng.mx x = 59 ∧
      (engOf s 511 Eng.mx).loops = [])
    ∧ (∃ (s : State) (x : W64), hasTile s 511 = true ∧ Eng.mx ≠ Eng.ve ∧ nextSlot s 511 Eng.mx = some x ∧ slotOp Eng.mx x = 59 ∧
      (engOf s 511 Eng.mx).loops = [(0, 1), (0, 5)] ∧ 1 ≤ 1)
    ∧ (∃ (s : State) (x : W64), hasTile s 511 = true ∧ Eng.mx ≠ Eng.ve ∧ nextSlot s 511 Eng.mx = some x ∧ slotOp Eng.mx x = 58 ∧
      loopCount Eng.mx x ≠ 0 ∧ (engOf s 511 Eng.mx).loops.length < 4)
    ∧ (∃ (s : State) (x : W64), hasTile s 511 = true ∧ Eng.mx ≠ Eng.ve ∧ nextSlot s 511 Eng.mx = some x ∧ slotOp Eng.mx x = 58 ∧
      loopCount Eng.mx x = 0 ∧ (engOf s 511 Eng.mx).loops.length < 4 ∧ matchEnd Eng.mx (List.drop (engOf s 511 Eng.mx).pc (engOf s 511
      Eng.mx).buf) (engOf s 511 Eng.mx).pc 0 = some ((engOf s 511 Eng.mx).pc + 1 + 1 + 1) ∧ (engOf s 511 Eng.mx).skip = false)
    ∧ (∃ (s : State) (x : W64), hasTile s 511 = true ∧ Eng.mx ≠ Eng.ve ∧ nextSlot s 511 Eng.mx = some x ∧ slotOp Eng.mx x = 0)
    ∧ (∃ (s : State), hasTile s 511 = true ∧ tileWriter (Writer.uzoid 6) 511 = false)
    ∧ (∃ (s : State) (x : W64), hasTile s 511 = true ∧ Eng.mx ≠ Eng.ve ∧ nextSlot s 511 Eng.mx = some x ∧ (slotOp Eng.mx x = if Eng.mx
      = Eng.dma then 3 else 1) ∧ (fld x (if Eng.mx = Eng.dma then 20 else 48) 3 = (7 : BitVec 16).toNat) ∧ fld x 0 16 = (49136 :
      BitVec 16).toNat ∧ (49136 : BitVec 16).toNat + 15 ≤ 49151) :=
  ⟨⟨cfgState Eng.mx 49136 [24568], slotWord Eng.mx 1 (7 * 2 ^ 48 + 49136), by decide +kernel⟩, ⟨asfState 256, by decide +kernel⟩,
    ⟨slotState Eng.mx 57 196639 [], slotWord Eng.mx 57 196639, by decide +kernel⟩, ⟨asfState 255, by decide +kernel⟩, ⟨slotState
    Eng.mx 56 196639 [], slotWord Eng.mx 56 196639, by decide +kernel⟩, ⟨slotState Eng.mx 58 1 [(0, 2), (0, 2), (0, 2), (0, 2)],
    slotWord Eng.mx 58 1, by decide +kernel⟩, ⟨slotState Eng.mx 59 0 [(0, 2)], slotWord Eng.mx 59 0, by decide +kernel⟩, ⟨asfState
    255, by decide +kernel⟩, ⟨sigState Eng.mx, slotWord Eng.mx 57 196639, by decide +kernel⟩, ⟨cfgState Eng.mx 49137 [], slotWord
    Eng.mx 1 (7 * 2 ^ 48 + 49137), by decide +kernel⟩, ⟨mxAsf, by decide +kernel⟩, ⟨slotState Eng.mx 59 0 [], slotWord Eng.mx 59 0,
    by decide +kernel⟩, ⟨slotState Eng.mx 59 0 [(0, 1), (0, 5)], slotWord Eng.mx 59 0, by decide +kernel⟩, ⟨slotState Eng.mx 58 1 [],
    slotWord Eng.mx 58 1, by decide +kernel⟩, ⟨skipState Eng.mx, slotWord Eng.mx 58 0, by decide +kernel⟩, ⟨slotState Eng.mx 0 0 [],
    slotWord Eng.mx 0 0, by decide +kernel⟩, ⟨asfState 0, by decide +kernel⟩, ⟨cfgState Eng.mx 49136 [], slotWord Eng.mx 1 (7 * 2 ^ 48
    + 49136), by decide +kernel⟩⟩

/-- States and operands that meet the hypotheses of MatrixRunsAndSram, clause by clause. -/
theorem witness_MatrixRunsAndSram :
    (∃ (s : State), hasTile s 511 = true ∧ 0 < sramBytes / 8 ∧ tileOff s 511 = false)
    ∧ (∃ (s : State), hasTile s 511 = true ∧ (s.tile 511).ended = [endedRun] ∧ halted s = false)
    ∧ (∃ (s : State), hasTile s 511 = true ∧ (s.tile 511).ended = [] ∧ halted s = false)
    ∧ (∃ (s : State) (x : W64), (descFetch s (List.map (lHandle (lcbWords s 511 ((7 : BitVec 16).toNat))) (List.filter (lUses
      (lcbWords s 511 ((7 : BitVec 16).toNat))) (List.range 9)))).fst = false ∧ hasTile s 511 = true ∧ nextSlot s 511 Eng.mx = some x
      ∧ slotOp Eng.mx x = 2 ∧ fld x 48 3 = (7 : BitVec 16).toNat ∧ (s.tile 511).run = none ∧ (∀ (x : Soon), x ∈ (s.tile 511).soon →
      x.thing = slotThing ((7 : BitVec 16).toNat) → x.live s 511 0 = false) ∧ mxIllegal (lcbWords s 511 ((7 : BitVec 16).toNat)) =
      false ∧ mxCheck s 511 (lcbWords s 511 ((7 : BitVec 16).toNat)) = mxCheck s 511 (lcbWords s 511 ((7 : BitVec 16).toNat)) ∧
      mxCheck s 511 (lcbWords s 511 ((7 : BitVec 16).toNat)) ≠ 0)
    ∧ (∃ (s : State) (x : W64), (descFetch s (List.map (lHandle (lcbWords s 511 ((7 : BitVec 16).toNat))) (List.filter (lUses
      (lcbWords s 511 ((7 : BitVec 16).toNat))) (List.range 9)))).fst = false ∧ hasTile s 511 = true ∧ nextSlot s 511 Eng.mx = some x
      ∧ slotOp Eng.mx x = 2 ∧ fld x 48 3 = (7 : BitVec 16).toNat ∧ (s.tile 511).run = none ∧ (∀ (x : Soon), x ∈ (s.tile 511).soon →
      x.thing = slotThing ((7 : BitVec 16).toNat) → x.live s 511 0 = false) ∧ mxIllegal (lcbWords s 511 ((7 : BitVec 16).toNat)) =
      false ∧ mxCheck s 511 (lcbWords s 511 ((7 : BitVec 16).toNat)) = 0 ∧ lTotal (lcbWords s 511 ((7 : BitVec 16).toNat)) ≠ 0) :=
  ⟨⟨upTile 511 { spoison := [1] }, by decide +kernel⟩, ⟨mxEnded, by decide +kernel⟩, ⟨mxState (mxWords 0), by decide +kernel⟩,
    ⟨mxState (((mxWords 1).set 47 (-1)).set 46 5), slotWord Eng.mx 2 (7 * 2 ^ 48), clean_descFetch rfl rfl _, by decide +kernel⟩,
    ⟨mxState (mxWords 0), slotWord Eng.mx 2 (7 * 2 ^ 48), clean_descFetch rfl rfl _, by decide +kernel⟩⟩

/-- A vector engine at a LOOP of count 0, with the ENDLOOP in its buffer. -/
def veSkip : State :=
  let word (op : Nat) : W64 := vregWord op (vf 0 0 false)
  upTile 511 { ve := vengine 64, ves := { stream (word 58) [] with buf := [.slot 0, .slot (word 58), .slot (word 0), .slot (word 59), .slot 0] } }

/-- States and operands that meet the hypotheses of VectorControlInstructions, clause by clause. -/
theorem witness_VectorControlInstructions :
    (∃ (s : State) (x : VReg), (s.tile 511).ve.calm ((s.tile 511).ves.clk + surelyPassed (s.us - (s.tile 511).ves.us)) ∧ hasTile s 511
      = true ∧ nextSlot s 511 Eng.ve = some (vregWord 5 x))
    ∧ (∃ (s : State) (x : VReg), (s.tile 511).ve.calm ((s.tile 511).ves.clk + surelyPassed (s.us - (s.tile 511).ves.us)) ∧ hasTile s
      511 = true ∧ nextSlot s 511 Eng.ve = some (vregWord 1 x) ∧ (BitVec.toNat x.imm % 128 = 0 ∨ 64 < BitVec.toNat x.imm % 128))
    ∧ (∃ (s : State) (x : VReg), (s.tile 511).ve.calm ((s.tile 511).ves.clk + surelyPassed (s.us - (s.tile 511).ves.us)) ∧ hasTile s
      511 = true ∧ nextSlot s 511 Eng.ve = some (vregWord 2 x))
    ∧ (∃ (s : State) (x : VReg), (s.tile 511).ve.calm ((s.tile 511).ves.clk + surelyPassed (s.us - (s.tile 511).ves.us)) ∧ hasTile s
      511 = true ∧ nextSlot s 511 Eng.ve = some (vregWord 6 x))
    ∧ (∃ (s : State) (x : VReg), (s.tile 511).ve.calm ((s.tile 511).ves.clk + surelyPassed (s.us - (s.tile 511).ves.us)) ∧ hasTile s
      511 = true ∧ nextSlot s 511 Eng.ve = some (vregWord 3 x) ∧ BitVec.toNat x.imm % 2 ^ 24 % 32 = 0)
    ∧ (∃ (s : State) (x : VReg), (s.tile 511).ve.calm ((s.tile 511).ves.clk + surelyPassed (s.us - (s.tile 511).ves.us)) ∧ hasTile s
      511 = true ∧ nextSlot s 511 Eng.ve = some (vregWord 4 x) ∧ BitVec.toNat x.imm % 2 ^ 24 % 32 = 0)
    ∧ (∃ (s : State) (x : VReg), (s.tile 511).ve.calm ((s.tile 511).ves.clk + surelyPassed (s.us - (s.tile 511).ves.us)) ∧ hasTile s
      511 = true ∧ nextSlot s 511 Eng.ve = some (vregWord 1 x) ∧ 1 ≤ BitVec.toNat x.imm % 128 ∧ BitVec.toNat x.imm % 128 ≤ 64)
    ∧ (∃ (s : State) (x : VReg), (s.tile 511).ve.calm ((s.tile 511).ves.clk + surelyPassed (s.us - (s.tile 511).ves.us)) ∧ hasTile s
      511 = true ∧ nextSlot s 511 Eng.ve = some (vregWord 57 x) ∧ (∀ (g : Nat × Nat × List Nat), g ∈ (s.tile 511).ves.sigs → g.snd.snd
      ≠ []))
    ∧ (∃ (s : State) (x : VReg), (s.tile 511).ve.calm ((s.tile 511).ves.clk + surelyPassed (s.us - (s.tile 511).ves.us)) ∧ hasTile s
      511 = true ∧ nextSlot s 511 Eng.ve = some (vregWord 59 x) ∧ (s.tile 511).ves.loops = [(0, 1)] ∧ 1 ≤ 1)
    ∧ (∃ (s : State) (x : VReg), (s.tile 511).ve.calm ((s.tile 511).ves.clk + surelyPassed (s.us - (s.tile 511).ves.us)) ∧ hasTile s
      511 = true ∧ nextSlot s 511 Eng.ve = some (vregWord 58 x) ∧ BitVec.toNat x.imm ≠ 0 ∧ (s.tile 511).ves.loops.length < 4)
    ∧ (∃ (s : State) (x : VReg), (s.tile 511).ve.calm ((s.tile 511).ves.clk + surelyPassed (s.us - (s.tile 511).ves.us)) ∧ hasTile s
      511 = true ∧ nextSlot s 511 Eng.ve = some (vregWord 0 x))
    ∧ (∃ (s : State) (x : VReg), (s.tile 511).ve.calm ((s.tile 511).ves.clk + surelyPassed (s.us - (s.tile 511).ves.us)) ∧ hasTile s
      511 = true ∧ nextSlot s 511 Eng.ve = some (vregWord 59 x) ∧ (s.tile 511).ves.loops = [(0, 2)] ∧ 2 ≤ 2)
    ∧ (∃ (s : State) (x : VReg), (s.tile 511).ve.calm ((s.tile 511).ves.clk + surelyPassed (s.us - (s.tile 511).ves.us)) ∧ hasTile s
      511 = true ∧ nextSlot s 511 Eng.ve = some (vregWord 56 x))
    ∧ (∃ (s : State) (x : VReg), (s.tile 511).ve.calm ((s.tile 511).ves.clk + surelyPassed (s.us - (s.tile 511).ves.us)) ∧ hasTile s
      511 = true ∧ nextSlot s 511 Eng.ve = some (vregWord 3 x) ∧ x.imm.toNat % 2 ^ 24 % 32 ≠ 0)
    ∧ (∃ (s : State) (x : VReg), (s.tile 511).ve.calm ((s.tile 511).ves.clk + surelyPassed (s.us - (s.tile 511).ves.us)) ∧ hasTile s
      511 = true ∧ nextSlot s 511 Eng.ve = some (vregWord 4 x) ∧ x.imm.toNat % 2 ^ 24 % 32 ≠ 0)
    ∧ (∃ (s : State) (x : VReg), (s.tile 511).ve.calm ((s.tile 511).ves.clk + surelyPassed (s.us - (s.tile 511).ves.us)) ∧ hasTile s
      511 = true ∧ nextSlot s 511 Eng.ve = some (vregWord 58 x) ∧ x.imm.toNat = 0 ∧ (s.tile 511).ves.loops.length < 4 ∧
      matchEnd .ve ((s.tile 511).ves.buf.drop (s.tile 511).ves.pc) (s.tile 511).ves.pc 0 = some 4 ∧ (s.tile 511).ves.skip = false)
    ∧ (∃ (s : State) (x : VReg), (s.tile 511).ve.calm ((s.tile 511).ves.clk + surelyPassed (s.us - (s.tile 511).ves.us)) ∧ hasTile s
      511 = true ∧ nextSlot s 511 Eng.ve = some (vregWord 58 x) ∧ 4 ≤ (s.tile 511).ves.loops.length)
    ∧ (∃ (s : State) (x : VReg), (s.tile 511).ve.calm ((s.tile 511).ves.clk + surelyPassed (s.us - (s.tile 511).ves.us)) ∧ hasTile s
      511 = true ∧ nextSlot s 511 Eng.ve = some (vregWord 59 x) ∧ (s.tile 511).ves.loops = []) :=
  ⟨⟨vstate (vregWord 5 (vf 0 0 false)) 64 [], vf 0 0 false, calm_of (by decide +kernel), by decide +kernel⟩, ⟨vstate (vregWord 1 (vf 0
    0 false)) 64 [], vf 0 0 false, calm_of (by decide +kernel), by decide +kernel⟩, ⟨vstate (vregWord 2 (vf 0 15 false)) 64 [], vf 0
    15 false, calm_of (by decide +kernel), by decide +kernel⟩, ⟨vstate (vregWord 6 (vf 0 1 false)) 64 [], vf 0 1 false, calm_of
    (by decide +kernel), by decide +kernel⟩, ⟨vstate (vregWord 3 (vf 0 16777184 false)) 64 [], vf 0 16777184 false, calm_of
    (by decide +kernel), by decide +kernel⟩, ⟨vstate (vregWord 4 (vf 0 16777184 false)) 64 [], vf 0 16777184 false, calm_of
    (by decide +kernel), by decide +kernel⟩, ⟨vstate (vregWord 1 (vf 0 64 false)) 64 [], vf 0 64 false, calm_of (by decide +kernel),
    by decide +kernel⟩, ⟨vstate (vregWord 57 (vf 0 196639 false)) 64 [], vf 0 196639 false, calm_of (by decide +kernel),
    by decide +kernel⟩, ⟨vstate (vregWord 59 (vf 0 1 false)) 64 [(0, 1)], vf 0 1 false, calm_of (by decide +kernel),
    by decide +kernel⟩, ⟨vstate (vregWord 58 (vf 0 1 false)) 64 [(0, 2), (0, 2), (0, 2)], vf 0 1 false, calm_of (by decide +kernel),
    by decide +kernel⟩, ⟨vstate (vregWord 0 (vf 0 0 false)) 64 [], vf 0 0 false, calm_of (by decide +kernel), by decide +kernel⟩,
    ⟨vstate (vregWord 59 (vf 0 1 false)) 64 [(0, 2)], vf 0 1 false, calm_of (by decide +kernel), by decide +kernel⟩, ⟨vstate (vregWord
    56 (vf 0 196639 false)) 64 [], vf 0 196639 false, calm_of (by decide +kernel), by decide +kernel⟩,
    ⟨vreg 3 (vf 0 16777183 false), vf 0 16777183 false, calm_of (by decide +kernel), by decide +kernel⟩,
    ⟨vreg 4 (vf 0 16 false), vf 0 16 false, calm_of (by decide +kernel), by decide +kernel⟩,
    ⟨veSkip, vf 0 0 false, calm_of (by decide +kernel), by decide +kernel⟩,
    ⟨vstate (vregWord 58 (vf 0 1 false)) 64 [(0, 2), (0, 2), (0, 2), (0, 2)], vf 0 1 false, calm_of (by decide +kernel), by decide +kernel⟩,
    ⟨vreg 59 (vf 0 1 false), vf 0 1 false, calm_of (by decide +kernel), by decide +kernel⟩⟩

/-- States and operands that meet the hypotheses of VectorArithmetic, clause by clause. -/
theorem witness_VectorArithmetic :
    (∃ (s : State) (x : VReg), (s.tile 511).ve.calm ((s.tile 511).ves.clk + surelyPassed (s.us - (s.tile 511).ves.us)) ∧ hasTile s 511
      = true ∧ (s.tile 511).ve.vl ≤ 64 ∧ nextSlot s 511 Eng.ve = some (vregWord 24 x))
    ∧ (∃ (s : State) (x : VReg), (s.tile 511).ve.calm ((s.tile 511).ves.clk + surelyPassed (s.us - (s.tile 511).ves.us)) ∧ hasTile s
      511 = true ∧ (s.tile 511).ve.vl ≤ 64 ∧ nextSlot s 511 Eng.ve = some (vregWord 25 x))
    ∧ (∃ (s : State) (x : VReg), (s.tile 511).ve.calm ((s.tile 511).ves.clk + surelyPassed (s.us - (s.tile 511).ves.us)) ∧ hasTile s
      511 = true ∧ (s.tile 511).ve.vl ≤ 64 ∧ nextSlot s 511 Eng.ve = some (vregWord 26 x))
    ∧ (∃ (s : State) (x : VReg), (s.tile 511).ve.calm ((s.tile 511).ves.clk + surelyPassed (s.us - (s.tile 511).ves.us)) ∧ hasTile s
      511 = true ∧ (s.tile 511).ve.vl ≤ 64 ∧ nextSlot s 511 Eng.ve = some (vregWord 28 x))
    ∧ (∃ (s : State) (x : VReg), (s.tile 511).ve.calm ((s.tile 511).ves.clk + surelyPassed (s.us - (s.tile 511).ves.us)) ∧ hasTile s
      511 = true ∧ (s.tile 511).ve.vl ≤ 64 ∧ nextSlot s 511 Eng.ve = some (vregWord 29 x))
    ∧ (∃ (s : State) (x : VReg), (s.tile 511).ve.calm ((s.tile 511).ves.clk + surelyPassed (s.us - (s.tile 511).ves.us)) ∧ hasTile s
      511 = true ∧ (s.tile 511).ve.vl ≤ 64 ∧ nextSlot s 511 Eng.ve = some (vregWord 19 x) ∧ isF x.ty.toNat = true)
    ∧ (∃ (s : State) (x : VReg), (s.tile 511).ve.calm ((s.tile 511).ves.clk + surelyPassed (s.us - (s.tile 511).ves.us)) ∧ hasTile s
      511 = true ∧ (s.tile 511).ve.vl ≤ 64 ∧ nextSlot s 511 Eng.ve = some (vregWord 40 x) ∧ isF x.ty.toNat = true)
    ∧ (∃ (s : State) (x : VReg), (s.tile 511).ve.calm ((s.tile 511).ves.clk + surelyPassed (s.us - (s.tile 511).ves.us)) ∧ hasTile s
      511 = true ∧ (s.tile 511).ve.vl ≤ 64 ∧ nextSlot s 511 Eng.ve = some (vregWord 41 x) ∧ isF x.ty.toNat = true)
    ∧ (∃ (s : State) (x : VReg), (s.tile 511).ve.calm ((s.tile 511).ves.clk + surelyPassed (s.us - (s.tile 511).ves.us)) ∧ hasTile s
      511 = true ∧ (s.tile 511).ve.vl ≤ 64 ∧ nextSlot s 511 Eng.ve = some (vregWord 42 x) ∧ isF x.ty.toNat = true)
    ∧ (∃ (s : State) (x : VReg), (s.tile 511).ve.calm ((s.tile 511).ves.clk + surelyPassed (s.us - (s.tile 511).ves.us)) ∧ hasTile s
      511 = true ∧ (s.tile 511).ve.vl ≤ 64 ∧ nextSlot s 511 Eng.ve = some (vregWord 43 x) ∧ isF x.ty.toNat = true)
    ∧ (∃ (s : State) (x : VReg), (s.tile 511).ve.calm ((s.tile 511).ves.clk + surelyPassed (s.us - (s.tile 511).ves.us)) ∧ hasTile s
      511 = true ∧ (s.tile 511).ve.vl ≤ 64 ∧ nextSlot s 511 Eng.ve = some (vregWord 16 x) ∧ (isF x.ty.toNat = true ∨ x.ty.toNat = 5))
    ∧ (∃ (s : State) (x : VReg), (s.tile 511).ve.calm ((s.tile 511).ves.clk + surelyPassed (s.us - (s.tile 511).ves.us)) ∧ hasTile s
      511 = true ∧ (s.tile 511).ve.vl ≤ 64 ∧ nextSlot s 511 Eng.ve = some (vregWord 17 x) ∧ (isF x.ty.toNat = true ∨ x.ty.toNat = 5))
    ∧ (∃ (s : State) (x : VReg), (s.tile 511).ve.calm ((s.tile 511).ves.clk + surelyPassed (s.us - (s.tile 511).ves.us)) ∧ hasTile s
      511 = true ∧ (s.tile 511).ve.vl ≤ 64 ∧ nextSlot s 511 Eng.ve = some (vregWord 18 x) ∧ (isF x.ty.toNat = true ∨ x.ty.toNat = 5))
    ∧ (∃ (s : State) (x : VReg), (s.tile 511).ve.calm ((s.tile 511).ves.clk + surelyPassed (s.us - (s.tile 511).ves.us)) ∧ hasTile s
      511 = true ∧ (s.tile 511).ve.vl ≤ 64 ∧ nextSlot s 511 Eng.ve = some (vregWord 20 x) ∧ (isF x.ty.toNat = true ∨ x.ty.toNat = 5))
    ∧ (∃ (s : State) (x : VReg), (s.tile 511).ve.calm ((s.tile 511).ves.clk + surelyPassed (s.us - (s.tile 511).ves.us)) ∧ hasTile s
      511 = true ∧ (s.tile 511).ve.vl ≤ 64 ∧ nextSlot s 511 Eng.ve = some (vregWord 21 x) ∧ (isF x.ty.toNat = true ∨ x.ty.toNat = 5))
    ∧ (∃ (s : State) (x : VReg), (s.tile 511).ve.calm ((s.tile 511).ves.clk + surelyPassed (s.us - (s.tile 511).ves.us)) ∧ hasTile s
      511 = true ∧ (s.tile 511).ve.vl ≤ 64 ∧ nextSlot s 511 Eng.ve = some (vregWord 23 x) ∧ (isF x.ty.toNat = true ∨ x.ty.toNat = 5))
    ∧ (∃ (s : State) (x : VReg), (s.tile 511).ve.calm ((s.tile 511).ves.clk + surelyPassed (s.us - (s.tile 511).ves.us)) ∧ hasTile s
      511 = true ∧ (s.tile 511).ve.vl ≤ 64 ∧ nextSlot s 511 Eng.ve = some (vregWord 22 x) ∧ (isF x.ty.toNat = true ∨ x.ty.toNat = 5) ∧
      BitVec.toNat x.imm % 8 ≠ 7)
    ∧ (∃ (s : State) (x : VReg), (s.tile 511).ve.calm ((s.tile 511).ves.clk + surelyPassed (s.us - (s.tile 511).ves.us)) ∧ hasTile s
      511 = true ∧ (s.tile 511).ve.vl ≤ 64 ∧ isF x.ty.toNat = false ∧ x.ty.toNat ≠ 5 ∧ nextSlot s 511 Eng.ve = some (vregWord 16 x))
    ∧ (∃ (s : State) (x : VReg), (s.tile 511).ve.calm ((s.tile 511).ves.clk + surelyPassed (s.us - (s.tile 511).ves.us)) ∧ hasTile s
      511 = true ∧ (s.tile 511).ve.vl ≤ 64 ∧ isF x.ty.toNat = false ∧ x.ty.toNat ≠ 5 ∧ nextSlot s 511 Eng.ve = some (vregWord 22 x))
    ∧ (∃ (s : State) (x : VReg), (s.tile 511).ve.calm ((s.tile 511).ves.clk + surelyPassed (s.us - (s.tile 511).ves.us)) ∧ hasTile s
      511 = true ∧ (s.tile 511).ve.vl ≤ 64 ∧ isF x.ty.toNat = false ∧ x.ty.toNat ≠ 5 ∧ nextSlot s 511 Eng.ve = some (vregWord 40 x)) :=
  ⟨⟨vregL 24 (vf 0 4294967295 true) 63, vf 0 4294967295 true, calm_of (by decide +kernel), by decide +kernel⟩, ⟨vregL 25 (vf 0
    4294967295 true) 63, vf 0 4294967295 true, calm_of (by decide +kernel), by decide +kernel⟩, ⟨vregL 26 (vf 0 4294967295 true) 63,
    vf 0 4294967295 true, calm_of (by decide +kernel), by decide +kernel⟩, ⟨vregL 28 (vf 0 4294967295 true) 63, vf 0 4294967295 true,
    calm_of (by decide +kernel), by decide +kernel⟩, ⟨vregL 29 (vf 0 4294967295 true) 63, vf 0 4294967295 true, calm_of
    (by decide +kernel), by decide +kernel⟩, ⟨vstate (vregWord 19 (vf 0 5 false)) 64 [], vf 0 5 false, calm_of (by decide +kernel),
    by decide +kernel⟩, ⟨vstate (vregWord 40 (vf 0 5 false)) 64 [], vf 0 5 false, calm_of (by decide +kernel), by decide +kernel⟩,
    ⟨vstate (vregWord 41 (vf 0 5 false)) 64 [], vf 0 5 false, calm_of (by decide +kernel), by decide +kernel⟩, ⟨vstate (vregWord 42
    (vf 0 5 false)) 64 [], vf 0 5 false, calm_of (by decide +kernel), by decide +kernel⟩, ⟨vstate (vregWord 43 (vf 0 5 false)) 64 [],
    vf 0 5 false, calm_of (by decide +kernel), by decide +kernel⟩, ⟨vstate (vregWord 16 (vf 0 5 false)) 64 [], vf 0 5 false, calm_of
    (by decide +kernel), by decide +kernel⟩, ⟨vstate (vregWord 17 (vf 0 5 false)) 64 [], vf 0 5 false, calm_of (by decide +kernel),
    by decide +kernel⟩, ⟨vstate (vregWord 18 (vf 0 5 false)) 64 [], vf 0 5 false, calm_of (by decide +kernel), by decide +kernel⟩,
    ⟨vstate (vregWord 20 (vf 0 5 false)) 64 [], vf 0 5 false, calm_of (by decide +kernel), by decide +kernel⟩, ⟨vstate (vregWord 21
    (vf 0 5 false)) 64 [], vf 0 5 false, calm_of (by decide +kernel), by decide +kernel⟩, ⟨vstate (vregWord 23 (vf 0 5 false)) 64 [],
    vf 0 5 false, calm_of (by decide +kernel), by decide +kernel⟩, ⟨vstate (vregWord 22 (vf 0 5 false)) 64 [], vf 0 5 false, calm_of
    (by decide +kernel), by decide +kernel⟩, ⟨vregL 16 (vf 7 0 true) 1, vf 7 0 true, calm_of (by decide +kernel), by decide +kernel⟩,
    ⟨vregL 22 (vf 7 0 true) 1, vf 7 0 true, calm_of (by decide +kernel), by decide +kernel⟩, ⟨vregL 40 (vf 7 0 true) 1, vf 7 0 true,
    calm_of (by decide +kernel), by decide +kernel⟩⟩

/-- States and operands that meet the hypotheses of VectorReductions, clause by clause. -/
theorem witness_VectorReductions :
    (∃ (s : State) (x : VReg), (s.tile 511).ve.calm ((s.tile 511).ves.clk + surelyPassed (s.us - (s.tile 511).ves.us)) ∧ hasTile s 511
      = true ∧ (s.tile 511).ve.vl ≤ 64 ∧ nextSlot s 511 Eng.ve = some (vregWord 33 x) ∧ x.ty.toNat = 0 ∧ BitVec.toNat x.imm / 8 % 4 =
      1 ∧ x.vd.toNat ≠ x.vc.toNat)
    ∧ (∃ (s : State) (x : VReg), (s.tile 511).ve.calm ((s.tile 511).ves.clk + surelyPassed (s.us - (s.tile 511).ves.us)) ∧ hasTile s
      511 = true ∧ (s.tile 511).ve.vl ≤ 64 ∧ nextSlot s 511 Eng.ve = some (vregWord 32 x) ∧ x.ty.toNat ≠ 7 ∧ BitVec.toNat x.imm % 8 ≠
      7 ∧ BitVec.toNat x.imm / 8 % 4 = 1 ∧ tyBytes x.ty.toNat ≠ tyBytes (BitVec.toNat x.imm % 8))
    ∧ (∃ (s : State) (x : VReg), (s.tile 511).ve.calm ((s.tile 511).ves.clk + surelyPassed (s.us - (s.tile 511).ves.us)) ∧ hasTile s
      511 = true ∧ (s.tile 511).ve.vl ≤ 64 ∧ nextSlot s 511 Eng.ve = some (vregWord 48 x))
    ∧ (∃ (s : State) (x : VReg), (s.tile 511).ve.calm ((s.tile 511).ves.clk + surelyPassed (s.us - (s.tile 511).ves.us)) ∧ hasTile s
      511 = true ∧ (s.tile 511).ve.vl ≤ 64 ∧ redOk x = true ∧ nextSlot s 511 Eng.ve = some (vregWord 49 x))
    ∧ (∃ (s : State) (x : VReg), (s.tile 511).ve.calm ((s.tile 511).ves.clk + surelyPassed (s.us - (s.tile 511).ves.us)) ∧ hasTile s
      511 = true ∧ (s.tile 511).ve.vl ≤ 64 ∧ redOk x = true ∧ (x.va.toNat = 0 ∨ x.va.toNat = 16) ∧ nextSlot s 511 Eng.ve = some
      (vregWord 50 x))
    ∧ (∃ (s : State) (x : VReg), (s.tile 511).ve.calm ((s.tile 511).ves.clk + surelyPassed (s.us - (s.tile 511).ves.us)) ∧ hasTile s
      511 = true ∧ (s.tile 511).ve.vl ≤ 64 ∧ redOk x = true ∧ (x.va.toNat = 0 ∨ x.va.toNat = 16) ∧ nextSlot s 511 Eng.ve = some
      (vregWord 51 x))
    ∧ (∃ (s : State) (x : VReg), (s.tile 511).ve.calm ((s.tile 511).ves.clk + surelyPassed (s.us - (s.tile 511).ves.us)) ∧ hasTile s
      511 = true ∧ (s.tile 511).ve.vl ≤ 64 ∧ nextSlot s 511 Eng.ve = some (vregWord 32 x) ∧ x.ty.toNat ≠ 7 ∧ BitVec.toNat x.imm % 8 ≠
      7 ∧ BitVec.toNat x.imm / 8 % 4 = 1 ∧ tyBytes x.ty.toNat = tyBytes (BitVec.toNat x.imm % 8)) :=
  ⟨⟨vreg 33 (vf 0 8 false), vf 0 8 false, calm_of (by decide +kernel), by decide +kernel⟩, ⟨vreg 32 (vf 0 9 false), vf 0 9 false,
    calm_of (by decide +kernel), by decide +kernel⟩, ⟨vregL 48 (vf 0 0 false) 33, vf 0 0 false, calm_of (by decide +kernel),
    by decide +kernel⟩, ⟨vregL 49 (vr 0) 63, vr 0, calm_of (by decide +kernel), by decide +kernel⟩, ⟨vregL 50 (vr 0) 63, vr 0, calm_of
    (by decide +kernel), by decide +kernel⟩, ⟨vregL 51 (vr 0) 63, vr 0, calm_of (by decide +kernel), by decide +kernel⟩, ⟨vreg 32 (vf
    1 9 false), vf 1 9 false, calm_of (by decide +kernel), by decide +kernel⟩⟩

/-- States and operands that meet the hypotheses of VectorMemory, clause by clause. -/
theorem witness_VectorMemory :
    (∃ (s : State) (x : VMem), (s.tile 511).ve.calm ((s.tile 511).ves.clk + surelyPassed (s.us - (s.tile 511).ves.us)) ∧ hasTile s 511
      = true ∧ (s.tile 511).ve.vl ≤ 64 ∧ (s.tile 511).ve.lines = [] ∧ (s.tile 511).spoison = [] ∧ earlyLines s 511 1 = [] ∧
      x.off.toNat % 32 = 0 ∧ veEa (s.tile 511).ve x + 256 ≤ sramBytes ∧ nextSlot s 511 Eng.ve = some (vmemWord 8 x))
    ∧ (∃ (s : State) (x : VMem), (s.tile 511).ve.calm ((s.tile 511).ves.clk + surelyPassed (s.us - (s.tile 511).ves.us)) ∧ hasTile s
      511 = true ∧ (s.tile 511).ve.vl ≤ 64 ∧ (s.tile 511).ve.lines = [] ∧ (s.tile 511).spoison = [] ∧ earlyLines s 511 1 = [] ∧
      x.off.toNat % 32 = 0 ∧ veEa (s.tile 511).ve x + 256 ≤ sramBytes ∧ nextSlot s 511 Eng.ve = some (vmemWord 12 x))
    ∧ (∃ (s : State) (x : VMem), (s.tile 511).ve.calm ((s.tile 511).ves.clk + surelyPassed (s.us - (s.tile 511).ves.us)) ∧ hasTile s
      511 = true ∧ (s.tile 511).ve.vl ≤ 64 ∧ (s.tile 511).ve.lines = [] ∧ (s.tile 511).spoison = [] ∧ earlyLines s 511 1 = [] ∧
      x.off.toNat % 32 = 0 ∧ veEa (s.tile 511).ve x + 7 * (x.stride.toNat * 32) + 32 ≤ sramBytes ∧ nextSlot s 511 Eng.ve = some
      (vmemWord 9 x))
    ∧ (∃ (s : State) (x : VMem), (s.tile 511).ve.calm ((s.tile 511).ves.clk + surelyPassed (s.us - (s.tile 511).ves.us)) ∧ hasTile s
      511 = true ∧ (s.tile 511).ve.vl ≤ 64 ∧ (s.tile 511).ve.lines = [] ∧ (s.tile 511).spoison = [] ∧ earlyLines s 511 1 = [] ∧
      x.off.toNat % 32 = 0 ∧ veEa (s.tile 511).ve x + 7 * (x.stride.toNat * 32) + 32 ≤ sramBytes ∧ nextSlot s 511 Eng.ve = some
      (vmemWord 13 x) ∧ 0 < x.stride.toNat * 32)
    ∧ (∃ (s : State) (x : VMem), (s.tile 511).ve.calm ((s.tile 511).ves.clk + surelyPassed (s.us - (s.tile 511).ves.us)) ∧ hasTile s
      511 = true ∧ (s.tile 511).ve.vl ≤ 64 ∧ (s.tile 511).ve.lines = [] ∧ (s.tile 511).spoison = [] ∧ earlyLines s 511 1 = [] ∧
      x.off.toNat % 32 = 0 ∧ veEa (s.tile 511).ve x + 15 * (x.stride.toNat * 32) + 256 ≤ sramBytes ∧ (x.vd.toNat = 0 ∨ x.vd.toNat =
      16) ∧ nextSlot s 511 Eng.ve = some (vmemWord 10 x))
    ∧ (∃ (s : State) (x : VMem), (s.tile 511).ve.calm ((s.tile 511).ves.clk + surelyPassed (s.us - (s.tile 511).ves.us)) ∧ hasTile s
      511 = true ∧ (s.tile 511).ve.vl ≤ 64 ∧ (s.tile 511).ve.lines = [] ∧ (s.tile 511).spoison = [] ∧ earlyLines s 511 1 = [] ∧
      x.off.toNat % 32 = 0 ∧ veEa (s.tile 511).ve x + 15 * (x.stride.toNat * 32) + 256 ≤ sramBytes ∧ (x.vd.toNat = 0 ∨ x.vd.toNat =
      16) ∧ nextSlot s 511 Eng.ve = some (vmemWord 14 x) ∧ 256 ≤ x.stride.toNat * 32)
    ∧ (∃ (s : State) (x : VMem), (s.tile 511).ve.calm ((s.tile 511).ves.clk + surelyPassed (s.us - (s.tile 511).ves.us)) ∧ hasTile s
      511 = true ∧ (s.tile 511).ve.vl ≤ 64 ∧ (s.tile 511).ve.lines = [] ∧ (s.tile 511).spoison = [] ∧ earlyLines s 511 1 = [] ∧
      x.off.toNat % 32 ≠ 0 ∧ nextSlot s 511 Eng.ve = some (vmemWord 8 x))
    ∧ (∃ (s : State) (x : VMem), (s.tile 511).ve.calm ((s.tile 511).ves.clk + surelyPassed (s.us - (s.tile 511).ves.us)) ∧ hasTile s
      511 = true ∧ (s.tile 511).ve.vl ≤ 64 ∧ (s.tile 511).ve.lines = [] ∧ (s.tile 511).spoison = [] ∧ earlyLines s 511 1 = [] ∧
      x.off.toNat % 32 ≠ 0 ∧ nextSlot s 511 Eng.ve = some (vmemWord 12 x)) :=
  ⟨⟨vmem 8 (vm true 4095 0 32) 64, vm true 4095 0 32, calm_of (by decide +kernel), by decide +kernel⟩, ⟨vmem 12 (vm true 1 0 32) 64,
    vm true 1 0 32, calm_of (by decide +kernel), by decide +kernel⟩, ⟨vmem 9 (vm false 1 3 0) 64, vm false 1 3 0, calm_of
    (by decide +kernel), by decide +kernel⟩, ⟨vmem 13 (vm false 1 1 0) 64, vm false 1 1 0, calm_of (by decide +kernel),
    by decide +kernel⟩, ⟨vmem 10 (vm true 1 8 0) 64, vm true 1 8 0, calm_of (by decide +kernel), by decide +kernel⟩, ⟨vmem 14 (vm true
    1 8 0) 64, vm true 1 8 0, calm_of (by decide +kernel), by decide +kernel⟩, ⟨vmem 8 (vm true 1 8 1) 64, vm true 1 8 1, calm_of
    (by decide +kernel), by decide +kernel⟩, ⟨vmem 12 (vm true 1 8 31) 64, vm true 1 8 31, calm_of (by decide +kernel),
    by decide +kernel⟩⟩

/-- States and operands that meet the hypotheses of EngineRoutines, clause by clause. -/
theorem witness_EngineRoutines :
    (∃ (s : State), hasTile s 511 = true ∧ tileRuns s 511 = true ∧ (s.tile 511).ves.routine = some (49150, 1, 4096) ∧ 49150 * 32 + 56
      ≤ sramBytes ∧ 1 < 2 ^ 32 ∧ 4096 < 2 ^ 32)
    ∧ (∃ (s : State), hasTile s 511 = true ∧ nextCall s 511 = some (1, 49149) ∧ (s.tile 511).spoison = [] ∧ (s.tile 511).storePz =
      false ∧ earlyLines s 511 1 = [] ∧ cwStatus (decide (1 = 1)) (cwArg (s.tile 511) 49149) = 1 ∧ (cwArg (s.tile 511) 49149).R = 1 ∧
      (cwArg (s.tile 511) 49149).inType = 0 ∧ (cwArg (s.tile 511) 49149).outType = 0 ∧ absent (cwArg (s.tile 511) 49149).mask = true ∧
      absent (cwArg (s.tile 511) 49149).stats = true ∧ absent (cwArg (s.tile 511) 49149).flags = true ∧ absent (cwArg (s.tile 511)
      49149).gamma = true ∧ absent (cwArg (s.tile 511) 49149).beta = true ∧ (cwArg (s.tile 511) 49149).input + 4 * (cwArg (s.tile 511)
      49149).L ≤ sramBytes ∧ (cwArg (s.tile 511) 49149).output + 4 * (cwArg (s.tile 511) 49149).L ≤ sramBytes)
    ∧ (∃ (s : State), hasTile s 511 = true ∧ nextCall s 511 = some (2, 49149) ∧ (s.tile 511).spoison = [] ∧ (s.tile 511).storePz =
      false ∧ earlyLines s 511 1 = [] ∧ cwStatus (decide (2 = 1)) (cwArg (s.tile 511) 49149) = 1 ∧ (cwArg (s.tile 511) 49149).R = 1 ∧
      (cwArg (s.tile 511) 49149).inType = 0 ∧ (cwArg (s.tile 511) 49149).outType = 0 ∧ absent (cwArg (s.tile 511) 49149).mask = true ∧
      absent (cwArg (s.tile 511) 49149).stats = true ∧ absent (cwArg (s.tile 511) 49149).flags = true ∧ absent (cwArg (s.tile 511)
      49149).gamma = true ∧ absent (cwArg (s.tile 511) 49149).beta = true ∧ (cwArg (s.tile 511) 49149).input + 4 * (cwArg (s.tile 511)
      49149).L ≤ sramBytes ∧ (cwArg (s.tile 511) 49149).output + 4 * (cwArg (s.tile 511) 49149).L ≤ sramBytes)
    ∧ (∃ (s : State), hasTile s 511 = true ∧ nextCall s 511 = some (3, 49149) ∧ (s.tile 511).spoison = [] ∧ (s.tile 511).storePz =
      false ∧ earlyLines s 511 1 = [] ∧ cwStatus (decide (3 = 1)) (cwArg (s.tile 511) 49149) = 1 ∧ (cwArg (s.tile 511) 49149).R = 1 ∧
      (cwArg (s.tile 511) 49149).inType = 0 ∧ (cwArg (s.tile 511) 49149).outType = 0 ∧ absent (cwArg (s.tile 511) 49149).mask = true ∧
      absent (cwArg (s.tile 511) 49149).stats = true ∧ absent (cwArg (s.tile 511) 49149).flags = true ∧ absent (cwArg (s.tile 511)
      49149).gamma = true ∧ absent (cwArg (s.tile 511) 49149).beta = true ∧ (cwArg (s.tile 511) 49149).input + 4 * (cwArg (s.tile 511)
      49149).L ≤ sramBytes ∧ (cwArg (s.tile 511) 49149).output + 4 * (cwArg (s.tile 511) 49149).L ≤ sramBytes)
    ∧ (∃ (s : State), hasTile s 511 = true ∧ nextCall s 511 = some (1, 49149) ∧ (s.tile 511).spoison = [] ∧ (s.tile 511).storePz =
      false ∧ earlyLines s 511 1 = [] ∧ cwStatus (decide (1 = 1)) (cwArg (s.tile 511) 49149) ≠ 1)
    ∧ (∃ (s : State), hasTile s 511 = true ∧ nextCall s 511 = some (2, 49149) ∧ (s.tile 511).spoison = [] ∧ (s.tile 511).storePz =
      false ∧ earlyLines s 511 1 = [] ∧ cwStatus (decide (2 = 1)) (cwArg (s.tile 511) 49149) ≠ 1)
    ∧ (∃ (s : State), hasTile s 511 = true ∧ nextCall s 511 = some (3, 49149) ∧ (s.tile 511).spoison = [] ∧ (s.tile 511).storePz =
      false ∧ earlyLines s 511 1 = [] ∧ cwStatus (decide (3 = 1)) (cwArg (s.tile 511) 49149) ≠ 1)
    ∧ (∃ (s : State), hasTile s 511 = true ∧ (engOf s 511 Eng.mx).wait = some (31, 5) ∧ tileRuns s 511 = true ∧ 5 ≤ semVal s 511 31)
    ∧ (∃ (s : State), hasTile s 511 = true ∧ (engOf s 511 Eng.mx).wait = some (31, 6) ∧ tileRuns s 511 = true ∧ semVal s 511 31 < 6) :=
  ⟨⟨cwDone, by decide +kernel⟩, ⟨cwState 1 1, by decide +kernel⟩, ⟨cwState 2 1, by decide +kernel⟩, ⟨cwState 3 1, by decide +kernel⟩,
    ⟨cwState 1 4097, by decide +kernel⟩, ⟨cwState 2 4097, by decide +kernel⟩, ⟨cwState 3 4097, by decide +kernel⟩, ⟨waitState Eng.mx
    5, by decide +kernel⟩, ⟨waitState Eng.mx 6, by decide +kernel⟩⟩

/-- States and operands that meet the hypotheses of DmaPrograms, clause by clause. -/
theorem witness_DmaPrograms :
    (∃ (s : State), hasTile s 511 = true ∧ 3 < 4 ∧ chReady s 511 3 = true ∧ fld (chWord s 511 3) 0 8 = 1 ∧ chWord s 511 3 &&&
      18446744073709551360 = 0 ∧ (dch s 511 3).writes = [])
    ∧ (∃ (s : State), hasTile s 511 = true ∧ 3 < 4 ∧ bitOf 1 0 = true ∧ chSt s 511 3 = 0 ∧ ¬pgDma 511 ∈ s.disabled ∧ (s.tile
      511).gated = false)
    ∧ (∃ (s : State), structCheck (leWords (mread (s.tile 511).sram (dch s 511 3).src 2048)) 256 0 0 = Except.error (1351, 0) ∧
      hasTile s 511 = true ∧ 3 < 4 ∧ chSt s 511 3 = 1 ∧ dmaRuns s 511 = true ∧ (dch s 511 3).sram = true ∧ (dch s 511 3).src + 2048 ≤
      sramBytes ∧ (s.tile 511).spoison = [] ∧ earlyLines s 511 2 = [] ∧ 0 < 256 ∧ (dch s 511 3).writes = [])
    ∧ (∃ (s : State), hasTile s 511 = true ∧ 3 < 4 ∧ chReady s 511 3 = true ∧ fld (chWord s 511 3) 0 8 = 4 ∧ chWord s 511 3 &&&
      18446744069414641664 = 0 ∧ fld (chWord s 511 3) 8 5 = (31#5).toNat ∧ fld (chWord s 511 3) 16 16 = (65535#16).toNat)
    ∧ (∃ (s : State), structCheck (List.map (fun x => x.fst) (dch s 511 3).fetched ++ leWords (7, leBytes 8 1 ++ leBytes 8 0,
      [false]).snd.fst) 256 0 0 = Except.ok (0 + 1) ∧ hasTile s 511 = true ∧ 3 < 4 ∧ chSt s 511 3 = 1 ∧ dmaRuns s 511 = true ∧ (dch s
      511 3).sram = false ∧ (dch s 511 3).reads = [fetchRead 7 512 (leBytes 8 1 ++ leBytes 8 0).length, fetchRead 8 1024 64] ∧
      (fetchRead 7 512 (leBytes 8 1 ++ leBytes 8 0).length).role = 3 ∧ List.find? (fun x => decide (x.fst = (fetchRead 7 512 (leBytes
      8 1 ++ leBytes 8 0).length).tag)) (dch s 511 3).rback = some (7, leBytes 8 1 ++ leBytes 8 0, [false]) ∧ List.any (7,
      leBytes 8 1 ++ leBytes 8 0, [false]).snd.snd id = false ∧ (dch s 511 3).fetched.any (fun w => w.snd) = false)
    ∧ (∃ (s : State), hasTile s 511 = true ∧ 3 < 4 ∧ chReady s 511 3 = true ∧ fld (chWord s 511 3) 0 8 = 2 ∧ chWord s 511 3 &&&
      18446462598732906240 = 0 ∧ fld (chWord s 511 3) 16 32 = (1#32).toNat ∧ 1#32 ≠ 0)
    ∧ (∃ (s : State), hasTile s 511 = true ∧ 3 < 4 ∧ chReady s 511 3 = true ∧ fld (chWord s 511 3) 0 8 = 2 ∧ chWord s 511 3 &&&
      18446462598732906240 = 0 ∧ fld (chWord s 511 3) 16 32 = (0#32).toNat ∧ 0#32 = 0)
    ∧ (∃ (s : State), structCheck (leWords (mread (s.tile 511).sram (dch s 511 3).src 2048)) 256 0 0 = Except.ok (0 + 1) ∧ hasTile s
      511 = true ∧ 3 < 4 ∧ chSt s 511 3 = 1 ∧ dmaRuns s 511 = true ∧ (dch s 511 3).sram = true ∧ (dch s 511 3).src + 2048 ≤ sramBytes
      ∧ (s.tile 511).spoison = [] ∧ earlyLines s 511 2 = [])
    ∧ (∃ (s : State) (r : DLoop), hasTile s 511 = true ∧ 3 < 4 ∧ chReady s 511 3 = true ∧ fld (chWord s 511 3) 0 8 = 3 ∧ chWord s 511
      3 &&& 18446744073709551360 = 0 ∧ (dch s 511 3).loops = [r] ∧ r.iter + 1 < r.count)
    ∧ (∃ (s : State) (r : DLoop), hasTile s 511 = true ∧ 3 < 4 ∧ chReady s 511 3 = true ∧ fld (chWord s 511 3) 0 8 = 3 ∧ chWord s 511
      3 &&& 18446744073709551360 = 0 ∧ (dch s 511 3).loops = [r] ∧ r.count ≤ r.iter + 1)
    ∧ (∃ (s : State), hasTile s 511 = true ∧ 3 < 4 ∧ chReady s 511 3 = true ∧ fld (chWord s 511 3) 0 8 = 1 ∧ chWord s 511 3 &&&
      18446744073709551360 = 0 ∧ (dch s 511 3).writes ≠ [])
    ∧ (∃ (s : State), hasTile s 511 = true ∧ 3 < 4 ∧ chReady s 511 3 = true ∧ fld (chWord s 511 3) 0 8 = 5 ∧ chWord s 511 3 &&&
      281337537757184 = 0 ∧ fld (chWord s 511 3) 8 2 = 0 ∧ (dch s 511 3).writes = [])
    ∧ (∃ (s : State), hasTile s 511 = true ∧ 3 < 4 ∧ chReady s 511 3 = true ∧ fld (chWord s 511 3) 0 8 = 5 ∧ chWord s 511 3 &&&
      281337537757184 = 0 ∧ fld (chWord s 511 3) 8 2 = 2 ∧ (dch s 511 3).writes = [])
    ∧ (∃ (s : State), hasTile s 511 = true ∧ 3 < 4 ∧ chReady s 511 3 = true ∧ fld (chWord s 511 3) 0 8 = 5 ∧ chWord s 511 3 &&&
      281337537757184 = 0 ∧ fld (chWord s 511 3) 8 2 = 0 ∧ (dch s 511 3).writes ≠ [])
    ∧ (∃ (s : State), hasTile s 511 = true ∧ 3 < 4 ∧ chReady s 511 3 = true ∧ fld (chWord s 511 3) 0 8 = 5 ∧ chWord s 511 3 &&&
      281337537757184 = 0 ∧ fld (chWord s 511 3) 8 2 = 3 ∧ getF s pgSync F.SYNC_ROUTE_VALID (fld (chWord s 511 3) 10 6) = 1 ∧
      svcGlobal s = true)
    ∧ (∃ (s : State), hasTile s 511 = true ∧ 3 < 4 ∧ chSt s 511 3 = 1 ∧ dmaRuns s 511 = true ∧ (dch s 511 3).sram = false ∧ (dch s 511
      3).reads = [fetchRead 7 512 (leBytes 8 65538).length, fetchRead 8 1024 64] ∧ (fetchRead 7 512 (leBytes 8 65538).length).role = 3
      ∧ List.find? (fun x => decide (x.fst = (fetchRead 7 512 (leBytes 8 65538).length).tag)) (dch s 511 3).rback = some (7, leBytes 8
      65538, [false]) ∧ List.any (7, leBytes 8 65538, [false]).snd.snd id = false ∧ (dch s 511 3).fetched.any (fun w => w.snd) = false ∧ fetchesOn (List.map (fun x => x.fst) (dch s 511 3).fetched ++ leWords (7, leBytes 8 65538,
      [false]).snd.fst) = true)
    ∧ (∃ (s : State), hasTile s 511 = true ∧ 3 < 4 ∧ bitOf 1 0 = true ∧ chSt s 511 3 ≠ 0 ∧ (s.tile 511).gated = false) :=
  ⟨⟨dmaWord 1 [] [], by decide +kernel⟩, ⟨dmaState 0 0 { }, by decide +kernel⟩, ⟨dmaFetch [3], error_of (by decide +kernel),
    by decide +kernel⟩, ⟨dmaWord 4294909700 [] [], by decide +kernel⟩, ⟨dmaFetched (leBytes 8 1 ++ leBytes 8 0), ok_of
    (by decide +kernel), by decide +kernel⟩, ⟨dmaWord 65538 [] [], by decide +kernel⟩, ⟨dmaWord 2 [] [], by decide +kernel⟩, ⟨dmaFetch
    [1], ok_of (by decide +kernel), by decide +kernel⟩, ⟨dmaWord 3 [{ start := 1, count := 5, iter := 3 }] [], ⟨1, 5, 3⟩,
    by decide +kernel⟩, ⟨dmaWord 3 [{ start := 1, count := 5, iter := 4 }] [], ⟨1, 5, 4⟩, by decide +kernel⟩, ⟨dmaWord 1 [] [5],
    by decide +kernel⟩, ⟨dmaWord 18446462598734872581 [] [], by decide +kernel⟩, ⟨dmaWord 18446462599001211397 [] [],
    by decide +kernel⟩, ⟨dmaWord 18446462598734872581 [] [5], by decide +kernel⟩, ⟨dmaSignal, by decide +kernel⟩, ⟨dmaFetched (leBytes
    8 65538), by decide +kernel⟩, ⟨dmaState 2 0 { }, by decide +kernel⟩⟩

/-- States and operands that meet the hypotheses of DmaMoves, clause by clause. -/
theorem witness_DmaMoves :
    (∃ (s : State), ∃ a, a = List.take 13 (List.drop (chPc s 511 3) (dch s 511 3).prog) ∧ ((∀ (h i : Nat), secClass s (descSec h i) =
      0) ∧ ∀ (n e : Nat), secClass s (ownSec n e) = 0) ∧ hasTile s 511 = true ∧ 3 < 4 ∧ chReady s 511 3 = true ∧ fld (chWord s 511 3)
      0 8 = 16 ∧ fld (chWord s 511 3) 10 2 = 0 ∧ moveCheck s a (dch s 511 3) = 0 ∧ identicalMove a (dch s 511 3) (s.desc (mHandle a
      0)) (s.desc (mHandle a 1)) = false ∧ mForm a = 0 ∧ sidesMeet (s.desc (mHandle a 0)) (s.desc (mHandle a 1)) (mElems s a (dch s
      511 3) (s.desc (mHandle a 0)) (s.desc (mHandle a 1)) []).fst = false)
    ∧ (∃ (s : State), hasTile s 511 = true ∧ 3 < 4 ∧ (dch s 511 3).wback = [9] ∧ (dch s 511 3).wtodo = [])
    ∧ (∃ (s : State), ∃ a, a = List.take 13 (List.drop (chPc s 511 3) (dch s 511 3).prog) ∧ ((∀ (h i : Nat), secClass s (descSec h i)
      = 0) ∧ ∀ (n e : Nat), secClass s (ownSec n e) = 0) ∧ hasTile s 511 = true ∧ 3 < 4 ∧ chReady s 511 3 = true ∧ fld (chWord s 511
      3) 0 8 = 16 ∧ fld (chWord s 511 3) 10 2 = 0 ∧ moveCheck s a (dch s 511 3) = moveCheck s a (dch s 511 3) ∧ moveCheck s a (dch s
      511 3) ≠ 0 ∧ (dch s 511 3).writes = [])
    ∧ (∃ (s : State), hasTile s 511 = true ∧ 3 < 4 ∧ (dch s 511 3).reads = [aRead] ∧ aRead.role = 0 ∧ aRead.pieces = [aPiece] ∧
      List.find? (fun x => decide (x.fst = aRead.tag)) (dch s 511 3).rback = some (7, leBytes 8 1234605616436508552, [false]) ∧
      dmaRuns s 511 = true ∧ (dch s 511 3).wtodo = [] ∧ (dch s 511 3).writes.length < 16 ∧ (dch s 511 3).ctl.acc = false ∧ (dch s 511
      3).asm.bytes = [] ∧ (∀ (m : MoveRun), (dch s 511 3).move = some m → m.begun = true) ∧ aPiece.fill = none ∧ aPiece.last = true ∧
      aPiece.dst.kind = 0 ∧ 0 < aPiece.n ∧ aPiece.off % 8 = 0 ∧ aPiece.n % 8 = 0 ∧ aPiece.dst.addr % 8 = 0 ∧ aPiece.dst.addr % 16384 +
      aPiece.n ≤ 16384 ∧ aPiece.dst.addr / 8 + aPiece.n / 8 ≤ sramBytes ∧ aPiece.off / 8 + aPiece.n / 8 ≤ (7, leBytes 8
      1234605616436508552, [false]).snd.fst.length)
    ∧ (∃ (s : State), ∃ a, a = List.take 13 (List.drop (chPc s 511 3) (dch s 511 3).prog) ∧ ((∀ (h i : Nat), secClass s (descSec h i)
      = 0) ∧ ∀ (n e : Nat), secClass s (ownSec n e) = 0) ∧ hasTile s 511 = true ∧ 3 < 4 ∧ chReady s 511 3 = true ∧ fld (chWord s 511
      3) 0 8 = 16 ∧ fld (chWord s 511 3) 10 2 = 0 ∧ moveCheck s a (dch s 511 3) = 0 ∧ mForm a ≠ 0 ∧ moveReads 1 32 32 0 false (segsOf
      32 32 (dNarrow (s.desc (mHandle a 2))) false (List.filter (fun e => match e.src with | Place.at_ l => true | x => false)
      (idxPlaces s a (dRank (s.desc (mHandle a 0))) (s.desc (mHandle a 2))))) ≠ [])
    ∧ (∃ (s : State), ∃ a, a = List.take 13 (List.drop (chPc s 511 3) (dch s 511 3).prog) ∧ ((∀ (h i : Nat), secClass s (descSec h i)
      = 0) ∧ ∀ (n e : Nat), secClass s (ownSec n e) = 0) ∧ hasTile s 511 = true ∧ 3 < 4 ∧ chReady s 511 3 = true ∧ fld (chWord s 511
      3) 0 8 = 16 ∧ fld (chWord s 511 3) 10 2 = 0 ∧ moveCheck s a (dch s 511 3) = 0 ∧ identicalMove a (dch s 511 3) (s.desc (mHandle a
      0)) (s.desc (mHandle a 1)) = true)
    ∧ (∃ (s : State), hasTile s 511 = true ∧ 3 < 4 ∧ chReady s 511 3 = true ∧ fld (chWord s 511 3) 0 8 = 16 ∧ fld (chWord s 511 3) 10
      2 ≠ 0 ∧ (dch s 511 3).writes = [])
    ∧ (∃ (s : State), hasTile s 511 = true ∧ 3 < 4 ∧ (dch s 511 3).reads = [aRead] ∧ List.find? (fun x => decide (x.fst = aRead.tag))
      (dch s 511 3).rback = none) :=
  ⟨⟨moveState 1 2, _, rfl, ⟨fun _ _ => clean_secClass rfl rfl _, fun _ _ => clean_secClass rfl rfl _⟩, by decide +kernel⟩,
    ⟨writeState, by decide +kernel⟩, ⟨moveState 1 3, _, rfl, ⟨fun _ _ => clean_secClass rfl rfl _, fun _ _ => clean_secClass rfl rfl
    _⟩, by decide +kernel⟩, ⟨readState, by decide +kernel⟩, ⟨moveState 1 2 (256 + 4 * 2 ^ 36), _, rfl, ⟨fun _ _ => clean_secClass rfl
    rfl _, fun _ _ => clean_secClass rfl rfl _⟩, by decide +kernel⟩, ⟨moveState 1 1, _, rfl, ⟨fun _ _ => clean_secClass rfl rfl _, fun
    _ _ => clean_secClass rfl rfl _⟩, by decide +kernel⟩, ⟨moveState 1 2 1024, by decide +kernel⟩, ⟨readWait, by decide +kernel⟩⟩

/-- States and operands that meet the hypotheses of EngineSlotWork, clause by clause. -/
theorem witness_EngineSlotWork :
    (∃ (s : State) (x : W64), hasTile s 511 = true ∧ nextSlot s 511 Eng.dma = some x ∧ slotOp Eng.dma x = 2 ∧ chSt s 511 (fld x 16 2)
      = 0 ∧ ¬pgDma 511 ∈ s.disabled ∧ ((s.tile 511).soon.any fun y => decide (y.thing = slotThing (fld x 20 3)) && y.live s 511 2) =
      false ∧ lClass (lcbWords s 511 (fld x 20 3)) = 2 ∧ lNlev (lcbWords s 511 (fld x 20 3)) = 0 ∧ lKsplit (lcbWords s 511 (fld x 20
      3)) = false ∧ fld (lw (lcbWords s 511 (fld x 20 3)) 0) 8 6 = 0 ∧ (((dprog (lcbWords s 511 (fld x 20 3)) 511).snd % if (dprog
      (lcbWords s 511 (fld x 20 3)) 511).fst = true then 32 else 64) = 0))
    ∧ (∃ (s : State) (x : W64), hasTile s 511 = true ∧ nextSlot s 511 Eng.srl = some x ∧ slotOp Eng.srl x = 3 ∧ srlBad s x = false ∧
      (s.tile 511).srlOut.length < 32 ∧ earlyLines s 511 3 = [] ∧ intakeIsolated s (fld x 51 5) (fld x 46 5) (4096 + 511) = false ∧
      (chState s (fld x 51 5) (fld x 46 5) = 2 ∨ chState s (fld x 51 5) (fld x 46 5) = 3) ∧ chOwner s (fld x 51 5) (fld x 46 5) = 4096
      + 511 ∧ (s.chan (fld x 51 5) (fld x 46 5)).held = [] ∧ 8 ≤ fld x 37 9 % 32 ∧ ((fld x 37 9 % 32 + if fld x 32 5 = 0 then 32 else
      fld x 32 5) ≤ 16) ∧ (s.unit (unitOf (fld x 51 5) (fld x 46 5) (fld x 37 9 / 32))).run = none)
    ∧ (∃ (s : State) (x : W64), hasTile s 511 = true ∧ nextSlot s 511 Eng.dma = some x ∧ slotOp Eng.dma x = 1 ∧ chSt s 511 (fld x 16
      2) = 0 ∧ ¬pgDma 511 ∈ s.disabled)
    ∧ (∃ (s : State) (x : List Byte), hasTile s 511 = true ∧ (s.tile 511).srlBack = [(64 + 5 * 2 ^ 20, x, [false, false]), (64, [],
      [])] ∧ (s.tile 511).srun = none ∧ (64 + 5 * 2 ^ 20) % 2 ^ 20 < forPoll ∧ (64 + 5 * 2 ^ 20) % 2 ^ 20 * 32 + x.length ≤ sramBytes)
    ∧ (∃ (s : State) (x : W64), hasTile s 511 = true ∧ nextSlot s 511 Eng.srl = some x ∧ slotOp Eng.srl x = 3 ∧ srlBad s x = false ∧
      (s.tile 511).srlOut.length < 32 ∧ earlyLines s 511 3 = [] ∧ intakeIsolated s (fld x 51 5) (fld x 46 5) (4096 + 511) = false ∧
      chState s (fld x 51 5) (fld x 46 5) = 0 ∧ ((srlPieces (fld x 37 9) (if fld x 32 5 = 0 then 32 else fld x 32 5)).length = 1))
    ∧ (∃ (s : State) (x : W64), hasTile s 511 = true ∧ nextSlot s 511 Eng.srl = some x ∧ slotOp Eng.srl x = 4 ∧ srlBad s x = false ∧
      (s.tile 511).srlOut.length < 32 ∧ intakeIsolated s (fld x 51 5) (fld x 46 5) (4096 + 511) = false ∧ (chState s (fld x 51 5) (fld
      x 46 5) = 2 ∨ chState s (fld x 51 5) (fld x 46 5) = 3) ∧ chOwner s (fld x 51 5) (fld x 46 5) = 4096 + 511 ∧ (s.chan (fld x 51 5)
      (fld x 46 5)).held = [] ∧ ((fld x 37 9 % 32 + if fld x 32 5 = 0 then 32 else fld x 32 5) ≤ 24))
    ∧ (∃ (s : State) (x : W64), hasTile s 511 = true ∧ nextSlot s 511 Eng.srl = some x ∧ slotOp Eng.srl x = 2 ∧ ((s.tile 511).soon.any
      fun y => decide (y.thing = slotThing (fld x 48 3)) && y.live s 511 3) = false ∧ lClass (lcbWords s 511 (fld x 48 3)) = 3 ∧ lNlev
      (lcbWords s 511 (fld x 48 3)) ≠ 7 ∧ lKsplit (lcbWords s 511 (fld x 48 3)) = false ∧ lTotal (lcbWords s 511 (fld x 48 3)) = 1 ∧
      lStreams (lcbWords s 511 (fld x 48 3)) = [] ∧ (s.tile 511).srlOut.length < 32 ∧ (s.tile 511).srl.loops = [] ∧ (srunLaunch s 511
      (lcbWords s 511 (fld x 48 3)) fun j => lValue (lcbWords s 511 (fld x 48 3)) 511 0 j []).fst = some 16)
    ∧ (∃ (s : State) (x : W64), hasTile s 511 = true ∧ nextSlot s 511 Eng.srl = some x ∧ slotOp Eng.srl x = 5 ∧ fld x 51 5 <
      s.member.stackCount ∧ (s.tile 511).srlOut.length < 32)
    ∧ (∃ (s : State) (x : List Byte), hasTile s 511 = true ∧ (s.tile 511).srlBack = [(forPoll + 5 * 2 ^ 20, x, [false, false]), (64,
      [], [])] ∧ (s.tile 511).srun = none ∧ (forPoll + 5 * 2 ^ 20) % 2 ^ 20 = forPoll ∧ (forPoll + 5 * 2 ^ 20) / 2 ^ 20 ≤ (s.tile
      511).srl.swaitFrom)
    ∧ (∃ (s : State) (x : List Byte), hasTile s 511 = true ∧ (s.tile 511).srlBack = [(forPoll + 5 * 2 ^ 20, x, [false, false]), (64,
      [], [])] ∧ (s.tile 511).srun = none ∧ (forPoll + 5 * 2 ^ 20) % 2 ^ 20 = forPoll ∧ (s.tile 511).srl.swait = some (19, 31, 7, 513)
      ∧ (s.tile 511).srl.swaitFrom < (forPoll + 5 * 2 ^ 20) / 2 ^ 20 ∧ Nat.land 513 ((leNat (List.take 2 x)).lor (leNat (List.take 2
      (List.drop 4 x)))) = 513)
    ∧ (∃ (s : State) (x : List Byte), hasTile s 511 = true ∧ (s.tile 511).srlBack = [(forPoll + 5 * 2 ^ 20, x, [false, false]), (64,
      [], [])] ∧ (s.tile 511).srun = none ∧ (forPoll + 5 * 2 ^ 20) % 2 ^ 20 = forPoll ∧ (s.tile 511).srl.swait = some (19, 31, 7,
      61953) ∧ (s.tile 511).srl.swaitFrom < (forPoll + 5 * 2 ^ 20) / 2 ^ 20 ∧ Nat.land 61953 ((leNat (List.take 2 x)).lor (leNat
      (List.take 2 (List.drop 4 x)))) ≠ 61953)
    ∧ (∃ (s : State) (x : W64), hasTile s 511 = true ∧ nextSlot s 511 Eng.srl = some x ∧ slotOp Eng.srl x = 3 ∧ srlBad s x = true)
    ∧ (∃ (s : State) (x : W64), hasTile s 511 = true ∧ nextSlot s 511 Eng.srl = some x ∧ slotOp Eng.srl x = 2 ∧ ((s.tile 511).soon.any
      fun y => decide (y.thing = slotThing (fld x 48 3)) && y.live s 511 3) = false ∧ lClass (lcbWords s 511 (fld x 48 3)) = 3 ∧ lNlev
      (lcbWords s 511 (fld x 48 3)) ≠ 7 ∧ lKsplit (lcbWords s 511 (fld x 48 3)) = false ∧ lTotal (lcbWords s 511 (fld x 48 3)) = 0)
    ∧ (∃ (s : State) (x : W64), hasTile s 511 = true ∧ nextSlot s 511 Eng.dma = some x ∧ slotOp Eng.dma x = 1 ∧ chSt s 511 (fld x 16
      2) ≠ 0)
    ∧ (∃ (s : State) (x : W64), hasTile s 511 = true ∧ nextSlot s 511 Eng.srl = some x ∧ slotOp Eng.srl x = 3 ∧ srlBad s x = false ∧
      32 ≤ (s.tile 511).srlOut.eraseDups.length) :=
  ⟨⟨lcbState Eng.dma 2 (3 * 2 ^ 16 + 7 * 2 ^ 20) (drunWords 1924145348672), slotWord Eng.dma 2 (3 * 2 ^ 16 + 7 * 2 ^ 20),
    by decide +kernel⟩, ⟨srlOwned 3 (srlRest 8 1 64), slotWord Eng.srl 3 (srlRest 8 1 64), by decide +kernel⟩, ⟨slotState Eng.dma 1 (3
    * 2 ^ 16) [], slotWord Eng.dma 1 (3 * 2 ^ 16), by decide +kernel⟩, ⟨srlDone 64 line64 none, line64, by decide +kernel⟩, ⟨srlState
    3 (srlRest 31 1 49150) [], slotWord Eng.srl 3 (srlRest 31 1 49150), by decide +kernel⟩, ⟨srlOwned 4 (srlRest 8 1 64), slotWord
    Eng.srl 4 (srlRest 8 1 64), by decide +kernel⟩, ⟨lcbState Eng.srl 2 (7 * 2 ^ 48) (srunWords 3), slotWord Eng.srl 2 (7 * 2 ^ 48),
    by decide +kernel⟩, ⟨srlState 5 (srlRest 0 0 65535) [], slotWord Eng.srl 5 (srlRest 0 0 65535), by decide +kernel⟩, ⟨srlDone
    forPoll line64 (some (19, 31, 7, 513)) 5, line64, by decide +kernel⟩, ⟨srlDone forPoll line64 (some (19, 31, 7, 513)), line64,
    by decide +kernel⟩, ⟨srlDone forPoll line64 (some (19, 31, 7, 61953)), line64, by decide +kernel⟩, ⟨srlState 3 (srlRest 0 1 65)
    [], slotWord Eng.srl 3 (srlRest 0 1 65), by decide +kernel⟩, ⟨lcbState Eng.srl 2 (7 * 2 ^ 48) (srunWords 19), slotWord Eng.srl 2
    (7 * 2 ^ 48), by decide +kernel⟩, ⟨setF (slotState Eng.dma 1 (3 * 2 ^ 16) []) (pgDma 511) F.DMA_CH_STAT_STATE 2 3, slotWord
    Eng.dma 1 (3 * 2 ^ 16), by decide +kernel⟩, ⟨srlState 3 (srlRest 0 1 64) (List.range 32), slotWord Eng.srl 3 (srlRest 0 1 64),
    by decide +kernel⟩⟩

/-- States and operands that meet the hypotheses of DescriptorsAndAllocations, clause by clause. -/
theorem witness_DescriptorsAndAllocations :
    (∃ (s : State), 8 < 9 ∧ 4095 < 4096 ∧ slotOfWriter (Writer.uzoid 7) = 8 ∧ getF s pgDesc F.DESC_RESULT_BUSY 8 = 0 ∧ s.descQ = [] ∧
      createCheck s 4095 (stageWords s 8) = 0)
    ∧ (∃ (s : State), 8 < 9 ∧ 4095 < 4096 ∧ slotOfWriter (Writer.uzoid 7) = 8 ∧ s.allocQ = [] ∧ getF s pgAlloc F.ALLOC_REQ0_OP 8 = 0 ∧
      (s.alloc (getF s pgAlloc F.ALLOC_REQ0_ID 8)).valid = false ∧ rangeBad s (getF s pgAlloc F.ALLOC_REQ0_KIND 8) (getF s pgAlloc
      F.ALLOC_REQ0_TILE 8) (getF s pgAlloc F.ALLOC_REQ1_BASE 8) (getF s pgAlloc F.ALLOC_REQ2_SIZE 8) = false ∧ overlaps s (getF s
      pgAlloc F.ALLOC_REQ0_KIND 8) (getF s pgAlloc F.ALLOC_REQ0_TILE 8) (getF s pgAlloc F.ALLOC_REQ1_BASE 8) (getF s pgAlloc
      F.ALLOC_REQ2_SIZE 8) = false)
    ∧ (∃ (s : State), 8 < 9 ∧ 4095 < 4096 ∧ slotOfWriter (Writer.uzoid 7) = 8 ∧ getF s pgDesc F.DESC_RESULT_BUSY 8 = 0 ∧ s.descQ ≠ [])
    ∧ (∃ (s : State), 8 < 9 ∧ 4095 < 4096 ∧ slotOfWriter (Writer.uzoid 7) = 8 ∧ getF s pgDesc F.DESC_RESULT_BUSY 8 = 0 ∧ s.descQ = []
      ∧ dValid (s.desc 4095) = true ∧ dPinned (s.desc 4095) = false)
    ∧ (∃ (s : State), 8 < 9 ∧ 4095 < 4096 ∧ slotOfWriter (Writer.uzoid 7) = 8 ∧ getF s pgDesc F.DESC_RESULT_BUSY 8 = 0 ∧ s.descQ = []
      ∧ createCheck s 4095 (stageWords s 8) = 4421 ∧ 4421 ≠ 0)
    ∧ (∃ (s : State), 8 < 9 ∧ 4095 < 4096 ∧ slotOfWriter (Writer.uzoid 7) = 8 ∧ s.allocQ = [] ∧ getF s pgAlloc F.ALLOC_REQ0_OP 8 = 1 ∧
      (s.alloc (getF s pgAlloc F.ALLOC_REQ0_ID 8)).valid = true ∧ (s.alloc (getF s pgAlloc F.ALLOC_REQ0_ID 8)).refs = 0)
    ∧ (∃ (s : State), 8 < 9 ∧ 4095 < 4096 ∧ slotOfWriter (Writer.uzoid 7) = 8 ∧ s.allocQ = [] ∧ getF s pgAlloc F.ALLOC_REQ0_OP 8 = 0 ∧
      (s.alloc (getF s pgAlloc F.ALLOC_REQ0_ID 8)).valid = true)
    ∧ (∃ (s : State), 8 < 9 ∧ 4095 < 4096 ∧ slotOfWriter (Writer.uzoid 7) = 8 ∧ s.allocQ = [] ∧ getF s pgAlloc F.ALLOC_REQ0_OP 8 = 1 ∧
      (s.alloc (getF s pgAlloc F.ALLOC_REQ0_ID 8)).valid = false)
    ∧ (∃ (s : State), 8 < 9 ∧ 4095 < 4096 ∧ slotOfWriter (Writer.uzoid 7) = 8 ∧ s.allocQ = [] ∧ getF s pgAlloc F.ALLOC_REQ0_OP 8 = 1 ∧
      (s.alloc (getF s pgAlloc F.ALLOC_REQ0_ID 8)).valid = true ∧ (s.alloc (getF s pgAlloc F.ALLOC_REQ0_ID 8)).refs ≠ 0)
    ∧ (∃ (s : State), 0 < 9 ∧ 0 < 4096 ∧ slotOfWriter Writer.host = 0 ∧ s.allocQ = [] ∧ getF s pgAlloc F.ALLOC_REQ0_OP = 0 ∧ (s.alloc
      (getF s pgAlloc F.ALLOC_REQ0_ID)).valid = false ∧ rangeBad s (getF s pgAlloc F.ALLOC_REQ0_KIND) (getF s pgAlloc
      F.ALLOC_REQ0_TILE) (getF s pgAlloc F.ALLOC_REQ1_BASE) (getF s pgAlloc F.ALLOC_REQ2_SIZE) = true)
    ∧ (∃ (s : State), 0 < 9 ∧ 0 < 4096 ∧ slotOfWriter Writer.host = 0 ∧ getF s pgDesc F.DESC_RESULT_BUSY = 0 ∧ s.descQ = [] ∧ dValid
      (s.desc 0) = false)
    ∧ (∃ (s : State), 8 < 9 ∧ 4095 < 4096 ∧ slotOfWriter (Writer.uzoid 7) = 8 ∧ getF s pgDesc F.DESC_RESULT_BUSY 8 = 0 ∧ s.descQ = []
      ∧ dValid (s.desc 4095) = true ∧ dPinned (s.desc 4095) = true)
    ∧ (∃ (s : State), 8 < 9 ∧ 4095 < 4096 ∧ slotOfWriter (Writer.uzoid 7) = 8 ∧ s.allocQ ≠ [] ∧ getF s pgAlloc F.ALLOC_REQ0_OP 8 = 0)
    ∧ (∃ (s : State), 8 < 9 ∧ 4095 < 4096 ∧ slotOfWriter (Writer.uzoid 7) = 8 ∧ getF s pgDesc F.DESC_RESULT_BUSY 8 = 1)
    ∧ (0 < 9 ∧ 0 < 4096 ∧ slotOfWriter Writer.host = 0 ∧ 1 < 9 ∧ 1 ≠ 0)
    ∧ (∃ (s : State), 8 < 9 ∧ 4095 < 4096 ∧ slotOfWriter (Writer.uzoid 7) = 8 ∧ s.allocQ = [] ∧ getF s pgAlloc F.ALLOC_REQ0_OP 8 = 0 ∧
      (s.alloc (getF s pgAlloc F.ALLOC_REQ0_ID 8)).valid = false ∧ rangeBad s (getF s pgAlloc F.ALLOC_REQ0_KIND 8) (getF s pgAlloc
      F.ALLOC_REQ0_TILE 8) (getF s pgAlloc F.ALLOC_REQ1_BASE 8) (getF s pgAlloc F.ALLOC_REQ2_SIZE 8) = false ∧ overlaps s (getF s
      pgAlloc F.ALLOC_REQ0_KIND 8) (getF s pgAlloc F.ALLOC_REQ0_TILE 8) (getF s pgAlloc F.ALLOC_REQ1_BASE 8) (getF s pgAlloc
      F.ALLOC_REQ2_SIZE 8) = true)
    ∧ (∃ (s : State), 8 < 9 ∧ 4095 < 4096 ∧ slotOfWriter (Writer.uzoid 7) = 8 ∧ s.allocQ ≠ [] ∧ getF s pgAlloc F.ALLOC_REQ0_OP 8 = 1)
    ∧ (∃ (s : State), 0 < 9 ∧ 0 < 4096 ∧ slotOfWriter Writer.host = 0 ∧ 8 < 9 ∧ 8 ≠ 0 ∧ getF s pgAlloc F.ALLOC_REQ0_OP 8 = 1) :=
  ⟨⟨staged (dramDesc 1023), by decide +kernel⟩, ⟨allocReq 0 1022 2147487744 1, by decide +kernel⟩, ⟨descWaits, by decide +kernel⟩,
    ⟨described (validDesc 0), by decide +kernel⟩, ⟨staged (dramDesc 1), by decide +kernel⟩, ⟨allocReq 1 1023 2147487744 0,
    by decide +kernel⟩, ⟨allocReq 0 1023 2147487744 1, by decide +kernel⟩, ⟨allocReq 1 1022 2147487744 0, by decide +kernel⟩,
    ⟨allocReq 1 1023 2147487744 1, by decide +kernel⟩, ⟨up, by decide +kernel⟩, ⟨up, by decide +kernel⟩, ⟨described (validDesc 65537),
    by decide +kernel⟩, ⟨allocWaits, by decide +kernel⟩, ⟨setF up pgDesc F.DESC_RESULT_BUSY 1 8, by decide +kernel⟩,
    by decide +kernel, ⟨allocReq 0 1022 0x80000000 1, by decide +kernel⟩, ⟨{ allocReq 1 1022 0x80000000 1 with allocQ := [3] },
    by decide +kernel⟩, ⟨allocReq 1 1022 0x80000000 1, by decide +kernel⟩⟩

/-- States and operands that meet the hypotheses of OwnerTables, clause by clause. -/
theorem witness_OwnerTables :
    (∃ (s : State), 31 < 32 ∧ leadWriter Writer.host = true ∧ getF s pgOwn F.OWN_SEL_TABLE = 31 ∧ (s.otab 31).state = 1 ∧ (s.otab
      31).fetching = false ∧ (s.otab 31).endCode ≠ 0)
    ∧ (∃ (s : State), 31 < 32 ∧ leadWriter Writer.host = true ∧ getF s pgOwn F.OWN_SEL_TABLE = 31 ∧ (s.otab 31).state = 1 ∧ (s.otab
      31).fetching = false ∧ (s.otab 31).endCode = 0 ∧ (s.otab 31).waiting = [1])
    ∧ (∃ (s : State), 31 < 32 ∧ leadWriter Writer.host = true ∧ getF s pgOwn F.OWN_SEL_TABLE = 31 ∧ (s.otab 31).state = 1 ∧ (s.otab
      31).fetching = false ∧ (s.otab 31).endCode = 0 ∧ (s.otab 31).waiting = [] ∧ (∀ (e : Nat × W64), e ∈ localEntries s (s.otab 31) →
      fitsEntry (s.otab 31) (s.desc (eHandle e.snd)) = true) ∧ remoteEntries s (s.otab 31) = [] ∧ (∀ (e : Nat × W64), e ∈ localEntries
      s (s.otab 31) → ∀ (g : Nat × W64), g ∈ localEntries s (s.otab 31) → sameShape (s.desc (eHandle e.snd)) (s.desc (eHandle g.snd))
      = true) ∧ haloClash s 31 = none)
    ∧ (∃ (s : State), 31 < 32 ∧ leadWriter (Writer.uzoid 0) = true ∧ getF s pgOwn F.OWN_SEL_TABLE = 31 ∧ (s.otab 31).state = 0 ∧
      headerOk s (s.otab 31) = false)
    ∧ (∃ (s : State), 31 < 32 ∧ leadWriter Writer.host = true ∧ getF s pgOwn F.OWN_SEL_TABLE = 31 ∧ (s.otab 31).state ≠ 0)
    ∧ (∃ (s : State), 31 < 32 ∧ leadWriter Writer.host = true ∧ getF s pgOwn F.OWN_SEL_TABLE = 31 ∧ (s.otab 31).state = 2 ∧
      remoteNamers s 31 = 0)
    ∧ (∃ (s : State), 31 < 32 ∧ leadWriter Writer.host = true ∧ getF s pgOwn F.OWN_SEL_TABLE = 31 ∧ 33554432 ∈ sectorsOf (BitVec.toNat
      (s.otab 31).src) (8 * (s.otab 31).count) ∧ (s.otab 31).state = 0 ∧ headerOk s (s.otab 31) = true ∧ (∀ (f : Fetch), f ∈ s.fetches
      → f.user ≠ 1 + 31) ∧ soundSec s 33554432 = true ∧ fetchClear s 12288 33554432 = false)
    ∧ (∃ (s : State), 31 < 32 ∧ leadWriter Writer.host = true ∧ getF s pgOwn F.OWN_SEL_TABLE = 31 ∧ (s.otab 31).state = 2 ∧
      remoteNamers s 31 ≠ 0)
    ∧ (∃ (s : State), 31 < 32 ∧ leadWriter Writer.host = true ∧ getF s pgOwn F.OWN_SEL_TABLE = 31 ∧ (bitOf 0 0 = false ∨ ∀ (j : Nat),
      j < 32 → (s.otab j).state ≠ 1))
    ∧ (∃ (s : State), 31 < 32 ∧ leadWriter Writer.host = true ∧ getF s pgOwn F.OWN_SEL_TABLE = 31 ∧ bitOf 1 0 = true ∧ (s.otab
      31).state = 1)
    ∧ (∃ (s : State), 31 < 32 ∧ leadWriter Writer.host = true ∧ getF s pgOwn F.OWN_SEL_TABLE = 31 ∧ ((s.otab 31).state = 1 ∨ (s.otab
      31).state = 3)) :=
  ⟨⟨tabled (table 1 6724 2 [entryHere, 0] []), by decide +kernel⟩, ⟨tabled (table 1 0 2 [entryHere, entryThere] [1]),
    by decide +kernel⟩, ⟨tabled (table 1 0 2 [entryHere, 0] []), by decide +kernel⟩, ⟨tabled (table 0 0 0 [] []), by decide +kernel⟩,
    ⟨tabled (table 1 6724 2 [entryHere, 0] []), by decide +kernel⟩, ⟨tabled (table 2 0 2 [entryHere, entryThere] []),
    by decide +kernel⟩, ⟨moded (tabled (table 0 0 2 [] [])) 0 (paCh 2147483648) 2 4096, by decide +kernel⟩, ⟨namedTable (table 2 0 2
    [entryHere, entryThere] []), by decide +kernel⟩, ⟨tabled (table 2 0 2 [entryHere, entryThere] []), by decide +kernel⟩, ⟨tabled
    (table 1 6724 2 [entryHere, 0] []), by decide +kernel⟩, ⟨tabled (table 1 6724 2 [entryHere, 0] []), by decide +kernel⟩⟩

/-- States and operands that meet the hypotheses of SequencerRuns, clause by clause. -/
theorem witness_SequencerRuns :
    (∃ (s : State) (x : LongWord), hasDie s 7 = true ∧ phase s 7 = 1 ∧ (s.seq 7).cur = none ∧ fetchHeld s 7 = false ∧ halted s = false
      ∧ servedDies s 7 ≠ [] ∧ (∀ (e : Nat), e ∈ servedDies s 7 → (s.seq e).fifo.length < 16) ∧ atCut s 7 = false ∧ inLib s 7 = false ∧
      decodeWord (fun i => mget s.imem (2 ^ 20 * 7 + bankOf s 7 * 2 ^ 19 + i)) (seqPc s 7 * 2) = (x, 6) ∧ seqPc s 7 * 2 + 6 ≤ 2 ^ 19)
    ∧ (∃ (s : State), hasDie s 7 = true ∧ bitOf 1 0 = true ∧ startAllowed s 7 = true)
    ∧ (∃ (s : State), hasDie s 7 = true ∧ bitOf 2 1 = true ∧ 1 ≤ phase s 7 ∧ phase s 7 ≤ 3)
    ∧ (∃ (s : State), hasDie s 7 = true ∧ phase s 7 = 1 ∧ (s.seq 7).cur = none ∧ fetchHeld s 7 = false ∧ halted s = false ∧ servedDies
      s 7 ≠ [] ∧ (∀ (e : Nat), e ∈ servedDies s 7 → (s.seq e).fifo.length < 16) ∧ atCut s 7 = true)
    ∧ (∃ (s : State) (x : LongWord), hasDie s 7 = true ∧ (s.seq 7).fifo = [x, x] ∧ halted s = false ∧ tilesHaveRoom s 7 x = true)
    ∧ (∃ (s : State), hasDie s 7 = true ∧ hasTile s 511 = true ∧ tileRuns s 511 = true ∧ alignReady s 511 = true)
    ∧ (∃ (s : State), hasDie s 7 = true ∧ phase s 7 = 4 ∧ halted s = false ∧ allDrained s 7 = true ∧ (s.seq 7).cutting = true)
    ∧ (∃ (s : State), hasDie s 7 = true ∧ phase s 7 = 4 ∧ halted s = false ∧ allDrained s 7 = true ∧ (s.seq 7).cutting = false)
    ∧ (∃ (s : State) (x : LongWord), hasDie s 7 = true ∧ phase s 7 = 1 ∧ (s.seq 7).cur = none ∧ fetchHeld s 7 = false ∧ halted s =
      false ∧ servedDies s 7 ≠ [] ∧ (∀ (e : Nat), e ∈ servedDies s 7 → (s.seq e).fifo.length < 16) ∧ atCut s 7 = false ∧ inLib s 7 =
      false ∧ decodeWord (fun i => mget s.imem (2 ^ 20 * 7 + bankOf s 7 * 2 ^ 19 + i)) (seqPc s 7 * 2) = (x, 6) ∧ 2 ^ 19 < seqPc s 7 *
      2 + 6)
    ∧ (∃ (s : State) (x : LongWord), hasDie s 7 = true ∧ phase s 7 = 1 ∧ (s.seq 7).cur = none ∧ fetchHeld s 7 = false ∧ halted s =
      false ∧ servedDies s 7 ≠ [] ∧ (∀ (e : Nat), e ∈ servedDies s 7 → (s.seq e).fifo.length < 16) ∧ atCut s 7 = false ∧ inLib s 7 =
      false ∧ decodeWord (fun i => mget s.imem (2 ^ 20 * 7 + bankOf s 7 * 2 ^ 19 + i)) (seqPc s 7 * 2) = (x, 10) ∧ seqPc s 7 * 2 + 10
      ≤ 2 ^ 19)
    ∧ (∃ (s : State), hasDie s 7 = true ∧ bitOf 1 0 = true ∧ startAllowed s 7 = false)
    ∧ (∃ (s : State) (x : LongWord), hasDie s 7 = true ∧ (s.seq 7).fifo = [x, x] ∧ tilesHaveRoom s 7 x = false)
    ∧ (∃ (s : State), hasDie s 7 = true ∧ hasTile s 511 = true ∧ tileRuns s 511 = true ∧ alignReady s 511 = false) :=
  ⟨⟨seqBytes 9 [1, 0, 3], wordCtl 3, by decide +kernel⟩, ⟨seqState 0 9 { }, by decide +kernel⟩, ⟨seqState 3 9 { fifo := [word4] },
    by decide +kernel⟩, ⟨setF (setF (seqState 1 9 { }) (pgSeq 7) F.SEQ_CUT_MODE 1) (pgSeq 7) F.SEQ_CUT_N 0, by decide +kernel⟩,
    ⟨seqState 1 9 { fifo := [word4, word4] }, word4, by decide +kernel⟩, ⟨alignState 1, by decide +kernel⟩, ⟨seqState 4 9
    { cutting := true }, by decide +kernel⟩, ⟨seqState 4 9 { }, by decide +kernel⟩, ⟨seqBytes 262142 [1, 0, 3], wordCtl 3,
    by decide +kernel⟩, ⟨seqBytes 9 [2, 0, 3], wordMx 3, by decide +kernel⟩, ⟨seqState 1 9 { }, by decide +kernel⟩, ⟨fullTile, word4,
    by decide +kernel⟩, ⟨alignState 0, by decide +kernel⟩⟩

/-- States and operands that meet the hypotheses of ControlOperationsAndTokens, clause by clause. -/
theorem witness_ControlOperationsAndTokens :
    (∃ (s : State) (x : LongWord), hasDie s 0 = true ∧ phase s 0 = 1 ∧ halted s = false ∧ (s.seq 0).cur = some x ∧ x.ctl = some 83886080#32 ∧ ctlOp
      83886080#32 = 5 ∧ (s.seq 0).calls = [(1, true), (2, false)])
    ∧ (∃ (s : State) (x : LongWord), hasDie s 0 = true ∧ phase s 0 = 1 ∧ halted s = false ∧ (s.seq 0).cur = some x ∧ x.ctl = some 150994943#32 ∧ ctlOp
      150994943#32 = 8 ∧ inLib s 0 = false ∧ otherBankFree s 0 = true)
    ∧ (∃ (s : State) (x : LongWord), hasDie s 0 = true ∧ phase s 0 = 1 ∧ halted s = false ∧ (s.seq 0).cur = some x ∧ x.ctl = some 67109119#32 ∧ ctlOp
      67109119#32 = 4 ∧ getF s pgLib F.LIB_ENTRY_VALID ((67109119#32).toNat % 256) = 1 ∧ (s.seq 0).calls.length < 4)
    ∧ (∃ (s : State) (x : LongWord), hasDie s 0 = true ∧ halted s = false ∧ (s.seq 0).tokw = some (4095, 4095) ∧ (s.seq 0).cur = some x ∧ 4095 ≤ syncVal s
      4095)
    ∧ (∃ (s : State) (x : LongWord), hasDie s 0 = true ∧ phase s 0 = 1 ∧ halted s = false ∧ (s.seq 0).cur = some x ∧ x.ctl = some 16777215#32 ∧ ctlOp
      16777215#32 = 0)
    ∧ (∃ (s : State) (x : LongWord), hasDie s 0 = true ∧ phase s 0 = 1 ∧ halted s = false ∧ (s.seq 0).cur = some x ∧ x.ctl = some 50327557#32 ∧ ctlOp
      50327557#32 = 2)
    ∧ (∃ (s : State) (x : LongWord), hasDie s 0 = true ∧ phase s 0 = 1 ∧ halted s = false ∧ (s.seq 0).cur = some x ∧ x.ctl = some 117751807#32 ∧ ctlOp
      117751807#32 = 7)
    ∧ (∃ (s : State), hasDie s 0 = true ∧ halted s = false ∧ (s.seq 0).toks = [(4095, 4095, [])] ∧ (∀ (j : Nat), j < s.member.tiles → tileDrained s [] j =
      true))
    ∧ (∃ (s : State) (x : LongWord), hasDie s 0 = true ∧ phase s 0 = 1 ∧ halted s = false ∧ (s.seq 0).cur = some x ∧ x.ctl = some 150994943#32 ∧ ctlOp
      150994943#32 = 8 ∧ inLib s 0 = false ∧ otherBankFree s 0 = false)
    ∧ (∃ (s : State) (x : LongWord), hasDie s 0 = true ∧ phase s 0 = 1 ∧ halted s = false ∧ (s.seq 0).cur = some x ∧ x.ctl = some 16777343#32 ∧ ctlOp
      16777343#32 = 1)
    ∧ (∃ (s : State) (x : LongWord), hasDie s 0 = true ∧ phase s 0 = 1 ∧ halted s = false ∧ (s.seq 0).cur = some x ∧ x.ctl = some 67104773#32 ∧ ctlOp
      67104773#32 = 3)
    ∧ (∃ (s : State) (x : LongWord), hasDie s 0 = true ∧ phase s 0 = 1 ∧ halted s = false ∧ (s.seq 0).cur = some x ∧ x.ctl = some 167772160#32 ∧ 9 < ctlOp
      167772160#32)
    ∧ (∃ (s : State) (x : LongWord), hasDie s 0 = true ∧ phase s 0 = 1 ∧ halted s = false ∧ (s.seq 0).cur = some x ∧ x.ctl = some 150994944#32 ∧ ctlOp
      150994944#32 = 9)
    ∧ (∃ (s : State) (x : LongWord), hasDie s 0 = true ∧ phase s 0 = 1 ∧ halted s = false ∧ (s.seq 0).cur = some x ∧ x.ctl = some 83886080#32 ∧ ctlOp
      83886080#32 = 5 ∧ (s.seq 0).calls = [])
    ∧ (∃ (s : State) (x : LongWord), hasDie s 0 = true ∧ phase s 0 = 1 ∧ halted s = false ∧ (s.seq 0).cur = some x ∧ x.ctl = some 100859904#32 ∧ ctlOp
      100859904#32 = 6 ∧ 1 ≤ (100859904#32).toNat / 65536 % 256 ∧ (100859904#32).toNat / 65536 % 256 ≤ 3)
    ∧ (∃ (s : State) (x : LongWord), hasDie s 0 = true ∧ phase s 0 = 1 ∧ halted s = false ∧ (s.seq 0).cur = some x ∧ x.ctl = some 67109119#32 ∧ ctlOp
      67109119#32 = 4 ∧ (getF s pgLib F.LIB_ENTRY_VALID ((67109119#32).toNat % 256) = 0 ∨ 4 ≤ (s.seq 0).calls.length))
    ∧ (∃ (s : State) (x : LongWord), hasDie s 0 = true ∧ phase s 0 = 1 ∧ halted s = false ∧ (s.seq 0).cur = some x ∧ x.ctl = some 100974591#32 ∧ ctlOp
      100974591#32 = 6 ∧ ((100974591#32).toNat / 65536 % 256 = 0 ∨ 3 < (100974591#32).toNat / 65536 % 256))
    ∧ (∃ (s : State) (x : LongWord), hasDie s 0 = true ∧ halted s = false ∧ (s.seq 0).tokw = some (4095, 4095) ∧ (s.seq 0).cur = some x ∧ syncVal s 4095 <
      4095)
    ∧ (∃ (s : State) (y : List Nat), hasDie s 0 = true ∧ halted s = false ∧ (s.seq 0).toks = [(4095, 4095, y)] ∧ 7 < s.member.tiles ∧ tileDrained s y 7 =
      false)
    ∧ (∃ (s : State) (x : LongWord), hasDie s 7 = true ∧ phase s 7 = 1 ∧ halted s = false ∧ (s.seq 7).cur = some x
      ∧ x.ctl = some 67109119#32 ∧ ctlOp 67109119#32 = 4 ∧ servedDies s 7 = [7])
    ∧ (∃ (s : State) (x : LongWord), hasDie s 7 = true ∧ phase s 7 = 1 ∧ halted s = false ∧ (s.seq 7).cur = some x
      ∧ x.ctl = some 150994943#32 ∧ ctlOp 150994943#32 = 8 ∧ inLib s 7 = false ∧ otherBankFree s 7 = true ∧ servedDies s 7 = [7])
    ∧ (∃ (s : State) (x : LongWord), hasDie s 0 = true ∧ phase s 0 = 1 ∧ halted s = false ∧ (s.seq 0).cur = some x
      ∧ x.ctl = some 150994943#32 ∧ ctlOp 150994943#32 = 8 ∧ inLib s 0 = true) :=
  ⟨⟨callState 5 0 [(1, true), (2, false)], ctlWord 5 0, by decide +kernel⟩, ⟨ctlState 8 16777215 { }, ctlWord 8 16777215,
    by decide +kernel⟩, ⟨callState 4 255 [], ctlWord 4 255, by decide +kernel⟩, ⟨tokState { tokw := some (4095, 4095) } 4095, ctlWord
    2 0, by decide +kernel⟩, ⟨ctlState 0 16777215 { }, ctlWord 0 16777215, by decide +kernel⟩, ⟨ctlState 2 16773125 { }, ctlWord 2
    16773125, by decide +kernel⟩, ⟨ctlState 7 311295 { }, ctlWord 7 311295, by decide +kernel⟩, ⟨tokState
    { toks := [(4095, 4095, [])] } 4294967295, by decide +kernel⟩, ⟨ctlState 8 16777215 { load := some (0, 1, 0, 64) }, ctlWord 8
    16777215, by decide +kernel⟩, ⟨ctlState 1 127 { }, ctlWord 1 127, by decide +kernel⟩, ⟨ctlState 3 16773125
    { toks := [(1, 2, [])] }, ctlWord 3 16773125, by decide +kernel⟩, ⟨ctlState 10 0 { }, ctlWord 10 0, by decide +kernel⟩, ⟨ctlState
    9 0 { }, ctlWord 9 0, by decide +kernel⟩, ⟨callState 5 0 [], ctlWord 5 0, by decide +kernel⟩, ⟨ctlState 6 196608 { }, ctlWord 6
    196608, by decide +kernel⟩, ⟨callState 4 255 [(1, true), (2, true), (3, true), (4, false)], ctlWord 4 255, by decide +kernel⟩,
    ⟨ctlState 6 311295 { }, ctlWord 6 311295, by decide +kernel⟩, ⟨tokState { tokw := some (4095, 4095) } 4094, ctlWord 2 0,
    by decide +kernel⟩, ⟨tokTile waitNeed, waitNeed, by decide +kernel⟩,
    ⟨dieState 4 255, ctlWord 4 255, by decide +kernel⟩, ⟨dieState 8 16777215, ctlWord 8 16777215, by decide +kernel⟩,
    ⟨setF (ctlState 8 16777215 { }) (pgSeq 0) F.SEQ_STAT_IN_LIB 1, ctlWord 8 16777215, by decide +kernel⟩⟩

/-- States and operands that meet the hypotheses of InstructionMemoryLoads, clause by clause. -/
theorem witness_InstructionMemoryLoads :
    (∃ (s : State) (x : Fetch), hasDie s 7 = true ∧ (s.seq 7).load = some (2147483648, 1, 524224, 64) ∧ List.find? (fun f => decide
      (f.user = 64 + 7) && decide (f.pa = 2147483648) && decide (f.n = 64)) s.fetches = some x ∧ x.left = 0 ∧ 2147483648 % 64 = 0 ∧
      x.got = [(2147483648, line64, [false])] ∧ line64.length = 64 ∧ [false].any id = false)
    ∧ (∃ (s : State), hasDie s 7 = true ∧ bitOf 1 0 = true ∧ (getF s (pgImem 7) F.IMEM_LOADDST_BANK ≠ bankOf s 7 ∨ seqIdle s 7 = true)
      ∧ (getF s (pgImem 7) F.IMEM_LOADSRC_PA % 64 = 0 ∧ getF s (pgImem 7) F.IMEM_LOADDST_OFFSET % 64 = 0 ∧ getF s (pgImem 7)
      F.IMEM_LOADDST_LEN % 64 = 0 ∧ getF s (pgImem 7) F.IMEM_LOADDST_LEN ≠ 0 ∧ getF s (pgImem 7) F.IMEM_LOADDST_OFFSET + getF s
      (pgImem 7) F.IMEM_LOADDST_LEN ≤ 2 ^ 19 ∧ ∀ (i : Nat), i < getF s (pgImem 7) F.IMEM_LOADDST_LEN / 64 → backed s.member (getF s
      (pgImem 7) F.IMEM_LOADSRC_PA + i * 64) = true ∧ inHole s (getF s (pgImem 7) F.IMEM_LOADSRC_PA + i * 64) = false) ∧ (s.seq
      7).load = none)
    ∧ (∃ (s : State), hasDie s 7 = true ∧ seqIdle s 7 = true)
    ∧ (∃ (s : State), hasDie s 7 = true ∧ bitOf 1 0 = true ∧ getF s (pgImem 7) F.IMEM_LOADDST_BANK = bankOf s 7 ∧ seqIdle s 7 = false)
    ∧ (∃ (s : State), hasDie s 7 = true ∧ bitOf 1 0 = true ∧ (getF s (pgImem 7) F.IMEM_LOADDST_BANK ≠ bankOf s 7 ∨ seqIdle s 7 = true)
      ∧ getF s (pgImem 7) F.IMEM_LOADSRC_PA % 64 ≠ 0)
    ∧ (∃ (s : State) (x : Fetch), hasDie s 7 = true ∧ (s.seq 7).load = some (2147483648, 1, 524224, 64) ∧ List.find? (fun f => decide
      (f.user = 64 + 7) && decide (f.pa = 2147483648) && decide (f.n = 64)) s.fetches = some x ∧ x.left = 0 ∧ 2147483648 % 64 = 0 ∧
      x.got = [(2147483648, line64, [true])] ∧ line64.length = 64 ∧ [true].any id = true)
    ∧ (∃ (s : State), hasDie s 7 = true ∧ bitOf 1 0 = true ∧ (getF s (pgImem 7) F.IMEM_LOADDST_BANK ≠ bankOf s 7 ∨ seqIdle s 7 = true)
      ∧ (getF s (pgImem 7) F.IMEM_LOADSRC_PA % 64 = 0 ∧ getF s (pgImem 7) F.IMEM_LOADDST_OFFSET % 64 = 0 ∧ getF s (pgImem 7)
      F.IMEM_LOADDST_LEN % 64 = 0 ∧ getF s (pgImem 7) F.IMEM_LOADDST_LEN ≠ 0 ∧ getF s (pgImem 7) F.IMEM_LOADDST_OFFSET + getF s
      (pgImem 7) F.IMEM_LOADDST_LEN ≤ 2 ^ 19 ∧ ∀ (i : Nat), i < getF s (pgImem 7) F.IMEM_LOADDST_LEN / 64 → backed s.member (getF s
      (pgImem 7) F.IMEM_LOADSRC_PA + i * 64) = true ∧ inHole s (getF s (pgImem 7) F.IMEM_LOADSRC_PA + i * 64) = false) ∧ (s.seq
      7).load ≠ none)
    ∧ (∃ (s : State) (x : Fetch), hasDie s 7 = true ∧ (s.seq 7).load = some (2147483648, 1, 524224, 64) ∧ List.find? (fun f => decide
      (f.user = 64 + 7) && decide (f.pa = 2147483648) && decide (f.n = 64)) s.fetches = some x ∧ x.left ≠ 0) :=
  ⟨⟨loadFetched 0 false, { user := 71, pa := 2147483648, n := 64, no := 0, left := 0, got := [(2147483648, line64, [false])] },
    by decide +kernel⟩, ⟨loadAsked 2147483648 1 524224 64 { }, by decide +kernel⟩, ⟨up, by decide +kernel⟩, ⟨loadAsked 2147483648 0
    524224 64 { }, by decide +kernel⟩, ⟨loadAsked 2147483649 1 524224 64 { }, by decide +kernel⟩, ⟨loadFetched 0 true,
    { user := 71, pa := 2147483648, n := 64, no := 0, left := 0, got := [(2147483648, line64, [true])] }, by decide +kernel⟩,
    ⟨loadAsked 2147483648 1 524224 64 { load := some (0, 1, 0, 64) }, by decide +kernel⟩, ⟨loadFetched 1 false,
    { user := 71, pa := 2147483648, n := 64, no := 0, left := 1, got := [(2147483648, line64, [false])] }, by decide +kernel⟩⟩

/-- States and operands that meet the hypotheses of ArbitersAndFabric, clause by clause. -/
theorem witness_ArbitersAndFabric :
    (∃ (s : State) (x : FabPkt), hasDie s 7 = true ∧ s.member.edgePeer 7 0 = some 3 ∧ getF s (pgFab 7 0) F.FAB_EDGE_STATE = 2 ∧
      fabComes s 3 (farEdge 0) (tget { } s.edges (7 * 4 + 0)).held x = true ∧ (tget { } s.edges (7 * 4 + 0)).fails + 1 < 8)
    ∧ (∃ (s : State) (x : FabPkt), hasDie s 7 = true ∧ s.member.edgePeer 7 0 = some 3 ∧ getF s (pgFab 7 0) F.FAB_EDGE_STATE = 2 ∧
      fabComes s 3 (farEdge 0) (tget { } s.edges (7 * 4 + 0)).held x = true ∧ (tget { } s.edges (7 * 4 + 0)).fails + 1 = 8)
    ∧ (∃ (s : State), hasArb s 0 102 = true ∧ 3 < arbReqs s.member 102 ∧ arbPresent s.member 0 102 3 = true ∧ 3 ∈ [3, 19] ∧ isolated s
      0 102 3 = false ∧ (s.arb 0 102).next = none ∧ holder s 0 102 = none ∧ (s.arb 0 102).limit = [3] ∧ passMax s 0 102 ≤ tget 0
      (s.arb 0 102).pass 3)
    ∧ (∃ (s : State), hasArb s 0 102 = true ∧ holder s 0 102 = some 3 ∧ (s.arb 0 102).next = some 19 ∧ 19 < 20)
    ∧ (∃ (s : State), hasArb s 0 102 = true ∧ holder s 0 102 = some 19 ∧ (s.arb 0 102).next = none)
    ∧ (∃ (s : State), hasArb s 0 102 = true ∧ holder s 0 102 = none)
    ∧ (∃ (s : State), hasArb s 0 102 = true ∧ (s.arb 0 102).next ≠ none)
    ∧ (∃ (s : State) (x : FabPkt), hasDie s 7 = true ∧ s.member.edgePeer 7 0 = some 3 ∧ (getF s (pgFab 7 0) F.FAB_EDGE_STATE ≠ 2 ∨
      fabComes s 3 (farEdge 0) (tget { } s.edges (7 * 4 + 0)).held x = false))
    ∧ (∃ (s : State) (x : FabPkt), hasDie s 7 = true ∧ s.member.edgePeer 7 0 = some 3 ∧ fabComes s 3 (farEdge 0) (tget { } s.edges (7
      * 4 + 0)).held x = true ∧ (tget { } s.edges (7 * 4 + 0)).held = some x)
    ∧ (∃ (s : State), hasArb s 0 102 = true ∧ 3 < arbReqs s.member 102 ∧ arbPresent s.member 0 102 3 = true ∧ 3 ∈ [3, 18] ∧ isolated s
      0 102 3 = false ∧ (s.arb 0 102).next = none ∧ holder s 0 102 = some 19)
    ∧ (∃ (s : State), (∀ (r : Nat), tget 0 (s.arb 0 102).pass r < passMax s 0 102) ∧ hasArb s 0 102 = true ∧ 3 < arbReqs s.member 102
      ∧ arbPresent s.member 0 102 3 = true ∧ 3 ∈ [3, 0] ∧ isolated s 0 102 3 = false ∧ (s.arb 0 102).next = none ∧ holder s 0 102 =
      none ∧ (s.arb 0 102).limit = []) :=
  ⟨⟨edgeState 2 6, fabPkt, by decide +kernel⟩, ⟨edgeState 2 7, fabPkt, by decide +kernel⟩, ⟨arbState
    { pass := [(3, 256)], limit := [3] } none 8 0, by decide +kernel⟩, ⟨arbState { next := some 19 } (some 3) 524288 0,
    by decide +kernel⟩, ⟨arbState { } (some 19) 0 0, by decide +kernel⟩, ⟨arbState { } none 0 0, by decide +kernel⟩, ⟨arbState
    { next := some 19 } (some 3) 524288 0, by decide +kernel⟩, ⟨edgeState 0 0, fabPkt, by decide +kernel⟩, ⟨edgeHolds, fabPkt,
    by decide +kernel⟩, ⟨arbState { pass := [(3, 256)], limit := [3] } (some 19) 8 0, by decide +kernel⟩, ⟨arbState { } none 524288 0,
    fun r => tget_of (P := fun x => x < _) (by decide +kernel) (by decide +kernel) r, by decide +kernel⟩⟩

/-- States and operands that meet the hypotheses of ArbitersPoliceHolders, clause by clause. -/
theorem witness_ArbitersPoliceHolders :
    (∃ (s : State), hasArb s 0 102 = true ∧ 0 < 2 ∧ 19 < arbReqs s.member 102 ∧ holder s 0 102 = some 19 ∧ 19 < 20)
    ∧ (∃ (s : State), hasArb s 0 102 = true ∧ 1 < 2 ∧ 19 < arbReqs s.member 102 ∧ arbKind 102 ≠ 4 ∧ s.running = none ∧ holder s 0 102
      = none)
    ∧ (∃ (s : State), hasArb s 0 102 = true ∧ 1 < 2 ∧ 19 < arbReqs s.member 102 ∧ arbKind 102 ≠ 4 ∧ holder s 0 102 = some 3 ∧ bit
      (getF s (pgArb 0 102) F.ARB_HOLD_WAITING) 19 = true ∧ isolated s 0 102 19 = false ∧ (arbPrio (s.setReg (pgArb 0 102 + 256 + 1 *
      8) (28672 &&& if 1 = 0 then 8608480567731124087 else 30583)) 0 102 3 < arbPrio (s.setReg (pgArb 0 102 + 256 + 1 * 8) (28672 &&&
      if 1 = 0 then 8608480567731124087 else 30583)) 0 102 19))
    ∧ (∃ (s : State), hasArb s 0 102 = true ∧ 0 < 2 ∧ 0 < arbReqs s.member 102 ∧ holder s 0 102 = some 3 ∧ 3 < 20)
    ∧ (∃ (s : State), hasArb s 0 128 = true ∧ 0 < 2 ∧ 1 < arbReqs s.member 128 ∧ arbKind 128 = 4) :=
  ⟨⟨arbState { offences := [(19, [1, 2])] } (some 19) 0 0, by decide +kernel⟩, ⟨arbState { } none 0 0, by decide +kernel⟩, ⟨arbState
    { offences := [(3, [1]), (19, [5, 6, 7])] } (some 3) 524288 8, by decide +kernel⟩, ⟨arbState
    { offences := [(3, [1]), (0, [5, 6, 7])] } (some 3) 1 0, by decide +kernel⟩, ⟨up, by decide +kernel⟩⟩

/-- States and operands that meet the hypotheses of VylithLinks, clause by clause. -/
theorem witness_VylithLinks :
    (∃ (s : State), hasPort s 11 = true ∧ portState s 11 = 1 ∧ ((s.port 11).half = 0 ∨ (s.port 11).half = 3) ∧ (3 = 0 ∨ 3 = 3))
    ∧ (∃ (s : State), hasPort s 11 = true ∧ (s.port 11).replay = [4094, 4095, 0] ∧ (s.port 11).replaying = false ∧ (s.port 11).failRun
      < replayMax s 11 ∧ portUp s 11 = true)
    ∧ (∃ (s : State) (x : FlitRx), hasPort s 11 = true ∧ portCarries s 11 = true ∧ flitDecode x = some (x.control.toNat, [0, 7, 15]) ∧
      bit (x.control.toNat.xor (List.map (fun b => 2 ^ (b - 2048)) (List.filter (fun b => decide (2048 ≤ b) && decide (b < 2088))
      (flipBits (List.filter (fun x => decide (x < 2120)) (flipBits [] x.flips)) (List.filter (fun x => decide (x < 2120)) (flipBits
      [] x.flips))))).sum) 37 = false)
    ∧ (∃ (s : State), hasPort s 11 = true ∧ portState s 11 = 1 ∧ ((s.port 11).half = 1 ∨ (s.port 11).half = 2) ∧ (1 = 1 ∨ 1 = 2))
    ∧ (∃ (s : State), hasPort s 11 = true ∧ (s.port 11).replay = [4094, 4095, 0] ∧ (s.port 11).replaying = true ∧ replayMax s 11 ≤
      (s.port 11).failRun + 1 ∧ portUp s 11 = true)
    ∧ (∃ (s : State) (x : FlitRx), flitDecode x = none ∧ hasPort s 11 = true ∧ portCarries s 11 = true)
    ∧ (∃ (s : State), hasPort s 11 = true ∧ (s.port 11).replay = [4094, 4095, 0] ∧ (s.port 11).replaying = false ∧ (s.port 11).failRun
      < replayMax s 11 ∧ portCarries s 11 = true ∧ ¬7 ∈ (s.port 11).replay)
    ∧ (∃ (s : State), hasPort s 3 = true ∧ portState s 3 = 0 ∧ s.enabled = true)
    ∧ (∃ (s : State), hasPort s 11 = true ∧ 7 < 8 ∧ portUp s 11 = true ∧ bit (getF s (pgVyl s.member 11) F.VYL_PSTAT_LANES_LOCKED) 7 =
      true)
    ∧ (∃ (s : State), (∀ (k c : Nat), k < s.member.tiles → c < 4 → chSt s k c = 0) ∧ hasPort s 3 = true ∧ bitOf 1 0 = true ∧
      (portState s 3 = 0 ∨ portState s 3 = 4) ∧ (phase s 0 = 0 ∨ phase s 0 = 6))
    ∧ (∃ (s : State) (x : FlitRx), hasPort s 11 = true ∧ portCarries s 11 = true ∧ flitDecode x = some (x.control.toNat, [0, 7, 15]) ∧
      bit (x.control.toNat.xor (List.map (fun b => 2 ^ (b - 2048)) (List.filter (fun b => decide (2048 ≤ b) && decide (b < 2088))
      (flipBits (List.filter (fun x => decide (x < 2120)) (flipBits [] x.flips)) (List.filter (fun x => decide (x < 2120)) (flipBits
      [] x.flips))))).sum) 37 = false)
    ∧ (∃ (s : State), hasPort s 11 = true ∧ portCarries s 11 = false)
    ∧ (∃ (s : State), hasPort s 11 = true ∧ bitOf 1 0 = true ∧ portUp s 11 = true)
    ∧ (∃ (s : State) (x : FlitRx), hasPort s 11 = true ∧ portCarries s 11 = true ∧ flitDecode x = some (x.control.toNat, [0, 7, 15]) ∧
      bit (x.control.toNat.xor (List.map (fun b => 2 ^ (b - 2048)) (List.filter (fun b => decide (2048 ≤ b) && decide (b < 2088))
      (flipBits (List.filter (fun x => decide (x < 2120)) (flipBits [] x.flips)) (List.filter (fun x => decide (x < 2120)) (flipBits
      [] x.flips))))).sum) 37 = false) :=
  ⟨⟨portAt 1 0 { used := [(5, 1)], half := 3 }, by decide +kernel⟩, ⟨portAt 3 240 halfPort, by decide +kernel⟩, ⟨portAt 2 255
    (replayPort false 0), flit 1 4095 4095, by decide +kernel⟩, ⟨portAt 1 0 { used := [(5, 1)], half := 2 }, by decide +kernel⟩, ⟨setF
    (portAt 2 255 (replayPort true 2)) (pgVyl Member.zh8c 11) F.VYL_CFG_REPLAY_MAX 3, by decide +kernel⟩, ⟨portAt 3 240 halfPort,
    lostFlit, lostFlit_none, by decide +kernel⟩, ⟨portAt 2 255 (replayPort false 0), by decide +kernel⟩, ⟨upSmall, by decide +kernel⟩,
    ⟨portAt 3 240 halfPort, by decide +kernel⟩, ⟨upSmall, pair_of (by decide +kernel), by decide +kernel⟩, ⟨portAt 2 255 (replayPort
    true 1), flit 2 4094 0, by decide +kernel⟩, ⟨portAt 2 127 (replayPort true 1), by decide +kernel⟩, ⟨portAt 3 15 (replayPort true
    2), by decide +kernel⟩, ⟨portAt 2 255 (replayPort true 1), flit 2 4095 1, by decide +kernel⟩⟩

/-- States and operands that meet the hypotheses of PacketsLeave, clause by clause. -/
theorem witness_PacketsLeave :
    (∃ (s : State) (x : Pkt), 7 < 32 ∧ hasDie s 7 = true ∧ (halted s = false ∨ x.vc = 3) ∧ hasPort s 11 = true ∧ s.egress = [(7, x)] ∧
      (([] : List (Nat × Pkt)) = [] ∨ x.typ ≠ 1 ∧ x.typ ≠ 2) ∧ routeOf s x.srcId x.dest = Route.out 11 ∧ portCarries s 11 = true ∧
      egressIsolated s 11 x.vc = false ∧ (x.poison.any id = false ∨ getF s (pgVyl s.member 11) F.VYL_CFG_POISON_FORWARD = 1) ∧
      wireRoom s 11 x = true ∧ (getF s (pgVyl s.member 11) F.VYL_CFG_DATELINE = 1 → x.cls = 1))
    ∧ (∃ (s : State) (x : Pkt) (z : OutReq), 7 < 32 ∧ hasDie s 7 = true ∧ (halted s = false ∨ x.vc = 3) ∧ hasPort s 11 = true ∧
      List.find? (fun r => decide (r.port = 11) && decide (r.srcId = 2047) && decide (r.tag = 5) && decide (getF s pgSync
      F.SYNC_TIMEOUT_CMP_US ≤ s.us - r.since)) s.outReqs = some z)
    ∧ (∃ (s : State) (x : Pkt), 7 < 32 ∧ hasDie s 7 = true ∧ (halted s = false ∨ x.vc = 3) ∧ s.egress = [(7, x)] ∧ (([] : List (Nat ×
      Pkt)) = [] ∨ x.typ ≠ 1 ∧ x.typ ≠ 2) ∧ routeOf s x.srcId x.dest = Route.self)
    ∧ (∃ (s : State) (x : Pkt), 7 < 32 ∧ hasDie s 7 = true ∧ (halted s = false ∨ x.vc = 3) ∧ hasPort s 11 = true ∧ s.egress = [(7, x)]
      ∧ (([] : List (Nat × Pkt)) = [] ∨ x.typ ≠ 1 ∧ x.typ ≠ 2) ∧ routeOf s x.srcId x.dest = Route.none_ 0)
    ∧ (∃ (s : State) (x : Pkt) (y : Pkt), 7 < 32 ∧ hasDie s 7 = true ∧ (halted s = false ∨ x.vc = 3) ∧ hasPort s 11 = true ∧ s.egress
      = [(7, x), (7, y)] ∧ x.typ = 1 ∧ y.typ = 1 ∧ x.src = partNo s ∧ y.src = x.src ∧ y.srcId = x.srcId ∧ x.srcId < 4096 ∧ y.dest =
      x.dest ∧ y.pa = x.pa + x.len ∧ x.len + y.len ≤ 4096 ∧ x.vc = 0 ∧ routeOf s x.srcId x.dest = Route.out 11 ∧ portCarries s 11 =
      true ∧ egressIsolated s 11 x.vc = false ∧ ((joinPayload x y).poison.any id = false ∨ getF s (pgVyl s.member 11)
      F.VYL_CFG_POISON_FORWARD = 1) ∧ wireRoom s 11 (joinPayload x y) = true ∧ getF s (pgVyl s.member 11) F.VYL_CFG_DATELINE = 0)
    ∧ (∃ (s : State) (x : Pkt) (y : Pkt), 7 < 32 ∧ hasDie s 7 = true ∧ (halted s = false ∨ x.vc = 3) ∧ hasPort s 11 = true ∧ s.egress
      = [(7, x)] ∧ (([] : List (Nat × Pkt)) = [] ∨ x.typ ≠ 1 ∧ x.typ ≠ 2) ∧ routeOf s x.srcId x.dest = Route.out 11 ∧ egressIsolated s
      11 x.vc = true ∧ y.vc = x.vc) :=
  ⟨⟨wireState { txSeq := 4095, replay := [4094] } [(7, pktA)], pktA, by decide +kernel⟩, ⟨lateReq, pktA,
    { srcId := 2047, tag := 5, port := 11, typ := 1, since := 9, parts := [(5, 3)] }, by decide +kernel⟩, ⟨selfState { } [(7, pkt 1 0
    0 2047 5 2147483664 [1])] [], pkt 1 0 0 2047 5 2147483664 [1], by decide +kernel⟩, ⟨selfState { } [(7, pkt 1 5 0 2047 5 2147483664
    [1])] [], pkt 1 5 0 2047 5 2147483664 [1], by decide +kernel⟩, ⟨wireState { txSeq := 4095 } [(7, pktA), (7, pktB)], pktA, pktB,
    by decide +kernel⟩, ⟨egressShut (wireState { txSeq := 4095, replay := [4094] } [(7, pktA)]), pktA, pktB, by decide +kernel⟩⟩

/-- States and operands that meet the hypotheses of PacketsMoveData, clause by clause. -/
theorem witness_PacketsMoveData :
    (∃ (s : State) (x : Pkt), hasPort s 11 = true ∧ portUp s 11 = true ∧ halted s = false ∧ (s.port 11).discard = false ∧ pktWaits s
      11 (s.port 11).held x = false ∧ pktWellFormed x = true ∧ routeOf s x.srcId x.dest = Route.self ∧ x.typ = 3 ∧ outsideOf s x.pa
      x.len = false ∧ x.pa % 2048 + x.len ≤ 2048 ∧ (chState s (paStack x.pa) (paCh x.pa) = 0 ∨ chOwner s (paStack x.pa) (paCh x.pa) ≠
      ingressSrc 11 0))
    ∧ (∃ (s : State) (x : Pkt), hasPort s 11 = true ∧ portUp s 11 = true ∧ halted s = false ∧ (s.port 11).discard = false ∧ pktWaits s
      11 (s.port 11).held x = false ∧ pktWellFormed x = true ∧ routeOf s x.srcId x.dest = Route.self ∧ x.typ = 2 ∧ (∀ (k : Nat), k <
      (accPieces x).snd.snd → outsideOf s (x.pa + 2048 * k) (accPieces x).fst = false ∧ inHole s (x.pa + 2048 * k) = false ∧ (chState
      s (paStack (x.pa + 2048 * k)) (paCh (x.pa + 2048 * k)) = 2 ∨ chState s (paStack (x.pa + 2048 * k)) (paCh (x.pa + 2048 * k)) = 3)
      ∧ chOwner s (paStack (x.pa + 2048 * k)) (paCh (x.pa + 2048 * k)) = 20480))
    ∧ (∃ (s : State) (x : Pkt) (y : OutReq), hasPort s 11 = true ∧ portUp s 11 = true ∧ halted s = false ∧ (s.port 11).discard = false
      ∧ pktWaits s 11 (s.port 11).held x = false ∧ pktWellFormed x = true ∧ routeOf s x.srcId x.dest = Route.self ∧ x.typ = 4 ∧
      List.find? (fun r => decide (r.srcId = x.srcId) && decide (r.tag = x.tag)) s.outReqs = some y ∧ y.srcId < 4096 ∧ (y.typ = 1 ∨
      y.typ = 2))
    ∧ (∃ (s : State) (x : Pkt) (y : OutReq), hasPort s 11 = true ∧ portUp s 11 = true ∧ halted s = false ∧ (s.port 11).discard = false
      ∧ pktWaits s 11 (s.port 11).held x = false ∧ pktWellFormed x = true ∧ routeOf s x.srcId x.dest = Route.self ∧ x.typ = 4 ∧
      List.find? (fun r => decide (r.srcId = x.srcId) && decide (r.tag = x.tag)) s.outReqs = some y ∧ y.srcId < 4096 ∧ x.len = 0 ∧
      x.status ≠ 0)
    ∧ (∃ (s : State) (x : Pkt) (y : OutReq), hasPort s 11 = true ∧ portUp s 11 = true ∧ halted s = false ∧ (s.port 11).discard = false
      ∧ pktWaits s 11 (s.port 11).held x = false ∧ pktWellFormed x = true ∧ routeOf s x.srcId x.dest = Route.self ∧ x.typ = 4 ∧
      List.find? (fun r => decide (r.srcId = x.srcId) && decide (r.tag = x.tag)) s.outReqs = some y ∧ y.srcId < 4096 ∧ y.typ = 3 ∧
      x.payload ≠ [])
    ∧ (∃ (s : State) (x : Pkt) (y : OutReq), hasPort s 11 = true ∧ portUp s 11 = true ∧ halted s = false ∧ (s.port 11).discard = false
      ∧ pktWaits s 11 (s.port 11).held x = false ∧ pktWellFormed x = true ∧ routeOf s x.srcId x.dest = Route.self ∧ x.typ = 4 ∧
      List.find? (fun r => decide (r.srcId = x.srcId) && decide (r.tag = x.tag)) s.outReqs = some y ∧ y.srcId < 4096 ∧ y.typ = 3 ∧
      x.payload = [])
    ∧ (∃ (s : State) (x : Pkt), hasPort s 11 = true ∧ portUp s 11 = true ∧ halted s = false ∧ (s.port 11).discard = false ∧ pktWaits s
      11 (s.port 11).held x = true ∧ x.typ = 1)
    ∧ (∃ (s : State) (x : Pkt), hasPort s 11 = true ∧ portUp s 11 = true ∧ halted s = false ∧ (s.port 11).discard = false ∧ pktWaits s
      11 (s.port 11).held x = true ∧ x.typ = 2)
    ∧ (∃ (s : State) (x : Pkt), hasPort s 11 = true ∧ portUp s 11 = true ∧ halted s = false ∧ (s.port 11).discard = false ∧ pktWaits s
      11 (s.port 11).held x = true ∧ x.typ = 3)
    ∧ (∃ (s : State) (x : Pkt), hasPort s 11 = true ∧ portUp s 11 = true ∧ halted s = false ∧ (s.port 11).discard = false ∧ pktWaits s
      11 (s.port 11).held x = true ∧ x.typ = 4)
    ∧ (∃ (s : State) (x : Pkt), hasPort s 11 = true ∧ portUp s 11 = true ∧ halted s = false ∧ (s.port 11).discard = false ∧ pktWaits s
      11 (s.port 11).held x = false ∧ pktWellFormed x = true ∧ routeOf s x.srcId x.dest = Route.out 11 ∧ x.hops < 15 ∧ x.typ = 1)
    ∧ (∃ (s : State) (x : Pkt), hasPort s 11 = true ∧ portUp s 11 = true ∧ halted s = false ∧ (s.port 11).discard = false ∧ pktWaits s
      11 (s.port 11).held x = false ∧ pktWellFormed x = true ∧ routeOf s x.srcId x.dest = Route.self ∧ x.typ = 1 ∧ outsideOf s x.pa
      x.len = true)
    ∧ (∃ (s : State) (x : Pkt), hasPort s 11 = true ∧ portUp s 11 = true ∧ halted s = false ∧ (s.port 11).discard = false ∧ pktWaits s
      11 (s.port 11).held x = false ∧ pktWellFormed x = true ∧ routeOf s x.srcId x.dest = Route.self ∧ x.typ = 3 ∧ outsideOf s x.pa
      x.len = true)
    ∧ (∃ (s : State) (x : Pkt), hasPort s 11 = true ∧ portUp s 11 = true ∧ halted s = false ∧ (s.port 11).discard = false ∧ pktWaits s
      11 (s.port 11).held x = false ∧ pktWellFormed x = true ∧ routeOf s x.srcId x.dest = Route.self ∧ x.typ = 1 ∧ outsideOf s x.pa
      x.len = false ∧ x.pa % 2048 + x.len ≤ 2048 ∧ (chState s (paStack x.pa) (paCh x.pa) = 0 ∨ chOwner s (paStack x.pa) (paCh x.pa) ≠
      ingressSrc 11 0))
    ∧ (∃ (s : State) (x : Pkt), hasPort s 11 = true ∧ portUp s 11 = true ∧ halted s = false ∧ (s.port 11).discard = false ∧ pktWaits s
      11 (s.port 11).held x = false ∧ pktWellFormed x = true ∧ routeOf s x.srcId x.dest = Route.self ∧ x.typ = 2 ∧ x.piece = 0 ∧
      outsideOf s x.pa (accDst x.afmt x.len) = false ∧ inHole s x.pa = false ∧ chState s (paStack x.pa) (paCh x.pa) = 0 ∧ (∀ (q :
      InPkt), q ∈ s.inPkts → q.id ≠ s.nextIn)) :=
  ⟨⟨selfState { } [] [], rdPkt, by decide +kernel⟩, ⟨moded (selfState { } [] []) 19 31 2 20480, accPkt, by decide +kernel⟩, ⟨selfState
    { } [] [{ srcId := 2047, tag := 5, port := 11, typ := 1, since := 9, parts := [(5, 3), (6, 1)] }], pkt 4 0 3 2047 5 0 [],
    { srcId := 2047, tag := 5, port := 11, typ := 1, since := 9, parts := [(5, 3), (6, 1)] }, by decide +kernel⟩, ⟨selfState { } []
    [{ srcId := 2047, tag := 5, port := 11, typ := 1, since := 9, parts := [(5, 3), (6, 1)] }], badRsp,
    { srcId := 2047, tag := 5, port := 11, typ := 1, since := 9, parts := [(5, 3), (6, 1)] }, by decide +kernel⟩, ⟨selfState { } []
    [{ srcId := 2047, tag := 5, port := 11, typ := 3, since := 9, parts := [(5, 3)] }], pkt 4 0 3 2047 5 0 [7, 8, 9],
    { srcId := 2047, tag := 5, port := 11, typ := 3, since := 9, parts := [(5, 3)] }, by decide +kernel⟩, ⟨selfState { } []
    [{ srcId := 2047, tag := 5, port := 11, typ := 3, since := 9, parts := [(5, 70)] }], pkt 4 0 3 2047 5 0 [],
    { srcId := 2047, tag := 5, port := 11, typ := 3, since := 9, parts := [(5, 70)] }, by decide +kernel⟩, ⟨selfState
    { held := [pkt 1 0 3 2047 5 (lastPa - 2) [1, 2, 3]] } [] [], pkt 1 0 3 2047 5 (lastPa - 2) [1, 2, 3], by decide +kernel⟩,
    ⟨selfState { held := [accPkt] } [] [], accPkt, by decide +kernel⟩, ⟨selfState { held := [rdPkt] } [] [], rdPkt,
    by decide +kernel⟩, ⟨selfState { held := [badRsp] } [] [], badRsp, by decide +kernel⟩, ⟨wireState { } [], pkt 1 63 3 2047 5
    2147483664 [1], by decide +kernel⟩, ⟨selfState { } [] [], pkt 1 0 3 2047 5 2147483647 [1], by decide +kernel⟩, ⟨selfState { } []
    [], rdSystem, by decide +kernel⟩, ⟨selfState { } [] [], pkt 1 0 3 2047 5 (lastPa - 2) [1, 2, 3], by decide +kernel⟩, ⟨selfState
    { } [] [], accPkt, by decide +kernel⟩⟩

/-- States and operands that meet the hypotheses of SignalsFencesAndCounters, clause by clause. -/
theorem witness_SignalsFencesAndCounters :
    (∃ (s : State), 4095 < 4096 ∧ 7 < 8 ∧ 0 < 64 ∧ getF s pgOwn F.OWN_SVC_MODE = 0 ∧ (s.member.ports ≤ fld 4294967295 0 4 ∨
      s.member.ports ≤ fld 4294967295 4 4))
    ∧ (∃ (s : State), 4095 < 4096 ∧ 7 < 8 ∧ 63 < 64 ∧ getF s pgOwn F.OWN_SVC_MODE = 0 ∧ fld 955 0 4 < s.member.ports ∧ fld 955 4 4 <
      s.member.ports)
    ∧ (∃ (s : State) (x : Pkt), reaches s 11 x ∧ (s.port 11).held = [] ∧ x.typ = 6 ∧ x.vc = 0)
    ∧ (∃ (s : State) (x : Pkt), reaches s 11 x ∧ (s.port 11).held = [] ∧ x.typ = 6 ∧ x.vc = 2)
    ∧ (∃ (s : State), hasPort s 11 = true ∧ (s.port 11).fence = some (3, 2047, 9) ∧ (s.port 11).fenceWait = some [4] ∧ halted s =
      false ∧ (∀ (q : InPkt), q ∈ s.inPkts → ¬q.id ∈ [4]) ∧ (s.port 11).held = [])
    ∧ (4095 < 4096 ∧ 7 < 8)
    ∧ (∃ (s : State) (x : Pkt), reaches s 11 x ∧ (s.port 11).held = [] ∧ x.typ = 5)
    ∧ (∃ (s : State), 4095 < 4096 ∧ 7 < 8 ∧ getF s pgOwn F.OWN_SVC_MODE = 1 ∧ 63 < 64)
    ∧ (∃ (s : State), hasPort s 11 = true ∧ (s.port 11).fence = some (3, 2047, 9) ∧ (s.port 11).fenceWait = some [4] ∧ halted s =
      false ∧ (∃ q, q ∈ s.inPkts ∧ q.id ∈ [4])) :=
  ⟨⟨watching, by decide +kernel⟩, ⟨watching, by decide +kernel⟩, ⟨selfState { } [] [], fencePkt 0, reaches_of (by decide +kernel),
    by decide +kernel⟩, ⟨halfFenced, fencePkt 2, reaches_of (by decide +kernel), by decide +kernel⟩, ⟨fenced [4] [inPkt 5],
    by decide +kernel⟩, by decide +kernel, ⟨syncState, sigPkt, reaches_of (by decide +kernel), by decide +kernel⟩, ⟨setF watching
    pgOwn F.OWN_SVC_MODE 1, by decide +kernel⟩, ⟨fenced [4] [inPkt 4], by decide +kernel⟩⟩

/-- States and operands that meet the hypotheses of ManagementPackets, clause by clause. -/
theorem witness_ManagementPackets :
    (∃ (s : State) (x : Pkt), x.typ = 7 ∧ (s.port 11).held = [] ∧ hasPort s 11 = true ∧ portUp s 11 = true ∧ pktWellFormed x = true ∧
      x.mgmtOp = 7)
    ∧ (∃ (s : State) (x : Pkt), reaches s 11 x ∧ x.typ = 7 ∧ (s.port 11).held = [] ∧ x.mgmtOp = 6)
    ∧ (∃ (s : State) (x : Pkt), ∃ a, a = s.otab (fld ((leWords x.payload).getD 16 0) 16 5) ∧ reaches s 11 x ∧ x.typ = 7 ∧ (s.port
      11).held = [] ∧ x.mgmtOp = 2 ∧ a.state = 1 ∧ x.tag ∈ a.waiting ∧ ePart (a.entries.getD x.tag 0) = x.src)
    ∧ (∃ (s : State) (x : Pkt), x.typ = 7 ∧ (s.port 11).held = [] ∧ hasPort s 11 = true ∧ portUp s 11 = true ∧ pktWellFormed x = true
      ∧ x.mgmtOp = 8)
    ∧ (∃ (s : State) (x : Pkt), reaches s 11 x ∧ x.typ = 7 ∧ (s.port 11).held = [] ∧ x.mgmtOp = 3 ∧ dValid (s.desc (leNat (List.take 8
      x.payload) % 4096)) = true)
    ∧ (∃ (s : State) (x : Pkt), reaches s 11 x ∧ x.typ = 7 ∧ (s.port 11).held = [] ∧ x.mgmtOp = 4)
    ∧ (∃ (s : State) (x : Pkt), reaches s 11 x ∧ x.typ = 7 ∧ (s.port 11).held = [] ∧ x.mgmtOp = 5)
    ∧ (∃ (s : State) (x : Pkt), reaches s 11 x ∧ x.typ = 7 ∧ (s.port 11).held = [] ∧ x.mgmtOp = 1 ∧ (dValid (s.desc (leNat (List.take
      8 x.payload) % 4096)) = false ∨ dLocalOnly (s.desc (leNat (List.take 8 x.payload) % 4096)) = true))
    ∧ (∃ (s : State) (x : Pkt), ∃ a, a = s.desc (leNat (List.take 8 x.payload) % 4096) ∧ reaches s 11 x ∧ x.typ = 7 ∧ (s.port 11).held
      = [] ∧ x.mgmtOp = 1 ∧ dValid a = true ∧ dKind a = 0 ∧ dLocalOnly a = false) :=
  ⟨⟨managed (validDesc 65536), mgmt 7 (leBytes 8 4095), by decide +kernel⟩, ⟨managed (validDesc 65536), mgmt 6 (leBytes 8 4095),
    reaches_of (by decide +kernel), by decide +kernel⟩, ⟨managed (validDesc 65535), mgmt 2 rspPayload, _, rfl, reaches_of
    (by decide +kernel), by decide +kernel⟩, ⟨selfState { discard := true } [] [], mgmt 8 [], by decide +kernel⟩, ⟨managed (validDesc
    65535), mgmt 3 (leBytes 8 4095), reaches_of (by decide +kernel), by decide +kernel⟩, ⟨managed (validDesc 65536), mgmt 4 (leBytes 8
    4095), reaches_of (by decide +kernel), by decide +kernel⟩, ⟨managed (validDesc 65536), mgmt 5 (leBytes 8 4095), reaches_of
    (by decide +kernel), by decide +kernel⟩, ⟨managed (validDesc 65535), mgmt 1 (leBytes 8 4094), reaches_of (by decide +kernel),
    by decide +kernel⟩, ⟨managed (validDesc 65535), mgmt 1 (leBytes 8 4095), _, rfl, reaches_of (by decide +kernel),
    by decide +kernel⟩⟩

/-- States and operands that meet the hypotheses of CxlPort, clause by clause. -/
theorem witness_CxlPort :
    (∃ (s : State), s.cxl.configReady = true ∧ (8 = 4 ∨ 8 = 8 ∨ 8 = 16) ∧ 0 < 4)
    ∧ (∃ (s : State), lastDpa < 2 ^ 63 ∧ (16 = 20 ∧ s.member.hdmSpan ≤ lastDpa ∨ 16 = 16 ∧ lastDpa < s.member.hdmSpan ∧ memActive s =
      false) ∧ releaseIsolated s lastDpa = false)
    ∧ (∃ (s : State), ∃ a b, a = paStack (dpaToPa (dpa19 / 64 * 64)) ∧ b = s.chan a (paCh (dpaToPa (dpa19 / 64 * 64))) ∧ dpa19 < 2 ^
      63 ∧ (dpa19 < s.member.hdmSpan ∧ memActive s = true ∧ stackActive s a = true ∧ intakeIsolated s a (paCh (dpaToPa (dpa19 / 64 *
      64))) 8192 = false ∧ chState s a (paCh (dpaToPa (dpa19 / 64 * 64))) = 0 ∧ (b.bank (paBank (dpaToPa (dpa19 / 64 *
      64)))).queue.length < 16 ∧ (∀ (x : Req), x ∈ b.parked → paBank x.pa ≠ paBank (dpaToPa (dpa19 / 64 * 64))) ∧ ∀ (x : Req), x ∈
      b.blocked → paBank x.pa ≠ paBank (dpaToPa (dpa19 / 64 * 64))))
    ∧ (∃ (s : State), lastDpa < 2 ^ 63 ∧ (16 = 20 ∧ s.member.hdmSpan ≤ lastDpa ∨ 16 = 16 ∧ lastDpa < s.member.hdmSpan ∧ memActive s =
      false) ∧ releaseIsolated s lastDpa = true)
    ∧ (∃ (s : State), s.cxl.configReady = true ∧ getF s pgSec F.SEC_KEY_STATE = 1)
    ∧ (∃ (s : State), s.cxl.configReady = true ∧ getF s pgSec F.SEC_KEY_STATE = 2) :=
  ⟨⟨setF mboxState pgSec F.SEC_KEY_STATE 1, by decide +kernel⟩, ⟨up, by decide +kernel⟩, ⟨Tests.cxlUp, _, _, rfl, rfl,
    by decide +kernel⟩, ⟨setF up (pgArb 0 102) F.ARB_ISOL 524288, by decide +kernel⟩, ⟨setF mboxState pgSec F.SEC_KEY_STATE 1,
    by decide +kernel⟩, ⟨setF mboxState pgSec F.SEC_KEY_STATE 2, by decide +kernel⟩⟩

/-- States and operands that meet the hypotheses of MailboxReports, clause by clause. -/
theorem witness_MailboxReports :
    (∃ (s : State), s.cxl.configReady = true ∧ leadDown s = false ∧ inRecovery s = false ∧ (∀ (h : Nat), h ∈ [] → ∃ r, r ∈
      s.cxl.events ∧ r.handle = h))
    ∧ (∃ (s : State), s.cxl.configReady = true ∧ leadDown s = true)
    ∧ (∃ (s : State), s.cxl.configReady = true ∧ leadDown s = false ∧ inRecovery s = true)
    ∧ (∃ (s : State), s.cxl.configReady = true ∧ leadDown s = false ∧ inRecovery s = false ∧ 0 + 1 ≤ effectsLog.length)
    ∧ (∃ (s : State), s.cxl.configReady = true ∧ leadDown s = false ∧ inRecovery s = false ∧ 19 < s.member.stackCount ∧ 0 < 1024 ∧ 1 ≤
      1 ∧ 1 ≤ 128) :=
  ⟨⟨mboxState, by decide +kernel⟩, ⟨mboxBusy, by decide +kernel⟩, ⟨mboxRecovery, by decide +kernel⟩, ⟨mboxState, by decide +kernel⟩,
    ⟨mboxState, by decide +kernel⟩⟩

/-- States and operands that meet the hypotheses of MailboxMediaAndFirmware, clause by clause. -/
theorem witness_MailboxMediaAndFirmware :
    (∃ (s : State) (x : FwImage), s.cxl.configReady = true ∧ leadDown s = false ∧ 1 ≤ 2 ∧ 2 ≤ 2 ∧ runningSlot s ≠ some (2 - 1) ∧
      s.flash.activated ≠ 2 - 1 ∧ s.cxl.transfer = some (2 - 1) ∧ imageFails s x = none)
    ∧ (∃ (s : State) (x : FwImage), s.cxl.configReady = true ∧ leadDown s = false ∧ 1 ≤ 2 ∧ 2 ≤ 2 ∧ runningSlot s ≠ some (2 - 1) ∧
      s.flash.activated ≠ 2 - 1 ∧ s.cxl.transfer = none ∧ imageFails s x = none)
    ∧ (∃ (s : State), s.cxl.configReady = true ∧ leadDown s = false ∧ inRecovery s = false ∧ inSpan s dpa19 64 = true ∧ 64 ≠ 0 ∧
      s.cxl.scan = none)
    ∧ (∃ (s : State) (x : List Byte), s.cxl.configReady = true ∧ leadDown s = false ∧ inRecovery s = false ∧ inSpan s dpa19 64 = true
      ∧ dpa19 % 64 = 0 ∧ inHole s (dpaToPa dpa19) = false ∧ stackActive s (paStack (dpaToPa dpa19)) = true ∧ x.length = 64)
    ∧ (∃ (s : State) (x : FwImage), s.cxl.configReady = true ∧ leadDown s = false ∧ 1 ≤ 2 ∧ 2 ≤ 2 ∧ runningSlot s ≠ some (2 - 1) ∧
      s.flash.activated ≠ 2 - 1 ∧ s.cxl.transfer = some (2 - 1) ∧ imageFails s x ≠ none)
    ∧ (∃ (s : State), s.cxl.configReady = true ∧ leadDown s = false ∧ inRecovery s = false ∧ inSpan s dpa19 64 = true ∧ dpa19 % 64 = 0
      ∧ inHole s (dpaToPa dpa19) = false ∧ stackActive s (paStack (dpaToPa dpa19)) = true ∧ tget [] s.flips (dpaToPa dpa19 / 64) = [])
    ∧ (∃ (s : State), s.cxl.configReady = true ∧ s.cxl.scan = some (0, 64))
    ∧ (∃ (s : State), s.cxl.configReady = true ∧ leadDown s = false ∧ inRecovery s = false ∧ (lastDpa + 1) % 64 ≠ 0)
    ∧ (∃ (s : State), s.cxl.configReady = true ∧ leadDown s = false ∧ 1 ≤ 2 ∧ 2 ≤ 2 ∧ slotImage s (2 - 1) ≠ none) :=
  ⟨⟨fwState (some 1), image none, by decide +kernel⟩, ⟨fwState none, image none, by decide +kernel⟩, ⟨flipped, by decide +kernel⟩,
    ⟨flipped, line64, by decide +kernel⟩, ⟨fwState (some 1), image (some 3), by decide +kernel⟩, ⟨Tests.cxlUp, by decide +kernel⟩,
    ⟨mboxState, by decide +kernel⟩, ⟨mboxState, by decide +kernel⟩, ⟨fwState none, by decide +kernel⟩⟩

/-- States and operands that meet the hypotheses of BootAndTraining, clause by clause. -/
theorem witness_BootAndTraining :
    (∃ (s : State), s.board.perst = true ∧ s.board.mainOn = true ∧ slotImage s 0 = none ∧ slotImage s 1 = none ∧ s.flash.activated ≤
      1)
    ∧ (∃ (s : State) (x : TrainOut), hasStack s 19 = true ∧ getF s pgSec F.SEC_BOOT_STATE = 3 ∧ ((s.stack 19).trained = false ∧
      (s.stack 19).trainFailed = false ∧ (s.stack 19).coded = false ∧ nextToTrain s (s.member.stackDie 19) = some 19 ∧ (srState s 19 =
      0 ∨ srState s 19 = 2)) ∧ (∀ (ch : Nat), ch < 32 → (s.chan 19 ch).blocked = []) ∧ (srState s 19 = 0 ∨ getF s (pgStk s.member 19)
      F.STK_SRCTL_KEEP_EFF ≠ 0) ∧ firstRejected (wireTraining s 19 x).fst (tsvTraining (wireTraining s 19 x).snd 19 (poweredDies s 19)
      x.tsv).fst (List.filter (fun x => decide (x < 2048)) x.check) = none)
    ∧ (∃ (s : State) (x : TrainOut), hasStack s 19 = true ∧ getF s pgSec F.SEC_BOOT_STATE = 3 ∧ ((s.stack 19).trained = false ∧
      (s.stack 19).trainFailed = false ∧ (s.stack 19).coded = false ∧ nextToTrain s (s.member.stackDie 19) = some 19 ∧ (srState s 19 =
      0 ∨ srState s 19 = 2)) ∧ (∀ (ch : Nat), ch < 32 → (s.chan 19 ch).blocked = []) ∧ (srState s 19 = 0 ∨ getF s (pgStk s.member 19)
      F.STK_SRCTL_KEEP_EFF ≠ 0) ∧ firstRejected (wireTraining s 19 x).fst (tsvTraining (wireTraining s 19 x).snd 19 (poweredDies s 19)
      x.tsv).fst (List.filter (fun x => decide (x < 2048)) x.check) = some (31, 63))
    ∧ (∃ (s : State) (x : TrainOut), hasStack s 19 = true ∧ getF s pgSec F.SEC_BOOT_STATE = 3 ∧ ((s.stack 19).trained = false ∧
      (s.stack 19).trainFailed = false ∧ (s.stack 19).coded = false ∧ nextToTrain s (s.member.stackDie 19) = some 19 ∧ (srState s 19 =
      0 ∨ srState s 19 = 2)) ∧ (∀ (ch : Nat), ch < 32 → (s.chan 19 ch).blocked = []) ∧ srState s 19 = 2 ∧ getF s (pgStk s.member 19)
      F.STK_SRCTL_KEEP_EFF = 0 ∧ firstRejected (wireTraining s 19 x).fst [] [] = none)
    ∧ (∃ (s : State) (x : TrainOut), hasStack s 19 = true ∧ getF s pgSec F.SEC_BOOT_STATE = 3 ∧ ((s.stack 19).trained = false ∧
      (s.stack 19).trainFailed = false ∧ (s.stack 19).coded = false ∧ nextToTrain s (s.member.stackDie 19) = some 19 ∧ (srState s 19 =
      0 ∨ srState s 19 = 2)) ∧ (∀ (ch : Nat), ch < 32 → (s.chan 19 ch).blocked = []) ∧ srState s 19 = 2 ∧ getF s (pgStk s.member 19)
      F.STK_SRCTL_KEEP_EFF = 0 ∧ firstRejected (wireTraining s 19 x).fst [] [] = some (31, 63))
    ∧ (∃ (s : State) (x : TrainOut), hasStack s 19 = true ∧ getF s pgSec F.SEC_BOOT_STATE = 3 ∧ (s.stack 19).trained = false ∧
      (s.stack 19).trainFailed = false ∧ (s.stack 19).coded = true ∧ srState s 19 = 0 ∧ (∀ (ch : Nat), ch < 32 → (s.chan 19
      ch).blocked = []) ∧ List.filter (fun x => decide (x < 2048)) x.check = [])
    ∧ (∃ (s : State), hasStack s 19 = true ∧ getF s pgSec F.SEC_BOOT_STATE = 3 ∧ (∀ (j : Nat), j < s.member.stackCount → (s.stack
      j).trainFailed = false ∧ ((s.stack j).trained = true ∨ srState s j = 2)))
    ∧ (∃ (s : State) (x : TrainOut), hasStack s 19 = true ∧ getF s pgSec F.SEC_BOOT_STATE = 3 ∧ ((s.stack 19).trained = false ∧
      (s.stack 19).trainFailed = false ∧ (s.stack 19).coded = false ∧ nextToTrain s (s.member.stackDie 19) = some 19 ∧ (srState s 19 =
      0 ∨ srState s 19 = 2)) ∧ (∀ (ch : Nat), ch < 32 → (s.chan 19 ch).blocked = []) ∧ (srState s 19 = 0 ∨ getF s (pgStk s.member 19)
      F.STK_SRCTL_KEEP_EFF ≠ 0) ∧ firstRejected (wireTraining s 19 x).fst (tsvTraining (wireTraining s 19 x).snd 19 (poweredDies s 19)
      x.tsv).fst (List.filter (fun x => decide (x < 2048)) x.check) = none)
    ∧ (∃ (s : State), s.board.perst = true ∧ s.board.mainOn = false)
    ∧ (∃ (s : State), s.board.perst = false)
    ∧ (∃ (s : State), hasStack s 19 = true ∧ getF s pgSec F.SEC_BOOT_STATE = 3 ∧ (s.stack 19).trainFailed = true)
    ∧ (∃ (s : State), hasStack s 19 = true ∧ getF s pgSec F.SEC_BOOT_STATE = 3 ∧ ((s.stack 19).trained = true ∨ (s.stack
      19).trainFailed = true ∨ (s.stack 19).coded = false ∧ nextToTrain s (s.member.stackDie 19) ≠ some 19)) :=
  ⟨⟨State.reset, by decide +kernel⟩, ⟨training 0 0 { }, trainGood, by decide +kernel⟩, ⟨training 0 0 { }, trainBad,
    by decide +kernel⟩, ⟨training 2 0 { bootHeld := true }, trainGood, by decide +kernel⟩, ⟨training 2 0 { bootHeld := true },
    trainBad, by decide +kernel⟩, ⟨training 0 0 { coded := true, bootHeld := true }, trainGood, by decide +kernel⟩, ⟨training 2 98303
    { bootHeld := true }, by decide +kernel⟩, ⟨training 2 98303 { bootHeld := true }, trainGood, by decide +kernel⟩, ⟨mainOffPerst,
    by decide +kernel⟩, ⟨keepSome 2 0, by decide +kernel⟩, ⟨training 0 0 { trainFailed := true }, by decide +kernel⟩, ⟨training 0 0
    { trainFailed := true }, by decide +kernel⟩⟩

/-- States and operands that meet the hypotheses of BoundedWrites, clause by clause. -/
theorem witness_BoundedWrites :
    (∃ (s : State) (x : BwPend), s.bwq = [x] ∧ 10000 ≤ elapsed s x.us ∧ (x.id = 1 ∨ x.id = 2 ∨ x.id = 6))
    ∧ (∃ (s : State), fld 1 0 7 = arbVersion s + 1 ∧ getF s pgSec F.SEC_KEY_STATE ≠ 2 ∧ bwPending s (pgSec + 144) = false ∧ bwLeft s 6
      0 0 ≠ 0 ∧ pageGated s (pageOf (pgSec + 144)) = false)
    ∧ (∃ (s : State), getF s pgSec F.SEC_KEY_STATE ≠ 2 ∧ bwPending s (pgLedg + 136) = false ∧ bwLeft s 1 0 0 ≠ 0 ∧ BitVec.ofNat 64
      (fld 1 0 2) ≠ bwVal s (pgLedg + 136))
    ∧ (∃ (s : State), getF s pgSec F.SEC_KEY_STATE ≠ 2 ∧ bwPending s (pgSec + 160) = false ∧ bwLeft s 2 0 0 ≠ 0 ∧ bitOf 1 0 = true ∧
      secWords s F.SEC_OWNER_STAGE ≠ ownerHash s ∧ (ownerSet s = false ∨ true = true))
    ∧ (∃ (s : State), getF s pgSec F.SEC_KEY_STATE ≠ 2 ∧ bwPending s (pgSec + 144) = false ∧ bwLeft s 6 0 0 ≠ 0 ∧ leadDown s = false ∧
      memActive s = true ∧ 60000000 ≤ elapsed s s.board.sinceBoot ∧ arbVersion s < getF s pgSec F.SEC_FW_SVN)
    ∧ (∃ (s : State) (x : BwPend), s.bwq = [x, bwPend 8 1 9] ∧ elapsed s x.us < 10000)
    ∧ (∃ (s : State), fld 1 0 7 = arbVersion s + 1 ∧ getF s pgSec F.SEC_KEY_STATE = 2)
    ∧ (∃ (s : State) (x : BwPend), s.bwq = [x] ∧ 10000 ≤ elapsed s x.us ∧ (x.id = 1 ∨ x.id = 2 ∨ x.id = 6))
    ∧ (∃ (s : State), fld 1 0 7 = arbVersion s + 1 ∧ getF s pgSec F.SEC_KEY_STATE ≠ 2 ∧ bwPending s (pgSec + 144) = true)
    ∧ (∃ (s : State), fld 1 0 7 = arbVersion s + 1 ∧ getF s pgSec F.SEC_KEY_STATE ≠ 2 ∧ bwPending s (pgSec + 144) = false ∧ bwLeft s 6
      0 0 = 0)
    ∧ (∃ (s : State), fld 2 0 7 ≠ arbVersion s + 1 ∧ getF s pgSec F.SEC_KEY_STATE ≠ 2 ∧ bwPending s (pgSec + 144) = false ∧ bwLeft s 6
      0 0 ≠ 0)
    ∧ (∃ (s : State), getF s pgSec F.SEC_KEY_STATE ≠ 2 ∧ bwPending s (pgSec + 160) = false ∧ bwLeft s 2 0 0 ≠ 0 ∧ bitOf 1 0 = true ∧
      secWords s F.SEC_OWNER_STAGE ≠ ownerHash s ∧ ownerSet s = true ∧ false = false) :=
  ⟨⟨bwWaits [bwPend (pgSec + 160) 2 0], bwPend (pgSec + 160) 2 0, by decide +kernel⟩, ⟨up, by decide +kernel⟩, ⟨up,
    by decide +kernel⟩, ⟨ownerStaged [9], by decide +kernel⟩, ⟨oldBoot, by decide +kernel⟩, ⟨bwWaits [bwPend (pgSec + 144) 6 1, bwPend
    8 1 9], bwPend (pgSec + 144) 6 1, by decide +kernel⟩, ⟨keyed 2, by decide +kernel⟩, ⟨bwWaits [bwPend (pgLedg + 136) 1 0], bwPend
    (pgLedg + 136) 1 0, by decide +kernel⟩, ⟨bwWaits [bwPend (pgSec + 144) 6 1], by decide +kernel⟩, ⟨bwSpent, by decide +kernel⟩,
    ⟨up, by decide +kernel⟩, ⟨ownerStaged [9], by decide +kernel⟩⟩

/-- States and operands that meet the hypotheses of ModuleInputs, clause by clause. -/
theorem witness_ModuleInputs :
    (∃ (s : State), hasDie s 7 = true ∧ 120 ≤ 120 ∧ s.board.mainOn = true)
    ∧ (∃ (s : State), s.board.auxOn = true)
    ∧ (∃ (s : State), s.board.mainOn = false ∧ s.board.perst = true)
    ∧ (∃ (s : State), s.board.auxOn = false)
    ∧ (∃ (s : State), hasDie s 7 = true ∧ 119 < 120) :=
  ⟨⟨powered true false true, by decide +kernel⟩, ⟨powered true false true, by decide +kernel⟩, ⟨powered false true true,
    by decide +kernel⟩, ⟨powered true true false, by decide +kernel⟩, ⟨powered true true false, by decide +kernel⟩⟩

/-- States and operands that meet the hypotheses of LedgerAndCalibration, clause by clause. -/
theorem witness_LedgerAndCalibration :
    (∃ (s : State), hasDie s 7 = true ∧ 0 < rails s.member 7 ∧ fld 1 0 2 ≤ fld (bwVal s (pgLedg + 136)) 0 2 ∧ (s.armed ≠ none ∨
      s.running ≠ none))
    ∧ (∃ (s : State), hasDie s 7 = true ∧ 2 < rails s.member 7 ∧ fld 1 0 2 ≤ fld (bwVal s (pgLedg + 136)) 0 2 ∧ s.armed = none ∧
      s.running = none ∧ fld 1 0 2 ≠ classNow s ∧ -2 ^ 62 ≤ balance s)
    ∧ (∃ (s : State), (¬∃ p, (s.port p).held ≠ []) ∧ s.board.mainOn = true ∧ s.board.perst = false ∧ 31 < 32 ∧ (s.otab 31).state = 3 ∧
      (∀ (j : Nat), j < 32 → (s.otab j).state ≠ 1) ∧ (¬∃ f, f ∈ s.fetches ∧ f.user = 0) ∧ s.descQ = [] ∧ s.allocQ = [])
    ∧ (∃ (s : State), s.board.mainOn = false)
    ∧ (∃ (s : State), s.board.mainOn = true ∧ s.board.perst = true)
    ∧ (∃ (s : State), s.board.mainOn = true ∧ s.board.perst = false ∧ hardNow s = true)
    ∧ (∃ (s : State), hasDie s 7 = true ∧ 0 < rails s.member 7 ∧ fld (bwVal s (pgLedg + 136)) 0 2 < fld 3 0 2)
    ∧ (∃ (s : State), (¬∃ p, (s.port p).held ≠ []) ∧ s.board.mainOn = true ∧ s.board.perst = false ∧ (¬∃ n, n < 32 ∧ ((s.otab n).state
      = 1 ∨ (s.otab n).state = 3)) ∧ (¬∃ f, f ∈ s.fetches ∧ f.user = 0) ∧ s.descQ = [] ∧ s.allocQ = [])
    ∧ (∃ (s : State), (¬∃ p, (s.port p).held ≠ []) ∧ s.board.mainOn = true ∧ s.board.perst = false ∧ (¬∃ n, n < 32 ∧ ((s.otab n).state
      = 1 ∨ (s.otab n).state = 3)) ∧ (¬∃ f, f ∈ s.fetches ∧ f.user = 0) ∧ s.descQ = [] ∧ s.allocQ = [3])
    ∧ (∃ (s : State), (¬∃ p, (s.port p).held ≠ []) ∧ s.board.mainOn = true ∧ s.board.perst = false ∧ (¬∃ n, n < 32 ∧ ((s.otab n).state
      = 1 ∨ (s.otab n).state = 3)) ∧ (¬∃ f, f ∈ s.fetches ∧ f.user = 0) ∧ s.descQ = [(3, 0, 7)] ∧ s.allocQ = []) :=
  ⟨⟨planRuns 0 false, by decide +kernel⟩, ⟨railState, by decide +kernel⟩, ⟨unpublishing, no_held (by decide +kernel),
    by decide +kernel⟩, ⟨mainOff, by decide +kernel⟩, ⟨powered true true true, by decide +kernel⟩, ⟨accountState 100000000 1,
    by decide +kernel⟩, ⟨ceil1, by decide +kernel⟩, ⟨accountState 0 0, no_held (by decide +kernel), by decide +kernel⟩, ⟨waitingCmds
    false, no_held (by decide +kernel), by decide +kernel⟩, ⟨waitingCmds true, no_held (by decide +kernel), by decide +kernel⟩⟩

/-- States and operands that meet the hypotheses of Plans, clause by clause. -/
theorem witness_Plans :
    (∃ (s : State) (x : Plan), s.running = some x ∧ x.ended = true)
    ∧ (∃ (s : State) (x : Plan), faulted s = false ∧ leadDown s = false ∧ s.armed = some x)
    ∧ (∃ (s : State), faulted s = false ∧ leadDown s = false ∧ s.armed ≠ none)
    ∧ (∃ (s : State) (x : Plan), s.running = some x ∧ x.deadline ≤ getF s pgPlan F.PLAN_CLOCK_NS ∧ getF s pgPlan
      F.PLAN_SLOTS_RUN_STATE = 1 ∧ x.ended = false ∧ (∀ (c : Cause), c ∈ s.causes → c.cause ≠ 4))
    ∧ (∃ (s : State), faulted s = false ∧ leadDown s = false ∧ s.armed = none ∧ getF s pgPlan F.PLAN_SRC % 64 = 0 ∧ planPlace s (getF
      s pgPlan F.PLAN_SRC) 64 = true ∧ fetchClear s 12288 (getF s pgPlan F.PLAN_SRC / 64) = false)
    ∧ (∃ (s : State), faulted s = false ∧ leadDown s = true)
    ∧ (∃ (s : State) (x : Plan), s.running = some x ∧ (getF s pgPlan F.PLAN_CLOCK_NS < x.deadline ∨ x.ended = true))
    ∧ (∃ (s : State), ∃ a b c, a = leWords (mread s.mem (getF s pgPlan F.PLAN_SRC + 64) 32) ∧ b = leWords (mread s.mem (getF s pgPlan
      F.PLAN_SRC) 64) ∧ c = Nat.max 1 (fld (a.getD 3 0) 32 16) * fld (a.getD 1 0) 0 40 * 1000 ∧ faulted s = false ∧ leadDown s = false
      ∧ s.armed = none ∧ getF s pgPlan F.PLAN_SRC % 64 = 0 ∧ planPlace s (getF s pgPlan F.PLAN_SRC) 64 = true ∧ planPlace s (getF s
      pgPlan F.PLAN_SRC + 64) 32 = true ∧ tget [] s.flips (getF s pgPlan F.PLAN_SRC / 64) = [] ∧ ¬getF s pgPlan F.PLAN_SRC / 64 ∈
      s.poison ∧ fetchClear s 12288 (getF s pgPlan F.PLAN_SRC / 64) = true ∧ tget [] s.flips (getF s pgPlan F.PLAN_SRC / 64 + 1) = []
      ∧ ¬getF s pgPlan F.PLAN_SRC / 64 + 1 ∈ s.poison ∧ fetchClear s 12288 (getF s pgPlan F.PLAN_SRC / 64 + 1) = true ∧ planHeaderOk b
      = true ∧ fld (b.getD 0 0) 0 11 = 1 ∧ itemOk s 0 a = true ∧ fld (a.getD 0 0) 0 4 = 5 ∧ fld (b.getD 1 0) 0 40 ≠ 0 ∧ fld (b.getD 1
      0) 0 40 ≤ getF s pgPlan F.PLAN_CFG_MAX_DEADLINE_MS * 10 ^ 6 ∧ Nat.max 1 (fld (a.getD 3 0) 32 16) * fld (a.getD 1 0) 0 40 * 1000
      ≤ fld (b.getD 1 0) 0 40 * 1000 ∧ (fld (a.getD 0 0) 32 32 = 0 ∨ Nat.max 1 (fld (a.getD 3 0) 32 16) * fld (a.getD 1 0) 0 40 * 1000
      ≤ fld (a.getD 0 0) 32 32 * 1000) ∧ ((predUj s (fld (a.getD 3 0) 0 32 * 10 ^ 9) c : Nat) : Int) ≤ planB0 s + ((planPower s * c /
      10 ^ 6 : Nat) : Int)) :=
  ⟨⟨planRuns 1000000 true, aPlan true, by decide +kernel⟩, ⟨planned (some (aPlan false)), aPlan false, by decide +kernel⟩, ⟨planned
    (some (aPlan false)), by decide +kernel⟩, ⟨planRuns 1000000 false, aPlan false, by decide +kernel⟩, ⟨planAway, by decide +kernel⟩,
    ⟨planLeadDown, by decide +kernel⟩, ⟨planRuns 1000000 true, aPlan true, by decide +kernel⟩, ⟨planned none, _, _, _, rfl, rfl, rfl,
    by decide +kernel⟩⟩

/-- States and operands that meet the hypotheses of FaultsAndJobResets, clause by clause. -/
theorem witness_FaultsAndJobResets :
    (∃ (s : State), (∀ (st ch : Nat), (s.chan st ch).stalled = []) ∧ bitOf 3 0 = true ∧ resetting s = true ∧ allStopped s = true ∧
      s.cxl.unsent = [])
    ∧ (∃ (s : State), hasDie s 7 = true ∧ pendingCause s 7 7 = some aCause ∧ faulted s = true ∧ resetting s = false ∧ s.entry = none)
    ∧ (∃ (s : State) (x : Cause) (y : List W64), hasDie s 7 = true ∧ pendingCause s 7 7 = some x ∧ faulted s = true ∧ resetting s =
      false ∧ s.entry = some y)
    ∧ (∃ (s : State) (x : List W64), hasDie s 7 = true ∧ s.entry = some x ∧ x.length = 8)
    ∧ (∃ (s : State), bitOf 3 0 = true ∧ resetting s = false ∧ faulted s = true)
    ∧ (∃ (s : State) (x : Cause), hasDie s 7 = true ∧ pendingCause s 7 7 = some x ∧ halted s = false)
    ∧ (∃ (s : State), bitOf 1 0 = true ∧ resetting s = false ∧ faulted s = false)
    ∧ (∃ (s : State), bitOf 3 0 = true ∧ (resetting s = false ∨ allStopped s = false))
    ∧ (∃ (s : State), hasDie s 7 = true ∧ (pendingCause s 7 7 = none ∨ halted s = true))
    ∧ (∃ (s : State), hasDie s 7 = true ∧ (pendingCause s 7 6 = none ∨ faulted s = false ∨ resetting s = true)) :=
  ⟨⟨resettingJob, no_stalled (by decide +kernel), by decide +kernel⟩, ⟨causing 1 0 none, by decide +kernel⟩, ⟨causing 1 0 (some
    aRecord), aCause, aRecord, by decide +kernel⟩, ⟨causing 1 0 (some aRecord), aRecord, by decide +kernel⟩, ⟨causing 1 0 none,
    by decide +kernel⟩, ⟨causing 0 0 none, aCause, by decide +kernel⟩, ⟨causing 0 0 none, by decide +kernel⟩, ⟨causing 1 0 none,
    by decide +kernel⟩, ⟨causing 1 0 none, by decide +kernel⟩, ⟨causing 0 0 none, by decide +kernel⟩⟩

/-- States and operands that meet the hypotheses of FencesAndWatchdogs, clause by clause. -/
theorem witness_FencesAndWatchdogs :
    (∃ (s : State), hasDie s 7 = true ∧ 7 ∈ s.restarting ∧ (7 ≠ 0 ∨ getF s pgPlan F.PLAN_RESULT_BUSY = 0))
    ∧ (∃ (s : State), bitOf 3 0 = true ∧ bitOf 3 2 = false ∧ fenceState s = 0 ∧ s.fenceFlushed = false ∧ faulted s = false ∧
      fenceDrained s = true)
    ∧ (∃ (s : State), bitOf 1 0 = true ∧ bitOf 1 2 = false ∧ fenceState s = 0 ∧ s.fenceFlushed = false ∧ faulted s = false ∧
      fenceDrained s = false)
    ∧ (∃ (s : State), bitOf 1 0 = true ∧ bitOf 1 2 = false ∧ fenceState s = 0 ∧ s.fenceFlushed = false ∧ faulted s = true)
    ∧ (∃ (s : State), fenceState s = 1 ∧ s.fenceFlushed = true ∧ (∀ (st : Nat), st < s.member.stackCount → flushing s st = false) ∧
      (getF s (pgFlt 0) F.FLT_FENCE_GO = 1 → faulted s = false))
    ∧ (∃ (s : State), hasDie s 7 = true ∧ ¬7 ∈ s.restarting ∧ ¬7 + 8 ∈ s.restarting ∧ Nat.max 1 (getF s (pgFlt 7)
      F.FLT_WDOG_TIMEOUT_MS) * 1000 ≤ elapsed s (tget 0 s.kicks 7))
    ∧ (∃ (s : State), bitOf 4 2 = true ∧ bitOf 4 0 = false ∧ fenceState s = 2)
    ∧ (∃ (s : State), fenceState s = 1 ∧ s.fenceFlushed = true ∧ (∀ (st : Nat), st < s.member.stackCount → flushing s st = false) ∧
      getF s (pgFlt 0) F.FLT_FENCE_GO = 1 ∧ faulted s = true)
    ∧ (∃ (s : State), hasDie s 0 = true ∧ bitOf 1 0 = true ∧ faulted s = false)
    ∧ (∃ (s : State), fenceState s = 1 ∧ s.fenceFlushed = false ∧ getF s (pgFlt 0) F.FLT_FENCE_GO = 1 ∧ faulted s = false ∧
      fenceDrained s = true ∧ 3 < s.member.stackCount ∧ dirtyMax s 3 ≠ 0)
    ∧ (∃ (s : State), bitOf 1 0 = true ∧ fenceState s = 1)
    ∧ (∃ (s : State), hasDie s 7 = true ∧ bitOf 1 0 = true ∧ faulted s = true)
    ∧ (∃ (s : State), hasDie s 0 = true ∧ 0 ∈ s.restarting ∧ 0 = 0 ∧ getF s pgPlan F.PLAN_RESULT_BUSY = 1)
    ∧ (∃ (s : State), fenceState s = 1 ∧ s.fenceFlushed = true ∧ 3 < s.member.stackCount ∧ flushing s 3 = true)
    ∧ (∃ (s : State), hasDie s 7 = true ∧ elapsed s (tget 0 s.kicks 7) < Nat.max 1 (getF s (pgFlt 7) F.FLT_WDOG_TIMEOUT_MS) * 1000)
    ∧ (∃ (s : State), fenceState s = 1 ∧ s.fenceFlushed = false ∧ getF s (pgFlt 0) F.FLT_FENCE_GO = 1 ∧ faulted s = false ∧
      fenceDrained s = false) :=
  ⟨⟨wdogState 2004 [7], by decide +kernel⟩, ⟨fenceAt 0 0 0, by decide +kernel⟩, ⟨fenceWorks 0, by decide +kernel⟩, ⟨fenceFaulted 0,
    by decide +kernel⟩, ⟨fenceFlushing 0 0, by decide +kernel⟩, ⟨wdogState 2005 [], by decide +kernel⟩, ⟨fenceAt 2 0 0,
    by decide +kernel⟩, ⟨fenceFaulted 1, by decide +kernel⟩, ⟨leadBusy, by decide +kernel⟩, ⟨fenceDirty, by decide +kernel⟩, ⟨fenceAt
    1 1 1, by decide +kernel⟩, ⟨causing 1 0 none, by decide +kernel⟩, ⟨leadBusy, by decide +kernel⟩, ⟨fenceFlushing 0 1,
    by decide +kernel⟩, ⟨wdogState 2004 [7], by decide +kernel⟩, ⟨fenceBusy, by decide +kernel⟩⟩

/-- States and operands that meet the hypotheses of CoreAssertions, clause by clause. -/
theorem witness_CoreAssertions :
    (∃ (s : State), hasDie s 7 = true ∧ Writer.host ≠ Writer.uzoid 7) :=
  ⟨recordErr up (pgFab 7 0) 3088 5, by decide +kernel⟩

/-- A sound state whose next command completes, as StepKeepsInvariant and CommandsKeepTheirFootprint assume: memory, errors and a page
with events stand in it, and PCFLUSH is at the front. -/
theorem witness_Steps :
    (∃ (c : Instr) (s : State), s.Canonical ∧ (match step { s with pending := [c] } with | .next _ => true | _ => false) = true)
    ∧ ∃ (c : Instr) (s : State), (match exec c s with | .next _ => true | _ => false) = true :=
  ⟨⟨.calibration 7, { noisy with mem := [(5, 0x11), (2 ^ 36 * 20 - 1, 0x33)] },
      { regs := by decide +kernel, regsSet := by decide +kernel, mem := by decide +kernel, imem := by decide +kernel,
        lib := by decide +kernel, tiles := by decide +kernel, uzoids := by decide +kernel }, by decide +kernel⟩,
    ⟨.calibration 7, noisy, by decide +kernel⟩⟩

/-- PUBLISH's hypotheses: an EMPTY table with a good header whose words can be fetched at once, an entry of this part that fits and one
of another part. -/
theorem witness_OwnerTables_publish :
    ∃ (s : State) (x : OTab) (l : List W64) (secs : List Nat), leadWriter .host = true ∧ getF s pgOwn F.OWN_SEL_TABLE = 31 ∧ x = s.otab 31
      ∧ l = leWords (mread s.mem x.src.toNat (8 * x.count)) ∧ secs = sectorsOf x.src.toNat (8 * x.count) ∧ l.length = 2 ∧ secs ≠ []
      ∧ x.state = 0 ∧ headerOk s x = true ∧ (∀ f ∈ s.fetches, f.user ≠ 1 + 31)
      ∧ (∀ k ∈ secs, soundSec s k = true ∧ fetchClear s 0x3000 k = true ∧ tget [] s.flips k = [] ∧ s.poison.contains k = false)
      ∧ ∀ e ∈ l, ePresent e = true → ePart e = partNo s → fitsEntry x (s.desc (eHandle e)) = true := by
  refine ⟨tabled (table 0 0 2 [] []), _, _, _, by decide +kernel, by decide +kernel, rfl, rfl, rfl, by decide +kernel, by decide +kernel,
    by decide +kernel, by decide +kernel, by decide +kernel, by decide +kernel, fun e he h1 h2 => ?_⟩
  have h : (leWords (mread (tabled (table 0 0 2 [] [])).mem ((tabled (table 0 0 2 [] [])).otab 31).src.toNat
      (8 * ((tabled (table 0 0 2 [] [])).otab 31).count))).all (fun e => !(ePresent e && ePart e = partNo (tabled (table 0 0 2 [] [])))
        || fitsEntry ((tabled (table 0 0 2 [] [])).otab 31) ((tabled (table 0 0 2 [] [])).desc (eHandle e))) = true := by decide +kernel
  have := List.all_eq_true.mp h e he
  simpa [h1, h2] using this

/-- MX_PASS_END's hypotheses: a started run with a pass to end, good operands, no poison. -/
theorem witness_MatrixRuns_pass :
    ∃ (s : State) (r : MxRun), hasTile s 511 = true ∧ (s.tile 511).run = some r ∧ r.started = true ∧ r.iter < r.total ∧ halted s = false
      ∧ tileOff s 511 = false ∧ (s.tile 511).mx.stopped = false ∧ (s.tile 511).spoison = [] ∧ (s.tile 511).accPoison = []
      ∧ earlyLines s 511 0 = []
      ∧ badTerms r.words (fun x => lValue r.words 511 r.iter x r.popped) r.descs = []
      ∧ (passModes r.words r.iter).1 = 0 ∧ (passModes r.words r.iter).2 = 0 :=
  ⟨mxRunning (mxWords 0) 0, ⟨7, mxWords 0, 0, 1, mxDescs, true, [], 1, false, [], []⟩, by decide +kernel⟩

/-- PERST_DEASSERT's hypotheses at a good boot. -/
theorem witness_BootAndTraining_boot :
    ∃ (b : BootIn) (img : FwImage) (s : State), s.board.perst = true ∧ s.board.mainOn = true ∧ s.flash.activated ≤ 1
      ∧ slotImage s s.flash.activated = some img ∧ imageFails s img = none ∧ b.slotOk = true ∧ b.storeOk = true ∧ b.keyOk = true
      ∧ b.copyFail = none := ⟨goodBoot, bootImage, perstState 1, by decide +kernel⟩

/-- LEDGER_TICK's hypotheses on the balance, which free energies lower: a part whose account falls to 0 and one whose account does not. -/
theorem witness_LedgerAndCalibration_account :
    (∃ s : State, s.board.mainOn = true ∧ s.board.perst = false ∧ hardNow s = false ∧ nextBalance s ≤ 0)
    ∧ ∃ s : State, s.board.mainOn = true ∧ s.board.perst = false ∧ hardNow s = false ∧ 0 < nextBalance s := by
  have h (r : Nat) : (accountAt r).board.mainOn = true ∧ (accountAt r).board.perst = false ∧ hardNow (accountAt r) = false := by
    show (accountState 0 0).board.mainOn = true ∧ (accountState 0 0).board.perst = false ∧ hardNow (accountState 0 0) = false
    decide +kernel
  obtain ⟨r, hr⟩ := nextBalance_any 4000 (by decide)
  obtain ⟨q, hq⟩ := nextBalance_any 0 (by decide)
  exact ⟨⟨accountAt r, (h r).1, (h r).2.1, (h r).2.2, by omega⟩, ⟨accountAt q, (h q).1, (h q).2.1, (h q).2.2, by omega⟩⟩

/-- A step takes the front of the queue, in order (the queue is the model's). -/
theorem test_step_takes_the_front :
    (match step { up with pending := [.auxInputChange false, .auxInputChange true] } with
      | .next t => decide (t.board.auxOn = false ∧ t.pending = [.auxInputChange true]) | _ => false) = true := by decide +kernel

/-- No word of the table's bits spells a command: the table gives its rows no bits. -/
theorem test_no_word_decodes : decodeTableWord 8 0 = none ∧ up.withFetchWord 8 0 = up := by decide +kernel

/-- A packet of type 16. -/
def badPkt : Pkt := { pkt 7 0 0 0 0 0 [] with typ := 16 }
/-- WellFormed refuses commands whose operands lie one past their ranges, one for each of its checks. -/
theorem test_ill_formed_commands_are_refused :
    ([Instr.registerWrite (.uzoid 8) 0 8 none, .registerWrite .host (2 ^ 30) 8 (some 0), .registerWrite .host 0 3 (some 0), .w1cClear .host (2 ^ 28) 0,
    .ctrlReset .host ⟨8, 0, 0⟩, .ctrlFreeze .host ⟨0, 32, 0⟩ true, .ctrlEnable .host ⟨0, 0, 256⟩ true, .islandUngateDone 512,
    .msixMessage 64, .dramRequest { req 0 0 with pa := 2 ^ 41 }, .dramRequest { req 0 0 with nsec := 0 },
    .dramRequest { req 0 0 with nsec := 33 }, .refreshDue 20 0, .refreshDue 0 32, .rowIdleClose 0 0 16, .flushDone 20, .pcflush .host 20 0,
    .fallowRow .host 0 256 0, .fallowBank .host 0 2 0, .marginMeasure 0 0 64 ⟨0, 0⟩, .chmodeWrite .host 0 32 0, .programWrite ⟨0, 20, 0, 0⟩ 0 [],
    .programWrite ⟨0, 0, 0, 0⟩ 512 [], .swathLaunch ⟨0, 0, 32, 0⟩ 0, .operandRead ⟨0, 0, 0, 16⟩ 0, .operandRead ⟨0, 0, 0, 0⟩ 8,
    .broadcastWrite ⟨0, 0, 0, 0⟩ 3 0 [] [], .broadcastRead ⟨0, 0, 0, 0⟩ 0 8]).all (fun c => !c.wf) = true := by decide +kernel
/-- The rest of the checks. -/
theorem test_ill_formed_commands_are_refused_too :
    ([Instr.swathStart 10240, .wr 12 (mgmt 1 []), .ident 11 badPkt, .sramUe 511 196608 2, .cwSoftmax 0 65536, .dmaStart .host 0 4 0, .dmaEnd 0 4,
    .descCreate .host 9 0, .descDestroy .host 0 4096, .alloc .host 9, .publish .host 32, .publishDone 32 false, .svcModeWrite (.uzoid 8) 0,
    .seqStart .host 8 0, .longWordFetch 8 0 false, .asfPush .host 512 0, .semRegisterWrite .host 0 8 0, .arbitrationPhase 0 255 [],
    .arbPrioWrite .host 0 0 2 0, .offenceExpiry 0 0 20, .isolClear .host 8 0 0, .fabricPacket 0 4 true fabPkt.dest fabPkt.toFabLoad, .fabricPacket 0 0 true fabEmpty.dest fabEmpty.toFabLoad, .nak 12 0,
    .vylRetrain .host 24 0, .laneLockLoss 0 8, .syncCounterWrite .host 4096 0, .watchArm .host 8 0, .routeWrite .host (some 64) 0,
    .railReport 0 5 0 0, .faultEntry 0 8]).all (fun c => !c.wf) = true := by decide +kernel
/-- And takes the last value of each range. -/
theorem test_last_values_are_well_formed :
    [Instr.registerWrite (.uzoid 7) (2 ^ 30 - 1) 1 none, .ctrlReset .host ⟨7, 31, 255⟩, .islandUngateDone 511, .msixMessage 63,
      .dramRequest { req 0 (2 ^ 41 - 1) with nsec := 32 }, .rowIdleClose 19 31 15, .fallowRow .host 19 255 0, .marginMeasure 19 31 63 ⟨0, 0⟩,
      .broadcastWrite ⟨0, 19, 31, 15⟩ 2 511 [] [], .swathStart 10239, .wr 23 (mgmt 1 []), .sramUe 511 196607 1, .cwSoftmax 511 65535,
      .descCreate .host 8 4095, .publish .host 31, .arbitrationPhase 7 254 [], .routeWrite .host (some 63) 0,
      .railReport 7 4 0 0].all Instr.wf = true := by decide +kernel

end Sys2Proof.Machine.Tests
end

section
/-! The parity cache (R118 to R121): what logging a decode leaves as it was, what a write-back does to the lines of a channel, and
the statement about parity rows. -/
namespace Sys2Proof.Machine

/-! ## What logging a decode leaves as it was -/

/-- The offsets of the registers that logging a decode may change (R129, R130, R148): ERR_STATUS, ERR_FIRST, ERR_COUNT, EVT_STATUS,
ECC_COUNT, SKYSTAT, LOGSTAT and TRAINWIN, each in its page. -/
def logOffsets : List Nat := [0x20, 0x30, 0x38, 0x40, 0x90, 0xB8, 0xC0, 0xC8]

/-- From one state to the other registers changed at those offsets alone, and no stack took up or ended a change of strength. -/
structure Logged (s t : State) : Prop where
  regs : ∀ k, k % 4096 ∉ logOffsets → t.reg k = s.reg k
  oldStrength : ∀ st, (t.stack st).oldStrength = (s.stack st).oldStrength

theorem Logged.refl (s : State) : Logged s s := ⟨fun _ _ => rfl, fun _ => rfl⟩

theorem Logged.trans {r s t : State} (h : Logged r s) (g : Logged s t) : Logged r t :=
  ⟨fun k hk => (g.regs k hk).trans (h.regs k hk), fun st => (g.oldStrength st).trans (h.oldStrength st)⟩

/-- An operation that touches neither registers nor stacks. -/
theorem Logged.of_kept {P : Parts} {s t : State} (h : Kept P s t) (hr : Nat.land P Parts.regs = 0)
    (hs : Nat.land P Parts.stackTab = 0) : Logged s t := by
  refine ⟨fun k _ => ?_, fun st => ?_⟩
  · unfold State.reg; rw [h.only.regs hr, h.member]
  · unfold State.stack; rw [h.only.stackTab hs]

section
variable {r s : State}

theorem Logged.setReg (h : Logged r s) {k : Nat} {v : W64} (hk : k % 4096 ∈ logOffsets) : Logged r (s.setReg k v) :=
  h.trans ⟨fun _ hj => reg_setReg_ne _ _ _ _ (fun e => hj (e ▸ hk)), fun _ => rfl⟩

theorem Logged.updStack (h : Logged r s) {st : Nat} {f : Stack → Stack} (hf : ∀ x, (f x).oldStrength = x.oldStrength) :
    Logged r (s.updStack st f) := by
  refine h.trans ⟨fun _ _ => rfl, fun j => ?_⟩
  by_cases e : j = st
  · subst e; rw [updStack_stack_same, hf]
  · rw [updStack_stack_ne _ _ _ _ e]

theorem Logged.ite {a b : State} {c : Prop} [Decidable c] (ha : Logged r a) (hb : Logged r b) : Logged r (if c then a else b) := by
  split <;> assumption

theorem Logged.forEach {α : Type} {f : State → α → State} {l : List α} (h : Logged r s) (hf : ∀ s x, Logged r s → Logged r (f s x)) :
    Logged r (forEach s l f) := by
  induction l generalizing s with
  | nil => exact h
  | cons x l ih => exact ih (hf s x h)

/-- A register of a page at one of the offsets is written. -/
theorem Logged.setPageReg (h : Logged r s) {d b i o : Nat} {v : W64} (ho : o < 4096 ∧ o ∈ logOffsets) :
    Logged r (s.setReg (pg d b i + o) v) := h.setReg (by rw [pg_mod _ _ _ _ ho.1]; exact ho.2)

theorem Logged.event (h : Logged r s) {d b i n : Nat} : Logged r (event s (pg d b i) n) := h.setPageReg (by decide)

/-- A field of a register at one of the offsets is set. -/
theorem Logged.setF (h : Logged r s) {d b i x : Nat} {f : RegF} (hf : f.off < 4096 ∧ f.off ∈ logOffsets) :
    Logged r (setF s (pg d b i) f x) := by
  have e : f.at (pg d b i) 0 = pg d b i + f.off := by simp [RegF.at]
  unfold Machine.setF
  rw [e]
  exact h.setPageReg hf

theorem Logged.bumpF (h : Logged r s) {d b i : Nat} {f : RegF} (hf : f.off < 4096 ∧ f.off ∈ logOffsets) :
    Logged r (bumpF s (pg d b i) f) := h.setF hf

theorem Logged.wrapF (h : Logged r s) {d b i : Nat} {f : RegF} (hf : f.off < 4096 ∧ f.off ∈ logOffsets) :
    Logged r (wrapF s (pg d b i) f) := h.setF hf

theorem Logged.recordErr (h : Logged r s) {d b i code tag : Nat} : Logged r (recordErr s (pg d b i) code tag) := by
  have counted : Logged r (Machine.bumpF (s.setReg (pg d b i + 0x20) (setBit (s.reg (pg d b i + 0x20)) (code % 256 % 64))) (pg d b i)
      F.HDR_ERR_COUNT_ERRORS) := (h.setPageReg (by decide)).bumpF (by decide)
  exact .ite (counted.setPageReg (by decide)) counted

theorem Logged.cxlEvent (h : Logged r s) {kind arg : Nat} {corrected : Bool} : Logged r (cxlEvent s kind arg corrected) :=
  h.trans (.of_kept (kept_cxlEvent s kind arg corrected (.refl 0x800000008 s) rfl) rfl rfl)

/-- A training window is requested (R149). -/
theorem Logged.requestWindow (h : Logged r s) {st ch : Nat} : Logged r (requestWindow s st ch) :=
  .ite h (.bumpF (.event (.setF h (by decide))) (by decide))

/-- A correction is counted on its wire (R148). -/
theorem Logged.laneCe (h : Logged r s) {st ch w : Nat} : Logged r (laneCe s st ch w) := by
  unfold Machine.laneCe
  extract_lets counted mx told
  have hc : Logged r counted := h.updStack (fun _ => rfl)
  exact .ite (.ite (.requestWindow (.event hc)) (.event hc)) hc

/-- A record joins the error log (R129). -/
theorem Logged.logRec (h : Logged r s) {p : RowId} {kind mode src mask lanes corr : Nat} :
    Logged r (logRec s p kind mode src mask lanes corr) := by
  unfold Machine.logRec
  extract_lets e n w0 w1 w3 full filed numbered
  have hf : Logged r filed := h.updStack (fun _ => rfl)
  have hn : Logged r numbered := hf.wrapF (by decide)
  exact .ite (.event (.bumpF hn (by decide))) hn

/-- A corrected decode is logged (R130). -/
theorem Logged.logCe (h : Logged r s) {p : RowId} {kind mode src mask : Nat} {wires : List Nat} {corr : Nat} :
    Logged r (logCe s p kind mode src mask wires corr) := by
  unfold Machine.logCe
  extract_lets e filed counted seen hi told
  have hs : Logged r seen := .event (.bumpF h.logRec (by decide))
  exact .forEach (.ite (.cxlEvent (.event hs)) hs) (fun _ _ h => h.laneCe)

/-- A failed decode is logged (R130). -/
theorem Logged.logUe (h : Logged r s) {p : RowId} {kind mode src mask : Nat} : Logged r (logUe s p kind mode src mask) :=
  .cxlEvent (.recordErr (.event (.bumpF h.logRec (by decide))))

theorem Logged.queueRebuild (h : Logged r s) {p : RowId} : Logged r (queueRebuild s p) := h.updStack (fun _ => rfl)

/-- A parity row is decoded (R107, R112). -/
theorem Logged.decodeParity (h : Logged r s) {p : RowId} {src : Nat} : Logged r (decodeParity s p src).2 := by
  unfold Machine.decodeParity
  dsimp only
  split
  · exact h.logUe.queueRebuild
  · split
    · exact h.logUe.queueRebuild
    · exact .logCe ((h.trans (.of_kept (kept_addRowBits s p _ (.refl 0x400 s) rfl) rfl rfl)).trans
        (.of_kept (kept_keepParity _ p _ (.refl 0xC00 _) rfl) rfl rfl))

end

/-! ## A write-back in its stages (R118, R120) -/

/-- The parity row that holds a line's slot. -/
def lineParity (s : State) (st ch : Nat) (l : Line) : RowId := ⟨st, ch, l.bank, parityRow (strength s st) l.row⟩

/-- The lines that go with a line: in memory mode every dirty line of its parity row. -/
def takenLines (s : State) (st ch : Nat) (l : Line) : List Line :=
  if chState s st ch = 0 then
    (s.chan st ch).lines.filter (fun x => x.bank = l.bank && parityRow (strength s st) x.row = parityRow (strength s st) l.row)
  else [l]

/-- A sector of the spare slot of a parity row fails its check. -/
def spareBad (s : State) (p : RowId) : Bool :=
  (rowFlips s p).any (fun q => 32 - slotSectors (strength s p.st) ≤ q.1 && secClass s (p.sec + q.1) = 2)

/-- The spare slot of a parity row is read: the row is decoded where the slot fails its check. -/
def readSpare (s : State) (p : RowId) : State :=
  if spareBad s p && !(s.stack p.st).lost.contains (p.ch, p.bank, p.row) then (decodeParity s p 0xF000).2 else s

/-- Lines leave the cache of a channel, and the bank column's row is closed. -/
def dropLines (s : State) (p : RowId) (taken : List Line) : State :=
  (s.updBank p.st p.ch p.bank (fun b => { b with openRow := none })).updChan p.st p.ch
    (fun c => { c with lines := c.lines.filter (fun x => !taken.contains x) })

/-- The slots of lines and the spare slot are written into their parity row, at a strength. -/
def writeSlots (s : State) (p : RowId) (k : Nat) (taken : List Line) : State :=
  let ss := slotSectors k
  let clear (s : State) (f : Nat) : State := forEach s (List.range ss) (fun s i => s.clrFlips (p.sec + f + i))
  let s := clear (forEach s taken (fun s x => clear s ((slotOf k x.row).2 * ss))) (32 - ss)
  charge (charge s (pgDctl s.member p.st p.ch) 7 1) (pgDctl s.member p.st p.ch) 6 (2 * (taken.length + 1) * ss)

/-- A write-back reads the spare slot, takes the lines out of the cache and writes their slots. -/
theorem writeback_eq (s : State) (st ch : Nat) (l : Line) :
    writeback s st ch l = writeSlots (dropLines (readSpare s (lineParity s st ch l)) (lineParity s st ch l) (takenLines s st ch l))
      (lineParity s st ch l) (strength s st) (takenLines s st ch l) := rfl

theorem kept_readSpare {P : Parts} {s0 s : State} (p : RowId) (h : Kept P s0 s) (hp : Sub 0x800002c09 P) : Kept P s0 (readSpare s p) :=
  kept_ite (kept_decodeParity _ _ _ h hp) h

theorem kept_dropLines {P : Parts} {s0 s : State} (p : RowId) (taken : List Line) (h : Kept P s0 s) (hp : Sub 0x1000 P) :
    Kept P s0 (dropLines s p taken) := kept_updChan _ _ _ _ (kept_updBank _ _ _ _ _ h hp) hp

theorem kept_writeSlots {P : Parts} {s0 s : State} (p : RowId) (k : Nat) (taken : List Line) (h : Kept P s0 s)
    (hp : Sub 0x4000000400 P) : Kept P s0 (writeSlots s p k taken) := by
  have clear (s : State) (f : Nat) (h : Kept P s0 s) :
      Kept P s0 (forEach s (List.range (slotSectors k)) (fun s i => s.clrFlips (p.sec + f + i))) :=
    kept_forEach _ _ _ (fun _ _ h => kept_clrFlips _ _ h (hp.le rfl)) h
  exact kept_charge _ _ _ _ (kept_charge _ _ _ _ (clear _ _ (kept_forEach _ _ _ (fun _ _ h => clear _ _ h) h)) (hp.le rfl)) (hp.le rfl)

/-- A write-back touches neither other registers than logging does nor a change of strength. -/
theorem Logged.writeback {r s : State} (h : Logged r s) {st ch : Nat} {l : Line} : Logged r (writeback s st ch l) := by
  rw [writeback_eq]
  have read : Logged r (readSpare s (lineParity s st ch l)) := .ite h.decodeParity h
  exact (read.trans (.of_kept (kept_dropLines _ _ (.refl 0x1000 _) rfl) rfl rfl)).trans
    (.of_kept (kept_writeSlots _ _ _ (.refl 0x4000000400 _) rfl) rfl rfl)

/-- What a write-back leaves of the channels: the cache without the lines taken, and the bank column's row closed. -/
theorem writeback_chans (s : State) (st ch : Nat) (l : Line) :
    (writeback s st ch l).chans = (dropLines s (lineParity s st ch l) (takenLines s st ch l)).chans := by
  have read : (readSpare s (lineParity s st ch l)).chans = s.chans :=
    (kept_readSpare (lineParity s st ch l) (.refl 0x800002c09 s) rfl).only.chans rfl
  rw [writeback_eq, (kept_writeSlots _ _ _ (.refl 0x4000000400 _) rfl).only.chans rfl]
  simp only [dropLines, State.updBank, State.updChan, read]

theorem writeback_chan (s : State) (st ch : Nat) (l : Line) :
    (writeback s st ch l).chan st ch = { (s.chan st ch).updBank l.bank (fun b => { b with openRow := none }) with
      lines := (s.chan st ch).lines.filter (fun x => !(takenLines s st ch l).contains x) } := by
  have e : (writeback s st ch l).chan st ch = (dropLines s (lineParity s st ch l) (takenLines s st ch l)).chan st ch := by
    unfold State.chan; rw [writeback_chans]
  rw [e, dropLines, lineParity, updChan_chan_same, State.updBank, updChan_chan_same]
  rfl

theorem writeback_keepsChansBut (s : State) (st ch : Nat) (l : Line) : keepsChansBut st ch s (writeback s st ch l) := by
  intro x y hxy
  have e : (writeback s st ch l).chan x y = (dropLines s (lineParity s st ch l) (takenLines s st ch l)).chan x y := by
    unfold State.chan; rw [writeback_chans]
  rw [e, dropLines, lineParity, updChan_chan_ne _ _ _ _ _ _ hxy, State.updBank, updChan_chan_ne _ _ _ _ _ _ hxy]

theorem writeback_lines (s : State) (st ch : Nat) (l : Line) :
    ((writeback s st ch l).chan st ch).lines = (s.chan st ch).lines.filter (fun x => !(takenLines s st ch l).contains x) := by
  rw [writeback_chan]

/-- In memory mode the lines of the parity row leave (R118). -/
theorem writeback_lines_memory (s : State) (st ch : Nat) (l : Line) (h : chState s st ch = 0) :
    ((writeback s st ch l).chan st ch).lines = (s.chan st ch).lines.filter
      (fun x => !(x.bank = l.bank && parityRow (strength s st) x.row = parityRow (strength s st) l.row)) := by
  rw [writeback_lines, takenLines, if_pos h]
  refine List.filter_congr (fun x hx => ?_)
  simp [hx]

/-- Out of memory mode the line alone leaves (R120). -/
theorem writeback_lines_processor (s : State) (st ch : Nat) (l : Line) (h : chState s st ch ≠ 0) :
    ((writeback s st ch l).chan st ch).lines = (s.chan st ch).lines.filter (· ≠ l) := by
  rw [writeback_lines, takenLines, if_neg h]
  refine List.filter_congr (fun x _ => ?_)
  simp

/-- The line that is written back is no longer dirty. -/
theorem writeback_drops (s : State) (st ch : Nat) (l : Line) : l ∉ ((writeback s st ch l).chan st ch).lines := by
  by_cases h : chState s st ch = 0
  · simp [writeback_lines_memory s st ch l h]
  · simp [writeback_lines_processor s st ch l h]

/-- A write-back makes no line dirty. -/
theorem writeback_lines_subset (s : State) (st ch : Nat) (l : Line) (x y : Nat) :
    ((writeback s st ch l).chan x y).lines ⊆ (s.chan x y).lines := by
  by_cases h : x * 32 + y = st * 32 + ch
  · have e (t : State) : t.chan x y = t.chan st ch := by unfold State.chan; rw [h]
    rw [e, e, writeback_lines]
    exact List.filter_sublist.subset
  · rw [writeback_keepsChansBut s st ch l x y h]
    exact List.Subset.refl _

/-! ### A spare slot without media errors -/

/-- A sector without a media error passes its check (R105). -/
theorem secClass_sound (s : State) (k : Nat) (h : tget [] s.flips k = []) : secClass s k ≠ 2 := by
  have e : syndrome [] = 0 := by decide +kernel
  unfold secClass
  simp only [h, e]
  split <;> simp

/-- The spare slot of a parity row without media errors is read without a decode. -/
theorem readSpare_sound (s : State) (p : RowId) (h : ∀ k, k < 32 → tget [] s.flips (p.sec + k) = []) : readSpare s p = s := by
  have good : spareBad s p = false := by
    unfold spareBad rowFlips
    simp only [List.any_eq_false, List.mem_map, Bool.and_eq_true, decide_eq_true_eq, not_and]
    rintro _ ⟨q, -, rfl⟩ -
    exact secClass_sound s _ (h _ (Nat.mod_lt _ (by decide)))
  simp [readSpare, good]

/-- A write-back whose parity row holds no media error touches the parity row, the cache and the energy account alone. -/
theorem only_writeback_sound (s : State) (st ch : Nat) (l : Line)
    (h : ∀ k, k < 32 → tget [] s.flips (paOf st (parityRow (strength s st) l.row) ch l.bank / 64 + k) = []) :
    Only (Parts.flips ||| Parts.chans ||| Parts.ledger) s (writeback s st ch l) := by
  rw [writeback_eq, readSpare_sound s (lineParity s st ch l) h]
  exact (kept_writeSlots _ _ _ (kept_dropLines _ _ (.refl (Parts.flips ||| Parts.chans ||| Parts.ledger) s) rfl) rfl).only

/-! ## Idle channels and flushes (R118, R121) -/

/-- What every round of a loop keeps, the loop keeps. -/
theorem forEach_keeps {α : Type} {f : State → α → State} (I : State → Prop) (hI : ∀ s x, I s → I (f s x)) (l : List α) (s : State)
    (h : I s) : I (forEach s l f) := by
  induction l generalizing s with
  | nil => exact h
  | cons x l ih => exact ih _ (hI s x h)

/-- A loop whose rounds each take their line out of a cache, and put none in, leaves none of its lines there. -/
theorem forEach_drops {st ch : Nat} {f : State → Line → State} (I : State → Prop) (hI : ∀ s x, I s → I (f s x))
    (hsub : ∀ s x, ((f s x).chan st ch).lines ⊆ (s.chan st ch).lines) (hdrop : ∀ s x, I s → x ∉ ((f s x).chan st ch).lines)
    (l : List Line) (s : State) (h : I s) : ∀ y ∈ ((forEach s l f).chan st ch).lines, y ∈ (s.chan st ch).lines ∧ y ∉ l := by
  induction l generalizing s with
  | nil => exact fun y hy => ⟨hy, List.not_mem_nil⟩
  | cons x l ih =>
    intro y hy
    obtain ⟨hy, hl⟩ := ih (f s x) (hI s x h) y hy
    refine ⟨hsub s x hy, fun hm => ?_⟩
    rcases List.mem_cons.1 hm with rfl | hm
    · exact hdrop s y h hy
    · exact hl hm

/-- A loop over all dirty lines whose rounds each take theirs out empties the cache. -/
theorem forEach_empties {st ch : Nat} {f : State → Line → State} (I : State → Prop) (hI : ∀ s x, I s → I (f s x))
    (hsub : ∀ s x, ((f s x).chan st ch).lines ⊆ (s.chan st ch).lines) (hdrop : ∀ s x, I s → x ∉ ((f s x).chan st ch).lines)
    (s : State) (h : I s) : ((forEach s (s.chan st ch).lines f).chan st ch).lines = [] :=
  List.eq_nil_iff_forall_not_mem.2 (fun y hy => let ⟨hin, hout⟩ := forEach_drops I hI hsub hdrop _ s h y hy; hout hin)

/-- A field of a register that logging leaves alone reads as before. -/
theorem Logged.getF_eq {s t : State} (h : Logged s t) (d b i : Nat) (f : RegF) (hf : f.off < 4096 ∧ f.off ∉ logOffsets) :
    getF t (pg d b i) f = getF s (pg d b i) f := by
  have e : f.at (pg d b i) 0 = pg d b i + f.off := by simp [RegF.at]
  unfold getF
  rw [e, h.regs _ (by rw [pg_mod _ _ _ _ hf.1]; exact hf.2)]

/-- A change of a bank column that leaves the request its decode serves leaves that of every bank column. -/
theorem updBank_corr (c : Channel) (a b : Nat) (f : Bank → Bank) (hf : ∀ x, (f x).corr = x.corr) :
    ((c.updBank a f).bank b).corr = (c.bank b).corr := by
  unfold Channel.updBank Channel.bank
  by_cases e : b = a
  · subst e; rw [tget_tupd_same, hf]
  · rw [tget_tupd_ne _ _ _ _ _ _ e]

/-- Whether the controller may write a line back does not depend on the lines written back before it. -/
theorem mayWriteback_writeback (s : State) (st ch : Nat) (l : Line) (b : Nat) :
    mayWriteback (writeback s st ch l) st ch b = mayWriteback s st ch b := by
  have kept := kept_writeback s st ch l (.refl 0x4800003c09 s) rfl
  have log : Logged s (writeback s st ch l) := Logged.writeback (.refl s)
  have mode : chState (writeback s st ch l) st ch = chState s st ch := by
    unfold chState; rw [kept.member]; exact log.getF_eq _ _ _ _ (by decide)
  have burst : bursting (writeback s st ch l) st ch = bursting s st ch := by
    unfold bursting; rw [kept.member]; exact congrArg (decide <| · = 1) (log.getF_eq _ _ _ F.DCTL_REFSTAT_BURSTING (by decide))
  have corr : (((writeback s st ch l).chan st ch).bank b).corr = ((s.chan st ch).bank b).corr := by
    rw [writeback_chan]
    exact updBank_corr (s.chan st ch) l.bank b (fun b => { b with openRow := none }) (fun _ => rfl)
  have unit (u : Nat) : (writeback s st ch l).unit u = s.unit u := by unfold State.unit; rw [kept.only.units rfl]
  simp only [mayWriteback, mode, burst, corr, unit]

/-- An idle channel whose bank columns are all free writes all its lines back (R118). -/
theorem idleWriteback_lines (s : State) (st ch : Nat) (hq : queued s st ch = 0) (hw : ∀ b, mayWriteback s st ch b = true) :
    ((idleWriteback s st ch).chan st ch).lines = [] := by
  unfold idleWriteback
  rw [if_neg (by simpa using hq)]
  refine forEach_empties (fun s => ∀ b, mayWriteback s st ch b = true) (fun s x h => ?_) (fun s x => ?_) (fun s x h => ?_) s hw
  · split
    · exact fun b => (mayWriteback_writeback s st ch x b).trans (h b)
    · exact h
  · split
    · exact writeback_lines_subset s st ch x st ch
    · exact List.Subset.refl _
  · split
    · exact writeback_drops s st ch x
    · next hx => simpa [h] using hx

theorem idleWriteback_keepsChansBut (s : State) (st ch : Nat) : keepsChansBut st ch s (idleWriteback s st ch) := by
  unfold idleWriteback
  split
  · exact fun _ _ _ => rfl
  · refine forEach_keeps (fun t => keepsChansBut st ch s t) (fun t x h => ?_) _ s (fun _ _ _ => rfl)
    split
    · exact fun a b hab => (writeback_keepsChansBut t st ch x a b hab).trans (h a b hab)
    · exact h

/-- Every dirty line of a channel is written back, those that have gone with an earlier one apart (R121). -/
def flushChannel (s : State) (st ch : Nat) : State :=
  forEach s (s.chan st ch).lines (fun s l => if (s.chan st ch).lines.contains l then writeback s st ch l else s)

theorem flushStack_eq (s : State) (st : Nat) : flushStack s st = forEach s (List.range 32) (fun s ch => flushChannel s st ch) := rfl

theorem flushChannel_lines (s : State) (st ch : Nat) : ((flushChannel s st ch).chan st ch).lines = [] := by
  refine forEach_empties (fun _ => True) (fun _ _ _ => trivial) (fun s x => ?_) (fun s x _ => ?_) s trivial
  · split
    · exact writeback_lines_subset s st ch x st ch
    · exact List.Subset.refl _
  · split
    · exact writeback_drops s st ch x
    · next hx => simpa using hx

theorem flushChannel_lines_subset (s : State) (st ch x y : Nat) :
    ((flushChannel s st ch).chan x y).lines ⊆ (s.chan x y).lines := by
  refine forEach_keeps (fun t => (t.chan x y).lines ⊆ (s.chan x y).lines) (fun t l h => ?_) _ s (List.Subset.refl _)
  split
  · exact List.Subset.trans (writeback_lines_subset t st ch l x y) h
  · exact h

/-- A flush leaves no channel of the stack a dirty line (R121). -/
theorem flushStack_lines (s : State) (st ch : Nat) (h : ch < 32) : ((flushStack s st).chan st ch).lines = [] := by
  have round (l : List Nat) (s : State) (hc : ch ∈ l) : ((forEach s l (fun s ch => flushChannel s st ch)).chan st ch).lines = [] := by
    induction l generalizing s with
    | nil => cases hc
    | cons a l ih =>
      rcases List.mem_cons.1 hc with rfl | hc
      · refine List.subset_nil.1 (forEach_keeps (fun t => (t.chan st ch).lines ⊆ []) (fun t c ht => ?_) l (flushChannel s st ch) ?_)
        · exact List.Subset.trans (flushChannel_lines_subset t st c st ch) ht
        · rw [flushChannel_lines]; exact List.Subset.refl _
      · exact ih _ hc
  rw [flushStack_eq]
  exact round _ s (List.mem_range.2 h)

theorem logged_flushStack (s : State) (st : Nat) : Logged s (flushStack s st) :=
  .forEach (.refl s) (fun _ _ h => .forEach h (fun _ _ h => .ite h.writeback h))

/-- The end of a flush that no change of strength waits for: every line is written back, and FLUSHING reads 0 (R121). -/
theorem endFlush_eq (s : State) (st : Nat) (hf : getF s (pgEcc s.member st) F.ECC_PCSTAT_FLUSHING = 1)
    (ho : (s.stack st).oldStrength = none) :
    endFlush s st = setB (flushStack s st) (pgEcc s.member st) F.ECC_PCSTAT_FLUSHING false := by
  have running : flushing s st = true := decide_eq_true hf
  have old : ((flushStack s st).stack st).oldStrength = none := ((logged_flushStack s st).oldStrength st).trans ho
  simp [endFlush, running, reencode, old]

/-! ## Rebuilds (R112) -/

/-- A row that a parity row covers is read for its rebuild: its failing sectors are kept as poisoned and logged. -/
def keepCovered (s : State) (r : RowId) : State :=
  let mask := failMask s r
  let s := forEach s (rowFlips s r) (fun s q => bakeSector s (r.sec + q.1))
  let s := { s with slotErrs := tset [] s.slotErrs (r.pa / 2048) [] }
  if mask = 0 then s else logUe s r 3 0 0xF000 mask

/-- A rebuilt parity row: its lines and media errors are gone, it waits no longer, and the rows read are charged. -/
def parityRenewed (s : State) (p : RowId) (k : Nat) (rest : List (Nat × Nat × Nat)) : State :=
  let s := s.updChan p.st p.ch (fun c => { c with lines := c.lines.filter (fun x => !(x.bank = p.bank && parityRow k x.row = p.row)) })
  let s := { s with flips := tclr s.flips p.sec 32 }
  let s := s.updStack p.st (fun x => { x with rebuild := rest, lost := x.lost.filter (· ≠ (p.ch, p.bank, p.row)) })
  let s := charge s (pgDctl s.member p.st p.ch) 7 (holeRow k / (65536 - holeRow k) + 1)
  charge s (pgDctl s.member p.st p.ch) 6 (32 * (holeRow k / (65536 - holeRow k) + 1))

theorem parityRenewed_reg (s : State) (p : RowId) (k : Nat) (rest : List (Nat × Nat × Nat)) (j : Nat) :
    (parityRenewed s p k rest).reg j = s.reg j := by
  simp only [parityRenewed, charge_reg, updStack_reg]
  rfl

/-- The oldest queued rebuild of an open stack completes where its bank column is free and in memory mode. -/
theorem rebuildOne_eq (s : State) (st ch b row : Nat) (l : List (Nat × Nat × Nat)) (hq : (s.stack st).rebuild = (ch, b, row) :: l)
    (hm : chState s st ch = 0) (ho : stackOpen s st = true) (hb : bursting s st ch = false)
    (hc : ((s.chan st ch).bank b).corr = none) :
    rebuildOne s st = bumpF (event (parityRenewed (forEach s (coveredRows s ⟨st, ch, b, row⟩) keepCovered) ⟨st, ch, b, row⟩
      (strength s st) l) (pgEcc s.member st) 3) (pgEcc s.member st) F.ECC_REBUILD_DONE := by
  unfold rebuildOne
  rw [hq]
  simp only [hm, ho, hb, hc]
  rfl

theorem Logged.keepCovered {r s : State} (h : Logged r s) {p : RowId} : Logged r (keepCovered s p) := by
  have baked : Kept 0x800000700 s (Machine.forEach s (rowFlips s p) (fun s q => bakeSector s (p.sec + q.1))) :=
    kept_forEach _ _ _ (fun _ _ h => kept_bakeSector _ _ h rfl) (.refl _ s)
  have slot (t : State) : Logged t { t with slotErrs := tset [] t.slotErrs (p.pa / 2048) [] } := ⟨fun _ _ => rfl, fun _ => rfl⟩
  have kept := (h.trans (.of_kept baked rfl rfl)).trans (slot _)
  exact .ite kept kept.logUe

/-- PARITY_REBUILD_DONE in full: what a completed rebuild leaves of the queue, of its count and of the parity row. -/
theorem rebuildOne_done (s : State) (st ch b row : Nat) (l : List (Nat × Nat × Nat)) (hq : (s.stack st).rebuild = (ch, b, row) :: l)
    (hm : chState s st ch = 0) (ho : stackOpen s st = true) (hb : bursting s st ch = false)
    (hc : ((s.chan st ch).bank b).corr = none) :
    ((rebuildOne s st).stack st).rebuild = l
    ∧ getF (rebuildOne s st) (pgEcc s.member st) F.ECC_REBUILD_DONE
      = min (getF s (pgEcc s.member st) F.ECC_REBUILD_DONE + 1) (2 ^ 32 - 1)
    ∧ hasEvent (rebuildOne s st) (pgEcc s.member st) 3 = true
    ∧ ∀ k, paOf st row ch b / 64 ≤ k → k < paOf st row ch b / 64 + 32 → tget [] (rebuildOne s st).flips k = [] := by
  rw [rebuildOne_eq s st ch b row l hq hm ho hb hc]
  have log : Logged s (forEach s (coveredRows s ⟨st, ch, b, row⟩) keepCovered) := .forEach (.refl s) (fun _ _ h => h.keepCovered)
  generalize forEach s (coveredRows s ⟨st, ch, b, row⟩) keepCovered = u at log
  refine ⟨?_, ?_, ?_, fun k h1 h2 => ?_⟩
  · simp [parityRenewed]
  · rw [getF_bumpF_same _ _ _ _ _ (by decide)]
    have done : getF u (pgEcc s.member st) F.ECC_REBUILD_DONE = getF s (pgEcc s.member st) F.ECC_REBUILD_DONE :=
      log.getF_eq _ _ _ _ (by decide)
    have renewed : getF (parityRenewed u ⟨st, ch, b, row⟩ (strength s st) l) (pgEcc s.member st) F.ECC_REBUILD_DONE
        = getF u (pgEcc s.member st) F.ECC_REBUILD_DONE := by
      unfold getF; rw [parityRenewed_reg]
    rw [event, getF_setReg_ne _ _ _ _ _ _ (by simp [RegF.at, F.ECC_REBUILD_DONE]), renewed, done, F.ECC_REBUILD_DONE]
  · have kept (t : State) : hasEvent (bumpF t (pgEcc s.member st) F.ECC_REBUILD_DONE) (pgEcc s.member st) 3
        = hasEvent t (pgEcc s.member st) 3 :=
      congrArg (bitOf · 3) (reg_setF_ne _ _ _ _ _ _ (by simp [RegF.at, F.ECC_REBUILD_DONE]))
    rw [kept, hasEvent_event _ _ _ (by decide)]
  · exact tget_tclr_in [] u.flips _ 32 k h1 h2

/-! ## The statement -/

theorem exec_parityWriteback (st ch n : Nat) (s : State) :
    exec (.parityWriteback st ch n) s = execParityWriteback st ch n s := rfl

theorem exec_parityIdleTimeout (st ch : Nat) (s : State) : exec (.parityIdleTimeout st ch) s = execParityIdleTimeout st ch s := rfl

theorem exec_pcflush (w : Writer) (st : Nat) (v : W64) (s : State) : exec (.pcflush w st v) s = execPcflush w st v s := rfl

theorem exec_flushDone (st : Nat) (s : State) : exec (.flushDone st) s = execFlushDone st s := rfl

theorem exec_parityRebuildDone (st : Nat) (s : State) : exec (.parityRebuildDone st) s = execParityRebuildDone st s := rfl

/-- Settles O12: a write-back takes its lines out of the cache whatever the decode of its spare slot does, so idle channels and flushes
empty theirs line by line; a rebuild clears its parity row after the rows that it covers are logged. -/
theorem parityRows : Obligations.ParityRows := by
  unfold Obligations.ParityRows
  refine ⟨fun w st ch n l v s hch => ?_, fun st ch b row l s hst hq hm ho hb hc => ?_⟩
  · have hst : hasStack s st = true := by
      simp only [hasCh, hasStack, Bool.and_eq_true] at hch ⊢
      exact hch.1
    refine ⟨fun hl hw => ?_, fun hq hw => ?_, fun hv => ?_, fun hf ho => ?_⟩
    · refine ⟨writeback s st ch l, ?_, writeback_lines_memory s st ch l, writeback_lines_processor s st ch l,
        writeback_keepsChansBut s st ch l, (kept_writeback s st ch l (.refl 0x4800003c09 s) rfl).only, only_writeback_sound s st ch l⟩
      simp [exec_parityWriteback, execParityWriteback, onObj, hch, hl, hw]
    · refine ⟨idleWriteback s st ch, ?_, idleWriteback_lines s st ch hq hw, idleWriteback_keepsChansBut s st ch,
        (kept_idleWriteback s st ch (.refl 0x4800003c09 s) rfl).only⟩
      simp [exec_parityIdleTimeout, execParityIdleTimeout, onObj, hch]
    · refine ⟨startFlush s st, ?_, (getF_setB_same _ _ _ _ _ (by decide) (by decide)).trans rfl, rfl,
        fun k hk => reg_setB_ne _ _ _ _ _ _ (by simpa [RegF.at, F.ECC_PCSTAT_FLUSHING] using hk)⟩
      simp [exec_pcflush, execPcflush, onPage, hst, hv]
    · refine ⟨endFlush s st, ?_, ?_, ?_, ?_⟩
      · simp [exec_flushDone, execFlushDone, onObj, hst]
      all_goals rw [endFlush_eq s st hf ho]
      · rw [getF_setB_same _ _ _ _ _ (by decide) (by decide)]; rfl
      · simpa only [setB_chan] using flushStack_lines s st
      · exact (kept_setB _ _ _ _ _ (kept_flushStack s st (.refl 0x4800003c09 s) rfl) rfl).only
  · refine ⟨rebuildOne s st, ?_, rebuildOne_done s st ch b row l hq hm ho hb hc⟩
    simp [exec_parityRebuildDone, execParityRebuildDone, onObj, hst]

end Sys2Proof.Machine
end

section
/-! Checkpoint fences (R488): whether the part has drained does not depend on the fence's own registers where every WAIT names one of
the 32 semaphores of its tile (R345); the statement asks nothing of the kind, and fails. -/
namespace Sys2Proof.Machine

/-! ## What the drain looks at -/

/-- Every WAIT of an engine names one of the 32 semaphores of its tile (R345). -/
def waitsNamed (s : State) : Prop := ∀ k e sem n, ((s.tile k).stream e).wait = some (sem, n) → sem < 32

/-- From one state to the other nothing changed that the drain of the part looks at: the registers of the fence (FSTAT and FLT_FENCE of
die 0, R489) and what holds the lead's fetch may have. -/
structure FenceOnly (s t : State) : Prop where
  member : t.member = s.member
  tiles : t.tiles = s.tiles
  disabled : t.disabled = s.disabled
  us : t.us = s.us
  egress : t.egress = s.egress
  outReqs : t.outReqs = s.outReqs
  halted : halted t = halted s
  regs : ∀ k, k ≠ pgFlt 0 + 0x80 → k ≠ pgFlt 0 + 0x90 → t.reg k = s.reg k
  fifo : ∀ d, (t.seq d).fifo = (s.seq d).fifo
  switchTo : ∀ d, (t.seq d).switchTo = (s.seq d).switchTo

namespace FenceOnly
variable {s t : State} (h : FenceOnly s t)
include h

theorem tile (k : Nat) : t.tile k = s.tile k := by unfold State.tile; rw [h.tiles]

/-- A register of a page below block 0x18 of any die. -/
theorem pageReg (d b i o : Nat) (hb : b < 0x18) (hi : i < 256) (ho : o < 4096) : t.reg (pg d b i + o) = s.reg (pg d b i + o) := by
  refine h.regs _ ?_ ?_ <;> simp only [pgFlt, pg, Nat.reducePow] <;> omega

theorem pageF (d b i : Nat) (f : RegF) (j : Nat) (hb : b < 0x18) (hi : i < 256) (ho : f.off + j * f.str < 4096) :
    getF t (pg d b i) f j = getF s (pg d b i) f j := by
  unfold getF RegF.at
  rw [Nat.add_assoc, h.pageReg d b i _ hb hi ho]

theorem seqF (d : Nat) (f : RegF) (ho : f.off < 4096) : getF t (pgSeq d) f = getF s (pgSeq d) f :=
  h.pageF d 0x02 0 f 0 (by decide) (by decide) (by simpa using ho)

theorem feeder_eq (d : Nat) : feeder t d = feeder s d := by
  unfold feeder dieMode
  rw [h.seqF d F.SEQ_CFG_MODE (by decide)]

theorem tileRuns_eq (k : Nat) : tileRuns t k = tileRuns s k := by
  have freeze : getF t (pgTile k) F.HDR_CTRL_FREEZE = getF s (pgTile k) F.HDR_CTRL_FREEZE :=
    h.pageF _ 0x03 _ _ 0 (by decide) (by omega) (by decide)
  unfold tileRuns tileOff
  rw [h.tile, h.halted, h.disabled, freeze]

theorem nextSlot_eq (k : Nat) (e : Eng) : nextSlot t k e = nextSlot s k e := by
  unfold nextSlot
  rw [h.tile, h.tileRuns_eq]

theorem nextCall_eq (k : Nat) : nextCall t k = nextCall s k := by
  unfold nextCall
  rw [h.tile, h.tileRuns_eq]

theorem alignReady_eq (k : Nat) : alignReady t k = alignReady s k := by
  unfold alignReady phase
  rw [h.tile, h.feeder_eq, h.seqF _ F.SEQ_STAT_PHASE (by decide), h.switchTo]

theorem chSt_eq (k c : Nat) (hc : c < 4) : chSt t k c = chSt s k c :=
  h.pageF _ 0x05 _ F.DMA_CH_STAT_STATE c (by decide) (by omega) (by simp only [F.DMA_CH_STAT_STATE]; omega)

theorem quiet_eq (d : Nat) (x : Stream) : quiet t d x = quiet s d x := by
  unfold quiet
  rw [h.us, h.seqF d F.SEQ_QUIET_TC (by decide)]

/-- A semaphore of the tile reads as before; one past the 32 need not (`semVal_strayLane`). -/
theorem semVal_eq (k sem : Nat) (hs : sem < 32) : semVal t k sem = semVal s k sem := by
  unfold semVal pgTile
  rw [Nat.add_assoc, h.pageReg _ 0x03 _ _ (by decide) (by omega) (by omega)]

theorem waitOver_eq (hw : waitsNamed s) (k : Nat) (e : Eng) :
    waitOver t k ((s.tile k).stream e) = waitOver s k ((s.tile k).stream e) := by
  unfold waitOver
  split
  · next sem n hx => rw [h.tileRuns_eq, h.semVal_eq k sem (hw k e sem n hx)]
  · rfl

theorem drainedTile_eq (hw : waitsNamed s) (k : Nat) : drainedTile t k = drainedTile s k := by
  have channels : (List.range 4).all (fun c => decide (chSt t k c = 0)) = (List.range 4).all (fun c => decide (chSt s k c = 0)) := by
    rw [Bool.eq_iff_iff]
    simp only [List.all_eq_true, List.mem_range]
    exact forall₂_congr (fun c hc => by rw [h.chSt_eq k c hc])
  unfold drainedTile
  simp only [h.tile, h.nextCall_eq, channels, h.tileRuns_eq, h.alignReady_eq, h.nextSlot_eq, h.waitOver_eq hw, h.quiet_eq, h.feeder_eq]

/-- Whether the part has drained does not depend on the fence's own registers (R488 step 2). -/
theorem fenceDrained_eq (hw : waitsNamed s) : fenceDrained t = fenceDrained s := by
  have tiles : drainedTile t = drainedTile s := funext (h.drainedTile_eq hw)
  simp only [fenceDrained, h.member, h.fifo, tiles, h.egress, h.outReqs]

end FenceOnly

/-! ## GO in a part that has drained -/

/-- The registers of the fence as GO sets them in a part that runs. -/
def fenceSet (s : State) (hold : Bool) : State :=
  let g := pgFlt 0
  setB (setB (setF (setF s g F.FLT_FSTAT_FENCE_STATE 1) g F.FLT_FENCE_RESULT 0) g F.FLT_FENCE_HOLD hold) g F.FLT_FENCE_GO true

/-- A field of FSTAT that does not show the fence reads as before (R489). -/
theorem getF_fenceSet (s : State) (hold : Bool) (f : RegF) (hf : f = F.FLT_FSTAT_FAULTED ∨ f = F.FLT_FSTAT_RESETTING) :
    getF (fenceSet s hold) (pgFlt 0) f = getF s (pgFlt 0) f := by
  simp only [fenceSet, setB]
  rcases hf with rfl | rfl <;>
    rw [getF_setF_ne _ _ _ _ _ _ _ _ (by decide), getF_setF_ne _ _ _ _ _ _ _ _ (by decide),
      getF_setF_ne _ _ _ _ _ _ _ _ (by decide), getF_setF_ne _ _ _ _ _ _ _ _ (by decide)]

theorem faulted_fenceSet (s : State) (hold : Bool) : faulted (fenceSet s hold) = faulted s := by
  unfold faulted; rw [getF_fenceSet s hold _ (.inl rfl)]

theorem fenceState_fenceSet (s : State) (hold : Bool) : fenceState (fenceSet s hold) = 1 := by
  simp only [fenceState, fenceSet, setB]
  rw [getF_setF_ne _ _ _ _ _ _ _ _ (by decide), getF_setF_ne _ _ _ _ _ _ _ _ (by decide),
    getF_setF_ne _ _ _ _ _ _ _ _ (by decide), getF_setF_same _ _ _ _ _ (by decide)]
  rfl

/-- GO changes nothing that the drain looks at: the fence's registers, and the hold of the lead's fetch. -/
theorem fenceOnly_holdFetch (s : State) (hold : Bool) : FenceOnly s (holdFetch (fenceSet s hold) true) := by
  have kept : Kept 0x10001 s (holdFetch (fenceSet s hold) true) :=
    kept_holdFetch _ _ (kept_setB _ _ _ _ _ (kept_setB _ _ _ _ _ (kept_setF _ _ _ _ _ (kept_setF _ _ _ _ _ (.refl _ s) rfl) rfl)
      rfl) rfl) rfl
  refine ⟨kept.member, kept.only.tiles rfl, kept.only.disabled rfl, kept.only.us rfl, kept.only.egress rfl, kept.only.outReqs rfl,
    ?_, fun k h1 h2 => ?_, fun d => ?_, fun d => ?_⟩
  · simp only [halted, faulted, resetting, holdFetch, updSeq_getF, getF_fenceSet s hold F.FLT_FSTAT_FAULTED (.inl rfl),
      getF_fenceSet s hold F.FLT_FSTAT_RESETTING (.inr rfl)]
  · simp only [fenceSet, holdFetch, updSeq_reg]
    rw [reg_setB_ne _ _ _ _ _ _ h2, reg_setB_ne _ _ _ _ _ _ h2, reg_setF_ne _ _ _ _ _ _ h2, reg_setF_ne _ _ _ _ _ _ h1]
  all_goals
    by_cases e : d = 0
    · subst e; rw [holdFetch, updSeq_seq_same]; rfl
    · rw [holdFetch, updSeq_seq_ne _ _ _ _ e]; rfl

/-- GO in a part that runs sets the fence's registers and holds the lead's fetch; what comes then is the flush (R488). -/
theorem fenceGo_eq (s : State) (v : W64) (hv : bitOf v 0 = true) (h0 : fenceState s = 0) (hf : faulted s = false) :
    fenceGo s v = fenceFlush (holdFetch (fenceSet s (bitOf v 1)) true) := by
  have before : faulted (setF (setF s (pgFlt 0) F.FLT_FSTAT_FENCE_STATE 1) (pgFlt 0) F.FLT_FENCE_RESULT 0) = false := by
    unfold faulted
    rw [getF_setF_ne _ _ _ _ _ _ _ _ (by decide), getF_setF_ne _ _ _ _ _ _ _ _ (by decide)]
    exact hf
  have after := (faulted_fenceSet s (bitOf v 1)).trans hf
  unfold fenceSet at after ⊢
  simp [fenceGo, hv, h0, before, after]

/-- A flush of the fence begins: the flushes of the stacks write no register but PCSTAT, and the fence is marked. -/
theorem fenceFlush_fenceFlushed (s : State) (h1 : fenceState s = 1) (hd : faulted s = false → fenceDrained s = true) :
    (fenceFlush s).fenceFlushed = true := by
  unfold fenceFlush
  extract_lets full
  split
  · next stays => cases hf : faulted s <;> simp_all
  · exact (kept_forEach (P := 0x1) _ _ _ (fun _ _ h => kept_flushDirty _ _ h rfl) (.refl _ _)).only.fenceFlushed rfl

theorem exec_checkpointFence (w : Writer) (v : W64) (s : State) : exec (.checkpointFence w v) s = execCheckpointFence w v s := rfl

/-- GO in a part that has drained begins the flushes, where every WAIT names a semaphore of its tile: the clause of O59 that fails
without that hypothesis. -/
theorem checkpointFence_flushes (w : Writer) (v : W64) (s : State) (hw : waitsNamed s) (hv : bitOf v 0 = true) (hr : bitOf v 2 = false)
    (h0 : fenceState s = 0) (hf : faulted s = false) (hd : fenceDrained s = true) :
    ∃ t, exec (.checkpointFence w v) s = .next t ∧ t.fenceFlushed = true := by
  refine ⟨fenceGo s v, ?_, ?_⟩
  · simp [exec_checkpointFence, execCheckpointFence, fenceLet, hr]
  · rw [fenceGo_eq s v hv h0 hf]
    have begun : fenceState (holdFetch (fenceSet s (bitOf v 1)) true) = 1 := by
      simpa only [fenceState, holdFetch, updSeq_getF] using fenceState_fenceSet s (bitOf v 1)
    refine fenceFlush_fenceFlushed _ begun (fun _ => ?_)
    rw [(fenceOnly_holdFetch s (bitOf v 1)).fenceDrained_eq hw, hd]

theorem waitsNamed_of_no_tiles (s : State) (h : s.tiles = []) : waitsNamed s := by
  intro k e sem n hw
  have rest : s.tile k = {} := by unfold State.tile; rw [h]; rfl
  rw [rest] at hw
  cases e <;> cases hw

/-- A part at rest meets the hypotheses of `checkpointFence_flushes`. -/
theorem checkpointFence_flushes_at_rest :
    ∃ t, exec (.checkpointFence .host 1) { State.reset with member := .zh2 } = .next t ∧ t.fenceFlushed = true :=
  checkpointFence_flushes .host 1 { State.reset with member := .zh2 } (waitsNamed_of_no_tiles _ rfl) (by decide) (by decide)
    (by decide +kernel) (by decide +kernel) (by decide +kernel)

/-! ## A WAIT whose semaphore number runs past its tile -/

/-- A semaphore number whose place, counted on from TILE_SEM of tile 0 (R250), is FSTAT of die 0 (R489). -/
def strayLane : Nat := (pgFlt 0 + 0x80 - (pgTile 0 + 0x100)) / 8 * 4

/-- Semaphores stand four to a register without an end, so a WAIT for that number compares with FAULTED, RESETTING and FENCE_STATE. -/
theorem semVal_strayLane (s : State) : semVal s 0 strayLane = fld (s.reg (pgFlt 0 + 0x80)) 0 16 := by
  have place : pgTile 0 + 0x100 + strayLane / 4 * 8 = pgFlt 0 + 0x80 := by decide
  have lane : strayLane % 4 * 16 = 0 := by decide
  unfold semVal
  rw [place, lane]

/-- A part at rest whose MX engine on tile 0 waits until that number is 1 or more: it is 0 until a fence starts, and then 4. -/
def strayWait : State :=
  { State.reset with member := .zh2, tiles := [(0, { gated := false, mx := { wait := some (strayLane, 1) } })] }

/-- Before the fence no engine can issue: the part has drained. -/
theorem fenceDrained_strayWait : fenceDrained strayWait = true := by decide +kernel

/-- GO sets FENCE_STATE, which ends the WAIT: the part has not drained any more, and no flush begins. -/
theorem fenceGo_strayWait : (fenceGo (fenceLet strayWait 1) 1).fenceFlushed = false := by decide +kernel

/-- Refutes O59: the statement lets a WAIT name any number as its semaphore. In `strayWait` the part has drained, so GO should start the
flushes; but GO's own write of FENCE_STATE satisfies the WAIT, and no flush starts. -/
theorem not_fencesAndWatchdogs : ¬ Obligations.FencesAndWatchdogs := by
  unfold Obligations.FencesAndWatchdogs
  intro h
  obtain ⟨-, drained, -⟩ := (h.1 .host 1 strayWait).1 (by decide) (by decide) (by decide +kernel) rfl
  obtain ⟨t, next, -, -, ⟨flushed, -⟩, -⟩ := drained (by decide +kernel) fenceDrained_strayWait
  rw [exec_checkpointFence, execCheckpointFence, Host.Outcome.next.injEq] at next
  rw [← next, fenceGo_strayWait] at flushed
  exact Bool.false_ne_true flushed

end Sys2Proof.Machine
end
